-- ==== Sys2Proof/Word.lean ====
section
/-!
DEFINITION. Word.lean: the bit vectors of the Kelix: bytes, 64-bit registers and addresses, instruction words,
vector register rows, mask registers and accumulator rows (01_machine R8, R22).
-/

namespace Sys2Proof

/-- A byte of memory. -/
abbrev Byte := BitVec 8

/-- A scalar register, a CSR, an address (01_machine R22). -/
abbrev Word := BitVec 64

/-- An instruction word (03_encoding R69). -/
abbrev IWord := BitVec 32

/-- A vector register row of 8 clusters of 4,096 bits; a hart of k clusters uses the low k * 4,096 bits and the
rest is zero (01_machine R15, R22). -/
abbrev Row := BitVec 32768

/-- A mask register (01_machine R22). -/
abbrev Mask := BitVec 8192

/-- An accumulator row: column j is bits [32 j + 31 : 32 j], an FP32 pattern (01_machine R8). -/
abbrev AccRow := BitVec 4096

end Sys2Proof
end

