-- ==== Sys2Proof/Config.lean ====
section
/-!
DEFINITION. Config.lean: the values the spec leaves open, as constants without a body: nothing can evaluate one or
prove a value of one. Each is applied to the plain counter `fresh` of State, or to what it depends on.
-/

namespace Sys2Proof

/-- Which of the agents that can move does (01_machine R10, 14_regions R297, 10_consistency: no order among agents
is promised). -/
opaque Config.turn : Nat → Nat

/-- Core clocks of a die that pass between two observations of CYCLE (01_machine R32). -/
opaque Config.clocks : Nat → Nat

/-- Units of 1/16 ns that pass between two observations of a PTIME (01_machine R34, 19_time R346), and by how much a die's time unit
departs from them (R345, R348). -/
opaque Config.elapsed : Nat → Nat
opaque Config.drift : Nat → Nat → Int

/-- The key by which clusters are taken when more are free than are needed: the lowest first (01_machine R20,
14_regions R297: not promised). -/
opaque Config.clusterKey : Nat → Nat → Nat

/-- The core offered for a placement among those that qualify (14_regions R297: not promised). -/
opaque Config.pick : Nat → Nat

/-- Whether a load through a read-only window keeps a copy, and whether a later load is served from it (09_address
R237). -/
opaque Config.keepCopy : Nat → Bool
opaque Config.serveCopy : Nat → Bool
/-- Whether a line that a die keeps has left for capacity (R237). -/
opaque Config.dropCopy : Nat → Nat → Bool

/-- Whether a queued instruction runs before the scalar side goes on, whether the scalar side goes on before the vector
queue does, and how many elements a later member of a faulting convoy has committed (03_encoding R88, 20_faults R359: no
timing is promised). -/
opaque Config.prompt : Nat → Bool
opaque Config.ahead : Nat → Bool
opaque Config.member : Nat → Nat

/-- Whether no multi-clock instruction still occupies a hart (12_operand_delivery R270: which count of clocks a division takes is
not promised). -/
opaque Config.ready : Nat → Nat → Bool

/-- Whether a wait that may return early does (04_scalar R127). -/
opaque Config.early : Nat → Bool

/-- Whether a posted write with Relaxed Ordering set waits while later ones are performed (15_io_dies R314), and whether a host link
trains, and as CXL: what firmware chooses at boot (R313). -/
opaque Config.postedWaits : Nat → Bool
opaque Config.linkTrains : Nat → Bool
opaque Config.linkCxl : Nat → Bool

/-- The order in which a collective with D = 0 combines (06_memory_isa R202): the position of the next
contribution among those left, and whether it is combined on the left. -/
opaque Config.combineAt : Nat → Nat → Nat
opaque Config.combineLeft : Nat → Nat → Bool
/-- The device among a group's members that forms a node of the tree (17_prog_decode R324: not promised): by the operation's
seed, the node's first rank and its level. -/
opaque Config.nodeHome : Nat → Nat → Nat → Nat

/-- Which value a byte of a copy whose ranges overlap takes: the source byte as it stood at issue, or as the
command has written it (06_memory_isa R191). -/
opaque Config.overlapByte : Nat → Nat → Bool

/-- What QPOP and QPUSH answer on a header that the device has not written (14_regions R298: no behaviour is promised). -/
opaque Config.queueStatus : Nat → BitVec 64

/-- The word that a fetch from a peer that failed receives (09_address R243 gives the data of loads only). -/
opaque Config.fetched : Nat → BitVec 32

/-- SECDED syndrome and location bits of an uncorrectable error (21_service R378): the record's bits [38:7]. -/
opaque Config.errorSite : Nat → BitVec 32

/-- Whether a firmware image's signature is right (21_service R388: where it stands and the key are firmware's). -/
opaque Config.signatureGood : List Byte → Bool

/-- The signed attestation that ATTEST writes (21_service R388). -/
opaque Config.attestation : List Byte → List Byte

/-- The port calibration allowance of a package term (19_time R349). -/
opaque Config.calibration : Nat

/-- The die term that the four times of a timing exchange yield (19_time R348). -/
opaque Config.dieTerm : BitVec 64 → BitVec 64 → BitVec 64 → BitVec 64 → Nat

/-- Whether a hart loaded by LKLD is at user privilege: a locket does not hold the privilege (20_faults R370). -/
opaque Config.savedUser : Nat → Bool

/-- What a rotor pairing's receiver measures in a slot: corrected codewords in units of 1,024, and 255 less the optical margin; and
whether its full training succeeds (18_fabric R339, R340). -/
opaque Config.corrected : Nat → Nat → Nat
opaque Config.opticalLoss : Nat → Nat → Nat
opaque Config.trains : Nat → Nat → Bool
/-- The score of another device's pairing, which this device does not hold, and how many frames this device has relay credit for
(R334: neither how scores are learnt nor the credit's amount is given). -/
opaque Config.onwardScore : Nat → Nat → Nat → Nat
opaque Config.relayRoom : Nat
/-- The bytes of a connection's state in the table at CTAB (R338 gives their number and not their layout). -/
opaque Config.connByte : Nat → Nat → Byte

/-- The region control block of the steward that firmware launches, where it stands, and the locket spaces that firmware
gives the scheduler (14_regions R303, R305). -/
opaque Config.stewardBlock : Nat
opaque Config.stewardRcb : Nat
opaque Config.locketPool : List Nat

end Sys2Proof
end

