-- ==== Sys2Proof/Syntax.lean ====
section
/-!
DEFINITION. Syntax.lean: the instruction words of the Kelix and the steps of its agents, one constructor of
`Instr` for each row of spec/opcode_table.json (03_encoding R69-R91; 95_what_each_step_holds). The operand
structures hold the fields of the formats of R71 as bits, read once by the decoder; the steps that have no
encoding carry what identifies the unit they concern and what arrives with them.
-/

namespace Sys2Proof

/-! ### Operand fields of the instruction words -/

/-- Operands: rd, rs1, rs2 (format S, R71). -/
structure Rrr where
  d : BitVec 5
  a : BitVec 5
  b : BitVec 5
  deriving DecidableEq, Repr

/-- Operands: rd, rs1. -/
structure Rr where
  d : BitVec 5
  a : BitVec 5
  deriving DecidableEq, Repr

/-- Operands: rd, rs1, imm15 (format I). -/
structure RrImm15 where
  d : BitVec 5
  a : BitVec 5
  imm : BitVec 15
  deriving DecidableEq, Repr

/-- Operands: rd, rs1, imm12 (ALUI, R77). -/
structure RrImm12 where
  d : BitVec 5
  a : BitVec 5
  imm : BitVec 12
  deriving DecidableEq, Repr

/-- Operands: rd, rs1, shift amount imm12[5:0] (R77). -/
structure RrSh where
  d : BitVec 5
  a : BitVec 5
  sh : BitVec 6
  deriving DecidableEq, Repr

/-- Operands: rd, imm20 (format U). -/
structure RImm20 where
  d : BitVec 5
  imm : BitVec 20
  deriving DecidableEq, Repr

/-- Operands: rs1, rs2, off12 in words (format BR). -/
structure BrOff where
  a : BitVec 5
  b : BitVec 5
  off : BitVec 12
  deriving DecidableEq, Repr

/-- Operands: rd, off20 (formats J and U). -/
structure ROff20 where
  d : BitVec 5
  off : BitVec 20
  deriving DecidableEq, Repr

/-- Operands: rd, rs1, byte offset off12 (LDS, R77). -/
structure LoadOff where
  d : BitVec 5
  a : BitVec 5
  off : BitVec 12
  deriving DecidableEq, Repr

/-- Operands: rs2, rs1, byte offset off13 (STS, format SS). -/
structure StoreOff where
  b : BitVec 5
  a : BitVec 5
  off : BitVec 13
  deriving DecidableEq, Repr

/-- Operands: rd, rs1, rs2, width w, scope (AMOS, R77). -/
structure AmoOps where
  d : BitVec 5
  a : BitVec 5
  b : BitVec 5
  wide : BitVec 1
  scope : BitVec 3
  deriving DecidableEq, Repr

/-- Operands: rd, CSR number. -/
structure CsrRd where
  d : BitVec 5
  csr : BitVec 12
  deriving DecidableEq, Repr

/-- Operands: rd, rs1, CSR number (R77). -/
structure CsrOps where
  d : BitVec 5
  a : BitVec 5
  csr : BitVec 12
  deriving DecidableEq, Repr

/-- Operands: rs1, rs2. -/
structure Rs2 where
  a : BitVec 5
  b : BitVec 5
  deriving DecidableEq, Repr

/-- Operands: rs1. -/
structure Rs1 where
  a : BitVec 5
  deriving DecidableEq, Repr

/-- Operands: rd, rs1, type code (R78). -/
structure SetvlOps where
  d : BitVec 5
  a : BitVec 5
  ty : BitVec 4
  deriving DecidableEq, Repr

/-- Operands: rd, four ways when 1 (R78). -/
structure ForkOps where
  d : BitVec 5
  four : BitVec 1
  deriving DecidableEq, Repr

/-- Operands: rd, scope, W bit (R78). -/
structure PhaseOps where
  d : BitVec 5
  scope : BitVec 3
  win : BitVec 1
  deriving DecidableEq, Repr

/-- Operands: rd, rs1, counter (R78). -/
structure WaitcOps where
  d : BitVec 5
  a : BitVec 5
  ctr : BitVec 3
  deriving DecidableEq, Repr

/-- Operands: rd, rs1, context slot. -/
structure RrSlot where
  d : BitVec 5
  a : BitVec 5
  slot : BitVec 3
  deriving DecidableEq, Repr

/-- Operands: rd. -/
structure Rd where
  d : BitVec 5
  deriving DecidableEq, Repr

/-- Operands: rd, counter. -/
structure RdCtr where
  d : BitVec 5
  ctr : BitVec 3
  deriving DecidableEq, Repr

/-- Operands: rs1, counter. -/
structure RsCtr where
  a : BitVec 5
  ctr : BitVec 3
  deriving DecidableEq, Repr

/-- Operands: B, vd, vs1 or xs1, vs2, L, G, M (formats V and VX). -/
structure VOps where
  bBit : BitVec 1
  d : BitVec 5
  a : BitVec 5
  b : BitVec 5
  l : BitVec 2
  g : BitVec 2
  m : BitVec 2
  deriving DecidableEq, Repr

/-- Operands: B, vd, vs2, L, G, M. -/
structure VUnOps where
  bBit : BitVec 1
  d : BitVec 5
  b : BitVec 5
  l : BitVec 2
  g : BitVec 2
  m : BitVec 2
  deriving DecidableEq, Repr

/-- Operands: B, vd, vs2, L, G, M, source type F (R80). -/
structure VCvtOps where
  bBit : BitVec 1
  d : BitVec 5
  b : BitVec 5
  l : BitVec 2
  g : BitVec 2
  m : BitVec 2
  src : BitVec 4
  deriving DecidableEq, Repr

/-- Operands: B, vd, codebook, vs2, L, G, M (R80). -/
structure VCvtC4Ops where
  bBit : BitVec 1
  d : BitVec 5
  cb : BitVec 3
  b : BitVec 5
  l : BitVec 2
  g : BitVec 2
  m : BitVec 2
  deriving DecidableEq, Repr

/-- Operands: B, vd, xs1, L, G, M. -/
structure VXOps where
  bBit : BitVec 1
  d : BitVec 5
  a : BitVec 5
  l : BitVec 2
  g : BitVec 2
  m : BitVec 2
  deriving DecidableEq, Repr

/-- Operands: B, vd, L, G, M. -/
structure VIotaOps where
  bBit : BitVec 1
  d : BitVec 5
  l : BitVec 2
  g : BitVec 2
  m : BitVec 2
  deriving DecidableEq, Repr

/-- Operands: B, codebook, xs1 (R80). -/
structure VCbldOps where
  bBit : BitVec 1
  cb : BitVec 3
  a : BitVec 5
  deriving DecidableEq, Repr

/-- Operands: B, mask destination, vs1 or xs1, vs2, L, M (R81). -/
structure VCmpOps where
  bBit : BitVec 1
  d : BitVec 3
  a : BitVec 5
  b : BitVec 5
  l : BitVec 2
  m : BitVec 2
  deriving DecidableEq, Repr

/-- Operands: B, mD, mA, mB, L (R81). -/
structure MskBinOps where
  bBit : BitVec 1
  d : BitVec 3
  a : BitVec 3
  b : BitVec 3
  l : BitVec 2
  deriving DecidableEq, Repr

/-- Operands: B, mD, mB, L (R81). -/
structure MskUnOps where
  bBit : BitVec 1
  d : BitVec 3
  b : BitVec 3
  l : BitVec 2
  deriving DecidableEq, Repr

/-- Operands: B, mD, L (R81). -/
structure MskSetOps where
  bBit : BitVec 1
  d : BitVec 3
  l : BitVec 2
  deriving DecidableEq, Repr

/-- Operands: B, xD, mB, L (R81). -/
structure MskScalOps where
  bBit : BitVec 1
  d : BitVec 5
  b : BitVec 3
  l : BitVec 2
  deriving DecidableEq, Repr

/-- Operands: B, vd, xs1 or vs1, vs2, L, M (R81). -/
structure VPermOps where
  bBit : BitVec 1
  d : BitVec 5
  a : BitVec 5
  b : BitVec 5
  l : BitVec 2
  m : BitVec 2
  deriving DecidableEq, Repr

/-- Operands: B, xD or vd, vs2, L, M (R81). -/
structure VRedOps where
  bBit : BitVec 1
  d : BitVec 5
  b : BitVec 5
  l : BitVec 2
  m : BitVec 2
  deriving DecidableEq, Repr

/-- Operands: B, xD or vd, xs1, vs2 or xs2, L (R81). -/
structure VExtOps where
  bBit : BitVec 1
  d : BitVec 5
  a : BitVec 5
  b : BitVec 5
  l : BitVec 2
  deriving DecidableEq, Repr

/-- Operands: B, vd or vs3, xs1, xs2, L, G, M, counter C, ordered O (format VM). -/
structure VMemOps where
  bBit : BitVec 1
  d : BitVec 5
  a : BitVec 5
  b : BitVec 5
  l : BitVec 2
  g : BitVec 2
  m : BitVec 2
  ctr : BitVec 3
  ord : BitVec 1
  deriving DecidableEq, Repr

/-- Operands: B, vd or vs3, xs1, vs2, L, M, counter C, ordered O (VLX, VSX). -/
structure VIdxOps where
  bBit : BitVec 1
  d : BitVec 5
  a : BitVec 5
  b : BitVec 5
  l : BitVec 2
  m : BitVec 2
  ctr : BitVec 3
  ord : BitVec 1
  deriving DecidableEq, Repr

/-- Operands: B, vd, xs1, vs2, L, M, counter C, return T (format VA). -/
structure VAmoOps where
  bBit : BitVec 1
  d : BitVec 5
  a : BitVec 5
  b : BitVec 5
  l : BitVec 2
  m : BitVec 2
  ctr : BitVec 3
  ret : BitVec 1
  deriving DecidableEq, Repr

/-- Operands: rd, rs1, rs2, rs3, slot (format Q). -/
structure EngOps where
  d : BitVec 5
  a : BitVec 5
  b : BitVec 5
  e : BitVec 5
  slot : BitVec 3
  deriving DecidableEq, Repr

/-- Operands: rd, rs2, rs3, slot (format Q). -/
structure PrefOps where
  d : BitVec 5
  b : BitVec 5
  e : BitVec 5
  slot : BitVec 3
  deriving DecidableEq, Repr

/-- Operands: rd, rs1, rs2, slot (format Q). -/
structure EcfgOps where
  d : BitVec 5
  a : BitVec 5
  b : BitVec 5
  slot : BitVec 3
  deriving DecidableEq, Repr

/-- Operands: rd, slot (format Q). -/
structure EcntOps where
  d : BitVec 5
  slot : BitVec 3
  deriving DecidableEq, Repr

/-- Operands: B, xs1, xs2, L (R85). -/
structure MlsOps where
  bBit : BitVec 1
  a : BitVec 5
  b : BitVec 5
  l : BitVec 2
  deriving DecidableEq, Repr

/-- Operands: B, vs, xs1, L, G, M, affine A, overwrite O (R85). -/
structure MstrOps where
  bBit : BitVec 1
  vs : BitVec 5
  a : BitVec 5
  l : BitVec 2
  g : BitVec 2
  m : BitVec 2
  aff : BitVec 1
  ovw : BitVec 1
  deriving DecidableEq, Repr

/-- Operands: B, vs1, xs1 field number a, vs2, L, M (R85). -/
structure MopOps where
  bBit : BitVec 1
  vs : BitVec 5
  a : BitVec 5
  b : BitVec 5
  l : BitVec 2
  m : BitVec 2
  deriving DecidableEq, Repr

/-- Operands: B, xs1, xs2, W, C, carry slot (R85). -/
structure MscanOps where
  bBit : BitVec 1
  a : BitVec 5
  b : BitVec 5
  wout : BitVec 1
  cin : BitVec 1
  slot : BitVec 2
  deriving DecidableEq, Repr

/-- Operands: B, xs1, xs2, carry slot (R85). -/
structure MscanfOps where
  bBit : BitVec 1
  a : BitVec 5
  b : BitVec 5
  slot : BitVec 2
  deriving DecidableEq, Repr

/-- Operands: B, xs1, xs2 (R85). -/
structure MaccZrOps where
  bBit : BitVec 1
  a : BitVec 5
  b : BitVec 5
  deriving DecidableEq, Repr

/-- Operands: B, xs3, xs1, xs2 (R85). -/
structure MaccCpOps where
  bBit : BitVec 1
  e : BitVec 5
  a : BitVec 5
  b : BitVec 5
  deriving DecidableEq, Repr

/-- Operands: B, vd or vs, carry slot, L (R85). -/
structure MaccScOps where
  bBit : BitVec 1
  d : BitVec 5
  slot : BitVec 2
  l : BitVec 2
  deriving DecidableEq, Repr

/-- Operands: n - 1, k - 1, s (format REP). -/
structure RepOps where
  n : BitVec 4
  k : BitVec 6
  s : BitVec 3
  deriving DecidableEq, Repr

/-- Operands: the bits of the word beside its major (R75). -/
structure UdfOps where
  u : BitVec 1
  v : BitVec 25
  deriving DecidableEq, Repr

/-! ### What arrives with the steps that have no encoding -/

/-- A contribution or a stamped write of a collective (06_memory_isa R197-R203, 10_consistency R263): the
member list that identifies the group, the operation's number in it, the ranks whose contributions are combined in it (one
for a contribution, all for a result) and the levels of the tree that it stands at (17_prog_decode R324), the collective
word, its bytes and the flags of its combinations, and for an ordered multicast the key (stamp, device, hart). -/
structure CollMsg where
  group : List (BitVec 32)
  index : Nat
  ranks : List Nat
  level : Nat
  word : Word
  data : List Byte
  flags : BitVec 6
  stamp : Word
  dev : Nat
  hart : Nat
  deriving DecidableEq, Repr

/-- What a COLLDATA record carries a part of (18_fabric R336): the message without its bytes, where the record's bytes begin in them,
and how many there are. The manual gives no layout of a COLLDATA record's data beyond the contribution or result (DESIGN CHOICE, log
entry 61). -/
structure CollPart where
  msg : CollMsg
  off : Nat
  total : Nat
  deriving DecidableEq, Repr

/-- A record on a link (18_fabric R336): its header fields and its data bytes, with the device and the die it
comes from (the forwarding header's SDEV, R335). -/
structure Record where
  srcDev : Nat
  srcDie : Nat
  op : BitVec 8
  len : Nat
  shart : BitVec 11
  trk : Bool
  tag : BitVec 32
  addr : Word
  data : List Byte
  coll : Option CollPart
  deriving DecidableEq, Repr

/-- A frame on a port (18_fabric R335, R337, R343): the destination and source MAC addresses of Ethernet-switch mode, the 48-bit
forwarding header, the EtherType, the connection header, the acknowledgement bitmap (zero where SACKP is clear), the 32 bytes of a
time message (class 3), and whether its FCS is right. -/
structure Frame where
  macs : Option (BitVec 48 × BitVec 48)
  fwd : BitVec 48
  etype : BitVec 16
  chdr : BitVec 64
  sack : BitVec 64
  time : List Byte
  good : Bool
  recs : List Record
  deriving DecidableEq, Repr

/-- A frame at a port of an I/O die: the port's number there (18_fabric R332). -/
structure PortFrame where
  port : Nat
  frame : Frame
  deriving DecidableEq, Repr

/-- A COLLDATA record and the device that it is for, this one or one that it relays to (17_prog_decode R324). -/
structure CollIn where
  dest : Nat
  rcd : Record
  deriving DecidableEq, Repr

/-- A hold on a receive channel (18_fabric R326, R327): the writer, its sequence number, the generation bit its
beats carry, whether its CRC is right, and the records it holds, each with whether it is of the ordered class (R328). -/
structure Hold where
  writer : Nat
  seq : BitVec 8
  gen : Bool
  good : Bool
  recs : List (Bool × Record)
  deriving DecidableEq, Repr

/-- Where a host access arrives (15_io_dies R313, R314): the I/O die of its link, its Relaxed Ordering attribute and its BAR. -/
structure HostBar where
  link : Nat
  ro : Bool
  bar : Nat
  deriving DecidableEq, Repr

/-- A time message (19_time R349), with the device it comes from. -/
structure TimeMsg where
  src : Nat
  gmpri : BitVec 8
  seq : BitVec 16
  gmdev : BitVec 14
  t : Word
  bound : Word
  deriving DecidableEq, Repr

/-- A unit that DRAIN and REJOIN name (21_service R384). -/
inductive SvcUnit where
  | core (die core : Nat)
  | die (die : Nat)
  | engine (iod n : Nat)
  | port (iod n : Nat)
  | iod (iod : Nat)
  deriving DecidableEq, Repr

/-! ### The instructions

The first 271 constructors are the instruction words (those without operand fields last but for the register
arithmetic); the rest are the steps without an encoding. A hart is
named by its slot number, die * 128 + core * 8 + slot; a core by die * 16 + core; an I/O die by its die number,
8 or 9; a context by (die - 8) * 2048 + 1024 (collective) or 0 (engine) + its number. -/
inductive Instr where
  /-- MIN (R100). -/
  | min (f : Rrr)
  /-- MAX (R100). -/
  | max (f : Rrr)
  /-- MINN (R100). -/
  | minn (f : Rrr)
  /-- MAXN (R100). -/
  | maxn (f : Rrr)
  /-- CLZ (R100). -/
  | clz (f : Rr)
  /-- CTZ (R100). -/
  | ctz (f : Rr)
  /-- POPC (R100). -/
  | popc (f : Rr)
  /-- ROL (R100). -/
  | rol (f : Rrr)
  /-- ROR (R100). -/
  | ror (f : Rrr)
  /-- ADDW (R100). -/
  | addw (f : Rrr)
  /-- SUBW (R100). -/
  | subw (f : Rrr)
  /-- ADDI (R102). -/
  | addi (f : RrImm15)
  /-- ANDI (R102). -/
  | andi (f : RrImm12)
  /-- ORI (R102). -/
  | ori (f : RrImm12)
  /-- XORI (R102). -/
  | xori (f : RrImm12)
  /-- SLTI (R102). -/
  | slti (f : RrImm12)
  /-- SLTNI (R102). -/
  | sltni (f : RrImm12)
  /-- SLLI (R102). -/
  | slli (f : RrSh)
  /-- SRLI (R102). -/
  | srli (f : RrSh)
  /-- SRAI (R102). -/
  | srai (f : RrSh)
  /-- LUI (R102). -/
  | lui (f : RImm20)
  /-- AUIPC (R102). -/
  | auipc (f : RImm20)
  /-- BEQ (R103). -/
  | beq (f : BrOff)
  /-- BNE (R103). -/
  | bne (f : BrOff)
  /-- BLT (R103). -/
  | blt (f : BrOff)
  /-- BGE (R103). -/
  | bge (f : BrOff)
  /-- BLTN (R103). -/
  | bltn (f : BrOff)
  /-- BGEN (R103). -/
  | bgen (f : BrOff)
  /-- JAL (R103). -/
  | jal (f : ROff20)
  /-- JALR (R104). -/
  | jalr (f : RrImm15)
  /-- LDB (R105). -/
  | ldb (f : LoadOff)
  /-- LDH (R105). -/
  | ldh (f : LoadOff)
  /-- LDW (R105). -/
  | ldw (f : LoadOff)
  /-- LDD (R105). -/
  | ldd (f : LoadOff)
  /-- LDBS (R105). -/
  | ldbs (f : LoadOff)
  /-- LDHS (R105). -/
  | ldhs (f : LoadOff)
  /-- LDWS (R105). -/
  | ldws (f : LoadOff)
  /-- STB (R105). -/
  | stb (f : StoreOff)
  /-- STH (R105). -/
  | sth (f : StoreOff)
  /-- STW (R105). -/
  | stw (f : StoreOff)
  /-- STD (R105). -/
  | std (f : StoreOff)
  /-- AMOS_ADD (R110). -/
  | amosAdd (f : AmoOps)
  /-- AMOS_AND (R110). -/
  | amosAnd (f : AmoOps)
  /-- AMOS_OR (R110). -/
  | amosOr (f : AmoOps)
  /-- AMOS_XOR (R110). -/
  | amosXor (f : AmoOps)
  /-- AMOS_MIN (R110). -/
  | amosMin (f : AmoOps)
  /-- AMOS_MAX (R110). -/
  | amosMax (f : AmoOps)
  /-- AMOS_MINN (R110). -/
  | amosMinn (f : AmoOps)
  /-- AMOS_MAXN (R110). -/
  | amosMaxn (f : AmoOps)
  /-- AMOS_SWAP (R110). -/
  | amosSwap (f : AmoOps)
  /-- AMOS_CAS (R110). -/
  | amosCas (f : AmoOps)
  /-- LDPC (R109). -/
  | ldpc (f : ROff20)
  /-- CSRR (R113). -/
  | csrr (f : CsrRd)
  /-- CSRW (R113). -/
  | csrw (f : CsrOps)
  /-- CSRS (R113). -/
  | csrs (f : CsrOps)
  /-- CSRC (R113). -/
  | csrc (f : CsrOps)
  /-- LKSV (R376). -/
  | lksv (f : Rs2)
  /-- LKLD (R376). -/
  | lkld (f : Rs2)
  /-- HREL (R128). -/
  | hrel (f : Rs1)
  /-- SETVL (R116). -/
  | setvl (f : SetvlOps)
  /-- FORK (R119). -/
  | fork (f : ForkOps)
  /-- LAUNCH (R123). -/
  | launch (f : Rr)
  /-- SHARE (R117). -/
  | share (f : Rr)
  /-- PHASE_REL (R177). -/
  | phaseRel (f : PhaseOps)
  /-- PHASE_ACQ (R177). -/
  | phaseAcq (f : PhaseOps)
  /-- PHASE_AR (R177). -/
  | phaseAr (f : PhaseOps)
  /-- WAITC (R181). -/
  | waitc (f : WaitcOps)
  /-- WAITT (R182). -/
  | waitt (f : RrSlot)
  /-- WAITG (R183). -/
  | waitg (f : Rrr)
  /-- WAITW_EQ (R184). -/
  | waitwEq (f : Rrr)
  /-- WAITW_NE (R184). -/
  | waitwNe (f : Rrr)
  /-- WAITW_GEN (R184). -/
  | waitwGen (f : Rrr)
  /-- WAITW_LTN (R184). -/
  | waitwLtn (f : Rrr)
  /-- TIME (R185). -/
  | time (f : Rd)
  /-- WINFL (R186). -/
  | winfl (f : Rs2)
  /-- QPOP (R188). -/
  | qpop (f : Rrr)
  /-- QPUSH (R189). -/
  | qpush (f : Rrr)
  /-- CCRD (R187). -/
  | ccrd (f : RdCtr)
  /-- CCSET (R187). -/
  | ccset (f : RsCtr)
  /-- VADD (R139). -/
  | vadd (f : VOps)
  /-- VSUB (R139). -/
  | vsub (f : VOps)
  /-- VRSUB (R139). -/
  | vrsub (f : VOps)
  /-- VMUL (R139). -/
  | vmul (f : VOps)
  /-- VMULH (R139). -/
  | vmulh (f : VOps)
  /-- VMACC (R139). -/
  | vmacc (f : VOps)
  /-- VMIN (R139). -/
  | vmin (f : VOps)
  /-- VMAX (R139). -/
  | vmax (f : VOps)
  /-- VAND (R139). -/
  | vand (f : VOps)
  /-- VOR (R139). -/
  | vor (f : VOps)
  /-- VXOR (R139). -/
  | vxor (f : VOps)
  /-- VSLL (R139). -/
  | vsll (f : VOps)
  /-- VSRL (R139). -/
  | vsrl (f : VOps)
  /-- VSRA (R139). -/
  | vsra (f : VOps)
  /-- VADDS (R139). -/
  | vadds (f : VOps)
  /-- VSUBS (R139). -/
  | vsubs (f : VOps)
  /-- VADD_X (R139). -/
  | vaddX (f : VOps)
  /-- VSUB_X (R139). -/
  | vsubX (f : VOps)
  /-- VRSUB_X (R139). -/
  | vrsubX (f : VOps)
  /-- VMUL_X (R139). -/
  | vmulX (f : VOps)
  /-- VMULH_X (R139). -/
  | vmulhX (f : VOps)
  /-- VMACC_X (R139). -/
  | vmaccX (f : VOps)
  /-- VMIN_X (R139). -/
  | vminX (f : VOps)
  /-- VMAX_X (R139). -/
  | vmaxX (f : VOps)
  /-- VAND_X (R139). -/
  | vandX (f : VOps)
  /-- VOR_X (R139). -/
  | vorX (f : VOps)
  /-- VXOR_X (R139). -/
  | vxorX (f : VOps)
  /-- VSLL_X (R139). -/
  | vsllX (f : VOps)
  /-- VSRL_X (R139). -/
  | vsrlX (f : VOps)
  /-- VSRA_X (R139). -/
  | vsraX (f : VOps)
  /-- VADDS_X (R139). -/
  | vaddsX (f : VOps)
  /-- VSUBS_X (R139). -/
  | vsubsX (f : VOps)
  /-- VFADD (R140). -/
  | vfadd (f : VOps)
  /-- VFSUB (R140). -/
  | vfsub (f : VOps)
  /-- VFMUL (R140). -/
  | vfmul (f : VOps)
  /-- VFDIV (R140). -/
  | vfdiv (f : VOps)
  /-- VFMIN (R140). -/
  | vfmin (f : VOps)
  /-- VFMAX (R140). -/
  | vfmax (f : VOps)
  /-- VFMA (R140). -/
  | vfma (f : VOps)
  /-- VFMS (R140). -/
  | vfms (f : VOps)
  /-- VFNMA (R140). -/
  | vfnma (f : VOps)
  /-- VFNMS (R140). -/
  | vfnms (f : VOps)
  /-- VFSGNJ (R140). -/
  | vfsgnj (f : VOps)
  /-- VFSGNJN (R140). -/
  | vfsgnjn (f : VOps)
  /-- VFSGNJX (R140). -/
  | vfsgnjx (f : VOps)
  /-- VFADD_X (R140). -/
  | vfaddX (f : VOps)
  /-- VFSUB_X (R140). -/
  | vfsubX (f : VOps)
  /-- VFMUL_X (R140). -/
  | vfmulX (f : VOps)
  /-- VFDIV_X (R140). -/
  | vfdivX (f : VOps)
  /-- VFMIN_X (R140). -/
  | vfminX (f : VOps)
  /-- VFMAX_X (R140). -/
  | vfmaxX (f : VOps)
  /-- VFMA_X (R140). -/
  | vfmaX (f : VOps)
  /-- VFMS_X (R140). -/
  | vfmsX (f : VOps)
  /-- VFNMA_X (R140). -/
  | vfnmaX (f : VOps)
  /-- VFNMS_X (R140). -/
  | vfnmsX (f : VOps)
  /-- VFSGNJ_X (R140). -/
  | vfsgnjX (f : VOps)
  /-- VFSGNJN_X (R140). -/
  | vfsgnjnX (f : VOps)
  /-- VFSGNJX_X (R140). -/
  | vfsgnjxX (f : VOps)
  /-- VFSQRT (R141). -/
  | vfsqrt (f : VUnOps)
  /-- VFEXP2 (R58). -/
  | vfexp2 (f : VUnOps)
  /-- VFABS (R141). -/
  | vfabs (f : VUnOps)
  /-- VFNEG (R141). -/
  | vfneg (f : VUnOps)
  /-- VFCLASS (R142). -/
  | vfclass (f : VUnOps)
  /-- VFRINT (R141). -/
  | vfrint (f : VUnOps)
  /-- VCLZ (R143). -/
  | vclz (f : VUnOps)
  /-- VCTZ (R143). -/
  | vctz (f : VUnOps)
  /-- VPOPC (R143). -/
  | vpopc (f : VUnOps)
  /-- VNOT (R143). -/
  | vnot (f : VUnOps)
  /-- VABS (R143). -/
  | vabs (f : VUnOps)
  /-- VNEG (R143). -/
  | vneg (f : VUnOps)
  /-- VCVT (R144). -/
  | vcvt (f : VCvtOps)
  /-- VCVT_C4 (R144). -/
  | vcvtC4 (f : VCvtC4Ops)
  /-- VMV (R145). -/
  | vmv (f : VUnOps)
  /-- VBCAST (R145). -/
  | vbcast (f : VXOps)
  /-- VMERGE (R145). -/
  | vmerge (f : VOps)
  /-- VIOTA (R145). -/
  | viota (f : VIotaOps)
  /-- VCBLD (R146). -/
  | vcbld (f : VCbldOps)
  /-- VCMP_EQ (R147). -/
  | vcmpEq (f : VCmpOps)
  /-- VCMP_NE (R147). -/
  | vcmpNe (f : VCmpOps)
  /-- VCMP_LT (R147). -/
  | vcmpLt (f : VCmpOps)
  /-- VCMP_LE (R147). -/
  | vcmpLe (f : VCmpOps)
  /-- VCMP_GT (R147). -/
  | vcmpGt (f : VCmpOps)
  /-- VCMP_GE (R147). -/
  | vcmpGe (f : VCmpOps)
  /-- VCMP_UNORD (R147). -/
  | vcmpUnord (f : VCmpOps)
  /-- VCMP_ORD (R147). -/
  | vcmpOrd (f : VCmpOps)
  /-- VCMP_EQ_X (R147). -/
  | vcmpEqX (f : VCmpOps)
  /-- VCMP_NE_X (R147). -/
  | vcmpNeX (f : VCmpOps)
  /-- VCMP_LT_X (R147). -/
  | vcmpLtX (f : VCmpOps)
  /-- VCMP_LE_X (R147). -/
  | vcmpLeX (f : VCmpOps)
  /-- VCMP_GT_X (R147). -/
  | vcmpGtX (f : VCmpOps)
  /-- VCMP_GE_X (R147). -/
  | vcmpGeX (f : VCmpOps)
  /-- VCMP_UNORD_X (R147). -/
  | vcmpUnordX (f : VCmpOps)
  /-- VCMP_ORD_X (R147). -/
  | vcmpOrdX (f : VCmpOps)
  /-- MAND (R148). -/
  | mand (f : MskBinOps)
  /-- MOR (R148). -/
  | mor (f : MskBinOps)
  /-- MXOR (R148). -/
  | mxor (f : MskBinOps)
  /-- MANDN (R148). -/
  | mandn (f : MskBinOps)
  /-- MNOT (R148). -/
  | mnot (f : MskUnOps)
  /-- MSET (R148). -/
  | mset (f : MskSetOps)
  /-- MCLR (R148). -/
  | mclr (f : MskSetOps)
  /-- MMV (R148). -/
  | mmv (f : MskUnOps)
  /-- MPOPC (R148). -/
  | mpopc (f : MskScalOps)
  /-- MFIRST (R148). -/
  | mfirst (f : MskScalOps)
  /-- MSBF (R148). -/
  | msbf (f : MskUnOps)
  /-- VSLUP (R149). -/
  | vslup (f : VPermOps)
  /-- VSLDN (R149). -/
  | vsldn (f : VPermOps)
  /-- VGATHER (R150). -/
  | vgather (f : VPermOps)
  /-- VCOMPRESS (R151). -/
  | vcompress (f : VRedOps)
  /-- VEXPAND (R151). -/
  | vexpand (f : VRedOps)
  /-- VEXTRACT (R152). -/
  | vextract (f : VExtOps)
  /-- VINSERT (R152). -/
  | vinsert (f : VExtOps)
  /-- VROWROT (R153). -/
  | vrowrot (f : VOps)
  /-- VREDSUM (R154). -/
  | vredsum (f : VRedOps)
  /-- VREDMIN (R154). -/
  | vredmin (f : VRedOps)
  /-- VREDMAX (R154). -/
  | vredmax (f : VRedOps)
  /-- VREDAND (R154). -/
  | vredand (f : VRedOps)
  /-- VREDOR (R154). -/
  | vredor (f : VRedOps)
  /-- VREDXOR (R154). -/
  | vredxor (f : VRedOps)
  /-- VFSUMO (R59). -/
  | vfsumo (f : VRedOps)
  /-- VFSUMT (R60). -/
  | vfsumt (f : VRedOps)
  /-- VFREDMIN (R154). -/
  | vfredmin (f : VRedOps)
  /-- VFREDMAX (R154). -/
  | vfredmax (f : VRedOps)
  /-- VLU (R158). -/
  | vlu (f : VMemOps)
  /-- VLS (R158). -/
  | vls (f : VMemOps)
  /-- VLX (R160). -/
  | vlx (f : VIdxOps)
  /-- VLD (R161). -/
  | vld (f : VMemOps)
  /-- VSU (R158). -/
  | vsu (f : VMemOps)
  /-- VSS (R158). -/
  | vss (f : VMemOps)
  /-- VSX (R160). -/
  | vsx (f : VIdxOps)
  /-- VSD (R161). -/
  | vsd (f : VMemOps)
  /-- VAMOA_ADD (R173). -/
  | vamoaAdd (f : VAmoOps)
  /-- VAMOA_AND (R173). -/
  | vamoaAnd (f : VAmoOps)
  /-- VAMOA_OR (R173). -/
  | vamoaOr (f : VAmoOps)
  /-- VAMOA_XOR (R173). -/
  | vamoaXor (f : VAmoOps)
  /-- VAMOB_MIN (R173). -/
  | vamobMin (f : VAmoOps)
  /-- VAMOB_MAX (R173). -/
  | vamobMax (f : VAmoOps)
  /-- VAMOB_SWAP (R173). -/
  | vamobSwap (f : VAmoOps)
  /-- VAMOB_CAS (R173). -/
  | vamobCas (f : VAmoOps)
  /-- VAMOC_FADD (R173). -/
  | vamocFadd (f : VAmoOps)
  /-- VAMOC_FMIN (R173). -/
  | vamocFmin (f : VAmoOps)
  /-- VAMOC_FMAX (R173). -/
  | vamocFmax (f : VAmoOps)
  /-- COPY (R191). -/
  | copy (f : EngOps)
  /-- COPY2 (R191). -/
  | copy2 (f : EngOps)
  /-- COPYX (R191). -/
  | copyx (f : EngOps)
  /-- FILL (R191). -/
  | fill (f : EngOps)
  /-- MMODE_ON (R207). -/
  | mmodeOn (f : Rd)
  /-- MSTAT (R224). -/
  | mstat (f : Rd)
  /-- MSTR (R217). -/
  | mstr (f : MstrOps)
  /-- PREF (R195). -/
  | pref (f : PrefOps)
  /-- ECFG (R195). -/
  | ecfg (f : EcfgOps)
  /-- ECNT (R195). -/
  | ecnt (f : EcntOps)
  /-- ERES (R312). -/
  | eres (f : RrSlot)
  /-- COLL (R197). -/
  | coll (f : EngOps)
  /-- MLS (R214). -/
  | mls (f : MlsOps)
  /-- MOP (R219). -/
  | mop (f : MopOps)
  /-- MSCAN (R220). -/
  | mscan (f : MscanOps)
  /-- MSCANF (R221). -/
  | mscanf (f : MscanfOps)
  /-- MACC_RD (R223). -/
  | maccRd (f : VXOps)
  /-- MACC_WR (R223). -/
  | maccWr (f : VXOps)
  /-- MACC_ZR (R223). -/
  | maccZr (f : MaccZrOps)
  /-- MACC_CP (R223). -/
  | maccCp (f : MaccCpOps)
  /-- MACC_SCRD (R223). -/
  | maccScrd (f : MaccScOps)
  /-- MACC_SCWR (R223). -/
  | maccScwr (f : MaccScOps)
  /-- REP (R89). -/
  | rep (f : RepOps)
  /-- UDF (R75). -/
  | udf (f : UdfOps)
  /-- SVC (R125). -/
  | svc
  /-- TRET (R129). -/
  | tret
  /-- BRK (R125). -/
  | brk
  /-- IFENCE (R126). -/
  | ifence
  /-- WFI (R127). -/
  | wfi
  /-- MERGE (R120). -/
  | merge
  /-- END (R122). -/
  | endHart
  /-- YIELD (R118). -/
  | yield
  /-- MMODE_OFF (R208). -/
  | mmodeOff
  /-- MSWAP (R216). -/
  | mswap
  /-- ADD (R100). -/
  | add (f : Rrr)
  /-- SUB (R100). -/
  | sub (f : Rrr)
  /-- AND (R100). -/
  | and (f : Rrr)
  /-- OR (R100). -/
  | or (f : Rrr)
  /-- XOR (R100). -/
  | xor (f : Rrr)
  /-- SLL (R100). -/
  | sll (f : Rrr)
  /-- SRL (R100). -/
  | srl (f : Rrr)
  /-- SRA (R100). -/
  | sra (f : Rrr)
  /-- SLT (R100). -/
  | slt (f : Rrr)
  /-- SLTN (R100). -/
  | sltn (f : Rrr)
  /-- MUL (R100). -/
  | mul (f : Rrr)
  /-- MULH (R100). -/
  | mulh (f : Rrr)
  /-- MULHN (R100). -/
  | mulhn (f : Rrr)
  /-- DIV (R101). -/
  | div (f : Rrr)
  /-- DIVN (R101). -/
  | divn (f : Rrr)
  /-- REM (R101). -/
  | rem (f : Rrr)
  /-- REMN (R101). -/
  | remn (f : Rrr)
  /-- CONVOY_START (R272): a step without an encoding. -/
  | convoyStart (h : Nat)
  /-- GROUP_START (R274): a step without an encoding. -/
  | groupStart (h : Nat)
  /-- LOAD_GROUP_LANDING (R275): a step without an encoding. -/
  | loadGroupLanding (h row grp : Nat)
  /-- CONVOY_DRAIN (R272): a step without an encoding. -/
  | convoyDrain (h : Nat)
  /-- VECTOR_TO_SCALAR_WRITE (R155): a step without an encoding. -/
  | vectorToScalarWrite (h : Nat)
  /-- NONBLOCKING_COMPLETE (R169): a step without an encoding. -/
  | nonblockingComplete (h ctr num : Nat)
  /-- VECTOR_TRAP (R358): a step without an encoding. -/
  | vectorTrap (h pos : Nat) (cause : Byte) (tval log : Word)
  /-- ASYNC_TRAP (R130): a step without an encoding. -/
  | asyncTrap (h : Nat)
  /-- STOPPED_HART_SAVE (R130): a step without an encoding. -/
  | stoppedHartSave (h : Nat)
  /-- SHARE_ADOPTION (R19): a step without an encoding. -/
  | shareAdoption (h : Nat)
  /-- FORK_SPLIT (R119): a step without an encoding. -/
  | forkSplit (h : Nat)
  /-- MERGE_COMPLETE (R120): a step without an encoding. -/
  | mergeComplete (h : Nat)
  /-- END_COMPLETE (R122): a step without an encoding. -/
  | endComplete (h : Nat)
  /-- DRAINED_RESUME (R25): a step without an encoding. -/
  | drainedResume (h : Nat)
  /-- SEAL_SEND (R177): a step without an encoding. -/
  | sealSend (h : Nat)
  /-- WAIT_RETURN (R180): a step without an encoding. -/
  | waitReturn (h : Nat)
  /-- WDEADLINE_EXPIRY (R180): a step without an encoding. -/
  | wdeadlineExpiry (h : Nat)
  /-- WAITW_POLL (R184): a step without an encoding. -/
  | waitwPoll (h : Nat)
  /-- TILE_QUEUE_GRANT (R207): a step without an encoding. -/
  | tileQueueGrant (core : Nat)
  /-- REP_BUFFER_ACQUIRE (R278): a step without an encoding. -/
  | repBufferAcquire (h : Nat)
  /-- REPLAY_ENQUEUE (R278): a step without an encoding. -/
  | replayEnqueue (h : Nat)
  /-- ROW_SLOT (R280): a step without an encoding. -/
  | rowSlot (core : Nat)
  /-- MSWAP_EFFECT (R282): a step without an encoding. -/
  | mswapEffect (h : Nat)
  /-- PAGE_WALK_COMPLETE (R245): a step without an encoding. -/
  | pageWalkComplete (h : Nat) (va : Word)
  /-- SCHEDULING_INTERVAL (R299): a step without an encoding. -/
  | schedulingInterval (die : Nat)
  /-- INITIAL_GRANT (R299): a step without an encoding. -/
  | initialGrant (region : Nat)
  /-- SHARE_GRACE_EXPIRY (R19): a step without an encoding. -/
  | shareGraceExpiry (h : Nat)
  /-- UNIT_STOP_ACK (R368): a step without an encoding. -/
  | unitStopAck (h part : Nat)
  /-- SEGMENT_START (R309): a step without an encoding. -/
  | segmentStart (iod : Nat)
  /-- SEGMENT_PERFORMED (R309): a step without an encoding. -/
  | segmentPerformed (ctx : Nat)
  /-- ENGINE_FAULT (R196): a step without an encoding. -/
  | engineFault (ctx : Nat) (cause : Byte) (side : Nat) (va : Word)
  /-- MULTICAST_APPLY (R263): a step without an encoding. -/
  | multicastApply (ctx : Nat)
  /-- PARK_LIMIT_EXPIRY (R374): a step without an encoding. -/
  | parkLimitExpiry (ctx : Nat)
  /-- READ (R336): a step without an encoding. -/
  | read (r : Record)
  /-- WRITE (R319): a step without an encoding. -/
  | write (r : Record)
  /-- WRITEB (R165): a step without an encoding. -/
  | writeb (r : Record)
  /-- ATOMIC (R175): a step without an encoding. -/
  | atomic (r : Record)
  /-- COMBINED (R227): a step without an encoding. -/
  | combined (r : Record)
  /-- READRESP (R336): a step without an encoding. -/
  | readresp (r : Record)
  /-- ATOMRESP (R227): a step without an encoding. -/
  | atomresp (r : Record)
  /-- SEAL (R257): a step without an encoding. -/
  | seal (r : Record)
  /-- SEALACK (R177): a step without an encoding. -/
  | sealack (r : Record)
  /-- COLLDATA (R324): a step without an encoding. -/
  | colldata (m : CollIn)
  /-- PARKED (R374): a step without an encoding. -/
  | parked (ctx : Nat)
  /-- PERFACK (R329): a step without an encoding. -/
  | perfack (r : Record)
  /-- ABORTED (R374): a step without an encoding. -/
  | aborted (ctx : Nat)
  /-- FRAME_RECEIVE (R337): a step without an encoding. -/
  | frameReceive (iod : Nat) (f : PortFrame)
  /-- RELAY_FORWARD (R334): a step without an encoding. -/
  | relayForward (iod : Nat)
  /-- FRAME_TRANSMIT (R391): a step without an encoding. -/
  | frameTransmit (iod peer : Nat)
  /-- RETRY_TIMER_EXPIRY (R337): a step without an encoding. -/
  | retryTimerExpiry (peer : Nat)
  /-- ACK_TIMER (R337): a step without an encoding. -/
  | ackTimer (peer : Nat)
  /-- KEEPALIVE_TIMER (R341): a step without an encoding. -/
  | keepaliveTimer (peer : Nat)
  /-- PEER_MARK_DOWN (R341): a step without an encoding. -/
  | peerMarkDown (peer : Nat)
  /-- RST (R341): a step without an encoding. -/
  | rst (peer : Nat)
  /-- SLOT_BEGIN (R332): a step without an encoding. -/
  | slotBegin (iod : Nat)
  /-- LOCK_TIMEOUT (R340): a step without an encoding. -/
  | lockTimeout (iod port shift : Nat)
  /-- BEAD_ARRIVAL (R326): a step without an encoding. -/
  | beadArrival (die ch writer : Nat)
  /-- HOLD_RECEIVE (R327): a step without an encoding. -/
  | holdReceive (die ch : Nat) (hold : Hold)
  /-- BEAD_TIMEOUT (R327): a step without an encoding. -/
  | beadTimeout (die ch : Nat)
  /-- BEAD_REGENERATE (R327): a step without an encoding. -/
  | beadRegenerate (die ch : Nat)
  /-- TLBINV (R246): a step without an encoding. -/
  | tlbinv (die : Nat) (val : Word)
  /-- PEERUP (R341): a step without an encoding. -/
  | peerup (iod : Nat) (val : Word)
  /-- PARKLIM (R375): a step without an encoding. -/
  | parklim (iod h : Nat) (val : Word)
  /-- REGISTER_WRITE (R390): a step without an encoding. -/
  | registerWrite (die off width : Nat) (val : Word)
  /-- HOST_POSTED_WRITE (R314): a step without an encoding. -/
  | hostPostedWrite (bar : HostBar) (off : Nat) (data : List Byte)
  /-- HOST_READ (R314): a step without an encoding. -/
  | hostRead (bar : HostBar) (off width : Nat)
  /-- HOST_COMPLETION (R315): a step without an encoding. -/
  | hostCompletion (ctx : Nat) (ok : Bool)
  /-- DIE_TIME_EXCHANGE (R348): a step without an encoding. -/
  | dieTimeExchange (die : Nat) (t1 t2 t3 t4 : Word)
  /-- DIE_SYNC_TIMEOUT (R348): a step without an encoding. -/
  | dieSyncTimeout (die : Nat)
  /-- TIME_EXCHANGE_TIMER (R349): a step without an encoding. -/
  | timeExchangeTimer (child : Nat)
  /-- SYNC (R349): a step without an encoding. -/
  | sync (m : TimeMsg)
  /-- FOLLOW (R349): a step without an encoding. -/
  | follow (m : TimeMsg)
  /-- DREQ (R349): a step without an encoding. -/
  | dreq (m : TimeMsg)
  /-- DRESP (R349): a step without an encoding. -/
  | dresp (m : TimeMsg)
  /-- ANNOUNCE (R350): a step without an encoding. -/
  | announce (m : TimeMsg)
  /-- ANNOUNCE_TIMER (R350): a step without an encoding. -/
  | announceTimer
  /-- EXTERNAL_PTP_MESSAGE (R350): a step without an encoding. -/
  | externalPtpMessage (ptp : Word)
  /-- HOLDOVER_ENTRY (R351): a step without an encoding. -/
  | holdoverEntry
  /-- HOLDOVER_SYNC_LOSS (R351): a step without an encoding. -/
  | holdoverSyncLoss
  /-- PACKAGE_TERM_GROWTH (R351): a step without an encoding. -/
  | packageTermGrowth
  /-- LOADFW (R388): a step without an encoding. -/
  | loadfw
  /-- ATTEST (R388): a step without an encoding. -/
  | attest
  /-- SUSPEND (R385): a step without an encoding. -/
  | suspend
  /-- CANCEL (R385): a step without an encoding. -/
  | cancel
  /-- RESUME (R385): a step without an encoding. -/
  | resume
  /-- DRAIN (R384): a step without an encoding. -/
  | drain (u : SvcUnit)
  /-- REJOIN (R384): a step without an encoding. -/
  | rejoin (u : SvcUnit)
  /-- TENANT (R381): a step without an encoding. -/
  | tenant (tenant : Nat) (strict : Bool) (cores chans plain : List Nat)
  /-- OWNER (R383): a step without an encoding. -/
  | owner (granule tenant : Nat)
  /-- ZEROING_COMPLETE (R383): a step without an encoding. -/
  | zeroingComplete (granule : Nat)
  /-- SUSPEND_DEADLINE (R385): a step without an encoding. -/
  | suspendDeadline
  /-- QUIET (R385): a step without an encoding. -/
  | quiet (dev : Nat)
  /-- SAVING_TIMEOUT (R385): a step without an encoding. -/
  | savingTimeout
  /-- SAVING_COMPLETE (R385): a step without an encoding. -/
  | savingComplete
  /-- RESUME_DEADLINE (R385): a step without an encoding. -/
  | resumeDeadline
  /-- RESUME_COMPLETE (R385): a step without an encoding. -/
  | resumeComplete
  /-- DRAINED_DIE_ACCESS_TIMEOUT (R384): a step without an encoding. -/
  | drainedDieAccessTimeout (h : Nat)
  /-- BOOT (R387): a step without an encoding. -/
  | boot
  /-- CLOCK_RATE_CHANGE (R33): a step without an encoding. -/
  | clockRateChange (die mhz : Nat)
  /-- THERMAL_THROTTLE (R389): a step without an encoding. -/
  | thermalThrottle (mhz : Nat)
  /-- HBM_SCRUB (R377): a step without an encoding. -/
  | hbmScrub (die : Nat) (line : Word) (bad : Bool)
  /-- CLUSTER_RETIRE (R380): a step without an encoding. -/
  | clusterRetire (core cluster : Nat)
  /-- SCAN_UNIT_STEP (R279): a step without an encoding. -/
  | scanUnitStep (core : Nat)
  /-- ACCUMULATE_PATH_ROW (R279): a step without an encoding. -/
  | accumulatePathRow (core : Nat)
  /-- COMPLETION_TIMEOUT (R311): a step without an encoding. -/
  | completionTimeout (ctx : Nat)
  /-- PERFACK_SEND_TIMER (R329): a step without an encoding. -/
  | perfackSendTimer (die : Nat)
  /-- CONNECTION_STATE_FILL (R338): a step without an encoding. -/
  | connectionStateFill (peer : Nat)
  /-- ANNOUNCE_AGE_EXPIRY (R350): a step without an encoding. -/
  | announceAgeExpiry
  /-- DIE_TERM_GROWTH (R348): a step without an encoding. -/
  | dieTermGrowth (die : Nat)
  deriving DecidableEq, Repr

end Sys2Proof
end

