-- ==== Sys2Proof/Decode.lean ====
section
/-!
DEFINITION. Decode.lean: the decoder of instruction words and, after it, the encoder, both written from the
formats and function tables of 03_encoding R69-R85. A word is split once into its bit 31, its major and the
four fields that every format is cut from; a word outside the tables is rejected by the name of what is wrong.
The conditions on field values (group alignment, mask and counter numbers) stand in WellFormed.lean.
-/

namespace Sys2Proof

/-- Why a word is no instruction (R75). -/
inductive DecodeError where
  /-- the major is reserved (R74) -/
  | reservedMajor
  /-- bit 31 is set on a major that is not queued (R70) -/
  | bBitOnScalar
  /-- the function value is reserved -/
  | reservedFunction
  /-- a field that must hold zero (or one fixed value) does not -/
  | fieldNotZero
  deriving DecidableEq, Repr

/-- A word cut at the places every format shares (R71): bit 31, major [30:25], [24:20], [19:15], [14:10], [9:0]. -/
structure Fields where
  c : BitVec 1
  maj : BitVec 6
  d : BitVec 5
  a : BitVec 5
  b : BitVec 5
  f : BitVec 10
  deriving DecidableEq, Repr

def splitWord (w : IWord) : Fields :=
  ⟨w.extractLsb' 31 1, w.extractLsb' 25 6, w.extractLsb' 20 5, w.extractLsb' 15 5, w.extractLsb' 10 5,
    w.extractLsb' 0 10⟩

def joinWord (x : Fields) : IWord := x.c ++ x.maj ++ x.d ++ x.a ++ x.b ++ x.f

/-- A scalar major's word has bit 31 clear (R70). -/
def scalarOnly (x : Fields) (r : Except DecodeError Instr) : Except DecodeError Instr :=
  if x.c = 0#1 then r else .error .bBitOnScalar

/-- Major 0x00 (R74): ADD, SUB, AND .... -/
noncomputable def decodeMajor00 (x : Fields) : Except DecodeError Instr :=
  match (x.f).toNat with
  | 1 => .ok (.add ⟨x.d, x.a, x.b⟩)
  | 2 => .ok (.sub ⟨x.d, x.a, x.b⟩)
  | 3 => .ok (.and ⟨x.d, x.a, x.b⟩)
  | 4 => .ok (.or ⟨x.d, x.a, x.b⟩)
  | 5 => .ok (.xor ⟨x.d, x.a, x.b⟩)
  | 6 => .ok (.sll ⟨x.d, x.a, x.b⟩)
  | 7 => .ok (.srl ⟨x.d, x.a, x.b⟩)
  | 8 => .ok (.sra ⟨x.d, x.a, x.b⟩)
  | 9 => .ok (.slt ⟨x.d, x.a, x.b⟩)
  | 10 => .ok (.sltn ⟨x.d, x.a, x.b⟩)
  | 11 => .ok (.mul ⟨x.d, x.a, x.b⟩)
  | 12 => .ok (.mulh ⟨x.d, x.a, x.b⟩)
  | 13 => .ok (.mulhn ⟨x.d, x.a, x.b⟩)
  | 14 => .ok (.div ⟨x.d, x.a, x.b⟩)
  | 15 => .ok (.divn ⟨x.d, x.a, x.b⟩)
  | 16 => .ok (.rem ⟨x.d, x.a, x.b⟩)
  | 17 => .ok (.remn ⟨x.d, x.a, x.b⟩)
  | 18 => .ok (.min ⟨x.d, x.a, x.b⟩)
  | 19 => .ok (.max ⟨x.d, x.a, x.b⟩)
  | 20 => .ok (.minn ⟨x.d, x.a, x.b⟩)
  | 21 => .ok (.maxn ⟨x.d, x.a, x.b⟩)
  | 22 => if x.b = 0#5 then .ok (.clz ⟨x.d, x.a⟩) else .error .fieldNotZero
  | 23 => if x.b = 0#5 then .ok (.ctz ⟨x.d, x.a⟩) else .error .fieldNotZero
  | 24 => if x.b = 0#5 then .ok (.popc ⟨x.d, x.a⟩) else .error .fieldNotZero
  | 25 => .ok (.rol ⟨x.d, x.a, x.b⟩)
  | 26 => .ok (.ror ⟨x.d, x.a, x.b⟩)
  | 27 => .ok (.addw ⟨x.d, x.a, x.b⟩)
  | 28 => .ok (.subw ⟨x.d, x.a, x.b⟩)
  | _ => .error .reservedFunction

/-- Major 0x01 (R74): ADDI. -/
def decodeMajor01 (x : Fields) : Except DecodeError Instr :=
  .ok (.addi ⟨x.d, x.a, (x.b ++ x.f)⟩)

/-- Major 0x02 (R74): ANDI, ORI, XORI .... -/
def decodeMajor02 (x : Fields) : Except DecodeError Instr :=
  match (x.b.extractLsb' 2 3).toNat with
  | 0 => .ok (.andi ⟨x.d, x.a, (x.b.extractLsb' 0 2 ++ x.f)⟩)
  | 1 => .ok (.ori ⟨x.d, x.a, (x.b.extractLsb' 0 2 ++ x.f)⟩)
  | 2 => .ok (.xori ⟨x.d, x.a, (x.b.extractLsb' 0 2 ++ x.f)⟩)
  | 3 => .ok (.slti ⟨x.d, x.a, (x.b.extractLsb' 0 2 ++ x.f)⟩)
  | 4 => .ok (.sltni ⟨x.d, x.a, (x.b.extractLsb' 0 2 ++ x.f)⟩)
  | 5 => if x.b.extractLsb' 0 2 = 0#2 ∧ x.f.extractLsb' 6 4 = 0#4 then .ok (.slli ⟨x.d, x.a, x.f.extractLsb' 0 6⟩) else .error .fieldNotZero
  | 6 => if x.b.extractLsb' 0 2 = 0#2 ∧ x.f.extractLsb' 6 4 = 0#4 then .ok (.srli ⟨x.d, x.a, x.f.extractLsb' 0 6⟩) else .error .fieldNotZero
  | 7 => if x.b.extractLsb' 0 2 = 0#2 ∧ x.f.extractLsb' 6 4 = 0#4 then .ok (.srai ⟨x.d, x.a, x.f.extractLsb' 0 6⟩) else .error .fieldNotZero
  | _ => .error .reservedFunction

/-- Major 0x03 (R74): LUI. -/
def decodeMajor03 (x : Fields) : Except DecodeError Instr :=
  .ok (.lui ⟨x.d, (x.a ++ x.b ++ x.f)⟩)

/-- Major 0x04 (R74): AUIPC. -/
def decodeMajor04 (x : Fields) : Except DecodeError Instr :=
  .ok (.auipc ⟨x.d, (x.a ++ x.b ++ x.f)⟩)

/-- Major 0x05 (R74): BEQ, BNE, BLT .... -/
def decodeMajor05 (x : Fields) : Except DecodeError Instr :=
  match (x.b.extractLsb' 2 3).toNat with
  | 0 => .ok (.beq ⟨x.d, x.a, (x.b.extractLsb' 0 2 ++ x.f)⟩)
  | 1 => .ok (.bne ⟨x.d, x.a, (x.b.extractLsb' 0 2 ++ x.f)⟩)
  | 2 => .ok (.blt ⟨x.d, x.a, (x.b.extractLsb' 0 2 ++ x.f)⟩)
  | 3 => .ok (.bge ⟨x.d, x.a, (x.b.extractLsb' 0 2 ++ x.f)⟩)
  | 4 => .ok (.bltn ⟨x.d, x.a, (x.b.extractLsb' 0 2 ++ x.f)⟩)
  | 5 => .ok (.bgen ⟨x.d, x.a, (x.b.extractLsb' 0 2 ++ x.f)⟩)
  | _ => .error .reservedFunction

/-- Major 0x06 (R74): JAL. -/
def decodeMajor06 (x : Fields) : Except DecodeError Instr :=
  .ok (.jal ⟨x.d, (x.a ++ x.b ++ x.f)⟩)

/-- Major 0x07 (R74): JALR. -/
def decodeMajor07 (x : Fields) : Except DecodeError Instr :=
  .ok (.jalr ⟨x.d, x.a, (x.b ++ x.f)⟩)

/-- Major 0x08 (R74): LDB, LDH, LDW .... -/
def decodeMajor08 (x : Fields) : Except DecodeError Instr :=
  match (x.b.extractLsb' 2 3).toNat with
  | 0 => .ok (.ldb ⟨x.d, x.a, (x.b.extractLsb' 0 2 ++ x.f)⟩)
  | 2 => .ok (.ldh ⟨x.d, x.a, (x.b.extractLsb' 0 2 ++ x.f)⟩)
  | 4 => .ok (.ldw ⟨x.d, x.a, (x.b.extractLsb' 0 2 ++ x.f)⟩)
  | 6 => .ok (.ldd ⟨x.d, x.a, (x.b.extractLsb' 0 2 ++ x.f)⟩)
  | 1 => .ok (.ldbs ⟨x.d, x.a, (x.b.extractLsb' 0 2 ++ x.f)⟩)
  | 3 => .ok (.ldhs ⟨x.d, x.a, (x.b.extractLsb' 0 2 ++ x.f)⟩)
  | 5 => .ok (.ldws ⟨x.d, x.a, (x.b.extractLsb' 0 2 ++ x.f)⟩)
  | _ => .error .reservedFunction

/-- Major 0x09 (R74): STB, STH, STW .... -/
def decodeMajor09 (x : Fields) : Except DecodeError Instr :=
  match (x.b.extractLsb' 3 2).toNat with
  | 0 => .ok (.stb ⟨x.d, x.a, (x.b.extractLsb' 0 3 ++ x.f)⟩)
  | 1 => .ok (.sth ⟨x.d, x.a, (x.b.extractLsb' 0 3 ++ x.f)⟩)
  | 2 => .ok (.stw ⟨x.d, x.a, (x.b.extractLsb' 0 3 ++ x.f)⟩)
  | 3 => .ok (.std ⟨x.d, x.a, (x.b.extractLsb' 0 3 ++ x.f)⟩)
  | _ => .error .reservedFunction

/-- Major 0x0A (R74): AMOS_ADD, AMOS_AND, AMOS_OR .... -/
def decodeMajor0A (x : Fields) : Except DecodeError Instr :=
  match (x.f.extractLsb' 6 4).toNat with
  | 0 => if x.f.extractLsb' 0 2 = 0#2 then .ok (.amosAdd ⟨x.d, x.a, x.b, x.f.extractLsb' 5 1, x.f.extractLsb' 2 3⟩) else .error .fieldNotZero
  | 1 => if x.f.extractLsb' 0 2 = 0#2 then .ok (.amosAnd ⟨x.d, x.a, x.b, x.f.extractLsb' 5 1, x.f.extractLsb' 2 3⟩) else .error .fieldNotZero
  | 2 => if x.f.extractLsb' 0 2 = 0#2 then .ok (.amosOr ⟨x.d, x.a, x.b, x.f.extractLsb' 5 1, x.f.extractLsb' 2 3⟩) else .error .fieldNotZero
  | 3 => if x.f.extractLsb' 0 2 = 0#2 then .ok (.amosXor ⟨x.d, x.a, x.b, x.f.extractLsb' 5 1, x.f.extractLsb' 2 3⟩) else .error .fieldNotZero
  | 4 => if x.f.extractLsb' 0 2 = 0#2 then .ok (.amosMin ⟨x.d, x.a, x.b, x.f.extractLsb' 5 1, x.f.extractLsb' 2 3⟩) else .error .fieldNotZero
  | 5 => if x.f.extractLsb' 0 2 = 0#2 then .ok (.amosMax ⟨x.d, x.a, x.b, x.f.extractLsb' 5 1, x.f.extractLsb' 2 3⟩) else .error .fieldNotZero
  | 6 => if x.f.extractLsb' 0 2 = 0#2 then .ok (.amosMinn ⟨x.d, x.a, x.b, x.f.extractLsb' 5 1, x.f.extractLsb' 2 3⟩) else .error .fieldNotZero
  | 7 => if x.f.extractLsb' 0 2 = 0#2 then .ok (.amosMaxn ⟨x.d, x.a, x.b, x.f.extractLsb' 5 1, x.f.extractLsb' 2 3⟩) else .error .fieldNotZero
  | 8 => if x.f.extractLsb' 0 2 = 0#2 then .ok (.amosSwap ⟨x.d, x.a, x.b, x.f.extractLsb' 5 1, x.f.extractLsb' 2 3⟩) else .error .fieldNotZero
  | 9 => if x.f.extractLsb' 0 2 = 0#2 then .ok (.amosCas ⟨x.d, x.a, x.b, x.f.extractLsb' 5 1, x.f.extractLsb' 2 3⟩) else .error .fieldNotZero
  | _ => .error .reservedFunction

/-- Major 0x0B (R74): LDPC. -/
def decodeMajor0B (x : Fields) : Except DecodeError Instr :=
  .ok (.ldpc ⟨x.d, (x.a ++ x.b ++ x.f)⟩)

/-- Major 0x0C (R74): CSRR, CSRW, CSRS .... -/
def decodeMajor0C (x : Fields) : Except DecodeError Instr :=
  match (x.b.extractLsb' 3 2).toNat with
  | 0 => if x.a = 0#5 ∧ x.b.extractLsb' 2 1 = 0#1 then .ok (.csrr ⟨x.d, (x.b.extractLsb' 0 2 ++ x.f)⟩) else .error .fieldNotZero
  | 1 => if x.b.extractLsb' 2 1 = 0#1 then .ok (.csrw ⟨x.d, x.a, (x.b.extractLsb' 0 2 ++ x.f)⟩) else .error .fieldNotZero
  | 2 => if x.b.extractLsb' 2 1 = 0#1 then .ok (.csrs ⟨x.d, x.a, (x.b.extractLsb' 0 2 ++ x.f)⟩) else .error .fieldNotZero
  | 3 => if x.b.extractLsb' 2 1 = 0#1 then .ok (.csrc ⟨x.d, x.a, (x.b.extractLsb' 0 2 ++ x.f)⟩) else .error .fieldNotZero
  | _ => .error .reservedFunction

/-- Major 0x0D (R74): SVC, TRET, BRK .... -/
def decodeMajor0D (x : Fields) : Except DecodeError Instr :=
  match (x.f).toNat with
  | 1 => if x.d = 0#5 ∧ x.a = 0#5 ∧ x.b = 0#5 then .ok (.svc) else .error .fieldNotZero
  | 2 => if x.d = 0#5 ∧ x.a = 0#5 ∧ x.b = 0#5 then .ok (.tret) else .error .fieldNotZero
  | 3 => if x.d = 0#5 ∧ x.a = 0#5 ∧ x.b = 0#5 then .ok (.brk) else .error .fieldNotZero
  | 4 => if x.d = 0#5 ∧ x.a = 0#5 ∧ x.b = 0#5 then .ok (.ifence) else .error .fieldNotZero
  | 5 => if x.d = 0#5 ∧ x.a = 0#5 ∧ x.b = 0#5 then .ok (.wfi) else .error .fieldNotZero
  | 6 => if x.d = 0#5 then .ok (.lksv ⟨x.a, x.b⟩) else .error .fieldNotZero
  | 7 => if x.d = 0#5 then .ok (.lkld ⟨x.a, x.b⟩) else .error .fieldNotZero
  | 8 => if x.d = 0#5 ∧ x.b = 0#5 then .ok (.hrel ⟨x.a⟩) else .error .fieldNotZero
  | _ => .error .reservedFunction

/-- Major 0x0E (R74): SETVL, FORK, MERGE .... -/
def decodeMajor0E (x : Fields) : Except DecodeError Instr :=
  match (x.f.extractLsb' 6 4).toNat with
  | 0 => if x.b = 0#5 ∧ x.f.extractLsb' 0 2 = 0#2 then .ok (.setvl ⟨x.d, x.a, x.f.extractLsb' 2 4⟩) else .error .fieldNotZero
  | 1 => if x.a = 0#5 ∧ x.b = 0#5 ∧ x.f.extractLsb' 1 5 = 0#5 then .ok (.fork ⟨x.d, x.f.extractLsb' 0 1⟩) else .error .fieldNotZero
  | 2 => if x.d = 0#5 ∧ x.a = 0#5 ∧ x.b = 0#5 ∧ x.f.extractLsb' 0 6 = 0#6 then .ok (.merge) else .error .fieldNotZero
  | 3 => if x.d = 0#5 ∧ x.a = 0#5 ∧ x.b = 0#5 ∧ x.f.extractLsb' 0 6 = 0#6 then .ok (.endHart) else .error .fieldNotZero
  | 4 => if x.d = 0#5 ∧ x.a = 0#5 ∧ x.b = 0#5 ∧ x.f.extractLsb' 0 6 = 0#6 then .ok (.yield) else .error .fieldNotZero
  | 5 => if x.b = 0#5 ∧ x.f.extractLsb' 0 6 = 0#6 then .ok (.launch ⟨x.d, x.a⟩) else .error .fieldNotZero
  | 6 => if x.b = 0#5 ∧ x.f.extractLsb' 0 6 = 0#6 then .ok (.share ⟨x.d, x.a⟩) else .error .fieldNotZero
  | _ => .error .reservedFunction

/-- Major 0x0F (R74): PHASE_REL, PHASE_ACQ, PHASE_AR .... -/
def decodeMajor0F (x : Fields) : Except DecodeError Instr :=
  match (x.f.extractLsb' 6 4).toNat with
  | 0 =>
    match (x.f.extractLsb' 1 2).toNat with
    | 1 => if x.a = 0#5 ∧ x.b = 0#5 then .ok (.phaseRel ⟨x.d, x.f.extractLsb' 3 3, x.f.extractLsb' 0 1⟩) else .error .fieldNotZero
    | 2 => if x.a = 0#5 ∧ x.b = 0#5 then .ok (.phaseAcq ⟨x.d, x.f.extractLsb' 3 3, x.f.extractLsb' 0 1⟩) else .error .fieldNotZero
    | 3 => if x.a = 0#5 ∧ x.b = 0#5 then .ok (.phaseAr ⟨x.d, x.f.extractLsb' 3 3, x.f.extractLsb' 0 1⟩) else .error .fieldNotZero
    | _ => .error .reservedFunction
  | 1 => if x.b = 0#5 ∧ x.f.extractLsb' 3 3 = 0#3 then .ok (.waitc ⟨x.d, x.a, x.f.extractLsb' 0 3⟩) else .error .fieldNotZero
  | 2 => if x.b = 0#5 ∧ x.f.extractLsb' 3 3 = 0#3 then .ok (.waitt ⟨x.d, x.a, x.f.extractLsb' 0 3⟩) else .error .fieldNotZero
  | 3 => if x.f.extractLsb' 0 6 = 0#6 then .ok (.waitg ⟨x.d, x.a, x.b⟩) else .error .fieldNotZero
  | 4 =>
    match (x.f.extractLsb' 0 3).toNat with
    | 0 => if x.f.extractLsb' 3 3 = 0#3 then .ok (.waitwEq ⟨x.d, x.a, x.b⟩) else .error .fieldNotZero
    | 1 => if x.f.extractLsb' 3 3 = 0#3 then .ok (.waitwNe ⟨x.d, x.a, x.b⟩) else .error .fieldNotZero
    | 2 => if x.f.extractLsb' 3 3 = 0#3 then .ok (.waitwGen ⟨x.d, x.a, x.b⟩) else .error .fieldNotZero
    | 3 => if x.f.extractLsb' 3 3 = 0#3 then .ok (.waitwLtn ⟨x.d, x.a, x.b⟩) else .error .fieldNotZero
    | _ => .error .reservedFunction
  | 5 => if x.a = 0#5 ∧ x.b = 0#5 ∧ x.f.extractLsb' 0 6 = 0#6 then .ok (.time ⟨x.d⟩) else .error .fieldNotZero
  | 6 => if x.d = 0#5 ∧ x.f.extractLsb' 0 6 = 0#6 then .ok (.winfl ⟨x.a, x.b⟩) else .error .fieldNotZero
  | 7 => if x.f.extractLsb' 0 6 = 0#6 then .ok (.qpop ⟨x.d, x.a, x.b⟩) else .error .fieldNotZero
  | 8 => if x.f.extractLsb' 0 6 = 0#6 then .ok (.qpush ⟨x.d, x.a, x.b⟩) else .error .fieldNotZero
  | 9 => if x.a = 0#5 ∧ x.b = 0#5 ∧ x.f.extractLsb' 3 3 = 0#3 then .ok (.ccrd ⟨x.d, x.f.extractLsb' 0 3⟩) else .error .fieldNotZero
  | 10 => if x.d = 0#5 ∧ x.b = 0#5 ∧ x.f.extractLsb' 3 3 = 0#3 then .ok (.ccset ⟨x.a, x.f.extractLsb' 0 3⟩) else .error .fieldNotZero
  | _ => .error .reservedFunction

/-- Major 0x10 (R74): VADD, VSUB, VRSUB .... -/
def decodeMajor10 (x : Fields) : Except DecodeError Instr :=
  match (x.f.extractLsb' 0 4).toNat with
  | 0 => .ok (.vadd ⟨x.c, x.d, x.a, x.b, x.f.extractLsb' 8 2, x.f.extractLsb' 6 2, x.f.extractLsb' 4 2⟩)
  | 1 => .ok (.vsub ⟨x.c, x.d, x.a, x.b, x.f.extractLsb' 8 2, x.f.extractLsb' 6 2, x.f.extractLsb' 4 2⟩)
  | 2 => .ok (.vrsub ⟨x.c, x.d, x.a, x.b, x.f.extractLsb' 8 2, x.f.extractLsb' 6 2, x.f.extractLsb' 4 2⟩)
  | 3 => .ok (.vmul ⟨x.c, x.d, x.a, x.b, x.f.extractLsb' 8 2, x.f.extractLsb' 6 2, x.f.extractLsb' 4 2⟩)
  | 4 => .ok (.vmulh ⟨x.c, x.d, x.a, x.b, x.f.extractLsb' 8 2, x.f.extractLsb' 6 2, x.f.extractLsb' 4 2⟩)
  | 5 => .ok (.vmacc ⟨x.c, x.d, x.a, x.b, x.f.extractLsb' 8 2, x.f.extractLsb' 6 2, x.f.extractLsb' 4 2⟩)
  | 6 => .ok (.vmin ⟨x.c, x.d, x.a, x.b, x.f.extractLsb' 8 2, x.f.extractLsb' 6 2, x.f.extractLsb' 4 2⟩)
  | 7 => .ok (.vmax ⟨x.c, x.d, x.a, x.b, x.f.extractLsb' 8 2, x.f.extractLsb' 6 2, x.f.extractLsb' 4 2⟩)
  | 8 => .ok (.vand ⟨x.c, x.d, x.a, x.b, x.f.extractLsb' 8 2, x.f.extractLsb' 6 2, x.f.extractLsb' 4 2⟩)
  | 9 => .ok (.vor ⟨x.c, x.d, x.a, x.b, x.f.extractLsb' 8 2, x.f.extractLsb' 6 2, x.f.extractLsb' 4 2⟩)
  | 10 => .ok (.vxor ⟨x.c, x.d, x.a, x.b, x.f.extractLsb' 8 2, x.f.extractLsb' 6 2, x.f.extractLsb' 4 2⟩)
  | 11 => .ok (.vsll ⟨x.c, x.d, x.a, x.b, x.f.extractLsb' 8 2, x.f.extractLsb' 6 2, x.f.extractLsb' 4 2⟩)
  | 12 => .ok (.vsrl ⟨x.c, x.d, x.a, x.b, x.f.extractLsb' 8 2, x.f.extractLsb' 6 2, x.f.extractLsb' 4 2⟩)
  | 13 => .ok (.vsra ⟨x.c, x.d, x.a, x.b, x.f.extractLsb' 8 2, x.f.extractLsb' 6 2, x.f.extractLsb' 4 2⟩)
  | 14 => .ok (.vadds ⟨x.c, x.d, x.a, x.b, x.f.extractLsb' 8 2, x.f.extractLsb' 6 2, x.f.extractLsb' 4 2⟩)
  | 15 => .ok (.vsubs ⟨x.c, x.d, x.a, x.b, x.f.extractLsb' 8 2, x.f.extractLsb' 6 2, x.f.extractLsb' 4 2⟩)
  | _ => .error .reservedFunction

/-- Major 0x11 (R74): VADD_X, VSUB_X, VRSUB_X .... -/
def decodeMajor11 (x : Fields) : Except DecodeError Instr :=
  match (x.f.extractLsb' 0 4).toNat with
  | 0 => .ok (.vaddX ⟨x.c, x.d, x.a, x.b, x.f.extractLsb' 8 2, x.f.extractLsb' 6 2, x.f.extractLsb' 4 2⟩)
  | 1 => .ok (.vsubX ⟨x.c, x.d, x.a, x.b, x.f.extractLsb' 8 2, x.f.extractLsb' 6 2, x.f.extractLsb' 4 2⟩)
  | 2 => .ok (.vrsubX ⟨x.c, x.d, x.a, x.b, x.f.extractLsb' 8 2, x.f.extractLsb' 6 2, x.f.extractLsb' 4 2⟩)
  | 3 => .ok (.vmulX ⟨x.c, x.d, x.a, x.b, x.f.extractLsb' 8 2, x.f.extractLsb' 6 2, x.f.extractLsb' 4 2⟩)
  | 4 => .ok (.vmulhX ⟨x.c, x.d, x.a, x.b, x.f.extractLsb' 8 2, x.f.extractLsb' 6 2, x.f.extractLsb' 4 2⟩)
  | 5 => .ok (.vmaccX ⟨x.c, x.d, x.a, x.b, x.f.extractLsb' 8 2, x.f.extractLsb' 6 2, x.f.extractLsb' 4 2⟩)
  | 6 => .ok (.vminX ⟨x.c, x.d, x.a, x.b, x.f.extractLsb' 8 2, x.f.extractLsb' 6 2, x.f.extractLsb' 4 2⟩)
  | 7 => .ok (.vmaxX ⟨x.c, x.d, x.a, x.b, x.f.extractLsb' 8 2, x.f.extractLsb' 6 2, x.f.extractLsb' 4 2⟩)
  | 8 => .ok (.vandX ⟨x.c, x.d, x.a, x.b, x.f.extractLsb' 8 2, x.f.extractLsb' 6 2, x.f.extractLsb' 4 2⟩)
  | 9 => .ok (.vorX ⟨x.c, x.d, x.a, x.b, x.f.extractLsb' 8 2, x.f.extractLsb' 6 2, x.f.extractLsb' 4 2⟩)
  | 10 => .ok (.vxorX ⟨x.c, x.d, x.a, x.b, x.f.extractLsb' 8 2, x.f.extractLsb' 6 2, x.f.extractLsb' 4 2⟩)
  | 11 => .ok (.vsllX ⟨x.c, x.d, x.a, x.b, x.f.extractLsb' 8 2, x.f.extractLsb' 6 2, x.f.extractLsb' 4 2⟩)
  | 12 => .ok (.vsrlX ⟨x.c, x.d, x.a, x.b, x.f.extractLsb' 8 2, x.f.extractLsb' 6 2, x.f.extractLsb' 4 2⟩)
  | 13 => .ok (.vsraX ⟨x.c, x.d, x.a, x.b, x.f.extractLsb' 8 2, x.f.extractLsb' 6 2, x.f.extractLsb' 4 2⟩)
  | 14 => .ok (.vaddsX ⟨x.c, x.d, x.a, x.b, x.f.extractLsb' 8 2, x.f.extractLsb' 6 2, x.f.extractLsb' 4 2⟩)
  | 15 => .ok (.vsubsX ⟨x.c, x.d, x.a, x.b, x.f.extractLsb' 8 2, x.f.extractLsb' 6 2, x.f.extractLsb' 4 2⟩)
  | _ => .error .reservedFunction

/-- Major 0x12 (R74): VFADD, VFSUB, VFMUL .... -/
def decodeMajor12 (x : Fields) : Except DecodeError Instr :=
  match (x.f.extractLsb' 0 4).toNat with
  | 0 => .ok (.vfadd ⟨x.c, x.d, x.a, x.b, x.f.extractLsb' 8 2, x.f.extractLsb' 6 2, x.f.extractLsb' 4 2⟩)
  | 1 => .ok (.vfsub ⟨x.c, x.d, x.a, x.b, x.f.extractLsb' 8 2, x.f.extractLsb' 6 2, x.f.extractLsb' 4 2⟩)
  | 2 => .ok (.vfmul ⟨x.c, x.d, x.a, x.b, x.f.extractLsb' 8 2, x.f.extractLsb' 6 2, x.f.extractLsb' 4 2⟩)
  | 3 => .ok (.vfdiv ⟨x.c, x.d, x.a, x.b, x.f.extractLsb' 8 2, x.f.extractLsb' 6 2, x.f.extractLsb' 4 2⟩)
  | 4 => .ok (.vfmin ⟨x.c, x.d, x.a, x.b, x.f.extractLsb' 8 2, x.f.extractLsb' 6 2, x.f.extractLsb' 4 2⟩)
  | 5 => .ok (.vfmax ⟨x.c, x.d, x.a, x.b, x.f.extractLsb' 8 2, x.f.extractLsb' 6 2, x.f.extractLsb' 4 2⟩)
  | 6 => .ok (.vfma ⟨x.c, x.d, x.a, x.b, x.f.extractLsb' 8 2, x.f.extractLsb' 6 2, x.f.extractLsb' 4 2⟩)
  | 7 => .ok (.vfms ⟨x.c, x.d, x.a, x.b, x.f.extractLsb' 8 2, x.f.extractLsb' 6 2, x.f.extractLsb' 4 2⟩)
  | 8 => .ok (.vfnma ⟨x.c, x.d, x.a, x.b, x.f.extractLsb' 8 2, x.f.extractLsb' 6 2, x.f.extractLsb' 4 2⟩)
  | 9 => .ok (.vfnms ⟨x.c, x.d, x.a, x.b, x.f.extractLsb' 8 2, x.f.extractLsb' 6 2, x.f.extractLsb' 4 2⟩)
  | 10 => .ok (.vfsgnj ⟨x.c, x.d, x.a, x.b, x.f.extractLsb' 8 2, x.f.extractLsb' 6 2, x.f.extractLsb' 4 2⟩)
  | 11 => .ok (.vfsgnjn ⟨x.c, x.d, x.a, x.b, x.f.extractLsb' 8 2, x.f.extractLsb' 6 2, x.f.extractLsb' 4 2⟩)
  | 12 => .ok (.vfsgnjx ⟨x.c, x.d, x.a, x.b, x.f.extractLsb' 8 2, x.f.extractLsb' 6 2, x.f.extractLsb' 4 2⟩)
  | _ => .error .reservedFunction

/-- Major 0x13 (R74): VFADD_X, VFSUB_X, VFMUL_X .... -/
def decodeMajor13 (x : Fields) : Except DecodeError Instr :=
  match (x.f.extractLsb' 0 4).toNat with
  | 0 => .ok (.vfaddX ⟨x.c, x.d, x.a, x.b, x.f.extractLsb' 8 2, x.f.extractLsb' 6 2, x.f.extractLsb' 4 2⟩)
  | 1 => .ok (.vfsubX ⟨x.c, x.d, x.a, x.b, x.f.extractLsb' 8 2, x.f.extractLsb' 6 2, x.f.extractLsb' 4 2⟩)
  | 2 => .ok (.vfmulX ⟨x.c, x.d, x.a, x.b, x.f.extractLsb' 8 2, x.f.extractLsb' 6 2, x.f.extractLsb' 4 2⟩)
  | 3 => .ok (.vfdivX ⟨x.c, x.d, x.a, x.b, x.f.extractLsb' 8 2, x.f.extractLsb' 6 2, x.f.extractLsb' 4 2⟩)
  | 4 => .ok (.vfminX ⟨x.c, x.d, x.a, x.b, x.f.extractLsb' 8 2, x.f.extractLsb' 6 2, x.f.extractLsb' 4 2⟩)
  | 5 => .ok (.vfmaxX ⟨x.c, x.d, x.a, x.b, x.f.extractLsb' 8 2, x.f.extractLsb' 6 2, x.f.extractLsb' 4 2⟩)
  | 6 => .ok (.vfmaX ⟨x.c, x.d, x.a, x.b, x.f.extractLsb' 8 2, x.f.extractLsb' 6 2, x.f.extractLsb' 4 2⟩)
  | 7 => .ok (.vfmsX ⟨x.c, x.d, x.a, x.b, x.f.extractLsb' 8 2, x.f.extractLsb' 6 2, x.f.extractLsb' 4 2⟩)
  | 8 => .ok (.vfnmaX ⟨x.c, x.d, x.a, x.b, x.f.extractLsb' 8 2, x.f.extractLsb' 6 2, x.f.extractLsb' 4 2⟩)
  | 9 => .ok (.vfnmsX ⟨x.c, x.d, x.a, x.b, x.f.extractLsb' 8 2, x.f.extractLsb' 6 2, x.f.extractLsb' 4 2⟩)
  | 10 => .ok (.vfsgnjX ⟨x.c, x.d, x.a, x.b, x.f.extractLsb' 8 2, x.f.extractLsb' 6 2, x.f.extractLsb' 4 2⟩)
  | 11 => .ok (.vfsgnjnX ⟨x.c, x.d, x.a, x.b, x.f.extractLsb' 8 2, x.f.extractLsb' 6 2, x.f.extractLsb' 4 2⟩)
  | 12 => .ok (.vfsgnjxX ⟨x.c, x.d, x.a, x.b, x.f.extractLsb' 8 2, x.f.extractLsb' 6 2, x.f.extractLsb' 4 2⟩)
  | _ => .error .reservedFunction

/-- Major 0x14 (R74): VFSQRT, VFEXP2, VFABS .... -/
def decodeMajor14 (x : Fields) : Except DecodeError Instr :=
  match (x.f.extractLsb' 0 4).toNat with
  | 0 => if x.a = 0#5 then .ok (.vfsqrt ⟨x.c, x.d, x.b, x.f.extractLsb' 8 2, x.f.extractLsb' 6 2, x.f.extractLsb' 4 2⟩) else .error .fieldNotZero
  | 1 => if x.a = 0#5 then .ok (.vfexp2 ⟨x.c, x.d, x.b, x.f.extractLsb' 8 2, x.f.extractLsb' 6 2, x.f.extractLsb' 4 2⟩) else .error .fieldNotZero
  | 2 => if x.a = 0#5 then .ok (.vfabs ⟨x.c, x.d, x.b, x.f.extractLsb' 8 2, x.f.extractLsb' 6 2, x.f.extractLsb' 4 2⟩) else .error .fieldNotZero
  | 3 => if x.a = 0#5 then .ok (.vfneg ⟨x.c, x.d, x.b, x.f.extractLsb' 8 2, x.f.extractLsb' 6 2, x.f.extractLsb' 4 2⟩) else .error .fieldNotZero
  | 4 => if x.a = 0#5 then .ok (.vfclass ⟨x.c, x.d, x.b, x.f.extractLsb' 8 2, x.f.extractLsb' 6 2, x.f.extractLsb' 4 2⟩) else .error .fieldNotZero
  | 5 => if x.a = 0#5 then .ok (.vfrint ⟨x.c, x.d, x.b, x.f.extractLsb' 8 2, x.f.extractLsb' 6 2, x.f.extractLsb' 4 2⟩) else .error .fieldNotZero
  | 7 => if x.a = 0#5 then .ok (.vclz ⟨x.c, x.d, x.b, x.f.extractLsb' 8 2, x.f.extractLsb' 6 2, x.f.extractLsb' 4 2⟩) else .error .fieldNotZero
  | 8 => if x.a = 0#5 then .ok (.vctz ⟨x.c, x.d, x.b, x.f.extractLsb' 8 2, x.f.extractLsb' 6 2, x.f.extractLsb' 4 2⟩) else .error .fieldNotZero
  | 9 => if x.a = 0#5 then .ok (.vpopc ⟨x.c, x.d, x.b, x.f.extractLsb' 8 2, x.f.extractLsb' 6 2, x.f.extractLsb' 4 2⟩) else .error .fieldNotZero
  | 10 => if x.a = 0#5 then .ok (.vnot ⟨x.c, x.d, x.b, x.f.extractLsb' 8 2, x.f.extractLsb' 6 2, x.f.extractLsb' 4 2⟩) else .error .fieldNotZero
  | 11 => if x.a = 0#5 then .ok (.vabs ⟨x.c, x.d, x.b, x.f.extractLsb' 8 2, x.f.extractLsb' 6 2, x.f.extractLsb' 4 2⟩) else .error .fieldNotZero
  | 12 => if x.a = 0#5 then .ok (.vneg ⟨x.c, x.d, x.b, x.f.extractLsb' 8 2, x.f.extractLsb' 6 2, x.f.extractLsb' 4 2⟩) else .error .fieldNotZero
  | _ => .error .reservedFunction

/-- Major 0x15 (R74): VCVT, VCVT_C4. -/
def decodeMajor15 (x : Fields) : Except DecodeError Instr :=
  match (x.f.extractLsb' 0 4).toNat with
  | 15 => if x.a.extractLsb' 3 2 = 0#2 then .ok (.vcvtC4 ⟨x.c, x.d, x.a.extractLsb' 0 3, x.b, x.f.extractLsb' 8 2, x.f.extractLsb' 6 2, x.f.extractLsb' 4 2⟩) else .error .fieldNotZero
  | _ => if x.a = 0#5 then .ok (.vcvt ⟨x.c, x.d, x.b, x.f.extractLsb' 8 2, x.f.extractLsb' 6 2, x.f.extractLsb' 4 2, x.f.extractLsb' 0 4⟩) else .error .fieldNotZero

/-- Major 0x16 (R74): VMV, VBCAST, VMERGE .... -/
def decodeMajor16 (x : Fields) : Except DecodeError Instr :=
  match (x.f.extractLsb' 0 4).toNat with
  | 0 => if x.a = 0#5 then .ok (.vmv ⟨x.c, x.d, x.b, x.f.extractLsb' 8 2, x.f.extractLsb' 6 2, x.f.extractLsb' 4 2⟩) else .error .fieldNotZero
  | 1 => if x.b = 0#5 then .ok (.vbcast ⟨x.c, x.d, x.a, x.f.extractLsb' 8 2, x.f.extractLsb' 6 2, x.f.extractLsb' 4 2⟩) else .error .fieldNotZero
  | 2 => .ok (.vmerge ⟨x.c, x.d, x.a, x.b, x.f.extractLsb' 8 2, x.f.extractLsb' 6 2, x.f.extractLsb' 4 2⟩)
  | 3 => if x.a = 0#5 ∧ x.b = 0#5 then .ok (.viota ⟨x.c, x.d, x.f.extractLsb' 8 2, x.f.extractLsb' 6 2, x.f.extractLsb' 4 2⟩) else .error .fieldNotZero
  | 4 => if x.d.extractLsb' 3 2 = 0#2 ∧ x.b = 0#5 ∧ x.f.extractLsb' 4 6 = 0#6 then .ok (.vcbld ⟨x.c, x.d.extractLsb' 0 3, x.a⟩) else .error .fieldNotZero
  | _ => .error .reservedFunction

/-- Major 0x18 (R74): VCMP_EQ, VCMP_NE, VCMP_LT .... -/
def decodeMajor18 (x : Fields) : Except DecodeError Instr :=
  match (x.f.extractLsb' 0 4).toNat with
  | 0 => if x.d.extractLsb' 3 2 = 0#2 ∧ x.f.extractLsb' 6 2 = 0#2 then .ok (.vcmpEq ⟨x.c, x.d.extractLsb' 0 3, x.a, x.b, x.f.extractLsb' 8 2, x.f.extractLsb' 4 2⟩) else .error .fieldNotZero
  | 1 => if x.d.extractLsb' 3 2 = 0#2 ∧ x.f.extractLsb' 6 2 = 0#2 then .ok (.vcmpNe ⟨x.c, x.d.extractLsb' 0 3, x.a, x.b, x.f.extractLsb' 8 2, x.f.extractLsb' 4 2⟩) else .error .fieldNotZero
  | 2 => if x.d.extractLsb' 3 2 = 0#2 ∧ x.f.extractLsb' 6 2 = 0#2 then .ok (.vcmpLt ⟨x.c, x.d.extractLsb' 0 3, x.a, x.b, x.f.extractLsb' 8 2, x.f.extractLsb' 4 2⟩) else .error .fieldNotZero
  | 3 => if x.d.extractLsb' 3 2 = 0#2 ∧ x.f.extractLsb' 6 2 = 0#2 then .ok (.vcmpLe ⟨x.c, x.d.extractLsb' 0 3, x.a, x.b, x.f.extractLsb' 8 2, x.f.extractLsb' 4 2⟩) else .error .fieldNotZero
  | 4 => if x.d.extractLsb' 3 2 = 0#2 ∧ x.f.extractLsb' 6 2 = 0#2 then .ok (.vcmpGt ⟨x.c, x.d.extractLsb' 0 3, x.a, x.b, x.f.extractLsb' 8 2, x.f.extractLsb' 4 2⟩) else .error .fieldNotZero
  | 5 => if x.d.extractLsb' 3 2 = 0#2 ∧ x.f.extractLsb' 6 2 = 0#2 then .ok (.vcmpGe ⟨x.c, x.d.extractLsb' 0 3, x.a, x.b, x.f.extractLsb' 8 2, x.f.extractLsb' 4 2⟩) else .error .fieldNotZero
  | 6 => if x.d.extractLsb' 3 2 = 0#2 ∧ x.f.extractLsb' 6 2 = 0#2 then .ok (.vcmpUnord ⟨x.c, x.d.extractLsb' 0 3, x.a, x.b, x.f.extractLsb' 8 2, x.f.extractLsb' 4 2⟩) else .error .fieldNotZero
  | 7 => if x.d.extractLsb' 3 2 = 0#2 ∧ x.f.extractLsb' 6 2 = 0#2 then .ok (.vcmpOrd ⟨x.c, x.d.extractLsb' 0 3, x.a, x.b, x.f.extractLsb' 8 2, x.f.extractLsb' 4 2⟩) else .error .fieldNotZero
  | _ => .error .reservedFunction

/-- Major 0x19 (R74): VCMP_EQ_X, VCMP_NE_X, VCMP_LT_X .... -/
def decodeMajor19 (x : Fields) : Except DecodeError Instr :=
  match (x.f.extractLsb' 0 4).toNat with
  | 0 => if x.d.extractLsb' 3 2 = 0#2 ∧ x.f.extractLsb' 6 2 = 0#2 then .ok (.vcmpEqX ⟨x.c, x.d.extractLsb' 0 3, x.a, x.b, x.f.extractLsb' 8 2, x.f.extractLsb' 4 2⟩) else .error .fieldNotZero
  | 1 => if x.d.extractLsb' 3 2 = 0#2 ∧ x.f.extractLsb' 6 2 = 0#2 then .ok (.vcmpNeX ⟨x.c, x.d.extractLsb' 0 3, x.a, x.b, x.f.extractLsb' 8 2, x.f.extractLsb' 4 2⟩) else .error .fieldNotZero
  | 2 => if x.d.extractLsb' 3 2 = 0#2 ∧ x.f.extractLsb' 6 2 = 0#2 then .ok (.vcmpLtX ⟨x.c, x.d.extractLsb' 0 3, x.a, x.b, x.f.extractLsb' 8 2, x.f.extractLsb' 4 2⟩) else .error .fieldNotZero
  | 3 => if x.d.extractLsb' 3 2 = 0#2 ∧ x.f.extractLsb' 6 2 = 0#2 then .ok (.vcmpLeX ⟨x.c, x.d.extractLsb' 0 3, x.a, x.b, x.f.extractLsb' 8 2, x.f.extractLsb' 4 2⟩) else .error .fieldNotZero
  | 4 => if x.d.extractLsb' 3 2 = 0#2 ∧ x.f.extractLsb' 6 2 = 0#2 then .ok (.vcmpGtX ⟨x.c, x.d.extractLsb' 0 3, x.a, x.b, x.f.extractLsb' 8 2, x.f.extractLsb' 4 2⟩) else .error .fieldNotZero
  | 5 => if x.d.extractLsb' 3 2 = 0#2 ∧ x.f.extractLsb' 6 2 = 0#2 then .ok (.vcmpGeX ⟨x.c, x.d.extractLsb' 0 3, x.a, x.b, x.f.extractLsb' 8 2, x.f.extractLsb' 4 2⟩) else .error .fieldNotZero
  | 6 => if x.d.extractLsb' 3 2 = 0#2 ∧ x.f.extractLsb' 6 2 = 0#2 then .ok (.vcmpUnordX ⟨x.c, x.d.extractLsb' 0 3, x.a, x.b, x.f.extractLsb' 8 2, x.f.extractLsb' 4 2⟩) else .error .fieldNotZero
  | 7 => if x.d.extractLsb' 3 2 = 0#2 ∧ x.f.extractLsb' 6 2 = 0#2 then .ok (.vcmpOrdX ⟨x.c, x.d.extractLsb' 0 3, x.a, x.b, x.f.extractLsb' 8 2, x.f.extractLsb' 4 2⟩) else .error .fieldNotZero
  | _ => .error .reservedFunction

/-- Major 0x1A (R74): MAND, MOR, MXOR .... -/
def decodeMajor1A (x : Fields) : Except DecodeError Instr :=
  match (x.f.extractLsb' 0 4).toNat with
  | 0 => if x.d.extractLsb' 3 2 = 0#2 ∧ x.a.extractLsb' 3 2 = 0#2 ∧ x.b.extractLsb' 3 2 = 0#2 ∧ x.f.extractLsb' 4 4 = 0#4 then .ok (.mand ⟨x.c, x.d.extractLsb' 0 3, x.a.extractLsb' 0 3, x.b.extractLsb' 0 3, x.f.extractLsb' 8 2⟩) else .error .fieldNotZero
  | 1 => if x.d.extractLsb' 3 2 = 0#2 ∧ x.a.extractLsb' 3 2 = 0#2 ∧ x.b.extractLsb' 3 2 = 0#2 ∧ x.f.extractLsb' 4 4 = 0#4 then .ok (.mor ⟨x.c, x.d.extractLsb' 0 3, x.a.extractLsb' 0 3, x.b.extractLsb' 0 3, x.f.extractLsb' 8 2⟩) else .error .fieldNotZero
  | 2 => if x.d.extractLsb' 3 2 = 0#2 ∧ x.a.extractLsb' 3 2 = 0#2 ∧ x.b.extractLsb' 3 2 = 0#2 ∧ x.f.extractLsb' 4 4 = 0#4 then .ok (.mxor ⟨x.c, x.d.extractLsb' 0 3, x.a.extractLsb' 0 3, x.b.extractLsb' 0 3, x.f.extractLsb' 8 2⟩) else .error .fieldNotZero
  | 3 => if x.d.extractLsb' 3 2 = 0#2 ∧ x.a.extractLsb' 3 2 = 0#2 ∧ x.b.extractLsb' 3 2 = 0#2 ∧ x.f.extractLsb' 4 4 = 0#4 then .ok (.mandn ⟨x.c, x.d.extractLsb' 0 3, x.a.extractLsb' 0 3, x.b.extractLsb' 0 3, x.f.extractLsb' 8 2⟩) else .error .fieldNotZero
  | 4 => if x.d.extractLsb' 3 2 = 0#2 ∧ x.a = 0#5 ∧ x.b.extractLsb' 3 2 = 0#2 ∧ x.f.extractLsb' 4 4 = 0#4 then .ok (.mnot ⟨x.c, x.d.extractLsb' 0 3, x.b.extractLsb' 0 3, x.f.extractLsb' 8 2⟩) else .error .fieldNotZero
  | 5 => if x.d.extractLsb' 3 2 = 0#2 ∧ x.a = 0#5 ∧ x.b = 0#5 ∧ x.f.extractLsb' 4 4 = 0#4 then .ok (.mset ⟨x.c, x.d.extractLsb' 0 3, x.f.extractLsb' 8 2⟩) else .error .fieldNotZero
  | 6 => if x.d.extractLsb' 3 2 = 0#2 ∧ x.a = 0#5 ∧ x.b = 0#5 ∧ x.f.extractLsb' 4 4 = 0#4 then .ok (.mclr ⟨x.c, x.d.extractLsb' 0 3, x.f.extractLsb' 8 2⟩) else .error .fieldNotZero
  | 7 => if x.d.extractLsb' 3 2 = 0#2 ∧ x.a = 0#5 ∧ x.b.extractLsb' 3 2 = 0#2 ∧ x.f.extractLsb' 4 4 = 0#4 then .ok (.mmv ⟨x.c, x.d.extractLsb' 0 3, x.b.extractLsb' 0 3, x.f.extractLsb' 8 2⟩) else .error .fieldNotZero
  | 8 => if x.a = 0#5 ∧ x.b.extractLsb' 3 2 = 0#2 ∧ x.f.extractLsb' 4 4 = 0#4 then .ok (.mpopc ⟨x.c, x.d, x.b.extractLsb' 0 3, x.f.extractLsb' 8 2⟩) else .error .fieldNotZero
  | 9 => if x.a = 0#5 ∧ x.b.extractLsb' 3 2 = 0#2 ∧ x.f.extractLsb' 4 4 = 0#4 then .ok (.mfirst ⟨x.c, x.d, x.b.extractLsb' 0 3, x.f.extractLsb' 8 2⟩) else .error .fieldNotZero
  | 10 => if x.d.extractLsb' 3 2 = 0#2 ∧ x.a = 0#5 ∧ x.b.extractLsb' 3 2 = 0#2 ∧ x.f.extractLsb' 4 4 = 0#4 then .ok (.msbf ⟨x.c, x.d.extractLsb' 0 3, x.b.extractLsb' 0 3, x.f.extractLsb' 8 2⟩) else .error .fieldNotZero
  | _ => .error .reservedFunction

/-- Major 0x1B (R74): VSLUP, VSLDN, VGATHER .... -/
def decodeMajor1B (x : Fields) : Except DecodeError Instr :=
  match (x.f.extractLsb' 0 4).toNat with
  | 0 => if x.f.extractLsb' 6 2 = 0#2 then .ok (.vslup ⟨x.c, x.d, x.a, x.b, x.f.extractLsb' 8 2, x.f.extractLsb' 4 2⟩) else .error .fieldNotZero
  | 1 => if x.f.extractLsb' 6 2 = 0#2 then .ok (.vsldn ⟨x.c, x.d, x.a, x.b, x.f.extractLsb' 8 2, x.f.extractLsb' 4 2⟩) else .error .fieldNotZero
  | 2 => if x.f.extractLsb' 6 2 = 0#2 then .ok (.vgather ⟨x.c, x.d, x.a, x.b, x.f.extractLsb' 8 2, x.f.extractLsb' 4 2⟩) else .error .fieldNotZero
  | 3 => if x.a = 0#5 ∧ x.f.extractLsb' 6 2 = 0#2 then .ok (.vcompress ⟨x.c, x.d, x.b, x.f.extractLsb' 8 2, x.f.extractLsb' 4 2⟩) else .error .fieldNotZero
  | 4 => if x.a = 0#5 ∧ x.f.extractLsb' 6 2 = 0#2 then .ok (.vexpand ⟨x.c, x.d, x.b, x.f.extractLsb' 8 2, x.f.extractLsb' 4 2⟩) else .error .fieldNotZero
  | 5 => if x.f.extractLsb' 4 4 = 0#4 then .ok (.vextract ⟨x.c, x.d, x.a, x.b, x.f.extractLsb' 8 2⟩) else .error .fieldNotZero
  | 6 => if x.f.extractLsb' 4 4 = 0#4 then .ok (.vinsert ⟨x.c, x.d, x.a, x.b, x.f.extractLsb' 8 2⟩) else .error .fieldNotZero
  | 7 => .ok (.vrowrot ⟨x.c, x.d, x.a, x.b, x.f.extractLsb' 8 2, x.f.extractLsb' 6 2, x.f.extractLsb' 4 2⟩)
  | _ => .error .reservedFunction

/-- Major 0x1C (R74): VREDSUM, VREDMIN, VREDMAX .... -/
def decodeMajor1C (x : Fields) : Except DecodeError Instr :=
  match (x.f.extractLsb' 0 4).toNat with
  | 0 => if x.a = 0#5 ∧ x.f.extractLsb' 6 2 = 0#2 then .ok (.vredsum ⟨x.c, x.d, x.b, x.f.extractLsb' 8 2, x.f.extractLsb' 4 2⟩) else .error .fieldNotZero
  | 1 => if x.a = 0#5 ∧ x.f.extractLsb' 6 2 = 0#2 then .ok (.vredmin ⟨x.c, x.d, x.b, x.f.extractLsb' 8 2, x.f.extractLsb' 4 2⟩) else .error .fieldNotZero
  | 2 => if x.a = 0#5 ∧ x.f.extractLsb' 6 2 = 0#2 then .ok (.vredmax ⟨x.c, x.d, x.b, x.f.extractLsb' 8 2, x.f.extractLsb' 4 2⟩) else .error .fieldNotZero
  | 3 => if x.a = 0#5 ∧ x.f.extractLsb' 6 2 = 0#2 then .ok (.vredand ⟨x.c, x.d, x.b, x.f.extractLsb' 8 2, x.f.extractLsb' 4 2⟩) else .error .fieldNotZero
  | 4 => if x.a = 0#5 ∧ x.f.extractLsb' 6 2 = 0#2 then .ok (.vredor ⟨x.c, x.d, x.b, x.f.extractLsb' 8 2, x.f.extractLsb' 4 2⟩) else .error .fieldNotZero
  | 5 => if x.a = 0#5 ∧ x.f.extractLsb' 6 2 = 0#2 then .ok (.vredxor ⟨x.c, x.d, x.b, x.f.extractLsb' 8 2, x.f.extractLsb' 4 2⟩) else .error .fieldNotZero
  | 6 => if x.a = 0#5 ∧ x.f.extractLsb' 6 2 = 0#2 then .ok (.vfsumo ⟨x.c, x.d, x.b, x.f.extractLsb' 8 2, x.f.extractLsb' 4 2⟩) else .error .fieldNotZero
  | 7 => if x.a = 0#5 ∧ x.f.extractLsb' 6 2 = 0#2 then .ok (.vfsumt ⟨x.c, x.d, x.b, x.f.extractLsb' 8 2, x.f.extractLsb' 4 2⟩) else .error .fieldNotZero
  | 8 => if x.a = 0#5 ∧ x.f.extractLsb' 6 2 = 0#2 then .ok (.vfredmin ⟨x.c, x.d, x.b, x.f.extractLsb' 8 2, x.f.extractLsb' 4 2⟩) else .error .fieldNotZero
  | 9 => if x.a = 0#5 ∧ x.f.extractLsb' 6 2 = 0#2 then .ok (.vfredmax ⟨x.c, x.d, x.b, x.f.extractLsb' 8 2, x.f.extractLsb' 4 2⟩) else .error .fieldNotZero
  | _ => .error .reservedFunction

/-- Major 0x20 (R74): VLU. -/
def decodeMajor20 (x : Fields) : Except DecodeError Instr :=
  .ok (.vlu ⟨x.c, x.d, x.a, x.b, x.f.extractLsb' 8 2, x.f.extractLsb' 6 2, x.f.extractLsb' 4 2, x.f.extractLsb' 1 3, x.f.extractLsb' 0 1⟩)

/-- Major 0x21 (R74): VLS. -/
def decodeMajor21 (x : Fields) : Except DecodeError Instr :=
  .ok (.vls ⟨x.c, x.d, x.a, x.b, x.f.extractLsb' 8 2, x.f.extractLsb' 6 2, x.f.extractLsb' 4 2, x.f.extractLsb' 1 3, x.f.extractLsb' 0 1⟩)

/-- Major 0x22 (R74): VLX. -/
def decodeMajor22 (x : Fields) : Except DecodeError Instr :=
  if x.f.extractLsb' 6 2 = 0#2 then .ok (.vlx ⟨x.c, x.d, x.a, x.b, x.f.extractLsb' 8 2, x.f.extractLsb' 4 2, x.f.extractLsb' 1 3, x.f.extractLsb' 0 1⟩) else .error .fieldNotZero

/-- Major 0x23 (R74): VLD. -/
def decodeMajor23 (x : Fields) : Except DecodeError Instr :=
  .ok (.vld ⟨x.c, x.d, x.a, x.b, x.f.extractLsb' 8 2, x.f.extractLsb' 6 2, x.f.extractLsb' 4 2, x.f.extractLsb' 1 3, x.f.extractLsb' 0 1⟩)

/-- Major 0x24 (R74): VSU. -/
def decodeMajor24 (x : Fields) : Except DecodeError Instr :=
  .ok (.vsu ⟨x.c, x.d, x.a, x.b, x.f.extractLsb' 8 2, x.f.extractLsb' 6 2, x.f.extractLsb' 4 2, x.f.extractLsb' 1 3, x.f.extractLsb' 0 1⟩)

/-- Major 0x25 (R74): VSS. -/
def decodeMajor25 (x : Fields) : Except DecodeError Instr :=
  .ok (.vss ⟨x.c, x.d, x.a, x.b, x.f.extractLsb' 8 2, x.f.extractLsb' 6 2, x.f.extractLsb' 4 2, x.f.extractLsb' 1 3, x.f.extractLsb' 0 1⟩)

/-- Major 0x26 (R74): VSX. -/
def decodeMajor26 (x : Fields) : Except DecodeError Instr :=
  if x.f.extractLsb' 6 2 = 0#2 then .ok (.vsx ⟨x.c, x.d, x.a, x.b, x.f.extractLsb' 8 2, x.f.extractLsb' 4 2, x.f.extractLsb' 1 3, x.f.extractLsb' 0 1⟩) else .error .fieldNotZero

/-- Major 0x27 (R74): VSD. -/
def decodeMajor27 (x : Fields) : Except DecodeError Instr :=
  .ok (.vsd ⟨x.c, x.d, x.a, x.b, x.f.extractLsb' 8 2, x.f.extractLsb' 6 2, x.f.extractLsb' 4 2, x.f.extractLsb' 1 3, x.f.extractLsb' 0 1⟩)

/-- Major 0x28 (R74): VAMOA_ADD, VAMOA_AND, VAMOA_OR .... -/
def decodeMajor28 (x : Fields) : Except DecodeError Instr :=
  match (x.f.extractLsb' 6 2).toNat with
  | 0 => .ok (.vamoaAdd ⟨x.c, x.d, x.a, x.b, x.f.extractLsb' 8 2, x.f.extractLsb' 4 2, x.f.extractLsb' 1 3, x.f.extractLsb' 0 1⟩)
  | 1 => .ok (.vamoaAnd ⟨x.c, x.d, x.a, x.b, x.f.extractLsb' 8 2, x.f.extractLsb' 4 2, x.f.extractLsb' 1 3, x.f.extractLsb' 0 1⟩)
  | 2 => .ok (.vamoaOr ⟨x.c, x.d, x.a, x.b, x.f.extractLsb' 8 2, x.f.extractLsb' 4 2, x.f.extractLsb' 1 3, x.f.extractLsb' 0 1⟩)
  | 3 => .ok (.vamoaXor ⟨x.c, x.d, x.a, x.b, x.f.extractLsb' 8 2, x.f.extractLsb' 4 2, x.f.extractLsb' 1 3, x.f.extractLsb' 0 1⟩)
  | _ => .error .reservedFunction

/-- Major 0x29 (R74): VAMOB_MIN, VAMOB_MAX, VAMOB_SWAP .... -/
def decodeMajor29 (x : Fields) : Except DecodeError Instr :=
  match (x.f.extractLsb' 6 2).toNat with
  | 0 => .ok (.vamobMin ⟨x.c, x.d, x.a, x.b, x.f.extractLsb' 8 2, x.f.extractLsb' 4 2, x.f.extractLsb' 1 3, x.f.extractLsb' 0 1⟩)
  | 1 => .ok (.vamobMax ⟨x.c, x.d, x.a, x.b, x.f.extractLsb' 8 2, x.f.extractLsb' 4 2, x.f.extractLsb' 1 3, x.f.extractLsb' 0 1⟩)
  | 2 => .ok (.vamobSwap ⟨x.c, x.d, x.a, x.b, x.f.extractLsb' 8 2, x.f.extractLsb' 4 2, x.f.extractLsb' 1 3, x.f.extractLsb' 0 1⟩)
  | 3 => .ok (.vamobCas ⟨x.c, x.d, x.a, x.b, x.f.extractLsb' 8 2, x.f.extractLsb' 4 2, x.f.extractLsb' 1 3, x.f.extractLsb' 0 1⟩)
  | _ => .error .reservedFunction

/-- Major 0x2A (R74): VAMOC_FADD, VAMOC_FMIN, VAMOC_FMAX. -/
def decodeMajor2A (x : Fields) : Except DecodeError Instr :=
  match (x.f.extractLsb' 6 2).toNat with
  | 0 => .ok (.vamocFadd ⟨x.c, x.d, x.a, x.b, x.f.extractLsb' 8 2, x.f.extractLsb' 4 2, x.f.extractLsb' 1 3, x.f.extractLsb' 0 1⟩)
  | 1 => .ok (.vamocFmin ⟨x.c, x.d, x.a, x.b, x.f.extractLsb' 8 2, x.f.extractLsb' 4 2, x.f.extractLsb' 1 3, x.f.extractLsb' 0 1⟩)
  | 2 => .ok (.vamocFmax ⟨x.c, x.d, x.a, x.b, x.f.extractLsb' 8 2, x.f.extractLsb' 4 2, x.f.extractLsb' 1 3, x.f.extractLsb' 0 1⟩)
  | _ => .error .reservedFunction

/-- Major 0x2B (R74): COPY, COPY2, COPYX .... -/
def decodeMajor2B (x : Fields) : Except DecodeError Instr :=
  match (x.f.extractLsb' 0 2).toNat with
  | 0 => .ok (.copy ⟨x.d, x.a, x.b, x.f.extractLsb' 5 5, x.f.extractLsb' 2 3⟩)
  | 1 => .ok (.copy2 ⟨x.d, x.a, x.b, x.f.extractLsb' 5 5, x.f.extractLsb' 2 3⟩)
  | 2 => .ok (.copyx ⟨x.d, x.a, x.b, x.f.extractLsb' 5 5, x.f.extractLsb' 2 3⟩)
  | 3 => .ok (.fill ⟨x.d, x.a, x.b, x.f.extractLsb' 5 5, x.f.extractLsb' 2 3⟩)
  | _ => .error .reservedFunction

/-- Major 0x2C (R74): PREF, ECFG, ECNT .... -/
def decodeMajor2C (x : Fields) : Except DecodeError Instr :=
  match (x.f.extractLsb' 0 2).toNat with
  | 0 => if x.a = 0#5 then .ok (.pref ⟨x.d, x.b, x.f.extractLsb' 5 5, x.f.extractLsb' 2 3⟩) else .error .fieldNotZero
  | 1 => if x.f.extractLsb' 5 5 = 0#5 then .ok (.ecfg ⟨x.d, x.a, x.b, x.f.extractLsb' 2 3⟩) else .error .fieldNotZero
  | 2 => if x.a = 0#5 ∧ x.b = 0#5 ∧ x.f.extractLsb' 5 5 = 0#5 then .ok (.ecnt ⟨x.d, x.f.extractLsb' 2 3⟩) else .error .fieldNotZero
  | 3 => if x.b = 0#5 ∧ x.f.extractLsb' 5 5 = 0#5 then .ok (.eres ⟨x.d, x.a, x.f.extractLsb' 2 3⟩) else .error .fieldNotZero
  | _ => .error .reservedFunction

/-- Major 0x2D (R74): COLL. -/
def decodeMajor2D (x : Fields) : Except DecodeError Instr :=
  match (x.f.extractLsb' 0 2).toNat with
  | 0 => .ok (.coll ⟨x.d, x.a, x.b, x.f.extractLsb' 5 5, x.f.extractLsb' 2 3⟩)
  | _ => .error .reservedFunction

/-- Major 0x30 (R74): MMODE_ON, MMODE_OFF, MSWAP .... -/
def decodeMajor30 (x : Fields) : Except DecodeError Instr :=
  match (x.f).toNat with
  | 0 => if x.a = 0#5 ∧ x.b = 0#5 then .ok (.mmodeOn ⟨x.d⟩) else .error .fieldNotZero
  | 1 => if x.d = 0#5 ∧ x.a = 0#5 ∧ x.b = 0#5 then .ok (.mmodeOff) else .error .fieldNotZero
  | 2 => if x.d = 0#5 ∧ x.a = 0#5 ∧ x.b = 0#5 then .ok (.mswap) else .error .fieldNotZero
  | 3 => if x.a = 0#5 ∧ x.b = 0#5 then .ok (.mstat ⟨x.d⟩) else .error .fieldNotZero
  | _ => .error .reservedFunction

/-- Major 0x31 (R74): MLS. -/
def decodeMajor31 (x : Fields) : Except DecodeError Instr :=
  if x.d = 0#5 ∧ x.f.extractLsb' 0 8 = 0#8 then .ok (.mls ⟨x.c, x.a, x.b, x.f.extractLsb' 8 2⟩) else .error .fieldNotZero

/-- Major 0x32 (R74): MSTR. -/
def decodeMajor32 (x : Fields) : Except DecodeError Instr :=
  if x.b = 0#5 ∧ x.f.extractLsb' 2 2 = 0#2 then .ok (.mstr ⟨x.c, x.d, x.a, x.f.extractLsb' 8 2, x.f.extractLsb' 6 2, x.f.extractLsb' 4 2, x.f.extractLsb' 1 1, x.f.extractLsb' 0 1⟩) else .error .fieldNotZero

/-- Major 0x33 (R74): MOP. -/
def decodeMajor33 (x : Fields) : Except DecodeError Instr :=
  if x.f.extractLsb' 6 2 = 0#2 ∧ x.f.extractLsb' 0 4 = 0#4 then .ok (.mop ⟨x.c, x.d, x.a, x.b, x.f.extractLsb' 8 2, x.f.extractLsb' 4 2⟩) else .error .fieldNotZero

/-- Major 0x34 (R74): MSCAN, MSCANF. -/
def decodeMajor34 (x : Fields) : Except DecodeError Instr :=
  match (x.d).toNat with
  | 0 => if x.f.extractLsb' 4 6 = 0#6 then .ok (.mscan ⟨x.c, x.a, x.b, x.f.extractLsb' 3 1, x.f.extractLsb' 2 1, x.f.extractLsb' 0 2⟩) else .error .fieldNotZero
  | 1 => if x.f.extractLsb' 2 8 = 0#8 then .ok (.mscanf ⟨x.c, x.a, x.b, x.f.extractLsb' 0 2⟩) else .error .fieldNotZero
  | _ => .error .reservedFunction

/-- Major 0x35 (R74): MACC_RD, MACC_WR, MACC_ZR .... -/
def decodeMajor35 (x : Fields) : Except DecodeError Instr :=
  match (x.f.extractLsb' 0 4).toNat with
  | 0 => if x.b = 0#5 then .ok (.maccRd ⟨x.c, x.d, x.a, x.f.extractLsb' 8 2, x.f.extractLsb' 6 2, x.f.extractLsb' 4 2⟩) else .error .fieldNotZero
  | 1 => if x.b = 0#5 then .ok (.maccWr ⟨x.c, x.d, x.a, x.f.extractLsb' 8 2, x.f.extractLsb' 6 2, x.f.extractLsb' 4 2⟩) else .error .fieldNotZero
  | 2 => if x.d = 0#5 ∧ x.f.extractLsb' 4 6 = 0#6 then .ok (.maccZr ⟨x.c, x.a, x.b⟩) else .error .fieldNotZero
  | 3 => if x.f.extractLsb' 4 6 = 0#6 then .ok (.maccCp ⟨x.c, x.d, x.a, x.b⟩) else .error .fieldNotZero
  | 4 => if x.a = 0#5 ∧ x.b.extractLsb' 2 3 = 0#3 ∧ x.f.extractLsb' 4 4 = 4#4 then .ok (.maccScrd ⟨x.c, x.d, x.b.extractLsb' 0 2, x.f.extractLsb' 8 2⟩) else .error .fieldNotZero
  | 5 => if x.a = 0#5 ∧ x.b.extractLsb' 2 3 = 0#3 ∧ x.f.extractLsb' 4 4 = 4#4 then .ok (.maccScwr ⟨x.c, x.d, x.b.extractLsb' 0 2, x.f.extractLsb' 8 2⟩) else .error .fieldNotZero
  | _ => .error .reservedFunction

/-- Major 0x38 (R74): REP. -/
def decodeMajor38 (x : Fields) : Except DecodeError Instr :=
  if x.b.extractLsb' 0 2 = 0#2 ∧ x.f = 0#10 then .ok (.rep ⟨x.d.extractLsb' 1 4, (x.d.extractLsb' 0 1 ++ x.a), x.b.extractLsb' 2 3⟩) else .error .fieldNotZero

/-- Major 0x3F (R74): UDF. -/
def decodeMajor3F (x : Fields) : Except DecodeError Instr :=
  .ok (.udf ⟨x.c, (x.d ++ x.a ++ x.b ++ x.f)⟩)

/-- The decoders of the majors whose words a vector queue can hold, by major (R74); a major that is not assigned is
reserved. -/
def decodeQueued (x : Fields) : Except DecodeError Instr :=
  match x.maj.toNat with
  | 16 => decodeMajor10 x
  | 17 => decodeMajor11 x
  | 18 => decodeMajor12 x
  | 19 => decodeMajor13 x
  | 20 => decodeMajor14 x
  | 21 => decodeMajor15 x
  | 22 => decodeMajor16 x
  | 24 => decodeMajor18 x
  | 25 => decodeMajor19 x
  | 26 => decodeMajor1A x
  | 27 => decodeMajor1B x
  | 28 => decodeMajor1C x
  | 32 => decodeMajor20 x
  | 33 => decodeMajor21 x
  | 34 => decodeMajor22 x
  | 35 => decodeMajor23 x
  | 36 => decodeMajor24 x
  | 37 => decodeMajor25 x
  | 38 => decodeMajor26 x
  | 39 => decodeMajor27 x
  | 40 => decodeMajor28 x
  | 41 => decodeMajor29 x
  | 42 => decodeMajor2A x
  | 48 => scalarOnly x (decodeMajor30 x)
  | 49 => decodeMajor31 x
  | 50 => decodeMajor32 x
  | 51 => decodeMajor33 x
  | 52 => decodeMajor34 x
  | 53 => decodeMajor35 x
  | _ => .error .reservedMajor

/-- A word's major selects its decoder (R74). A B bit on a major that is not queued is refused (R70), except on UDF,
whose words all name the one instruction UDF (R75). -/
noncomputable def decodeFields (x : Fields) : Except DecodeError Instr :=
  match x.maj.toNat with
  | 0 => scalarOnly x (decodeMajor00 x)
  | 1 => scalarOnly x (decodeMajor01 x)
  | 2 => scalarOnly x (decodeMajor02 x)
  | 3 => scalarOnly x (decodeMajor03 x)
  | 4 => scalarOnly x (decodeMajor04 x)
  | 5 => scalarOnly x (decodeMajor05 x)
  | 6 => scalarOnly x (decodeMajor06 x)
  | 7 => scalarOnly x (decodeMajor07 x)
  | 8 => scalarOnly x (decodeMajor08 x)
  | 9 => scalarOnly x (decodeMajor09 x)
  | 10 => scalarOnly x (decodeMajor0A x)
  | 11 => scalarOnly x (decodeMajor0B x)
  | 12 => scalarOnly x (decodeMajor0C x)
  | 13 => scalarOnly x (decodeMajor0D x)
  | 14 => scalarOnly x (decodeMajor0E x)
  | 15 => scalarOnly x (decodeMajor0F x)
  | 43 => scalarOnly x (decodeMajor2B x)
  | 44 => scalarOnly x (decodeMajor2C x)
  | 45 => scalarOnly x (decodeMajor2D x)
  | 56 => scalarOnly x (decodeMajor38 x)
  | 63 => decodeMajor3F x
  | _ => decodeQueued x

/-- The instruction a word stands for. -/
noncomputable def decode (w : IWord) : Except DecodeError Instr := decodeFields (splitWord w)

/-- Four bytes as a word, the first the least significant (00_scope R3, R69); fewer are no word. -/
def wordOfBytes : List Byte → Option IWord
  | [b0, b1, b2, b3] => some (b3 ++ b2 ++ b1 ++ b0)
  | _ => none

/-- Decoding on any bytes: the instruction at their start and the bytes after it. -/
noncomputable def decodeBytes : List Byte → Option (Except DecodeError Instr × List Byte)
  | b0 :: b1 :: b2 :: b3 :: rest => (wordOfBytes [b0, b1, b2, b3]).map fun w => (decode w, rest)
  | _ => none

/-- The fields of PREF's word (R195). -/
def prefFields (f : PrefOps) : Fields :=
  ⟨0#1, 44#6, f.d, 0#5, f.b, f.e ++ f.slot ++ 0#2⟩

/-- The fields of ECFG's word (R195). -/
def ecfgFields (f : EcfgOps) : Fields :=
  ⟨0#1, 44#6, f.d, f.a, f.b, 0#5 ++ f.slot ++ 1#2⟩

/-- The fields of ECNT's word (R195). -/
def ecntFields (f : EcntOps) : Fields :=
  ⟨0#1, 44#6, f.d, 0#5, 0#5, 0#5 ++ f.slot ++ 2#2⟩

/-- The fields of ERES's word (R312). -/
def eresFields (f : RrSlot) : Fields :=
  ⟨0#1, 44#6, f.d, f.a, 0#5, 0#5 ++ f.slot ++ 3#2⟩

/-- The fields of COLL's word (R197). -/
def collFields (f : EngOps) : Fields :=
  ⟨0#1, 45#6, f.d, f.a, f.b, f.e ++ f.slot ++ 0#2⟩

/-- The fields of MLS's word (R214). -/
def mlsFields (f : MlsOps) : Fields :=
  ⟨f.bBit, 49#6, 0#5, f.a, f.b, f.l ++ 0#8⟩

/-- The fields of MOP's word (R219). -/
def mopFields (f : MopOps) : Fields :=
  ⟨f.bBit, 51#6, f.vs, f.a, f.b, f.l ++ 0#2 ++ f.m ++ 0#4⟩

/-- The fields of MSCAN's word (R220). -/
def mscanFields (f : MscanOps) : Fields :=
  ⟨f.bBit, 52#6, 0#5, f.a, f.b, 0#6 ++ f.wout ++ f.cin ++ f.slot⟩

/-- The fields of MSCANF's word (R221). -/
def mscanfFields (f : MscanfOps) : Fields :=
  ⟨f.bBit, 52#6, 1#5, f.a, f.b, 0#8 ++ f.slot⟩

/-- The fields of MACC_RD's word (R223). -/
def maccRdFields (f : VXOps) : Fields :=
  ⟨f.bBit, 53#6, f.d, f.a, 0#5, f.l ++ f.g ++ f.m ++ 0#4⟩

/-- The fields of MACC_WR's word (R223). -/
def maccWrFields (f : VXOps) : Fields :=
  ⟨f.bBit, 53#6, f.d, f.a, 0#5, f.l ++ f.g ++ f.m ++ 1#4⟩

/-- The fields of MACC_ZR's word (R223). -/
def maccZrFields (f : MaccZrOps) : Fields :=
  ⟨f.bBit, 53#6, 0#5, f.a, f.b, 2#10⟩

/-- The fields of MACC_CP's word (R223). -/
def maccCpFields (f : MaccCpOps) : Fields :=
  ⟨f.bBit, 53#6, f.e, f.a, f.b, 3#10⟩

/-- The fields of MACC_SCRD's word (R223). -/
def maccScrdFields (f : MaccScOps) : Fields :=
  ⟨f.bBit, 53#6, f.d, 0#5, 0#3 ++ f.slot, f.l ++ 68#8⟩

/-- The fields of MACC_SCWR's word (R223). -/
def maccScwrFields (f : MaccScOps) : Fields :=
  ⟨f.bBit, 53#6, f.d, 0#5, 0#3 ++ f.slot, f.l ++ 69#8⟩

/-- The fields of REP's word (R89). -/
def repFields (f : RepOps) : Fields :=
  ⟨0#1, 56#6, f.n ++ f.k.extractLsb' 5 1, f.k.extractLsb' 0 5, f.s ++ 0#2, 0#10⟩

/-- The fields of UDF's word (R75). -/
def udfFields (f : UdfOps) : Fields :=
  ⟨f.u, 63#6, f.v.extractLsb' 20 5, f.v.extractLsb' 15 5, f.v.extractLsb' 10 5, f.v.extractLsb' 0 10⟩

/-- The fields of an instruction's word, from the same tables (R71-R85); the steps without an encoding have
none. -/
def encodeFields : Instr → Option Fields
  | .add f => some ⟨0#1, 0#6, f.d, f.a, f.b, 1#10⟩
  | .sub f => some ⟨0#1, 0#6, f.d, f.a, f.b, 2#10⟩
  | .and f => some ⟨0#1, 0#6, f.d, f.a, f.b, 3#10⟩
  | .or f => some ⟨0#1, 0#6, f.d, f.a, f.b, 4#10⟩
  | .xor f => some ⟨0#1, 0#6, f.d, f.a, f.b, 5#10⟩
  | .sll f => some ⟨0#1, 0#6, f.d, f.a, f.b, 6#10⟩
  | .srl f => some ⟨0#1, 0#6, f.d, f.a, f.b, 7#10⟩
  | .sra f => some ⟨0#1, 0#6, f.d, f.a, f.b, 8#10⟩
  | .slt f => some ⟨0#1, 0#6, f.d, f.a, f.b, 9#10⟩
  | .sltn f => some ⟨0#1, 0#6, f.d, f.a, f.b, 10#10⟩
  | .mul f => some ⟨0#1, 0#6, f.d, f.a, f.b, 11#10⟩
  | .mulh f => some ⟨0#1, 0#6, f.d, f.a, f.b, 12#10⟩
  | .mulhn f => some ⟨0#1, 0#6, f.d, f.a, f.b, 13#10⟩
  | .div f => some ⟨0#1, 0#6, f.d, f.a, f.b, 14#10⟩
  | .divn f => some ⟨0#1, 0#6, f.d, f.a, f.b, 15#10⟩
  | .rem f => some ⟨0#1, 0#6, f.d, f.a, f.b, 16#10⟩
  | .remn f => some ⟨0#1, 0#6, f.d, f.a, f.b, 17#10⟩
  | .min f => some ⟨0#1, 0#6, f.d, f.a, f.b, 18#10⟩
  | .max f => some ⟨0#1, 0#6, f.d, f.a, f.b, 19#10⟩
  | .minn f => some ⟨0#1, 0#6, f.d, f.a, f.b, 20#10⟩
  | .maxn f => some ⟨0#1, 0#6, f.d, f.a, f.b, 21#10⟩
  | .clz f => some ⟨0#1, 0#6, f.d, f.a, 0#5, 22#10⟩
  | .ctz f => some ⟨0#1, 0#6, f.d, f.a, 0#5, 23#10⟩
  | .popc f => some ⟨0#1, 0#6, f.d, f.a, 0#5, 24#10⟩
  | .rol f => some ⟨0#1, 0#6, f.d, f.a, f.b, 25#10⟩
  | .ror f => some ⟨0#1, 0#6, f.d, f.a, f.b, 26#10⟩
  | .addw f => some ⟨0#1, 0#6, f.d, f.a, f.b, 27#10⟩
  | .subw f => some ⟨0#1, 0#6, f.d, f.a, f.b, 28#10⟩
  | .addi f => some ⟨0#1, 1#6, f.d, f.a, f.imm.extractLsb' 10 5, f.imm.extractLsb' 0 10⟩
  | .andi f => some ⟨0#1, 2#6, f.d, f.a, 0#3 ++ f.imm.extractLsb' 10 2, f.imm.extractLsb' 0 10⟩
  | .ori f => some ⟨0#1, 2#6, f.d, f.a, 1#3 ++ f.imm.extractLsb' 10 2, f.imm.extractLsb' 0 10⟩
  | .xori f => some ⟨0#1, 2#6, f.d, f.a, 2#3 ++ f.imm.extractLsb' 10 2, f.imm.extractLsb' 0 10⟩
  | .slti f => some ⟨0#1, 2#6, f.d, f.a, 3#3 ++ f.imm.extractLsb' 10 2, f.imm.extractLsb' 0 10⟩
  | .sltni f => some ⟨0#1, 2#6, f.d, f.a, 4#3 ++ f.imm.extractLsb' 10 2, f.imm.extractLsb' 0 10⟩
  | .slli f => some ⟨0#1, 2#6, f.d, f.a, 20#5, 0#4 ++ f.sh⟩
  | .srli f => some ⟨0#1, 2#6, f.d, f.a, 24#5, 0#4 ++ f.sh⟩
  | .srai f => some ⟨0#1, 2#6, f.d, f.a, 28#5, 0#4 ++ f.sh⟩
  | .lui f => some ⟨0#1, 3#6, f.d, f.imm.extractLsb' 15 5, f.imm.extractLsb' 10 5, f.imm.extractLsb' 0 10⟩
  | .auipc f => some ⟨0#1, 4#6, f.d, f.imm.extractLsb' 15 5, f.imm.extractLsb' 10 5, f.imm.extractLsb' 0 10⟩
  | .beq f => some ⟨0#1, 5#6, f.a, f.b, 0#3 ++ f.off.extractLsb' 10 2, f.off.extractLsb' 0 10⟩
  | .bne f => some ⟨0#1, 5#6, f.a, f.b, 1#3 ++ f.off.extractLsb' 10 2, f.off.extractLsb' 0 10⟩
  | .blt f => some ⟨0#1, 5#6, f.a, f.b, 2#3 ++ f.off.extractLsb' 10 2, f.off.extractLsb' 0 10⟩
  | .bge f => some ⟨0#1, 5#6, f.a, f.b, 3#3 ++ f.off.extractLsb' 10 2, f.off.extractLsb' 0 10⟩
  | .bltn f => some ⟨0#1, 5#6, f.a, f.b, 4#3 ++ f.off.extractLsb' 10 2, f.off.extractLsb' 0 10⟩
  | .bgen f => some ⟨0#1, 5#6, f.a, f.b, 5#3 ++ f.off.extractLsb' 10 2, f.off.extractLsb' 0 10⟩
  | .jal f => some ⟨0#1, 6#6, f.d, f.off.extractLsb' 15 5, f.off.extractLsb' 10 5, f.off.extractLsb' 0 10⟩
  | .jalr f => some ⟨0#1, 7#6, f.d, f.a, f.imm.extractLsb' 10 5, f.imm.extractLsb' 0 10⟩
  | .ldb f => some ⟨0#1, 8#6, f.d, f.a, 0#3 ++ f.off.extractLsb' 10 2, f.off.extractLsb' 0 10⟩
  | .ldh f => some ⟨0#1, 8#6, f.d, f.a, 2#3 ++ f.off.extractLsb' 10 2, f.off.extractLsb' 0 10⟩
  | .ldw f => some ⟨0#1, 8#6, f.d, f.a, 4#3 ++ f.off.extractLsb' 10 2, f.off.extractLsb' 0 10⟩
  | .ldd f => some ⟨0#1, 8#6, f.d, f.a, 6#3 ++ f.off.extractLsb' 10 2, f.off.extractLsb' 0 10⟩
  | .ldbs f => some ⟨0#1, 8#6, f.d, f.a, 1#3 ++ f.off.extractLsb' 10 2, f.off.extractLsb' 0 10⟩
  | .ldhs f => some ⟨0#1, 8#6, f.d, f.a, 3#3 ++ f.off.extractLsb' 10 2, f.off.extractLsb' 0 10⟩
  | .ldws f => some ⟨0#1, 8#6, f.d, f.a, 5#3 ++ f.off.extractLsb' 10 2, f.off.extractLsb' 0 10⟩
  | .stb f => some ⟨0#1, 9#6, f.b, f.a, 0#2 ++ f.off.extractLsb' 10 3, f.off.extractLsb' 0 10⟩
  | .sth f => some ⟨0#1, 9#6, f.b, f.a, 1#2 ++ f.off.extractLsb' 10 3, f.off.extractLsb' 0 10⟩
  | .stw f => some ⟨0#1, 9#6, f.b, f.a, 2#2 ++ f.off.extractLsb' 10 3, f.off.extractLsb' 0 10⟩
  | .std f => some ⟨0#1, 9#6, f.b, f.a, 3#2 ++ f.off.extractLsb' 10 3, f.off.extractLsb' 0 10⟩
  | .amosAdd f => some ⟨0#1, 10#6, f.d, f.a, f.b, 0#4 ++ f.wide ++ f.scope ++ 0#2⟩
  | .amosAnd f => some ⟨0#1, 10#6, f.d, f.a, f.b, 1#4 ++ f.wide ++ f.scope ++ 0#2⟩
  | .amosOr f => some ⟨0#1, 10#6, f.d, f.a, f.b, 2#4 ++ f.wide ++ f.scope ++ 0#2⟩
  | .amosXor f => some ⟨0#1, 10#6, f.d, f.a, f.b, 3#4 ++ f.wide ++ f.scope ++ 0#2⟩
  | .amosMin f => some ⟨0#1, 10#6, f.d, f.a, f.b, 4#4 ++ f.wide ++ f.scope ++ 0#2⟩
  | .amosMax f => some ⟨0#1, 10#6, f.d, f.a, f.b, 5#4 ++ f.wide ++ f.scope ++ 0#2⟩
  | .amosMinn f => some ⟨0#1, 10#6, f.d, f.a, f.b, 6#4 ++ f.wide ++ f.scope ++ 0#2⟩
  | .amosMaxn f => some ⟨0#1, 10#6, f.d, f.a, f.b, 7#4 ++ f.wide ++ f.scope ++ 0#2⟩
  | .amosSwap f => some ⟨0#1, 10#6, f.d, f.a, f.b, 8#4 ++ f.wide ++ f.scope ++ 0#2⟩
  | .amosCas f => some ⟨0#1, 10#6, f.d, f.a, f.b, 9#4 ++ f.wide ++ f.scope ++ 0#2⟩
  | .ldpc f => some ⟨0#1, 11#6, f.d, f.off.extractLsb' 15 5, f.off.extractLsb' 10 5, f.off.extractLsb' 0 10⟩
  | .csrr f => some ⟨0#1, 12#6, f.d, 0#5, 0#3 ++ f.csr.extractLsb' 10 2, f.csr.extractLsb' 0 10⟩
  | .csrw f => some ⟨0#1, 12#6, f.d, f.a, 2#3 ++ f.csr.extractLsb' 10 2, f.csr.extractLsb' 0 10⟩
  | .csrs f => some ⟨0#1, 12#6, f.d, f.a, 4#3 ++ f.csr.extractLsb' 10 2, f.csr.extractLsb' 0 10⟩
  | .csrc f => some ⟨0#1, 12#6, f.d, f.a, 6#3 ++ f.csr.extractLsb' 10 2, f.csr.extractLsb' 0 10⟩
  | .svc => some ⟨0#1, 13#6, 0#5, 0#5, 0#5, 1#10⟩
  | .tret => some ⟨0#1, 13#6, 0#5, 0#5, 0#5, 2#10⟩
  | .brk => some ⟨0#1, 13#6, 0#5, 0#5, 0#5, 3#10⟩
  | .ifence => some ⟨0#1, 13#6, 0#5, 0#5, 0#5, 4#10⟩
  | .wfi => some ⟨0#1, 13#6, 0#5, 0#5, 0#5, 5#10⟩
  | .lksv f => some ⟨0#1, 13#6, 0#5, f.a, f.b, 6#10⟩
  | .lkld f => some ⟨0#1, 13#6, 0#5, f.a, f.b, 7#10⟩
  | .hrel f => some ⟨0#1, 13#6, 0#5, f.a, 0#5, 8#10⟩
  | .setvl f => some ⟨0#1, 14#6, f.d, f.a, 0#5, 0#4 ++ f.ty ++ 0#2⟩
  | .fork f => some ⟨0#1, 14#6, f.d, 0#5, 0#5, 32#9 ++ f.four⟩
  | .merge => some ⟨0#1, 14#6, 0#5, 0#5, 0#5, 128#10⟩
  | .endHart => some ⟨0#1, 14#6, 0#5, 0#5, 0#5, 192#10⟩
  | .yield => some ⟨0#1, 14#6, 0#5, 0#5, 0#5, 256#10⟩
  | .launch f => some ⟨0#1, 14#6, f.d, f.a, 0#5, 320#10⟩
  | .share f => some ⟨0#1, 14#6, f.d, f.a, 0#5, 384#10⟩
  | .phaseRel f => some ⟨0#1, 15#6, f.d, 0#5, 0#5, 0#4 ++ f.scope ++ 1#2 ++ f.win⟩
  | .phaseAcq f => some ⟨0#1, 15#6, f.d, 0#5, 0#5, 0#4 ++ f.scope ++ 2#2 ++ f.win⟩
  | .phaseAr f => some ⟨0#1, 15#6, f.d, 0#5, 0#5, 0#4 ++ f.scope ++ 3#2 ++ f.win⟩
  | .waitc f => some ⟨0#1, 15#6, f.d, f.a, 0#5, 8#7 ++ f.ctr⟩
  | .waitt f => some ⟨0#1, 15#6, f.d, f.a, 0#5, 16#7 ++ f.slot⟩
  | .waitg f => some ⟨0#1, 15#6, f.d, f.a, f.b, 192#10⟩
  | .waitwEq f => some ⟨0#1, 15#6, f.d, f.a, f.b, 256#10⟩
  | .waitwNe f => some ⟨0#1, 15#6, f.d, f.a, f.b, 257#10⟩
  | .waitwGen f => some ⟨0#1, 15#6, f.d, f.a, f.b, 258#10⟩
  | .waitwLtn f => some ⟨0#1, 15#6, f.d, f.a, f.b, 259#10⟩
  | .time f => some ⟨0#1, 15#6, f.d, 0#5, 0#5, 320#10⟩
  | .winfl f => some ⟨0#1, 15#6, 0#5, f.a, f.b, 384#10⟩
  | .qpop f => some ⟨0#1, 15#6, f.d, f.a, f.b, 448#10⟩
  | .qpush f => some ⟨0#1, 15#6, f.d, f.a, f.b, 512#10⟩
  | .ccrd f => some ⟨0#1, 15#6, f.d, 0#5, 0#5, 72#7 ++ f.ctr⟩
  | .ccset f => some ⟨0#1, 15#6, 0#5, f.a, 0#5, 80#7 ++ f.ctr⟩
  | .vadd f => some ⟨f.bBit, 16#6, f.d, f.a, f.b, f.l ++ f.g ++ f.m ++ 0#4⟩
  | .vsub f => some ⟨f.bBit, 16#6, f.d, f.a, f.b, f.l ++ f.g ++ f.m ++ 1#4⟩
  | .vrsub f => some ⟨f.bBit, 16#6, f.d, f.a, f.b, f.l ++ f.g ++ f.m ++ 2#4⟩
  | .vmul f => some ⟨f.bBit, 16#6, f.d, f.a, f.b, f.l ++ f.g ++ f.m ++ 3#4⟩
  | .vmulh f => some ⟨f.bBit, 16#6, f.d, f.a, f.b, f.l ++ f.g ++ f.m ++ 4#4⟩
  | .vmacc f => some ⟨f.bBit, 16#6, f.d, f.a, f.b, f.l ++ f.g ++ f.m ++ 5#4⟩
  | .vmin f => some ⟨f.bBit, 16#6, f.d, f.a, f.b, f.l ++ f.g ++ f.m ++ 6#4⟩
  | .vmax f => some ⟨f.bBit, 16#6, f.d, f.a, f.b, f.l ++ f.g ++ f.m ++ 7#4⟩
  | .vand f => some ⟨f.bBit, 16#6, f.d, f.a, f.b, f.l ++ f.g ++ f.m ++ 8#4⟩
  | .vor f => some ⟨f.bBit, 16#6, f.d, f.a, f.b, f.l ++ f.g ++ f.m ++ 9#4⟩
  | .vxor f => some ⟨f.bBit, 16#6, f.d, f.a, f.b, f.l ++ f.g ++ f.m ++ 10#4⟩
  | .vsll f => some ⟨f.bBit, 16#6, f.d, f.a, f.b, f.l ++ f.g ++ f.m ++ 11#4⟩
  | .vsrl f => some ⟨f.bBit, 16#6, f.d, f.a, f.b, f.l ++ f.g ++ f.m ++ 12#4⟩
  | .vsra f => some ⟨f.bBit, 16#6, f.d, f.a, f.b, f.l ++ f.g ++ f.m ++ 13#4⟩
  | .vadds f => some ⟨f.bBit, 16#6, f.d, f.a, f.b, f.l ++ f.g ++ f.m ++ 14#4⟩
  | .vsubs f => some ⟨f.bBit, 16#6, f.d, f.a, f.b, f.l ++ f.g ++ f.m ++ 15#4⟩
  | .vaddX f => some ⟨f.bBit, 17#6, f.d, f.a, f.b, f.l ++ f.g ++ f.m ++ 0#4⟩
  | .vsubX f => some ⟨f.bBit, 17#6, f.d, f.a, f.b, f.l ++ f.g ++ f.m ++ 1#4⟩
  | .vrsubX f => some ⟨f.bBit, 17#6, f.d, f.a, f.b, f.l ++ f.g ++ f.m ++ 2#4⟩
  | .vmulX f => some ⟨f.bBit, 17#6, f.d, f.a, f.b, f.l ++ f.g ++ f.m ++ 3#4⟩
  | .vmulhX f => some ⟨f.bBit, 17#6, f.d, f.a, f.b, f.l ++ f.g ++ f.m ++ 4#4⟩
  | .vmaccX f => some ⟨f.bBit, 17#6, f.d, f.a, f.b, f.l ++ f.g ++ f.m ++ 5#4⟩
  | .vminX f => some ⟨f.bBit, 17#6, f.d, f.a, f.b, f.l ++ f.g ++ f.m ++ 6#4⟩
  | .vmaxX f => some ⟨f.bBit, 17#6, f.d, f.a, f.b, f.l ++ f.g ++ f.m ++ 7#4⟩
  | .vandX f => some ⟨f.bBit, 17#6, f.d, f.a, f.b, f.l ++ f.g ++ f.m ++ 8#4⟩
  | .vorX f => some ⟨f.bBit, 17#6, f.d, f.a, f.b, f.l ++ f.g ++ f.m ++ 9#4⟩
  | .vxorX f => some ⟨f.bBit, 17#6, f.d, f.a, f.b, f.l ++ f.g ++ f.m ++ 10#4⟩
  | .vsllX f => some ⟨f.bBit, 17#6, f.d, f.a, f.b, f.l ++ f.g ++ f.m ++ 11#4⟩
  | .vsrlX f => some ⟨f.bBit, 17#6, f.d, f.a, f.b, f.l ++ f.g ++ f.m ++ 12#4⟩
  | .vsraX f => some ⟨f.bBit, 17#6, f.d, f.a, f.b, f.l ++ f.g ++ f.m ++ 13#4⟩
  | .vaddsX f => some ⟨f.bBit, 17#6, f.d, f.a, f.b, f.l ++ f.g ++ f.m ++ 14#4⟩
  | .vsubsX f => some ⟨f.bBit, 17#6, f.d, f.a, f.b, f.l ++ f.g ++ f.m ++ 15#4⟩
  | .vfadd f => some ⟨f.bBit, 18#6, f.d, f.a, f.b, f.l ++ f.g ++ f.m ++ 0#4⟩
  | .vfsub f => some ⟨f.bBit, 18#6, f.d, f.a, f.b, f.l ++ f.g ++ f.m ++ 1#4⟩
  | .vfmul f => some ⟨f.bBit, 18#6, f.d, f.a, f.b, f.l ++ f.g ++ f.m ++ 2#4⟩
  | .vfdiv f => some ⟨f.bBit, 18#6, f.d, f.a, f.b, f.l ++ f.g ++ f.m ++ 3#4⟩
  | .vfmin f => some ⟨f.bBit, 18#6, f.d, f.a, f.b, f.l ++ f.g ++ f.m ++ 4#4⟩
  | .vfmax f => some ⟨f.bBit, 18#6, f.d, f.a, f.b, f.l ++ f.g ++ f.m ++ 5#4⟩
  | .vfma f => some ⟨f.bBit, 18#6, f.d, f.a, f.b, f.l ++ f.g ++ f.m ++ 6#4⟩
  | .vfms f => some ⟨f.bBit, 18#6, f.d, f.a, f.b, f.l ++ f.g ++ f.m ++ 7#4⟩
  | .vfnma f => some ⟨f.bBit, 18#6, f.d, f.a, f.b, f.l ++ f.g ++ f.m ++ 8#4⟩
  | .vfnms f => some ⟨f.bBit, 18#6, f.d, f.a, f.b, f.l ++ f.g ++ f.m ++ 9#4⟩
  | .vfsgnj f => some ⟨f.bBit, 18#6, f.d, f.a, f.b, f.l ++ f.g ++ f.m ++ 10#4⟩
  | .vfsgnjn f => some ⟨f.bBit, 18#6, f.d, f.a, f.b, f.l ++ f.g ++ f.m ++ 11#4⟩
  | .vfsgnjx f => some ⟨f.bBit, 18#6, f.d, f.a, f.b, f.l ++ f.g ++ f.m ++ 12#4⟩
  | .vfaddX f => some ⟨f.bBit, 19#6, f.d, f.a, f.b, f.l ++ f.g ++ f.m ++ 0#4⟩
  | .vfsubX f => some ⟨f.bBit, 19#6, f.d, f.a, f.b, f.l ++ f.g ++ f.m ++ 1#4⟩
  | .vfmulX f => some ⟨f.bBit, 19#6, f.d, f.a, f.b, f.l ++ f.g ++ f.m ++ 2#4⟩
  | .vfdivX f => some ⟨f.bBit, 19#6, f.d, f.a, f.b, f.l ++ f.g ++ f.m ++ 3#4⟩
  | .vfminX f => some ⟨f.bBit, 19#6, f.d, f.a, f.b, f.l ++ f.g ++ f.m ++ 4#4⟩
  | .vfmaxX f => some ⟨f.bBit, 19#6, f.d, f.a, f.b, f.l ++ f.g ++ f.m ++ 5#4⟩
  | .vfmaX f => some ⟨f.bBit, 19#6, f.d, f.a, f.b, f.l ++ f.g ++ f.m ++ 6#4⟩
  | .vfmsX f => some ⟨f.bBit, 19#6, f.d, f.a, f.b, f.l ++ f.g ++ f.m ++ 7#4⟩
  | .vfnmaX f => some ⟨f.bBit, 19#6, f.d, f.a, f.b, f.l ++ f.g ++ f.m ++ 8#4⟩
  | .vfnmsX f => some ⟨f.bBit, 19#6, f.d, f.a, f.b, f.l ++ f.g ++ f.m ++ 9#4⟩
  | .vfsgnjX f => some ⟨f.bBit, 19#6, f.d, f.a, f.b, f.l ++ f.g ++ f.m ++ 10#4⟩
  | .vfsgnjnX f => some ⟨f.bBit, 19#6, f.d, f.a, f.b, f.l ++ f.g ++ f.m ++ 11#4⟩
  | .vfsgnjxX f => some ⟨f.bBit, 19#6, f.d, f.a, f.b, f.l ++ f.g ++ f.m ++ 12#4⟩
  | .vfsqrt f => some ⟨f.bBit, 20#6, f.d, 0#5, f.b, f.l ++ f.g ++ f.m ++ 0#4⟩
  | .vfexp2 f => some ⟨f.bBit, 20#6, f.d, 0#5, f.b, f.l ++ f.g ++ f.m ++ 1#4⟩
  | .vfabs f => some ⟨f.bBit, 20#6, f.d, 0#5, f.b, f.l ++ f.g ++ f.m ++ 2#4⟩
  | .vfneg f => some ⟨f.bBit, 20#6, f.d, 0#5, f.b, f.l ++ f.g ++ f.m ++ 3#4⟩
  | .vfclass f => some ⟨f.bBit, 20#6, f.d, 0#5, f.b, f.l ++ f.g ++ f.m ++ 4#4⟩
  | .vfrint f => some ⟨f.bBit, 20#6, f.d, 0#5, f.b, f.l ++ f.g ++ f.m ++ 5#4⟩
  | .vclz f => some ⟨f.bBit, 20#6, f.d, 0#5, f.b, f.l ++ f.g ++ f.m ++ 7#4⟩
  | .vctz f => some ⟨f.bBit, 20#6, f.d, 0#5, f.b, f.l ++ f.g ++ f.m ++ 8#4⟩
  | .vpopc f => some ⟨f.bBit, 20#6, f.d, 0#5, f.b, f.l ++ f.g ++ f.m ++ 9#4⟩
  | .vnot f => some ⟨f.bBit, 20#6, f.d, 0#5, f.b, f.l ++ f.g ++ f.m ++ 10#4⟩
  | .vabs f => some ⟨f.bBit, 20#6, f.d, 0#5, f.b, f.l ++ f.g ++ f.m ++ 11#4⟩
  | .vneg f => some ⟨f.bBit, 20#6, f.d, 0#5, f.b, f.l ++ f.g ++ f.m ++ 12#4⟩
  | .vcvt f => some ⟨f.bBit, 21#6, f.d, 0#5, f.b, f.l ++ f.g ++ f.m ++ f.src⟩
  | .vcvtC4 f => some ⟨f.bBit, 21#6, f.d, 0#2 ++ f.cb, f.b, f.l ++ f.g ++ f.m ++ 15#4⟩
  | .vmv f => some ⟨f.bBit, 22#6, f.d, 0#5, f.b, f.l ++ f.g ++ f.m ++ 0#4⟩
  | .vbcast f => some ⟨f.bBit, 22#6, f.d, f.a, 0#5, f.l ++ f.g ++ f.m ++ 1#4⟩
  | .vmerge f => some ⟨f.bBit, 22#6, f.d, f.a, f.b, f.l ++ f.g ++ f.m ++ 2#4⟩
  | .viota f => some ⟨f.bBit, 22#6, f.d, 0#5, 0#5, f.l ++ f.g ++ f.m ++ 3#4⟩
  | .vcbld f => some ⟨f.bBit, 22#6, 0#2 ++ f.cb, f.a, 0#5, 4#10⟩
  | .vcmpEq f => some ⟨f.bBit, 24#6, 0#2 ++ f.d, f.a, f.b, f.l ++ 0#2 ++ f.m ++ 0#4⟩
  | .vcmpNe f => some ⟨f.bBit, 24#6, 0#2 ++ f.d, f.a, f.b, f.l ++ 0#2 ++ f.m ++ 1#4⟩
  | .vcmpLt f => some ⟨f.bBit, 24#6, 0#2 ++ f.d, f.a, f.b, f.l ++ 0#2 ++ f.m ++ 2#4⟩
  | .vcmpLe f => some ⟨f.bBit, 24#6, 0#2 ++ f.d, f.a, f.b, f.l ++ 0#2 ++ f.m ++ 3#4⟩
  | .vcmpGt f => some ⟨f.bBit, 24#6, 0#2 ++ f.d, f.a, f.b, f.l ++ 0#2 ++ f.m ++ 4#4⟩
  | .vcmpGe f => some ⟨f.bBit, 24#6, 0#2 ++ f.d, f.a, f.b, f.l ++ 0#2 ++ f.m ++ 5#4⟩
  | .vcmpUnord f => some ⟨f.bBit, 24#6, 0#2 ++ f.d, f.a, f.b, f.l ++ 0#2 ++ f.m ++ 6#4⟩
  | .vcmpOrd f => some ⟨f.bBit, 24#6, 0#2 ++ f.d, f.a, f.b, f.l ++ 0#2 ++ f.m ++ 7#4⟩
  | .vcmpEqX f => some ⟨f.bBit, 25#6, 0#2 ++ f.d, f.a, f.b, f.l ++ 0#2 ++ f.m ++ 0#4⟩
  | .vcmpNeX f => some ⟨f.bBit, 25#6, 0#2 ++ f.d, f.a, f.b, f.l ++ 0#2 ++ f.m ++ 1#4⟩
  | .vcmpLtX f => some ⟨f.bBit, 25#6, 0#2 ++ f.d, f.a, f.b, f.l ++ 0#2 ++ f.m ++ 2#4⟩
  | .vcmpLeX f => some ⟨f.bBit, 25#6, 0#2 ++ f.d, f.a, f.b, f.l ++ 0#2 ++ f.m ++ 3#4⟩
  | .vcmpGtX f => some ⟨f.bBit, 25#6, 0#2 ++ f.d, f.a, f.b, f.l ++ 0#2 ++ f.m ++ 4#4⟩
  | .vcmpGeX f => some ⟨f.bBit, 25#6, 0#2 ++ f.d, f.a, f.b, f.l ++ 0#2 ++ f.m ++ 5#4⟩
  | .vcmpUnordX f => some ⟨f.bBit, 25#6, 0#2 ++ f.d, f.a, f.b, f.l ++ 0#2 ++ f.m ++ 6#4⟩
  | .vcmpOrdX f => some ⟨f.bBit, 25#6, 0#2 ++ f.d, f.a, f.b, f.l ++ 0#2 ++ f.m ++ 7#4⟩
  | .mand f => some ⟨f.bBit, 26#6, 0#2 ++ f.d, 0#2 ++ f.a, 0#2 ++ f.b, f.l ++ 0#8⟩
  | .mor f => some ⟨f.bBit, 26#6, 0#2 ++ f.d, 0#2 ++ f.a, 0#2 ++ f.b, f.l ++ 1#8⟩
  | .mxor f => some ⟨f.bBit, 26#6, 0#2 ++ f.d, 0#2 ++ f.a, 0#2 ++ f.b, f.l ++ 2#8⟩
  | .mandn f => some ⟨f.bBit, 26#6, 0#2 ++ f.d, 0#2 ++ f.a, 0#2 ++ f.b, f.l ++ 3#8⟩
  | .mnot f => some ⟨f.bBit, 26#6, 0#2 ++ f.d, 0#5, 0#2 ++ f.b, f.l ++ 4#8⟩
  | .mset f => some ⟨f.bBit, 26#6, 0#2 ++ f.d, 0#5, 0#5, f.l ++ 5#8⟩
  | .mclr f => some ⟨f.bBit, 26#6, 0#2 ++ f.d, 0#5, 0#5, f.l ++ 6#8⟩
  | .mmv f => some ⟨f.bBit, 26#6, 0#2 ++ f.d, 0#5, 0#2 ++ f.b, f.l ++ 7#8⟩
  | .mpopc f => some ⟨f.bBit, 26#6, f.d, 0#5, 0#2 ++ f.b, f.l ++ 8#8⟩
  | .mfirst f => some ⟨f.bBit, 26#6, f.d, 0#5, 0#2 ++ f.b, f.l ++ 9#8⟩
  | .msbf f => some ⟨f.bBit, 26#6, 0#2 ++ f.d, 0#5, 0#2 ++ f.b, f.l ++ 10#8⟩
  | .vslup f => some ⟨f.bBit, 27#6, f.d, f.a, f.b, f.l ++ 0#2 ++ f.m ++ 0#4⟩
  | .vsldn f => some ⟨f.bBit, 27#6, f.d, f.a, f.b, f.l ++ 0#2 ++ f.m ++ 1#4⟩
  | .vgather f => some ⟨f.bBit, 27#6, f.d, f.a, f.b, f.l ++ 0#2 ++ f.m ++ 2#4⟩
  | .vcompress f => some ⟨f.bBit, 27#6, f.d, 0#5, f.b, f.l ++ 0#2 ++ f.m ++ 3#4⟩
  | .vexpand f => some ⟨f.bBit, 27#6, f.d, 0#5, f.b, f.l ++ 0#2 ++ f.m ++ 4#4⟩
  | .vextract f => some ⟨f.bBit, 27#6, f.d, f.a, f.b, f.l ++ 5#8⟩
  | .vinsert f => some ⟨f.bBit, 27#6, f.d, f.a, f.b, f.l ++ 6#8⟩
  | .vrowrot f => some ⟨f.bBit, 27#6, f.d, f.a, f.b, f.l ++ f.g ++ f.m ++ 7#4⟩
  | .vredsum f => some ⟨f.bBit, 28#6, f.d, 0#5, f.b, f.l ++ 0#2 ++ f.m ++ 0#4⟩
  | .vredmin f => some ⟨f.bBit, 28#6, f.d, 0#5, f.b, f.l ++ 0#2 ++ f.m ++ 1#4⟩
  | .vredmax f => some ⟨f.bBit, 28#6, f.d, 0#5, f.b, f.l ++ 0#2 ++ f.m ++ 2#4⟩
  | .vredand f => some ⟨f.bBit, 28#6, f.d, 0#5, f.b, f.l ++ 0#2 ++ f.m ++ 3#4⟩
  | .vredor f => some ⟨f.bBit, 28#6, f.d, 0#5, f.b, f.l ++ 0#2 ++ f.m ++ 4#4⟩
  | .vredxor f => some ⟨f.bBit, 28#6, f.d, 0#5, f.b, f.l ++ 0#2 ++ f.m ++ 5#4⟩
  | .vfsumo f => some ⟨f.bBit, 28#6, f.d, 0#5, f.b, f.l ++ 0#2 ++ f.m ++ 6#4⟩
  | .vfsumt f => some ⟨f.bBit, 28#6, f.d, 0#5, f.b, f.l ++ 0#2 ++ f.m ++ 7#4⟩
  | .vfredmin f => some ⟨f.bBit, 28#6, f.d, 0#5, f.b, f.l ++ 0#2 ++ f.m ++ 8#4⟩
  | .vfredmax f => some ⟨f.bBit, 28#6, f.d, 0#5, f.b, f.l ++ 0#2 ++ f.m ++ 9#4⟩
  | .vlu f => some ⟨f.bBit, 32#6, f.d, f.a, f.b, f.l ++ f.g ++ f.m ++ f.ctr ++ f.ord⟩
  | .vls f => some ⟨f.bBit, 33#6, f.d, f.a, f.b, f.l ++ f.g ++ f.m ++ f.ctr ++ f.ord⟩
  | .vlx f => some ⟨f.bBit, 34#6, f.d, f.a, f.b, f.l ++ 0#2 ++ f.m ++ f.ctr ++ f.ord⟩
  | .vld f => some ⟨f.bBit, 35#6, f.d, f.a, f.b, f.l ++ f.g ++ f.m ++ f.ctr ++ f.ord⟩
  | .vsu f => some ⟨f.bBit, 36#6, f.d, f.a, f.b, f.l ++ f.g ++ f.m ++ f.ctr ++ f.ord⟩
  | .vss f => some ⟨f.bBit, 37#6, f.d, f.a, f.b, f.l ++ f.g ++ f.m ++ f.ctr ++ f.ord⟩
  | .vsx f => some ⟨f.bBit, 38#6, f.d, f.a, f.b, f.l ++ 0#2 ++ f.m ++ f.ctr ++ f.ord⟩
  | .vsd f => some ⟨f.bBit, 39#6, f.d, f.a, f.b, f.l ++ f.g ++ f.m ++ f.ctr ++ f.ord⟩
  | .vamoaAdd f => some ⟨f.bBit, 40#6, f.d, f.a, f.b, f.l ++ 0#2 ++ f.m ++ f.ctr ++ f.ret⟩
  | .vamoaAnd f => some ⟨f.bBit, 40#6, f.d, f.a, f.b, f.l ++ 1#2 ++ f.m ++ f.ctr ++ f.ret⟩
  | .vamoaOr f => some ⟨f.bBit, 40#6, f.d, f.a, f.b, f.l ++ 2#2 ++ f.m ++ f.ctr ++ f.ret⟩
  | .vamoaXor f => some ⟨f.bBit, 40#6, f.d, f.a, f.b, f.l ++ 3#2 ++ f.m ++ f.ctr ++ f.ret⟩
  | .vamobMin f => some ⟨f.bBit, 41#6, f.d, f.a, f.b, f.l ++ 0#2 ++ f.m ++ f.ctr ++ f.ret⟩
  | .vamobMax f => some ⟨f.bBit, 41#6, f.d, f.a, f.b, f.l ++ 1#2 ++ f.m ++ f.ctr ++ f.ret⟩
  | .vamobSwap f => some ⟨f.bBit, 41#6, f.d, f.a, f.b, f.l ++ 2#2 ++ f.m ++ f.ctr ++ f.ret⟩
  | .vamobCas f => some ⟨f.bBit, 41#6, f.d, f.a, f.b, f.l ++ 3#2 ++ f.m ++ f.ctr ++ f.ret⟩
  | .vamocFadd f => some ⟨f.bBit, 42#6, f.d, f.a, f.b, f.l ++ 0#2 ++ f.m ++ f.ctr ++ f.ret⟩
  | .vamocFmin f => some ⟨f.bBit, 42#6, f.d, f.a, f.b, f.l ++ 1#2 ++ f.m ++ f.ctr ++ f.ret⟩
  | .vamocFmax f => some ⟨f.bBit, 42#6, f.d, f.a, f.b, f.l ++ 2#2 ++ f.m ++ f.ctr ++ f.ret⟩
  | .copy f => some ⟨0#1, 43#6, f.d, f.a, f.b, f.e ++ f.slot ++ 0#2⟩
  | .copy2 f => some ⟨0#1, 43#6, f.d, f.a, f.b, f.e ++ f.slot ++ 1#2⟩
  | .copyx f => some ⟨0#1, 43#6, f.d, f.a, f.b, f.e ++ f.slot ++ 2#2⟩
  | .fill f => some ⟨0#1, 43#6, f.d, f.a, f.b, f.e ++ f.slot ++ 3#2⟩
  | .pref f => some (prefFields f)
  | .ecfg f => some (ecfgFields f)
  | .ecnt f => some (ecntFields f)
  | .eres f => some (eresFields f)
  | .coll f => some (collFields f)
  | .mmodeOn f => some ⟨0#1, 48#6, f.d, 0#5, 0#5, 0#10⟩
  | .mmodeOff => some ⟨0#1, 48#6, 0#5, 0#5, 0#5, 1#10⟩
  | .mswap => some ⟨0#1, 48#6, 0#5, 0#5, 0#5, 2#10⟩
  | .mstat f => some ⟨0#1, 48#6, f.d, 0#5, 0#5, 3#10⟩
  | .mls f => some (mlsFields f)
  | .mstr f => some ⟨f.bBit, 50#6, f.vs, f.a, 0#5, f.l ++ f.g ++ f.m ++ 0#2 ++ f.aff ++ f.ovw⟩
  | .mop f => some (mopFields f)
  | .mscan f => some (mscanFields f)
  | .mscanf f => some (mscanfFields f)
  | .maccRd f => some (maccRdFields f)
  | .maccWr f => some (maccWrFields f)
  | .maccZr f => some (maccZrFields f)
  | .maccCp f => some (maccCpFields f)
  | .maccScrd f => some (maccScrdFields f)
  | .maccScwr f => some (maccScwrFields f)
  | .rep f => some (repFields f)
  | .udf f => some (udfFields f)
  | .convoyStart _ => none
  | .groupStart _ => none
  | .loadGroupLanding _ _ _ => none
  | .convoyDrain _ => none
  | .vectorToScalarWrite _ => none
  | .nonblockingComplete _ _ _ => none
  | .vectorTrap _ _ _ _ _ => none
  | .asyncTrap _ => none
  | .stoppedHartSave _ => none
  | .shareAdoption _ => none
  | .forkSplit _ => none
  | .mergeComplete _ => none
  | .endComplete _ => none
  | .drainedResume _ => none
  | .sealSend _ => none
  | .waitReturn _ => none
  | .wdeadlineExpiry _ => none
  | .waitwPoll _ => none
  | .tileQueueGrant _ => none
  | .repBufferAcquire _ => none
  | .replayEnqueue _ => none
  | .rowSlot _ => none
  | .mswapEffect _ => none
  | .pageWalkComplete _ _ => none
  | .schedulingInterval _ => none
  | .initialGrant _ => none
  | .shareGraceExpiry _ => none
  | .unitStopAck _ _ => none
  | .segmentStart _ => none
  | .segmentPerformed _ => none
  | .engineFault _ _ _ _ => none
  | .multicastApply _ => none
  | .parkLimitExpiry _ => none
  | .read _ => none
  | .write _ => none
  | .writeb _ => none
  | .atomic _ => none
  | .combined _ => none
  | .readresp _ => none
  | .atomresp _ => none
  | .seal _ => none
  | .sealack _ => none
  | .colldata _ => none
  | .parked _ => none
  | .perfack _ => none
  | .aborted _ => none
  | .frameReceive _ _ => none
  | .relayForward _ => none
  | .frameTransmit _ _ => none
  | .retryTimerExpiry _ => none
  | .ackTimer _ => none
  | .keepaliveTimer _ => none
  | .peerMarkDown _ => none
  | .rst _ => none
  | .slotBegin _ => none
  | .lockTimeout _ _ _ => none
  | .beadArrival _ _ _ => none
  | .holdReceive _ _ _ => none
  | .beadTimeout _ _ => none
  | .beadRegenerate _ _ => none
  | .tlbinv _ _ => none
  | .peerup _ _ => none
  | .parklim _ _ _ => none
  | .registerWrite _ _ _ _ => none
  | .hostPostedWrite _ _ _ => none
  | .hostRead _ _ _ => none
  | .hostCompletion _ _ => none
  | .dieTimeExchange _ _ _ _ _ => none
  | .dieSyncTimeout _ => none
  | .timeExchangeTimer _ => none
  | .sync _ => none
  | .follow _ => none
  | .dreq _ => none
  | .dresp _ => none
  | .announce _ => none
  | .announceTimer => none
  | .externalPtpMessage _ => none
  | .holdoverEntry => none
  | .holdoverSyncLoss => none
  | .packageTermGrowth => none
  | .loadfw => none
  | .attest => none
  | .suspend => none
  | .cancel => none
  | .resume => none
  | .drain _ => none
  | .rejoin _ => none
  | .tenant _ _ _ _ _ => none
  | .owner _ _ => none
  | .zeroingComplete _ => none
  | .suspendDeadline => none
  | .quiet _ => none
  | .savingTimeout => none
  | .savingComplete => none
  | .resumeDeadline => none
  | .resumeComplete => none
  | .drainedDieAccessTimeout _ => none
  | .boot => none
  | .clockRateChange _ _ => none
  | .thermalThrottle _ => none
  | .hbmScrub _ _ _ => none
  | .clusterRetire _ _ => none
  | .scanUnitStep _ => none
  | .accumulatePathRow _ => none
  | .completionTimeout _ => none
  | .perfackSendTimer _ => none
  | .connectionStateFill _ => none
  | .announceAgeExpiry => none
  | .dieTermGrowth _ => none

/-- The word of an instruction; a step without an encoding has none. -/
def encode (i : Instr) : Option IWord := (encodeFields i).map joinWord

/-- The word TVAL shows for an instruction (R75). -/
def wordOf (i : Instr) : IWord := (encode i).getD 0#32

/-- The instruction the decoder reads from a word whose bits are `w` as the opcode table numbers them; the
table gives every row 32 bits or none. -/
noncomputable def decodeTableWord (nbits w : Nat) : Option Instr :=
  if nbits ≤ 32 then (decode (BitVec.ofNat 32 w)).toOption else none

end Sys2Proof
end

