-- ==== Sys2Proof/Machine/State.lean ====
section
/-!
DEFINITION. Machine/State.lean: the state of one Kelix package as plain data, the reasons a step can stop, and
the state after reset (01_machine R22-R31; the state the later chapters add is named at each structure).

Collections keyed by a number (registers, memory, slots) are lists of (key, value) pairs with strictly rising
keys and no entry equal to what an unlisted key reads as; Machine/Sparse.lean reads and writes them.
-/

namespace Sys2Proof.Machine

/-- Why a step stops. -/
inductive Fault where
  /-- Raised by `step` when no agent can move: no hart runs, no engine has work and no input waits. The device
  would wait for an input, so stopping is safe. -/
  | idle
  deriving DecidableEq, Repr

/-- Why a step refuses. -/
inductive Refusal where
  /-- An instruction without a meaning yet, by its mnemonic; raised by an arm of `exec` only; safe. -/
  | notModelled (mnemonic : String)
  deriving DecidableEq, Repr

/-- Privilege of a hart (04_scalar R129). -/
inductive Priv where
  | user
  | supervisor
  deriving DecidableEq, Repr

/-- Standing of a hart slot (04_scalar R128, R130; 20_faults R368; 14_regions R302). -/
inductive Run where
  /-- no hart holds the slot -/
  | free
  /-- the hart fetches and issues, or waits -/
  | running
  /-- held by LKSV or LKLD (R128) -/
  | held
  /-- stopped by a trap it could not take, with the cause and whether a vector image goes to the locket's own
  image area (R130, R362, R364) -/
  | stopped (cause : Byte) (ownImage : Bool)
  /-- being pre-empted: the units whose acknowledgement is awaited (R368), and whether it is a parking -/
  | stopping (units : List Nat) (park : Bool)
  /-- being stopped by LKSV, or with its fault domain: the units still awaited (R128, 14_regions R296) -/
  | holding (units : List Nat)
  deriving DecidableEq, Repr

/-- A completion counter: issued and retired counts (06_memory_isa R169). -/
structure Ctr where
  issued : Word
  retired : Word
  deriving DecidableEq, Repr

/-- The vector and mask registers as a matrix instruction read them at its drain point (12_operand_delivery R272). -/
structure Snap where
  v : List (Nat × Row)
  m : List (Nat × Mask)
  deriving DecidableEq, Repr

/-- An element that a vector memory instruction moves: its row and index, and its bit address (a virtual byte address
times 8, plus the bit in its byte). -/
structure Elem where
  r : Nat
  i : Nat
  bit : Nat
  deriving DecidableEq, Repr

/-- A read or a returning update of another device's memory that has been sent, and its answer once that has come
(18_fabric R336): who waits for it (0 the scalar side, 1 the vector queue, 2 a fetch, 3 a non-blocking operation), its TAG,
device, address and length, and whether the device failed before it answered (09_address R243). -/
structure Ask where
  own : Nat
  tag : BitVec 32
  dev : Nat
  addr : Nat
  n : Nat
  upd : Bool
  failed : Bool
  data : Option (List Byte)
  deriving DecidableEq, Repr

/-- A tracked record (18_fabric R329): whether it is of the ordered class, and whether it has been sent or is held by an
earlier one to its line. -/
structure Tracked where
  dev : Nat
  rcd : Record
  ord : Bool
  sent : Bool
  /-- a record of a non-blocking store, which only keeps its place among the ordered ones (R329) -/
  loose : Bool
  deriving DecidableEq, Repr

/-- An element of a load or returning atomic whose answer has not come: the register row and bit it goes to, the global
addresses of its bytes, where it begins in them and its width there; its format; for an atomic the operation (16 for a load)
its record's TAG and the operands of the same location before it (08_prog_histogram R227); and VFILL as captured. -/
structure LateElem where
  row : Nat
  bit : Nat
  locs : List Nat
  off : Nat
  wm : Nat
  fmt : BitVec 4
  cb : BitVec 256
  pscale : BitVec 8
  ty : BitVec 4
  op : Nat
  tag : Option (BitVec 32)
  before : List (Nat × Nat)
  fill : Word
  deriving DecidableEq, Repr

/-- A stationary plane (07_matrix_isa R213, R215): element (k, j) at key 128 k + j. -/
structure Plane where
  k : Nat
  ty : BitVec 4
  elems : List (Nat × BitVec 16)
  zero : BitVec 4
  cb : BitVec 256
  deriving DecidableEq, Repr

/-- A leaf and the base-2 logarithm of its page's size (09_address R239, R240). -/
structure Page where
  ent : BitVec 128
  log : Nat
  deriving DecidableEq, Repr

/-- Where a checked byte lies, and whether it is reached through a read-only window that governs it (09_address R237). -/
structure Loc where
  ga : Nat
  win : Bool
  deriving DecidableEq, Repr

/-- An element's memory after its checks: its bytes, the bit of the first byte it starts at, its width, and the page
of its first byte. -/
structure Placed where
  el : Elem
  locs : List Loc
  off : Nat
  wm : Nat
  pg : Page
  deriving DecidableEq, Repr

/-- The translation and checks of a vector memory instruction or MLS, made once (06_memory_isa R162; 09_address R243, R246):
its elements from a restart index on up to the first that faults, and that one's cause and TVAL; for an MLS the shadow plane
as it stood (07_matrix_isa R214). -/
structure Placing where
  start : Nat
  els : List Placed
  bad : Option (Elem × Byte × Word)
  shadow : Option Plane
  deriving DecidableEq, Repr

/-- An entry of a hart's vector queue, with what was captured at its enqueue (20_faults R362). -/
structure QEntry where
  /-- the first member of its convoy (03_encoding R86) -/
  first : Bool
  word : IWord
  pc : Word
  xs1 : Word
  xs2 : Word
  xs3 : Word
  lw : Word
  vfill : Word
  rm : BitVec 3
  issue : Word
  nb : Bool
  started : Bool
  done : Bool
  /-- R360: [15:13] row and [12:0] element, or a matrix member's progress -/
  restart : Nat
  /-- where the act under way ends, in the form of `restart`; 2^16 for the end of the member (12_operand_delivery R274) -/
  stop : Nat
  /-- flags raised by the part already performed (05_vector R138) -/
  flags : BitVec 6
  /-- operands read at the drain point of a matrix member that has left its convoy -/
  snap : Option Snap
  /-- the checks of its accesses, once they are made -/
  placed : Option Placing
  /-- the codebook of an MLS, captured at its enqueue (07_matrix_isa R214) -/
  book : Option (BitVec 256)
  deriving DecidableEq, Repr

/-- A row that a non-blocking load or returning atomic writes: the row as it will stand, the bits it changes,
and the element groups still to land (06_memory_isa R171). -/
structure NbRow where
  row : Nat
  data : Row
  bits : Row
  groups : BitVec 64
  deriving DecidableEq, Repr

/-- A byte of a pending store: its address, value, and the bits of the byte that are written (R165). -/
structure PendByte where
  addr : Nat
  val : Byte
  msk : Byte
  deriving DecidableEq, Repr

/-- An outstanding memory operation: its counter (0 for a blocking one whose answers other devices owe), issue number,
rows to land and bytes to perform; what it has asked of other devices, the elements that await an answer, and the TAGs of
its writes that no PERFACK has listed, with their devices. `ord` is its O bit (06_memory_isa R172). -/
structure NbOp where
  ctr : Nat
  num : Word
  rows : List NbRow
  bytes : List PendByte
  flags : BitVec 6
  ord : Bool
  asks : List Ask
  late : List LateElem
  tags : List (Nat × BitVec 32)
  /-- it met a fault and is complete only after its reissue (20_faults R363) -/
  held : Bool
  /-- entries of its die's merge buffer that a vector atomic holds (18_fabric R331) -/
  merge : Nat
  deriving DecidableEq, Repr

/-- A repeat frame being replayed (03_encoding R89; 12_operand_delivery R278). -/
structure RepFrame where
  /-- the sequencer buffer has been taken and the frame captured -/
  captured : Bool
  words : List IWord
  n : Nat
  k : Nat
  s : Nat
  replay : Nat
  pos : Nat
  pc : Word
  /-- registers that the next word captures and waits for (05_vector R155) -/
  blocked : List (BitVec 5)
  deriving DecidableEq, Repr

/-- A wait: the instruction that waits, and the WDEADLINE it read when it began (06_memory_isa R180). -/
structure Wait where
  instr : Instr
  deadline : Word
  /-- what a WAITW last read of remote or host memory (R184) -/
  seen : Option Word
  /-- scheduling boundaries passed in this wait (14_regions R302) -/
  age : Nat
  /-- when it began, as a rising number: the order of arrival (07_matrix_isa R207) -/
  since : Nat
  deriving DecidableEq, Repr

/-- Matrix mode (07_matrix_isa R206, R225): carry pair j of slot n at key 128 n + j, G in the low half. -/
structure Matrix where
  tq : Nat
  mvl : Nat
  flags : BitVec 6
  active : Plane
  shadow : Plane
  sc : List (Nat × BitVec 64)
  deriving DecidableEq, Repr

/-- Membership of a FORK family (04_scalar R119-R121). -/
structure Family where
  index : Nat
  ways : Nat
  /-- a number of its own for each family -/
  id : Nat
  /-- the parent's clusters -/
  parentMap : BitVec 8
  /-- child 0 only: what merged or ended siblings handed back: index, rows, unsealed records -/
  handed : List (Nat × List (Nat × Row))
  deriving DecidableEq, Repr

/-- A context slot of a hart (06_memory_isa R190; 20_faults R372). -/
structure CtxSlot where
  bound : Bool
  faulted : Bool
  parked : Bool
  /-- (I/O die - 8) * 2048 + 1024 for a collective context + number -/
  key : Nat
  prio : BitVec 4
  issued : Word
  completed : Word
  clasp : Word
  deriving DecidableEq, Repr

def CtxSlot.empty : CtxSlot := ⟨false, false, false, 0, 0, 0, 0, 0⟩

/-- A hart in its slot: what 01_machine R22 lists, and its standing. -/
structure Hart where
  run : Run
  pc : Word
  priv : Priv
  /-- the next fetch is the one at TVEC of a trap just entered (04_scalar R130) -/
  entering : Bool
  x : List (Nat × Word)
  v : List (Nat × Row)
  m : List (Nat × Mask)
  cb : List (Nat × BitVec 256)
  cc : List (Nat × Ctr)
  csr : List (Nat × Word)
  /-- groups of each row that have not arrived: the complement of the arrival bitmap (R171) -/
  away : List (Nat × BitVec 64)
  /-- clusters owned, bit c for cluster c (R28) -/
  map : BitVec 8
  pending : Option Nat
  /-- the pending share was set by the scheduler, or by the retirement of a cluster, as a reduction (R117; 20_faults R365) -/
  reduced : Bool
  /-- the share that the scheduler has set pending last and that has not been adopted (R117) -/
  limit : Option Nat
  demand : Nat
  convoyOpen : Bool
  queue : List QEntry
  /-- matrix instructions and MSWAPs past their drain points whose convoys have drained (12_operand_delivery R272) -/
  tile : List QEntry
  nb : List NbOp
  rep : Option RepFrame
  wait : Option Wait
  matrix : Option Matrix
  family : Option Family
  ctxs : List (Nat × CtxSlot)
  engFault : Bool
  collFault : Bool
  pflags : BitVec 6
  /-- records sent since the last seal, by destination: die d as d, host memory by the link of I/O die 8 or 9 as 14 or 15, device c
  as 16 + c (10_consistency R257) -/
  unsealed : List (Nat × Nat)
  /-- the same of records that went to devices under another SHART: of a merged FORK child, or of the slot that the hart was in before
  it was restored (R253); key destination * 2048 + SHART -/
  inherited : List (Nat × Nat)
  /-- requests to other devices that the scalar side, the queue or a fetch waits for -/
  asks : List Ask
  /-- the bytes of the scalar access under way, and of the fetch, that await such an answer: checked once (09_address R243) -/
  access : Option (List Loc)
  fetching : Option (List Loc)
  /-- records not yet performed at their home that hold later ones to their lines, oldest first (18_fabric R329) -/
  tracked : List Tracked
  /-- devices whose seal is awaited, with its TAG (2^14 + I/O die for the flushing read on a host link, 15_io_dies R315), and
  those whose seal has failed, in the release under way (R177) -/
  sealing : List (Nat × BitVec 32)
  sealFailed : List Nat
  /-- the region that a LAUNCH under way creates: its release has yet to end (04_scalar R124; 14_regions R293) -/
  launching : Option Nat
  region : Option Nat
  stage : Nat
  granted : Nat
  /-- when it last issued an instruction, as a rising number, and the fairness round in which it yielded (12_operand_delivery
  R270) -/
  issuedAt : Nat
  /-- CYCLE of its die in the clock in which it did (R270) -/
  issuedIn : Word
  /-- the instruction that it issued last takes several clocks (R270) -/
  multi : Bool
  yielded : Option Nat
  /-- PTIME of its die when a reduction of its share was set pending: its grace runs from there (01_machine R19; 19_time R353) -/
  graceAt : Word
  lastStamp : Word
  /-- saved by LKSV since it was last run (20_faults R376) -/
  saved : Bool
  /-- lane clusters lost: every queued instruction traps LANEOFF until the next SETVL (20_faults R365) -/
  laneLost : Bool
  /-- a LANEOFF trap is due: it is taken once nothing holds a fault back (20_faults R358, R365) -/
  laneDue : Bool
  /-- storage of the hart that an uncorrectable error has taken and that has not been rewritten (21_service R379): group g of row r
  as 64 r + g, a mask register n as 2048 + n; an accumulator row a as 10000 + a, a carry register n as 15000 + n, the active and
  the shadow plane as 16000 and 16001 -/
  lost : List Nat
  /-- the virtual address of an access that waits: its die is out of service or its granule is being zeroed
  (21_service R383, R384) -/
  stalled : Option Word
  /-- the same of a queued member's access -/
  qstalled : Option Word
  /-- GA of its locket space (14_regions R303; 20_faults R370) -/
  space : Option Nat
  deriving DecidableEq, Repr

/-- A slot that no hart holds; the hardware zeroes it (21_service R383). -/
def Hart.free : Hart where
  run := .free
  pc := 0
  priv := .user
  entering := false
  x := []
  v := []
  m := []
  cb := []
  cc := []
  csr := []
  away := []
  map := 0
  pending := none
  reduced := false
  limit := none
  demand := 0
  convoyOpen := false
  queue := []
  tile := []
  nb := []
  rep := none
  wait := none
  matrix := none
  family := none
  ctxs := []
  engFault := false
  collFault := false
  pflags := 0
  unsealed := []
  inherited := []
  asks := []
  access := none
  fetching := none
  tracked := []
  sealing := []
  sealFailed := []
  launching := none
  region := none
  stage := 0
  granted := 0
  issuedAt := 0
  issuedIn := 0
  multi := false
  yielded := none
  graceAt := 0
  lastStamp := 0
  saved := false
  laneLost := false
  laneDue := false
  lost := []
  stalled := none
  qstalled := none
  space := none

/-! ### Regions (14_regions) -/

/-- The six budgets that LAUNCH reserves or shares (R287): clusters, hart slots, accumulator rows, engine and
collective contexts, bytes of HBM for lockets. -/
structure Budget where
  lanes : Nat
  harts : Nat
  accrows : Nat
  eng : Nat
  coll : Nat
  hbm : Nat
  deriving DecidableEq, Repr

/-- A queue record (R289). -/
structure QueueRec where
  hdr : Word
  ring : Word
  depth : Nat
  item : Nat
  place : Bool
  /-- GA of the header once placed -/
  ga : Nat
  deriving DecidableEq, Repr

/-- A stage record (R290) and the standing of the stage (R299). -/
structure Stage where
  entry : Word
  hmin : Nat
  hmax : Nat
  dies : BitVec 8
  vtype : BitVec 4
  vlen : Nat
  inq : Option Nat
  outq : Option Nat
  sacc : Nat
  closing : Bool
  queued : Nat
  lastDie : Nat
  deriving DecidableEq, Repr

/-- A region (R286-R297). A budget is the region's own where its bit of `own` is set, and `tot` holds its amount
(R287); what remains of it follows from what is held and reserved. -/
structure Region where
  parent : Option Nat
  steward : Bool
  /-- GA of the RCB, and of its CHILDREN and LIVE, which may stand on another page (R286) -/
  rcb : Option Nat
  counts : Option Nat
  priority : Nat
  weight : Nat
  dies : BitVec 8
  fdom : Nat
  tenant : BitVec 16
  world : Bool
  cores : Nat
  spad : Nat
  own : BitVec 6
  tot : Budget
  tvec : Word
  ptroot : Word
  partmap : Word
  grptab : Word
  /-- GA of the completion word -/
  compl : Option Nat
  stages : List Stage
  queues : List QueueRec
  done : Bool
  /-- its LAUNCH has still to complete its release: no grant is made yet (R293) -/
  opening : Bool
  /-- bits of the completion word whose home cannot perform the OR yet (21_service R384) -/
  owed : Word
  homeCore : Option Nat
  /-- scratchpad allocations: core and first byte -/
  allocs : List (Nat × Nat)
  deriving DecidableEq, Repr

/-- A hart that waits in a locket, pre-empted or parked (R302, R303; 20_faults R370): its locket space, the number
of its saving, and what the image does not hold of it: its region, family, granted order and unsealed records
(20_faults R376: or detached contexts). -/
structure Locket where
  ga : Nat
  region : Nat
  stage : Nat
  parked : Bool
  since : Nat
  hart : Hart
  deriving DecidableEq, Repr

/-! ### Engine and collective contexts (06_memory_isa R190-R205; 15_io_dies R308-R312) -/

inductive EngOp where
  | copy (dst src len : Word)
  | copy2 (dst src rows rbytes spitch dpitch : Word)
  | copyx (dst list : Word) (count size : Nat)
  | fill (dst pattern len : Word)
  | pref (addr len : Word)
  deriving DecidableEq, Repr

/-- What a command has asked of other devices, the TAGs of its writes to them that no PERFACK has listed, with the
devices, and whether the bytes of its segment or result have gone out, and after them the update of a clasp word on another device
(18_fabric R336; 15_io_dies R309). -/
structure Xfer where
  asks : List Ask
  acks : List (Nat × BitVec 32)
  sent : Bool
  clasped : Bool
  deriving DecidableEq, Repr

/-- An engine command: its issue number, what it does, its clasp word at issue, priority, whether it was issued at
user privilege, the bytes of it already performed, and the bytes it has overwritten, as they stood before (R191). -/
structure EngCmd where
  num : Word
  op : EngOp
  clasp : Word
  prio : BitVec 4
  user : Bool
  perf : Nat
  wrote : List (Nat × Byte)
  xfer : Xfer
  deriving DecidableEq, Repr

/-- A collective command as its member issued it (R197-R200); for an ordered multicast the key (stamp, device, hart)
of the write received (10_consistency R263); and its status once it is done. -/
structure CollCmd where
  num : Word
  word : Word
  group : List (BitVec 32)
  rank : Nat
  index : Nat
  buf : Word
  settle : Word
  user : Bool
  key : Option (Word × Nat × Nat)
  /-- its contribution has been read from its buffer, or it makes none -/
  given : Bool
  xfer : Xfer
  done : Option (BitVec 6)
  deriving DecidableEq, Repr

/-- A context on an I/O die; it translates as the hart that bound it (R192, 21_service R382). -/
structure Ctx where
  hart : Option Nat
  slot : Nat
  region : Option Nat
  die : Nat
  ptroot : Word
  partmap : Word
  tenant : Word
  eng : List EngCmd
  coll : List CollCmd
  inFlight : Bool
  stopped : Bool
  faulted : Bool
  /-- fault record words (R311) -/
  rec0 : Word
  recIssue : Word
  recVaddr : Word
  recPerf : Word
  /-- PTIME at the first PARKED of the current step, and the park limit as it stood then (20_faults R374, R375) -/
  parkSince : Option (Word × Word)
  /-- commands completed, and the statuses of completed collective commands that no WAITT has acquired (R190, R205) -/
  completed : Word
  statuses : List (Word × BitVec 6)
  /-- the last command issued before a vector trap whose image holds stores: up to it commands read no source while the image stands
  (R193, R200; 20_faults R362) -/
  barrier : Word
  deriving DecidableEq, Repr

/-! ### Links, fabric and time (18_fabric, 19_time) -/

/-- A receive channel of a die (18_fabric R326, R327, R330). -/
structure Chan where
  gen : Bool
  accepting : Bool
  seqs : List (Nat × BitVec 8)
  /-- the number of each writer's next new hold, and holds that were discarded, which their writers send again (R327) -/
  wseqs : List (Nat × BitVec 8)
  again : List Hold
  bead : Nat
  regen : BitVec 32
  resent : BitVec 32
  crcerr : BitVec 32
  deriving DecidableEq, Repr

def Chan.reset : Chan := ⟨false, true, [], [], [], 0, 0, 0, 0⟩

/-- Per-die state: clocks and time (01_machine R32; 19_time R345-R348), error record (21_service R378), receive
channels, park limit of an I/O die (20_faults R375), port registers (18_fabric R342). -/
structure Die where
  cycle : Word
  ptime : Word
  dieTerm : Nat
  sync : Bool
  /-- PTIME of the disciplining die at its last exchange of timing tokens, or at the last growth of its term since (R348) -/
  exchanged : Word
  mhz : Nat
  out : Bool
  err0 : Word
  err1 : Word
  errGa : Word
  corr : Word
  parklim : Word
  discard : BitVec 32
  spill : BitVec 32
  slot : Nat
  chans : List (Nat × Chan)
  deriving DecidableEq, Repr

/-- A die after its reset: nominal clock (00_scope R2), PARKLIM as R375 gives. -/
def Die.reset : Die := ⟨0, 0, 0, false, 0, 1650, false, 0, 0, 0, 0, 0x00000012A05F2000, 0, 0, 0, []⟩

/-- A record on its way to a die: its class (18_fabric R336), whether it is of the secure world (21_service R382), and the die. -/
structure Outgoing where
  cls : Nat
  sec : Bool
  die : Nat
  rcd : Record
  deriving DecidableEq, Repr

/-- A path of 18_fabric R334: the pairing of its first hop (port, shift), and that of its second one, at the intermediate. -/
structure Way where
  port : Nat
  shift : Nat
  onward : Option (Nat × Nat)
  deriving DecidableEq, Repr

/-- A reliable connection to a peer (18_fabric R337, R341): records wait, and ordered frames follow the pinned
path (R334). `spilled` says that its state is not in port
SRAM (R338), `trained` that a full training with the peer has succeeded since it was marked down; `heard` is the PTIME of its
I/O die at the last frame received, or at the first one sent. -/
structure Conn where
  up : Bool
  failed : Bool
  down : Bool
  nextSeq : BitVec 24
  expect : BitVec 24
  got : List (BitVec 24)
  early : List Frame
  /-- with whether it carries records of the secure world -/
  unacked : List (Bool × Frame)
  waiting : List Outgoing
  retryUs : Nat
  expiries : Nat
  /-- frames received that have not been acknowledged -/
  ackDue : Nat
  readmit : Bool
  spilled : Bool
  trained : Bool
  heard : Word
  pin : Option Way
  /-- frames that are to be sent again, and whether an ACKONLY frame is to be sent (R337, R341) -/
  again : List (BitVec 24)
  ackWant : Bool
  /-- a connection restart is to be sent, has been sent, and has come from the peer (R341) -/
  rstWant : Bool
  rstSent : Bool
  rstGot : Bool
  /-- PTIME of its I/O die when a frame was last sent, when the retry timer began, and when the peer was last heard through an
  Ethernet switch (R337, R341, R343) -/
  sentAt : Word
  retryAt : Word
  pathAt : Word
  /-- frames received that wait for the connection's state (R338) -/
  arrived : List Frame
  deriving DecidableEq, Repr

def Conn.reset : Conn :=
  ⟨false, false, false, 0, 0, [], [], [], [], 20, 0, 0, false, false, false, 0, none, [], false, false, false, false, 0, 0, 0, []⟩

/-- What a pairing has carried in its slot (18_fabric R339): whether frames, and how many that failed their FCS and that were sent
again. -/
structure Meter where
  carried : Bool
  fcs : Nat
  again : Nat
  deriving DecidableEq, Repr

def Meter.zero : Meter := ⟨false, 0, 0⟩

/-- The package's time (19_time R347-R352). -/
structure PkgTime where
  term : Nat
  hold : Bool
  /-- more than 1 ms into holdover -/
  longHold : Bool
  gmpri : BitVec 8
  src : Bool
  /-- this device is the grandmaster (R347) -/
  gm : Bool
  tzero : Word
  gmdev : BitVec 14
  parent : BitVec 14
  offset : Word
  t1 : Word
  t2 : Word
  t3 : Word
  /-- number of the exchange under way with the parent -/
  seq : BitVec 16
  parentBound : Nat
  delays : List Int
  /-- pairs heard, with the time (R350) -/
  heard : List (Nat × Nat × Word)
  /-- the package terms of the devices that time messages have come from (R349) -/
  terms : List (Nat × Nat)
  /-- what PTIME is still to be slewed by (R346) -/
  slew : Int
  /-- PTIME at the last exchange with a parent, at the entry into holdover, and at the last growth of the package term since (R351) -/
  lastAt : Word
  holdAt : Word
  growAt : Word
  deriving DecidableEq, Repr

/-- Suspend states (21_service R385). -/
inductive SuspState where
  | run
  | armed
  | quiesce
  | saving
  | retained
  | resuming
  deriving DecidableEq, Repr

/-- The mailbox and the management controller (21_service R385-R388). -/
structure Mailbox where
  cmd : Byte
  done : Bool
  status : BitVec 4
  args : List (Nat × Word)
  /-- the command was stored by a non-secure hart (R386) -/
  nonsecure : Bool
  state : SuspState
  late : Bool
  downed : Bool
  deadline : Word
  resumeAt : Option Word
  setMap : Word
  quiet : List Nat
  /-- devices to which QUIET has been sent -/
  told : List Nat
  /-- dies whose own PTIME has reached the deadline (R353) -/
  reached : List Nat
  measure : BitVec 512
  /-- SHA-512 of the last firmware image accepted -/
  image : BitVec 512
  deriving DecidableEq, Repr

def Mailbox.reset : Mailbox := ⟨0, false, 0, [], false, .run, false, false, 0, none, 0, [], [], [], 0, 0⟩

/-- A cached translation (09_address R244), tagged with die, tenant and world, and root. -/
structure TlbEntry where
  die : Nat
  tenant : Word
  ptroot : Word
  page : Nat
  leaf : BitVec 128
  log2 : Nat
  deriving DecidableEq, Repr

/-- An operation of a group: what its members have contributed so far (06_memory_isa R199; 17_prog_decode
R323). -/
structure CollOp where
  group : List (BitVec 32)
  index : Nat
  given : List CollMsg
  /-- the contexts and issue numbers of the members that have issued here -/
  joined : List (Nat × Word)
  /-- the REASON with which a member faults that issues now: its words differ, or a member that it depends on has failed -/
  fate : Option Nat
  /-- selects the order in which a combination without D is formed (R202) -/
  seed : Nat
  deriving DecidableEq, Repr

/-- A collective record on its way to another device: the header that its records bear, whether it is of the secure world, and the
message (18_fabric R336). -/
structure CollSend where
  dest : Nat
  sec : Bool
  head : Record
  msg : CollMsg
  deriving DecidableEq, Repr

/-- A posted write of the host (15_io_dies R313, R314): the link it came on, its Relaxed Ordering attribute, its BAR, offset and
bytes. -/
structure Posted where
  link : Nat
  ro : Bool
  bar : Nat
  off : Nat
  data : List Byte
  deriving DecidableEq, Repr

/-- Which agent moves. -/
inductive Agent where
  /-- a posted write of the host that has arrived, or a read of it that waits -/
  | host
  /-- the first of the inputs -/
  | input
  /-- a hart's scalar side, sequencer or queue -/
  | hart (h : Nat)
  /-- the first outstanding non-blocking operation of a hart -/
  | nonblocking (h : Nat)
  /-- the copy engines and collective contexts of an I/O die -/
  | engines (iod : Nat)
  deriving DecidableEq, Repr

/-- One package. -/
structure State where
  mem : List (Nat × Byte)
  harts : List (Nat × Hart)
  /-- the hart whose instruction `exec` executes -/
  cur : Nat
  /-- accumulator rows of core c: row a at key 1536 c + a (01_machine R8) -/
  acc : List (Nat × AccRow)
  /-- retired clusters of each core (21_service R380) -/
  laneOff : List (Nat × BitVec 8)
  chip : Nat
  live : BitVec 8
  groups : Nat
  inbox : Word
  /-- device numbers present (09_address R242) -/
  present : List Nat
  /-- the firmware peer table's device numbers (R242), and those of them reached through the scale-out ports (15_io_dies R316) -/
  peers : List Nat
  scaleOut : List Nat
  tlb : List TlbEntry
  poison : List Nat
  /-- secure granules of 1 GiB, by GA (21_service R382) -/
  secure : List Nat
  /-- strict tenants, and one above the tenant that each channel (die * 64 + channel) and core is assigned to (R381) -/
  strict : List Nat
  chanOwner : List (Nat × Nat)
  coreOwner : List (Nat × Nat)
  /-- non-secure cores, and non-secure ports: local ones, global ones above 35, scale-out ones above 71 (21_service R382) -/
  plainCores : List Nat
  plainPorts : List Nat
  zeroing : List Nat
  granuleOwner : List (Nat × Nat)
  /-- drained units other than dies (21_service R384) -/
  drained : List SvcUnit
  dies : List (Nat × Die)
  regions : List (Nat × Region)
  /-- GAs of the queue headers that the device has written (14_regions R298) -/
  headers : List Nat
  nextRegion : Nat
  grants : Nat
  pool : List Nat
  lockets : List Locket
  ctxs : List (Nat × Ctx)
  collOps : List CollOp
  /-- operations each local endpoint has issued, by group (R199) -/
  collCount : List (List (BitVec 32) × Nat × Nat)
  /-- records for other dies of the package -/
  outbox : List Outgoing
  /-- records that have reached their home and wait until it can perform them, and whether each is of the ordered class (21_service R383,
  R384; 18_fabric R328) -/
  held : List (Bool × Record)
  /-- collective records for other devices that have not left -/
  collOut : List CollSend
  /-- those that have left, by TAG: a parked member's PARKED makes them go again (20_faults R374) -/
  collSent : List (BitVec 32 × CollSend)
  /-- COLLDATA records whose message has not come whole -/
  collIn : List Record
  /-- holds in flight on receive channels: reader, channel, hold (18_fabric R326) -/
  holdsOut : List (Nat × Nat × Hold)
  conns : List (Nat × Conn)
  /-- frames held for their onward hop, and whether each came by a secure port (18_fabric R334, 21_service R382) -/
  relay : List (Bool × Frame)
  /-- frames under way from this device, each with the pairing that it left by (R334): port (global ones above 35) * 256 + shift,
  or 2^16 for an Ethernet switch -/
  frames : List (Nat × Frame)
  lscore : List (Nat × Nat)
  gscore : List (Nat × Nat)
  /-- pairings without cached training settings: port (global ones above 35) * 256 + shift, and one above the failed full
  trainings and occurrences since (18_fabric R340) -/
  training : List (Nat × Nat)
  /-- pairings whose slot is spent on full training (R340), and what each pairing has carried in its slot (R339) -/
  spent : List Nat
  meters : List (Nat × Meter)
  /-- the firmware peer table's MAC addresses, by device number (R343) -/
  macs : List (Nat × BitVec 48)
  /-- read-only window copies (09_address R237): die + 16 * the TENANT of the hart that it was kept for (21_service R381), 64-byte line by
  GA, bytes -/
  windows : List (Nat × Nat × List Byte)
  sealCount : List (Nat × Nat)
  /-- what harts of other devices have sent so far of items that they push on queues homed here (log entry 60) -/
  pushes : List (Nat × List Byte)
  pendSeals : List Record
  perfacks : List Record
  /-- the last stamp that each die gave as a group's sequencer (10_consistency R265) -/
  seqStamps : List (Nat × Word)
  /-- the context served last by an I/O die at a priority: key I/O die * 16 + priority, and one above the context's key
  (15_io_dies R309) -/
  lastServed : List (Nat × Nat)
  epoch : Word
  ctab : Word
  swmode : Bool
  time : PkgTime
  /-- true pod time, in units (19_time R345): no instruction reads it -/
  podTime : Nat
  /-- time messages sent: TYPE, destination device, message (19_time R349) -/
  timeOut : List (Nat × Nat × TimeMsg)
  mailbox : Mailbox
  bootStep : Nat
  /-- what the host's reads have returned: none for an Unsupported Request or a Completer Abort (15_io_dies R313) -/
  hostReads : List (Option Word)
  /-- host links that have trained, by I/O die, and whether as CXL (R313) -/
  links : List (Nat × Bool)
  /-- posted writes that have arrived and are not performed, in arrival order (R314) -/
  posted : List Posted
  /-- reads of the host that wait, in arrival order: where they arrive, offset, width (R314; 21_service R383, R384) -/
  hostWaits : List (HostBar × Nat × Nat)
  inputs : List Instr
  next : Option Agent
  /-- slots of the harts that have stopped on a trap they could not take, in the order in which they stopped (14_regions
  R294) -/
  stops : List Nat
  /-- a queued instruction runs at its enqueue, before the scalar side goes on: set by the step, a free choice -/
  prompt : Bool
  fresh : Nat
  deriving DecidableEq, Repr

/-- The machine right after reset: no hart runs (21_service R387), nothing is listed in memory, every die is
reset, and the registers that firmware sets at boot hold the values that log entry 3 names. -/
def State.reset : State where
  mem := []
  harts := []
  cur := 0
  acc := []
  laneOff := []
  chip := 0
  live := 0xFF
  groups := 0
  inbox := 0
  present := [0]
  peers := [0]
  scaleOut := []
  tlb := []
  poison := []
  secure := []
  strict := []
  chanOwner := []
  coreOwner := []
  plainCores := []
  plainPorts := []
  zeroing := []
  granuleOwner := []
  drained := []
  dies := [(8, { Die.reset with mhz := 1500 }), (9, { Die.reset with mhz := 1500 })]
  regions := []
  headers := []
  nextRegion := 0
  grants := 0
  pool := []
  lockets := []
  ctxs := []
  collOps := []
  collCount := []
  outbox := []
  held := []
  collOut := []
  collSent := []
  collIn := []
  holdsOut := []
  conns := []
  relay := []
  frames := []
  lscore := []
  gscore := []
  training := []
  spent := []
  meters := []
  macs := []
  windows := []
  sealCount := []
  pushes := []
  pendSeals := []
  perfacks := []
  seqStamps := []
  lastServed := []
  epoch := 0
  ctab := 0
  swmode := false
  time := ⟨0, false, false, 128, false, false, 0, 0, 0, 0, 0, 0, 0, 0, 0, [], [], [], 0, 0, 0, 0⟩
  podTime := 0
  timeOut := []
  mailbox := .reset
  bootStep := 0
  hostReads := []
  links := [(8, false)]
  posted := []
  hostWaits := []
  inputs := []
  next := none
  stops := []
  prompt := true
  fresh := 0

end Sys2Proof.Machine
end

