-- ==== Sys2Proof/Machine/Flags.lean ====
section
/-!
DEFINITION. Machine/Flags.lean: type codes (02_numbers R35), the six exception flags at their FCSR and STICKY
positions (01_machine R26, R27) and the integer operations of an element (02_numbers R36).
-/

namespace Sys2Proof.Machine

/-- The exception flags, NV in bit 0 to GUF in bit 5 (R26, R27). -/
abbrev Flags := BitVec 6

/-- No flag. -/
def Flags.none : Flags := 0
/-- NV, bit 0 (R26). -/
def Flags.nv : Flags := 0x01
/-- DZ, bit 1 (R26). -/
def Flags.dz : Flags := 0x02
/-- OF, bit 2 (R26). -/
def Flags.of : Flags := 0x04
/-- UF, bit 3 (R26). -/
def Flags.uf : Flags := 0x08
/-- NX, bit 4 (R26). -/
def Flags.nx : Flags := 0x10
/-- GUF, bit 5 (R27). -/
def Flags.guf : Flags := 0x20

/-- Flags raised when a condition holds. -/
def Flags.when (c : Bool) (f : Flags) : Flags := if c then f else Flags.none

/-- Element width in bits of a type code (R35). -/
def typeWidth (ty : BitVec 4) : Nat :=
  match ty.toNat with
  | 0 | 4 | 12 | 13 => 8
  | 1 | 5 | 8 | 9 => 16
  | 2 | 6 | 10 => 32
  | 3 | 7 | 11 => 64
  | 14 => 6
  | _ => 4

/-- S8 to S64 (R35). -/
def isSigned (ty : BitVec 4) : Bool := ty.toNat < 4
/-- S and N types (R35). -/
def isInt (ty : BitVec 4) : Bool := ty.toNat < 8
/-- F16, B16, F32 and F64, the types of vector floating-point arithmetic (R43). -/
def isArith (ty : BitVec 4) : Bool := 8 ≤ ty.toNat && ty.toNat < 12

/-- The F32 type code. -/
def tyF32 : BitVec 4 := 0xA
/-- The F6 type code. -/
def tyF6 : BitVec 4 := 0xE
/-- The C4 type code. -/
def tyC4 : BitVec 4 := 0xF
/-- The F16 type code. -/
def tyF16 : BitVec 4 := 0x8
/-- The B16 type code. -/
def tyB16 : BitVec 4 := 0x9

/-- A w-bit pattern read as two's complement (R36). -/
def toSigned (w x : Nat) : Int :=
  let y := x % 2 ^ w
  if y < 2 ^ (w - 1) then (y : Int) else (y : Int) - 2 ^ w

/-- The value of a w-bit pattern of an integer type (R36). -/
def intValue (sg : Bool) (w x : Nat) : Int := if sg then toSigned w x else (x % 2 ^ w : Nat)

/-- An integer wrapped to w bits (R36). -/
def wrapTo (w : Nat) (v : Int) : Nat := (v % (2 ^ w : Int)).toNat

/-- The smallest and largest values of an integer type (R35). -/
def intMin (sg : Bool) (w : Nat) : Int := if sg then -(2 ^ (w - 1) : Int) else 0
def intMax (sg : Bool) (w : Nat) : Int := if sg then 2 ^ (w - 1) - 1 else 2 ^ w - 1

/-- An integer clamped to a type's range (R36). -/
def clampTo (sg : Bool) (w : Nat) (v : Int) : Nat :=
  wrapTo w (if v < intMin sg w then intMin sg w else if v > intMax sg w then intMax sg w else v)

/-- Leading zeros of a w-bit value. -/
def leadingZeros (w x : Nat) : Nat :=
  let y := x % 2 ^ w
  if y = 0 then w else w - 1 - y.log2

/-- Trailing zeros of a value below bit w, counted from bit i. -/
def trailingFrom : Nat → Nat → Nat → Nat
  | 0, _, i => i
  | n + 1, x, i => if x.testBit i then i else trailingFrom n x (i + 1)

/-- Trailing zeros of a w-bit value; w when it is zero. -/
def trailingZeros (w x : Nat) : Nat := trailingFrom w x 0

/-- One bits among the low w bits. -/
def popCount : Nat → Nat → Nat
  | 0, _ => 0
  | n + 1, x => x % 2 + popCount n (x / 2)

end Sys2Proof.Machine
end

