-- ==== Sys2Proof/Machine/Float.lean ====
section
/-!
DEFINITION. Machine/Float.lean: the number formats of 02_numbers as exact dyadic values, one rounding function,
and the arithmetic and conversions built on it (R35-R68). An exact value is never rounded before the last step.
-/

namespace Sys2Proof.Machine

/-- The exact value of a floating-point code: a NaN and whether it is signalling, an infinity, or
(-1)^neg * m * 2^e (m = 0 is a signed zero). -/
inductive FVal where
  | nan (sig : Bool)
  | inf (neg : Bool)
  | fin (neg : Bool) (m : Nat) (e : Int)
  deriving DecidableEq, Repr

/-- Neither a NaN nor an infinity. -/
def FVal.isFinite : FVal → Bool
  | .fin _ _ _ => true
  | _ => false

/-- How the codes of all-ones exponent read (R35, R38, R40). -/
inductive Specials where
  | ieee
  | e4m3
  | f6
  deriving DecidableEq, Repr

/-- A floating-point format (R35): width, fraction bits, bias. -/
structure Fmt where
  w : Nat
  mb : Nat
  bias : Nat
  sp : Specials
  deriving DecidableEq, Repr

/-- The format of a type code (R35). -/
def fmtOf (ty : BitVec 4) : Fmt :=
  match ty.toNat with
  | 8 => ⟨16, 10, 15, .ieee⟩
  | 9 => ⟨16, 7, 127, .ieee⟩
  | 11 => ⟨64, 52, 1023, .ieee⟩
  | 12 => ⟨8, 3, 7, .e4m3⟩
  | 13 => ⟨8, 2, 15, .ieee⟩
  | 14 => ⟨6, 2, 3, .f6⟩
  | _ => ⟨32, 23, 127, .ieee⟩

/-- F32 (R35). -/
def f32 : Fmt := ⟨32, 23, 127, .ieee⟩

/-- Exponent width. -/
def Fmt.eb (F : Fmt) : Nat := F.w - 1 - F.mb
/-- Exponent of the smallest subnormal (R35). -/
def Fmt.qmin (F : Fmt) : Int := 1 - (F.bias : Int) - F.mb
/-- Codes of the canonical NaN, infinity and largest finite value without their sign (R35). -/
def Fmt.nanCode (F : Fmt) : Nat :=
  match F.sp with
  | .ieee => (2 ^ F.eb - 1) * 2 ^ F.mb + 2 ^ (F.mb - 1)
  | .e4m3 => 0x7F
  | .f6 => 0
def Fmt.infCode (F : Fmt) : Nat := (2 ^ F.eb - 1) * 2 ^ F.mb
def Fmt.maxCode (F : Fmt) : Nat :=
  match F.sp with
  | .ieee => F.infCode - 1
  | .e4m3 => 0x7E
  | .f6 => 0x1F
/-- The sign bit's weight. -/
def Fmt.signBit (F : Fmt) (neg : Bool) : Nat := if neg then 2 ^ (F.w - 1) else 0

/-- The fraction and exponent of a finite magnitude code: m * 2^e (R35). -/
def Fmt.magnitude (F : Fmt) (c : Nat) : Nat × Int :=
  let ef := c / 2 ^ F.mb
  let m := c % 2 ^ F.mb
  if ef = 0 then (m, F.qmin) else (2 ^ F.mb + m, F.qmin + (ef : Int) - 1)

/-- The value of a code (R35, R37-R40). -/
def Fmt.decode (F : Fmt) (code : Nat) : FVal :=
  let neg := code.testBit (F.w - 1)
  let c := code % 2 ^ (F.w - 1)
  let finite := let me := F.magnitude c; FVal.fin neg me.1 me.2
  match F.sp with
  | .ieee =>
    if c / 2 ^ F.mb = 2 ^ F.eb - 1 then
      if c % 2 ^ F.mb = 0 then .inf neg else .nan (!(c.testBit (F.mb - 1)))
    else finite
  | .e4m3 => if c = 0x7F then .nan false else finite
  | .f6 => finite

/-- Whether a magnitude is rounded up to the next multiple, by rounding mode (R44): the kept part, the discarded
part and its width. -/
def roundUp (rm : BitVec 3) (neg : Bool) (hi lo s : Nat) : Bool :=
  let half := 2 ^ (s - 1)
  match rm.toNat with
  | 0 => lo > half || (lo == half && hi % 2 == 1)
  | 1 => lo ≥ half && lo ≠ 0
  | 2 => false
  | 3 => lo ≠ 0 && !neg
  | _ => lo ≠ 0 && neg

/-- m * 2^e rounded to a multiple of 2^q: the multiple, and whether it is exact (R44). -/
def roundAt (rm : BitVec 3) (neg : Bool) (m : Nat) (e q : Int) : Nat × Bool :=
  if q ≤ e then (m * 2 ^ (e - q).toNat, true)
  else
    let s := (q - e).toNat
    let hi := m / 2 ^ s
    let lo := m % 2 ^ s
    (if roundUp rm neg hi lo s then hi + 1 else hi, lo == 0)

/-- a * 2^ea < b * 2^eb. -/
def dyLt (a : Nat) (ea : Int) (b : Nat) (eb : Int) : Bool :=
  if ea ≤ eb then a < b * 2 ^ (eb - ea).toNat else a * 2 ^ (ea - eb).toNat < b

/-- Rounding of a nonzero finite value to a format (R44, R45, R47, R48): the code and the flags. `sat` is the
saturating conversion of formatted pages (R53). -/
def Fmt.roundFin (F : Fmt) (rm : BitVec 3) (sat neg : Bool) (m : Nat) (e : Int) : Nat × Flags :=
  let sb := F.signBit neg
  let q := (m.log2 : Int) + e - F.mb
  let u := (roundAt rm neg m e q).1
  let mx := F.magnitude F.maxCode
  if dyLt mx.1 mx.2 u q then
    let toMax := sat || F.sp ≠ .ieee || rm = 2#3 || (rm = 3#3 && neg) || (rm = 4#3 && !neg)
    (sb + (if toMax then F.maxCode else F.infCode), Flags.of ||| Flags.nx)
  else
    let q' := max q F.qmin
    let d := roundAt rm neg m e q'
    let tiny := dyLt u q 1 (1 - (F.bias : Int))
    (sb + (((q' - F.qmin).toNat * 2 ^ F.mb) + d.1),
      Flags.when (!d.2) Flags.nx ||| Flags.when (tiny && !d.2) Flags.uf)

/-- Rounding of any value to a format; a NaN gives the canonical one (R46, R48, R49). The signalling NaN's own
flag is the operation's. -/
def Fmt.round (F : Fmt) (rm : BitVec 3) (sat : Bool) (v : FVal) : Nat × Flags :=
  match v with
  | .nan _ => (F.nanCode, Flags.when (F.sp == .f6) Flags.nv)
  | .inf neg =>
    match F.sp with
    | .ieee => (F.signBit neg + F.infCode, Flags.none)
    | _ => (F.signBit neg + F.maxCode, Flags.nv)
  | .fin neg 0 _ => (F.signBit neg, Flags.none)
  | .fin neg m e => F.roundFin rm sat neg m e

/-- NV of a signalling operand (R45). -/
def FVal.sigFlag : FVal → Flags
  | .nan true => Flags.nv
  | _ => Flags.none
def FVal.isNan : FVal → Bool
  | .nan _ => true
  | _ => false
def FVal.isZero : FVal → Bool
  | .fin _ 0 _ => true
  | _ => false
def FVal.isInf : FVal → Bool
  | .inf _ => true
  | _ => false
def FVal.negate : FVal → FVal
  | .nan s => .nan s
  | .inf n => .inf (!n)
  | .fin n m e => .fin (!n) m e
/-- A finite value times 2^k; others unchanged (R53). -/
def FVal.scale (k : Int) : FVal → FVal
  | .fin n m e => .fin n m (e + k)
  | v => v

/-- The signed integer m of a finite value at exponent e0 ≤ e. -/
def FVal.signedAt (neg : Bool) (m : Nat) (e e0 : Int) : Int :=
  let v : Int := m * 2 ^ (e - e0).toNat
  if neg then -v else v

/-- A sum of two values, exact (R45): ∞ - ∞ is invalid; an exact zero takes the sign the rounding mode gives. -/
def FVal.add (rm : BitVec 3) (a b : FVal) : FVal × Flags :=
  let nv := a.sigFlag ||| b.sigFlag
  match a, b with
  | .nan _, _ | _, .nan _ => (.nan false, nv)
  | .inf x, .inf y => if x = y then (.inf x, nv) else (.nan false, Flags.nv)
  | .inf x, _ | _, .inf x => (.inf x, nv)
  | .fin na ma ea, .fin nb mb eb =>
    let e0 := min ea eb
    let s := FVal.signedAt na ma ea e0 + FVal.signedAt nb mb eb e0
    if s = 0 then
      (.fin (if ma = 0 ∧ mb = 0 ∧ na = nb then na else rm == 4#3) 0 0, nv)
    else (.fin (s < 0) s.natAbs e0, nv)

/-- A product, exact; 0 * ∞ is invalid (R45). -/
def FVal.mul (a b : FVal) : FVal × Flags :=
  let nv := a.sigFlag ||| b.sigFlag
  match a, b with
  | .nan _, _ | _, .nan _ => (.nan false, nv)
  | .inf x, .inf y => (.inf (x != y), nv)
  | .inf x, .fin y m _ | .fin y m _, .inf x => if m = 0 then (.nan false, Flags.nv) else (.inf (x != y), nv)
  | .fin na ma ea, .fin nb mb eb => (.fin (na != nb) (ma * mb) (ea + eb), nv)

/-- a * b + c, exact (R56). -/
def FVal.fma (rm : BitVec 3) (a b c : FVal) : FVal × Flags :=
  let p := FVal.mul a b
  let s := FVal.add rm p.1 c
  (s.1, p.2 ||| s.2)

/-- A quotient to p + 3 bits with the remainder folded into a last bit (R140); R45's invalid cases and DZ. -/
def FVal.div (p : Nat) (a b : FVal) : FVal × Flags :=
  let nv := a.sigFlag ||| b.sigFlag
  match a, b with
  | .nan _, _ | _, .nan _ => (.nan false, nv)
  | .inf _, .inf _ => (.nan false, Flags.nv)
  | .inf x, .fin y _ _ => (.inf (x != y), nv)
  | .fin x _ _, .inf y => (.fin (x != y) 0 0, nv)
  | .fin na ma ea, .fin nb mb eb =>
    let n := na != nb
    if mb = 0 then if ma = 0 then (.nan false, Flags.nv) else (.inf n, Flags.dz)
    else if ma = 0 then (.fin n 0 0, nv)
    else
      let k := mb.log2 + p + 4
      let q := ma * 2 ^ k / mb
      let r := ma * 2 ^ k % mb
      (.fin n (2 * q + (if r = 0 then 0 else 1)) (ea - eb - k - 1), nv)

/-- Bits i - 1 down to 0 of the integer square root. -/
def isqrtFrom : Nat → Nat → Nat → Nat
  | 0, _, r => r
  | i + 1, n, r => isqrtFrom i n (if (r + 2 ^ i) * (r + 2 ^ i) ≤ n then r + 2 ^ i else r)

/-- A square root to p + 2 bits with a last bit for the remainder (R141). -/
def FVal.sqrt (p : Nat) : FVal → FVal × Flags
  | .nan s => (.nan false, (FVal.nan s).sigFlag)
  | .inf false => (.inf false, Flags.none)
  | .inf true => (.nan false, Flags.nv)
  | .fin n m e =>
    if m = 0 then (.fin n 0 0, Flags.none)
    else if n then (.nan false, Flags.nv)
    else
      let k := 2 * p + 6 + (if (e % 2 = 0) then 0 else 1)
      let x := m * 2 ^ k
      let b := x.log2 / 2 + 1
      let r := isqrtFrom b x 0
      (.fin false (2 * r + (if r * r = x then 0 else 1)) ((e - k) / 2 - 1), Flags.none)

/-- Strictly smaller in the numeric order with -0 below +0 (R57); NaNs never. -/
def FVal.ltTotal (a b : FVal) : Bool :=
  match a, b with
  | .nan _, _ | _, .nan _ => false
  | .inf true, .inf true | .inf false, _ => false
  | .inf true, _ => true
  | _, .inf true => false
  | _, .inf false => true
  | .fin na ma ea, .fin nb mb eb =>
    if ma = 0 ∧ mb = 0 then na && !nb
    else
      let e0 := min ea eb
      FVal.signedAt na ma ea e0 < FVal.signedAt nb mb eb e0

/-- Strictly smaller with -0 equal to +0 (R147). -/
def FVal.lt (a b : FVal) : Bool := if a.isZero && b.isZero then false else FVal.ltTotal a b
/-- Equal as numbers (R147). -/
def FVal.eq (a b : FVal) : Bool := !a.isNan && !b.isNan && !FVal.lt a b && !FVal.lt b a

/-- minimumNumber (or maximumNumber) of two codes (R57). -/
def Fmt.minMax (F : Fmt) (mx : Bool) (x y : Nat) : Nat × Flags :=
  let a := F.decode x
  let b := F.decode y
  let fl := a.sigFlag ||| b.sigFlag
  match a.isNan, b.isNan with
  | true, true => (F.nanCode, fl)
  | true, false => (y, fl)
  | false, true => (x, fl)
  | false, false => (if FVal.ltTotal a b != mx then x else y, fl)

/-! ### Rounded operations on codes -/

/-- An exact result and its operation's flags, rounded; a NaN result raises no further flag (R45). -/
def Fmt.deliver (F : Fmt) (rm : BitVec 3) (v : FVal × Flags) : Nat × Flags :=
  let r := F.round rm false v.1
  (r.1, v.2 ||| r.2)

def Fmt.add (F : Fmt) (rm : BitVec 3) (x y : Nat) : Nat × Flags :=
  F.deliver rm (FVal.add rm (F.decode x) (F.decode y))
def Fmt.sub (F : Fmt) (rm : BitVec 3) (x y : Nat) : Nat × Flags :=
  F.deliver rm (FVal.add rm (F.decode x) (F.decode y).negate)
def Fmt.mul (F : Fmt) (rm : BitVec 3) (x y : Nat) : Nat × Flags :=
  F.deliver rm (FVal.mul (F.decode x) (F.decode y))
def Fmt.div (F : Fmt) (rm : BitVec 3) (x y : Nat) : Nat × Flags :=
  F.deliver rm (FVal.div F.mb (F.decode x) (F.decode y))
/-- ±(x * y) ± z rounded once (R56). -/
def Fmt.fma (F : Fmt) (rm : BitVec 3) (np nz : Bool) (x y z : Nat) : Nat × Flags :=
  let a := F.decode x
  let c := F.decode z
  F.deliver rm (FVal.fma rm (if np then a.negate else a) (F.decode y) (if nz then c.negate else c))
def Fmt.sqrt (F : Fmt) (rm : BitVec 3) (x : Nat) : Nat × Flags := F.deliver rm (FVal.sqrt F.mb (F.decode x))

/-- ln 2 * 2^512, rounded down. -/
def ln2Fixed : Nat :=
  0xb17217f7d1cf79abc9e3b39803f2f6af40f343267298b62d8a0d175b8baafa2be7b876206debac98559552fb4afa1b10ed2eae35c138214427573b291169b825

/-- The terms t^k / k! of e^t from term k on, in units of 2^-512. -/
def expTerms : Nat → Nat → Nat → Nat → Nat
  | 0, _, _, _ => 0
  | n + 1, t, k, term => term + expTerms n t (k + 1) (term * t / 2 ^ 512 / (k + 1))

/-- The integer part (toward -∞) and the fraction in units of 2^-512 of a finite value of a format no wider than
F32, the integer part kept within ±2000 (R58). -/
def splitExp (neg : Bool) (m : Nat) (e : Int) : Int × Nat :=
  let v : Int := FVal.signedAt neg m (e + 512) 0
  let n := v / 2 ^ 512
  (max (-2000) (min 2000 n), (v % 2 ^ 512).toNat)

/-- 2^x to nearest even (R58). -/
def Fmt.exp2 (F : Fmt) (x : Nat) : Nat × Flags :=
  match F.decode x with
  | .nan s => (F.nanCode, (FVal.nan s).sigFlag)
  | .inf true => (0, Flags.none)
  | .inf false => (F.infCode, Flags.none)
  | .fin neg m e =>
    let nf := splitExp neg m e
    if nf.2 = 0 then F.roundFin 0#3 false false 1 nf.1
    else F.roundFin 0#3 false false (2 * expTerms 100 (nf.2 * ln2Fixed / 2 ^ 512) 0 (2 ^ 512) + 1) (nf.1 - 513)

/-- A value rounded to an integer by a rounding mode, and whether it is exact. -/
def roundInt (rm : BitVec 3) (neg : Bool) (m : Nat) (e : Int) : Nat × Bool := roundAt rm neg m e 0

/-- Rounding to an integral value of the same type (R141). -/
def Fmt.rint (F : Fmt) (rm : BitVec 3) (x : Nat) : Nat × Flags :=
  match F.decode x with
  | .nan s => (F.nanCode, (FVal.nan s).sigFlag)
  | .inf _ => (x, Flags.none)
  | .fin neg m e =>
    let r := roundInt rm neg m e
    ((F.round 0#3 false (.fin neg r.1 0)).1, Flags.when (!r.2) Flags.nx)

/-- The class word of a code (R142). -/
def Fmt.classify (F : Fmt) (x : Nat) : Nat :=
  let sign := if x.testBit (F.w - 1) then 1 else 0
  match F.decode x with
  | .nan true => sign + 64
  | .nan false => sign + 32
  | .inf _ => sign + 16
  | .fin _ m e =>
    let cls := if m = 0 then 2 else if x % 2 ^ (F.w - 1) / 2 ^ F.mb = 0 then 4 else 8
    sign + cls + (if (roundAt 2#3 false m e 0).2 then 128 else 0)

/-! ### Conversions (R48-R50, R53) -/

/-- A value to an integer type (R50). -/
def toIntType (rm : BitVec 3) (sg : Bool) (w : Nat) (v : FVal) : Nat × Flags :=
  match v with
  | .nan _ => (0, Flags.nv)
  | .inf neg => (wrapTo w (if neg then intMin sg w else intMax sg w), Flags.nv)
  | .fin neg m e =>
    let r := roundInt rm neg m e
    let i : Int := if neg then -(r.1 : Int) else r.1
    if i < intMin sg w || i > intMax sg w then (clampTo sg w i, Flags.nv)
    else (wrapTo w i, Flags.when (!r.2) Flags.nx)

/-- The exact value of an element of a type other than C4. -/
def valueOf (ty : BitVec 4) (x : Nat) : FVal :=
  if isInt ty then
    let i := intValue (isSigned ty) (typeWidth ty) x
    .fin (i < 0) i.natAbs 0
  else (fmtOf ty).decode x

/-- A value delivered in a type, as VCVT does (R48-R50); `sat` for pages (R53). -/
def deliverAs (rm : BitVec 3) (sat : Bool) (ty : BitVec 4) (v : FVal) : Nat × Flags :=
  if isInt ty then toIntType rm (isSigned ty) (typeWidth ty) v
  else
    let r := (fmtOf ty).round rm sat v
    (r.1, v.sigFlag ||| r.2)

/-- An element of one type converted to another (R50, R144). -/
def convertElem (rm : BitVec 3) (src dst : BitVec 4) (x : Nat) : Nat × Flags :=
  if isInt src && isInt dst then
    (clampTo (isSigned dst) (typeWidth dst) (intValue (isSigned src) (typeWidth src) x), Flags.none)
  else deliverAs rm false dst (valueOf src x)

/-- Entry c of a codebook, a NaN entry made canonical (R41). -/
def codebookEntry (cb : BitVec 256) (c : Nat) : Nat :=
  let x := (cb.toNat >>> (16 * (c % 16))) % 2 ^ 16
  match (fmtOf tyB16).decode x with
  | .nan _ => (fmtOf tyB16).nanCode
  | _ => x

/-- The exact value of an element, C4 through a codebook (R41); a decoded NaN is quiet, as canonical. -/
def valueIn (cb : BitVec 256) (ty : BitVec 4) (x : Nat) : FVal :=
  if ty = tyC4 then (fmtOf tyB16).decode (codebookEntry cb x) else valueOf ty x

/-- A load's element from a formatted page (R53): the page's format and scale, the codebook its CB names, the
register's type. -/
def loadElem (cb : BitVec 256) (fmt : BitVec 4) (pscale : BitVec 8) (ty : BitVec 4) (x : Nat) : Nat × Flags :=
  if fmt = tyC4 ∧ ty = tyC4 then (x, Flags.none)
  else
    let v := match valueIn cb fmt x with
      | .nan _ => .nan false
      | v => v.scale ((pscale.toNat : Int) - 127)
    deliverAs 0#3 true ty v

/-- A store's element to a formatted page (R53). -/
def storeElem (fmt : BitVec 4) (pscale : BitVec 8) (ty : BitVec 4) (x : Nat) : Nat × Flags :=
  if fmt = tyC4 then (x, Flags.none)
  else deliverAs 0#3 true fmt ((valueOf ty x).scale (127 - (pscale.toNat : Int)))

/-! ### Matrix and scan arithmetic (R61-R66) -/

/-- What a dot product has gathered: NaN, the two infinities, NV, and the exact finite sum. -/
structure DotAcc where
  nan : Bool
  pos : Bool
  neg : Bool
  nv : Flags
  s : Int
  e : Int
  deriving DecidableEq, Repr

def DotAcc.zero : DotAcc := ⟨false, false, false, Flags.none, 0, 0⟩

/-- One more exact term (R61). -/
def DotAcc.term (d : DotAcc) (t : FVal × Flags) : DotAcc :=
  let d := { d with nv := d.nv ||| t.2 }
  match t.1 with
  | .nan _ => { d with nan := true }
  | .inf false => { d with pos := true }
  | .inf true => { d with neg := true }
  | .fin n m e =>
    let e0 := min e d.e
    { d with s := FVal.signedAt n m e e0 + d.s * 2 ^ (d.e - e0).toNat, e := e0 }

/-- The sum as a value; a zero sum of products is +0 (R218). -/
def DotAcc.value (d : DotAcc) : FVal × Flags :=
  if d.nan then (.nan false, d.nv ||| Flags.when (d.pos && d.neg) Flags.nv)
  else if d.pos && d.neg then (.nan false, d.nv ||| Flags.nv)
  else if d.pos then (.inf false, d.nv)
  else if d.neg then (.inf true, d.nv)
  else (.fin (d.s < 0) d.s.natAbs d.e, d.nv)

/-- A + the exact sum of products, one rounding to F32 (R61). The infinities of A count among the terms. -/
def dotAccumulate (a : Nat) (terms : List (FVal × Flags)) : Nat × Flags :=
  let d := terms.foldl DotAcc.term DotAcc.zero
  let av := f32.decode a
  match av with
  | .fin _ _ _ =>
    let s := d.value
    let r := FVal.add 0#3 av s.1
    f32.deliver 0#3 (r.1, s.2 ||| r.2)
  | _ => f32.deliver 0#3 (d.term (av, av.sigFlag)).value

/-- The composition of an earlier pair with a later pair (R63, R64), F32 codes. -/
def compose (first later : Nat × Nat) : (Nat × Nat) × Flags :=
  let g := f32.decode later.1
  let g1 := f32.decode first.1
  if g.isZero then (later, Flags.none)
  else
    let p := f32.deliver 0#3 (FVal.mul g g1)
    let h := f32.fma 0#3 false false later.1 first.2 later.2
    let pv := f32.decode p.1
    let small := match pv with
      | .fin _ m e => m ≠ 0 && dyLt m e 1 (-126)
      | _ => false
    if small || (pv.isZero && !g1.isZero) then
      ((p.1 / 2 ^ 31 * 2 ^ 31, h.1), (p.2 &&& (Flags.nv ||| Flags.of)) ||| h.2 ||| Flags.guf)
    else ((p.1, h.1), p.2 ||| h.2)

/-- 1.0 in F32. -/
def f32One : Nat := 0x3F800000
/-- -∞ in F32. -/
def f32NegInf : Nat := 0xFF800000

/-- The LSE merge of two records (m, s, v...) of F32 codes (R68). -/
def lseMerge (a b : List Nat) : List Nat × Flags :=
  let ma := a.headD f32NegInf
  let mb := b.headD f32NegInf
  let m := f32.minMax true ma mb
  let part (mx : Nat) (xs : List Nat) : Nat × List (Nat × Flags) × Flags :=
    let d := f32.sub 0#3 mx m.1
    let ex := f32.exp2 d.1
    (ex.1, xs.map (f32.mul 0#3 · ex.1), d.2 ||| ex.2)
  let pa : List (Nat × Flags) × Flags :=
    if ma = f32NegInf then (a.tail.map fun _ => (0, Flags.none), Flags.none)
    else ((part ma a.tail).2.1, (part ma a.tail).2.2)
  if mb = f32NegInf then
    (m.1 :: pa.1.map (·.1), (pa.1.foldl (fun f r => f ||| r.2) (m.2 ||| pa.2)))
  else
    let eb := part mb []
    let r := (b.tail.zip pa.1).map fun (y, p) => f32.fma 0#3 false false y eb.1 p.1
    (m.1 :: r.map (·.1),
      r.foldl (fun f x => f ||| x.2) (pa.1.foldl (fun f x => f ||| x.2) (m.2 ||| pa.2 ||| eb.2.2)))

end Sys2Proof.Machine
end

