-- ==== Sys2Proof/Machine/Sparse.lean ====
section
/-!
DEFINITION. Machine/Sparse.lean: collections keyed by a number as lists in one canonical form: keys strictly
rising, and no entry equal to what an unlisted key reads as. Memory, registers and slots are held so, and equal
contents are equal lists.
-/

namespace Sys2Proof.Machine

/-- The value at a key; `d` where the key is not listed. -/
def Sparse.get {α : Type} (d : α) : List (Nat × α) → Nat → α
  | [], _ => d
  | (k, v) :: t, n => if n = k then v else Sparse.get d t n

/-- The list without a key. -/
def Sparse.erase {α : Type} : List (Nat × α) → Nat → List (Nat × α)
  | [], _ => []
  | (k, v) :: t, n => if n = k then Sparse.erase t n else (k, v) :: Sparse.erase t n

/-- The list with a value put at a key, in key order. -/
def Sparse.insert {α : Type} : List (Nat × α) → Nat → α → List (Nat × α)
  | [], n, v => [(n, v)]
  | (k, w) :: t, n, v =>
    if n < k then (n, v) :: (k, w) :: t
    else if n = k then (n, v) :: t
    else (k, w) :: Sparse.insert t n v

/-- A write of a key: writing what an unlisted key reads as removes the entry. -/
def Sparse.set {α : Type} [DecidableEq α] (d : α) (l : List (Nat × α)) (n : Nat) (v : α) : List (Nat × α) :=
  if v = d then Sparse.erase l n else Sparse.insert l n v

/-- A key's value changed by a function. -/
def Sparse.modify {α : Type} [DecidableEq α] (d : α) (l : List (Nat × α)) (n : Nat) (f : α → α) :
    List (Nat × α) :=
  Sparse.set d l n (f (Sparse.get d l n))

/-- Every key is above a bound and the keys rise. -/
def Sparse.above {α : Type} : Nat → List (Nat × α) → Bool
  | _, [] => true
  | b, (k, _) :: t => decide (b ≤ k) && Sparse.above (k + 1) t

/-- The canonical form. -/
def Sparse.wf {α : Type} [DecidableEq α] (d : α) (l : List (Nat × α)) : Bool :=
  Sparse.above 0 l && l.all fun e => decide (e.2 ≠ d)

/-- Insertion in an order. -/
def insertBy {α : Type} (before : α → α → Bool) (a : α) : List α → List α
  | [] => [a]
  | b :: t => if before a b then a :: b :: t else b :: insertBy before a t

end Sys2Proof.Machine
end

