-- ==== Sys2Proof/WellFormed.lean ====
section
/-!
DEFINITION. WellFormed.lean: the conditions on field values that the decoder's tables leave (03_encoding R73,
R77-R85): a word that breaks one traps ILLEGAL as a reserved word does (R75).
-/

namespace Sys2Proof

/-- A register number is a base of groups of 2^g rows (R73). -/
def groupBase (g : BitVec 2) (r : BitVec 5) : Bool := r.toNat % 2 ^ g.toNat = 0

/-- The field conditions of an instruction: group bases aligned (R73), no mask register m0 as a destination and
masks present where required (R80, R81), counters 1 to 7 and scopes 0 to 3 (R77, R78), the even destination of
vamob.cas (R83), VCVT's source type below C4 (R80). The steps without an encoding have none. -/
def wellFormed : Instr → Bool
  | .vadd f | .vsub f | .vrsub f | .vmul f | .vmulh f | .vmacc f | .vmin f | .vmax f | .vand f | .vor f
  | .vxor f | .vsll f | .vsrl f | .vsra f | .vadds f | .vsubs f | .vfadd f | .vfsub f | .vfmul f | .vfdiv f
  | .vfmin f | .vfmax f | .vfma f | .vfms f | .vfnma f | .vfnms f | .vfsgnj f | .vfsgnjn f | .vfsgnjx f =>
    groupBase f.g f.d && groupBase f.g f.a && groupBase f.g f.b
  | .vaddX f | .vsubX f | .vrsubX f | .vmulX f | .vmulhX f | .vmaccX f | .vminX f | .vmaxX f | .vandX f
  | .vorX f | .vxorX f | .vsllX f | .vsrlX f | .vsraX f | .vaddsX f | .vsubsX f | .vfaddX f | .vfsubX f
  | .vfmulX f | .vfdivX f | .vfminX f | .vfmaxX f | .vfmaX f | .vfmsX f | .vfnmaX f | .vfnmsX f | .vfsgnjX f
  | .vfsgnjnX f | .vfsgnjxX f | .vrowrot f =>
    groupBase f.g f.d && groupBase f.g f.b
  | .vmerge f =>
    groupBase f.g f.d && groupBase f.g f.a && groupBase f.g f.b && f.m ≠ 0
  | .vfsqrt f | .vfexp2 f | .vfabs f | .vfneg f | .vfclass f | .vfrint f | .vclz f | .vctz f | .vpopc f
  | .vnot f | .vabs f | .vneg f | .vcvtC4 f | .vmv f =>
    groupBase f.g f.d && groupBase f.g f.b
  | .vcvt f =>
    groupBase f.g f.d && groupBase f.g f.b && f.src ≠ 15
  | .vbcast f | .viota f | .vlu f | .vls f | .vld f | .vsu f | .vss f | .vsd f | .maccRd f | .maccWr f =>
    groupBase f.g f.d
  | .vcmpEq f | .vcmpNe f | .vcmpLt f | .vcmpLe f | .vcmpGt f | .vcmpGe f | .vcmpUnord f | .vcmpOrd f
  | .vcmpEqX f | .vcmpNeX f | .vcmpLtX f | .vcmpLeX f | .vcmpGtX f | .vcmpGeX f | .vcmpUnordX f | .vcmpOrdX f
  | .mand f | .mor f | .mxor f | .mandn f | .mnot f | .mset f | .mclr f | .mmv f | .msbf f =>
    f.d ≠ 0
  | .vcompress f | .vexpand f =>
    f.m ≠ 0
  | .vamobCas f =>
    f.d.toNat % 2 = 0
  | .mstr f =>
    groupBase f.g f.vs
  | .maccScrd f | .maccScwr f =>
    groupBase 1 f.d
  | .amosAdd f | .amosAnd f | .amosOr f | .amosXor f | .amosMin f | .amosMax f | .amosMinn f | .amosMaxn f
  | .amosSwap f | .amosCas f | .phaseRel f | .phaseAcq f | .phaseAr f =>
    f.scope.toNat < 4
  | .waitc f | .ccrd f | .ccset f =>
    f.ctr ≠ 0
  | .add _ | .sub _ | .and _ | .or _ | .xor _ | .sll _ | .srl _ | .sra _ | .slt _ | .sltn _ | .mul _ | .mulh _
  | .mulhn _ | .div _ | .divn _ | .rem _ | .remn _ | .min _ | .max _ | .minn _ | .maxn _ | .clz _ | .ctz _
  | .popc _ | .rol _ | .ror _ | .addw _ | .subw _ | .addi _ | .andi _ | .ori _ | .xori _ | .slti _ | .sltni _
  | .slli _ | .srli _ | .srai _ | .lui _ | .auipc _ | .beq _ | .bne _ | .blt _ | .bge _ | .bltn _ | .bgen _
  | .jal _ | .jalr _ | .ldb _ | .ldh _ | .ldw _ | .ldd _ | .ldbs _ | .ldhs _ | .ldws _ | .stb _ | .sth _
  | .stw _ | .std _ | .ldpc _ | .csrr _ | .csrw _ | .csrs _ | .csrc _ | .lksv _ | .lkld _ | .hrel _ | .setvl _
  | .fork _ | .launch _ | .share _ | .waitt _ | .waitg _ | .waitwEq _ | .waitwNe _ | .waitwGen _ | .waitwLtn _
  | .time _ | .winfl _ | .qpop _ | .qpush _ | .vcbld _ | .mpopc _ | .mfirst _ | .vslup _ | .vsldn _
  | .vgather _ | .vextract _ | .vinsert _ | .vredsum _ | .vredmin _ | .vredmax _ | .vredand _ | .vredor _
  | .vredxor _ | .vfsumo _ | .vfsumt _ | .vfredmin _ | .vfredmax _ | .vlx _ | .vsx _ | .vamoaAdd _
  | .vamoaAnd _ | .vamoaOr _ | .vamoaXor _ | .vamobMin _ | .vamobMax _ | .vamobSwap _ | .vamocFadd _
  | .vamocFmin _ | .vamocFmax _ | .copy _ | .copy2 _ | .copyx _ | .fill _ | .mmodeOn _ | .mstat _ | .pref _
  | .ecfg _ | .ecnt _ | .eres _ | .coll _ | .mls _ | .mop _ | .mscan _ | .mscanf _ | .maccZr _ | .maccCp _
  | .rep _ | .udf _ | .svc | .tret | .brk | .ifence | .wfi | .merge | .endHart | .yield | .mmodeOff | .mswap
  | .convoyStart _ | .groupStart _ | .loadGroupLanding _ _ _ | .convoyDrain _ | .vectorToScalarWrite _
  | .nonblockingComplete _ _ _ | .vectorTrap _ _ _ _ _ | .asyncTrap _ | .stoppedHartSave _ | .shareAdoption _
  | .forkSplit _ | .mergeComplete _ | .endComplete _ | .drainedResume _ | .sealSend _ | .waitReturn _
  | .wdeadlineExpiry _ | .waitwPoll _ | .tileQueueGrant _ | .repBufferAcquire _ | .replayEnqueue _ | .rowSlot _
  | .mswapEffect _ | .pageWalkComplete _ _ | .schedulingInterval _ | .initialGrant _ | .shareGraceExpiry _
  | .unitStopAck _ _ | .segmentStart _ | .segmentPerformed _ | .engineFault _ _ _ _ | .multicastApply _
  | .parkLimitExpiry _ | .read _ | .write _ | .writeb _ | .atomic _ | .combined _ | .readresp _ | .atomresp _
  | .seal _ | .sealack _ | .colldata _ | .parked _ | .perfack _ | .aborted _ | .frameReceive _ _
  | .relayForward _ | .frameTransmit _ _ | .retryTimerExpiry _ | .ackTimer _ | .keepaliveTimer _
  | .peerMarkDown _ | .rst _ | .slotBegin _ | .lockTimeout _ _ _ | .beadArrival _ _ _ | .holdReceive _ _ _
  | .beadTimeout _ _ | .beadRegenerate _ _ | .tlbinv _ _ | .peerup _ _ | .parklim _ _ _
  | .registerWrite _ _ _ _ | .hostPostedWrite _ _ _ | .hostRead _ _ _ | .hostCompletion _ _
  | .dieTimeExchange _ _ _ _ _ | .dieSyncTimeout _ | .timeExchangeTimer _ | .sync _ | .follow _ | .dreq _
  | .dresp _ | .announce _ | .announceTimer | .externalPtpMessage _ | .holdoverEntry | .holdoverSyncLoss
  | .packageTermGrowth | .loadfw | .attest | .suspend | .cancel | .resume | .drain _ | .rejoin _
  | .tenant _ _ _ _ _ | .owner _ _ | .zeroingComplete _ | .suspendDeadline | .quiet _ | .savingTimeout
  | .savingComplete | .resumeDeadline | .resumeComplete | .drainedDieAccessTimeout _ | .boot
  | .clockRateChange _ _ | .thermalThrottle _ | .hbmScrub _ _ _ | .clusterRetire _ _ | .scanUnitStep _
  | .accumulatePathRow _ | .completionTimeout _ | .perfackSendTimer _ | .connectionStateFill _
  | .announceAgeExpiry | .dieTermGrowth _ =>
    true

end Sys2Proof
end

