-- ==== Sys2Proof/Machine/Ops.lean ====
section
/-!
DEFINITION. Machine/Ops.lean: the named operations on registers, control registers, the convoy, memory and
translation, and taking a trap and returning from one (01_machine R22-R29, 09_address R229-R246, 04_scalar
R106, R129, R130, 20_faults R355-R357).
-/

namespace Sys2Proof.Machine

/-! ### Harts and their registers -/

/-- The hart in a slot. -/
def State.hart (s : State) (h : Nat) : Hart := Sparse.get Hart.free s.harts h
/-- The state with a slot's hart replaced. -/
def State.setHart (s : State) (h : Nat) (t : Hart) : State :=
  { s with harts := Sparse.set Hart.free s.harts h t }
/-- The hart whose instruction is executed. -/
def State.me (s : State) : Hart := s.hart s.cur
/-- The state with the executing hart changed. -/
def State.withMe (s : State) (g : Hart → Hart) : State := s.setHart s.cur (g s.me)

/-- The die, the core in its die and the slot of a hart (01_machine R29). -/
def slotDie (h : Nat) : Nat := h / 128
def slotCore (h : Nat) : Nat := h / 8 % 16
def slotNum (h : Nat) : Nat := h % 8
/-- The package-wide core number of a hart. -/
def coreOf (h : Nat) : Nat := h / 8

/-- A scalar register; x0 reads zero (R22). -/
def Hart.xr (t : Hart) (r : BitVec 5) : Word := if r = 0 then 0 else Sparse.get 0 t.x r.toNat
/-- A write of a scalar register; one to x0 is discarded (R22, R99). -/
def Hart.setX (t : Hart) (r : BitVec 5) (v : Word) : Hart :=
  if r = 0 then t else { t with x := Sparse.set 0 t.x r.toNat v }
/-- On to the next instruction word; a wait that ends leaves no trace. -/
def Hart.advance (t : Hart) : Hart := { t with pc := t.pc + 4, wait := none }
/-- The result of a scalar instruction: rd and the next word. -/
def Hart.result (t : Hart) (d : BitVec 5) (v : Word) : Hart := (t.setX d v).advance

/-- A vector register row (R22). -/
def Hart.vr (t : Hart) (n : Nat) : Row := Sparse.get 0 t.v (n % 32)
def Hart.setV (t : Hart) (n : Nat) (v : Row) : Hart := { t with v := Sparse.set 0 t.v (n % 32) v }
/-- A mask register; m0 reads all ones and cannot be written (R22). -/
def Hart.mr (t : Hart) (n : Nat) : Mask := if n = 0 then BitVec.allOnes 8192 else Sparse.get 0 t.m n
def Hart.setM (t : Hart) (n : Nat) (v : Mask) : Hart := if n = 0 then t else { t with m := Sparse.set 0 t.m n v }
/-- A codebook register (R41). -/
def Hart.cbr (t : Hart) (n : Nat) : BitVec 256 := Sparse.get 0 t.cb n
def Hart.setCb (t : Hart) (n : Nat) (v : BitVec 256) : Hart := { t with cb := Sparse.set 0 t.cb n v }
/-- A completion counter (R169). -/
def Hart.ctr (t : Hart) (n : Nat) : Ctr := Sparse.get ⟨0, 0⟩ t.cc n
def Hart.setCtr (t : Hart) (n : Nat) (v : Ctr) : Hart := { t with cc := Sparse.set ⟨0, 0⟩ t.cc n v }
/-- A context slot: 0 to 7 engine, 8 to 15 collective (R190). -/
def Hart.ctxSlot (t : Hart) (k : Nat) : CtxSlot := Sparse.get CtxSlot.empty t.ctxs k
def Hart.setCtxSlot (t : Hart) (k : Nat) (c : CtxSlot) : Hart :=
  { t with ctxs := Sparse.set CtxSlot.empty t.ctxs k c }

/-- A control register's stored bits, by number (R24). -/
def Hart.csrv (t : Hart) (n : Nat) : Word := Sparse.get 0 t.csr n
def Hart.setCsr (t : Hart) (n : Nat) (v : Word) : Hart := { t with csr := Sparse.set 0 t.csr n v }

/-- The world the hart runs in: TENANT[16] (R115). -/
def Hart.secure (t : Hart) : Bool := (t.csrv 0x107).getLsbD 16
/-- Interrupt enable: TSTATUS[0] (20_faults R356). -/
def Hart.ie (t : Hart) : Bool := (t.csrv 0x104).getLsbD 0
/-- The vector restart flag: TSTATUS[4] (R356). -/
def Hart.vrf (t : Hart) : Bool := (t.csrv 0x104).getLsbD 4
/-- Clusters owned (R28). -/
def Hart.k (t : Hart) : Nat := popCount 8 t.map.toNat
/-- Captured rounding mode and fill value (R25). -/
def Hart.rm (t : Hart) : BitVec 3 := (t.csrv 0x000).extractLsb' 8 3
def Hart.vfill (t : Hart) : Word := t.csrv 0x001
/-- VLMAX of a type on a share of k clusters (R14). -/
def vlmaxOf (k : Nat) (ty : BitVec 4) : Nat := k * 4096 / typeWidth ty
/-- The accumulator window: first row and row count (R24). -/
def Hart.accFirst (t : Hart) : Nat := ((t.csrv 0x014).extractLsb' 0 11).toNat
def Hart.accRows (t : Hart) : Nat := ((t.csrv 0x014).extractLsb' 16 11).toNat

/-- Flags accrued into FCSR[4:0] and STICKY[5:0] (R25, R27). -/
def Hart.accrue (t : Hart) (f : Flags) : Hart :=
  (t.setCsr 0x000 (t.csrv 0x000 ||| (f &&& 0x1F).setWidth 64)).setCsr 0x012 (t.csrv 0x012 ||| f.setWidth 64)

/-! ### Traps -/

/-- Why an instruction does not complete: a synchronous trap, or an access that waits (21_service R383, R384). -/
inductive Stop where
  | trap (cause : Byte) (tval : Word)
  /-- an uncorrectable error in what the translation or check of an address reads, at a global address (21_service R379) -/
  | poison (ga : Nat) (va : Word)
  | wait (va : Word)
  deriving DecidableEq, Repr

/-- Cause codes (20_faults R355). -/
def causeIllegal : Byte := 0x01
def causeConvoy : Byte := 0x02
def causeRepframe : Byte := 0x03
def causeVlen : Byte := 0x04
def causeLenword : Byte := 0x05
def causeAlign : Byte := 0x06
def causePage : Byte := 0x08
def causePerm : Byte := 0x09
def causeFmtmix : Byte := 0x0A
def causePartition : Byte := 0x0B
def causePeerdown : Byte := 0x0C
def causeWorld : Byte := 0x0D
def causeMmode : Byte := 0x10
def causeAccrange : Byte := 0x11
def causeEngctx : Byte := 0x12
def causeEngfault : Byte := 0x13
def causeCollfault : Byte := 0x14
def causeEcc : Byte := 0x18
def causeLaneoff : Byte := 0x19
def causeSvc : Byte := 0x20
def causeBrk : Byte := 0x21

/-- TSTATUS at trap entry: PIE, PP and PW record the hart's IE, privilege and world, IE is cleared and VRF stays
(R356). -/
def Hart.entryStatus (t : Hart) : Word :=
  let pie : Word := if t.ie then 0x02 else 0
  let pp : Word := if t.priv = .supervisor then 0x04 else 0
  let pw : Word := if t.secure then 0x08 else 0
  (t.csrv 0x104 &&& 0x10) ||| pie ||| pp ||| pw

/-- Trap entry (04_scalar R129): EPC, CAUSE, TVAL and TSTATUS are written, interrupts are disabled, the hart is
in supervisor privilege and goes on at TVEC; with TVEC = 0 it stops before it fetches there (R130). -/
def Hart.enterTrap (t : Hart) (cause : Byte) (async : Bool) (tval epc : Word) : Hart :=
  let t' := (((t.setCsr 0x101 epc).setCsr 0x102 (cause.setWidth 64 ||| (if async then 1#64 <<< 63 else 0))).setCsr
    0x103 tval).setCsr 0x104 t.entryStatus
  { t' with
    priv := .supervisor
    pc := t.csrv 0x100
    convoyOpen := false
    wait := none
    rep := none
    entering := t.csrv 0x100 ≠ 0
    run := if t.csrv 0x100 = 0 then .stopped cause false else t.run }

/-- A synchronous trap at the executing hart's instruction (R129). -/
def State.raise (s : State) (cause : Byte) (tval : Word) : State :=
  s.withMe fun t => t.enterTrap cause false tval t.pc

/-- A word shown in TVAL. -/
def tvalWord (w : IWord) : Word := w.setWidth 64

/-- Return from a trap without its reissue (R129, R356): privilege, interrupt enable and world from TSTATUS, pc from
EPC with bits [1:0] cleared. -/
def Hart.leaveTrap (t : Hart) : Hart :=
  let ts := t.csrv 0x104
  let t' := (t.setCsr 0x104 ((ts &&& 0x1E) ||| (if ts.getLsbD 1 then 1 else 0))).setCsr 0x107
    ((t.csrv 0x107 &&& 0xFFFF) ||| (if ts.getLsbD 3 then 0x10000 else 0))
  { t' with
    priv := if ts.getLsbD 2 then .supervisor else .user
    convoyOpen := false
    wait := none
    pc := t.csrv 0x101 &&& ~~~ 3#64 }

/-! ### Global addresses (09_address R229-R234) -/

/-- Bit 63: host memory. -/
def gaHost (a : Nat) : Bool := a.testBit 63
def gaChip (a : Nat) : Nat := a / 2 ^ 49 % 2 ^ 14
def gaDie (a : Nat) : Nat := a / 2 ^ 45 % 16
def gaKind (a : Nat) : Nat := a / 2 ^ 42 % 8
def gaOff (a : Nat) : Nat := a % 2 ^ 42
/-- A device global address from its fields. -/
def mkGa (chip die kind off : Nat) : Nat := chip * 2 ^ 49 + die * 2 ^ 45 + kind * 2 ^ 42 + off

/-- A live compute die (R234). -/
def State.liveDie (s : State) (d : Nat) : Bool := d < 8 && s.live.getLsbD d
/-- The live compute dies in ascending order (R233). -/
def State.liveDies (s : State) : List Nat := (List.range 8).filter fun d => s.live.getLsbD d

/-- DIETAB[e] (R233). -/
def State.dietab (s : State) (e : Nat) : Nat := s.liveDies.getD (e % s.liveDies.length) 0

/-- The fold of a granule index (R233). -/
def granuleFold (g : Nat) : Nat :=
  (g % 64) ^^^ (g / 2 ^ 6 % 64) ^^^ (g / 2 ^ 12 % 64) ^^^ (g / 2 ^ 18 % 64) ^^^ (g / 2 ^ 24 % 2)

/-- Home of a package-interleaved byte: die and kind-0 offset (R233). -/
def State.poolHome (s : State) (off : Nat) : Nat × Nat :=
  let g := off / 2 ^ 16
  let n := s.liveDies.length
  let e := granuleFold g
  let c := (64 - e % n + n - 1) / n
  let slot := g / 64 * c + e / n
  (s.dietab e, 2 ^ 38 - s.groups * c * 2 ^ 16 + slot * 2 ^ 16 + off % 2 ^ 16)

/-- Kind-0 offset of a channel-direct byte, the inverse of the hash (R232). -/
def unhash (off : Nat) : Nat :=
  let hi := off % 2 ^ 32 / 2 ^ 8
  let lo := (off / 2 ^ 32 % 64) ^^^ (hi % 64) ^^^ (hi / 2 ^ 6 % 64) ^^^ (hi / 2 ^ 12 % 64) ^^^ (hi / 2 ^ 18 % 64)
  hi * 2 ^ 14 + lo * 2 ^ 8 + off % 2 ^ 8

/-- Channel of a kind-0 offset (R232). -/
def hashChannel (off : Nat) : Nat :=
  let l := off / 2 ^ 8
  (l % 64) ^^^ (l / 2 ^ 6 % 64) ^^^ (l / 2 ^ 12 % 64) ^^^ (l / 2 ^ 18 % 64) ^^^ (l / 2 ^ 24 % 64)

/-- The one name of a location: every alias of an HBM byte (R230) is its kind-0 address. -/
def State.canon (s : State) (ga : Nat) : Nat :=
  if gaHost ga then ga
  else if gaKind ga = 4 then mkGa (gaChip ga) (gaDie ga) 0 (unhash (gaOff ga))
  else if gaKind ga = 1 ∧ gaChip ga = s.chip then
    let h := s.poolHome (gaOff ga)
    mkGa s.chip h.1 0 h.2
  else ga

/-- A page of `size` bytes at `ga` lies in populated locations (R230, R231, R390). Another device's live dies and
pool size are not known here, so its layout limits alone count. -/
def State.pagePopulated (s : State) (ga size : Nat) : Bool :=
  if gaHost ga then true
  else
    let d := gaDie ga
    let o := gaOff ga
    let own := gaChip ga = s.chip
    let live := if own then s.liveDie d else decide (d < 8)
    match gaKind ga with
    | 0 => live && decide (o + size ≤ 2 ^ 38)
    | 1 => decide (d = 0) && decide (o + size ≤ if own then s.groups * 2 ^ 22 else 2 ^ 41)
    | 2 => live && decide (o < 2 ^ 25) && decide (o % 2 ^ 21 + size ≤ 0x180000)
    | 3 => (live || decide (d = 8 ∨ d = 9)) && decide (o + size ≤ 0x800000)
    | 4 => live && decide (o + size ≤ 2 ^ 38)
    | _ => false

/-- The die that holds a location: the home die of its kind-0 name (R233). -/
def State.homeDie (s : State) (ga : Nat) : Nat := gaDie (s.canon ga)

/-! ### Memory -/

/-- A byte of memory; an unlisted one reads zero (log entry 2). -/
def State.readByte (s : State) (ga : Nat) : Byte := Sparse.get 0 s.mem (s.canon ga)
def State.writeByte (s : State) (ga : Nat) (b : Byte) : State := { s with mem := Sparse.set 0 s.mem (s.canon ga) b }

/-- Bytes at a list of addresses as a little-endian number (00_scope R3). -/
def State.readAt (s : State) : List Nat → Nat
  | [] => 0
  | a :: t => (s.readByte a).toNat + 256 * State.readAt s t
/-- A little-endian number written to a list of addresses. -/
def State.writeAt (s : State) : List Nat → Nat → State
  | [], _ => s
  | a :: t, v => State.writeAt (s.writeByte a (BitVec.ofNat 8 v)) t (v / 256)

/-- n consecutive global addresses. -/
def gaRange (ga n : Nat) : List Nat := (List.range n).map (ga + ·)
/-- n bytes at a global address. -/
def State.readGa (s : State) (ga n : Nat) : Nat := s.readAt (gaRange ga n)
def State.writeGa (s : State) (ga n v : Nat) : State := s.writeAt (gaRange ga n) v
/-- A list of bytes written from a global address. -/
def State.writeBytes (s : State) (ga : Nat) (bs : List Byte) : State :=
  ((gaRange ga bs.length).zip bs).foldl (fun s ab => s.writeByte ab.1 ab.2) s

/-- The 64-byte line of a location is poisoned (21_service R377). -/
def State.poisoned (s : State) (ga : Nat) : Bool := s.poison.contains (s.canon ga / 64)

/-! ### The page table (09_address R238-R241) -/

def Page.rd (p : Page) : Bool := p.ent.getLsbD 2
def Page.wr (p : Page) : Bool := p.ent.getLsbD 3
def Page.x (p : Page) : Bool := p.ent.getLsbD 4
def Page.u (p : Page) : Bool := p.ent.getLsbD 5
def Page.sw (p : Page) : Bool := p.ent.getLsbD 6
def Page.rwin (p : Page) : Bool := p.ent.getLsbD 7
def Page.fmt (p : Page) : BitVec 4 := p.ent.extractLsb' 12 4
def Page.cb (p : Page) : BitVec 3 := p.ent.extractLsb' 16 3
def Page.pscale (p : Page) : BitVec 8 := p.ent.extractLsb' 20 8
/-- The format attribute (06_memory_isa R164). -/
def Page.attr (p : Page) : BitVec 4 × BitVec 3 × BitVec 8 := (p.fmt, p.cb, p.pscale)
/-- GA of a byte of the page, by the virtual address (R240). -/
def Page.ga (p : Page) (va : Nat) : Nat := (p.ent.extractLsb' 64 52).toNat * 4096 + va % 2 ^ p.log

/-- A node's address is legal (R238). -/
def State.nodeOk (s : State) (ga : Nat) : Bool :=
  !gaHost ga && decide (gaChip ga = s.chip) && decide (ga % 4096 = 0) &&
    (decide (gaKind ga = 0) || decide (gaKind ga = 1) || decide (gaKind ga = 4)) && s.pagePopulated ga 4096

/-- A leaf at a level is legal (R231, R239, R240). -/
def State.leafPage (s : State) (level : Nat) (e : BitVec 128) : Option Page :=
  let run := (e.extractLsb' 8 2).toNat
  let log := 4 + 8 * level + 2 * run
  let base := (e.extractLsb' 64 52).toNat * 4096
  if e.extractLsb' 10 2 = 0 ∧ e.extractLsb' 19 1 = 0 ∧ e.extractLsb' 28 36 = 0 ∧ e.extractLsb' 116 12 = 0 ∧
      level ≤ 3 ∧ ¬ (level = 3 ∧ 2 ≤ run) ∧ base % 2 ^ log = 0 ∧ s.pagePopulated base (2 ^ log) then
    some ⟨e, log⟩
  else none

/-- The walk from a level's node (R241). -/
def State.walkFrom (s : State) (va : Nat) : Nat → Nat → Option Page
  | 0, _ => none
  | l + 1, node =>
    if s.nodeOk node then
      let e : BitVec 128 := BitVec.ofNat 128 (s.readGa (node + 16 * (va / 2 ^ (12 + 8 * l) % 256)) 16)
      if e.getLsbD 0 then
        if e.getLsbD 1 then s.leafPage (l + 1) e
        else if e.extractLsb' 2 62 = 0 ∧ e.extractLsb' 116 12 = 0 then
          State.walkFrom s va l ((e.extractLsb' 64 52).toNat * 4096)
        else none
      else none
    else none

/-- The entries that a walk reads, in order. -/
def State.walkPath (s : State) (va : Nat) : Nat → Nat → List Nat
  | 0, _ => []
  | l + 1, node =>
    if s.nodeOk node then
      let a := node + 16 * (va / 2 ^ (12 + 8 * l) % 256)
      let e : BitVec 128 := BitVec.ofNat 128 (s.readGa a 16)
      a :: if e.extractLsb' 0 2 = 1 ∧ e.extractLsb' 2 62 = 0 ∧ e.extractLsb' 116 12 = 0 then
        State.walkPath s va l ((e.extractLsb' 64 52).toNat * 4096) else []
    else []

/-- Tenant number and world, the tag of a translation (R244). -/
def Hart.tenantTag (t : Hart) : Word := t.csrv 0x107 &&& 0x1FFFF

/-- The translation of a virtual address for a translating party on a die: a cached one if there is one, else a
walk (R241, R244, R246). -/
def State.lookup (s : State) (die : Nat) (tag root : Word) (va : Nat) : Option Page :=
  match s.tlb.find? fun e => e.die = die ∧ e.tenant = tag ∧ e.ptroot = root ∧ e.page = va / 2 ^ e.log2 with
  | some e => some ⟨e.leaf, e.log2⟩
  | none => s.walkFrom va 5 root.toNat

/-- Who makes an access: the tags and permissions that check it (R162, 15_io_dies: a context acts as the hart that
bound it). -/
structure Party where
  die : Nat
  tenant : Word
  ptroot : Word
  partmap : Word
  user : Bool
  deriving DecidableEq, Repr

def Party.secure (p : Party) : Bool := p.tenant.getLsbD 16

/-- The executing hart as the party of its own accesses. -/
def State.party (s : State) (h : Nat) : Party :=
  let t := s.hart h
  ⟨slotDie h, t.tenantTag, t.csrv 0x106, t.csrv 0x10B, t.priv = .user⟩

/-- What an access needs of its page: a read, a write, both, a fetch, or LDPC's read or execute (R109); a bulk read or write is
one that R162 checks though it is no vector access: of an engine, a collective or a queue's item; `rcb` is LAUNCH's read, to which a page of the other world is no fault (R123). -/
inductive Need where
  | rd
  | rcb
  | wr
  | both
  | fetch
  | literal
  | bulkRd
  | bulkWr
  | bulkBoth
  deriving DecidableEq, Repr

def Need.writes : Need → Bool
  | .wr | .both | .bulkWr | .bulkBoth => true
  | _ => false
def Need.bulk : Need → Bool
  | .bulkRd | .bulkWr | .bulkBoth => true
  | _ => false

def Page.grants (p : Page) : Need → Bool
  | .rd | .rcb | .bulkRd => p.rd
  | .wr | .bulkWr => p.wr
  | .both | .bulkBoth => p.rd && p.wr
  | .fetch => p.x
  | .literal => p.rd || p.x

/-- A bit of a 2 KiB device bitmap in memory (R242). -/
def State.mapBit (s : State) (base : Word) (chip : Nat) : Bool :=
  (s.readByte (base.toNat + chip / 8)).getLsbD (chip % 8)

/-- Stands in a check's answer for a cause where what it reads cannot be read now, so that the access waits (21_service R383, R384);
no cause code is 0xFF (20_faults R355). -/
def waitMark : Byte := 0xFF
/-- The page of a byte lies on a location that RWIN governs: another die or device, neither scratchpad nor host
memory (R237). -/
def State.remote (s : State) (die ga : Nat) : Bool :=
  !gaHost ga && decide (gaKind ga ≠ 2) && !(decide (gaChip ga = s.chip) && decide (s.homeDie ga = die))

/-- A byte's die is out of service or its granule is being zeroed (21_service R383, R384). -/
def State.mustWait (s : State) (ga : Nat) : Bool :=
  !gaHost ga && decide (gaChip ga = s.chip) &&
    ((Sparse.get Die.reset s.dies (s.homeDie ga)).out ||
      (decide (gaKind (s.canon ga) = 0) && s.zeroing.contains (s.canon ga / 2 ^ 21)))

/-- A location lies in a channel that is another tenant's in strict mode (21_service R381). -/
def State.strictChannel (s : State) (p : Party) (ga : Nat) : Bool :=
  let c := s.canon ga
  !gaHost c && decide (gaChip c = s.chip) && decide (gaKind c = 0) &&
    (let owner := Sparse.get 0 s.chanOwner (gaDie c * 64 + hashChannel (gaOff c))
     decide (owner ≠ 0) && s.strict.contains (owner - 1) &&
       decide (owner ≠ (p.tenant.extractLsb' 0 16).toNat + 1))
/-- A leaf names another tenant's strict channel: its page has bytes there (R381). The first 64 lines of 256 bytes of a page go through
every channel that it has bytes in (09_address R232). -/
def State.strictForeign (s : State) (p : Party) (pg : Page) (ga : Nat) : Bool :=
  !s.strict.isEmpty && (s.strictChannel p ga ||
    (List.range (min 64 (2 ^ (pg.log - 8)))).any fun i => s.strictChannel p (ga / 2 ^ pg.log * 2 ^ pg.log + 256 * i))

/-- The leaf of a virtual address. -/
def State.pageOf (s : State) (p : Party) (va : Word) : Option Page :=
  if va.toNat < 2 ^ 52 then s.lookup p.die p.tenant p.ptroot va.toNat else none

/-- What keeps an entry of a table from being read: its die or granule, or an uncorrectable error (21_service R379, R384). -/
def State.unread (s : State) (ga : Nat) : Option Byte :=
  if s.mustWait ga then some waitMark else if s.poisoned ga then some causeEcc else none
/-- The entry that the translation of a virtual address cannot read, with why not. -/
def State.walkMeets (s : State) (p : Party) (va : Word) : Option (Nat × Byte) :=
  if 2 ^ 52 ≤ va.toNat ∨ (s.tlb.any fun e => e.die = p.die ∧ e.tenant = p.tenant ∧ e.ptroot = p.ptroot ∧ e.page = va.toNat / 2 ^ e.log2) then none
  else (s.walkPath va.toNat 5 p.ptroot.toNat).findSome? fun a => (s.unread a).map fun c => (a, c)
/-- The first check that a location of a page fails, by its place in R106's order (1 PAGE, 2 PERM, 3 WORLD, 4 PARTITION and
PEERDOWN), with its cause. A vector access also takes PAGE for FMT 1 to 7 (R52), and it and a bulk one PERM for kind 3 (R162). -/
def State.locFault (s : State) (p : Party) (need : Need) (vec : Bool) (pg : Page) (ga : Nat) : Option (Nat × Byte) :=
  let host := gaHost ga
  let far := !host && decide (gaChip ga ≠ s.chip)
  if vec && decide (1 ≤ pg.fmt.toNat ∧ pg.fmt.toNat ≤ 7) then some (1, causePage)
  else if !pg.grants need || (p.user && !pg.u) || (need.writes && pg.rwin && s.remote p.die ga) ||
      ((vec || need.bulk) && !host && decide (gaKind ga = 3)) || s.strictForeign p pg ga then
    some (2, causePerm)
  else if (!p.secure && pg.sw && decide (need ≠ .rcb)) || (!pg.sw && !host && s.secure.contains (s.canon ga / 2 ^ 30)) then
    some (3, causeWorld)
  else if far && p.partmap ≠ 0 && (s.unread (p.partmap.toNat + gaChip ga / 8)).isSome then
    (s.unread (p.partmap.toNat + gaChip ga / 8)).map fun c => (4, c)
  else if far && (p.partmap = 0 || !s.mapBit p.partmap (gaChip ga)) then some (4, causePartition)
  else if far && !s.present.contains (gaChip ga) then some (4, causePeerdown)
  else none

/-- How an access stops on a cause that a check gives; `tab` is the table entry that it could not read. -/
def stopOf (tab : Nat) (va : Word) (c : Byte) : Stop :=
  if c = waitMark then .wait va else if c = causeEcc then .poison tab va else .trap c va
/-- The checks of one byte in R106's order, then whether its die or granule makes it wait. -/
def State.checkByte (s : State) (p : Party) (need : Need) (vec : Bool) (va : Word) : Except Stop Page :=
  match s.walkMeets p va with
  | some x => .error (stopOf x.1 va x.2)
  | none =>
    match s.pageOf p va with
    | none => .error (.trap causePage va)
    | some pg =>
      match s.locFault p need vec pg (pg.ga va.toNat) with
      | some x => .error (stopOf (p.partmap.toNat + gaChip (pg.ga va.toNat) / 8) va x.2)
      | none => if s.mustWait (pg.ga va.toNat) then .error (.wait va) else .ok pg

/-- A byte of register space. -/
def Loc.isReg (l : Loc) : Bool := !gaHost l.ga && decide (gaKind l.ga = 3)

/-- The location of a byte of a page. -/
def State.locOf (s : State) (p : Party) (pg : Page) (va : Word) : Loc :=
  ⟨pg.ga va.toNat, pg.rwin && s.remote p.die (pg.ga va.toNat)⟩

/-- The bytes of a range after its first: one in the page and the 256-byte line of the byte before it shares that
byte's checks, any other is checked itself. -/
def State.checkFrom (s : State) (p : Party) (need : Need) (vec : Bool) : Nat → Word → Page → Nat →
    Except Stop (List Loc)
  | 0, _, _, _ => .ok []
  | n + 1, va, pg, vbase =>
    if va.toNat / 2 ^ pg.log = vbase ∧ va.toNat % 256 ≠ 0 then
      (State.checkFrom s p need vec n (va + 1) pg vbase).map (s.locOf p pg va :: ·)
    else
      match s.checkByte p need vec va with
      | .error e => .error e
      | .ok pg' =>
        (State.checkFrom s p need vec n (va + 1) pg' (va.toNat / 2 ^ pg'.log)).map (s.locOf p pg' va :: ·)

/-- A range checked in full, first faulting byte first: the global address of each byte (R106). -/
def State.checkRange (s : State) (p : Party) (need : Need) (vec : Bool) (va : Word) (n : Nat) :
    Except Stop (List Loc) :=
  match n with
  | 0 => .ok []
  | n + 1 =>
    match s.checkByte p need vec va with
    | .error e => .error e
    | .ok pg => (s.checkFrom p need vec n (va + 1) pg (va.toNat / 2 ^ pg.log)).map (s.locOf p pg va :: ·)

/-! ### Clocks (01_machine R32, R34; 19_time R345-R347) -/

/-- A die's state. -/
def State.die (s : State) (d : Nat) : Die := Sparse.get Die.reset s.dies d
def State.setDie (s : State) (d : Nat) (v : Die) : State := { s with dies := Sparse.set Die.reset s.dies d v }

/-- The I/O die that disciplines the package (R348). -/
def State.timeDie (s : State) : Nat := if s.drained.contains (.iod 8) then 9 else 8
/-- The die term of a die; the disciplining die has none (R347, R348). -/
def State.termOf (s : State) (d : Nat) : Nat := if d = s.timeDie then 0 else (s.die d).dieTerm
/-- TBOUND: the die term and the package term (R347). -/
def State.bound (s : State) (d : Nat) : Nat := s.termOf d + s.time.term
def State.tbound (s : State) (d : Nat) : Word := BitVec.ofNat 64 (s.bound d)
/-- SYNC of a die (R347). -/
def State.synced (s : State) (d : Nat) : Bool :=
  (s.die d).sync && decide (s.termOf d ≤ 96) && decide (s.time.term ≤ 288) && !s.time.longHold
/-- TSTAT (R347). -/
def State.tstat (s : State) (d : Nat) : Word :=
  BitVec.ofNat 64 ((if s.synced d then 1 else 0) + (if s.time.hold then 2 else 0) + (if s.time.gm then 4 else 0))

/-- The fairness round of a core, by CYCLE as last observed (12_operand_delivery R270). -/
def State.round (s : State) (h : Nat) : Nat := (s.die (slotDie h)).cycle.toNat / 64
/-- CYCLE as an observation finds it: clocks have passed since the last one. -/
def State.tickCycle (s : State) (d : Nat) : State :=
  let v := s.die d
  { s.setDie d { v with cycle := v.cycle + BitVec.ofNat 64 (Config.clocks s.fresh) } with fresh := s.fresh + 1 }
/-- An amount kept between two bounds. -/
def within (low high x : Int) : Int := max low (min high x)
/-- A time plus an amount, from 0 to the largest that a register holds: readings never go back (R346). -/
def timePlus (t : Word) (n : Int) : Word := BitVec.ofNat 64 (min (2 ^ 64 - 1) (t.toNat + n).toNat)
/-- The dies whose time units run. -/
def State.timedDies (s : State) : List Nat :=
  (List.range 10).filter fun d => !(s.die d).out && !s.drained.contains (.iod d)
/-- A time passes on every die (R345-R347): the disciplining die goes by its oscillator, slewed by at most 100 ppm of it, and any other
by as much, staying within its die term of that one. True pod time stays within the package term of the disciplining die. -/
def State.passTime (s : State) (e : Nat) (slew : Int) (drift : Nat → Int) : State :=
  let lim : Int := e / 10000
  let t := s.timeDie
  let step := within (-lim) lim slew
  let now := timePlus (s.die t).ptime (e + step)
  let at' (d : Nat) : Word :=
    if d = t then now
    else
      let v := s.die d
      let aim := timePlus v.ptime (e + within (-lim) lim (drift d))
      timePlus 0 (max v.ptime.toNat (within (now.toNat - v.dieTerm) (now.toNat + v.dieTerm) aim.toNat))
  let ds := s.timedDies.foldl (fun l d => Sparse.set Die.reset l d { s.die d with ptime := at' d }) s.dies
  { s with
    dies := ds
    podTime := (within (now.toNat - s.time.term) (now.toNat + s.time.term) (s.podTime + e)).toNat
    time := { s.time with slew := s.time.slew - step } }
/-- PTIME as an observation finds it: time has passed since the last one, and where each die's reading lies among those that its term
admits is free. -/
def State.tickTime (s : State) : State :=
  { s.passTime (Config.elapsed s.fresh) s.time.slew (fun d => Config.drift s.fresh d) with fresh := s.fresh + 1 }

/-! ### Errors (21_service R377-R379) -/

/-- The first word of an error record (21_service R378): V, TSYNC, UNIT, and bits [38:7] as given. -/
def errorWord (synced : Bool) (unit : Nat) (site : BitVec 32) : Word :=
  1 ||| (if synced then 4 else 0) ||| (BitVec.ofNat 64 unit <<< 3) ||| (site.setWidth 64 <<< 7)
/-- A site with a known ELEM, bits [30:18] of the record: what else of it the manual leaves open stays free. -/
def siteElem (site : BitVec 32) (elem : Nat) : BitVec 32 :=
  (site &&& ~~~ (0x1FFF#32 <<< 11)) ||| ((BitVec.ofNat 13 elem).setWidth 32 <<< 11)
/-- A site with the register, its cluster and the element known: bits [9:7], [17:13] and [30:18] of the record. -/
def siteReg (site : BitVec 32) (cluster reg elem : Nat) : BitVec 32 :=
  (siteElem site elem &&& ~~~ 0x7C7#32) ||| (BitVec.ofNat 3 cluster).setWidth 32 ||| ((BitVec.ofNat 5 reg).setWidth 32 <<< 6)
/-- An uncorrectable error recorded in a hart's ERRLOG0 and ERRLOG1, stamped with the PTIME of its die (21_service R353,
R378). -/
def State.logSite (s : State) (unit : Nat) (site : BitVec 32) (h : Nat) : State :=
  let t := s.hart h
  if (t.csrv 0x108).getLsbD 0 then s.setHart h (t.setCsr 0x108 (t.csrv 0x108 ||| 2))
  else
    let s := s.tickTime
    s.setHart h (((s.hart h).setCsr 0x108 (errorWord (s.synced (slotDie h)) unit site)).setCsr 0x109 (s.die (slotDie h)).ptime)
/-- The record of an error of a unit, of an access that is no element's. -/
def State.logError (s : State) (unit : Nat) (h : Nat) : State :=
  { s.logSite unit (Config.errorSite s.fresh) h with fresh := s.fresh + 2 }
/-- The record of an error that an element's access meets. -/
def State.logElem (s : State) (unit elem h : Nat) : State :=
  { s.logSite unit (siteElem (Config.errorSite s.fresh) elem) h with fresh := s.fresh + 2 }

/-- UNIT of an error at a location: scratchpad or HBM (R378). -/
def errorUnit (ga : Nat) : Nat := if !gaHost ga && decide (gaKind ga = 2) then 2 else 7

/-- What an instruction that cannot complete does. -/
def State.halt (s : State) : Stop → State
  | .trap c v => s.raise c v
  | .poison ga v => (s.logError (errorUnit ga) s.cur).raise causeEcc v
  | .wait va => s.withMe fun t => { t with stalled := some va }

/-- A range of checked bytes that meets a poisoned line takes ECC at its first such byte (R379); a write of a whole
line clears the line's poison first (R377). -/
def State.eccByte (s : State) (va : Word) (locs : List Loc) : Option Word :=
  (locs.findIdx? fun l => s.poisoned l.ga).map fun i => va + BitVec.ofNat 64 i

/-- The addresses of checked bytes. -/
def locGas (locs : List Loc) : List Nat := locs.map (·.ga)

/-! ### Failed peers (09_address R243, 06_memory_isa R178) -/

/-- The connection to a device has been marked failed. -/
def State.peerFailed (s : State) (chip : Nat) : Bool := (Sparse.get Conn.reset s.conns chip).failed


/-- The failed device that holds a location, if one does. -/
def State.failedHome (s : State) (ga : Nat) : Option Nat :=
  if !gaHost ga && decide (gaChip ga ≠ s.chip) && s.peerFailed (gaChip ga) then some (gaChip ga) else none

/-- An I/O die in service. -/
def State.iodUp (s : State) (d : Nat) : Bool := !s.drained.contains (.iod d)
/-- The I/O die whose host link carries what the I/O die `near` would send to host memory: itself where its link has trained
(15_io_dies R307, R308). -/
def State.linkBy (s : State) (near : Nat) : Nat :=
  if s.iodUp near && s.links.any (fun l => l.1 = near) then near else 17 - near
/-- The same for a hart's accesses, from the nearer I/O die. -/
def State.hostLink (s : State) (h : Nat) : Nat := s.linkBy (8 + slotDie h % 2)
/-- A record of a hart sent to a destination, counted for the next release that seals it (R177): die d as d, host memory by the link
of I/O die 8 or 9 as 14 or 15 (15_io_dies R315), device c as 16 + c. -/
def State.destination (s : State) (h ga : Nat) : Nat :=
  if gaHost ga then 6 + s.hostLink h else if gaChip ga = s.chip then s.homeDie ga else 16 + gaChip ga
/-- What a hart has sent and not sealed joins another's, or its own in another slot (10_consistency R253): what went to devices keeps
the SHART `h` under which their homes count it (DESIGN CHOICE, log entry 57). -/
def Hart.inherit (t u : Hart) (h : Nat) : Hart :=
  { t with
    unsealed := (u.unsealed.filter fun e => e.1 < 16).foldl (fun l e => Sparse.modify 0 l e.1 (· + e.2)) t.unsealed
    inherited := ((u.unsealed.filter fun e => 16 ≤ e.1).map (fun e => (e.1 * 2048 + h, e.2)) ++ u.inherited).foldl
      (fun l e => Sparse.modify 0 l e.1 (· + e.2)) t.inherited }
/-- The class of a record: control for seals, their answers, PARKED, PERFACK and ABORTED; else ordered or unordered (18_fabric
R336). -/
def recordClass (ord : Bool) (r : Record) : Nat :=
  if [0x08, 0x09, 0x0B, 0x0C, 0x0D].contains r.op.toNat then 2 else if ord then 0 else 1
/-- A record put on its way, of the ordered class or not, of the secure world or not: to another die of the package, or on the
connection to a device. -/
def State.sendTo (s : State) (dev die : Nat) (ord sec : Bool) (r : Record) : State :=
  let x : Outgoing := ⟨recordClass ord r, sec, die, r⟩
  if dev = s.chip then { s with outbox := s.outbox ++ [x] }
  else { s with conns := Sparse.modify Conn.reset s.conns dev fun (c : Conn) => { c with waiting := c.waiting ++ [x] } }
/-- The window of a connection is full and records wait for it: they hold back the memory ports of the harts that have issued them
(18_fabric R337). -/
def State.portHeld (s : State) (h : Nat) : Bool :=
  s.conns.any fun c => decide (512 ≤ c.2.unacked.length) && c.2.waiting.any fun x =>
    decide (x.rcd.srcDev = s.chip ∧ x.rcd.srcDie = slotDie h ∧ x.rcd.shart = BitVec.ofNat 11 h)
def Hart.countSent (t : Hart) (dest : Nat) : Hart :=
  { t with unsealed := Sparse.modify 0 t.unsealed dest (· + 1) }

/-! ### The memory of other devices (18_fabric R329, R336) -/

/-- A little-endian number of bytes, and the n bytes of a number (00_scope R3). -/
def bytesNat (bs : List Byte) : Nat := bs.foldr (fun b v => b.toNat + 256 * v) 0
def natBytes (n v : Nat) : List Byte := (List.range n).map fun i => BitVec.ofNat 8 (v / 256 ^ i)

/-- The other device that holds a location, if one does. -/
def State.farDev (s : State) (ga : Nat) : Option Nat :=
  if !gaHost ga && decide (gaChip ga ≠ s.chip) then some (gaChip ga) else none
/-- The runs of consecutive addresses among those of other devices, in a list of addresses: first address and length; a run
holds at most the 256 bytes of a record (R336). -/
def State.farRuns (s : State) (gas : List Nat) : List (Nat × Nat) :=
  gas.foldr (fun a l =>
    if (s.farDev a).isNone then l
    else match l with
      | (b, n) :: t => if b = a + 1 ∧ n < 256 ∧ (a + 1) % 2 ^ 42 ≠ 0 then (a, n + 1) :: t else (a, 1) :: l
      | [] => [(a, 1)]) []

/-- A new TAG. -/
def State.newTag (s : State) : State × BitVec 32 := ({ s with fresh := s.fresh + 1 }, BitVec.ofNat 32 s.fresh)
/-- A record of a hart to a location of another device (R336). -/
def State.hartRecord (s : State) (h : Nat) (op : BitVec 8) (ga len : Nat) (trk : Bool) (tag : BitVec 32)
    (data : List Byte) : Record :=
  ⟨s.chip, slotDie h, op, len, BitVec.ofNat 11 h, trk, tag, BitVec.ofNat 64 ga, data, none⟩

/-- The 64-byte lines of a record's locations, under the one name that aliases share. -/
def State.recordLines (s : State) (r : Record) : List Nat :=
  let n := max 1 (if r.op = 0x01 then r.len else if r.op = 0x03 then r.data.length / 2 else if r.op = 0x02 then
    r.data.length else 1)
  ((List.range n).map fun i => s.canon (r.addr.toNat + i) / 64).dedup
/-- An earlier tracked record holds a later one: they share a line, or one of them names the pooled memory of its device,
whose lines this device cannot tell apart from the others'; two of the ordered class do not hold each other (R329). -/
def State.holds (s : State) (a b : Tracked) : Bool :=
  decide (a.dev = b.dev) && !(a.ord && b.ord) && !a.loose && !b.loose &&
    (decide ((gaKind a.rcd.addr.toNat = 1) ≠ (gaKind b.rcd.addr.toNat = 1)) ||
      (s.recordLines a.rcd).any fun l => (s.recordLines b.rcd).contains l)
/-- An ordered record goes after every earlier one to its die that has not been sent, those that the line hold keeps among them
(10_consistency R259). -/
def orderedBefore (a b : Tracked) : Bool :=
  a.ord && b.ord && !a.sent && decide (a.dev = b.dev) && decide (gaDie a.rcd.addr.toNat = gaDie b.rcd.addr.toNat ∨
    gaKind a.rcd.addr.toNat = 1 ∨ gaKind b.rcd.addr.toNat = 1)
/-- Tracked records that no earlier one holds are sent. -/
def State.pumpFrom (s : State) (sec : Bool) (before : List Tracked) : List Tracked → State × List Tracked
  | [] => (s, before)
  | x :: t =>
    if x.sent || before.any fun b => s.holds b x || orderedBefore b x then State.pumpFrom s sec (before ++ [x]) t
    else State.pumpFrom (s.sendTo x.dev (gaDie x.rcd.addr.toNat % 10) x.ord sec x.rcd) sec
      (if x.loose then before else before ++ [{ x with sent := true }]) t
def State.pump (s : State) (h : Nat) : State :=
  let r := s.pumpFrom (s.hart h).secure [] (s.hart h).tracked
  r.1.setHart h { r.1.hart h with tracked := r.2 }
/-- A hart's tracked record joins those it holds back or is held by. -/
def State.sendTracked (s : State) (h dev : Nat) (ord : Bool) (r : Record) : State :=
  (s.setHart h { s.hart h with tracked := (s.hart h).tracked ++ [⟨dev, r, ord, false, false⟩] }).pump h
/-- A hart's record that is not tracked: it is sent at once, but for one of the ordered class that an earlier one of them keeps. -/
def State.sendLoose (s : State) (h dev : Nat) (ord : Bool) (r : Record) : State :=
  (s.setHart h { s.hart h with tracked := (s.hart h).tracked ++ [⟨dev, r, ord, false, true⟩] }).pump h
/-- A tracked record that its device has performed holds no later one. -/
def State.untrack (s : State) (h dev : Nat) (tags : List (BitVec 32)) : State :=
  let t := s.hart h
  let gone (x : Tracked) : Bool := decide (x.dev = dev) && tags.contains x.rcd.tag
  if t.tracked.any gone then
    (s.setHart h { t with tracked := t.tracked.filter fun x => !gone x }).pump h
  else s

/-- A request sent: a READ, or with a control word and operands an ATOMIC or COMBINED that returns. -/
def State.sendAsk (s : State) (h own : Nat) (ga n : Nat) (upd : Option (BitVec 8 × List Byte)) : State × Ask :=
  let r := s.newTag
  let dev := gaChip ga
  let rcd := match upd with
    | none => s.hartRecord h 0x01 ga n false r.2 []
    | some u => s.hartRecord h u.1 ga u.2.length false r.2 u.2
  let s := if own = 3 ∧ upd.isNone then r.1.sendTo dev (gaDie ga % 10) false (s.hart h).secure rcd else r.1.sendTracked h dev false rcd
  (s, ⟨own, r.2, dev, ga, n, upd.isSome, s.peerFailed dev, none⟩)

/-- A request's standing among those that have been sent for an owner. -/
def askOf (l : List Ask) (own : Nat) (ga n : Nat) (upd : Bool) : Option Ask :=
  l.find? fun a => decide (a.own = own ∧ a.addr = ga ∧ a.n = n ∧ a.upd = upd)
/-- An answer has come, or none will. -/
def Ask.settled (a : Ask) : Bool := a.failed || a.data.isSome
/-- Every READ that a list of addresses needs has been sent for an owner; `true` once all are answered. -/
def State.gather (s : State) (h own : Nat) (gas : List Nat) : State × Bool :=
  let runs := s.farRuns gas
  let s' := runs.foldl (fun (s : State) x =>
    if (askOf (s.hart h).asks own x.1 x.2 false).isSome then s
    else
      let r := s.sendAsk h own x.1 x.2 none
      r.1.setHart h { r.1.hart h with asks := (r.1.hart h).asks ++ [r.2] }) s
  (s', runs.all fun x => ((askOf (s'.hart h).asks own x.1 x.2 false).map Ask.settled).getD false)
/-- The byte of another device that answers give. -/
def askByte (l : List Ask) (ga : Nat) : Option Byte :=
  l.findSome? fun a => if a.addr ≤ ga ∧ ga < a.addr + a.n then a.data.bind fun d => d[ga - a.addr]? else none
/-- A request has gone to a device that failed before it answered. -/
def askFailed (l : List Ask) (gas : List Nat) : Option Nat :=
  (l.find? fun a => a.failed && gas.any fun g => decide (a.addr ≤ g ∧ g < a.addr + a.n)).map (·.dev)
/-- The addresses of other devices among some. -/
def State.farOf (s : State) (gas : List Nat) : List Nat := gas.filter fun a => (s.farDev a).isSome
/-- An owner's requests are done with. -/
def Hart.dropAsks (t : Hart) (own : Nat) : Hart :=
  { t with
    asks := t.asks.filter (·.own ≠ own)
    access := if own = 0 then none else t.access
    fetching := if own = 2 then none else t.fetching }
/-- A queued load of these bytes is done with what it asked of other devices. -/
def State.dropFar (s : State) (locs : List Loc) : State :=
  if locs.any fun l => (s.farDev l.ga).isSome then s.withMe fun t => t.dropAsks 1 else s

/-- The name under which a die keeps window copies for the executing hart: one tenant's serve no other (R237; 21_service R381). -/
def State.winKey (s : State) : Nat := slotDie s.cur + 16 * (s.party s.cur).tenant.toNat
/-- A byte where a load on a die finds it: in a window copy where one is kept and serves (R237), else at its home; for
another device's that is what `far` gives of the answers. -/
def State.loadByteWith (s : State) (far : Nat → Option Byte) (win : Nat) (l : Loc) : Byte :=
  match (if l.win && Config.serveCopy s.fresh then
      s.windows.find? fun w => w.1 = win ∧ w.2.1 = s.canon l.ga / 64 else none) with
  | some w => w.2.2.getD (s.canon l.ga % 64) 0
  | none => if (s.farDev l.ga).isNone then s.readByte l.ga else (far l.ga).getD 0
/-- Checked bytes as a little-endian number. -/
def State.loadAtWith (s : State) (far : Nat → Option Byte) (win : Nat) : List Loc → Nat
  | [] => 0
  | l :: t => (s.loadByteWith far win l).toNat + 256 * State.loadAtWith s far win t
/-- A byte, and a number, that no other device holds. -/
def State.loadByte (s : State) (win : Nat) (l : Loc) : Byte := s.loadByteWith (fun _ => none) win l
def State.loadAt (s : State) (win : Nat) (locs : List Loc) : Nat := s.loadAtWith (fun _ => none) win locs
/-- The addresses that a load must read at their homes: a window copy that serves gives the others; a window read of
another device's line reads the line (R237). -/
def State.needed (s : State) (win : Nat) (locs : List Loc) : List Nat :=
  (locs.filter fun l => !(l.win && Config.serveCopy s.fresh &&
    s.windows.any fun w => decide (w.1 = win ∧ w.2.1 = s.canon l.ga / 64))).flatMap fun l =>
      if l.win && (s.farDev l.ga).isSome then (if l.ga % 64 = 0 ∨ some l.ga = (locs.head?.map (·.ga)) then
        (List.range 64).map (l.ga / 64 * 64 + ·) else []) else [l.ga]
/-- The lines of window bytes that a load keeps; a line held before may have left for capacity (R237). -/
def State.keepWindowsWith (s : State) (far : Nat → Option Byte) (win : Nat) (locs : List Loc) : State :=
  if locs.any (·.win) then
    let held := s.windows.filter fun w => !(decide (w.1 = win) && Config.dropCopy s.fresh w.2.1)
    let lines := ((locs.filter (·.win)).map fun l => (s.canon l.ga / 64, l.ga / 64 * 64)).dedup.filter fun n =>
      !(held.any fun w => decide (w.1 = win ∧ w.2.1 = n.1))
    let whole (n : Nat × Nat) : Bool := (s.farDev n.2).isNone || (gaRange n.2 64).all fun a => (far a).isSome
    let ws := if Config.keepCopy s.fresh then (lines.filter whole).map fun n =>
      (win, n.1, (List.range 64).map fun i =>
        if (s.farDev n.2).isNone then Sparse.get 0 s.mem (n.1 * 64 + i) else (far (n.2 + i)).getD 0) else []
    { s with windows := ws ++ held, fresh := s.fresh + 1 }
  else s
def State.keepWindows (s : State) (win : Nat) (locs : List Loc) : State := s.keepWindowsWith (fun _ => none) win locs

/-! ### Convoys and shares -/

/-- The open convoy is closed (03_encoding R86). -/
def Hart.closeConvoy (t : Hart) : Hart := { t with convoyOpen := false }
/-- Queue entries not yet complete. -/
def Hart.undone (t : Hart) : List QEntry := t.queue.filter fun e => !e.done
/-- Nothing of the vector queue is outstanding. -/
def Hart.drained (t : Hart) : Bool := t.undone.isEmpty
/-- A matrix instruction or MSWAP of the hart has not completed. -/
def Hart.matrixBusy (t : Hart) : Bool :=
  !t.tile.isEmpty || t.undone.any fun e =>
    let m := (e.word.extractLsb' 25 6).toNat
    decide (0x30 ≤ m ∧ m ≤ 0x35)

/-- The clusters owned, in ascending order: p0 to p(k-1) (01_machine R10). -/
def mapList (m : BitVec 8) : List Nat := (List.range 8).filter fun c => m.getLsbD c
/-- A set of clusters as a map. -/
def listMap (l : List Nat) : BitVec 8 := l.foldl (fun m c => m ||| (1 <<< c)) 0

/-- Retired clusters of a core (21_service R380). -/
def State.retired (s : State) (core : Nat) : BitVec 8 := Sparse.get 0 s.laneOff core
/-- The slots of a core. -/
def coreSlots (core : Nat) : List Nat := (List.range 8).map (core * 8 + ·)
/-- The clusters that a slot's hart keeps from others: its own, and those of its FORK family (R18, 04_scalar R120). -/
def Hart.heldMap (t : Hart) : BitVec 8 := t.map ||| ((t.family.map (·.parentMap)).getD 0)
/-- Clusters of a core that no hart owns and that are not retired. -/
def State.freeClusters (s : State) (core : Nat) : BitVec 8 :=
  ((coreSlots core).foldl (fun m h => m &&& ~~~ (s.hart h).heldMap) 0xFF) &&& ~~~ (s.retired core)

/-- Insertion of a cluster by its key. -/
def insertByKey (key : Nat → Nat) (c : Nat) : List Nat → List Nat
  | [] => [c]
  | d :: t => if key c < key d then c :: d :: t else d :: insertByKey key c t
/-- n of the clusters of a map, those of lowest free key (log entry 6). -/
def pickClusters (fresh n : Nat) (m : BitVec 8) : BitVec 8 :=
  listMap (((mapList m).foldl (fun l c => insertByKey (Config.clusterKey fresh) c l) []).take n)

/-- VSHARE (R28): PK equals K while no change is pending. -/
def Hart.vshare (t : Hart) : Word :=
  let pk := t.pending.getD t.k
  BitVec.ofNat 64 (t.k + pk * 16 + (if t.pending.isSome then 256 else 0) + t.map.toNat * 65536)

/-- A row repeated pattern of w bits, n times. -/
def repeatBits (w : Nat) (v : Nat) : Nat → Nat
  | 0 => 0
  | n + 1 => v % 2 ^ w + 2 ^ w * repeatBits w v n

/-- A row moved to a new share: the bits below m * 4,096 kept, those above set to VFILL at a width (R20). Where
the pattern of width 6 starts the rule does not say: here on the element grid of the whole row (DESIGN CHOICE, log entry 56). -/
def migrateRow (kOld kNew w : Nat) (fill : Word) (r : Row) : Row :=
  let m := min kOld kNew * 4096
  let pat := repeatBits w fill.toNat (kNew * 4096 / w + 1)
  BitVec.ofNat 32768 (r.toNat % 2 ^ m + (pat % 2 ^ (kNew * 4096)) / 2 ^ m * 2 ^ m)

/-- All rows moved to a new share (R20). -/
def Hart.migrate (t : Hart) (kNew w : Nat) : Hart :=
  { t with v := (List.range 32).foldl (fun l n =>
      Sparse.set 0 l n (migrateRow t.k kNew w t.vfill (Sparse.get 0 t.v n))) t.v
           away := [] }

/-- The pending share adopted (R19, R20): clusters given up are freed, clusters gained are taken from those free.
`none` when the clusters it gains are not yet free. -/
def State.adoptShare (s : State) (h w : Nat) : Option State :=
  let t := s.hart h
  match t.pending with
  | none => some s
  | some k =>
    let own := t.map &&& ~~~ s.retired (coreOf h)
    let avail := s.freeClusters (coreOf h)
    let need := k - popCount 8 own.toNat
    if popCount 8 avail.toNat < need then none
    else
      let m := if need = 0 then pickClusters s.fresh k own else own ||| pickClusters s.fresh need avail
      some { s.setHart h { t.migrate k w with map := m, pending := none, reduced := false, limit := none } with
        fresh := s.fresh + 1 }

/-! ### Outstanding operations (06_memory_isa R169-R172) -/

/-- The bytes of a range by translation alone, as far as it translates. -/
def State.rawRange (s : State) (p : Party) (va : Word) (n : Nat) : List Loc :=
  (List.range n).filterMap fun i =>
    let a := va + BitVec.ofNat 64 i
    (s.pageOf p a).map fun pg => s.locOf p pg a
/-- The condition of a WAITW, with its operands (06_memory_isa R184). -/
def waitTest : Instr → Option (Rrr × (Word → Word → Bool))
  | .waitwEq f => some (f, fun w b => w = b)
  | .waitwNe f => some (f, fun w b => w ≠ b)
  | .waitwGen f => some (f, fun w b => 0 ≤ (w - b).toInt)
  | .waitwLtn f => some (f, fun w b => w.ult b)
  | _ => none
/-- The value of the own package's word that a WAITW of a hart waits for, where its condition holds now. -/
def State.watchedNow (s : State) (h : Nat) : Option Word :=
  let t := s.hart h
  (t.wait.bind fun x => waitTest x.instr).bind fun c =>
    let locs := s.rawRange (s.party h) (t.xr c.1.a) 8
    if locs.length = 8 ∧ locs.all fun l => !gaHost l.ga && decide (gaChip l.ga = s.chip) && !s.mustWait l.ga && !s.poisoned l.ga then
      let w := BitVec.ofNat 64 (s.readAt (locGas locs))
      if c.2 w (t.xr c.1.b) then some w else none
    else none
/-- A word's home has seen the condition of a WAITW of a hart hold (R184). -/
def State.notice (s : State) (h : Nat) : State :=
  match s.watchedNow h with
  | none => s
  | some w => s.setHart h { s.hart h with wait := (s.hart h).wait.map fun x => { x with seen := some w } }
/-- Homes evaluate the conditions of the words that are waited for, between two writes of a word (R184). -/
def State.noticeAll (s : State) : State := ((s.harts.filter fun e => e.2.wait.isSome).map (·.1)).foldl State.notice s

/-- An atomic operation by its code and type: the new value from the memory value, the operand and the compare value
(R336; 04_scalar R110; 06_memory_isa R173). -/
def atomicOp (op : Nat) (ty : BitVec 4) (m d c : Nat) : Nat :=
  let w := typeWidth ty
  let v (x : Nat) : Int := intValue (isSigned ty) w x
  match op with
  | 0 => (m + d) % 2 ^ w
  | 1 => m &&& d
  | 2 => m ||| d
  | 3 => m ^^^ d
  | 4 => if v d < v m then d else m
  | 5 => if v m < v d then d else m
  | 6 => min m d
  | 7 => max m d
  | 8 => d
  | 9 => if m = c then d else m
  | 10 => ((fmtOf ty).add 0#3 m d).1
  | 11 => ((fmtOf ty).minMax false m d).1
  | _ => ((fmtOf ty).minMax true m d).1
/-- A byte of a pending store performed at its home, its other bits kept (R165). -/
def State.performByte (s : State) (b : PendByte) : State :=
  s.writeByte b.addr ((s.readByte b.addr &&& ~~~ b.msk) ||| (b.val &&& b.msk))
/-- Bytes of pending stores performed in order: homes see each value of a byte that several of them write (06_memory_isa R184). `done`
are the addresses written since the last such look. -/
def State.performFrom (s : State) (done : List Nat) : List PendByte → State
  | [] => s
  | b :: l =>
    if done.contains b.addr then State.performFrom (s.noticeAll.performByte b) [b.addr] l
    else State.performFrom (s.performByte b) (b.addr :: done) l
def State.performBytes (s : State) (l : List PendByte) : State := s.performFrom [] l
/-- The bits of element group g of a row. -/
def groupBits (g : Nat) : Row := BitVec.ofNat 32768 ((2 ^ 512 - 1) * 2 ^ (512 * g))
/-- A group of a row that an uncorrectable error took is good again once all of its bits are written (21_service R379). -/
def Hart.rewritten (t : Hart) (row : Nat) (bits : Row) : Hart :=
  if t.lost.isEmpty then t
  else { t with lost := t.lost.filter fun x =>
    !(decide (x / 64 = row % 32) && decide (bits &&& groupBits (x % 64) = groupBits (x % 64))) }
/-- A row that lands. -/
def Hart.landRow (t : Hart) (r : NbRow) : Hart :=
  { (t.rewritten r.row r.bits).setV r.row ((t.vr r.row &&& ~~~ r.bits) ||| (r.data &&& r.bits)) with
    away := Sparse.modify 0 t.away r.row (· &&& ~~~ r.groups) }

/-- The requests that an element awaits among those of its operation. -/
def LateElem.mine (x : LateElem) (asks : List Ask) : List Ask :=
  match x.tag with
  | none => asks
  | some g => asks.filter (·.tag = g)
/-- The value of an element whose answers have come: the bytes read, decoded; for an atomic the value that the location held
after the same-location elements below it (08_prog_histogram R227); what a failed device gives (09_address R243). -/
def LateElem.value (x : LateElem) (asks : List Ask) : Nat × Flags :=
  let asks := x.mine asks
  let failed := (askFailed asks x.locs).isSome
  let raw := if failed then x.fill.toNat % 2 ^ x.wm
    else bytesNat (x.locs.map fun a => (askByte asks a).getD 0) / 2 ^ x.off % 2 ^ x.wm
  if x.op < 16 then
    (if failed then raw else x.before.foldl (fun m d => atomicOp x.op x.ty m d.1 d.2) raw, Flags.none)
  else if x.fmt = 0 then (raw, Flags.none)
  else loadElem x.cb x.fmt x.pscale x.ty raw
/-- The answers of every byte of an element have come. -/
def LateElem.settled (x : LateElem) (asks : List Ask) : Bool :=
  x.locs.all fun a => (x.mine asks).any fun k => k.settled && decide (k.addr ≤ a ∧ a < k.addr + k.n)
/-- An element's value put into the row it goes to. -/
def LateElem.put (asks : List Ask) (row : Nat) (d : Row) (x : LateElem) : Row :=
  if x.row = row then
    let w := typeWidth x.ty
    (d &&& ~~~ BitVec.ofNat 32768 ((2 ^ w - 1) * 2 ^ x.bit)) |||
      BitVec.ofNat 32768 ((x.value asks).1 % 2 ^ w * 2 ^ x.bit)
  else d
/-- An operation with the elements put into its rows whose answers have come. -/
def NbOp.settle (o : NbOp) : NbOp :=
  let got := o.late.filter fun x => x.settled o.asks
  { o with
    late := o.late.filter fun x => !x.settled o.asks
    flags := got.foldl (fun f x => f ||| (x.value o.asks).2) o.flags
    rows := o.rows.map fun r => { r with data := got.foldl (LateElem.put o.asks r.row) r.data } }
/-- Nothing keeps an operation from completing: it is not held for its reissue, other devices have answered, and its writes to
them have been performed. -/
def NbOp.ready (o : NbOp) : Bool := !o.held && o.late.isEmpty && o.tags.isEmpty && o.asks.all Ask.settled

/-- Issue numbers on a counter that are not complete: of outstanding operations, and of queued members. -/
def Hart.pendingNums (t : Hart) (ctr : Nat) : List Word :=
  ((t.nb.filter fun o => o.ctr = ctr).map (·.num)) ++
    ((t.queue.filter fun e => e.nb && !e.done && decide ((e.word.extractLsb' 1 3).toNat = ctr)).map (·.issue))
/-- The retired count that leaves these numbers outstanding: one below the lowest of them, else the issued count (R169). -/
def retiredCount (issued : Word) (pending : List Word) : Word :=
  match pending with
  | [] => issued
  | n :: ns => ns.foldl (fun a b => if b < a then b else a) n - 1
/-- The bytes that ordered-channel stores of a hart have pending are performed in issue order, up to an operation (R172). -/
def State.performOrdered (s : State) (h : Nat) (before : NbOp → Bool) : State :=
  let due := ((s.hart h).nb.takeWhile fun o => !before o).filter fun o => o.ord
  let s := s.performBytes (due.flatMap (·.bytes))
  let nb := (s.hart h).nb.map fun o => if due.contains o then { o with bytes := [] } else o
  s.setHart h { s.hart h with nb := nb }
/-- An operation completes: its rows land, its bytes are performed, those of earlier ordered stores first if it is one, and
its counter's retired count follows. -/
def State.nbFinish (s : State) (h : Nat) (o : NbOp) : State :=
  let s := if o.ord then s.performOrdered h (· = o) else s
  let s := s.performBytes o.bytes
  let t := s.hart h
  let rest := t.nb.filter fun x => !(decide (x.ctr = o.ctr ∧ x.num = o.num))
  let t := o.rows.foldl Hart.landRow { t with nb := rest }
  if o.ctr = 0 then
    let queue := t.queue.map fun e =>
      if e.started && !e.done && decide (e.restart = 2 ^ 16) then { e with done := true, flags := e.flags ||| o.flags } else e
    s.setHart h { t with queue := queue }
  else
    let t := t.accrue o.flags
    s.setHart h (t.setCtr o.ctr { t.ctr o.ctr with
      retired := retiredCount (t.ctr o.ctr).issued (t.pendingNums o.ctr) })
/-- The bytes that outstanding stores of a hart have pending in this package and with the host are performed, in issue order. -/
def State.flushStores (s : State) (h : Nat) : State :=
  let s := s.performBytes (((s.hart h).nb.filter fun o => !o.held).flatMap (·.bytes))
  s.setHart h { s.hart h with nb := (s.hart h).nb.map fun o => if o.held then o else { o with bytes := [] } }
/-- Every outstanding operation of a hart that can completes, in issue order. -/
def State.drainNb (s : State) (h : Nat) : State :=
  ((s.hart h).nb.filter NbOp.ready).foldl (fun s o => (s.nbFinish h o).noticeAll) s
/-- Operations are outstanding. -/
def Hart.outstanding (t : Hart) : Bool := t.nb.any fun o => !o.held
/-- The vector queue has drained and every non-blocking operation has reached its counter, those apart that a trap has left for
their reissue (20_faults R363). -/
def Hart.worked (t : Hart) : Bool := t.drained && !t.outstanding

/-- An uncorrectable error that no hart meets, in the detecting die's record (21_service R378). -/
def State.logDie (s : State) (d unit ga : Nat) : State :=
  let v := s.die d
  if v.err0.getLsbD 0 then s.setDie d { v with err0 := v.err0 ||| 2 }
  else
    let site := Config.errorSite s.fresh
    let s := { s with fresh := s.fresh + 1 }.tickTime
    s.setDie d { s.die d with
      err0 := errorWord (s.synced d) unit site
      err1 := (s.die d).ptime
      errGa := BitVec.ofNat 64 ga }

/-- A device's bit set in the bitmap at PEERBM; none is written with PEERBM = 0 or where its home cannot perform
the OR, its die out of service or its line poisoned, which is then logged in its die's record (R178). One to a granule that is being
zeroed follows the zeroing, as no access comes between (21_service R383). -/
def State.markPeer (s : State) (h chip : Nat) : State :=
  let base := ((s.hart h).csrv 0x00B).toNat
  let a := base + chip / 8
  if base = 0 then s
  else if (s.die (s.homeDie a)).out ∨ s.poisoned a then s.logDie (s.homeDie a) (errorUnit a) a
  else s.writeByte a (s.readByte a ||| (1 <<< (chip % 8)))

/-- HARTID (R29). -/
def State.hartid (s : State) (h : Nat) : Word :=
  BitVec.ofNat 64 (slotNum h + slotCore h * 8 + slotDie h * 128 + s.chip * 2048)

/-! ### Waits -/

/-- The executing hart waits at its instruction; the WDEADLINE it read when the wait began governs (06_memory_isa
R180). -/
def State.park (s : State) (i : Instr) (seen : Option Word) : State :=
  let s' := s.withMe fun t =>
    { t with wait := some ⟨i, (t.wait.map (·.deadline)).getD (t.csrv 0x013), seen, (t.wait.map (·.age)).getD 0,
        (t.wait.map (·.since)).getD s.fresh⟩ }
  { s' with fresh := s'.fresh + 1 }

/-- The deadline of the wait under way, or of one that begins now. -/
def Hart.waitDeadline (t : Hart) : Word := (t.wait.map (·.deadline)).getD (t.csrv 0x013)

/-- A wait has reached its deadline (R180). -/
def State.expired (s : State) : Bool :=
  let d := s.me.waitDeadline
  d ≠ 0 && d ≤ (s.die (slotDie s.cur)).ptime

/-- A status of a wait delivered (R180): rd, and the next instruction with the open convoy closed. -/
def State.waitEnds (s : State) (d : BitVec 5) (status : Word) : State :=
  s.withMe fun t => t.closeConvoy.result d status

end Sys2Proof.Machine
end

