-- ==== Sys2Proof/Machine/Regs.lean ====
section
/-!
DEFINITION. Machine/Regs.lean: the kind-3 registers of each die (09_address R390) and the control and status
registers (01_machine R24-R30, 04_scalar R113-R115).
-/

namespace Sys2Proof.Machine

/-! ### Kind-3 registers -/

/-- An I/O die's number. -/
def isIod (d : Nat) : Bool := d = 8 || d = 9
/-- A context's key: its die, its kind and its number (15_io_dies R311). -/
def ctxKey (iod : Nat) (coll : Bool) (n : Nat) : Nat := (iod - 8) * 2048 + (if coll then 1024 else 0) + n

/-- A context that no hart has bound. -/
def Ctx.empty : Ctx :=
  ⟨none, 0, none, 0, 0, 0, 0, [], [], false, false, false, 0, 0, 0, 0, none, 0, [], 0⟩
def Xfer.none : Xfer := ⟨[], [], false, false⟩
def State.ctx (s : State) (key : Nat) : Ctx := Sparse.get Ctx.empty s.ctxs key
def State.setCtx (s : State) (key : Nat) (c : Ctx) : State := { s with ctxs := Sparse.set Ctx.empty s.ctxs key c }

/-- A fault record's doubleword (R311); a secure context's record reads zero to a non-secure hart. -/
def State.faultRecord (s : State) (sec : Bool) (key i : Nat) : Word :=
  let c := s.ctx key
  if c.tenant.getLsbD 16 && !sec then 0
  else match i with
    | 0 => c.rec0
    | 1 => c.recIssue
    | 2 => c.recVaddr
    | _ => c.recPerf

/-- 64 presence bits from device 64 i on (09_address R242). -/
def State.presence (s : State) (i : Nat) : Word :=
  (s.present.filter fun c => c / 64 = i).foldl (fun w c => w ||| (1#64 <<< (c % 64))) 0

/-- DIETAB's eight bytes from entry 8 i on (R234). -/
def State.dietabWord (s : State) (i : Nat) : Word :=
  BitVec.ofNat 64 ((List.range 8).foldr (fun e w => s.dietab (8 * i + e) + 256 * w) 0)

/-- Health scores of a port's pairings as bytes (18_fabric R342): the aligned doubleword i of a table with `size`
entries a port and `top` shifts, from the ports an I/O die holds. -/
def scoreWord (scores : List (Nat × Nat)) (d size top i : Nat) : Word :=
  BitVec.ofNat 64 ((List.range 8).foldr (fun b w =>
    let o := 8 * i + b
    let j := o / size
    let k := o % size + 1
    (if k ≤ top ∧ j / 18 = d - 8 ∧ j < 36 then Sparse.get 128 scores (256 * j + k) else 0) + 256 * w) 0)

/-- The mailbox (21_service R386). -/
def Mailbox.read (m : Mailbox) (i : Nat) : Word :=
  match i with
  | 0 => BitVec.ofNat 64 (m.cmd.toNat + (if m.done then 256 else 0) + m.status.toNat * 4096)
  | 5 =>
    let st : Nat := match m.state with
      | .run => 0
      | .armed => 1
      | .quiesce => 2
      | .saving => 3
      | .retained => 4
      | .resuming => 5
    BitVec.ofNat 64 (st + (if m.late then 8 else 0) + (if m.downed then 16 else 0))
  | _ => if 1 ≤ i ∧ i ≤ 4 then Sparse.get 0 m.args i else 0

/-- The aligned doubleword i of a die's kind-3 space; what no map lists reads zero (R390). `sec` is whether a secure
hart reads. -/
def State.regRead (s : State) (sec : Bool) (d i : Nat) : Word :=
  let v := s.die d
  if d < 8 then
    if 0x1000 / 8 ≤ i ∧ i < 0x1040 / 8 then s.dietabWord (i - 0x1000 / 8)
    else if i = 0x1040 / 8 then BitVec.ofNat 64 (s.groups % 2 ^ 22)
    else if i = 0x1048 / 8 then s.live.setWidth 64
    else if i = 0x1100 / 8 then (if d = 0 then s.inbox else 0)
    else if 0x10000 / 8 ≤ i ∧ i < 0x10800 / 8 then s.presence (i - 0x10000 / 8)
    else if 0x300000 / 8 ≤ i ∧ i < 0x300080 / 8 then
      let c := Sparse.get Chan.reset v.chans ((i - 0x300000 / 8) / 2)
      if i % 2 = 0 then (c.resent ++ c.regen).setWidth 64 else c.crcerr.setWidth 64
    else if 0x600000 / 8 ≤ i ∧ i < 0x600020 / 8 then
      (match i - 0x600000 / 8 with | 0 => v.err0 | 1 => v.err1 | 2 => v.errGa | _ => v.corr)
    else 0
  else if isIod d then
    if 0x100000 / 8 ≤ i ∧ i < 0x108000 / 8 then
      s.faultRecord sec (ctxKey d false ((i - 0x100000 / 8) / 4)) (i % 4)
    else if 0x120000 / 8 ≤ i ∧ i < 0x128000 / 8 then
      s.faultRecord sec (ctxKey d true ((i - 0x120000 / 8) / 4)) (i % 4)
    else if i = 0x300000 / 8 then 0x88B5 ||| (if s.swmode then 0x10000 else 0)
    else if i = 0x300008 / 8 then s.epoch
    else if i = 0x300010 / 8 then s.ctab
    else if i = 0x300020 / 8 then (v.spill ++ v.discard).setWidth 64
    else if 0x310000 / 8 ≤ i ∧ i < 0x312400 / 8 then scoreWord s.lscore d 256 143 (i - 0x310000 / 8)
    else if 0x320000 / 8 ≤ i ∧ i < 0x320900 / 8 then scoreWord s.gscore d 64 63 (i - 0x320000 / 8)
    else if 0x400000 / 8 ≤ i ∧ i < 0x400028 / 8 then
      (match i - 0x400000 / 8 with
      | 0 => s.time.gmpri.setWidth 64 ||| (if s.time.src then 0x100 else 0)
      | 1 => s.time.tzero
      | 2 => s.time.gmdev.setWidth 64 ||| (s.time.parent.setWidth 64 <<< 14)
      | 3 => s.time.offset
      | _ => BitVec.ofNat 64 s.time.term)
    else if i = 0x500000 / 8 then v.parklim
    else if 0x600000 / 8 ≤ i ∧ i < 0x600020 / 8 then
      (match i - 0x600000 / 8 with | 0 => v.err0 | 1 => v.err1 | 2 => v.errGa | _ => v.corr)
    else if d = 8 ∧ 0x700000 / 8 ≤ i ∧ i < 0x700030 / 8 then s.mailbox.read (i - 0x700000 / 8)
    else 0
  else 0

/-- Translations and window copies of a die dropped by a store to TLBINV (R246). -/
def State.tlbInvalidate (s : State) (d : Nat) (v : Word) : State :=
  let hit (tag : Word) : Bool := v.getLsbD 17 || decide (tag = v &&& 0x1FFFF)
  { s with
    tlb := s.tlb.filter fun e => !(decide (e.die = d) && hit e.tenant)
    windows := s.windows.filter fun w => !decide (w.1 % 16 = d) }

/-- A device readmitted by a store to PEERUP: its connection is to start again (18_fabric R341). -/
def State.peerUp (s : State) (chip : Nat) : State :=
  let c := Sparse.get Conn.reset s.conns chip
  if s.peers.contains chip ∧ c.down then
    { s with conns := Sparse.set Conn.reset s.conns chip { c with readmit := true } }
  else s

/-- The commands of the mailbox (21_service R386). -/
def mailCommands : List Byte := [0x01, 0x02, 0x10, 0x11, 0x12, 0x20, 0x21, 0x30, 0x31]
/-- A command waits to be performed. -/
def Mailbox.busy (m : Mailbox) : Bool := decide (m.cmd ≠ 0) && !m.done
/-- A store to the mailbox (R386): operands, a command, or DONE's clearing, `msk` being the bits stored. One command is
performed at a time: while one is not done, the whole store is dropped (DESIGN CHOICE, log entry 59). A reserved one, 0x00 among them,
is done at once with STATUS 1, or 3 where the non-secure world stores it. -/
def State.mailWrite (s : State) (i : Nat) (v msk : Word) (nonsecure : Bool) : State :=
  let m := s.mailbox
  let c : Byte := v.extractLsb' 0 8
  if i = 0 then
    if m.busy then s
    else if msk.extractLsb' 0 8 = 0 then { s with mailbox := { m with done := m.done && !(v &&& msk).getLsbD 8 } }
    else
      let known := mailCommands.contains c
      { s with mailbox := { m with
          cmd := c
          done := !known
          status := if known then 0 else if nonsecure then 3 else 1
          nonsecure := nonsecure } }
  else if 1 ≤ i ∧ i ≤ 4 then { s with mailbox := { m with args := Sparse.set 0 m.args i v } }
  else s

/-- A store to a die's error record (21_service R378): ones in V clear both words, other ones their own bits. GA and CORR take
no store and keep their value when V is cleared: the spec gives neither an access code, which is this model's choice (DESIGN
CHOICE, log entry 51). -/
def State.errWrite (s : State) (d i : Nat) (v : Word) : State :=
  let x := s.die d
  match i with
  | 0 => s.setDie d (if v.getLsbD 0 then { x with err0 := 0, err1 := 0 } else { x with err0 := x.err0 &&& ~~~ v })
  | 1 => s.setDie d { x with err1 := x.err1 &&& ~~~ v }
  | _ => s

/-- A store to the aligned doubleword i of a die's kind-3 space: what is read-only or unlisted, and a store of reserved bits
alone, is ignored (R390).
`sup` is whether a supervisor hart in the secure world stores (20_faults R375); `nonsecure` whether a non-secure
hart does (R386). The bytes stored stand in `v` and `msk`. -/
def State.regWrite (s : State) (sup nonsecure : Bool) (d i : Nat) (v msk : Word) : State :=
  let w := (s.regRead true d i &&& ~~~ msk) ||| (v &&& msk)
  if d < 8 then
    if i = 0x1080 / 8 then (if msk &&& 0x3FFFF = 0 then s else s.tlbInvalidate d (v &&& msk))
    else if 0x600000 / 8 ≤ i ∧ i < 0x600010 / 8 then s.errWrite d (i - 0x600000 / 8) (v &&& msk)
    else s
  else if isIod d then
    if 0x600000 / 8 ≤ i ∧ i < 0x600010 / 8 then s.errWrite d (i - 0x600000 / 8) (v &&& msk) else
    if i = 0x300018 / 8 then (if msk &&& 0x3FFF = 0 then s else s.peerUp ((v &&& msk).extractLsb' 0 14).toNat)
    else if i = 0x500000 / 8 then
      if sup then s.setDie d { s.die d with parklim := w } else s
    else if d = 8 ∧ 0x700000 / 8 ≤ i ∧ i < 0x700030 / 8 then s.mailWrite (i - 0x700000 / 8) w msk nonsecure
    else s
  else s

/-- A naturally aligned read of n bytes of a register. -/
def State.regLoad (s : State) (sec : Bool) (ga n : Nat) : Nat :=
  (s.regRead sec (gaDie ga) (gaOff ga / 8)).toNat / 2 ^ (8 * (ga % 8)) % 2 ^ (8 * n)
/-- A naturally aligned write of n bytes of a register. -/
def State.regStore (s : State) (sup nonsecure : Bool) (ga n v : Nat) : State :=
  let sh := 8 * (ga % 8)
  s.regWrite sup nonsecure (gaDie ga) (gaOff ga / 8) (BitVec.ofNat 64 (v % 2 ^ (8 * n) * 2 ^ sh))
    (BitVec.ofNat 64 ((2 ^ (8 * n) - 1) * 2 ^ sh))

/-! ### Control and status registers -/

/-- A listed CSR number (01_machine R24). -/
def csrListed (n : Nat) : Bool := n ≤ 0x16 || (0x100 ≤ n && n ≤ 0x10B)
/-- The access classes of R24. -/
def csrReadOnly (n : Nat) : Bool :=
  [0x005, 0x006, 0x009, 0x00A, 0x00C, 0x00D, 0x00E, 0x00F, 0x010, 0x011, 0x015, 0x10A].contains n
def csrRwS (n : Nat) : Bool := [0x002, 0x003, 0x004, 0x007, 0x008, 0x00B, 0x014, 0x016].contains n
def csrW1c (n : Nat) : Bool := n = 0x012 || n = 0x108 || n = 0x109

/-- The bits of a writable CSR that a write sets; the others are reserved or read as zero. -/
def csrMask (n : Nat) : Word :=
  match n with
  | 0x000 => 0x71F
  | 0x004 => 0x0000FFFF0007FFFF
  | 0x007 => 0xFFFFFFFF
  | 0x008 => 0x7F
  | 0x00B => ~~~ 0x3F#64
  | 0x014 => 0x07FF07FF
  | 0x100 => ~~~ 0x3#64
  | 0x102 => 0x80000000000000FF
  | 0x104 => 0x1F
  | 0x107 => 0x1FFFF
  | _ => BitVec.allOnes 64

/-- The bits of a CSR that hold something: the others read as zero (00_scope R4), also where they come from a locket. -/
def csrBits (n : Nat) : Word :=
  if n = 0x012 then 0x3F else if n = 0x108 then 0xFFFFFFFFFF else csrMask n

/-- ECTX: the bound context slots (R24). -/
def Hart.ectx (t : Hart) : Word :=
  (List.range 16).foldl (fun w k => if (t.ctxSlot k).bound then w ||| (1#64 <<< k) else w) 0

/-- The value a CSR shows (R24-R30); reads of CYCLE and PTIME follow `csrTick`. -/
def State.csrValue (s : State) (n : Nat) : Word :=
  let t := s.me
  let d := slotDie s.cur
  match n with
  | 0x005 => t.vshare
  | 0x006 => BitVec.ofNat 64 ((t.matrix.map (·.mvl)).getD 0)
  | 0x009 => s.hartid s.cur
  | 0x00C => t.ectx
  | 0x00D => (s.die d).cycle
  | 0x00E => (s.die d).ptime
  | 0x00F => s.tbound d
  | 0x010 => s.tstat d
  | 0x011 => 0x00030506
  | 0x015 => 0x100C0A7465406321
  | 0x10A => (s.retired (coreOf s.cur)).setWidth 64
  | _ => t.csrv n

/-- Time passes before a read of CYCLE or PTIME (R115). -/
def State.csrTick (s : State) (n : Nat) : State :=
  if n = 0x00D then s.tickCycle (slotDie s.cur)
  else if n = 0x00E then s.tickTime
  else s

/-- n bytes at a global address lie in populated locations of the given kinds of the own device (R114). -/
def State.ownRange (s : State) (kinds : List Nat) (ga n : Nat) : Bool :=
  !gaHost ga && decide (gaChip ga = s.chip) && kinds.contains (gaKind ga) && s.pagePopulated ga n
/-- A range of the own device touches a secure granule (R382). -/
def State.touchesSecure (s : State) (ga n : Nat) : Bool :=
  (List.range (n / 64 + 1)).any fun i => s.secure.contains (s.canon (ga + min (64 * i) (n - 1)) / 2 ^ 30)

/-- The value rules of PEERBM, VQIMG and ACCWIN (R114, check 5), shared with grants and LKLD. -/
def State.csrRule (s : State) (n : Nat) (v : Word) : Bool :=
  match n with
  | 0x00B => v = 0 || s.ownRange [0, 1, 2, 4] v.toNat 2048
  | 0x105 => decide (v.toNat % 4096 = 0) && s.ownRange [0, 1, 4] v.toNat 2112
  | 0x014 => decide ((v.extractLsb' 0 11).toNat + (v.extractLsb' 16 11).toNat ≤ 1536)
  | _ => true

/-- The secure-granule part of that check (R114). -/
def State.csrSecureRule (s : State) (n : Nat) (v : Word) : Bool :=
  if n = 0x00B then v ≠ 0 && s.touchesSecure v.toNat 2048
  else if n = 0x105 then s.touchesSecure v.toNat 2112
  else false

/-- The value a write would leave (R113, R378): W1C registers lose the ones written; ones in V of ERRLOG0 clear
both error words. -/
def csrWritten (n : Nat) (old v : Word) : Word :=
  if csrW1c n then (if n = 0x108 && v.getLsbD 0 then 0 else old &&& ~~~ v) else v &&& csrMask n

/-- What csrs and csrc write (R113): on a W1C register csrs writes s itself and csrc zeros. -/
def csrSetBits (n : Nat) (old v : Word) : Word := if csrW1c n then v else old ||| v
def csrClearBits (n : Nat) (old v : Word) : Word := if csrW1c n then 0 else old &&& ~~~ v

/-- The checks of R114 for an access that writes `v` (`none` for a read). A WORLD trap here has no faulting address; the
instruction word in TVAL is this model's choice (DESIGN CHOICE, log entry 51). -/
def State.csrCheck (s : State) (n : Nat) (w : IWord) (v : Option Word) : Option Stop :=
  let t := s.me
  if !csrListed n || (t.priv = .user && 0x100 ≤ n) || (t.priv = .user && v.isSome && csrRwS n) then
    some (.trap causeIllegal (tvalWord w))
  else match v with
    | none => none
    | some v =>
      if n = 0x107 && !t.secure && v.getLsbD 16 then some (.trap causeWorld (tvalWord w))
      else if csrReadOnly n then none
      else if !s.csrRule n (v &&& csrMask n) then some (.trap causeIllegal (tvalWord w))
      else if !t.secure && s.csrSecureRule n (v &&& csrMask n) then some (.trap causeWorld (tvalWord w))
      else none

/-- A CSR's new value stored. A read-only register ignores it (R4); a flag set in FCSR is also set in STICKY (R27), also one that a
write of FCSR leaves at 1 (DESIGN CHOICE, log entry 35). -/
def Hart.csrStore (t : Hart) (n : Nat) (v : Word) : Hart :=
  if csrReadOnly n then t
  else
    let t' := t.setCsr n (csrWritten n (t.csrv n) v)
    if n = 0x108 && v.getLsbD 0 then t'.setCsr 0x109 0
    else if n = 0x000 then t'.setCsr 0x012 (t'.csrv 0x012 ||| (v &&& 0x1F))
    else t'

/-- A CSR access closes the open convoy: of FCSR or STICKY, or a write of PTROOT, TENANT or PARTMAP (03_encoding R86). -/
def csrCloses (n : Nat) (writes : Bool) : Bool :=
  n = 0x000 || n = 0x012 || (writes && (n = 0x106 || n = 0x107 || n = 0x10B))
/-- What a CSR access waits for: FCSR and STICKY for the vector queue and for the matrix instructions past their drain points, whose
flags come later (R25), but not for outstanding non-blocking operations (DESIGN CHOICE, log entry 35); a write of PTROOT, TENANT or PARTMAP also for the
non-blocking operations (R115), one of ACCWIN for the hart's matrix instructions (07_matrix_isa R210). -/
def Hart.csrHeld (t : Hart) (n : Nat) (writes : Bool) : Bool :=
  if n = 0x000 || n = 0x012 then !t.drained || !t.tile.isEmpty
  else if writes && (n = 0x106 || n = 0x107 || n = 0x10B) then !t.worked
  else writes && decide (n = 0x014) && t.matrixBusy

/-- A CSR instruction `i` (R113-R115): its checks, what it waits for, and its effect. `v` gives the value written from the old
one. -/
def State.csrAccess (s : State) (i : Instr) (n : Nat) (w : IWord) (d : BitVec 5) (v : Option (Word → Word)) : State :=
  match s.csrCheck n w (v.map fun g => g (s.csrValue n)) with
  | some e => s.halt e
  | none =>
    let s := if csrCloses n v.isSome then s.withMe Hart.closeConvoy else s
    let s := if v.isSome && (n = 0x106 || n = 0x107 || n = 0x10B) then s.drainNb s.cur else s
    if s.me.csrHeld n v.isSome then s.park i none
    else
      let s := s.csrTick n
      let old := s.csrValue n
      s.withMe fun t =>
        (match v with
          | none => t
          | some g => t.csrStore n (g old)).result d old

end Sys2Proof.Machine
end

