-- ==== Sys2Proof/Machine/Region.lean ====
section
/-!
DEFINITION. Machine/Region.lean: regions as the device keeps them (14_regions R286-R303): budgets, queue headers,
windows and allocations, the completion word, the end of a stage and of a region, and the freeing of a hart.
-/

namespace Sys2Proof.Machine

/-! ### Regions and their stages -/

def Budget.zero : Budget := ⟨0, 0, 0, 0, 0, 0⟩
/-- A budget by number: lanes, harts, accumulator rows, engine and collective contexts, HBM (R287). -/
def Budget.get (b : Budget) : Nat → Nat
  | 0 => b.lanes
  | 1 => b.harts
  | 2 => b.accrows
  | 3 => b.eng
  | 4 => b.coll
  | _ => b.hbm

/-- What an unused region number reads as: a region that is done. -/
def Region.empty : Region :=
  ⟨none, false, none, none, 0, 1, 0, 0, 0, false, 0, 0, 0, Budget.zero, 0, 0, 0, 0, none, [], [], true, false, 0, none, []⟩
def State.region (s : State) (n : Nat) : Region := Sparse.get Region.empty s.regions n
def State.setRegion (s : State) (n : Nat) (r : Region) : State :=
  { s with regions := Sparse.set Region.empty s.regions n r }
/-- Regions that are not done, in launch order. -/
def State.liveRegions (s : State) : List Nat := (s.regions.filter fun r => !r.2.done).map (·.1)

def Stage.empty : Stage := ⟨0, 0, 0, 0, 0, 0, none, none, 0, true, 0, 7⟩
def Region.stage (r : Region) (i : Nat) : Stage := r.stages.getD i Stage.empty
def Region.setStage (r : Region) (i : Nat) (t : Stage) : Region := { r with stages := r.stages.set i t }

/-- The smallest of 1, 2, 4, 8 that is at least n, or 16 (R291). -/
def clustersAtLeast (n : Nat) : Nat :=
  if n ≤ 1 then 1 else if n ≤ 2 then 2 else if n ≤ 4 then 4 else if n ≤ 8 then 8 else 16
/-- The largest of 1, 2, 4, 8 that is at most n, or 0. -/
def clustersAtMost (n : Nat) : Nat :=
  if n < 1 then 0 else if n < 2 then 1 else if n < 4 then 2 else if n < 8 then 4 else 8
/-- Requested clusters of a stage (R291). -/
def Stage.clusters (t : Stage) : Nat :=
  if t.vlen = 0 then 0 else clustersAtLeast ((t.vlen * typeWidth t.vtype + 4095) / 4096)
/-- Rows of a hart's accumulator window (R300). -/
def Region.windowRows (r : Region) (t : Stage) : Nat :=
  let vector := r.stages.filter fun u => u.vlen ≠ 0
  min 1536 (if t.sacc ≠ 0 then t.sacc
    else if t.vlen ≠ 0 ∧ r.own.getLsbD 2 then r.tot.accrows / (vector.map (·.hmax)).sum else 0)

/-- Bytes of a locket with a window of so many rows (20_faults R370). -/
def locketSize (rows : Nat) : Nat := 0x35000 + 512 * rows

/-! ### Live harts (R295, R299) -/

/-- A member of a FORK family other than child 0. -/
def Hart.isChild (t : Hart) : Bool := t.family.any fun f => f.index ≠ 0

/-- Slots held by harts of a region. -/
def State.slotHarts (s : State) (r : Nat) : List Nat :=
  (s.harts.filter fun e => decide (e.2.run ≠ .free) && decide (e.2.region = some r)).map (·.1)
/-- Placed harts of a stage: its live harts in slots, FORK children aside (R119, R299). -/
def State.placed (s : State) (r st : Nat) : Nat :=
  ((s.slotHarts r).filter fun h => decide ((s.hart h).stage = st) && !(s.hart h).isChild).length
/-- Lockets of harts of a region that wait. -/
def State.waiting (s : State) (r : Nat) : List Locket := s.lockets.filter fun l => l.region = r
/-- Live harts of a stage. -/
def State.liveHarts (s : State) (r st : Nat) : Nat :=
  s.placed r st + ((s.waiting r).filter fun l => decide (l.stage = st) && !l.hart.isChild).length
/-- Live harts of a region: LIVE (R286). -/
def State.liveCount (s : State) (r : Nat) : Nat := (s.slotHarts r).length + (s.waiting r).length
/-- Live child regions: CHILDREN (R286). -/
def State.childCount (s : State) (r : Nat) : Nat :=
  (s.liveRegions.filter fun q => (s.region q).parent = some r).length

/-! ### Budgets (R287, R292) -/

/-- The region whose budget i a region draws on: itself or the nearest ancestor that reserves it and is not done. -/
def State.ownerFrom (s : State) (i : Nat) : Nat → Nat → Option Nat
  | 0, _ => none
  | n + 1, r =>
    if (s.region r).own.getLsbD i && !(s.region r).done then some r
    else match (s.region r).parent with
      | none => none
      | some p => State.ownerFrom s i n p
def State.owner (s : State) (i r : Nat) : Option Nat := s.ownerFrom i (s.nextRegion + 1) r

/-- What a hart in a slot holds of a budget: clusters it owns or has been given, those with it that merged siblings returned to
child 0 of a family, its slot, its window, its locket space. -/
def Hart.uses (t : Hart) (i : Nat) : Nat :=
  match i with
  | 0 => max t.k (t.pending.getD 0) + t.k * (t.family.elim 0 fun f => f.handed.length)
  | 1 => 1
  | 2 => t.accRows
  | 5 => locketSize t.accRows + 4096
  | _ => 0
/-- What a waiting locket holds of a budget. -/
def Locket.uses (l : Locket) (i : Nat) : Nat :=
  match i with
  | 0 | 1 => 0
  | _ => l.hart.uses i

/-- What is held of budget i of an owner: by harts, waiting lockets, contexts, and children's reservations. -/
def State.used (s : State) (i o : Nat) : Nat :=
  let ours (r : Option Nat) : Bool := match r with
    | none => false
    | some r => s.owner i r == some o
  ((s.harts.filter fun e => decide (e.2.run ≠ .free) && ours e.2.region).map fun e => e.2.uses i).sum +
    ((s.lockets.filter fun l => ours (some l.region)).map fun l => l.uses i).sum +
    (s.ctxs.filter fun c => decide (c.1 % 2048 / 1024 = i - 3) && decide (i = 3 ∨ i = 4) && ours c.2.region).length +
    ((s.liveRegions.filter fun q => (s.region q).own.getLsbD i && ours (s.region q).parent).map fun q =>
      (s.region q).tot.get i).sum
/-- What remains to a region of budget i. -/
def State.remaining (s : State) (i r : Nat) : Nat :=
  match s.owner i r with
  | none => 0
  | some o => (s.region o).tot.get i - s.used i o

/-! ### Device words in memory -/

/-- A record of the device itself to a location of another device: its region schedulers issue it as I/O die A would (DESIGN CHOICE, log
entry 58), on the ordered channel, so that updates of one word are performed in the order in which they are made. -/
def State.deviceRecord (s : State) (op : BitVec 8) (ga : Nat) (data : List Byte) : State :=
  let r := s.newTag
  r.1.sendTo (gaChip ga) (gaDie ga % 10) true true ⟨s.chip, 8, op, data.length, 0, false, r.2, BitVec.ofNat 64 ga, data, none⟩
/-- The control word of an atomic record (18_fabric R336). -/
def atomicWord (op : Nat) (ty : BitVec 4) (ret : Bool) : List Byte :=
  natBytes 8 (op + ty.toNat * 16 + (if ret then 256 else 0))
/-- An atomic OR by the device into the completion word, at its home (R294): one on another device is sent an ATOMIC; one whose die is
out of service or whose granule is being zeroed waits in `owed` (21_service R384); one whose line is poisoned is not performed, and is
logged as R178 has it for PEERBM (DESIGN CHOICE, log entry 58). -/
def State.completionOr (s : State) (r : Nat) (v : Word) : State :=
  let g := s.region r
  match g.compl with
  | none => s
  | some a =>
    if (s.farDev a).isSome then s.deviceRecord 0x04 a (atomicWord 2 3 false ++ natBytes 8 v.toNat)
    else if s.mustWait a then s.setRegion r { g with owed := g.owed ||| v }
    else if s.poisoned a then s.logDie (s.homeDie a) (errorUnit a) a
    else (s.writeGa a 8 (BitVec.ofNat 64 (s.readGa a 8) ||| v).toNat).noticeAll
/-- The bits owed to a completion word are ORed into it once its home can (21_service R384). -/
def State.payOwed (s : State) (r : Nat) : State :=
  let g := s.region r
  if g.owed ≠ 0 ∧ g.compl.all (fun a => !s.mustWait a) then
    (s.setRegion r { g with owed := 0 }).completionOr r g.owed
  else s
/-- CHILDREN and LIVE of a live region's RCB as they now stand (R286); its home must be able to take them. -/
def State.syncRcb (s : State) (r : Nat) : State :=
  match (if (s.region r).done then none else (s.region r).counts) with
  | none => s
  | some a => if s.mustWait a then s else (s.writeGa a 4 (s.childCount r)).writeGa (a + 4) 2 (s.liveCount r)

/-- A queue header's fields (R298). -/
structure QHeader where
  head : Nat
  tail : Nat
  depth : Nat
  item : Nat
  ring : Nat
  valid : Bool
  closed : Bool
  deriving DecidableEq, Repr
/-- A header from its first 32 bytes. -/
def qHeader (v : Nat) : QHeader :=
  ⟨v % 2 ^ 32, v / 2 ^ 32 % 2 ^ 32, v / 2 ^ 64 % 2 ^ 16, v / 2 ^ 80 % 2 ^ 16, v / 2 ^ 128 % 2 ^ 64, v.testBit 192,
    v.testBit 193⟩
/-- Occupancy of a queue (R298). -/
def QHeader.occupancy (q : QHeader) : Nat := (q.tail + (2 ^ 32 - q.head)) % 2 ^ 32
/-- GA of item number i (R298). -/
def QHeader.slot (q : QHeader) (i : Nat) : Nat := q.ring + i % q.depth * q.item
/-- The header of queue q of a region, once its home core has it (R297) and while it can be read: its line is not poisoned and its die
in service (21_service R379, R384). -/
def State.queueHeader (s : State) (r q : Nat) : Option (Nat × QHeader) :=
  if (s.region r).homeCore.isNone then none
  else ((s.region r).queues[q]?).bind fun x =>
    if s.mustWait x.ga || s.poisoned x.ga then none else some (x.ga, qHeader (s.readGa x.ga 32))
/-- A fresh header written (R297, R298). -/
def State.initQueue (s : State) (ga depth item ring : Nat) : State :=
  let s := { s with headers := s.canon ga :: s.headers.filter (· ≠ s.canon ga) }
  (s.writeGa ga 32 (depth * 2 ^ 64 + item * 2 ^ 80 + ring * 2 ^ 128 + 2 ^ 192)).writeGa (ga + 32) 32 0

/-! ### Locket spaces (R303) -/

/-- A page of a locket space, for a window of so many rows, lies on a die that is out of service or in a granule that is being zeroed:
what the device does with the space waits (21_service R383, R384). -/
def State.spaceWaits (s : State) (a rows : Nat) : Bool :=
  (List.range ((8191 + locketSize rows) / 4096)).any fun i => s.mustWait (a + 4096 * i)
/-- The locket spaces of the device pool that a hart of a world, with a window of so many rows, may be given: their trap image area
keeps the value rules of VQIMG (04_scalar R114). -/
def State.spaces (s : State) (world : Bool) (rows : Nat) : List Nat :=
  s.pool.filter fun a => s.csrRule 0x105 (BitVec.ofNat 64 a) && (world || !s.csrSecureRule 0x105 (BitVec.ofNat 64 a)) &&
    !s.spaceWaits a rows
/-- Locket spaces taken from the pool, for harts with windows of so many rows; they are zeroed for their new owner (R295). -/
def State.takeSpaces (s : State) (l : List Nat) (rows : Nat) : State :=
  l.foldl (fun s a => { s.writeGa a (4096 + locketSize rows) 0 with pool := s.pool.erase a }) s

/-! ### The end of a stage (R298, R299) -/

/-- The input queue of a stage is closed and empty. -/
def State.inputOver (s : State) (r : Nat) (t : Stage) : Bool :=
  match t.inq.bind fun q => s.queueHeader r q with
  | none => false
  | some (_, q) => q.closed && q.occupancy = 0
/-- A stage may start a new hart: not before its region's LAUNCH has completed. -/
def State.mayStart (s : State) (r : Nat) (t : Stage) : Bool :=
  !(t.closing && t.inq.isNone) && !s.inputOver r t && !(s.region r).opening
/-- A stage is finished. -/
def State.finished (s : State) (r i : Nat) : Bool :=
  let t := (s.region r).stage i
  !(s.region r).opening && !s.mayStart r t && decide (s.liveHarts r i = 0) && decide (t.queued = 0)
/-- CLOSED set on the output queue of a finished stage (R298). -/
def State.closeOutput (s : State) (r i : Nat) : State :=
  if s.finished r i then
    match ((s.region r).stage i).outq.bind fun q => s.queueHeader r q with
    | none => s
    | some (ga, _) => s.writeByte (ga + 0x18) (s.readByte (ga + 0x18) ||| 2)
  else s
/-- Every queue of a region whose producing stage is finished is closed; a closed queue may finish the next stage. -/
def State.closeQueues (s : State) (r : Nat) : State :=
  let stages := List.range (s.region r).stages.length
  (stages.flatMap fun _ => stages).foldl (fun s i => s.closeOutput r i) s
/-- The same for every region (QUEUE_CLOSE). -/
def State.closeAllQueues (s : State) : State := s.liveRegions.foldl State.closeQueues s

/-! ### Freeing and zeroing (R295, 21_service R383) -/

/-- Scratchpad base of a package-wide core (09_address R230). -/
def State.spadBase (s : State) (core : Nat) : Nat := mkGa s.chip (core / 16) 2 (core % 16 * 2 ^ 21)
/-- A range zeroed for its next owner: no copy of it serves on (R383). -/
def State.zeroRange (s : State) (ga n : Nat) : State :=
  { s with
    mem := s.mem.filter fun c => decide (c.1 < ga ∨ ga + n ≤ c.1)
    headers := s.headers.filter fun a => decide (a < ga ∨ ga + n ≤ a)
    windows := s.windows.filter fun w => decide (w.2.1 * 64 + 64 ≤ ga ∨ ga + n ≤ w.2.1 * 64)
    poison := s.poison.filter fun l => decide (l * 64 < ga ∨ ga + n ≤ l * 64) }
/-- A window's accumulator rows zeroed. -/
def State.zeroRows (s : State) (core first n : Nat) : State :=
  { s with acc := s.acc.filter fun e => decide (e.1 < 1536 * core + first ∨ 1536 * core + first + n ≤ e.1) }
/-- Contexts dropped. -/
def State.dropCtxs (s : State) (keep : Nat → Ctx → Bool) : State :=
  let left := s.ctxs.filter fun c => keep c.1 c.2
  { s with
    ctxs := left
    collOps := s.collOps.map fun o => { o with joined := o.joined.filter fun c => left.any fun x => x.1 = c.1 } }

/-- A region is done (R295): DONE is written, its parent's CHILDREN falls, and what it held is freed and zeroed. -/
def State.finishRegion (s : State) (r : Nat) : State :=
  let g := s.region r
  let s := s.completionOr r (1#64 <<< 63)
  let s := (s.syncRcb r).setRegion r { g with done := true, allocs := [] }
  let s := match g.parent with
    | none => s
    | some p => s.syncRcb p
  let s := g.allocs.foldl (fun s a => s.zeroRange (s.spadBase a.1 + a.2) g.spad) s
  s.dropCtxs fun _ c => decide (c.region ≠ some r)
/-- The first moment with no live hart and no queued grant, and with its completion word written so far, ends a region (R295). -/
def State.settleRegion (s : State) (r : Nat) : State :=
  let s := (s.closeQueues r).syncRcb r
  let s := s.payOwed r
  if !(s.region r).done && decide (s.liveCount r = 0) && decide ((s.region r).owed = 0) &&
      ((s.region r).compl.all fun a => !s.mustWait a) && (s.region r).stages.all fun t => t.queued = 0 then
    s.finishRegion r
  else s

/-- The seal of a release to a device: SHART names the hart as the device counts it, TAG the seal, the address word the record count
(18_fabric R336). -/
def State.sealRecord (s : State) (h shart : Nat) (tag : BitVec 32) (count : Nat) : Record :=
  ⟨s.chip, slotDie h, 0x08, 0, BitVec.ofNat 11 shart, false, tag, BitVec.ofNat 64 (count % 2 ^ 32), [], none⟩
/-- The records of a hart that no seal has covered, by device and SHART. -/
def Hart.owedSeals (t : Hart) (h : Nat) : List (Nat × Nat × Nat) :=
  (t.unsealed.filter fun e => 16 ≤ e.1).map (fun e => (e.1 - 16, h, e.2)) ++
    t.inherited.map fun e => (e.1 / 2048 - 16, e.1 % 2048, e.2)
/-- A hart leaves its slot with records that no seal has covered, on a stop or when it is discarded: they are sealed so that their homes'
counts for the slot end with it, and nothing waits for the answer (DESIGN CHOICE, log entry 57). -/
def State.closeCounts (s : State) (h : Nat) : State :=
  ((s.hart h).owedSeals h).foldl (fun (s : State) x =>
    let r := s.newTag
    r.1.sendTo x.1 0 false (s.hart h).secure (s.sealRecord h x.2.1 r.2 x.2.2)) s
/-- A slot freed with its clusters, its window's rows and its locket space (R122, R303, 21_service R383). -/
def State.freeSlot (s : State) (h : Nat) : State :=
  let t := s.hart h
  let s := s.closeCounts h
  let s := if t.isChild then s else s.zeroRows (coreOf h) t.accFirst t.accRows
  { s.setHart h Hart.free with pool := t.space.toList ++ s.pool }
/-- Scratchpad of a core that a region no longer occupies, its home core aside, returns (R297). -/
def State.releaseCore (s : State) (r core : Nat) : State :=
  let g := s.region r
  if g.homeCore ≠ some core ∧ (s.slotHarts r).all (fun h => decide (coreOf h ≠ core)) then
    let gone := g.allocs.filter fun a => a.1 = core
    let s := gone.foldl (fun s a => s.zeroRange (s.spadBase core + a.2) g.spad) s
    s.setRegion r { g with allocs := g.allocs.filter fun a => a.1 ≠ core }
  else s
/-- A hart leaves its region: its slot is freed, and the region may end. -/
def State.leave (s : State) (h : Nat) : State :=
  let r := (s.hart h).region
  let s := s.freeSlot h
  match r with
  | none => s
  | some r => (s.releaseCore r (coreOf h)).settleRegion r

/-! ### Free resources of a core -/

/-- Clusters promised to harts of a core beyond those they own (R117). -/
def State.promised (s : State) (core : Nat) : Nat :=
  ((coreSlots core).map fun h => ((s.hart h).pending.getD 0) - (s.hart h).k).sum
/-- Clusters of a core that are neither owned, retired nor promised. -/
def State.spare (s : State) (core : Nat) : Nat := popCount 8 (s.freeClusters core).toNat - s.promised core
/-- The largest share a core allows (21_service R380). -/
def State.shareCap (s : State) (core : Nat) : Nat := clustersAtMost (8 - popCount 8 (s.retired core).toNat)
/-- Free slots of a core. -/
def State.freeSlots (s : State) (core : Nat) : List Nat :=
  (coreSlots core).filter fun h => (s.hart h).run = .free
/-- Windows of the harts on a core. -/
def State.windowsOn (s : State) (core : Nat) : List (Nat × Nat) :=
  ((coreSlots core).map s.hart |>.filter fun t => decide (t.run ≠ .free)).map fun t => (t.accFirst, t.accRows)
/-- First rows at which a window of n rows is free (R300). -/
def State.freeWindows (s : State) (core n : Nat) : List Nat :=
  (List.range (1537 - n)).filter fun a =>
    (s.windowsOn core).all fun w => decide (w.2 = 0 ∨ a + n ≤ w.1 ∨ w.1 + w.2 ≤ a)
/-- First bytes at which a scratchpad allocation of n bytes is free: multiples of 4 KiB. -/
def State.freeSpad (s : State) (core n : Nat) : List Nat :=
  let taken := s.liveRegions.flatMap fun q =>
    ((s.region q).allocs.filter fun a => a.1 = core).map fun a => (a.2, (s.region q).spad)
  ((List.range 384).map (· * 4096)).filter fun a =>
    decide (a + n ≤ 0x180000) && taken.all fun w => decide (a + n ≤ w.1 ∨ w.1 + w.2 ≤ a)
/-- The tile queues of a core that no hart owns (07_matrix_isa R207). -/
def State.freeTq (s : State) (core : Nat) : List Nat :=
  [0, 1].filter fun q => (coreSlots core).all fun h => (s.hart h).matrix.all fun m => decide (m.tq ≠ q)

/-- A free choice from a list (R297: not promised). -/
def choose (fresh : Nat) (l : List Nat) : Option Nat := l[Config.pick fresh % l.length]?

end Sys2Proof.Machine
end

