-- ==== Sys2Proof/Machine/Operands.lean ====
section
/-!
DEFINITION. Machine/Operands.lean: the operand forms: immediates and offsets (03_encoding R71), the scalar memory
operand in its three uses (load, store, read-modify-write; 04_scalar R105-R111), vector tile operands and the
element sweep (05_vector R132-R134; 01_machine R11-R17).
-/

namespace Sys2Proof.Machine

/-! ### Scalar operands -/

/-- A sign-extended immediate (R71). -/
def sext {n : Nat} (b : BitVec n) : Word := b.signExtend 64
/-- A branch or jump offset in words (R71). -/
def sextWords {n : Nat} (b : BitVec n) : Word := b.signExtend 64 <<< 2

/-- A failed device is marked in PEERBM and counted for the next release (R178, 09_address R243). -/
def State.peerLost (s : State) (h c : Nat) : State :=
  (s.markPeer h c).setHart h (((s.markPeer h c).hart h).countSent (16 + c))

/-- The bytes of the scalar access under way: checked once, they stay as they are while it waits for another device (09_address
R243, R246). -/
def State.accessRange (s : State) (need : Need) (va : Word) (n : Nat) : Except Stop (List Loc) :=
  match s.me.access with
  | some locs => .ok locs
  | none => s.checkRange (s.party s.cur) need false va n
/-- The executing hart's access waits for an answer with its checked bytes. -/
def State.awaitAccess (s : State) (locs : List Loc) (va : Word) : State × Stop :=
  (s.withMe fun t => { t with access := some locs }, .wait va)
/-- Reading a scalar memory operand of n bytes (R105-R107): the value, or why it is not read (yet). Kind 3 must be aligned
and is read once. Another device is asked with a READ, and the access waits for its answer; a failed peer's bytes come from
VFILL (09_address R243). -/
def State.loadScalar (s : State) (need : Need) (va : Word) (n : Nat) : Except (State × Stop) (State × Nat) :=
  match s.accessRange need va n with
  | .error e => .error (s, e)
  | .ok locs =>
    let ga := (locs.headD ⟨0, false⟩).ga
    let reg := locs.any Loc.isReg
    if reg ∧ va.toNat % n ≠ 0 then .error (s, .trap causeAlign va)
    else if reg ∧ gaChip ga = s.chip then .ok (s, s.regLoad s.me.secure ga n)
    else
      match s.eccByte va locs with
      | some v => .error (s.logError (errorUnit ga) s.cur, .trap causeEcc v)
      | none =>
        match (if s.me.access.isSome then none else locs.findSome? fun l => s.failedHome l.ga) with
        | some c => .ok (s.peerLost s.cur c, s.me.vfill.toNat % 2 ^ (8 * n))
        | none =>
          let r := s.gather s.cur 0 (s.needed s.winKey locs)
          if !r.2 then .error (r.1.awaitAccess locs va)
          else
            let asks := s.me.asks
            match askFailed asks (s.farOf (locGas locs)) with
            | some _ => .ok (s, s.me.vfill.toNat % 2 ^ (8 * n))
            | none =>
              .ok (s.keepWindowsWith (askByte asks) s.winKey locs,
                s.loadAtWith (askByte asks) s.winKey locs)

/-- The destinations of bytes homed here or with the host, each counted once: a record goes to each (R177, R257). -/
def State.countLocal (s : State) (h : Nat) (gas : List Nat) : State :=
  ((gas.filter fun a => (s.farDev a).isNone).map (s.destination h)).dedup.foldl
    (fun (s : State) d => s.setHart h ((s.hart h).countSent d)) s
/-- The spans of a record of a list of writes of one device, in rising order: bytes one after another, or with gaps where a bit
mask leaves room for them (18_fabric R336): first address and length. -/
def spans (gas : List Nat) : List (Nat × Nat) :=
  (gas.foldl (fun l a => insertBy (· < ·) a l) []).foldr (fun a l =>
    match l with
    | (b, n) :: t =>
      if a = b then l
      else if a / 2 ^ 42 = b / 2 ^ 42 ∧ ((b = a + 1 ∧ n < 256) ∨ b + n ≤ a + 128) then (a, b + n - a) :: t
      else (a, 1) :: l
    | [] => [(a, 1)]) []
/-- A record's bytes have a byte that is written: those of a span longer than a mask allows are all written. -/
def spanFits (bs : List PendByte) (x : Nat × Nat) : Bool :=
  decide (x.2 ≤ 128) || (gaRange x.1 x.2).all fun a => bs.any fun b => decide (b.addr = a ∧ b.msk = 0xFF)
/-- A span cut into records that R336 admits. -/
def cutSpan (bs : List PendByte) (x : Nat × Nat) : List (Nat × Nat) :=
  if spanFits bs x then [x] else [(x.1, 128), (x.1 + 128, x.2 - 128)]
/-- The bytes of a store that go to another device, an element group or scalar operand at a time: one record to each device
that carries its active bytes, with bit masks where they are not all written whole (16_prog_chain R319; R165), as far as one
record holds them (18_fabric R336). Each record counts once for a release (R257). `ord` is its O bit, and a tracked record
joins the line hold. The TAGs of what was sent. -/
def State.sendFar (s : State) (h : Nat) (ord trk : Bool) (bs : List PendByte) :
    State × List (Nat × BitVec 32) :=
  let far := bs.filter fun b => (s.farDev b.addr).isSome
  ((spans (far.map (·.addr))).flatMap (cutSpan far)).foldl (fun (o : State × List (Nat × BitVec 32)) x =>
    let s := o.1
    let c := gaChip x.1
    let mine := (gaRange x.1 x.2).map fun a => (far.find? fun b => b.addr = a).getD ⟨a, 0, 0⟩
    let vals := mine.map (·.val)
    let msks := mine.map (·.msk)
    if s.peerFailed c then (s.peerLost h c, o.2)
    else
      let r := s.newTag
      let rcd := if msks.all (· = 0xFF) then s.hartRecord h 0x02 x.1 x.2 true r.2 vals
        else s.hartRecord h 0x03 x.1 (2 * x.2) true r.2 (vals ++ msks)
      let s := r.1.setHart h ((r.1.hart h).countSent (16 + c))
      (if trk then s.sendTracked h c ord rcd else s.sendLoose h c ord rcd,
        o.2 ++ [(c, r.2)])) (s, [])

/-- A checked store performed: its bytes at their homes in this package, or sent to another device, and its records counted
for a release (R177). -/
def State.storeBytes (s : State) (h : Nat) (locs : List Loc) (v : Nat) : State :=
  let near := locs.filter fun l => (s.farDev l.ga).isNone
  if near.length = locs.length then
    (s.countLocal h ((locGas locs).take 1)).writeAt (locGas locs) v
  else
    let bs := (locGas locs).zipWith (fun a b => (⟨a, b, 0xFF⟩ : PendByte)) (natBytes locs.length v)
    let s := s.countLocal h (locGas near)
    ((s.performBytes (bs.filter fun b => (s.farDev b.addr).isNone)).sendFar h false true bs).1

/-- Writing a scalar memory operand of n bytes (R105-R107). -/
def State.storeScalar (s : State) (va : Word) (n v : Nat) : Except (State × Stop) State :=
  match s.checkRange (s.party s.cur) .wr false va n with
  | .error e => .error (s, e)
  | .ok locs =>
    let ga := (locs.headD ⟨0, false⟩).ga
    let reg := locs.any Loc.isReg
    if reg ∧ va.toNat % n ≠ 0 then .error (s, .trap causeAlign va)
    else if reg ∧ gaChip ga = s.chip then
      .ok (s.regStore (s.me.secure && s.me.priv = .supervisor) (!s.me.secure) ga n v)
    else
      match s.eccByte va locs with
      | some w => .error (s.logError (errorUnit ga) s.cur, .trap causeEcc w)
      | none => .ok (s.storeBytes s.cur locs v)

/-- A scalar read-modify-write of n bytes (R110, R111): the old value and the state with the new one. Another device
performs it: it is sent an ATOMIC with this operation, operand and compare value, and the access waits for the old value. -/
def State.updateScalar (s : State) (va : Word) (n : Nat) (op d c : Nat) (f : Nat → Nat) :
    Except (State × Stop) (State × Nat) :=
  match s.accessRange .both va n with
  | .error e => .error (s, e)
  | .ok locs =>
    let ga := (locs.headD ⟨0, false⟩).ga
    if locs.any Loc.isReg then .error (s, .trap causePerm va)
    else if va.toNat % n ≠ 0 then .error (s, .trap causeAlign va)
    else
      match s.eccByte va locs with
      | some v => .error (s.logError (errorUnit ga) s.cur, .trap causeEcc v)
      | none =>
        match s.farDev ga with
        | none => .ok (s.storeBytes s.cur locs (f (s.readAt (locGas locs))), s.readAt (locGas locs))
        | some dev =>
          if s.me.access.isNone && s.peerFailed dev then .ok (s.peerLost s.cur dev, s.me.vfill.toNat % 2 ^ (8 * n))
          else match askOf s.me.asks 0 ga n true with
            | none =>
              let data := atomicWord op (if n = 8 then 3 else 2) true ++ natBytes n d ++
                (if op = 9 then natBytes n c else [])
              let r := s.sendAsk s.cur 0 ga n (some (0x04, data))
              .error ((r.1.withMe fun t => { t.countSent (16 + dev) with asks := t.asks ++ [r.2] }).awaitAccess locs va)
            | some a =>
              if a.failed then .ok (s, s.me.vfill.toNat % 2 ^ (8 * n))
              else match a.data with
                | none => .error (s, .wait va)
                | some bs => .ok (s, bytesNat bs % 2 ^ (8 * n))

/-- An n-byte value extended to 64 bits (R105). -/
def extendBytes (sg : Bool) (n v : Nat) : Word :=
  if sg then BitVec.ofInt 64 (toSigned (8 * n) v) else BitVec.ofNat 64 v

/-! ### Rows and tiles -/

/-- Element i of a row at width w (R15). -/
def rowElem (w : Nat) (r : Nat) (i : Nat) : Nat := r / 2 ^ (w * i) % 2 ^ w
/-- A row with element i replaced (R15). -/
def setElem (w : Nat) (r i x : Nat) : Nat :=
  r % 2 ^ (w * i) + (x % 2 ^ w) * 2 ^ (w * i) + r / 2 ^ (w * i + w) * 2 ^ (w * i + w)

/-- Rows of a tile (R72). -/
def groupRows (g : BitVec 2) : Nat := 2 ^ g.toNat

/-- The mask of an instruction: all elements, or those of m1 to m3 (R72, R132). -/
def Hart.maskOf (t : Hart) (m : BitVec 2) : Nat :=
  if m = 0 then 2 ^ 8192 - 1 else (t.mr m.toNat).toNat

/-- The clusters' low bits: the pad of an F6 row of k clusters (R15). -/
def clearPad (k : Nat) (r : Nat) : Nat := r % 2 ^ (6 * vlmaxOf k tyF6)

/-- Elements i, i + 1, ... of a row recomputed where active: the row, the flags, and whether any was written. -/
def sweepRow (w : Nat) (active : Nat → Bool) (f : Nat → Nat × Flags) : Nat → Nat → Nat × Flags × Bool →
    Nat × Flags × Bool
  | 0, _, acc => acc
  | n + 1, i, (r, fl, any) =>
    if active i then
      let x := f i
      sweepRow w active f n (i + 1) (setElem w r i x.1, fl ||| x.2, true)
    else sweepRow w active f n (i + 1) (r, fl, any)

/-- One row of the element sweep from element `from` on (R132), with F6's pad bits cleared once an element is written
(R15). -/
def sweepTo (k : Nat) (ty : BitVec 4) (vl start : Nat) (active : Nat → Bool) (f : Nat → Nat × Flags) (r : Row) :
    Row × Flags :=
  let o := sweepRow (typeWidth ty) active f (vl - start) start (r.toNat, Flags.none, false)
  (BitVec.ofNat 32768 (if o.2.2 && ty = tyF6 then clearPad k o.1 else o.1), o.2.1)

end Sys2Proof.Machine
end

