-- ==== Sys2Proof/Machine/Scalar.lean ====
section
/-!
DEFINITION. Machine/Scalar.lean: the scalar majors OP to CSR (04_scalar R98-R115): integer operations, branches and
jumps, loads, stores, literals, atomics and control register access.
-/

namespace Sys2Proof.Machine

/-- The answer of a meaning. -/
abbrev Out := Host.Outcome State Fault Refusal

/-! ### Shared forms -/

/-- rd from rs1 and rs2 (R100). -/
def State.op3 (s : State) (f : Rrr) (g : Word → Word → Word) : State :=
  s.withMe fun t => t.result f.d (g (t.xr f.a) (t.xr f.b))
/-- rd from rs1. -/
def State.op2 (s : State) (d a : BitVec 5) (g : Word → Word) : State :=
  s.withMe fun t => t.result d (g (t.xr a))
/-- A branch (R103). -/
def State.branch (s : State) (f : BrOff) (c : Word → Word → Bool) : State :=
  s.withMe fun t => { t with pc := if c (t.xr f.a) (t.xr f.b) then t.pc + sextWords f.off else t.pc + 4 }
/-- Blocking vector memory instructions and vector atomics of the hart that are not complete: a scalar memory instruction
waits for them (R108). An MLS and a VCBLD count as blocking vector loads (07_matrix_isa R212; 05_vector R146). -/
def Hart.vectorMemory (t : Hart) : Bool :=
  t.undone.any fun e => let m := (e.word.extractLsb' 25 6).toNat
    (decide (0x20 ≤ m ∧ m ≤ 0x2A) || decide (m = 0x31) || (decide (m = 0x16) && decide (e.word.extractLsb' 0 4 = 4))) &&
      !e.nb
/-- A scalar memory instruction, once it need not wait so. -/
def State.inOrder (s : State) (va : Word) (k : State) : State := if s.me.vectorMemory || s.portHeld s.cur then s.halt (.wait va) else k
/-- A scalar load of n bytes (R105, R106). -/
def State.load (s : State) (f : LoadOff) (n : Nat) (sg : Bool) : State :=
  s.inOrder (s.me.xr f.a + sext f.off) <| match s.loadScalar .rd (s.me.xr f.a + sext f.off) n with
  | .error (s, e) => s.halt e
  | .ok (s, v) => s.withMe fun t => t.result f.d (extendBytes sg n v)
/-- A scalar store of n bytes (R105, R106). -/
def State.store (s : State) (f : StoreOff) (n : Nat) : State :=
  s.inOrder (s.me.xr f.a + sext f.off) <| match s.storeScalar (s.me.xr f.a + sext f.off) n ((s.me.xr f.b).toNat % 2 ^ (8 * n)) with
  | .error (s, e) => s.halt e
  | .ok s => s.withMe Hart.advance
/-- A scalar atomic (R110, R111): the new value from the width, the memory value, rs2 and rd at that width; `op` is its code (R110), and `after`
is what the home's device does upon the update. -/
def State.amoThen (s : State) (f : AmoOps) (op : Nat) (g : Nat → Nat → Nat → Nat → Nat) (after : State → State) : State :=
  let n := if f.wide = 1 then 8 else 4
  let w := 8 * n
  let b := (s.me.xr f.b).toNat % 2 ^ w
  let c := (s.me.xr f.d).toNat % 2 ^ w
  s.inOrder (s.me.xr f.a) <| match s.updateScalar (s.me.xr f.a) n op b c (fun m => g w m b c) with
  | .error (s, e) => s.halt e
  | .ok (s, v) => after (s.withMe fun t => t.result f.d (extendBytes (f.wide = 0) n v))
/-- A scalar atomic that nothing else follows. -/
def State.amo (s : State) (f : AmoOps) (op : Nat) (g : Nat → Nat → Nat → Nat → Nat) : State :=
  s.amoThen f op g id

/-- Quotient and remainder toward zero; a divisor of 0 gives all ones and the dividend (R101). -/
def divSigned (a b : Word) : Word := if b = 0 then BitVec.allOnes 64 else a.sdiv b
def divUnsigned (a b : Word) : Word := if b = 0 then BitVec.allOnes 64 else a / b
def remSigned (a b : Word) : Word := if b = 0 then a else a.srem b
def remUnsigned (a b : Word) : Word := if b = 0 then a else a % b
/-- Bits [127:64] of a product (R100). -/
def mulHigh (a b : Int) : Word := BitVec.ofInt 64 (a * b / 2 ^ 64)
/-- A condition as 0 or 1. -/
def boolWord (c : Bool) : Word := if c then 1 else 0
/-- A shift or rotate amount (R100). -/
def shiftAmount (b : Word) : Nat := b.toNat % 64
/-- The low 32 bits sign-extended. -/
def sext32 (v : Word) : Word := (v.setWidth 32).signExtend 64

/-! ### Integer register operations (R100-R102) -/

/-- ADD (R100). -/
def execAdd (f : Rrr) (s : State) : Out :=
  .next (s.op3 f fun a b => a + b)

/-- SUB (R100). -/
def execSub (f : Rrr) (s : State) : Out :=
  .next (s.op3 f fun a b => a - b)

/-- AND (R100). -/
def execAnd (f : Rrr) (s : State) : Out :=
  .next (s.op3 f fun a b => a &&& b)

/-- OR (R100). -/
def execOr (f : Rrr) (s : State) : Out :=
  .next (s.op3 f fun a b => a ||| b)

/-- XOR (R100). -/
def execXor (f : Rrr) (s : State) : Out :=
  .next (s.op3 f fun a b => a ^^^ b)

/-- SLL (R100). -/
def execSll (f : Rrr) (s : State) : Out :=
  .next (s.op3 f fun a b => a <<< shiftAmount b)

/-- SRL (R100). -/
def execSrl (f : Rrr) (s : State) : Out :=
  .next (s.op3 f fun a b => a >>> shiftAmount b)

/-- SRA (R100). -/
def execSra (f : Rrr) (s : State) : Out :=
  .next (s.op3 f fun a b => a.sshiftRight (shiftAmount b))

/-- SLT (R100). -/
def execSlt (f : Rrr) (s : State) : Out :=
  .next (s.op3 f fun a b => boolWord (a.slt b))

/-- SLTN (R100). -/
def execSltn (f : Rrr) (s : State) : Out :=
  .next (s.op3 f fun a b => boolWord (a.ult b))

/-- MUL (R100). -/
def execMul (f : Rrr) (s : State) : Out :=
  .next (s.op3 f fun a b => a * b)

/-- MULH (R100). -/
def execMulh (f : Rrr) (s : State) : Out :=
  .next (s.op3 f fun a b => mulHigh a.toInt b.toInt)

/-- MULHN (R100). -/
def execMulhn (f : Rrr) (s : State) : Out :=
  .next (s.op3 f fun a b => mulHigh a.toNat b.toNat)

/-- DIV (R101). -/
def execDiv (f : Rrr) (s : State) : Out :=
  .next (s.op3 f fun a b => divSigned a b)

/-- DIVN (R101). -/
def execDivn (f : Rrr) (s : State) : Out :=
  .next (s.op3 f fun a b => divUnsigned a b)

/-- REM (R101). -/
def execRem (f : Rrr) (s : State) : Out :=
  .next (s.op3 f fun a b => remSigned a b)

/-- REMN (R101). -/
def execRemn (f : Rrr) (s : State) : Out :=
  .next (s.op3 f fun a b => remUnsigned a b)

/-- MIN (R100). -/
def execMin (f : Rrr) (s : State) : Out :=
  .next (s.op3 f fun a b => if a.slt b then a else b)

/-- MAX (R100). -/
def execMax (f : Rrr) (s : State) : Out :=
  .next (s.op3 f fun a b => if a.slt b then b else a)

/-- MINN (R100). -/
def execMinn (f : Rrr) (s : State) : Out :=
  .next (s.op3 f fun a b => if a.ult b then a else b)

/-- MAXN (R100). -/
def execMaxn (f : Rrr) (s : State) : Out :=
  .next (s.op3 f fun a b => if a.ult b then b else a)

/-- ROL (R100). -/
def execRol (f : Rrr) (s : State) : Out :=
  .next (s.op3 f fun a b => a.rotateLeft (shiftAmount b))

/-- ROR (R100). -/
def execRor (f : Rrr) (s : State) : Out :=
  .next (s.op3 f fun a b => a.rotateRight (shiftAmount b))

/-- ADDW (R100). -/
def execAddw (f : Rrr) (s : State) : Out :=
  .next (s.op3 f fun a b => sext32 (a + b))

/-- SUBW (R100). -/
def execSubw (f : Rrr) (s : State) : Out :=
  .next (s.op3 f fun a b => sext32 (a - b))

/-- CLZ (R100). -/
def execClz (f : Rr) (s : State) : Out :=
  .next (s.op2 f.d f.a fun a => BitVec.ofNat 64 (leadingZeros 64 a.toNat))

/-- CTZ (R100). -/
def execCtz (f : Rr) (s : State) : Out :=
  .next (s.op2 f.d f.a fun a => BitVec.ofNat 64 (trailingZeros 64 a.toNat))

/-- POPC (R100). -/
def execPopc (f : Rr) (s : State) : Out :=
  .next (s.op2 f.d f.a fun a => BitVec.ofNat 64 (popCount 64 a.toNat))

/-- ADDI (R102). -/
def execAddi (f : RrImm15) (s : State) : Out :=
  .next (s.op2 f.d f.a fun a => a + sext f.imm)

/-- ANDI (R102). -/
def execAndi (f : RrImm12) (s : State) : Out :=
  .next (s.op2 f.d f.a fun a => a &&& sext f.imm)

/-- ORI (R102). -/
def execOri (f : RrImm12) (s : State) : Out :=
  .next (s.op2 f.d f.a fun a => a ||| sext f.imm)

/-- XORI (R102). -/
def execXori (f : RrImm12) (s : State) : Out :=
  .next (s.op2 f.d f.a fun a => a ^^^ sext f.imm)

/-- SLTI (R102). -/
def execSlti (f : RrImm12) (s : State) : Out :=
  .next (s.op2 f.d f.a fun a => boolWord (a.slt (sext f.imm)))

/-- SLTNI (R102). -/
def execSltni (f : RrImm12) (s : State) : Out :=
  .next (s.op2 f.d f.a fun a => boolWord (a.ult (sext f.imm)))

/-- SLLI (R102). -/
def execSlli (f : RrSh) (s : State) : Out :=
  .next (s.op2 f.d f.a fun a => a <<< f.sh.toNat)

/-- SRLI (R102). -/
def execSrli (f : RrSh) (s : State) : Out :=
  .next (s.op2 f.d f.a fun a => a >>> f.sh.toNat)

/-- SRAI (R102). -/
def execSrai (f : RrSh) (s : State) : Out :=
  .next (s.op2 f.d f.a fun a => a.sshiftRight f.sh.toNat)

/-- LUI (R102). -/
def execLui (f : RImm20) (s : State) : Out :=
  .next (s.withMe fun t => t.result f.d (sext f.imm <<< 12))

/-- AUIPC (R102). -/
def execAuipc (f : RImm20) (s : State) : Out :=
  .next (s.withMe fun t => t.result f.d (t.pc + (sext f.imm <<< 12)))

/-! ### Branches and jumps (R103, R104) -/

/-- BEQ (R103). -/
def execBeq (f : BrOff) (s : State) : Out :=
  .next (s.branch f fun a b => a == b)

/-- BNE (R103). -/
def execBne (f : BrOff) (s : State) : Out :=
  .next (s.branch f fun a b => a != b)

/-- BLT (R103). -/
def execBlt (f : BrOff) (s : State) : Out :=
  .next (s.branch f fun a b => a.slt b)

/-- BGE (R103). -/
def execBge (f : BrOff) (s : State) : Out :=
  .next (s.branch f fun a b => !a.slt b)

/-- BLTN (R103). -/
def execBltn (f : BrOff) (s : State) : Out :=
  .next (s.branch f fun a b => a.ult b)

/-- BGEN (R103). -/
def execBgen (f : BrOff) (s : State) : Out :=
  .next (s.branch f fun a b => !a.ult b)

/-- JAL (R103). -/
def execJal (f : ROff20) (s : State) : Out :=
  .next (s.withMe fun t => { t.setX f.d (t.pc + 4) with pc := t.pc + sextWords f.off })

/-- JALR: the target from rs1 as it stood; one not a multiple of 4 traps ALIGN (R103, R104). -/
def execJalr (f : RrImm15) (s : State) : Out :=
  let target := s.me.xr f.a + sext f.imm
  .next (if target.toNat % 4 ≠ 0 then s.raise causeAlign target
    else s.withMe fun t => { t.setX f.d (t.pc + 4) with pc := target })

/-! ### Loads, stores and literals (R105-R109) -/

/-- LDB (R105). -/
def execLdb (f : LoadOff) (s : State) : Out :=
  .next (s.load f 1 false)

/-- LDH (R105). -/
def execLdh (f : LoadOff) (s : State) : Out :=
  .next (s.load f 2 false)

/-- LDW (R105). -/
def execLdw (f : LoadOff) (s : State) : Out :=
  .next (s.load f 4 false)

/-- LDD (R105). -/
def execLdd (f : LoadOff) (s : State) : Out :=
  .next (s.load f 8 false)

/-- LDBS (R105). -/
def execLdbs (f : LoadOff) (s : State) : Out :=
  .next (s.load f 1 true)

/-- LDHS (R105). -/
def execLdhs (f : LoadOff) (s : State) : Out :=
  .next (s.load f 2 true)

/-- LDWS (R105). -/
def execLdws (f : LoadOff) (s : State) : Out :=
  .next (s.load f 4 true)

/-- STB (R105). -/
def execStb (f : StoreOff) (s : State) : Out :=
  .next (s.store f 1)

/-- STH (R105). -/
def execSth (f : StoreOff) (s : State) : Out :=
  .next (s.store f 2)

/-- STW (R105). -/
def execStw (f : StoreOff) (s : State) : Out :=
  .next (s.store f 4)

/-- STD (R105). -/
def execStd (f : StoreOff) (s : State) : Out :=
  .next (s.store f 8)

/-- LDPC: a doubleword near the pc, from a page that grants Rd or X (R109). -/
def execLdpc (f : ROff20) (s : State) : Out :=
  let va := (s.me.pc &&& ~~~ 7#64) + (sext f.off <<< 3)
  .next (s.inOrder va <| match s.loadScalar .literal va 8 with
    | .error (s, e) => s.halt e
    | .ok (s, v) => s.withMe fun t => t.result f.d (BitVec.ofNat 64 v))

/-! ### Scalar atomics (R110-R112) -/

/-- AMOS_ADD (R110). -/
def execAmosAdd (f : AmoOps) (s : State) : Out :=
  .next (s.amo f 0 (fun w m b _ => (m + b) % 2 ^ w))

/-- AMOS_AND (R110). -/
def execAmosAnd (f : AmoOps) (s : State) : Out :=
  .next (s.amo f 1 (fun _ m b _ => m &&& b))

/-- AMOS_OR (R110); setting CLOSED in a queue header may finish stages (14_regions R298). -/
def execAmosOr (f : AmoOps) (s : State) : Out :=
  .next (s.amoThen f 2 (fun _ m b _ => m ||| b) State.closeAllQueues)

/-- AMOS_XOR (R110). -/
def execAmosXor (f : AmoOps) (s : State) : Out :=
  .next (s.amo f 3 (fun _ m b _ => m ^^^ b))

/-- AMOS_MIN (R110). -/
def execAmosMin (f : AmoOps) (s : State) : Out :=
  .next (s.amo f 4 (fun w m b _ => if toSigned w b < toSigned w m then b else m))

/-- AMOS_MAX (R110). -/
def execAmosMax (f : AmoOps) (s : State) : Out :=
  .next (s.amo f 5 (fun w m b _ => if toSigned w m < toSigned w b then b else m))

/-- AMOS_MINN (R110). -/
def execAmosMinn (f : AmoOps) (s : State) : Out :=
  .next (s.amo f 6 (fun _ m b _ => min m b))

/-- AMOS_MAXN (R110). -/
def execAmosMaxn (f : AmoOps) (s : State) : Out :=
  .next (s.amo f 7 (fun _ m b _ => max m b))

/-- AMOS_SWAP (R110). -/
def execAmosSwap (f : AmoOps) (s : State) : Out :=
  .next (s.amo f 8 (fun _ _ b _ => b))

/-- AMOS_CAS (R110). -/
def execAmosCas (f : AmoOps) (s : State) : Out :=
  .next (s.amo f 9 (fun _ m b c => if m = c then b else m))

/-! ### Control and status registers (R113-R115) -/

/-- CSRR (R113). -/
def execCsrr (f : CsrRd) (s : State) : Out :=
  .next (s.csrAccess (.csrr f) f.csr.toNat (wordOf (.csrr f)) f.d none)

/-- CSRW (R113). -/
def execCsrw (f : CsrOps) (s : State) : Out :=
  .next (s.csrAccess (.csrw f) f.csr.toNat (wordOf (.csrw f)) f.d (some (fun _ => s.me.xr f.a)))

/-- CSRS (R113). -/
def execCsrs (f : CsrOps) (s : State) : Out :=
  .next (s.csrAccess (.csrs f) f.csr.toNat (wordOf (.csrs f)) f.d (some (fun old => csrSetBits f.csr.toNat old (s.me.xr f.a))))

/-- CSRC (R113). -/
def execCsrc (f : CsrOps) (s : State) : Out :=
  .next (s.csrAccess (.csrc f) f.csr.toNat (wordOf (.csrc f)) f.d (some (fun old => csrClearBits f.csr.toNat old (s.me.xr f.a))))

end Sys2Proof.Machine
end

