-- ==== Sys2Proof/Machine/Queue.lean ====
section
/-!
DEFINITION. Machine/Queue.lean: the vector queue: enqueue checks (01_machine R10, R13, R26), convoys (03_encoding
R86-R88), completion of a member, convoy-precise traps and their queue image (20_faults R358-R365).

A member runs whole at its enqueue, before the scalar side goes on, or waits in the queue, undone, until GROUP_START
processes it group by group (Machine/Delivery.lean): the timing of R272-R274 decides, and `prompt` of State stands for it.
-/

namespace Sys2Proof.Machine

/-- Convoy classes (R87); MSWAP belongs to none. -/
inductive QClass where
  | memory
  | cross
  | int
  | fp
  | cmp
  | matrix
  | none
  deriving DecidableEq, Repr

/-- Members of a class that a convoy may hold (R87). -/
def QClass.limit : QClass → Nat
  | .int | .fp => 2
  | .none => 8
  | _ => 1

/-- The class of a queued word, by its major (R87). -/
def classOf (w : IWord) : QClass :=
  let m := (w.extractLsb' 25 6).toNat
  if 0x20 ≤ m ∧ m ≤ 0x2A then .memory
  else if m = 0x1B ∨ m = 0x1C then .cross
  else if m = 0x10 ∨ m = 0x11 ∨ m = 0x16 ∨ m = 0x1A then .int
  else if 0x12 ≤ m ∧ m ≤ 0x15 then .fp
  else if m = 0x18 ∨ m = 0x19 then .cmp
  else if 0x31 ≤ m ∧ m ≤ 0x35 then .matrix
  else .none

/-- Captured count and type of a length word (R12). -/
def QEntry.vl (e : QEntry) : Nat := (e.lw.extractLsb' 0 32).toNat
def QEntry.ty (e : QEntry) : BitVec 4 := e.lw.extractLsb' 32 4
/-- Restart row and element (R360). -/
def QEntry.row0 (e : QEntry) : Nat := e.restart / 2 ^ 13
def QEntry.elem0 (e : QEntry) : Nat := e.restart % 2 ^ 13
/-- The end of a whole member in the form of a restart index. -/
def wholeStop : Nat := 2 ^ 16
/-- The first element of row r at which the act under way ends. -/
def QEntry.till (e : QEntry) (r : Nat) : Nat := min e.vl (e.stop - r * 2 ^ 13)
/-- The hart as a matrix instruction reads its vector operands: as they stood at its drain point once its convoy has
drained (12_operand_delivery R272). -/
def QEntry.view (e : QEntry) (t : Hart) : Hart :=
  match e.snap with
  | none => t
  | some p => { t with v := p.v, m := p.m }
/-- A restart index as 16 bits (R360). -/
def restartOf (r i : Nat) : Nat := r * 2 ^ 13 + i

/-- The major and function fields of a word. -/
def majorOf (w : IWord) : Nat := (w.extractLsb' 25 6).toNat
def functOf (w : IWord) : Nat := (w.extractLsb' 0 4).toNat
/-- A vector-to-scalar word (05_vector R155). -/
def toScalar (w : IWord) : Bool :=
  decide (majorOf w = 0x1C) || decide (majorOf w = 0x1A ∧ (functOf w = 8 ∨ functOf w = 9)) ||
    decide (majorOf w = 0x1B ∧ functOf w = 5)

/-! ### The registers a member reads and writes (12_operand_delivery R274-R277) -/

/-- What a member reads or writes of a vector row, or of mask register n as row 32 + n: the row of the member it goes
with, the bits of an element, and whether all of it is used at once rather than group by group. -/
structure Use where
  reg : Nat
  row : Nat
  width : Nat
  whole : Bool
  deriving DecidableEq, Repr

/-- The rows of a group. -/
def rowUses (base n width : Nat) (whole : Bool) : List Use :=
  (List.range n).map fun r => ⟨(base + r) % 32, r, width, whole⟩
/-- The mask of a member of n rows: none with M = 0 (R72). -/
def maskUses (m n : Nat) (whole : Bool) : List Use :=
  if m = 0 then [] else (List.range n).map fun r => ⟨32 + m, r, 1, whole⟩
/-- Registers of an offset group (06_memory_isa R160). -/
def offsetRegs (ty : BitVec 4) : Nat :=
  match typeWidth ty with
  | 64 => 1
  | 32 => 2
  | 16 => 4
  | 8 => 8
  | _ => 16

/-- What a queued word reads and writes of the vector rows and mask registers, at the type of its length word. -/
def usesOf (w : IWord) (ty : BitVec 4) : List Use × List Use :=
  let d := (w.extractLsb' 20 5).toNat
  let a := (w.extractLsb' 15 5).toNat
  let b := (w.extractLsb' 10 5).toNat
  let g := 2 ^ (w.extractLsb' 6 2).toNat
  let m := (w.extractLsb' 4 2).toNat
  let wd := typeWidth ty
  let fn := functOf w
  match majorOf w with
  | 0x10 | 0x12 => (rowUses a g wd false ++ rowUses b g wd false ++ maskUses m g false, rowUses d g wd false)
  | 0x11 | 0x13 | 0x14 => (rowUses b g wd false ++ maskUses m g false, rowUses d g wd false)
  | 0x15 =>
    let src := if fn = 15 then 4 else typeWidth (BitVec.ofNat 4 fn)
    (rowUses b g src (decide (b = d ∧ src ≠ wd)) ++ maskUses m g false, rowUses d g wd false)
  | 0x16 =>
    if fn = 4 then ([], [])
    else (rowUses a (if fn = 2 then g else 0) wd false ++ rowUses b (if fn = 0 ∨ fn = 2 then g else 0) wd false ++
      maskUses m g false, rowUses d g wd false)
  | 0x18 => (rowUses a 1 wd false ++ rowUses b 1 wd false ++ maskUses m 1 false, maskUses (d % 8) 1 false)
  | 0x19 => (rowUses b 1 wd false ++ maskUses m 1 false, maskUses (d % 8) 1 false)
  | 0x1A =>
    (maskUses (a % 8) 1 false ++ maskUses (b % 8) 1 (decide (8 ≤ fn)),
      if toScalar w then [] else maskUses (d % 8) 1 false)
  | 0x1B =>
    (rowUses a (if fn = 2 then 1 else 0) wd true ++ rowUses (if fn = 6 then d else b) (if fn = 7 then g else 1) wd true ++
        maskUses m g (decide (fn = 3 ∨ fn = 4)),
      if fn = 5 then [] else rowUses d g wd false)
  | 0x1C => (rowUses b 1 wd true ++ maskUses m 1 true, [])
  | 0x20 | 0x21 | 0x23 => (maskUses m g true, rowUses d g wd false)
  | 0x22 => (maskUses m 1 true ++ rowUses b (offsetRegs ty) 64 true, rowUses d 1 wd false)
  | 0x24 | 0x25 | 0x27 => (maskUses m g true ++ rowUses d g wd false, [])
  | 0x26 => (maskUses m 1 true ++ rowUses b (offsetRegs ty) 64 true ++ rowUses d 1 wd false, [])
  | 0x28 | 0x29 | 0x2A =>
    (maskUses m 1 true ++ rowUses b (offsetRegs ty) 64 true ++ rowUses d 2 wd true, rowUses d 2 wd true)
  | 0x32 => (rowUses d g wd false ++ maskUses m g false, [])
  | 0x33 => (rowUses d 1 wd false ++ rowUses b 1 wd true ++ maskUses m 1 false, [])
  | 0x35 =>
    if fn = 0 then (maskUses m g false, rowUses d g wd false)
    else if fn = 1 then (rowUses d g wd false ++ maskUses m g false, [])
    else if fn = 4 then ([], rowUses d 2 wd true)
    else if fn = 5 then (rowUses d 2 wd true, [])
    else ([], [])
  | _ => ([], [])

def QEntry.reads (e : QEntry) : List Use := (usesOf e.word e.ty).1
def QEntry.writes (e : QEntry) : List Use := (usesOf e.word e.ty).2
/-- The bits of a register that a member has used once it stands at element (r, i). -/
def QEntry.usedBits (e : QEntry) (u : Use) (r i : Nat) : Nat :=
  if u.whole then 32768 else if u.row < r then u.width * e.vl else if u.row = r then min (u.width * i) (u.width * e.vl) else 0
/-- A move between vector and accumulator rows goes row by row. -/
def movesRows (w : IWord) : Bool := decide (majorOf w = 0x35 ∧ functOf w ≤ 1)
/-- The element before which a member at a restart index stands: MSTR and the moves of rows by whole rows, MOP by the elements of
its first operand (R360; 07_matrix_isa R219, R223). -/
def QEntry.at (e : QEntry) (p : Nat) : Nat × Nat :=
  if wholeStop ≤ p then (8, 0)
  else if majorOf e.word = 0x32 ∨ movesRows e.word then (p, 0)
  else if majorOf e.word = 0x33 then (0, p)
  else if classOf e.word = .matrix then (0, 0)
  else (p / 2 ^ 13, p % 2 ^ 13)
/-- An outstanding non-blocking operation has a group of a row still to land. -/
def NbOp.brings (o : NbOp) (row g : Nat) : Bool :=
  !o.held && o.rows.any fun r => decide (r.row % 32 = row) && r.groups.getLsbD g
/-- The rows that a member reads or writes up to (r, i) have landed: the groups that hold any of those bits (R171,
R275). -/
def Hart.landed (t : Hart) (e : QEntry) (r i : Nat) : Bool :=
  t.nb.isEmpty || (e.reads ++ e.writes).all fun u =>
    let n := e.usedBits u r i
    decide (32 ≤ u.reg) || (List.range ((n + 511) / 512)).all fun g => !t.nb.any fun o => o.brings u.reg g

/-- What running a queued member, or the part of it up to its `stop`, gives: its effect and flags; a fault with what it has
committed, the flags of that, and the restart index; an access that waits, its requests sent; or all of its effect but the
answers that other devices owe, which an outstanding operation of counter 0 awaits. -/
inductive VOut where
  | done (s : State) (f : Flags)
  | fault (s : State) (cause : Byte) (tval : Word) (restart : Nat) (f : Flags)
  | wait (s : State) (va : Word)
  | later (s : State)

/-- A queued instruction: what its enqueue captures and checks, and what it does. -/
structure Queued where
  word : IWord
  /-- the L field; `none` where no length word is read -/
  len : Option (BitVec 2)
  x1 : Option (BitVec 5)
  x2 : Option (BitVec 5)
  x3 : Option (BitVec 5)
  /-- largest COUNT of a type on the hart (third check of R13) -/
  bound : Hart → BitVec 4 → Nat
  /-- accepted types (fourth check of R13) -/
  types : BitVec 4 → Bool
  /-- RM 5 to 7 traps (R26) -/
  rm : Bool
  /-- the counter of a non-blocking operation, 0 when blocking (R169) -/
  ctr : Nat
  /-- checks after those of R13 -/
  check : State → QEntry → Option Stop
  /-- what else is captured at enqueue -/
  fixes : State → QEntry → QEntry := fun _ e => e
  /-- the checks of its accesses, made once, before its first act (06_memory_isa R162) -/
  place : State → QEntry → Option Placing := fun _ _ => none
  act : State → QEntry → VOut

/-- VLMAX on the hart's share (R14). -/
def shareBound (t : Hart) (ty : BitVec 4) : Nat := vlmaxOf t.k ty

/-- Entries of the queue that keep their places as a word is enqueued: a drained convoy gives way to the one that
begins (12_operand_delivery R272). -/
def Hart.entriesBefore (t : Hart) (first : Bool) : List QEntry := if first && t.drained then [] else t.queue

/-- Members of the open convoy, MSWAPs aside. -/
def Hart.openMembers (t : Hart) : List QEntry :=
  let rec last : List QEntry → List QEntry → List QEntry
    | acc, [] => acc.reverse
    | acc, e :: rest => if e.first then last [e] rest else last (e :: acc) rest
  ((last [] t.queue).filter fun e => classOf e.word ≠ .none)

/-- A word that joins the open convoy keeps within R87. -/
def convoyRoom (members : List QEntry) (w : IWord) : Bool :=
  decide (members.length < 8) &&
    decide ((members.filter fun e => classOf e.word = classOf w).length < (classOf w).limit)

/-- The word begins a convoy: its B bit is 1, or no convoy is open (R86). -/
def Hart.begins (t : Hart) (w : IWord) : Bool := w.getLsbD 31 || !t.convoyOpen

/-- What is captured at enqueue (R13, R25). -/
def Queued.capture (q : Queued) (t : Hart) (pc : Word) : QEntry where
  first := t.begins q.word
  word := q.word
  pc := pc
  xs1 := (q.x1.map t.xr).getD 0
  xs2 := (q.x2.map t.xr).getD 0
  xs3 := (q.x3.map t.xr).getD 0
  lw := (q.len.map fun l => t.xr (28 + l.setWidth 5)).getD 0
  vfill := t.vfill
  rm := t.rm
  issue := if q.ctr = 0 then 0 else (t.ctr q.ctr).issued + 1
  nb := q.ctr ≠ 0
  started := false
  done := false
  restart := 0
  stop := wholeStop
  flags := 0
  snap := none
  placed := none
  book := none

/-- Length-word checks (second and third of R13). -/
def Queued.lengthCheck (q : Queued) (t : Hart) (e : QEntry) : Option Byte :=
  match q.len with
  | none => none
  | some _ =>
    if e.lw.extractLsb' 36 28 ≠ 0 then some causeLenword
    else if e.vl > q.bound t e.ty then some causeVlen
    else none

/-- Type and rounding-mode checks (fourth of R13, R26). -/
def Queued.typeCheck (q : Queued) (e : QEntry) : Bool :=
  (q.len.isNone || q.types e.ty) && !(q.rm && decide (5 ≤ e.rm.toNat))

/-- The enqueue checks after encoding, in R13's order: the trap of the first that fails. -/
def Queued.enqueueCheck (q : Queued) (s : State) (e : QEntry) : Option Stop :=
  let t := s.me
  let tv := tvalWord q.word
  if t.k = 0 then some (.trap causeVlen tv)
  else if t.laneLost then some (.trap causeLaneoff ((s.retired (coreOf s.cur)).setWidth 64))
  else if !e.first && !convoyRoom t.openMembers q.word then some (.trap causeConvoy tv)
  else
    match q.lengthCheck t e with
    | some c => some (.trap c tv)
    | none => if q.typeCheck e then q.check s e else some (.trap causeIllegal tv)

/-! ### The queue image (R361, R362) -/

/-- An image entry's eight doublewords (R362). -/
def QEntry.image (e : QEntry) : List Word :=
  [e.word.setWidth 64 ||| BitVec.ofNat 64 (2 ^ 32 + (if e.started then 2 ^ 33 else 0) +
      (if e.done then 2 ^ 34 else 0) + (if e.nb then 2 ^ 35 else 0) + e.rm.toNat * 2 ^ 36 +
      e.restart % 2 ^ 16 * 2 ^ 40),
    e.pc, e.xs1, e.xs2, e.lw, e.vfill, e.issue, e.xs3]

/-- Doublewords written from a global address. -/
def State.writeWords (s : State) (ga : Nat) : List Word → State
  | [] => s
  | w :: t => State.writeWords (s.writeGa ga 8 w.toNat) (ga + 8) t

/-- Header and entries of an image (R362); `valid` is the header's V. -/
def imageWords (es : List QEntry) : List Word :=
  BitVec.ofNat 64 (es.length + 256) :: List.replicate 7 0#64 ++
    (es.map QEntry.image).flatten ++ List.replicate (8 * (32 - es.length)) 0#64

/-- The image can be written: its range's die is in service and no line of it is poisoned (R362). -/
def State.imageWritable (s : State) (ga : Nat) : Bool :=
  (List.range 33).all fun i => !(s.die (s.homeDie (ga + 64 * i))).out && !s.poisoned (ga + 64 * i)

/-- Restart indices of four convoy members (R361). -/
def cposWord (ms : List QEntry) : Word :=
  ms.foldr (fun e w => (w <<< 16) ||| (if e.done then 0 else BitVec.ofNat 64 (e.restart % 2 ^ 16))) 0

/-- An entry that is never looked at: what a place beyond a queue's end reads as. -/
def QEntry.vacant : QEntry := ⟨false, 0, 0, 0, 0, 0, 0, 0, 0, 0, false, false, true, 0, wholeStop, 0, none,
  none, none⟩
/-- CFAULT (R361): the position of the member that faulted among the convoy's, whose first member has an entry of the image. -/
def cfaultWord (ms : List QEntry) (pos entry : Nat) : Word :=
  let dn := (List.range ms.length).foldl
    (fun n m => n + (if ((ms.getD m QEntry.vacant).done) then 2 ^ m else 0)) 0
  BitVec.ofNat 64 (entry % 32 + pos % 8 * 2 ^ 5 + dn % 256 * 2 ^ 8 + (ms.length - 1) % 8 * 2 ^ 16 +
    (ms.getD pos QEntry.vacant).restart % 2 ^ 16 * 2 ^ 32)

/-- The entries from the first member of the convoy that holds entry n on, and how many come before them. -/
def fromConvoy (q : List QEntry) (n : Nat) : Nat :=
  (List.range (n + 1)).foldl (fun b i => if (q[i]?.map (·.first)).getD false then i else b) 0

/-- The members of the convoy that a list of entries begins with. -/
def leadConvoy : List QEntry → List QEntry
  | [] => []
  | e :: t => e :: t.takeWhile fun x => !x.first

/-- A repeat frame that is stopped leaves in REPPOS the first replay not fully enqueued (03_encoding R91); one that still
waits for the sequencer buffer has enqueued none and leaves REPPOS as it stands. -/
def Hart.markReplay (t : Hart) : Hart :=
  match t.rep with
  | some r => if r.captured then t.setCsr 0x008 (BitVec.ofNat 64 (r.replay + 64)) else t
  | none => t

/-- Entries of the queue that belong to a replay not fully enqueued: REPPOS enqueues it again (R91). -/
def Hart.partReplay (t : Hart) : Nat := (t.rep.map fun r => if r.captured then r.pos else 0).getD 0
/-- A non-blocking operation that is outstanding; one that was held for its reissue gives way. -/
def Hart.addNb (t : Hart) (o : NbOp) : Hart :=
  { t with
    nb := (t.nb.filter fun x => !(decide (x.ctr = o.ctr ∧ x.num = o.num))) ++ [o]
    away := o.rows.foldl (fun a r => Sparse.modify 0 a r.row (· ||| r.groups)) t.away }
/-- An outstanding operation of rows and bytes that no other device answers for. -/
def nbPlain (ctr : Nat) (num : Word) (rows : List NbRow) (bytes : List PendByte) (fl : Flags) (held : Bool) : NbOp :=
  ⟨ctr, num, rows, bytes, fl, false, [], [], [], held, 0⟩
/-- A non-blocking member that goes into the queue image is outstanding until its reissue has completed (06_memory_isa R169;
20_faults R363). -/
def Hart.holdNb (t : Hart) (e : QEntry) : Hart :=
  if e.nb && !e.done then t.addNb (nbPlain (e.word.extractLsb' 1 3).toNat e.issue [] [] 0 true) else t
/-- A vector store or atomic that has not completed. -/
def QEntry.stores (e : QEntry) : Bool := !e.done && decide (0x24 ≤ majorOf e.word ∧ majorOf e.word ≤ 0x2A)
/-- Stores that go to the image of a vector trap come before the commands that the hart has issued (06_memory_isa R193, R200). -/
def State.barCtxs (s : State) (es : List QEntry) : State :=
  if es.any QEntry.stores then
    (s.me.ctxs.filter fun c => c.2.bound).foldl (fun (s : State) c => s.setCtx c.2.key { s.ctx c.2.key with barrier := c.2.issued }) s
  else s
/-- A convoy-precise trap of the executing hart: of what is in its tile queue (`pre`) and its vector queue, entry n faulted
(R358, R362, R364). The image holds the faulting convoy and what follows it; where a member of the tile queue faulted, all that the
tile queue holds. Requests of the convoy's loads that are not answered are dropped, and so are the words of a replay that is not
fully enqueued. -/
def State.vectorFaultIn (s : State) (pre : List QEntry) (n : Nat) (cause : Byte) (tval : Word) (restart : Nat) : State :=
  let s := s.withMe fun t => { t.dropAsks 1 with
    tile := if pre.isEmpty then t.tile else []
    qstalled := none
    laneDue := false }
  let t := s.me
  let all := (pre ++ t.queue).mapIdx fun i e => if i = n then { e with started := true, restart := restart } else e
  let fl := (all.filter fun e => !e.done).foldl (fun f e => f ||| e.flags) 0
  let c := fromConvoy all n
  let b := if pre.isEmpty then c else 0
  let es := (all.take (all.length - t.partReplay)).drop b
  let lead := leadConvoy (all.drop c)
  let ms := lead.filter fun e => classOf e.word ≠ .none
  let pos := ((lead.take (n - c)).filter fun e => classOf e.word ≠ .none).length
  let s := s.withMe fun t => es.foldl Hart.holdNb t
  let img := (t.csrv 0x105).toNat
  if t.vrf || !s.imageWritable img then
    s.withMe fun t => { t.markReplay with
      queue := es
      pflags := fl
      run := .stopped cause true
      rep := none }
  else
    let s := (s.writeWords img (imageWords es)).barCtxs es
    s.withMe fun t =>
      let t := ((t.setCsr 0x002 (cposWord (ms.take 4))).setCsr 0x003 (cposWord (ms.drop 4))).setCsr 0x004
        (cfaultWord ms pos (c - b))
      let t := match ms.find? fun e => decide (classOf e.word = .matrix) && e.started && !e.done with
        | some e => t.setCsr 0x007 (BitVec.ofNat 64 e.restart)
        | none => t
      let t := t.markReplay.enterTrap cause false tval t.pc
      { t.setCsr 0x104 (t.csrv 0x104 ||| 0x10) with queue := [], pflags := fl }
/-- The same for entry n of the vector queue. -/
def State.vectorFault (s : State) (n : Nat) (cause : Byte) (tval : Word) (restart : Nat) : State :=
  s.vectorFaultIn [] n cause tval restart

/-! ### Running a member -/

/-- Flags accrued at completion, with those of the part performed before: in FCSR and STICKY, and in the matrix status
for a matrix instruction (R25, R138; 07_matrix_isa R224). -/
def Hart.complete (t : Hart) (e : QEntry) (f : Flags) : Hart :=
  let t' := t.accrue (e.flags ||| f)
  if classOf e.word = .matrix then
    { t' with matrix := t'.matrix.map fun m => { m with flags := m.flags ||| e.flags ||| f } }
  else t'

/-- An entry of the queue replaced. -/
def Hart.setEntry (t : Hart) (n : Nat) (g : QEntry → QEntry) : Hart :=
  { t with queue := t.queue.mapIdx fun i x => if i = n then g x else x }
/-- MOP and MACC stop only as whole instructions (07_matrix_isa R222; 20_faults R367). -/
def wholeGrain (w : IWord) : Bool := decide (majorOf w = 0x33) || decide (majorOf w = 0x35)
/-- A member that stops only as a whole has started and is not complete. -/
def QEntry.midway (e : QEntry) : Bool := wholeGrain e.word && e.started && !e.done
/-- A fault of a hart's queue waits: an access of the scalar side or an atomic of the queue awaits an answer of another
device (R358), a member that stops only as a whole is under way, or a granule of the image's range is being zeroed (21_service
R383). -/
def State.faultWaits (s : State) (h : Nat) : Bool :=
  let t := s.hart h
  let img := (t.csrv 0x105).toNat
  t.launching.isSome || t.asks.any (fun a => a.own = 0) || t.nb.any (fun o => o.ctr = 0) || (t.tile ++ t.queue).any QEntry.midway ||
    (!t.vrf && s.imageWritable img && (List.range 33).any fun i => s.mustWait (img + 64 * i))
/-- Entry n belongs to a replay that is not fully enqueued, which comes first (03_encoding R91); not where the replay's next word
waits for a result of a member behind the entry, which no order of the two could give (DESIGN CHOICE, log entry 56). -/
def Hart.replayFirst (t : Hart) (n : Nat) : Bool :=
  decide (t.partReplay ≠ 0) && decide (t.queue.length - t.partReplay ≤ n) &&
    !((t.rep.map (·.blocked)).getD []).any fun r => (t.queue.drop (n + 1)).any fun e =>
      toScalar e.word && !e.done && decide (e.word.extractLsb' 20 5 = r)
/-- A check that could not be made now: what it reads of a table cannot be read (21_service R383, R384). -/
def Placing.waits (p : Placing) : Bool := p.bad.any fun b => decide (b.2.1 = waitMark)
/-- Entry n of the executing hart's queue runs to an element or to its end: it completes, moves on, faults or waits. A fault
takes effect once no earlier access of the hart awaits an answer of another device. -/
def State.runEntry (s : State) (n : Nat) (e : QEntry) (stop : Nat) (q : Queued) : State :=
  let placed := e.placed.or (q.place s e)
  if placed.any Placing.waits then s.withMe fun t => { t with qstalled := (placed.bind (·.bad)).map (·.2.2) }
  else
  let s := s.withMe fun t => t.setEntry n fun x => { x with placed := placed }
  match q.act s { e with stop := stop, placed := placed } with
  | .done s' f =>
    s'.withMe fun t =>
      if stop = wholeStop then (t.complete e f).setEntry n fun x => { x with started := true, done := true, placed := none }
      else t.setEntry n fun x => { x with started := true, restart := stop, flags := x.flags ||| f }
  | .fault s' c v r f =>
    if s.faultWaits s.cur || s.me.replayFirst n then s
    else (s'.withMe fun t => t.setEntry n fun x => { x with flags := x.flags ||| f }).vectorFault n c v r
  | .wait s' va => s'.withMe fun t => { t with qstalled := some va }
  | .later s' => s'.withMe fun t => t.setEntry n fun x => { x with started := true, restart := wholeStop }

/-- Entries of a vector queue (01_machine R9). -/
def queueSize : Nat := 32
/-- Instructions past their drain points that a tile queue holds (R272). -/
def tileSize : Nat := 8
/-- A matrix member that passes its drain point before it completes (R272): MSTR, MOP and the MACC writes once their
vector operands are read, the scans and the other moves as they enter the tile queue; and MSWAP. -/
def drainsEarly (w : IWord) : Bool :=
  match majorOf w with
  | 0x32 | 0x33 | 0x34 => true
  | 0x35 => [1, 2, 3, 5].contains (functOf w)
  | _ => decide (classOf w = .none)
/-- An earlier member has not written, or not read, the bits of a row or mask that a later one uses, up to an element; a mask is no
longer needed once the elements that it selects have been placed. -/
def QEntry.holdsUse (p : QEntry) (mine : List Use) (u : Use) (n : Nat) : Bool :=
  !p.done && mine.any fun w =>
    decide (w.reg = u.reg) &&
      (let total := if w.whole then 32768 else w.width * p.vl
       let passed := if w.whole then
          (if p.restart = wholeStop ∨ (32 ≤ w.reg ∧ p.placed.isSome) then 32768 else 0)
        else p.usedBits w (p.at p.restart).1 (p.at p.restart).2
       decide (passed < min n total))
/-- The registers that a member uses up to an element are ready: earlier members of the convoy have written those it reads
or writes, and have read those it writes (R88, R274), and rows being loaded have landed (R275). -/
def Hart.operandsReady (t : Hart) (earlier : List QEntry) (e : QEntry) (stop : Nat) : Bool :=
  let x := e.at stop
  t.landed e x.1 x.2 && earlier.all fun p =>
    ((e.reads ++ e.writes).all fun u => !p.holdsUse p.writes u (e.usedBits u x.1 x.2)) &&
      e.writes.all fun u => !p.holdsUse p.reads u (e.usedBits u x.1 x.2)
/-- The mask that selects a member's elements up to an element is ready: all that a group which it skips waits for (R276). -/
def Hart.maskReady (_ : Hart) (earlier : List QEntry) (e : QEntry) (stop : Nat) : Bool :=
  let x := e.at stop
  earlier.all fun p => (e.reads.filter fun u => decide (32 ≤ u.reg)).all fun u =>
    !p.holdsUse p.writes u (e.usedBits u x.1 x.2)
/-- A matrix member has read its last vector operand, or may now read it: its drain point (R272). -/
def Hart.drainPoint (t : Hart) (lead : List QEntry) (e : QEntry) : Bool :=
  drainsEarly e.word && t.operandsReady (lead.takeWhile fun p => p ≠ e) e wholeStop
/-- The leading convoy of a queue is drained (R272): another follows it or none is open, its members have completed or
passed their drain points, and the tile queue holds what is left of it. -/
def Hart.drains (t : Hart) : Bool :=
  let lead := leadConvoy t.queue
  let late := lead.filter fun e => !e.done
  !lead.isEmpty && (decide (lead.length < t.queue.length) || !t.convoyOpen) &&
    (late.isEmpty || (decide (t.tile.length + late.length ≤ tileSize) && late.all (t.drainPoint lead)))
/-- A drained convoy leaves the queue. -/
def Hart.dropDrained (t : Hart) : Hart :=
  if t.drains then
    let lead := leadConvoy t.queue
    { t with
      queue := t.queue.drop lead.length
      tile := t.tile ++ (lead.filter fun e => !e.done).map fun e => { e with snap := some (e.snap.getD ⟨t.v, t.m⟩) } }
  else t

/-- A matrix word: of the matrix class, or MSWAP. -/
def isMatrixWord (w : IWord) : Bool := decide (classOf w = .matrix) || decide (classOf w = .none)
/-- Every earlier matrix instruction and MSWAP of the hart has completed. -/
def Hart.matrixIdle (t : Hart) : Bool := t.tile.isEmpty && t.undone.all fun e => !isMatrixWord e.word
/-- No hart of a core has matrix work that is not complete: a matrix member waits for no unit (R280). -/
def State.unitsFree (s : State) : Bool := (coreSlots (coreOf s.cur)).all fun h => (s.hart h).matrixIdle
/-- A member may run whole at its enqueue: the free choice of `prompt`, with nothing before it to wait for, its rows landed,
no storage of the hart lost, and for a matrix member the units of its core free. -/
def State.runsNow (s : State) (e : QEntry) : Bool :=
  s.prompt && s.me.drained && !s.portHeld s.cur && s.me.landed e 8 0 && s.me.lost.isEmpty && (!isMatrixWord e.word || s.unitsFree)

/-- The vector queue is full: no instruction of the hart issues (R270). -/
def Hart.queueFull (t : Hart) : Bool := decide (queueSize ≤ (t.entriesBefore true).length)
/-- An MSWAP that has taken effect leaves its entry. -/
def Hart.dropSwaps (t : Hart) : Hart :=
  { t with queue := t.queue.filter fun e => !(e.done && decide (classOf e.word = .none)) }
/-- Admission of a checked member: a new convoy drops a drained one; the issued count rises; with `run` the member
runs. -/
def State.enter (s : State) (q : Queued) (e : QEntry) (run : Bool) : State :=
  let t := s.me
  let keep := t.entriesBefore e.first
  let s := s.withMe fun t =>
    let t := { t with queue := keep ++ [e], convoyOpen := true }
    if q.ctr = 0 then t else t.setCtr q.ctr { t.ctr q.ctr with issued := e.issue }
  if run then s.runEntry keep.length e wholeStop q else s

/-- A queued instruction at the pc (R13, R98): its checks, then its enqueue; the scalar side goes on. A member that runs
at once and meets an access that must wait is enqueued and waits in the queue; a full queue leaves everything as it is
(R270). -/
def State.enqueue (s : State) (q : Queued) : State :=
  let e := q.fixes s (q.capture s.me s.me.pc)
  match q.enqueueCheck s e with
  | some x => s.halt x
  | none =>
    if queueSize ≤ (s.me.entriesBefore e.first).length then s
    else
      (s.withMe Hart.advance).enter q e (s.runsNow e)

/-! ### The element sweep (05_vector R132-R134) -/

/-- Rows r, r + 1, ... of a tile swept, each from its first element not yet committed to the element `till` gives. -/
def sweepRows (k : Nat) (ty : BitVec 4) (till : Nat → Nat) (active : Nat → Bool) (d r0 i0 : Nat)
    (f : Nat → Nat → Nat × Flags) : Nat → Nat → Hart × Flags → Hart × Flags
  | 0, _, acc => acc
  | n + 1, r, (t, fl) =>
    if r < r0 then sweepRows k ty till active d r0 i0 f n (r + 1) (t, fl)
    else
      let o := sweepTo k ty (till r) (if r = r0 then i0 else 0) active (f r) (t.vr (d + r))
      sweepRows k ty till active d r0 i0 f n (r + 1) (t.setV (d + r) o.1, fl ||| o.2)

/-- The element sweep of a member: every source is read before any destination is written (R134). -/
def State.sweep (s : State) (e : QEntry) (g m : BitVec 2) (d : BitVec 5) (f : Nat → Nat → Nat × Flags) : VOut :=
  let t := s.me
  let mask := t.maskOf m
  let o := sweepRows t.k e.ty e.till (fun i => mask.testBit i) d.toNat e.row0 e.elem0 f (groupRows g) 0 (t, 0)
  .done (s.withMe fun _ => o.1) o.2

/-- Element i of row r of the group at a register, at the length word's width. -/
def Hart.elem (t : Hart) (e : QEntry) (b : BitVec 5) (r i : Nat) : Nat :=
  rowElem (typeWidth e.ty) (t.vr (b.toNat + r)).toNat i

/-- A captured scalar at the element width (R133). -/
def QEntry.x1w (e : QEntry) : Nat := e.xs1.toNat % 2 ^ typeWidth e.ty

/-- What every plain vector instruction shares: no captured third operand, VLMAX as its bound. -/
def plainQueued (w : IWord) (l : BitVec 2) (types : BitVec 4 → Bool) (rm : Bool) (act : State → QEntry → VOut) :
    Queued :=
  { word := w, len := some l, x1 := none, x2 := none, x3 := none, bound := shareBound, types := types, rm := rm, ctr := 0
    check := fun _ _ => none, act := act }

end Sys2Proof.Machine
end

