-- ==== Sys2Proof/Machine/VMem.lean ====
section
/-!
DEFINITION. Machine/VMem.lean: vector loads and stores and vector atomics (06_memory_isa R158-R176, 02_numbers
R52-R54, 09_address R243).
-/

namespace Sys2Proof.Machine

/-- What a vector memory instruction asks of its elements. -/
structure MemPlan where
  need : Need
  store : Bool
  /-- the leaf that fixed the memory width (R159), for all but the indexed forms -/
  base : Option Page
  ty : BitVec 4
  /-- VLD and VSD: the die that each row goes to (R161) -/
  spread : Option (Nat → Nat)
  /-- a nonzero bit offset that the width does not allow (R159) -/
  badBit : Bool
  /-- atomics: the alignment, and whether host memory is refused (R174) -/
  atomic : Option (Nat × Bool)

/-- Memory width of a page for a type (R159). -/
def memWidth (pg : Page) (ty : BitVec 4) : Nat := if pg.fmt = 0 then typeWidth ty else typeWidth pg.fmt

/-- The C4 rules (R54) and the atomics' rule (R174) at a page. -/
def MemPlan.mixed (p : MemPlan) (pg : Page) : Bool :=
  (match p.base with
    | some b => decide (pg.attr ≠ b.attr)
    | none => false) ||
  (p.atomic.isSome && pg.fmt ≠ 0) ||
  (p.store && p.atomic.isNone && pg.fmt = tyC4 && p.ty ≠ tyC4) ||
  (p.atomic.isNone && p.ty = tyC4 && pg.fmt ≠ 0 && pg.fmt ≠ tyC4)

/-- The location of a byte, on the row's die for VLD and VSD (R161). -/
def State.placeByte (s : State) (pt : Party) (p : MemPlan) (r : Nat) (pg : Page) (va : Word) : Loc :=
  let ga := match p.spread with
    | none => pg.ga va.toNat
    | some d => let g := pg.ga va.toNat; if gaHost g then g else mkGa (gaChip g) (d r) (gaKind g) (gaOff g)
  ⟨ga, pg.rwin && s.remote pt.die ga⟩

/-- The first check that a byte of an element fails, by its place in R162's order, with its cause; `first` is the page of the
element's first byte. -/
def State.elemFault (s : State) (pt : Party) (p : MemPlan) (r : Nat) (first : Page) (va : Word) : Option (Nat × Byte) :=
  match (s.walkMeets pt va).map (·.2), s.pageOf pt va with
  | some c, _ => some (0, c)
  | none, none => some (1, causePage)
  | none, some pg =>
    let l := s.placeByte pt p r pg va
    let badKind := (p.spread.isSome && (gaHost l.ga || !([0, 2, 4].contains (gaKind l.ga)))) ||
      (match p.atomic with
        | some (_, noHost) => noHost && gaHost l.ga
        | none => false)
    match s.locFault pt p.need true pg l.ga with
    | some (1, c) => some (1, c)
    | o =>
      if badKind then some (2, causePerm)
      else if o.isSome then o
      else if p.spread.isSome && decide (gaChip l.ga = s.chip) && !s.liveDie (gaDie l.ga) then some (4, causePeerdown)
      else if p.mixed pg || decide (first.attr ≠ pg.attr) then some (5, causeFmtmix)
      else none

/-- An element checked in full (R162): each check over all its bytes before the next. -/
def State.checkElem (s : State) (pt : Party) (p : MemPlan) (el : Elem) : Except (Byte × Word) Placed :=
  let va := BitVec.ofNat 64 (el.bit / 8)
  match (s.walkMeets pt va).map (·.2), s.pageOf pt va with
  | some c, _ => .error (c, va)
  | none, none => .error (causePage, va)
  | none, some pg =>
    let wm := memWidth (p.base.getD pg) p.ty
    let vas := (List.range ((el.bit % 8 + wm + 7) / 8)).map fun i => va + BitVec.ofNat 64 i
    let faults := vas.filterMap fun v => (s.elemFault pt p el.r pg v).map fun x => (x.1, x.2, v)
    let rank := (faults.map (·.1)).foldl min 9
    match faults.find? fun x => x.1 = rank with
    | some x => .error (x.2.1, x.2.2)
    | none =>
      let misaligned := match p.atomic with
        | some (a, _) => decide (va.toNat % a ≠ 0)
        | none => false
      if p.badBit || misaligned then .error (causeAlign, va)
      else .ok ⟨el, vas.map fun v => s.placeByte pt p el.r ((s.pageOf pt v).getD pg) v, el.bit % 8, wm, pg⟩

/-- Elements checked in order up to the first that faults: those placed, and the fault. -/
def State.checkElems (s : State) (pt : Party) (p : MemPlan) : List Elem → List Placed × Option (Elem × Byte × Word)
  | [] => ([], none)
  | el :: t =>
    match s.checkElem pt p el with
    | .error e => ([], some (el, e.1, e.2))
    | .ok x =>
      let r := State.checkElems s pt p t
      (x :: r.1, r.2)

/-- The active elements of a tile from a restart index on, in (r, i) order, with their bit addresses modulo 2^67. -/
def tileElems (mask : Nat) (vl r0 i0 rows : Nat) (skip : Nat → Bool) (bit : Nat → Nat → Int) : List Elem :=
  ((List.range rows).filter fun r => decide (r0 ≤ r) && !skip r).flatMap fun r =>
    ((List.range vl).filter fun i => mask.testBit i && (decide (r ≠ r0) || decide (i0 ≤ i))).map fun i =>
      ⟨r, i, (bit r i % (2 ^ 67 : Int)).toNat⟩

/-- The poisoned line that an access of placed elements meets first; lines that a store writes whole are cleared
instead (21_service R377). -/
def State.eccPlaced (s : State) (whole : List Nat) (ps : List Placed) : Option (Elem × Word) :=
  ps.findSome? fun p =>
    (p.locs.findIdx? fun l => s.poisoned l.ga && !whole.contains (s.canon l.ga / 64)).map fun i =>
      (p.el, BitVec.ofNat 64 (p.el.bit / 8 + i))

/-- The first placed byte that must wait for its die or its granule (21_service R383, R384), by its virtual address. -/
def State.placedWait (s : State) (ps : List Placed) : Option Word :=
  ps.findSome? fun p => (p.locs.findIdx? fun l => s.mustWait l.ga).map fun i => BitVec.ofNat 64 (p.el.bit / 8 + i)
/-- What an instruction's one check finds (R162; 09_address R243, R246): `early` is a fault of the base translation, reported
at the first active element (R159). -/
def State.placing (s : State) (e : QEntry) (plan : MemPlan) (early : Option (Byte × Word)) (els : List Elem) : Placing :=
  match els, early with
  | el :: _, some (c, v) => ⟨e.restart, [], some (el, c, v), none⟩
  | _, _ =>
    let chk := s.checkElems (s.party s.cur) plan els
    ⟨e.restart, chk.1, chk.2, none⟩
/-- The same where nothing may be performed if a line is poisoned: of a store that does not write it whole, an atomic or an MLS
(R163, R174; 07_matrix_isa R214; 21_service R379). -/
def State.placingWhole (s : State) (e : QEntry) (plan : MemPlan) (early : Option (Byte × Word)) (els : List Elem)
    (whole : List Placed → List Nat) : Placing :=
  let p := s.placing e plan early els
  match p.bad with
  | some _ => p
  | none => { p with bad := (s.eccPlaced (whole p.els) p.els).map fun x => (x.1, causeEcc, x.2) }
/-- What the one check found, and its elements that belong to the act under way. -/
def QEntry.checked (e : QEntry) : Placing := e.placed.getD ⟨0, [], none, none⟩
def QEntry.within (e : QEntry) (el : Elem) : Bool :=
  decide (e.restart ≤ restartOf el.r el.i ∧ restartOf el.r el.i < e.stop)
def QEntry.now (e : QEntry) : List Placed := e.checked.els.filter fun p => e.within p.el
/-- The fault that the act under way comes to. -/
def QEntry.comes (e : QEntry) : Option (Elem × Byte × Word) := e.checked.bad.filter fun b => e.within b.1
/-- UNIT of an error at an element (21_service R378). -/
def placedUnit (ps : List Placed) (el : Elem) : Nat :=
  errorUnit ((((ps.find? fun p => p.el = el).bind fun p => p.locs.head?).map (·.ga)).getD 0)

/-! ### Loads (R158-R168) -/

/-- The register value of a placed element (R53, R243), its bytes at their homes or as answers give them. -/
def State.loadPlacedWith (s : State) (far : Nat → Option Byte) (t : Hart) (e : QEntry) (p : Placed) : Nat × Flags :=
  let raw :=
    if p.locs.any fun l => (s.farDev l.ga).isSome && (far l.ga).isNone then e.vfill.toNat % 2 ^ p.wm
    else s.loadAtWith far s.winKey p.locs / 2 ^ p.off % 2 ^ p.wm
  if p.pg.fmt = 0 then (raw, Flags.none)
  else loadElem (t.cbr p.pg.cb.toNat) p.pg.fmt p.pg.pscale e.ty raw
/-- The same where no other device's answer is awaited. -/
def State.loadPlaced (s : State) (t : Hart) (e : QEntry) (p : Placed) : Nat × Flags :=
  s.loadPlacedWith (fun _ => none) t e p

/-- Every failed device that placed elements reach is marked and counted for the next release (R178, R243). -/
def State.markFailed (s : State) (ps : List Placed) : State :=
  ((ps.flatMap fun p => p.locs.filterMap fun l => s.failedHome l.ga).dedup).foldl (fun s c => s.peerLost s.cur c) s
/-- A placed element of which another device that answers holds a byte: its value comes with the answer. -/
def State.awaits (s : State) (p : Placed) : Bool :=
  p.locs.any fun l => (s.farDev l.ga).isSome && (s.failedHome l.ga).isNone

/-- Values put into the destination rows, F6 pad bits cleared in each row written (R15, R166). -/
def putElems (k : Nat) (ty : BitVec 4) (d : Nat) (t : Hart) (xs : List (Elem × Nat)) : Hart :=
  xs.foldl (fun t x =>
    let r := setElem (typeWidth ty) (t.vr (d + x.1.r)).toNat x.1.i x.2
    t.setV (d + x.1.r) (BitVec.ofNat 32768 (if ty = tyF6 then clearPad k r else r))) t

/-- The bits of a row that elements of it occupy. -/
def elemBits (w : Nat) (is : List Nat) : Nat := is.foldl (fun b i => b ||| ((2 ^ w - 1) * 2 ^ (w * i))) 0
/-- The element groups that hold any of a row's bits (R16, R17). -/
def bitGroups (b : Nat) : BitVec 64 :=
  (List.range 64).foldl (fun g j => if b / 2 ^ (512 * j) % 2 ^ 512 ≠ 0 then g ||| (1#64 <<< j) else g) 0

/-- The pad bits of an F6 row, which lie in the last group of the share (R15). -/
def padBits (k : Nat) : Nat := (2 ^ (k * 4096) - 1) / 2 ^ (6 * vlmaxOf k tyF6) * 2 ^ (6 * vlmaxOf k tyF6)
/-- The bits of row r that elements of a non-blocking operation occupy, and whether F6's pad lands with its last group; it is
written at once where that group holds none of its elements and so stays arrived (R15, R171). -/
def rowBits (ty : BitVec 4) (xs : List (Elem × Nat)) (r : Nat) : Nat :=
  elemBits (typeWidth ty) ((xs.filter fun x => x.1.r = r).map fun x => x.1.i)
def padLands (k : Nat) (ty : BitVec 4) (xs : List (Elem × Nat)) (r : Nat) : Bool :=
  decide (ty = tyF6) && (bitGroups (rowBits ty xs r)).getLsbD (8 * k - 1)
/-- The rows that a non-blocking load or returning atomic lands later (R171). -/
def nbRows (k : Nat) (ty : BitVec 4) (d : Nat) (t : Hart) (xs : List (Elem × Nat)) : List NbRow :=
  let t' := putElems k ty d t xs
  ((xs.map fun x => x.1.r).dedup).map fun r =>
    ⟨d + r, t'.vr (d + r), BitVec.ofNat 32768 (rowBits ty xs r ||| if padLands k ty xs r then padBits k else 0),
      bitGroups (rowBits ty xs r)⟩
/-- The pad bits that do not land with a group, cleared. -/
def Hart.clearPads (t : Hart) (ty : BitVec 4) (d : Nat) (xs : List (Elem × Nat)) : Hart :=
  if ty = tyF6 then ((xs.map fun x => x.1.r).dedup).foldl (fun u r =>
    if padLands t.k ty xs r then u else u.setV (d + r) (u.vr (d + r) &&& ~~~ BitVec.ofNat 32768 (padBits t.k))) t
  else t

/-- Loaded values delivered: at once, or outstanding on a counter (R169, R171). -/
def State.deliverLoad (s : State) (e : QEntry) (ctr d : Nat) (xs : List (Elem × Nat)) (fl : Flags) : VOut :=
  let t := s.me
  if ctr = 0 then .done (s.withMe fun t => putElems t.k e.ty d t xs) fl
  else .done (s.withMe fun _ => (t.clearPads e.ty d xs).addNb (nbPlain ctr e.issue (nbRows t.k e.ty d t xs) [] fl false)) 0

/-- A fault that the check found, at its place in an error record where it is an uncorrectable one (21_service R378). -/
def State.faultAt (s : State) (ps : List Placed) (el : Elem) (c : Byte) (v : Word) (restart : Nat) (fl : Flags) : VOut :=
  .fault (if c = causeEcc then s.logElem (placedUnit ps el) el.i s.cur else s) c v restart fl

/-- The bit of a register row at which an element stands. -/
def elemBit (ty : BitVec 4) (i : Nat) : Nat := typeWidth ty * i
/-- A placed element of a load that awaits an answer. -/
def lateLoad (t : Hart) (e : QEntry) (d : Nat) (p : Placed) : LateElem :=
  ⟨d + p.el.r, elemBit e.ty p.el.i, locGas p.locs, p.off, p.wm, p.pg.fmt, t.cbr p.pg.cb.toNat, p.pg.pscale, e.ty, 16,
    none, [], e.vfill⟩
/-- READs of another device's bytes, one for each run, and the bytes beside them that are homed here. -/
def State.askRuns (s : State) (h : Nat) (gas : List Nat) : State × List Ask :=
  let r := (s.farRuns gas).foldl (fun (o : State × List Ask) x =>
    let r := o.1.sendAsk h 3 x.1 x.2 none
    (r.1, o.2 ++ [r.2])) (s, [])
  (r.1, r.2 ++ (gas.filter fun a => (s.farDev a).isNone).map fun a =>
    ⟨3, 0, s.chip, a, 1, false, false, some [s.readByte a]⟩)
/-- A non-blocking load some of whose elements another device holds: its rows are outstanding until the answers come, with what is known
already. -/
def State.deliverLate (s : State) (e : QEntry) (ctr d : Nat) (ps : List Placed) (xs : List (Elem × Nat)) (fl : Flags) :
    VOut :=
  let t := s.me
  let late := ps.filter s.awaits
  let r := s.askRuns s.cur (late.flatMap fun p => locGas p.locs)
  let all := ps.map fun p => (p.el, ((xs.find? fun x => x.1 = p.el).map (·.2)).getD 0)
  .done (r.1.withMe fun u => (u.clearPads e.ty d all).addNb ⟨ctr, e.issue, nbRows t.k e.ty d t all, [], fl, false, r.2,
    late.map (lateLoad t e d), [], false, 0⟩) 0

/-- A load's act (R162, R163): the elements below a fault stay committed. -/
def State.loadElems (s : State) (e : QEntry) (ctr d : Nat) : VOut :=
  let t := s.me
  let ps := e.now
  match s.placedWait ps with
  | some va => .wait s va
  | none =>
    let ecc := s.eccPlaced [] ps
    let ok := match ecc with
      | some (el, _) => ps.takeWhile fun p => p.el ≠ el
      | none => ps
    let bad := (ecc.map fun x => (x.1, causeEcc, x.2)).or e.comes
    let now := bad.isSome || ctr = 0
    let far := if now then s.gather s.cur 1 ((ok.filter s.awaits).flatMap fun p => locGas p.locs) else (s, true)
    if !far.2 then .wait far.1 (BitVec.ofNat 64 ((ok.headD ⟨⟨0, 0, 0⟩, [], 0, 0, ⟨0, 0⟩⟩).el.bit / 8))
    else
      let vals := (ok.filter fun p => now || !s.awaits p).map fun p =>
        (p.el, s.loadPlacedWith (askByte t.asks) t e p)
      let fl := vals.foldl (fun f x => f ||| x.2.2) Flags.none
      let xs := vals.map fun x => (x.1, x.2.1)
      let s := ((s.markFailed ok).keepWindows s.winKey
        ((ok.filter fun p => !s.awaits p).flatMap (·.locs))).dropFar (ok.flatMap (·.locs))
      match bad with
      | some (el, c, v) => (s.withMe fun t => putElems t.k e.ty d t xs).faultAt ps el c v (restartOf el.r el.i) fl
      | none => if !now && ok.any s.awaits then s.deliverLate e ctr d ok xs fl else s.deliverLoad e ctr d xs fl

/-! ### Stores (R163, R165, R169, R170) -/

/-- The bytes of an element to be written: its code in its bits of them (R165). -/
def pendBytes (p : Placed) (code : Nat) : List PendByte :=
  p.locs.mapIdx fun j l =>
    ⟨l.ga, BitVec.ofNat 8 (code % 2 ^ p.wm * 2 ^ p.off / 2 ^ (8 * j)),
      BitVec.ofNat 8 ((2 ^ p.wm - 1) * 2 ^ p.off / 2 ^ (8 * j))⟩

/-- The 64-byte lines whose every byte a list of writes covers. -/
def State.wholeLines (s : State) (bs : List PendByte) : List Nat :=
  let full := (((bs.filter fun b => b.msk = 0xFF).map fun b => s.canon b.addr).dedup)
  ((full.map (· / 64)).dedup).filter fun l => decide ((full.filter fun a => a / 64 = l).length = 64)

/-- The bytes of one element group of a store sent: one record to each home (R177, 16_prog_chain R319); those homed here are
left to be performed, with the TAGs of what went to other devices. -/
def State.sendGroup (s : State) (ord trk : Bool) (bs : List PendByte) : State × List PendByte × List (Nat × BitVec 32) :=
  let near := bs.filter fun b => (s.farDev b.addr).isNone
  let r := (s.countLocal s.cur (near.map (·.addr))).sendFar s.cur ord trk bs
  (r.1, near, r.2)
/-- Where later elements of a group write the same byte they remain (R165): the last write of each byte and its bits. -/
def mergeBytes (bs : List PendByte) : List PendByte :=
  bs.foldl (fun l b =>
    match l.find? fun x => x.addr = b.addr with
    | none => l ++ [b]
    | some _ => l.map fun x => if x.addr = b.addr then ⟨x.addr, (x.val &&& ~~~ b.msk) ||| (b.val &&& b.msk), x.msk ||| b.msk⟩
        else x) []
/-- The placed elements of a store sent group by group, in (r, i) order. -/
def State.sendElems (s : State) (ord trk : Bool) (w : Nat) :
    List (Placed × List PendByte) → State × List PendByte × List (Nat × BitVec 32)
  | l =>
    let keys := (l.map fun x => (x.1.el.r, x.1.el.i * w / 512)).dedup
    keys.foldl (fun (o : State × List PendByte × List (Nat × BitVec 32)) k =>
      let bs := (l.filter fun x => (x.1.el.r, x.1.el.i * w / 512) = k).flatMap (·.2)
      let far := mergeBytes (bs.filter fun b => (o.1.farDev b.addr).isSome)
      let r := o.1.sendGroup ord trk ((bs.filter fun b => (o.1.farDev b.addr).isNone) ++ far)
      (r.1, o.2.1 ++ r.2.1, o.2.2 ++ r.2.2)) (s, [], [])

/-- The placed elements of a store with the bytes that each writes, and the flags of each. -/
def storeBytesOf (e : QEntry) (src : Elem → Nat) (ps : List Placed) : List (Placed × List PendByte × Flags) :=
  ps.map fun p =>
    let x := if p.pg.fmt = 0 then (src p.el, Flags.none) else storeElem p.pg.fmt p.pg.pscale e.ty (src p.el)
    (p, pendBytes p x.1, x.2)
/-- The lines that placed elements cover whole. -/
def State.coveredLines (s : State) (ps : List Placed) : List Nat := s.wholeLines (ps.flatMap fun p => pendBytes p 0)
/-- A store's act: all of its elements have been checked, and those of the act under way are performed (R163). One that has
written every byte of a poisoned line makes it good (21_service R377). -/
def State.storeElems (s : State) (e : QEntry) (ctr : Nat) (ord : Bool) (src : Elem → Nat) : VOut :=
  match e.checked.bad with
  | some (el, c, v) => s.faultAt [] el c v e.checked.start 0
  | none =>
    match s.placedWait e.now with
    | some va => .wait s va
    | none =>
      let enc := storeBytesOf e src e.now
      let fl := enc.foldl (fun f x => f ||| x.2.2) Flags.none
      let last := s.wholeLines (e.checked.els.flatMap fun p => if restartOf p.el.r p.el.i < e.stop then pendBytes p 0 else [])
      let s := if ord then s.performOrdered s.cur fun _ => false else s
      let sent := s.sendElems ord (ctr = 0) (typeWidth e.ty) (enc.map fun x => (x.1, x.2.1))
      let s' := { sent.1 with poison := sent.1.poison.filter fun l => !last.contains l }
      if ctr = 0 then .done (s'.performBytes sent.2.1) fl
      else .done (s'.withMe fun t => t.addNb ⟨ctr, e.issue, [], sent.2.1, fl, ord, [], [], sent.2.2, false, 0⟩) 0

/-! ### The address forms (R158-R161) -/

/-- A captured address as an integer. -/
def QEntry.base (e : QEntry) : Int := e.xs1.toNat

/-- The leaf that fixes the memory width, or its fault (R159). -/
def State.baseLeaf (s : State) (va : Word) : Except (Byte × Word) Page :=
  let p := s.party s.cur
  match (s.walkMeets p va).map (·.2), s.pageOf p va with
  | some c, _ => .error (c, va)
  | none, none => .error (causePage, va)
  | none, some pg => if 1 ≤ pg.fmt.toNat ∧ pg.fmt.toNat ≤ 7 then .error (causePage, va) else .ok pg

/-- What a form gives from the memory width and the base leaf: rows to skip, the row's die, the bit address of an
element. -/
structure MemForm where
  skip : Nat → Bool
  spread : Option (Nat → Nat)
  bit : Nat → Nat → Int
  badBit : Bool

/-- Unit stride (R158): a row pitch, or rows one after another, and a bit offset that only 6- and 4-bit widths
allow (R159). -/
def unitForm (e : QEntry) (wm : Nat) : MemForm :=
  let p : Int := e.xs2.toInt / 8
  let bo := e.xs2.toNat % 8
  { skip := fun _ => false
    spread := none
    bit := fun r i =>
      (if p ≠ 0 then 8 * (e.base + r * p) + bo else 8 * e.base + bo + (r * e.vl * wm : Nat)) + (i * wm : Nat)
    badBit := bo ≠ 0 && !(decide (wm = 6) || (decide (wm = 4) && decide (bo = 4))) }

/-- Strided (R158). -/
def strideForm (e : QEntry) (_wm : Nat) : MemForm :=
  { skip := fun _ => false, spread := none, badBit := false
    bit := fun r i => 8 * (e.base + ((r * e.vl + i : Nat) : Int) * e.xs2.toInt) }

/-- Rows spread over dies (R161). -/
def spreadForm (e : QEntry) (b wm : Nat) : MemForm :=
  let d (r : Nat) : Nat := (b + r * (e.xs2.toNat / 2 ^ 8 % 8)) % 8
  { skip := fun r => !e.xs2.getLsbD (d r)
    spread := some d
    bit := fun _ i => 8 * e.base + (i * wm : Nat)
    badBit := false }

/-- The plan and elements of a VM instruction other than an indexed one. -/
def State.memElems (s : State) (e : QEntry) (f : VMemOps) (form : Nat → Nat → MemForm) (store : Bool) :
    MemPlan × Option (Byte × Word) × List Elem :=
  let t := s.me
  let leaf := s.baseLeaf e.xs1
  let pg := match leaf with
    | .ok pg => pg
    | .error _ => ⟨0, 12⟩
  let wm := memWidth pg e.ty
  let fm := form (gaDie (pg.ga e.xs1.toNat)) wm
  let none' := match leaf with
    | .ok _ => false
    | .error _ => true
  (⟨if store then .wr else .rd, store, some pg, e.ty, fm.spread, fm.badBit, none⟩,
    (match leaf with
      | .ok _ => none
      | .error x => some x),
    tileElems (t.maskOf f.m) e.vl e.row0 e.elem0 (groupRows f.g) (fun r => !none' && fm.skip r)
      fm.bit)

/-- A VM load. -/
def memLoad (f : VMemOps) (w : IWord) (form : QEntry → Nat → Nat → MemForm) : Queued :=
  { word := w, len := some f.l, x1 := some f.a, x2 := some f.b, x3 := none, bound := shareBound
    types := fun _ => true, rm := false, ctr := f.ctr.toNat, check := fun _ _ => none
    place := fun s e =>
      let p := s.memElems e f (form e) false
      some (s.placing e p.1 p.2.1 p.2.2)
    act := fun s e => s.loadElems e f.ctr.toNat f.d.toNat }

/-- A VM store. -/
def memStore (f : VMemOps) (w : IWord) (form : QEntry → Nat → Nat → MemForm) : Queued :=
  { word := w, len := some f.l, x1 := some f.a, x2 := some f.b, x3 := none, bound := shareBound
    types := fun _ => true, rm := false, ctr := f.ctr.toNat, check := fun _ _ => none
    place := fun s e =>
      let p := s.memElems e f (form e) true
      some (s.placingWhole e p.1 p.2.1 p.2.2 s.coveredLines)
    act := fun s e =>
      let t := s.me
      s.storeElems e f.ctr.toNat (f.ord = 1) fun el => t.elem e f.d el.r el.i }

/-- Offset i of the group at a register (R160). -/
def Hart.offset (t : Hart) (b : BitVec 5) (i : Nat) : Int :=
  toSigned 64 (rowElem 64 (t.vr (b.toNat + i / (64 * t.k))).toNat (i % (64 * t.k)))
/-- The checks of an offset group at enqueue (R160): alignment, and no destination row inside it. -/
def offsetCheck (w : IWord) (b : BitVec 5) (dests : List Nat) (_ : State) (e : QEntry) : Option Stop :=
  let n := offsetRegs e.ty
  if b.toNat % n ≠ 0 || dests.any fun d => decide (b.toNat ≤ d ∧ d < b.toNat + n) then
    some (.trap causeIllegal (tvalWord w))
  else none

/-- The elements of an indexed instruction. -/
def State.idxElems (s : State) (e : QEntry) (m : BitVec 2) (b : BitVec 5) : List Elem :=
  let t := s.me
  tileElems (t.maskOf m) e.vl e.row0 e.elem0 1 (fun _ => false) fun _ i => 8 * (e.base + t.offset b i)

/-- An indexed load. -/
def idxLoad (f : VIdxOps) (w : IWord) : Queued :=
  { word := w, len := some f.l, x1 := some f.a, x2 := none, x3 := none, bound := shareBound
    types := fun _ => true, rm := false, ctr := f.ctr.toNat, check := offsetCheck w f.b [f.d.toNat]
    place := fun s e =>
      some (s.placing e ⟨.rd, false, none, e.ty, none, false, none⟩ none (s.idxElems e f.m f.b))
    act := fun s e => s.loadElems e f.ctr.toNat f.d.toNat }
/-- An indexed store. -/
def idxStore (f : VIdxOps) (w : IWord) : Queued :=
  { word := w, len := some f.l, x1 := some f.a, x2 := none, x3 := none, bound := shareBound
    types := fun _ => true, rm := false, ctr := f.ctr.toNat, check := offsetCheck w f.b []
    place := fun s e =>
      some (s.placingWhole e ⟨.wr, true, none, e.ty, none, false, none⟩ none (s.idxElems e f.m f.b) s.coveredLines)
    act := fun s e =>
      let t := s.me
      s.storeElems e f.ctr.toNat (f.ord = 1) fun el => t.elem e f.d 0 el.i }

/-! ### Vector atomics (R173-R176) -/

/-- What an atomic has done so far: the old values known, its requests and the elements that await them, and the TAGs of its
other records to other devices. -/
structure AmoOut where
  s : State
  old : List (Elem × Nat)
  asks : List Ask
  late : List LateElem
  tags : List (Nat × BitVec 32)

/-- A list in pieces of n, at most `k` of them. -/
def pieces {α : Type} (n : Nat) : Nat → List α → List (List α)
  | 0, _ => []
  | k + 1, l => if l.isEmpty then [] else l.take n :: pieces n k (l.drop n)
/-- The elements that a record carries together (R175, R227): those of one location of VAMOA or VAMOB; VAMOC is never combined. The
ordered list of a SWAP or CAS that is longer than a record's LEN admits (18_fabric R336) goes in several records, one after another
(DESIGN CHOICE, log entry 59). -/
def State.atomicBlocks (s : State) (op : Nat) (ty : BitVec 4) (ps : List Placed) : List (List Placed) :=
  let loc (p : Placed) : Option Nat := (locGas p.locs).head?.map s.canon
  let fits := if op = 8 then 1920 / typeWidth ty else if op = 9 then 960 / typeWidth ty else 2048
  if op < 10 then ((ps.map loc).dedup).flatMap fun a => pieces fits ps.length (ps.filter fun p => loc p = a)
  else ps.map fun p => [p]
/-- The old value of each element of a block in index order: the location's value after the elements below it (R227). -/
def blockOlds (op : Nat) (ty : BitVec 4) (m : Nat) : List (Nat × Nat) → List Nat × Nat
  | [] => ([], m)
  | x :: t =>
    let r := blockOlds op ty (atomicOp op ty m x.1 x.2) t
    (m :: r.1, r.2)
/-- The operands that a record of a block carries: SWAP and CAS their list, any other the one that the elements combine to
(R227). -/
def blockArgs (op : Nat) (ty : BitVec 4) (args : List (Nat × Nat)) : List (Nat × Nat) :=
  match args with
  | [] => []
  | x :: t => if op = 8 ∨ op = 9 then args else [(t.foldl (fun d y => atomicOp op ty d y.1 0) x.1, 0)]
/-- The OP and data of the record of a block: ATOMIC for one element, COMBINED with a count for several (18_fabric R336). The count is
that of the operands carried, 1 for elements that combine to one: R336 does not say which (DESIGN CHOICE, log entry 59). -/
def blockData (op : Nat) (ty : BitVec 4) (ret : Bool) (args : List (Nat × Nat)) : BitVec 8 × List Byte :=
  let b := typeWidth ty / 8
  let one (x : Nat × Nat) : List Byte := natBytes b x.1 ++ (if op = 9 then natBytes b x.2 else [])
  let carried := blockArgs op ty args
  if args.length = 1 then (0x04, atomicWord op ty ret ++ carried.flatMap one)
  else (0x05, atomicWord op ty ret ++ natBytes 8 carried.length ++ carried.flatMap one)
/-- One block of an atomic performed at its home here, or sent to the device that holds it as one record (R175, R227). -/
def State.atomicBlock (h row : Nat) (op : Nat) (ty : BitVec 4) (ret : Bool) (fill : Word) (args : Nat → Nat × Nat)
    (o : AmoOut) (ps : List Placed) : AmoOut :=
  let s := o.s
  let gas := locGas ((ps.head?.map (·.locs)).getD [])
  let ga := gas.headD 0
  let as := ps.map fun p => args p.el.i
  match s.farDev ga with
  | none =>
    let r := blockOlds op ty (s.readAt gas) as
    { o with s := ((s.countLocal h (gas.take 1)).writeAt gas r.2).noticeAll, old := o.old ++ (ps.map (·.el)).zip r.1 }
  | some dev =>
    if s.peerFailed dev then
      { o with s := s.peerLost h dev, old := o.old ++ ps.map fun p => (p.el, fill.toNat % 2 ^ typeWidth ty) }
    else
      let data := blockData op ty ret as
      let s := s.setHart h ((s.hart h).countSent (16 + dev))
      if ret then
        let r := s.sendAsk h 3 ga gas.length (some data)
        let late := ps.mapIdx fun i p => (⟨row, elemBit ty p.el.i, locGas p.locs, 0, typeWidth ty, 0, 0, 0, ty, op,
          some r.2.tag, as.take i, fill⟩ : LateElem)
        { o with s := r.1, asks := o.asks ++ [r.2], late := o.late ++ late }
      else
        let r := s.newTag
        { o with
          s := r.1.sendTracked h dev false (s.hartRecord h data.1 ga data.2.length true r.2 data.2)
          tags := o.tags ++ [(dev, r.2)] }

/-- Entries of a die's merge buffer that vector atomics hold, of 32,768 (18_fabric R331). -/
def State.mergeUsed (s : State) (d : Nat) : Nat :=
  ((s.harts.filter fun e => slotDie e.1 = d).map fun e => (e.2.nb.map (·.merge)).sum).sum
def mergeEntries : Nat := 32768
/-- An operation's code by the signedness of its type. -/
def signedOp (sg un : Nat) (ty : BitVec 4) : Nat := if isSigned ty then sg else un
/-- A vector atomic, by the operation's code (18_fabric R336); it waits until it has a merge buffer entry for every active element
(R331). -/
def vamo (f : VAmoOps) (w : IWord) (types : BitVec 4 → Bool) (noHost : Bool) (dests : List Nat)
    (code : BitVec 4 → Nat) : Queued :=
  { word := w, len := some f.l, x1 := some f.a, x2 := none, x3 := none, bound := shareBound
    types := types, rm := false, ctr := f.ctr.toNat, check := offsetCheck w f.b (if f.ret = 1 then dests else [])
    place := fun s e =>
      some (s.placingWhole { e with restart := 0 } ⟨.both, true, none, e.ty, none, false, some (typeWidth e.ty / 8, noHost)⟩
        none (s.idxElems { e with restart := 0 } f.m f.b) fun _ => [])
    act := fun s e =>
      let t := s.me
      let op := code e.ty
      let wd := typeWidth e.ty
      let ps := e.checked.els
      match e.checked.bad.or ((s.eccPlaced [] ps).map fun x => (x.1, causeEcc, x.2)), s.placedWait ps with
      | some (el, c, v), _ => s.faultAt ps el c v 0 0
      | none, some va => .wait s va
      | none, none =>
        if mergeEntries < s.mergeUsed (slotDie s.cur) + ps.length then .wait s e.xs1
        else
          let r := (s.atomicBlocks op e.ty ps).foldl (State.atomicBlock s.cur f.d.toNat op e.ty (f.ret = 1) e.vfill
            fun i => (rowElem wd (t.vr f.d.toNat).toNat i, rowElem wd (t.vr (f.d.toNat + 1)).toNat i)) ⟨s, [], [], [], []⟩
          let old := if f.ret = 1 then r.old else []
          if r.late.isEmpty ∧ f.ctr = 0 then r.s.deliverLoad e 0 f.d.toNat old 0
          else
            let all := if f.ret = 1 then ps.map fun p =>
              (p.el, ((old.find? fun x => x.1 = p.el).map (·.2)).getD 0) else []
            let num := if f.ctr = 0 then BitVec.ofNat 64 r.s.fresh else e.issue
            let s := { r.s with fresh := r.s.fresh + 1 }.withMe fun u => u.addNb ⟨f.ctr.toNat, num,
              nbRows t.k e.ty f.d.toNat t all, [], 0, false, r.asks, r.late, r.tags, false, ps.length⟩
            if f.ctr = 0 then .later s else .done s 0 }

/-- Types of VAMOA and VAMOB (R173). -/
def amoInts (ty : BitVec 4) : Bool := ty = 2 || ty = 3 || ty = 6 || ty = 7
/-- Types of VAMOC (R173). -/
def amoFloats (ty : BitVec 4) : Bool := ty = tyF32 || ty = tyB16

/-! ### The instructions -/

/-- VLU (R158), as it is queued. -/
def vluQueued (f : VMemOps) : Queued :=
  memLoad f (wordOf (.vlu f)) (fun e _ => unitForm e)

/-- VLU (R158). -/
def execVlu (f : VMemOps) (s : State) : Out := .next (s.enqueue (vluQueued f))

/-- VLS (R158), as it is queued. -/
def vlsQueued (f : VMemOps) : Queued :=
  memLoad f (wordOf (.vls f)) (fun e _ => strideForm e)

/-- VLS (R158). -/
def execVls (f : VMemOps) (s : State) : Out := .next (s.enqueue (vlsQueued f))

/-- VLD (R161), as it is queued. -/
def vldQueued (f : VMemOps) : Queued :=
  memLoad f (wordOf (.vld f)) spreadForm

/-- VLD (R161). -/
def execVld (f : VMemOps) (s : State) : Out := .next (s.enqueue (vldQueued f))

/-- VSU (R158), as it is queued. -/
def vsuQueued (f : VMemOps) : Queued :=
  memStore f (wordOf (.vsu f)) (fun e _ => unitForm e)

/-- VSU (R158). -/
def execVsu (f : VMemOps) (s : State) : Out := .next (s.enqueue (vsuQueued f))

/-- VSS (R158), as it is queued. -/
def vssQueued (f : VMemOps) : Queued :=
  memStore f (wordOf (.vss f)) (fun e _ => strideForm e)

/-- VSS (R158). -/
def execVss (f : VMemOps) (s : State) : Out := .next (s.enqueue (vssQueued f))

/-- VSD (R161), as it is queued. -/
def vsdQueued (f : VMemOps) : Queued :=
  memStore f (wordOf (.vsd f)) spreadForm

/-- VSD (R161). -/
def execVsd (f : VMemOps) (s : State) : Out := .next (s.enqueue (vsdQueued f))

/-- VLX (R160), as it is queued. -/
def vlxQueued (f : VIdxOps) : Queued :=
  idxLoad f (wordOf (.vlx f))

/-- VLX (R160). -/
def execVlx (f : VIdxOps) (s : State) : Out := .next (s.enqueue (vlxQueued f))

/-- VSX (R160), as it is queued. -/
def vsxQueued (f : VIdxOps) : Queued :=
  idxStore f (wordOf (.vsx f))

/-- VSX (R160). -/
def execVsx (f : VIdxOps) (s : State) : Out := .next (s.enqueue (vsxQueued f))

/-- VAMOA_ADD (R173), as it is queued. -/
def vamoaAddQueued (f : VAmoOps) : Queued :=
  vamo f (wordOf (.vamoaAdd f)) amoInts false [f.d.toNat] (fun _ => 0)

/-- VAMOA_ADD (R173). -/
def execVamoaAdd (f : VAmoOps) (s : State) : Out := .next (s.enqueue (vamoaAddQueued f))

/-- VAMOA_AND (R173), as it is queued. -/
def vamoaAndQueued (f : VAmoOps) : Queued :=
  vamo f (wordOf (.vamoaAnd f)) amoInts false [f.d.toNat] (fun _ => 1)

/-- VAMOA_AND (R173). -/
def execVamoaAnd (f : VAmoOps) (s : State) : Out := .next (s.enqueue (vamoaAndQueued f))

/-- VAMOA_OR (R173), as it is queued. -/
def vamoaOrQueued (f : VAmoOps) : Queued :=
  vamo f (wordOf (.vamoaOr f)) amoInts false [f.d.toNat] (fun _ => 2)

/-- VAMOA_OR (R173). -/
def execVamoaOr (f : VAmoOps) (s : State) : Out := .next (s.enqueue (vamoaOrQueued f))

/-- VAMOA_XOR (R173), as it is queued. -/
def vamoaXorQueued (f : VAmoOps) : Queued :=
  vamo f (wordOf (.vamoaXor f)) amoInts false [f.d.toNat] (fun _ => 3)

/-- VAMOA_XOR (R173). -/
def execVamoaXor (f : VAmoOps) (s : State) : Out := .next (s.enqueue (vamoaXorQueued f))

/-- VAMOB_MIN (R173), as it is queued. -/
def vamobMinQueued (f : VAmoOps) : Queued :=
  vamo f (wordOf (.vamobMin f)) amoInts false [f.d.toNat] (signedOp 4 6)

/-- VAMOB_MIN (R173). -/
def execVamobMin (f : VAmoOps) (s : State) : Out := .next (s.enqueue (vamobMinQueued f))

/-- VAMOB_MAX (R173), as it is queued. -/
def vamobMaxQueued (f : VAmoOps) : Queued :=
  vamo f (wordOf (.vamobMax f)) amoInts false [f.d.toNat] (signedOp 5 7)

/-- VAMOB_MAX (R173). -/
def execVamobMax (f : VAmoOps) (s : State) : Out := .next (s.enqueue (vamobMaxQueued f))

/-- VAMOB_SWAP (R173), as it is queued. -/
def vamobSwapQueued (f : VAmoOps) : Queued :=
  vamo f (wordOf (.vamobSwap f)) amoInts false [f.d.toNat] (fun _ => 8)

/-- VAMOB_SWAP (R173). -/
def execVamobSwap (f : VAmoOps) (s : State) : Out := .next (s.enqueue (vamobSwapQueued f))

/-- VAMOB_CAS (R173), as it is queued. -/
def vamobCasQueued (f : VAmoOps) : Queued :=
  vamo f (wordOf (.vamobCas f)) amoInts false [f.d.toNat, f.d.toNat + 1] (fun _ => 9)

/-- VAMOB_CAS (R173). -/
def execVamobCas (f : VAmoOps) (s : State) : Out := .next (s.enqueue (vamobCasQueued f))

/-- VAMOC_FADD (R173), as it is queued. -/
def vamocFaddQueued (f : VAmoOps) : Queued :=
  vamo f (wordOf (.vamocFadd f)) amoFloats true [f.d.toNat] (fun _ => 10)

/-- VAMOC_FADD (R173). -/
def execVamocFadd (f : VAmoOps) (s : State) : Out := .next (s.enqueue (vamocFaddQueued f))

/-- VAMOC_FMIN (R173), as it is queued. -/
def vamocFminQueued (f : VAmoOps) : Queued :=
  vamo f (wordOf (.vamocFmin f)) amoFloats true [f.d.toNat] (fun _ => 11)

/-- VAMOC_FMIN (R173). -/
def execVamocFmin (f : VAmoOps) (s : State) : Out := .next (s.enqueue (vamocFminQueued f))

/-- VAMOC_FMAX (R173), as it is queued. -/
def vamocFmaxQueued (f : VAmoOps) : Queued :=
  vamo f (wordOf (.vamocFmax f)) amoFloats true [f.d.toNat] (fun _ => 12)

/-- VAMOC_FMAX (R173). -/
def execVamocFmax (f : VAmoOps) (s : State) : Out := .next (s.enqueue (vamocFmaxQueued f))

end Sys2Proof.Machine
end

