-- ==== Sys2Proof/Machine/Matrix.lean ====
section
/-!
DEFINITION. Machine/Matrix.lean: matrix mode, the stationary planes, products, scans and accumulator moves
(07_matrix_isa R206-R225).
-/

namespace Sys2Proof.Machine

/-! ### Planes, accumulator rows and carries -/

/-- An empty plane (R207). -/
def Plane.empty : Plane := ⟨0, 0, [], 0, 0⟩
/-- The code of element (k, j). -/
def Plane.code (p : Plane) (k j : Nat) : Nat := (Sparse.get 0 p.elems (128 * k + j)).toNat
/-- Its exact value, C4 through the plane's codebook copy (R41). -/
def Plane.value (p : Plane) (k j : Nat) : FVal := valueIn p.cb p.ty (p.code k j)
/-- The zero flags (R215). -/
def Plane.zeroFlags (p : Plane) (mvl : Nat) : BitVec 4 :=
  (List.range 4).foldl (fun z b =>
    if (List.range 32).all fun i => decide (p.k ≤ 32 * b + i) ||
        (List.range mvl).all fun j => (p.value (32 * b + i) j).isZero
    then z ||| (1 <<< b) else z) 0

/-- An accumulator row of the executing hart's window (R210). -/
def State.accKey (s : State) (a : Nat) : Nat := 1536 * coreOf s.cur + s.me.accFirst + a
def State.accRow (s : State) (a : Nat) : AccRow := Sparse.get 0 s.acc (s.accKey a)
def State.setAcc (s : State) (a : Nat) (v : AccRow) : State := { s with acc := Sparse.set 0 s.acc (s.accKey a) v }
/-- Column j of a row as an F32 code. -/
def AccRow.col (r : AccRow) (j : Nat) : Nat := rowElem 32 r.toNat j
/-- A carry pair (G, H) (R206). -/
def Matrix.carry (m : Matrix) (n j : Nat) : Nat × Nat :=
  let v := Sparse.get 0 m.sc (128 * n + j)
  ((v.extractLsb' 0 32).toNat, (v.extractLsb' 32 32).toNat)
def Matrix.setCarry (m : Matrix) (n j : Nat) (p : Nat × Nat) : Matrix :=
  { m with sc := Sparse.set 0 m.sc (128 * n + j) (BitVec.ofNat 32 p.2 ++ BitVec.ofNat 32 p.1) }
/-- A row with active columns below a bound recomputed; the flags raised. -/
def accSweep (active : Nat → Bool) (f : Nat → Nat × Flags) (n : Nat) (r : AccRow) : AccRow × Flags :=
  let o := sweepRow 32 active f n 0 (r.toNat, Flags.none, false)
  (BitVec.ofNat 4096 o.1, o.2.1)

/-- The granted MVL, 0 outside matrix mode. -/
def Hart.mvl (t : Hart) : Nat := (t.matrix.map (·.mvl)).getD 0

/-! ### Checks after those of R13 (R209) -/

/-- K and type of the active and the shadow plane behind a list of matrix instructions that are not complete, in program
order (R212, R213, R216). -/
def planesAfter : List QEntry → (Nat × BitVec 4) × (Nat × BitVec 4) → (Nat × BitVec 4) × (Nat × BitVec 4)
  | [], p => p
  | e :: t, p =>
    if e.done then planesAfter t p
    else if majorOf e.word = 0x31 then planesAfter t (p.1, (e.vl, e.ty))
    else if classOf e.word = .none then planesAfter t (p.2, p.1)
    else planesAfter t p
/-- K and type of the active plane that a matrix instruction enqueued now will find. -/
def Hart.planeAhead (t : Hart) (m : Matrix) : Nat × BitVec 4 :=
  (planesAfter (t.tile ++ t.queue) ((m.active.k, m.active.ty), (m.shadow.k, m.shadow.ty))).1
/-- Checks 5 to 7: matrix mode, the instruction's own condition, and its last row in the window. `rows` is one past
the last window row named, 0 for none. -/
def matrixCheck (w : IWord) (cond : Hart → Matrix → QEntry → Bool) (rows : QEntry → List Nat) (s : State)
    (e : QEntry) : Option Stop :=
  let t := s.me
  match t.matrix with
  | none => some (.trap causeMmode (tvalWord w))
  | some m =>
    if !cond t m e then some (.trap causeMmode (tvalWord w))
    else if (rows e).any fun n => decide (t.accRows < n) then some (.trap causeAccrange (tvalWord w))
    else none

/-- A matrix instruction's queued form, in matrix mode or not (the check refuses the latter). -/
def matrixQueued (w : IWord) (len : Option (BitVec 2)) (x1 x2 x3 : Option (BitVec 5)) (bound : Hart → BitVec 4 → Nat)
    (types : BitVec 4 → Bool) (check : State → QEntry → Option Stop) (act : Matrix → State → QEntry → VOut) :
    Queued where
  word := w
  len := len
  x1 := x1
  x2 := x2
  x3 := x3
  bound := bound
  types := types
  rm := false
  ctr := 0
  check := check
  act := fun s e =>
    match s.me.matrix with
    | none => .fault s causeMmode (tvalWord w) e.restart 0
    | some m => act m s e

/-- The executing hart's matrix state changed. -/
def State.withMatrix (s : State) (g : Matrix → Matrix) : State :=
  s.withMe fun t => { t with matrix := t.matrix.map g }

/-! ### MCFG (R207, R208, R216, R224) -/

/-- The priority of a hart's region. -/
def State.prioOf (s : State) (h : Nat) : Nat := (s.region ((s.hart h).region.getD 0)).priority
/-- A wait for a tile queue. -/
def Wait.forTile (w : Wait) : Bool := match w.instr with
  | .mmodeOn _ => true
  | _ => false
/-- Another hart of the core waits for a tile queue and is served before the executing one: its region's priority is
higher, or equal and it arrived earlier (R207). -/
def State.tileBefore (s : State) : Bool :=
  (coreSlots (coreOf s.cur)).any fun h =>
    decide (h ≠ s.cur) && decide ((s.hart h).run = .running) && (s.hart h).wait.any fun w =>
      w.forTile && (decide (s.prioOf s.cur < s.prioOf h) ||
        (decide (s.prioOf s.cur = s.prioOf h) && s.me.wait.all fun v => decide (w.since < v.since)))

/-- MMODE_ON (R207). -/
def execMmodeOn (f : Rd) (s : State) : Out :=
  let t := s.me
  let v := (t.xr f.d).toNat
  let req := if v = 0 ∨ 128 < v then 128 else v
  .next (if t.matrix.isSome || t.family.isSome then s.raise causeMmode (tvalWord (wordOf (.mmodeOn f)))
    else if t.accRows = 0 then s.withMe fun t => t.result f.d 0
    else
      match (if s.tileBefore then [] else s.freeTq (coreOf s.cur)) with
      | q :: _ =>
        s.withMe fun t =>
          ({ t with
            matrix := some ⟨q, req, 0, .empty, .empty, []⟩
            lost := t.lost.filter fun x => decide (x < 15000) }).result f.d (BitVec.ofNat 64 req)
      | [] =>
        let s := s.tickTime
        if s.expired then s.withMe fun t => t.result f.d 0 else s.park (.mmodeOn f) none)

/-- MMODE_OFF: waits for earlier matrix instructions, then leaves matrix mode (R208). -/
def execMmodeOff (s : State) : Out :=
  .next (if s.me.matrixIdle then s.withMe fun t => { t with matrix := none }.advance else s)

/-- The two planes exchanged (R216). -/
def Matrix.swap (m : Matrix) : Matrix := { m with active := m.shadow, shadow := m.active }

/-- The executing hart's planes exchanged, with what an uncorrectable error has taken of them. -/
def State.swapPlanes (s : State) : State :=
  (s.withMatrix Matrix.swap).withMe fun t => if t.lost.isEmpty then t
    else { t with lost := t.lost.map fun x => if x = 16000 then 16001 else if x = 16001 then 16000 else x }

/-- MSWAP as it is queued: it belongs to no convoy (R216). -/
def mswapQueued : Queued :=
  matrixQueued (wordOf .mswap) none none none none shareBound (fun _ => true) (fun _ _ => none)
    fun _ s _ => .done (s.swapPlanes) 0

/-- MSWAP (R216): outside matrix mode it traps; it takes an entry of the queue and neither opens, closes nor joins a
convoy. One with nothing before it to wait for may take effect at once and then leaves its entry. -/
def execMswap (s : State) : Out :=
  let t := s.me
  .next (if t.matrix.isNone then s.raise causeMmode (tvalWord (wordOf .mswap))
    else
      if queueSize ≤ t.queue.length then s
      else if s.prompt && t.drained && t.tile.isEmpty then s.swapPlanes.withMe Hart.advance
      else s.withMe fun t => { t.advance with queue := t.queue ++ [{ mswapQueued.capture t t.pc with first := false }] })

/-- The matrix status (R225); an empty plane reports type 0. -/
def Matrix.status (m : Matrix) : Word :=
  let ty (p : Plane) : Nat := if p.k = 0 then 0 else p.ty.toNat
  BitVec.ofNat 64 (m.flags.toNat + 2 ^ 6 + m.tq * 2 ^ 7 + m.mvl * 2 ^ 8 + m.active.k * 2 ^ 16 +
    ty m.active * 2 ^ 24 + m.active.zero.toNat * 2 ^ 28 + m.shadow.k * 2 ^ 32 + ty m.shadow * 2 ^ 40 +
    m.shadow.zero.toNat * 2 ^ 44)

/-- MSTAT (R224). -/
def execMstat (f : Rd) (s : State) : Out :=
  .next (match s.me.matrix with
    | none => s.withMe fun t => t.result f.d 0
    | some m => if s.me.matrixIdle then s.withMe fun t => t.result f.d m.status else s)

/-! ### MLS (R214, R215) -/

/-- Plane types (R213). -/
def planeTypes (ty : BitVec 4) : Bool := [8, 9, 12, 13, 14, 15].contains ty.toNat

/-- The shadow plane with loaded elements put in, from element n on in (k, j) order. -/
def Plane.put (p : Plane) (xs : List (Elem × Nat)) : Plane :=
  { p with elems := xs.foldl (fun l x => Sparse.set 0 l (128 * x.1.r + x.1.i) (BitVec.ofNat 16 x.2)) p.elems }

/-- The leaf that fixes an MLS's memory width, or one that is not looked at (R159, R214). -/
def State.mlsPage (s : State) (e : QEntry) : Page := match s.baseLeaf e.xs1 with
  | .ok pg => pg
  | .error _ => ⟨0, 12⟩
/-- The elements of an MLS from its progress on, in (k, j) order (R214, R222). -/
def State.mlsElems (s : State) (m : Matrix) (e : QEntry) : List Elem :=
  let wm := memWidth (s.mlsPage e) e.ty
  let p : Int := e.xs2.toInt
  (tileElems (2 ^ 128 - 1) m.mvl 0 0 e.vl (fun _ => false) fun k j =>
    (if p ≠ 0 then 8 * (e.base + k * p) else 8 * e.base + (k * m.mvl * wm : Nat)) + (j * wm : Nat)).drop (e.restart / 2)
/-- An MLS's one check (R214): every element that is left, before any is loaded. -/
def State.placingPlane (s : State) (e : QEntry) : Option Placing :=
  s.me.matrix.map fun m =>
    let early := match s.baseLeaf e.xs1 with
      | .ok _ => none
      | .error x => some x
    { s.placingWhole e ⟨.rd, false, some (s.mlsPage e), e.ty, none, false, none⟩ early (s.mlsElems m e) fun _ => [] with
      shadow := some m.shadow }
/-- The codebook of a C4 plane at the enqueue of its MLS (R214); an earlier VCBLD that is not complete comes first (R88), and the
MLS then finds its entries as it starts. -/
def State.mlsBook (s : State) (e : QEntry) : Option (BitVec 256) :=
  if e.ty = tyC4 ∧ ¬ (s.me.undone.any fun x => decide (majorOf x.word = 0x16 ∧ functOf x.word = 4)) then
    (match s.baseLeaf e.xs1 with
      | .ok pg => some (s.me.cbr (if pg.fmt = 0 then 0 else pg.cb.toNat))
      | .error _ => none)
  else none
/-- The shadow plane with some elements loaded, the first act's K, type and codebook set (R214, R215). -/
def Matrix.loadShadow (m : Matrix) (e : QEntry) (cb : BitVec 256) (xs : List (Elem × Nat)) : Matrix :=
  let start : Plane := if e.restart = 0 then ⟨e.vl, e.ty, [], 0, cb⟩ else { m.shadow with k := e.vl, ty := e.ty }
  { m with shadow := { start.put xs with zero := (start.put xs).zeroFlags m.mvl } }

/-- MLS as it is queued (R214): elements from its progress on, up to the end of the segment under way. A fault leaves the
shadow plane as it stood when the MLS was started or resumed, and restarts it there. -/
def mlsQueued (f : MlsOps) : Queued :=
  let w := joinWord (mlsFields f)
  { matrixQueued w (some f.l) (some f.a) (some f.b) none (fun _ _ => 128) planeTypes
      (matrixCheck w (fun _ _ _ => true) fun _ => [])
      fun m s e =>
        let t := s.me
        let pl := e.checked
        let cb := if e.ty = tyC4 then e.book.getD
          (t.cbr (match pl.els with
            | p :: _ => if p.pg.fmt = 0 then 0 else p.pg.cb.toNat
            | [] => 0)) else 0
        let undo (s : State) : State := s.withMatrix fun m => { m with shadow := pl.shadow.getD m.shadow }
        let now := (pl.els.drop ((e.restart - pl.start) / 2)).take ((e.stop - e.restart) / 2)
        match pl.bad, s.placedWait now, s.eccPlaced [] now with
        | some (el, c, v), _, _ => s.faultAt pl.els el c v pl.start 0
        | none, some va, _ => .wait s va
        | none, none, some (el, v) => (undo s).faultAt pl.els el causeEcc v pl.start 0
        | none, none, none =>
          let r := s.gather s.cur 1 ((now.filter s.awaits).flatMap fun p => locGas p.locs)
          if !r.2 then .wait r.1 e.xs1
          else
            let vals := now.map fun p => (p.el, s.loadPlacedWith (askByte t.asks) t e p)
            let s := (s.markFailed now).keepWindows s.winKey ((now.filter fun p => !s.awaits p).flatMap (·.locs))
            .done ((s.dropFar (now.flatMap (·.locs))).withMatrix fun _ => m.loadShadow e cb (vals.map fun x => (x.1, x.2.1)))
              (vals.foldl (fun g x => g ||| x.2.2) Flags.none) with
    fixes := fun s e => { e with book := s.mlsBook e }
    place := State.placingPlane }

/-- MLS (R214). -/
def execMls (f : MlsOps) (s : State) : Out := .next (s.enqueue (mlsQueued f))

/-! ### Products (R217-R219) -/

/-- Activation types (R213). -/
def activationTypes (ty : BitVec 4) : Bool := [8, 9, 12, 13, 14].contains ty.toNat
/-- The pairing of an activation type with a plane type (R213). -/
def pairs (a p : BitVec 4) : Bool :=
  if [12, 13, 14].contains a.toNat then [12, 13, 14].contains p.toNat else [8, 9, 15].contains p.toNat

/-- The exact products of a row with a plane column over the active positions below VL (R61, R217). -/
def rowTerms (t : Hart) (p : Plane) (ty : BitVec 4) (mask vl row j : Nat) : List (FVal × Flags) :=
  (setPositions mask vl 0).map fun k => FVal.mul (valueOf ty (rowElem (typeWidth ty) row k)) (p.value k j)
where
  /-- the active positions -/
  setPositions (mask : Nat) : Nat → Nat → List Nat
    | 0, _ => []
    | n + 1, i => if mask.testBit i then i :: setPositions mask n (i + 1) else setPositions mask n (i + 1)
  /-- the hart is the one whose row it is -/
  owner : Hart := t

/-- MSTR as it is queued (R217): rows from its progress on, up to the end of the slot under way. -/
def mstrQueued (f : MstrOps) : Queued :=
  let w := wordOf (.mstr f)
  let rows := groupRows f.g
  matrixQueued w (some f.l) (some f.a) none none shareBound activationTypes
    (matrixCheck w (fun t m e =>
        let p := t.planeAhead m
        (p.1 = 0 || pairs e.ty p.2) && decide (e.vl ≤ p.1))
      fun e => [e.xs1.toNat + (if f.aff = 1 then 2 * rows else rows)])
    fun m s e =>
      let t := e.view s.me
      let mask := t.maskOf f.m
      let o := (List.range rows).foldl (fun (o : State × Flags) r =>
        if r < e.restart ∨ e.stop ≤ r then o
        else
          let a := e.xs1.toNat + (if f.aff = 1 then 2 * r + 1 else r)
          let row := (t.vr (f.vs.toNat + r)).toNat
          let c := accSweep (fun _ => true) (fun j =>
            dotAccumulate (if f.ovw = 1 then 0 else AccRow.col (o.1.accRow a) j)
              (rowTerms t m.active e.ty mask e.vl row j)) m.mvl (o.1.accRow a)
          (o.1.setAcc a c.1, o.2 ||| c.2)) (s, Flags.none)
      .done o.1 o.2

/-- MSTR (R217). -/
def execMstr (f : MstrOps) (s : State) : Out := .next (s.enqueue (mstrQueued f))

/-- MOP's types (R213). -/
def mopTypes (ty : BitVec 4) : Bool := [8, 9, 10, 12, 13, 14].contains ty.toNat

/-- MOP as it is queued (R219): both operands exact in F32, one rounding; rows from its progress on, up to the end of the act under
way (12_operand_delivery R279). -/
def mopQueued (f : MopOps) : Queued :=
  let w := joinWord (mopFields f)
  matrixQueued w (some f.l) (some f.a) none none shareBound mopTypes
    (matrixCheck w (fun t m e => decide (m.mvl ≤ shareBound t e.ty))
      fun e => if e.vl = 0 then [] else [e.xs1.toNat + e.vl])
    fun m s e =>
      let t := e.view s.me
      let mask := t.maskOf f.m
      let wd := typeWidth e.ty
      let o := (List.range e.vl).foldl (fun (o : State × Flags) i =>
        if mask.testBit i ∧ e.restart ≤ i ∧ i < e.stop then
          let a := e.xs1.toNat + i
          let x := valueOf e.ty (rowElem wd (t.vr f.vs.toNat).toNat i)
          let c := accSweep (fun _ => true) (fun j =>
            f32.deliver 0#3 (FVal.fma 0#3 x (valueOf e.ty (rowElem wd (t.vr f.b.toNat).toNat j))
              (f32.decode (AccRow.col (o.1.accRow a) j)))) m.mvl (o.1.accRow a)
          (o.1.setAcc a c.1, o.2 ||| c.2)
        else o) (s, Flags.none)
      .done o.1 o.2

/-- MOP (R219). -/
def execMop (f : MopOps) (s : State) : Out := .next (s.enqueue (mopQueued f))

/-! ### Scans (R220-R222) -/

/-- Steps t, t + 1, ... of a fold in one column: the pairs to write back, the last pair and the flags (R220). -/
def foldSteps (step : Nat → Nat × Nat) : Nat → Nat → (Nat × Nat) × List (Nat × Nat) × Flags →
    (Nat × Nat) × List (Nat × Nat) × Flags
  | 0, _, acc => acc
  | n + 1, t, (p, out, fl) =>
    let c := compose p (step t)
    foldSteps step n (t + 1) (c.1, out ++ [c.1], fl ||| c.2)

/-- An affine step's pair: gain row and offset row (R220). -/
def State.stepPair (s : State) (base t j : Nat) : Nat × Nat :=
  (AccRow.col (s.accRow (base + 2 * t)) j, AccRow.col (s.accRow (base + 2 * t + 1)) j)
/-- A pair written to a step's rows in one column. -/
def State.setPair (s : State) (base t j : Nat) (p : Nat × Nat) : State :=
  let put (s : State) (a x : Nat) : State :=
    s.setAcc a (BitVec.ofNat 4096 (setElem 32 (s.accRow a).toNat j x))
  put (put s (base + 2 * t) p.1) (base + 2 * t + 1) p.2

/-- The window rows that n steps name. -/
def stepRows (e : QEntry) : List Nat := if e.xs2 = 0 then [] else [e.xs1.toNat + 2 * e.xs2.toNat]

/-- MSCAN as it is queued (R220), from its progress on (R222) up to the step under way; the last step writes the carry. -/
def mscanQueued (f : MscanOps) : Queued :=
  let w := joinWord (mscanFields f)
  matrixQueued w none (some f.a) (some f.b) none shareBound (fun _ => true)
    (matrixCheck w (fun _ _ _ => true) stepRows)
    fun m s e =>
      let base := e.xs1.toNat
      let n := min e.xs2.toNat e.stop
      let slot := f.slot.toNat
      let o := (List.range m.mvl).foldl (fun (o : State × Flags) j =>
        let seed := if e.restart ≠ 0 then s.stepPair base (e.restart - 1) j
          else if f.cin = 1 then m.carry slot j else (f32One, 0)
        let r := foldSteps (fun t => s.stepPair base t j) (n - e.restart) e.restart (seed, [], Flags.none)
        let s' := (r.2.1.zipIdx e.restart).foldl (fun s x => s.setPair base x.2 j x.1) o.1
        let s' := if f.wout = 1 ∧ n = e.xs2.toNat then s'.withMatrix fun m => m.setCarry slot j r.1 else s'
        (s', o.2 ||| r.2.2)) (s, Flags.none)
      .done o.1 o.2

/-- MSCAN (R220). -/
def execMscan (f : MscanOps) (s : State) : Out := .next (s.enqueue (mscanQueued f))

/-- MSCANF as it is queued (R221): the carry's offset through each cumulative gain that is not zero. -/
def mscanfQueued (f : MscanfOps) : Queued :=
  let w := joinWord (mscanfFields f)
  matrixQueued w none (some f.a) (some f.b) none shareBound (fun _ => true)
    (matrixCheck w (fun _ _ _ => true) stepRows)
    fun m s e =>
      let base := e.xs1.toNat
      let o := (List.range (min e.xs2.toNat e.stop - e.restart)).foldl (fun (o : State × Flags) d =>
        let a := base + 2 * (e.restart + d)
        let g := o.1.accRow a
        let c := accSweep (fun j => !(f32.decode (AccRow.col g j)).isZero) (fun j =>
          f32.fma 0#3 false false (AccRow.col g j) (m.carry f.slot.toNat j).2
            (AccRow.col (o.1.accRow (a + 1)) j)) m.mvl (o.1.accRow (a + 1))
        (o.1.setAcc (a + 1) c.1, o.2 ||| c.2)) (s, Flags.none)
      .done o.1 o.2

/-- MSCANF (R221). -/
def execMscanf (f : MscanfOps) (s : State) : Out := .next (s.enqueue (mscanfQueued f))

/-! ### Accumulator and carry moves (R223) -/

/-- Types of the MACC moves (R213). -/
def maccTypes (ty : BitVec 4) : Bool := ty ≠ tyC4
/-- VL within MVL (R223). -/
def withinMvl (_ : Hart) (m : Matrix) (e : QEntry) : Bool := decide (e.vl ≤ m.mvl)

/-- A member that moves rows, its progress in rows, as the element sweep takes it. -/
def QEntry.byRows (e : QEntry) : QEntry :=
  { e with restart := restartOf e.restart 0, stop := if wholeStop ≤ e.stop then wholeStop else restartOf e.stop 0 }
/-- MACC_RD as it is queued (R223). -/
def maccRdQueued (f : VXOps) : Queued :=
  let w := joinWord (maccRdFields f)
  matrixQueued w (some f.l) (some f.a) none none shareBound maccTypes
    (matrixCheck w withinMvl fun e => [e.xs1.toNat + groupRows f.g])
    fun _ s e => s.sweep e.byRows f.g f.m f.d fun r j =>
      convertElem 0#3 tyF32 e.ty (AccRow.col (s.accRow (e.xs1.toNat + r)) j)

/-- MACC_RD (R223). -/
def execMaccRd (f : VXOps) (s : State) : Out := .next (s.enqueue (maccRdQueued f))

/-- MACC_WR as it is queued (R223). -/
def maccWrQueued (f : VXOps) : Queued :=
  let w := joinWord (maccWrFields f)
  matrixQueued w (some f.l) (some f.a) none none shareBound maccTypes
    (matrixCheck w withinMvl fun e => [e.xs1.toNat + groupRows f.g])
    fun _ s e =>
      let t := e.view s.me
      let mask := t.maskOf f.m
      let o := (List.range (groupRows f.g)).foldl (fun (o : State × Flags) r =>
        if r < e.restart ∨ e.stop ≤ r then o
        else
        let a := e.xs1.toNat + r
        let c := accSweep (fun j => mask.testBit j) (fun j => convertElem 0#3 e.ty tyF32 (t.elem e f.d r j)) e.vl
          (o.1.accRow a)
        (o.1.setAcc a c.1, o.2 ||| c.2)) (s, Flags.none)
      .done o.1 o.2

/-- MACC_WR (R223). -/
def execMaccWr (f : VXOps) (s : State) : Out := .next (s.enqueue (maccWrQueued f))

/-- The window rows that a row count names. -/
def countRows (x n : Word) : List Nat := if n = 0 then [] else [x.toNat + n.toNat]

/-- MACC_ZR as it is queued (R223). -/
def maccZrQueued (f : MaccZrOps) : Queued :=
  let w := joinWord (maccZrFields f)
  matrixQueued w none (some f.a) (some f.b) none shareBound (fun _ => true)
    (matrixCheck w (fun _ _ _ => true) fun e => countRows e.xs1 e.xs2)
    fun m s e =>
      .done ((List.range e.xs2.toNat).foldl (fun s i =>
        if i < e.restart ∨ e.stop ≤ i then s
        else s.setAcc (e.xs1.toNat + i)
          (accSweep (fun _ => true) (fun _ => (0, Flags.none)) m.mvl (s.accRow (e.xs1.toNat + i))).1) s) 0

/-- MACC_ZR (R223). -/
def execMaccZr (f : MaccZrOps) (s : State) : Out := .next (s.enqueue (maccZrQueued f))

/-- MACC_CP as it is queued (R223): all source rows are read before any destination row is written; where the two ranges overlap
one act moves them all. -/
def maccCpQueued (f : MaccCpOps) : Queued :=
  let w := joinWord (maccCpFields f)
  matrixQueued w none (some f.a) (some f.b) (some f.e) shareBound (fun _ => true)
    (matrixCheck w (fun _ _ _ => true) fun e => countRows e.xs3 e.xs2 ++ countRows e.xs1 e.xs2)
    fun m s e =>
      .done ((List.range e.xs2.toNat).foldl (fun s' i =>
        if i < e.restart ∨ e.stop ≤ i then s'
        else
        let src := s.accRow (e.xs3.toNat + i)
        s'.setAcc (e.xs1.toNat + i)
          (accSweep (fun _ => true) (fun j => (AccRow.col src j, Flags.none)) m.mvl
            (s'.accRow (e.xs1.toNat + i))).1) s) 0

/-- MACC_CP (R223). -/
def execMaccCp (f : MaccCpOps) (s : State) : Out := .next (s.enqueue (maccCpQueued f))

/-- MACC_SCRD as it is queued (R223): gains to row vd, offsets to row vd + 1. -/
def maccScrdQueued (f : MaccScOps) : Queued :=
  let w := joinWord (maccScrdFields f)
  matrixQueued w (some f.l) none none none shareBound maccTypes
    (matrixCheck w withinMvl fun _ => [])
    fun m s e => ({ e with restart := 0 } |> fun e => s.sweep e 1 0 f.d fun r j =>
      let p := m.carry f.slot.toNat j
      convertElem 0#3 tyF32 e.ty (if r = 0 then p.1 else p.2))

/-- MACC_SCRD (R223). -/
def execMaccScrd (f : MaccScOps) (s : State) : Out := .next (s.enqueue (maccScrdQueued f))

/-- MACC_SCWR as it is queued (R223). -/
def maccScwrQueued (f : MaccScOps) : Queued :=
  let w := joinWord (maccScwrFields f)
  matrixQueued w (some f.l) none none none shareBound maccTypes
    (matrixCheck w withinMvl fun _ => [])
    fun _ s e =>
      let t := e.view s.me
      let o := (List.range e.vl).foldl (fun (o : State × Flags) j =>
        let g := convertElem 0#3 e.ty tyF32 (t.elem e f.d 0 j)
        let h := convertElem 0#3 e.ty tyF32 (t.elem e f.d 1 j)
        (o.1.withMatrix fun m => m.setCarry f.slot.toNat j (g.1, h.1), o.2 ||| g.2 ||| h.2)) (s, Flags.none)
      .done o.1 o.2

/-- MACC_SCWR (R223). -/
def execMaccScwr (f : MaccScOps) (s : State) : Out := .next (s.enqueue (maccScwrQueued f))

end Sys2Proof.Machine
end

