-- ==== Sys2Proof/Machine/Locket.lean ====
section
/-!
DEFINITION. Machine/Locket.lean: the locket (20_faults R370-R373): writing a hart's image, checking and reading one,
and stopping a hart's units (R368).
-/

namespace Sys2Proof.Machine

/-! ### Places of an image -/

/-- n bytes of an image at an offset, where `addr` gives each byte's address. -/
def State.getAt (s : State) (addr : Nat → Nat) (off n : Nat) : Nat :=
  s.readAt ((List.range n).map fun i => addr (off + i))
def State.putAt (s : State) (addr : Nat → Nat) (off n v : Nat) : State :=
  s.writeAt ((List.range n).map fun i => addr (off + i)) v
/-- Values put at offsets, n bytes each. -/
def State.putAll (s : State) (addr : Nat → Nat) (n : Nat) (l : List (Nat × Nat)) : State :=
  l.foldl (fun s e => s.putAt addr e.1 n e.2) s

/-- CSR n stands at this offset of an image (R370). -/
def csrOffset (n : Nat) : Nat := if n < 0x100 then 0x200 + 8 * n else 0x300 + 8 * (n - 0x100)
/-- The CSRs an image records; CYCLE is not saved (R370). -/
def savedCsrs : List Nat := (List.range 23).filter (· ≠ 0x00D) ++ (List.range 12).map (0x100 + ·)
/-- The CSRs an image restores: those not read-only, and RCBPTR. -/
def restoredCsrs : List Nat := savedCsrs.filter fun n => !csrReadOnly n || n = 0x00A

/-- Queued work that a stop leaves, in program order: matrix instructions and MSWAPs past their drain points, then the queue
 from the first convoy that has not drained (R362, R368). -/
def Hart.leftover (t : Hart) : List QEntry := t.dropDrained.tile ++ t.dropDrained.queue

/-! ### Writing an image (R370-R372) -/

/-- The header's doublewords (R371). -/
def State.locketHeader (s : State) (h : Nat) (held : Bool) : List Word :=
  let t := s.hart h
  let bit (b : Bool) (n : Nat) : Nat := if b then 2 ^ n else 0
  [BitVec.ofNat 64 (1 + locketSize t.accRows * 2 ^ 32), t.pc,
    BitVec.ofNat 64 (bit t.matrix.isSome 0 + bit t.family.isSome 1 + bit held 2 + t.k * 2 ^ 4 +
      t.map.toNat * 2 ^ 8 + t.pending.getD 0 * 2 ^ 16 + bit t.pending.isSome 20 + bit t.engFault 40 +
      bit t.collFault 41),
    BitVec.ofNat 64 (match t.family with
      | none => 0
      | some f => f.index + (if f.ways = 4 then 4 else 0)),
    s.hartid h, (s.die (slotDie h)).ptime, t.pflags.setWidth 64]

/-- A context slot's record (R372). -/
def CtxSlot.record (c : CtxSlot) : List Word :=
  [BitVec.ofNat 64 ((if c.bound then 1 else 0) + (if c.faulted then 2 else 0) + (if c.parked then 4 else 0) +
      (c.key / 2048) * 8 + c.key % 1024 * 16 + c.prio.toNat * 2 ^ 32),
    c.issued, c.completed, c.clasp]

/-- Doublewords at consecutive offsets. -/
def wordsAt (off : Nat) (l : List Word) : List (Nat × Nat) := l.mapIdx fun i w => (off + 8 * i, w.toNat)

/-- The entries of a keyed list that an image has places for. -/
def placesFor {α : Type} (n : Nat) (l : List (Nat × α)) : List (Nat × α) := l.filter fun e => e.1 < n
/-- A hart's image written (LOCKET_WRITE): all bytes the layout does not assign are zero. -/
def State.writeLocket (s : State) (h : Nat) (addr : Nat → Nat) (held : Bool) : State :=
  let t := s.hart h
  let p := { s with cur := h }
  let left := t.leftover
  let m := t.matrix
  let s' := s.putAt addr 0 (locketSize t.accRows) 0
  let s' := s'.putAll addr 8 (wordsAt 0 (s.locketHeader h held) ++
    ((placesFor 32 t.x).map fun e => (0x100 + 8 * e.1, e.2.toNat)) ++
    (savedCsrs.map fun n => (csrOffset n, (p.csrValue n).toNat)) ++
    ((placesFor 8 t.cc).flatMap fun e => [(0x500 + 16 * e.1, e.2.issued.toNat), (0x508 + 16 * e.1, e.2.retired.toNat)]) ++
    ((placesFor 16 t.ctxs).flatMap fun e => wordsAt (0x600 + 32 * e.1) e.2.record) ++
    ((List.range 32).map fun r => (0x800 + 8 * r, (~~~ Sparse.get 0 t.away r).toNat)) ++
    (match m with
      | none => []
      | some m => (0x900, m.status.toNat) :: (placesFor 512 m.sc).map fun e => (0x24000 + 8 * e.1, e.2.toNat)) ++
    (if left.isEmpty then [] else wordsAt 0x3000 (imageWords (left.take queueSize))))
  let s' := s'.putAll addr 32 (((placesFor 8 t.cb).map fun e => (0x400 + 32 * e.1, e.2.toNat)) ++
    (match m with
      | none => []
      | some m => [(0x920, m.active.cb.toNat), (0x940, m.shadow.cb.toNat)]))
  let s' := s'.putAll addr 1024 ((placesFor 8 t.m).map fun e => (0x1000 + 1024 * (e.1 - 1), e.2.toNat))
  let s' := s'.putAll addr 4096 ((placesFor 32 t.v).map fun e => (0x4000 + 4096 * e.1, e.2.toNat % 2 ^ (4096 * t.k)))
  let s' := s'.putAll addr 2 (match m with
    | none => []
    | some m => ((placesFor 16384 m.active.elems).map fun e => (0x25000 + 2 * e.1, e.2.toNat)) ++
        (placesFor 16384 m.shadow.elems).map fun e => (0x2D000 + 2 * e.1, e.2.toNat))
  s'.putAll addr 512 ((List.range t.accRows).map fun a =>
    (0x35000 + 512 * a, (Sparse.get 0 s.acc (1536 * coreOf h + t.accFirst + a)).toNat))

/-! ### Reading an image (R373, R376) -/

/-- The doubleword of an image at an offset. -/
def State.imgWord (s : State) (addr : Nat → Nat) (off : Nat) : Word := BitVec.ofNat 64 (s.getAt addr off 8)
/-- ACCWIN's row count in an image. -/
def State.imgRows (s : State) (addr : Nat → Nat) : Nat :=
  ((s.imgWord addr (csrOffset 0x014)).extractLsb' 16 11).toNat

/-- Bits of an image that the layout assigns in the doublewords that have reserved ones; `none` where all are. -/
def imageMask (off : Nat) : Option Word :=
  if off = 0 then some 0xFFFFFFFF0000FFFF
  else if off = 0x10 then some 0x00000300001FFFF7
  else if off = 0x18 then some 0x7
  else if off = 0x30 then some 0x3F
  else if 0x38 ≤ off ∧ off ≤ 0x100 then some 0
  else if off = csrOffset 0x00D ∨ (0x2B8 ≤ off ∧ off < 0x300) ∨ (0x360 ≤ off ∧ off < 0x400) then some 0
  else if off = 0x500 ∨ off = 0x508 ∨ (0x580 ≤ off ∧ off < 0x600) then some 0
  else if restoredCsrs.any fun n => csrOffset n = off then
    (restoredCsrs.find? fun n => csrOffset n = off).map csrBits
  else if 0x600 ≤ off ∧ off < 0x800 ∧ off % 32 = 0 then some 0x0000000F00003FFF
  else if off = 0x900 then some 0x0000FFFFFFFFFFFF
  else if (0x908 ≤ off ∧ off < 0x920) ∨ (0x960 ≤ off ∧ off < 0x1000) then some 0
  else if off = 0x3000 then some 0x13F
  else if (0x2C00 ≤ off ∧ off < 0x3040) ∨ (0x3840 ≤ off ∧ off < 0x4000) then some 0
  else if 0x3040 ≤ off ∧ off < 0x3840 ∧ off % 64 = 0 then some 0x00FFFF7FFFFFFFFF
  else none

/-- A reserved bit of an image is set (R370, R376). -/
def State.imageReserved (s : State) (addr : Nat → Nat) : Bool :=
  (List.range 0x800).any fun i =>
    match imageMask (8 * i) with
    | none => false
    | some m => s.imgWord addr (8 * i) &&& ~~~ m ≠ 0

/-- A context slot from its record. -/
def State.imgCtx (s : State) (addr : Nat → Nat) (k : Nat) : CtxSlot :=
  let w := s.imgWord addr (0x600 + 32 * k)
  { bound := w.getLsbD 0
    faulted := w.getLsbD 1
    parked := w.getLsbD 2
    key := (if w.getLsbD 3 then 2048 else 0) + (if 8 ≤ k then 1024 else 0) + (w.extractLsb' 4 10).toNat
    prio := w.extractLsb' 32 4
    issued := s.imgWord addr (0x608 + 32 * k)
    completed := s.imgWord addr (0x610 + 32 * k)
    clasp := s.imgWord addr (0x618 + 32 * k) }

/-- The value rules of R114 for a CSR that an image holds, in the image's world. -/
def State.imgRule (s : State) (addr : Nat → Nat) (n : Nat) : Bool :=
  let v := s.imgWord addr (csrOffset n)
  s.csrRule n v && ((s.imgWord addr (csrOffset 0x107)).getLsbD 16 || !s.csrSecureRule n v)
/-- The checks of LKLD on an image (R376). -/
def State.imageValid (s : State) (addr : Nat → Nat) (core : Nat) : Bool :=
  let w0 := s.imgWord addr 0
  let w2 := s.imgWord addr 0x10
  let k := (w2.extractLsb' 4 4).toNat
  decide (w0.extractLsb' 0 16 = 1) && !s.imageReserved addr &&
    decide ((w0.extractLsb' 32 32).toNat = locketSize (s.imgRows addr)) && [0, 1, 2, 4, 8].contains k &&
    decide (((s.imgWord addr 0x20).extractLsb' 11 14).toNat = s.chip) &&
    ((List.range 32).all fun r => decide (s.getAt addr (0x4000 + 4096 * r) 4096 < 2 ^ (4096 * k))) &&
    [0x014, 0x105, 0x00B].all (s.imgRule addr) &&
    (List.range 8).all fun i =>
      let c := s.imgCtx addr (8 + i)
      !c.bound || decide ((s.ctx c.key).die = core / 16)

/-- An image of the secure world: a non-secure hart does not load it (04_scalar R128). -/
def State.imageSecure (s : State) (addr : Nat → Nat) : Bool := (s.imgWord addr (csrOffset 0x107)).getLsbD 16

/-- Keyed values read from an image. -/
def State.imgList {α : Type} [DecidableEq α] (s : State) (addr : Nat → Nat) (d : α) (keys : List Nat) (off size n : Nat)
    (f : Nat → α) : List (Nat × α) :=
  keys.foldl (fun l k => Sparse.set d l k (f (s.getAt addr (off + size * k) n))) []

/-- An entry of the queue image at an address (R362). -/
def State.imgEntry (s : State) (addr : Nat → Nat) (off : Nat) (first : Bool) : QEntry :=
  let w := s.imgWord addr off
  ⟨first || w.getLsbD 31, w.extractLsb' 0 32, s.imgWord addr (off + 8), s.imgWord addr (off + 0x10),
    s.imgWord addr (off + 0x18), s.imgWord addr (off + 0x38), s.imgWord addr (off + 0x20),
    s.imgWord addr (off + 0x28), w.extractLsb' 36 3, s.imgWord addr (off + 0x30), w.getLsbD 35, w.getLsbD 33,
    w.getLsbD 34, (w.extractLsb' 40 16).toNat, wholeStop, 0, none, none, none⟩
/-- The entries of a queue image whose header is valid, none otherwise (R363). -/
def State.imgQueue (s : State) (addr : Nat → Nat) (off : Nat) : Option (List QEntry) :=
  let w := s.imgWord addr off
  let n := (w.extractLsb' 0 6).toNat
  if w.getLsbD 8 ∧ n ≤ 32 then
    some ((List.range n).map fun e => s.imgEntry addr (off + 64 + 64 * e) (e = 0))
  else none

/-- Members of an image that were stopped part-way carry the flags that had been raised (R138, R371); with no such member they
stay as they are. PFLAGS does not say which of several such members raised a flag: each of them takes all of PFLAGS, so that a vector
member's flag can also enter the matrix status through a matrix member (DESIGN CHOICE, log entry 59). -/
def Hart.takeFlags (t : Hart) (es : List QEntry) : Hart × List QEntry :=
  if es.any fun e => e.started && !e.done then
    ({ t with pflags := 0 }, es.map fun e => if e.started && !e.done then { e with flags := e.flags ||| t.pflags } else e)
  else (t, es)

/-- A plane from its area, with what the status says of it. -/
def State.imgPlane (s : State) (addr : Nat → Nat) (area cb : Nat) (k : Nat) (ty zero : BitVec 4) : Plane :=
  ⟨k, ty, s.imgList addr 0 (List.range 16384) area 2 2 (BitVec.ofNat 16), zero, BitVec.ofNat 256 (s.getAt addr cb 32)⟩

/-- The matrix mode that an image holds, on a tile queue. -/
def State.imgMatrix (s : State) (addr : Nat → Nat) (tq : Nat) : Option Matrix :=
  let st := s.imgWord addr 0x900
  if (s.imgWord addr 0x10).getLsbD 0 then
    some ⟨tq, (st.extractLsb' 8 8).toNat, st.extractLsb' 0 6,
      s.imgPlane addr 0x25000 0x920 (st.extractLsb' 16 8).toNat (st.extractLsb' 24 4) (st.extractLsb' 28 4),
      s.imgPlane addr 0x2D000 0x940 (st.extractLsb' 32 8).toNat (st.extractLsb' 40 4) (st.extractLsb' 44 4),
      s.imgList addr 0 (List.range 512) 0x24000 8 8 (BitVec.ofNat 64)⟩
  else none

/-- The hart an image holds, on clusters and a tile queue; what no image holds comes from `keep`. -/
def State.loadLocket (s : State) (addr : Nat → Nat) (keep : Hart) (map : BitVec 8) (tq : Nat) : Hart :=
  let w := s.imgWord addr 0x10
  let q := { keep with pflags := (s.imgWord addr 0x30).extractLsb' 0 6 }.takeFlags ((s.imgQueue addr 0x3000).getD [])
  { keep with
    run := .held
    pc := s.imgWord addr 8
    entering := false
    x := s.imgList addr 0 ((List.range 31).map (· + 1)) 0x100 8 8 (BitVec.ofNat 64)
    v := s.imgList addr 0 (List.range 32) 0x4000 4096 4096 (BitVec.ofNat 32768)
    m := s.imgList addr 0 ((List.range 7).map (· + 1)) 0xC00 1024 1024 (BitVec.ofNat 8192)
    cb := s.imgList addr 0 (List.range 8) 0x400 32 32 (BitVec.ofNat 256)
    cc := ((List.range 7).map (· + 1)).foldl (fun l n =>
      Sparse.set ⟨0, 0⟩ l n ⟨s.imgWord addr (0x500 + 16 * n), s.imgWord addr (0x508 + 16 * n)⟩) []
    csr := restoredCsrs.foldl (fun l n => Sparse.set 0 l n (s.imgWord addr (csrOffset n) &&& csrBits n)) []
    away := (List.range 32).foldl (fun l r => Sparse.set 0 l r (~~~ s.imgWord addr (0x800 + 8 * r))) []
    map := map
    pending := if w.getLsbD 20 then some (w.extractLsb' 16 4).toNat else none
    convoyOpen := keep.convoyOpen
    queue := q.2
    tile := []
    nb := keep.nb.filter (·.held)
    asks := []
    access := none
    fetching := none
    launching := none
    laneDue := false
    tracked := []
    sealing := []
    rep := none
    wait := none
    matrix := s.imgMatrix addr tq
    ctxs := (List.range 16).foldl (fun l k => Sparse.set CtxSlot.empty l k (s.imgCtx addr k)) []
    engFault := w.getLsbD 40
    collFault := w.getLsbD 41
    pflags := q.1.pflags
    stalled := none
    qstalled := none }

/-! ### Stopping a hart's units (R368) -/

/-- The contexts bound to a hart's slots. -/
def Hart.boundKeys (t : Hart) : List Nat := (t.ctxs.filter fun e => e.2.bound).map fun e => e.2.key
/-- A context starts nothing further, or goes on. -/
def State.setStopped (s : State) (key : Nat) (b : Bool) : State :=
  s.setCtx key { s.ctx key with stopped := b }
/-- A WFI that is pre-empted continues behind it (04_scalar R127). -/
def Hart.leaveWfi (t : Hart) : Hart :=
  if t.wait.any fun w => decide (w.instr = .wfi) then t.advance else t
/-- A stop reaches every unit but those of the contexts: outstanding operations that can complete do, a wait is abandoned,
a repeat that has enqueued part of its replays leaves REPPOS (R91, R358), a matrix member stopped part-way leaves MPOS while
VRF is clear, and flags raised by members stopped part-way are kept (R371). -/
def State.stopHart (s : State) (h : Nat) : State :=
  let s := s.drainNb h
  let t := (s.hart h).markReplay.leaveWfi
  let es := t.leftover
  let t := match es.find? fun e => decide (classOf e.word = .matrix) && e.started && !e.done with
    | some e => if t.vrf then t else t.setCsr 0x007 (BitVec.ofNat 64 e.restart)
    | none => t
  s.setHart h { t with
    asks := []
    access := none
    fetching := none
    queue := es.map fun e => { e with flags := 0, snap := none, placed := none }
    tile := []
    pflags := (es.filter fun e => !e.done).foldl (fun f e => f ||| e.flags) t.pflags
    wait := none
    rep := none
    stalled := none
    qstalled := none }

end Sys2Proof.Machine
end

