-- ==== Sys2Proof/Machine/Sync.lean ====
section
/-!
DEFINITION. Machine/Sync.lean: the majors SYNC: phases (06_memory_isa R177-R179), waits (R180-R184, R392), time and
windows (R185, R186), counters (R187) and stage queues (R188, R189).

An instruction that must wait leaves the pc at itself and records the wait; it is tried again when the hart moves
next, with the WDEADLINE it read first.
-/

namespace Sys2Proof.Machine

/-! ### Waiting -/

/-- An instruction that first waits until the hart's vector queue has drained, closing the open convoy. -/
def State.afterDrain (s : State) (i : Instr) (k : State → State) : State :=
  let s := s.withMe Hart.closeConvoy
  if s.me.drained then k s else s.park i none
/-- An instruction that first waits until the hart's vector queue has drained and its non-blocking operations have reached their
counters, closing the open convoy. -/
def State.afterWork (s : State) (i : Instr) (k : State → State) : State :=
  s.afterDrain i fun s =>
    let s := s.drainNb s.cur
    if s.me.worked then k s else s.park i none

/-- A wait tests its condition (R180): the status it ends with, or none; then its deadline. `seen` is what it last
read. -/
def State.waitFor (s : State) (i : Instr) (d : BitVec 5) (status : Option Word) (seen : Option Word) : State :=
  match status with
  | some v => s.waitEnds d v
  | none => if s.expired then s.waitEnds d 1 else (s.park i seen).withMe Hart.closeConvoy

/-! ### Releases (R177, R178, 10_consistency R257, R258) -/

/-- A scope covers a destination: the hart's own core has no counted destination, then its die, its package,
everything. -/
def covers (scope die dest : Nat) : Bool :=
  match scope with
  | 0 => false
  | 1 => decide (dest = die)
  | 2 => decide (dest < 14)
  | _ => true

/-- A seal that fails: the device is reported in PEERBM and counted by the release (R178). -/
def State.failSeal (s : State) (h c : Nat) : State :=
  let s := s.markPeer h c
  let t := s.hart h
  s.setHart h { t with
    sealing := t.sealing.filter (·.1 ≠ c)
    sealFailed := if t.sealFailed.contains c then t.sealFailed else c :: t.sealFailed }

/-- A seal sent to a device for what it counts under a SHART; a device whose connection has failed answers none. -/
def State.sendSeal (h : Nat) (s : State) (x : Nat × Nat × Nat) : State :=
  if s.peerFailed x.1 then s.failSeal h x.1
  else
    let r := s.newTag
    (r.1.setHart h { r.1.hart h with sealing := (r.1.hart h).sealing ++ [(x.1, r.2)] }).sendTo x.1 0
      false (r.1.hart h).secure (r.1.sealRecord h x.2.1 r.2 x.2.2)
/-- A flushing read sent on a host link that a hart has written: the release waits for its completion (15_io_dies R315). -/
def State.sendFlush (h : Nat) (s : State) (link : Nat) : State :=
  let r := s.newTag
  r.1.setHart h { r.1.hart h with sealing := (r.1.hart h).sealing ++ [(2 ^ 14 + link, r.2)] }
/-- The seals of a release are sent (SEAL_SEND), one for each SHART that a device counts (R253, R257): homes of the own package have
performed what was sent to them. -/
def State.sendSeals (s : State) (h scope : Nat) : State :=
  let t := s.hart h
  let now (e : Nat × Nat) : Bool := covers scope (slotDie h) e.1
  let old (e : Nat × Nat) : Bool := covers scope (slotDie h) (e.1 / 2048)
  let due : Hart := { t with unsealed := t.unsealed.filter now, inherited := t.inherited.filter old }
  let s := s.setHart h { t with
    unsealed := t.unsealed.filter fun e => !now e
    inherited := t.inherited.filter fun e => !old e }
  let s := (due.owedSeals h).foldl (State.sendSeal h) s
  ([14, 15].filter fun d => due.unsealed.any fun e => e.1 = d).foldl (fun s d => State.sendFlush h s (d - 6)) s

/-- The seals of a release, and whether it is complete: every earlier store and atomic has been sent, those of this package
and of the host performed, and every seal and flushing read is answered. -/
def State.release (s : State) (h scope : Nat) : State × Bool :=
  let s := s.flushStores h
  if (s.hart h).tracked.any fun x => !x.sent then (s, false)
  else
    let s := s.sendSeals h scope
    (s, (s.hart h).sealing.isEmpty)

/-- Later accesses of a hart need not wait: every earlier load and returning atomic of it has completed. -/
def Hart.acquired (t : Hart) : Bool :=
  t.nb.all fun o => o.held || (o.rows.isEmpty && o.late.isEmpty && o.asks.isEmpty)

/-- PHASE (R177): release, acquire, the window invalidation of W, and the count of failed peers. -/
def State.phase (s : State) (i : Instr) (f : PhaseOps) (rel acq : Bool) : State :=
  s.afterDrain i fun s =>
    let s := s.drainNb s.cur
    let r := if rel then s.release s.cur f.scope.toNat else (s, true)
    if r.2 && (!acq || r.1.me.acquired) then
      let s := r.1
      let s := if f.win = 1 then { s with windows := s.windows.filter fun w => w.1 % 16 ≠ slotDie s.cur } else s
      s.withMe fun t =>
        { t.result f.d (if rel then BitVec.ofNat 64 t.sealFailed.length else 0) with
          sealFailed := if rel then [] else t.sealFailed }
    else r.1.park i none

/-- PHASE_REL (R177). -/
def execPhaseRel (f : PhaseOps) (s : State) : Out := .next (s.phase (.phaseRel f) f true false)
/-- PHASE_ACQ (R177). -/
def execPhaseAcq (f : PhaseOps) (s : State) : Out := .next (s.phase (.phaseAcq f) f false true)
/-- PHASE_AR (R177). -/
def execPhaseAr (f : PhaseOps) (s : State) : Out := .next (s.phase (.phaseAr f) f true true)

/-! ### Waits on counters, contexts and words -/

/-- WAITC (R181). -/
def execWaitc (f : WaitcOps) (s : State) : Out :=
  .next (s.waitFor (.waitc f) f.d
    (if (s.me.xr f.a).ule (s.me.ctr f.ctr.toNat).retired then some 0 else none) none)

/-- The statuses of a context slot's completed commands up to number n enter STICKY (R182, R205). -/
def State.acquireStatuses (s : State) (k : Nat) (n : Word) : State :=
  let key := (s.me.ctxSlot k).key
  let x := s.ctx key
  let got := x.statuses.filter fun e => e.1.ule n
  let s := if got.isEmpty then s else s.setCtx key { x with statuses := x.statuses.filter fun e => !e.1.ule n }
  s.withMe fun t => t.setCsr 0x012 (got.foldl (fun w e => w ||| e.2.setWidth 64) (t.csrv 0x012))

/-- WAITT (R182). -/
def execWaitt (f : RrSlot) (s : State) : Out :=
  let v := s.me.xr f.a
  let k := f.slot.toNat + (if v.getLsbD 63 then 8 else 0)
  let n := v &&& ~~~ (1#64 <<< 63)
  let c := s.me.ctxSlot k
  .next (if !c.bound then
      if n = 0 then s.waitEnds f.d 0 else s.raise causeEngctx (tvalWord (wordOf (.waitt f)))
    else if n.ule c.completed then (s.acquireStatuses k n).waitEnds f.d 0
    else s.waitFor (.waitt f) f.d (if c.faulted then some 2 else none) none)

/-- A checked byte lies in the executing hart's own core's scratchpad. -/
def State.inOwnSpad (s : State) (l : Loc) : Bool :=
  !gaHost l.ga && decide (gaChip l.ga = s.chip) && decide (gaKind l.ga = 2) &&
    decide (gaDie l.ga * 16 + gaOff l.ga / 2 ^ 21 = coreOf s.cur)

/-- The operands of a wait are checked once, before it waits (R392); a wait tried again only translates them. -/
def State.checkOnce (s : State) (need : Need) (vec : Bool) (va : Word) (n : Nat) : Except Stop (List Loc) :=
  let locs := s.rawRange (s.party s.cur) va n
  if s.me.wait.isSome && locs.length = n then .ok locs else s.checkRange (s.party s.cur) need vec va n
/-- Bytes of this package that cannot be reached now: a wait looks at them later (21_service R383, R384). -/
def State.outOfReach (s : State) (gas : List Nat) : Bool := gas.any s.mustWait

/-- The word that a WAITG or WAITW watches, checked as R392 orders: translation, then the kind rule, then
alignment, then errors. -/
def State.watched (s : State) (va : Word) (n : Nat) (kind : Loc → Bool) : Except (State × Stop) (List Loc) :=
  match s.checkOnce .rd false va n with
  | .error e => .error (s, e)
  | .ok locs =>
    match locs.findIdx? fun l => !kind l with
    | some i => .error (s, .trap causePerm (va + BitVec.ofNat 64 i))
    | none =>
      if va.toNat % n ≠ 0 then .error (s, .trap causeAlign va)
      else
        match s.eccByte va locs with
        | some v => .error (s.logError (errorUnit (locs.headD ⟨0, false⟩).ga) s.cur, .trap causeEcc v)
        | none => .ok locs

/-- WAITG's status of a clasp word (R183): ERR gives 2. -/
def claspStatus (w : Nat) (gen : Word) : Option Word :=
  if w.testBit 96 then some 2
  else if 0 ≤ (BitVec.ofNat 32 (w / 2 ^ 64) - gen.setWidth 32).toInt then some 0 else none

/-- WAITG (R183, R392): it reads behind the hart's own blocking vector accesses (10_consistency R252). -/
def execWaitg (f : Rrr) (s : State) : Out :=
  .next (s.inOrder (s.me.xr f.a) <| match s.watched (s.me.xr f.a) 16 s.inOwnSpad with
    | .error (s, e) => s.halt e
    | .ok locs =>
      if s.outOfReach (locGas locs) then (s.park (.waitg f) none).withMe Hart.closeConvoy
      else s.waitFor (.waitg f) f.d (claspStatus (s.readAt (locGas locs)) (s.me.xr f.b)) none)

/-- WAITW (R184, R392), behind the hart's own blocking vector accesses (10_consistency R251). On the own package the home evaluates the
condition as the word stands and at every write of it, and what it saw then is `seen`; another device's word is asked for again and
again, its deadline counting once it has been tested: `seen` is what was read. -/
def State.waitWord (s : State) (i : Instr) (f : Rrr) (c : Word → Word → Bool) : State :=
  s.inOrder (s.me.xr f.a) <| match s.watched (s.me.xr f.a) 8 fun l => !l.isReg with
  | .error (s, e) => s.halt e
  | .ok locs =>
    let met (w : Word) : Bool := c w (s.me.xr f.b)
    let seen := s.me.wait.bind (·.seen)
    if locs.all fun l => (s.farDev l.ga).isNone then
      if s.outOfReach (locGas locs) then (s.park i seen).withMe Hart.closeConvoy
      else
        let now := BitVec.ofNat 64 (s.readAt (locGas locs))
        s.waitFor i f.d (if met now || seen.any met then some 0 else none) none
    else
      let r := s.gather s.cur 4 (locGas locs)
      if !r.2 && !(seen.isSome && s.expired) then (r.1.park i seen).withMe Hart.closeConvoy
      else
        let asks := s.me.asks
        let w := BitVec.ofNat 64 (bytesNat (locs.map fun l => (askByte asks l.ga).getD 0))
        (s.withMe fun t => t.dropAsks 4).waitFor i f.d
          (if r.2 && (askFailed asks (locGas locs)).isNone && met w then some 0 else none) (some w)

/-- WAITW_EQ (R184). -/
def execWaitwEq (f : Rrr) (s : State) : Out := .next (s.waitWord (.waitwEq f) f fun w b => w = b)
/-- WAITW_NE (R184). -/
def execWaitwNe (f : Rrr) (s : State) : Out := .next (s.waitWord (.waitwNe f) f fun w b => w ≠ b)
/-- WAITW_GEN (R184). -/
def execWaitwGen (f : Rrr) (s : State) : Out := .next (s.waitWord (.waitwGen f) f fun w b => 0 ≤ (w - b).toInt)
/-- WAITW_LTN (R184). -/
def execWaitwLtn (f : Rrr) (s : State) : Out := .next (s.waitWord (.waitwLtn f) f fun w b => w.ult b)

/-! ### Time, windows and counters -/

/-- TIME (R185). -/
def execTime (f : Rd) (s : State) : Out :=
  let s := s.withMe Hart.closeConvoy
  .next (if s.me.drained then
      let s := s.tickTime
      s.withMe fun t => t.result f.d (s.die (slotDie s.cur)).ptime
    else s.park (.time f) none)

/-- Window copies of a virtual range dropped: the lines that a byte of the range names through a window page (R186). -/
def State.flushRange (s : State) (va : Word) (n : Nat) : State :=
  { s with windows := s.windows.filter fun w =>
      !(decide (w.1 % 16 = slotDie s.cur) && (List.range n).any fun i =>
        let a := va + BitVec.ofNat 64 i
        (s.pageOf (s.party s.cur) a).any fun pg => pg.rwin && decide (s.canon (pg.ga a.toNat) / 64 = w.2.1)) }

/-- WINFL (R186). -/
def execWinfl (f : Rs2) (s : State) : Out :=
  .next ((s.flushRange (s.me.xr f.a) (s.me.xr f.b).toNat).withMe Hart.advance)

/-- CCRD (R187). -/
def execCcrd (f : RdCtr) (s : State) : Out :=
  .next (s.withMe fun t => t.result f.d (t.ctr f.ctr.toNat).retired)

/-- CCSET (R187): waits until nothing of the counter is outstanding. -/
def execCcset (f : RsCtr) (s : State) : Out :=
  let c := s.me.ctr f.ctr.toNat
  .next (if c.retired = c.issued then
      s.withMe fun t => (t.setCtr f.ctr.toNat ⟨t.xr f.a, t.xr f.a⟩).advance
    else s.park (.ccset f) none)

/-! ### Stage queues (R188, R189, R392, 14_regions R298) -/

/-- The bytes of a checked range as a number, registers included, once other devices have given theirs; nothing is checked
again. A byte of a device that fails before it answers is 0 (DESIGN CHOICE, log entry 59): R243 names the value of a load's only. -/
def State.peek (s : State) (own : Nat) (locs : List Loc) : State × Option Nat :=
  let r := s.gather s.cur own (locGas locs)
  if !r.2 || s.outOfReach (locGas locs) then (r.1, none)
  else
    let byte (l : Loc) : Byte :=
      if (s.farDev l.ga).isSome then (askByte s.me.asks l.ga).getD 0
      else if l.isReg then BitVec.ofNat 8 (s.regLoad s.me.secure l.ga 1) else s.readByte l.ga
    (s, some (bytesNat (locs.map byte)))
/-- The locations of n bytes at a global address. -/
def gaLocs (ga n : Nat) : List Loc := (gaRange ga n).map fun a => ⟨a, false⟩

/-- A queue's operands checked in R392's order: the header's GA, the header and the item range, or why not. The item's length is what
the header says; a header on another device is read there. -/
def State.queueOperands (s : State) (hva iva : Word) (push : Bool) : Except (State × Stop) (Nat × QHeader × List Loc) :=
  match s.checkOnce .both false hva 64 with
  | .error e => .error (s, e)
  | .ok hl =>
    let ga := (hl.headD ⟨0, false⟩).ga
    match s.peek 4 (hl.take 32) with
    | (s, none) => .error (s, .wait hva)
    | (s, some v) =>
      match s.checkOnce (if push then .bulkRd else .bulkWr) false iva (qHeader v).item with
      | .error e => .error (s, e)
      | .ok il =>
        match hl.findIdx? fun l => gaHost l.ga || l.isReg with
        | some i => .error (s, .trap causePerm (hva + BitVec.ofNat 64 i))
        | none =>
          if hva.toNat % 64 ≠ 0 then .error (s, .trap causeAlign hva)
          else if iva.toNat % 8 ≠ 0 then .error (s, .trap causeAlign iva)
          else
            match s.eccByte hva hl with
            | some v => .error (s.logError (errorUnit ga) s.cur, .trap causeEcc v)
            | none =>
              match s.eccByte iva il with
              | some v => .error (s.logError (errorUnit (il.headD ⟨0, false⟩).ga) s.cur, .trap causeEcc v)
              | none => .ok (ga, qHeader v, il)

/-- A header that the device has written for a queue of a region and that still has the queue's depth, item size and ring (R297). Nothing
is promised of any other, which affects no other region (14_regions R298). -/
def State.deviceQueue (s : State) (ga : Nat) (q : QHeader) : Bool :=
  s.headers.contains (s.canon ga) && s.regions.any fun e => e.2.queues.any fun x =>
    decide (s.canon x.ga = s.canon ga ∧ x.depth = q.depth ∧ x.item = q.item ∧ x.ring.toNat = q.ring)
/-- The header of a queue of this package that QPUSH and QPOP work on. -/
def State.openQueue (s : State) (ga : Nat) (q : QHeader) : Bool := q.valid && s.deviceQueue ga q
/-- The status on any other header: 2 where it is not valid (R188); nothing is promised of one that software has made valid, so
its status is free (log entry 54). -/
def State.queueStatus (s : State) (q : QHeader) : Word := if q.valid then Config.queueStatus s.fresh else 2

/-- A poisoned line among the item's bytes in the ring (21_service R379). -/
def State.ringPoisoned (s : State) (q : QHeader) (i : Nat) : Bool :=
  (gaRange (q.slot i) q.item).any s.poisoned
/-- The ring's bytes cannot be reached now. -/
def State.ringAway (s : State) (q : QHeader) (i : Nat) : Bool := s.outOfReach (gaRange (q.slot i) q.item)
/-- An item pushed: it goes into the slot numbered TAIL, which rises. -/
def State.pushItem (s : State) (ga : Nat) (q : QHeader) (v : Nat) : State :=
  ((s.writeGa (q.slot q.tail) q.item v).writeGa (ga + 4) 4 (q.tail + 1)).closeAllQueues

/-- What a device answers to the update that a QPOP or QPUSH has sent it, once it has; no other record of the hart waits on it. -/
def State.queueAnswer (s : State) (ga : Nat) : Option Ask := s.me.asks.find? fun a => decide (a.own = 0) && a.upd && decide (a.addr = ga)
/-- The device of a queue has failed: the hart reports it and has status 2 (DESIGN CHOICE, log entry 60). -/
def State.queueLost (s : State) (d : BitVec 5) (ga : Nat) : State :=
  ((s.peerLost s.cur (gaChip ga)).withMe fun t => (t.dropAsks 0).dropAsks 4).waitEnds d 2
/-- A QPOP or QPUSH begins anew: what it has read is old. -/
def State.requeue (s : State) (i : Instr) : State := (s.withMe fun t => (t.dropAsks 0).dropAsks 4).park i none
/-- The update that takes a far queue's item number HEAD: a compare and swap of HEAD, for which R336 has the record (DESIGN CHOICE, log
entry 60). -/
def headSwap (q : QHeader) : List Byte :=
  atomicWord 9 2 true ++ natBytes 4 ((q.head + 1) % 2 ^ 32) ++ natBytes 4 q.head
/-- A QPOP from a queue of another device (R189): the item numbered HEAD is read there, and is taken if HEAD still stands when the update
is performed at its home. -/
def State.farPop (s : State) (i : Instr) (d : BitVec 5) (ga : Nat) (q : QHeader) (il : List Loc) : State :=
  match s.queueAnswer ga with
  | some a =>
    if a.failed then s.queueLost d ga
    else match a.data with
      | none => s.park i none
      | some bs =>
        if bytesNat bs = q.head then
          match s.peek 4 (gaLocs (q.slot q.head) q.item) with
          | (s, none) => s.park i none
          | (s, some v) => ((s.storeBytes s.cur il v).withMe fun t => (t.dropAsks 0).dropAsks 4).waitEnds d 0
        else s.requeue i
  | none =>
    if (askFailed s.me.asks (gaRange ga 32)).isSome then s.queueLost d ga
    else if !q.valid then (s.withMe fun t => t.dropAsks 4).waitEnds d 2
    else if q.occupancy = 0 then (s.withMe fun t => t.dropAsks 4).waitFor i d (if q.closed then some 2 else none) none
    else match s.peek 4 (gaLocs (q.slot q.head) q.item) with
      | (s, none) => s.park i none
      | (s, some _) =>
        let r := s.sendAsk s.cur 0 ga 4 (some (0x04, headSwap q))
        (r.1.withMe fun t => { t.countSent (16 + gaChip ga) with asks := t.asks ++ [r.2] }).park i none
/-- QPOP (R188, R189): the item numbered HEAD is taken. -/
def execQpop (f : Rrr) (s : State) : Out :=
  .next (match s.queueOperands (s.me.xr f.a) (s.me.xr f.b) false with
    | .error (s, e) => s.halt e
    | .ok (ga, q, il) =>
      let s := s.withMe Hart.closeConvoy
      if (s.farDev ga).isSome then s.farPop (.qpop f) f.d ga q il
      else if !s.openQueue ga q then s.waitEnds f.d (s.queueStatus q)
      else if q.occupancy ≠ 0 then
        if s.ringAway q q.head then s.park (.qpop f) none
        else if s.ringPoisoned q q.head then
          (s.logError (errorUnit q.ring) s.cur).halt (.trap causeEcc (s.me.xr f.a))
        else
          let s' := (s.storeBytes s.cur il (s.readGa (q.slot q.head) q.item)).writeGa ga 4 (q.head + 1)
          (s'.waitEnds f.d 0).closeAllQueues
      else s.waitFor (.qpop f) f.d (if q.closed then some 2 else none) none)

/-- The bytes of an item that one record carries to a queue's home. -/
def pushPart : Nat := 240
/-- An item sent to the home of a queue, which pushes it when the last part has come; operation codes 13, a part, and 14, the last one,
are this model's (DESIGN CHOICE, log entry 60). -/
def State.sendPush (s : State) (ga : Nat) (bs : List Byte) : State :=
  let parts := (bs.length - 1) / pushPart
  let s := (List.range parts).foldl (fun (s : State) i =>
    let r := s.newTag
    let data := atomicWord 13 3 false ++ (bs.drop (pushPart * i)).take pushPart
    let s := r.1.withMe fun t => t.countSent (16 + gaChip ga)
    s.sendTracked s.cur (gaChip ga) false (s.hartRecord s.cur 0x04 ga data.length true r.2 data)) s
  let r := s.sendAsk s.cur 0 ga 8 (some (0x04, atomicWord 14 3 true ++ bs.drop (pushPart * parts)))
  r.1.withMe fun t => { t.countSent (16 + gaChip ga) with asks := t.asks ++ [r.2] }
/-- A QPUSH to a queue of another device (R189): its home pushes the item, or answers that the queue is full (1), or is closed or not one
of its (2). -/
def State.farPush (s : State) (i : Instr) (d : BitVec 5) (ga : Nat) (q : QHeader) (v : Nat) : State :=
  match s.queueAnswer ga with
  | some a =>
    if a.failed then s.queueLost d ga
    else match a.data with
      | none => s.park i none
      | some bs =>
        if bytesNat bs = 1 then s.requeue i
        else (s.withMe fun t => (t.dropAsks 0).dropAsks 4).waitEnds d (BitVec.ofNat 64 (bytesNat bs))
  | none =>
    if (askFailed s.me.asks (gaRange ga 32)).isSome then s.queueLost d ga
    else if !q.valid || q.closed then (s.withMe fun t => t.dropAsks 4).waitEnds d 2
    else if q.depth ≤ q.occupancy then (s.withMe fun t => (t.dropAsks 0).dropAsks 4).waitFor i d none none
    else (s.sendPush ga (natBytes q.item v)).park i none
/-- QPUSH (R188, R189): a package-scope release, then the item goes in the slot numbered TAIL. -/
def execQpush (f : Rrr) (s : State) : Out :=
  .next (match s.queueOperands (s.me.xr f.a) (s.me.xr f.b) true with
    | .error (s, e) => s.halt e
    | .ok (ga, q, il) =>
      s.afterDrain (.qpush f) fun s =>
        let r := s.release s.cur 2
        match (if (s.queueAnswer ga).isSome then (s, some 0) else if r.2 then r.1.peek 0 il else (r.1, none)) with
        | (s, none) => s.park (.qpush f) none
        | (s, some v) =>
          if (s.farDev ga).isSome then s.farPush (.qpush f) f.d ga q v
          else if !s.openQueue ga q then s.waitEnds f.d (s.queueStatus q)
          else if q.closed then s.waitEnds f.d 2
          else if q.occupancy < q.depth then
            if s.ringAway q q.tail then s.park (.qpush f) none
            else ((s.pushItem ga q v).waitEnds f.d 0)
          else (s.withMe fun t => t.dropAsks 0).waitFor (.qpush f) f.d none none)

end Sys2Proof.Machine
end

