-- ==== Sys2Proof/Machine/Sched.lean ====
section
/-!
DEFINITION. Machine/Sched.lean: the region scheduler (14_regions R297-R304; 20_faults R368, R373): placement,
grants, pre-emption and restoring, the division of a core's clusters, and SHARE (04_scalar R117).
-/

namespace Sys2Proof.Machine

/-! ### Fault domains (R296) -/

/-- The live regions of a region's fault domain (R296). -/
def State.domain (s : State) (r : Nat) : List Nat :=
  let g := s.region r
  if g.fdom = 0 then [r]
  else s.liveRegions.filter fun q => (s.region q).fdom = g.fdom ∧ (s.region q).tenant = g.tenant
/-- A hart of a region's domain has stopped on a trap: nothing more is granted to it (R296). -/
def State.domainStops (s : State) (r : Nat) : Bool :=
  s.harts.any fun e => (match e.2.run with | .stopped _ _ => true | _ => false) &&
    e.2.region.any fun q => (s.domain r).contains q

/-! ### Placement (R297) -/

/-- A core may run harts of a tenant and world: in service, on the tenant's side of strict mode, and secure for a secure
hart (21_service R381, R382, R384). -/
def State.coreAllowed (s : State) (tenant : Nat) (world : Bool) (core : Nat) : Bool :=
  let o := Sparse.get 0 s.coreOwner core
  !s.drained.contains (.core (core / 16) (core % 16)) && !(s.die (core / 16)).out &&
    !(world && s.plainCores.contains core) &&
    (if s.strict.contains tenant then decide (o = tenant + 1) else decide (o = 0) || !s.strict.contains (o - 1))

/-- What a hart needs of a core, with its family: clusters whatever the core allows (a saved hart's own) and its stage's demand, window
rows, slots, tile queues for the members in matrix mode, and dies; the window rows and locket spaces that its region is not charged
for yet. -/
structure Needs where
  clusters : Nat
  demand : Nat
  rows : Nat
  slots : Nat
  tqs : Nat
  dies : BitVec 8
  newRows : Nat
  spaces : Nat
  deriving DecidableEq, Repr

/-- The free clusters needed on a core, whose retired clusters cap every demand (21_service R380), and those taken there: a saved hart
comes back with its own. -/
def Needs.least (n : Needs) (cap : Nat) : Nat := max n.clusters (min n.demand cap)
def Needs.taken (n : Needs) (cap : Nat) : Nat := if n.spaces = 0 then n.clusters else n.least cap

/-- The budgets and the device pool allow a hart with these needs on a core of this cap (R292, R303). -/
def State.affords (s : State) (r : Nat) (n : Needs) (cap : Nat) : Bool :=
  decide (n.taken cap ≤ s.remaining 0 r) && decide (n.slots ≤ s.remaining 1 r) &&
    decide (n.newRows ≤ s.remaining 2 r) && decide (n.spaces * (locketSize n.rows + 4096) ≤ s.remaining 5 r) &&
    decide (n.spaces ≤ (s.spaces (s.region r).world n.rows).length)
/-- A core has everything a hart of a region needs (R297). -/
def State.qualifies (s : State) (r : Nat) (n : Needs) (core : Nat) : Bool :=
  let g := s.region r
  s.coreAllowed g.tenant.toNat g.world core && decide (n.slots ≤ (s.freeSlots core).length) &&
    decide (n.least (s.shareCap core) ≤ s.spare core) && !(s.freeWindows core n.rows).isEmpty &&
    (g.spad = 0 || g.allocs.any (fun a => a.1 = core) || !(s.freeSpad core g.spad).isEmpty) &&
    decide (n.tqs ≤ (s.freeTq core).length) && s.affords r n (s.shareCap core)

/-- The cores a region occupies. -/
def State.occupied (s : State) (r : Nat) : List Nat := ((s.slotHarts r).map coreOf).dedup

/-- The core for a hart of a stage: the dies in turn after the one of the stage's previous grant, a core the region
occupies before a new one (R297). Which of several is not promised. -/
def State.findCore (s : State) (r st : Nat) (n : Needs) : Option Nat :=
  let g := s.region r
  let dies := ((List.range 8).map fun i => ((g.stage st).lastDie + 1 + i) % 8).filter fun d =>
    n.dies.getLsbD d && s.liveDie d
  dies.findSome? fun d =>
    let ok := ((List.range 16).map (d * 16 + ·)).filter (s.qualifies r n)
    match choose s.fresh (ok.filter (s.occupied r).contains) with
    | some c => some c
    | none =>
      if (s.occupied r).length < g.cores then
        choose s.fresh (ok.filter fun c => !(s.occupied r).contains c)
      else none

/-- The region's scratchpad on a core, allocated there if it is not yet; on the first core, its home, the queue
headers are written (R297). -/
def State.settleOn (s : State) (r core : Nat) : State :=
  let g := s.region r
  let allocs :=
    if g.spad = 0 ∨ g.allocs.any (fun a => a.1 = core) then g.allocs
    else ((choose s.fresh (s.freeSpad core g.spad)).map fun b => (core, b)).toList ++ g.allocs
  if g.homeCore.isSome then s.setRegion r { g with allocs := allocs }
  else
    let base := s.spadBase core + ((allocs.find? fun a => a.1 = core).map (·.2)).getD 0
    let qs := g.queues.map fun q =>
      if q.place then q else { q with ga := base + q.hdr.toNat, ring := BitVec.ofNat 64 (base + q.ring.toNat) }
    let s := s.setRegion r { g with allocs := allocs, queues := qs, homeCore := some core }
    qs.foldl (fun s q => s.initQueue q.ga q.depth q.item q.ring.toNat) s

/-- hp: GA of the region's allocation on a core, 0 without one (R297). -/
def State.hp (s : State) (r core : Nat) : Word :=
  match (s.region r).allocs.find? fun a => a.1 = core with
  | none => 0
  | some a => BitVec.ofNat 64 (s.spadBase core + a.2)

/-- The start state of a granted hart (01_machine R31, R299). -/
def State.newHart (s : State) (r st core : Nat) (map : BitVec 8) (first : Nat) (space : Nat) : Hart :=
  let g := s.region r
  let t := g.stage st
  let rcb := BitVec.ofNat 64 (g.rcb.getD 0)
  let t0 := { Hart.free with
    run := .running
    pc := t.entry
    map := map
    demand := t.clusters
    region := some r
    stage := st
    granted := s.grants
    space := some space }
  let t1 := (((t0.setX 1 (s.hp r core)).setX 10 rcb).setX 11 (BitVec.ofNat 64 st)).setX 12
    (BitVec.ofNat 64 (s.liveHarts r st))
  ([(0x00A, rcb), (0x014, BitVec.ofNat 64 (first + g.windowRows t * 2 ^ 16)), (0x016, g.grptab),
    (0x100, g.tvec &&& ~~~ 3#64), (0x105, BitVec.ofNat 64 space), (0x106, g.ptroot),
    (0x107, g.tenant.setWidth 64 ||| (if g.world then 0x10000 else 0)), (0x10B, g.partmap)] :
    List (Nat × Word)).foldl (fun t e => t.setCsr e.1 e.2) t1

/-- What a new hart of a stage needs. -/
def State.newNeeds (s : State) (r st : Nat) : Needs :=
  let t := (s.region r).stage st
  let rows := (s.region r).windowRows t
  ⟨0, t.clusters, rows, 1, 0, t.dies, rows, 1⟩
/-- A new hart of a stage granted, if it can be placed within the budgets (GRANT, R299). -/
def State.grantNew (s : State) (r st : Nat) : Option State :=
  let g := s.region r
  let t := g.stage st
  let n := s.newNeeds r st
  match s.findCore r st n, s.spaces g.world n.rows with
  | some core, space :: _ =>
    match choose s.fresh (s.freeSlots core), choose s.fresh (s.freeWindows core n.rows) with
    | some h, some first =>
      let map := pickClusters s.fresh (n.taken (s.shareCap core)) (s.freeClusters core)
      let s := s.settleOn r core
      let s := s.setRegion r ((s.region r).setStage st { t with lastDie := core / 16 })
      let s := { s.takeSpaces [space] n.rows with grants := s.grants + 1, fresh := s.fresh + 1 }
      some ((s.setHart h (s.newHart r st core map first space)).syncRcb r)
    | _, _ => none
  | _, _ => none

/-! ### Pre-emption (20_faults R368) -/

/-- Members of a hart's FORK family in slots, or the hart alone (R121). -/
def State.kin (s : State) (h : Nat) : List Nat :=
  match (s.hart h).family with
  | none => [h]
  | some f => (coreSlots (coreOf h)).filter fun k => (s.hart k).family.any fun g => g.id = f.id

/-- The units whose acknowledgement a stop awaits: scalar side, lane array, memory operations, matrix engine,
sequencer buffer, and the contexts bound (R368). -/
def Hart.stopUnits (t : Hart) : List Nat :=
  [0, 1, 2, 3, 4] ++ (if t.boundKeys.any fun k => k % 2048 < 1024 then [5] else []) ++
    (if t.boundKeys.any fun k => 1024 ≤ k % 2048 then [6] else [])
/-- A stop sent to every unit a hart uses (PREEMPT). -/
def State.sendStop (s : State) (h : Nat) (park : Bool) : State :=
  let t := s.hart h
  if t.run = .running then
    t.boundKeys.foldl (fun s k => s.setStopped k true) (s.setHart h { t with run := .stopping t.stopUnits park })
  else s
/-- A running hart stopped so as to be held (R128, R296). -/
def State.sendHold (s : State) (h : Nat) : State :=
  let t := s.hart h
  if t.run = .running then
    t.boundKeys.foldl (fun s k => s.setStopped k true) (s.setHart h { t with run := .holding t.stopUnits })
  else s
/-- A hart, with its family, pre-empted (R121, R368). -/
def State.preempt (s : State) (h : Nat) (park : Bool) : State :=
  (s.kin h).foldl (fun s k => s.sendStop k park) s

/-- The contexts bound to a saved hart are bound to no slot. -/
def State.parkCtxs (s : State) (h : Nat) : State :=
  (s.hart h).boundKeys.foldl (fun s k => s.setCtx k { s.ctx k with hart := none, stopped := true }) s

/-- A stopped hart's locket written in its space, and its slot freed; it waits in the locket (LOCKET_WRITE). -/
def State.saveAway (s : State) (h : Nat) (park : Bool) : State :=
  let s := s.stopHart h
  let t := s.hart h
  match t.space, t.region with
  | some ga, some r =>
    let s := (s.writeLocket h (fun i => ga + 4096 + i) false).parkCtxs h
    let s := { s with
      lockets := s.lockets ++ [(⟨ga, r, t.stage, park, s.grants, { t with unsealed := [], inherited := [] }.inherit t h⟩ : Locket)]
      grants := s.grants + 1 }
    let s := (s.zeroRows (coreOf h) t.accFirst t.accRows).setHart h Hart.free
    (s.releaseCore r (coreOf h)).syncRcb r
  | _, _ => s.setHart h { t with run := .held }

/-- The units that a stop still awaits. -/
def Run.awaited : Run → List Nat
  | .stopping u _ => u
  | .holding u => u
  | _ => []
/-- The lane array of a hart works: it runs, or it is being stopped and its lane array has not acknowledged (20_faults R368). -/
def Run.lanesWork : Run → Bool
  | .running => true
  | .stopping u _ | .holding u => u.contains 1
  | _ => false
/-- A unit has not stopped at its granularity (R358, R368): an access or update of the scalar side that has been sent, or an
atomic of the lane array, completes, and so does a LAUNCH under way (14_regions R296); a vector fault that the lane array has met is
taken first; every sent write has been performed and every load has landed; matrix instructions that hold vector operands read them
out, and one that stops only as a whole ends; a replay is fully enqueued; a segment, and a step of a collective, is performed. -/
def State.unitBusy (s : State) (h part : Nat) : Bool :=
  let t := s.hart h
  match part with
  | 0 => t.launching.isSome || t.asks.any fun a => decide (a.own = 0) && (a.upd || !a.settled)
  | 1 => (t.laneDue && t.run.lanesWork) || t.nb.any fun o => decide (o.ctr = 0)
  | 2 => t.nb.any (fun o => !o.held) || !t.tracked.isEmpty || !t.sealing.isEmpty || t.asks.any fun a => decide (a.own = 1) && !a.settled
  | 3 => t.tile.any (fun e => !e.reads.isEmpty) || (t.tile ++ t.queue).any QEntry.midway ||
    decide (queueSize < t.tile.length + t.queue.length)
  | 4 => decide (t.partReplay ≠ 0)
  | 5 => t.boundKeys.any fun k => (s.ctx k).inFlight
  | _ => t.boundKeys.any fun k => (s.ctx k).coll.any fun m => m.given && m.done.isNone && (m.xfer.sent || !m.xfer.asks.isEmpty)
/-- The engine or the collective contexts of a hart stop (R368). -/
def State.stopCtxs (s : State) (h : Nat) (coll : Bool) : State :=
  ((s.hart h).boundKeys.filter fun k => decide (1024 ≤ k % 2048) = coll).foldl
    (fun s k => s.setCtx k { s.ctx k with stopped := true }) s
/-- An acknowledgement of one unit; after the last one the locket is written, or the hart is held (R368). A unit that has not
stopped yet does not acknowledge, nor does the last one while the locket cannot be written (21_service R383, R384). -/
def State.ackStop (s : State) (h part : Nat) : State :=
  let s := if part = 2 then s.drainNb h else s
  let t := s.hart h
  if !t.run.awaited.contains part || s.unitBusy h part ||
      (t.run.awaited = [part] && t.space.any fun a => s.spaceWaits a t.accRows) then s
  else
    let rest := t.run.awaited.filter (· ≠ part)
    let s := if part = 5 ∨ part = 6 then s.stopCtxs h (part = 6) else s
    let t := if part = 6 then
      { t with ctxs := t.ctxs.map fun e => if 8 ≤ e.1 ∧ e.2.bound then (e.1, { e.2 with parked := true }) else e }
      else t
    match t.run with
    | .stopping _ park =>
      let s := s.setHart h { t with run := .stopping rest park }
      if rest.isEmpty then s.saveAway h park else s
    | .holding _ =>
      let s := s.setHart h { t with run := .holding rest }
      if rest.isEmpty then
        let s := s.stopHart h
        s.setHart h { s.hart h with run := .held }
      else s
    | _ => s

/-! ### Restoring (20_faults R373) -/

/-- The lockets restored together with one: its family's. -/
def State.group (s : State) (l : Locket) : List Locket :=
  match l.hart.family with
  | none => [l]
  | some f => s.lockets.filter fun x => x.hart.family.any fun g => g.id = f.id
/-- Every member of a family that has not merged or ended is in the group. -/
def wholeGroup (ls : List Locket) : Bool :=
  match ls.findSome? fun l => l.hart.family.bind fun f => if f.index = 0 then some f else none with
  | none => ls.all fun l => l.hart.family.isNone
  | some f => ls.length + f.handed.length = f.ways

/-- The clusters a saved hart comes back with: a reduction that the scheduler set is applied (01_machine R19, R301). -/
def Locket.k (l : Locket) : Nat :=
  if l.hart.reduced then min l.hart.k (l.hart.pending.getD l.hart.k) else l.hart.k

/-- Clusters of child i among n, of a parent's (01_machine R18). -/
def childMap (parent : BitVec 8) (n i : Nat) : BitVec 8 :=
  let l := mapList parent
  listMap ((List.range l.length).filterMap fun j => if j % n = i then l[j]? else none)

/-- The rows of a window read back from an image. -/
def State.loadRows (s : State) (addr : Nat → Nat) (core first n : Nat) : State :=
  { s with acc := (List.range n).foldl (fun l a =>
      Sparse.set 0 l (1536 * core + first + a) (BitVec.ofNat 4096 (s.getAt addr (0x35000 + 512 * a) 512))) s.acc }

/-- The contexts bound to a restored hart go on, bound to its slot; a fault that one met meanwhile is pending for it (R372, R376;
06_memory_isa R204). -/
def State.resumeCtxs (s : State) (h : Nat) : State :=
  ((s.hart h).ctxs.filter fun e => e.2.bound).foldl (fun (s : State) (e : Nat × CtxSlot) =>
    let x := s.ctx e.2.key
    let t := s.hart h
    let fell := x.faulted && !e.2.faulted
    let t := t.setCtxSlot e.1 { e.2 with faulted := x.faulted, completed := x.completed }
    let t := if !fell then t else if 8 ≤ e.1 then { t with collFault := true } else { t with engFault := true }
    let others := x.coll.flatMap fun m => (s.ctxs.filter fun c => c.2.coll.any fun n =>
      decide (n.group = m.group ∧ n.index = m.index)).map (·.1)
    let s := others.foldl (fun s k => s.setCtx k { s.ctx k with parkSince := none }) s
    (s.setHart h t).setCtx e.2.key { s.ctx e.2.key with hart := some h, slot := e.1 % 8, stopped := false, parkSince := none }) s
/-- One locket written back into a slot (HART_RESTORE). -/
def State.restoreOne (s : State) (l : Locket) (h : Nat) (map parent : BitVec 8) (first : Nat) : State :=
  let addr := fun i => l.ga + 4096 + i
  let core := coreOf h
  let t := s.loadLocket addr l.hart l.hart.map ((s.freeTq core).headD 0)
  let t := if l.k = l.hart.k then t else { t.migrate l.k 64 with pending := none, reduced := false, limit := none }
  let t := { t with
    run := .running
    priv := l.hart.priv
    map := map
    granted := s.grants
    graceAt := (s.die (slotDie h)).ptime
    issuedIn := 0
    stalled := none
    family := t.family.map fun (f : Family) => { f with parentMap := parent }
    ctxs := t.ctxs.map fun (e : Nat × CtxSlot) => (e.1, { e.2 with parked := false }) }
  let t := t.setCsr 0x014 (BitVec.ofNat 64 (first + t.accRows * 2 ^ 16))
  let s := (s.setHart h t).loadRows addr core first t.accRows
  { s.resumeCtxs h with lockets := s.lockets.filter fun x => x.ga ≠ l.ga }

/-- Dies on which a group's bound collective contexts allow it to run (10_consistency R268). -/
def State.groupDies (s : State) (ls : List Locket) (m : BitVec 8) : BitVec 8 :=
  ls.foldl (fun m l => (l.hart.boundKeys.filter fun k => 1024 ≤ k % 2048).foldl
    (fun m k => m &&& (1 <<< (s.ctx k).die)) m) m

/-- The clusters that a saved hart takes, or its family as FORK laid them out (04_scalar R121). -/
def Locket.clusters (l : Locket) : Nat :=
  match l.hart.family with
  | none => l.k
  | some f => popCount 8 f.parentMap.toNat
/-- What a saved hart needs, with its family: its stage's clusters at least, unless its share was reduced (R297, R301). -/
def State.restoreNeeds (s : State) (l : Locket) : Needs :=
  let ls := s.group l
  let k := l.clusters
  ⟨k, if l.hart.reduced then 1 else ((s.region l.region).stage l.stage).clusters, (ls.map fun x => x.hart.accRows).sum, ls.length,
    (ls.filter fun x => x.hart.matrix.isSome).length, s.groupDies ls ((s.region l.region).stage l.stage).dies, 0, 0⟩

/-- A saved hart, with its family, restored on a core that qualifies, if there is one (R299, R373). -/
def State.restore (s : State) (l : Locket) : Option State :=
  let ls := s.group l
  let n := s.restoreNeeds l
  if !wholeGroup ls || ls.any (fun x => s.spaceWaits x.ga x.hart.accRows) then none
  else
    match s.findCore l.region l.stage n with
    | none => none
    | some core =>
      match choose s.fresh (s.freeWindows core n.rows) with
      | none => none
      | some first =>
        let map := pickClusters s.fresh l.clusters (s.freeClusters core)
        let s := s.settleOn l.region core
        let slots := s.freeSlots core
        let put (s : State) (x : Locket × Nat) : State :=
          let mine := match x.1.hart.family with
            | none => map
            | some f => childMap map f.ways f.index
          s.restoreOne x.1 x.2 mine map first
        let s := (ls.zip slots).foldl put s
        let g := s.region l.region
        let s := s.setRegion l.region (g.setStage l.stage { g.stage l.stage with lastDie := core / 16 })
        some ({ s with grants := s.grants + 1, fresh := s.fresh + 1 }.syncRcb l.region)

/-! ### Pressure and candidates (R299) -/

/-- Occupancy over depth of a queue as a fraction; a queue not yet placed holds nothing. -/
def State.fill (s : State) (r q : Nat) : Nat × Nat :=
  let d := ((s.region r).queues[q]?.map (·.depth)).getD 1
  ((((s.queueHeader r q).map fun x => x.2.occupancy).getD 0), d)
/-- The pressure of a stage: numerator and denominator. -/
def State.pressure (s : State) (r : Nat) (t : Stage) : Int × Nat :=
  let i := (t.inq.map (s.fill r)).getD (1, 1)
  let o := (t.outq.map (s.fill r)).getD (0, 1)
  ((i.1 * o.2 : Nat) - (o.1 * i.2 : Nat), i.2 * o.2)

/-- Harts of a stage that wait in lockets, pre-empted or parked, longest first; a family counts by child 0. -/
def State.stageLockets (s : State) (r st : Nat) (park : Bool) : List Locket :=
  s.lockets.filter fun l => decide (l.region = r ∧ l.stage = st ∧ l.parked = park) && !l.hart.isChild

/-- A stage is closing, so HMIN no longer applies (R299). -/
def State.stageCloses (s : State) (r : Nat) (t : Stage) : Bool := t.closing || s.inputOver r t
/-- A stage is below HMIN. -/
def State.belowMin (s : State) (r st : Nat) : Bool :=
  let t := (s.region r).stage st
  !s.stageCloses r t && decide (s.liveHarts r st - (s.stageLockets r st false).length < t.hmin)
/-- Stages of a region with queued initial grants. -/
def State.queuedStages (s : State) (r : Nat) : List Nat :=
  (List.range (s.region r).stages.length).filter fun i => 0 < ((s.region r).stage i).queued
/-- A stage is a candidate for a grant (R299). -/
def State.candidate (s : State) (r st : Nat) : Bool :=
  let t := (s.region r).stage st
  let parked := !(s.stageLockets r st true).isEmpty
  !s.domainStops r && !(s.region r).opening && decide (s.placed r st < t.hmax) &&
    (decide (0 < t.queued) || s.belowMin r st || !(s.stageLockets r st false).isEmpty ||
      (decide (0 < (s.pressure r t).1) && (s.mayStart r t || parked)) ||
      ((t.inq.bind (s.queueHeader r)).any fun q => q.2.closed) && parked)

/-- The order in which candidates are served (R299); a stage with queued initial grants is below HMIN by them. -/
def State.servedBefore (s : State) (a b : Nat × Nat) : Bool :=
  let ga := s.region a.1
  let gb := s.region b.1
  let ba := s.belowMin a.1 a.2 || decide (0 < (ga.stage a.2).queued)
  let bb := s.belowMin b.1 b.2 || decide (0 < (gb.stage b.2).queued)
  let pa := s.pressure a.1 (ga.stage a.2)
  let pb := s.pressure b.1 (gb.stage b.2)
  if ba ≠ bb then ba
  else if ga.priority ≠ gb.priority then decide (gb.priority < ga.priority)
  else if pa.1 * pb.2 ≠ pb.1 * pa.2 then decide (pb.1 * pa.2 < pa.1 * pb.2)
  else if ga.weight ≠ gb.weight then decide (gb.weight < ga.weight)
  else if a.1 ≠ b.1 then decide (a.1 < b.1)
  else decide (a.2 < b.2)
/-- The candidates in order. -/
def State.candidates (s : State) : List (Nat × Nat) :=
  let all := s.liveRegions.flatMap fun r =>
    ((List.range (s.region r).stages.length).filter (s.candidate r)).map fun st => (r, st)
  all.foldl (fun l c => insertBy s.servedBefore c l) []

/-! ### Making room (R299) -/

/-- Harts of a core that a region's priority may displace: lowest priority first, then most recently granted. -/
def State.victims (s : State) (p core : Nat) : List Nat :=
  let prio (h : Nat) : Nat := (s.region ((s.hart h).region.getD 0)).priority
  let all := (coreSlots core).filter fun h =>
    decide ((s.hart h).run = .running) && (s.hart h).region.isSome && decide (prio h < p) && !(s.hart h).isChild
  all.foldl (fun l h => insertBy (fun a b =>
    decide (prio a < prio b) || (decide (prio a = prio b) && decide ((s.hart b).granted < (s.hart a).granted))) h l) []
/-- The state with harts of a core gone to their lockets, to ask whether it would qualify. -/
def State.without (s : State) (hs : List Nat) : State :=
  hs.foldl (fun s h => (s.kin h).foldl (fun s k =>
    let t := s.hart k
    let r := t.region.getD 0
    ({ s.setHart k Hart.free with
      lockets := s.lockets ++ [(⟨t.space.getD 0, r, t.stage, false, 0, t⟩ : Locket)] }).releaseCore r (coreOf k)) s) s
/-- The fewest harts, in order, whose departure frees everything. -/
def State.enough (s : State) (r : Nat) (n : Needs) (core : Nat) : List Nat → List Nat → Option (List Nat)
  | gone, [] => if (s.without gone).qualifies r n core then some gone else none
  | gone, h :: t => if (s.without gone).qualifies r n core then some gone else State.enough s r n core (gone ++ [h]) t
/-- The harts of a core that are already being pre-empted. -/
def State.leaving (s : State) (core : Nat) : List Nat :=
  (coreSlots core).filter fun h => match (s.hart h).run with
    | .stopping _ _ => (s.hart h).region.isSome
    | _ => false
/-- Harts of lower priority pre-empted so that a stage's hart can be placed: the first die in R297's order and core
on which that frees everything (R299). -/
def State.makeRoom (s : State) (r st : Nat) (n : Needs) : State :=
  let g := s.region r
  let dies := ((List.range 8).map fun i => ((g.stage st).lastDie + 1 + i) % 8).filter fun d =>
    n.dies.getLsbD d && s.liveDie d
  let cores := (dies.flatMap fun d => (List.range 16).map (d * 16 + ·)).filter fun c =>
    (s.occupied r).contains c || decide ((s.occupied r).length < g.cores)
  match cores.findSome? fun c => s.enough r n c (s.leaving c) (s.victims g.priority c) with
  | none => s
  | some hs => hs.foldl (fun s h => s.preempt h false) s

/-- One queued initial grant of a stage, if it can be placed. -/
def State.grantQueued (s : State) (r st : Nat) : Option State :=
  if 0 < ((s.region r).stage st).queued then
    (s.grantNew r st).map fun s =>
      let g := s.region r
      let t := g.stage st
      s.setRegion r (g.setStage st { t with queued := t.queued - 1 })
  else none
/-- Queued initial grants of a stage, as many as can be placed, at most `n`. -/
def State.grantStage (r st : Nat) : Nat → State → State
  | 0, s => s
  | n + 1, s =>
    match s.grantQueued r st with
    | none => s
    | some s' => State.grantStage r st n s'
/-- One grant to a candidate: restoring its longest pre-empted hart, resuming its longest-parked, or a new one; a
stage below HMIN that cannot be placed makes room (R299). -/
def State.serveOne (s : State) (c : Nat × Nat) : State :=
  let t := (s.region c.1).stage c.2
  let saved := (s.stageLockets c.1 c.2 false ++ s.stageLockets c.1 c.2 true).head?
  let made := match saved with
    | some l => s.restore l
    | none => if s.mayStart c.1 t && decide (s.liveHarts c.1 c.2 < t.hmax) then s.grantNew c.1 c.2 else none
  match made with
  | some s' => s'
  | none =>
    if s.belowMin c.1 c.2 then s.makeRoom c.1 c.2 ((saved.map s.restoreNeeds).getD (s.newNeeds c.1 c.2)) else s

/-- A candidate served: its queued initial grants first, for which room is made where one cannot be placed; another grant only
while its region has none queued (R299). -/
def State.serve (s : State) (c : Nat × Nat) : State :=
  let s := State.grantStage c.1 c.2 1024 s
  if 0 < ((s.region c.1).stage c.2).queued then s.makeRoom c.1 c.2 (s.newNeeds c.1 c.2)
  else if (s.queuedStages c.1).isEmpty && s.candidate c.1 c.2 then s.serveOne c
  else s

/-- Queued grants of stages that may start no new hart are dropped (R299); the region may then be done. -/
def State.dropQueued (s : State) (r : Nat) : State :=
  let g := s.region r
  if g.stages.any fun t => decide (0 < t.queued) && !s.mayStart r t then
    (s.setRegion r { g with stages := g.stages.map fun (t : Stage) => if s.mayStart r t then t else { t with queued := 0 } }).settleRegion r
  else s
/-- The regions whose queued initial grants can be made: not while their LAUNCH is under way, nor for one whose domain is stopping
(R293, R296). -/
def State.granting (s : State) (r : Nat) : Bool :=
  !(s.region r).done && !(s.region r).opening && !s.domainStops r && !(s.queuedStages r).isEmpty
/-- Queued initial grants of a region that can be placed now are made (R299). -/
def State.makeQueued (s : State) (r : Nat) : State :=
  let s := s.dropQueued r
  if s.granting r then (s.queuedStages r).foldl (fun s st => State.grantStage r st 1024 s) s else s
/-- The scheduler grants nothing while the device quiesces or sleeps (21_service R385). -/
def State.schedules (s : State) : Bool := s.mailbox.state = .run || s.mailbox.state = .armed
/-- The queued initial grants of all regions are made as soon as they can be placed, those of higher priority first (R299, R304). -/
def State.grantWaiting (s : State) : State :=
  if s.schedules then
    let prio (r : Nat) : Nat := (s.region r).priority
    (((s.liveRegions.filter s.granting).foldl (fun l r => insertBy (fun a b => decide (prio b < prio a)) r l) [])).foldl
      State.makeQueued s
  else s

/-! ### Dividing clusters (R301) -/

/-- A hart in the division: its slot, priority, weight, demand and allocation. -/
structure Claim where
  slot : Nat
  prio : Nat
  weight : Nat
  demand : Nat
  got : Nat
  deriving DecidableEq, Repr

/-- step(a) of R301. -/
def claimStep (a : Nat) : Nat := if a = 0 then 1 else a
/-- One claim raised while clusters remain; the others hold `rest`. -/
def raise (avail demand rest : Nat) : Nat → Nat → Nat
  | 0, a => a
  | n + 1, a =>
    if a < demand ∧ claimStep a + a + rest ≤ avail then raise avail demand rest n (if a = 0 then 1 else 2 * a) else a
/-- The claims of one priority raised in order. -/
def raiseAll (avail : Nat) : List Claim → List Claim → List Claim
  | done, [] => done
  | done, c :: t =>
    let rest := ((done ++ t).map (·.got)).sum
    raiseAll avail (done ++ [{ c with got := raise avail c.demand rest 8 c.got }]) t
/-- The claims of one priority on what is free. -/
def divideOne (avail : Nat) (cs : List Claim) : List Claim :=
  let w := (cs.map (·.weight)).sum
  raiseAll avail [] (cs.map fun c => { c with got := clustersAtMost (min c.demand (avail * c.weight / w)) })
/-- All claims, priority by priority from the highest. -/
def divide (cs : List Claim) : Nat → Nat → List Claim
  | 0, _ => []
  | p + 1, avail =>
    let now := divideOne avail (cs.filter fun c => c.prio = p)
    now ++ divide cs p (avail - (now.map (·.got)).sum)

/-- The claims of a core's harts, by weight and then slot; a demand is capped as retirement requires (21_service
R380). -/
def State.claims (s : State) (core : Nat) : List Claim :=
  let all := ((coreSlots core).filter fun h =>
      let t := s.hart h
      decide (t.run ≠ .free) && t.region.isSome && t.family.isNone &&
        decide (0 < t.demand)).map fun h =>
    let t := s.hart h
    let g := s.region (t.region.getD 0)
    (⟨h, g.priority, g.weight, min t.demand (s.shareCap core), 0⟩ : Claim)
  all.foldl (fun l c => insertBy (fun a b =>
    decide (b.weight < a.weight) || (decide (b.weight = a.weight) && decide (a.slot < b.slot))) c l) []
/-- The clusters divided: those not retired nor held by a FORK family. -/
def State.divisible (s : State) (core : Nat) : Nat :=
  let forked := ((coreSlots core).filter fun h => (s.hart h).family.isSome).foldl (fun m h => m ||| (s.hart h).heldMap) 0
  8 - popCount 8 (s.retired core ||| forked).toNat
/-- A reduction of the hart's share is pending. -/
def Hart.shrinking (t : Hart) : Bool := t.pending.any fun k => decide (k < t.k)
/-- A share that the scheduler sets pending (R19); one equal to K leaves none pending, but where a cluster has been lost: the hart
then gives it up (20_faults R365). -/
def Hart.setShare (t : Hart) (n : Nat) (lost : Bool) (now : Word) : Hart :=
  { t with
    graceAt := if decide (n < t.k) && !t.shrinking then now else t.graceAt
    pending := if n = t.k ∧ lost = false then none else some n
    reduced := decide (n < t.k)
    limit := if n = t.k ∧ lost = false then none else some n }
/-- The most clusters that a hart can keep: the largest power of two not above those of its own that are not retired. -/
def State.surviving (s : State) (h : Nat) : Nat :=
  clustersAtMost (popCount 8 ((s.hart h).map &&& ~~~ s.retired (coreOf h)).toNat)
/-- A hart holds a retired cluster. -/
def State.hurt (s : State) (h : Nat) : Bool := decide ((s.hart h).map &&& s.retired (coreOf h) ≠ 0)
/-- CLUSTER_DIVISION on one core: pending shares set; a hart without an allocation is pre-empted, and comes back with one cluster
at most (R301). One that has lost a cluster gets no more than it has left: that share is the one it adopts next (20_faults R365). -/
def State.divideCore (s : State) (core : Nat) : State :=
  (divide (s.claims core) 16 (s.divisible core)).foldl (fun s c =>
    let t := s.hart c.slot
    let n := if s.hurt c.slot then min c.got (s.surviving c.slot) else c.got
    if c.got = 0 then (s.setHart c.slot { t with pending := some 1, reduced := true, limit := some 1 }).preempt c.slot false
    else s.setHart c.slot (t.setShare n (s.hurt c.slot) (s.die (core / 16)).ptime)) s

/-! ### The boundary (R299, R302) -/

/-- A hart that waits in QPOP since before the previous boundary is parked; any other wait counts a boundary. -/
def State.parkIdle (s : State) (h : Nat) : State :=
  let t := s.hart h
  match t.run, t.wait with
  | .running, some w =>
    match w.instr with
    | .qpop _ =>
      if 1 ≤ w.age ∧ t.family.isNone then s.preempt h true
      else s.setHart h { t with wait := some { w with age := w.age + 1 } }
    | _ => s
  | _, _ => s

/-- The harts in slots of a die. -/
def State.dieHarts (s : State) (d : Nat) : List Nat :=
  (s.harts.filter fun e => decide (slotDie e.1 = d) && decide (e.2.run ≠ .free)).map (·.1)

/-- Time passes until a die's PTIME is at its next scheduling boundary, a multiple of 320,000 (R299). -/
def State.toBoundary (s : State) (d : Nat) : State :=
  let now := (s.die d).ptime.toNat
  s.passTime ((now / 320000 + 1) * 320000 - now) 0 fun _ => 0
/-- SCHEDULING_INTERVAL of a die, as its PTIME reaches the boundary: harts parked, clusters divided on its cores; the grants of the
package are made at the boundary of its lowest live die. -/
def execSchedulingInterval (die : Nat) (s : State) : Out :=
  .next (if !s.schedules || !s.liveDie die then s
    else
      let s := s.toBoundary die
      let s := (s.dieHarts die).foldl State.parkIdle s
      let s := if s.liveDies.head? = some die then
          let s := s.closeAllQueues
          let s := s.liveRegions.foldl State.dropQueued s
          s.candidates.foldl State.serve s
        else s
      ((List.range 16).map (die * 16 + ·)).foldl State.divideCore s)

/-- INITIAL_GRANT of a region: its queued harts are granted as soon as they can be placed, and room is made for a stage of which one
cannot (R299). -/
def execInitialGrant (region : Nat) (s : State) : Out :=
  .next (if s.schedules then
      let s := s.makeQueued region
      if s.granting region then
        (s.queuedStages region).foldl (fun s st => s.makeRoom region st (s.newNeeds region st)) s
      else s
    else s)

/-- SHARE_GRACE_EXPIRY: 200 us after a pending reduction, by the PTIME of its die, the hart is pre-empted; the reduction is applied
when it is restored (01_machine R19; 19_time R353). -/
def execShareGraceExpiry (h : Nat) (s : State) : Out :=
  let t := s.hart h
  let s := s.tickTime
  .next (if decide (t.run = .running) && t.family.isNone && t.shrinking &&
      decide (3200000 ≤ ((s.die (slotDie h)).ptime - t.graceAt).toNat) then
      (s.setHart h { t with reduced := true }).preempt h false
    else s)

/-- UNIT_STOP_ACK: a unit that has stopped acknowledges; the last one writes the locket (R368). -/
def execUnitStopAck (h part : Nat) (s : State) : Out := .next (s.ackStop h part)

/-! ### SHARE (04_scalar R117) -/

/-- SHARE. -/
def execShare (f : Rr) (s : State) : Out :=
  let t := s.me
  let n := (t.xr f.a).toNat
  let core := coreOf s.cur
  let top := match t.region with
    | none => 8
    | some r => ((s.region r).stage t.stage).clusters
  .next (if !([0, 1, 2, 4, 8].contains n) || decide (top < n) || t.family.isSome then
      s.withMe fun t => t.result f.d (BitVec.allOnes 64)
    else
      let p := min n (t.limit.getD n)
      let begins := decide (n ≤ t.k ∧ p < t.k) && !t.shrinking
      let s := if begins then s.tickTime else s
      let t := { t with demand := n }
      let t :=
        if n ≤ t.k then
          { t with
            pending := if p = t.k then none else some p
            graceAt := if begins then (s.die (slotDie s.cur)).ptime else t.graceAt }
        else if t.reduced then t
        else
          let room := match t.region with
            | none => true
            | some r => decide (n - t.k ≤ s.remaining 0 r + (t.pending.getD 0 - t.k))
          if room && decide (n - t.k ≤ s.spare core + (t.pending.getD 0 - t.k)) then
            { t with pending := some n, reduced := false }
          else t
      s.withMe fun _ => t.result f.d t.vshare)

end Sys2Proof.Machine
end

