-- ==== Sys2Proof/Machine/Engine.lean ====
section
/-!
DEFINITION. Machine/Engine.lean: the majors ENGA and ENGB (06_memory_isa R190-R196): engine commands, contexts, and
the segments that the copy engines of an I/O die perform (15_io_dies R308-R312).
-/

namespace Sys2Proof.Machine

/-! ### Contexts and slots (R190, R308) -/

/-- Context numbers of an I/O die that no context holds; ENG contexts number 16 engines of 64 (R307). -/
def State.freeCtxs (s : State) (d : Nat) (coll : Bool) : List Nat :=
  ((List.range 1024).map (ctxKey d coll)).filter fun k => s.ctx k = Ctx.empty
/-- A context for a slot of a hart: from I/O die A for an even compute die, else B, or from the other (R308), within
the region's budget. -/
def State.bindCtx (s : State) (h k : Nat) : Option State :=
  let t := s.hart h
  if (t.ctxSlot k).bound then some s
  else
    let coll := decide (8 ≤ k)
    let near := if slotDie h % 2 = 0 then 8 else 9
    let pools := ([near, 17 - near].filter s.iodUp).map fun d => s.freeCtxs d coll
    let budget := match t.region with
      | none => true
      | some r => decide (1 ≤ s.remaining (if coll then 4 else 3) r)
    if !budget then none
    else
      (pools.findSome? (choose s.fresh)).map fun key =>
        let c := { Ctx.empty with
          hart := some h
          slot := k % 8
          region := t.region
          die := slotDie h
          ptroot := t.csrv 0x106
          partmap := t.csrv 0x10B
          tenant := t.tenantTag }
        let s := s.setCtx key c
        let s := { s with fresh := s.fresh + 1 }
        s.setHart h (t.setCtxSlot k { CtxSlot.empty with bound := true, key := key })

/-! ### Segments (R309) -/

/-- The next segment of a command: its destination, its source or pattern offset, its bytes (R309). -/
structure Seg where
  dst : Word
  src : Word
  bytes : Nat
  /-- the copyx list entry that gives the source -/
  entry : Option Word
  deriving DecidableEq, Repr

/-- Bytes of a range from a place on that lie in one 4 KiB block of destination addresses; a PREF is cut along its own. -/
def blockBytes (dst : Word) (left : Nat) : Nat := min left (4096 - dst.toNat % 4096)

/-- The segment from a number of performed bytes on; none when the command has no more. -/
def EngOp.segment : EngOp → Nat → Option Seg
  | .copy dst src len, p =>
    if p < len.toNat then
      let d := dst + BitVec.ofNat 64 p
      some ⟨d, src + BitVec.ofNat 64 p, blockBytes d (len.toNat - p), none⟩
    else none
  | .copy2 dst src rows rbytes spitch dpitch, p =>
    if p < rows.toNat * rbytes.toNat then
      let i := BitVec.ofNat 64 (p / rbytes.toNat)
      let o := BitVec.ofNat 64 (p % rbytes.toNat)
      let d := dst + i * dpitch + o
      some ⟨d, src + i * spitch + o, blockBytes d (rbytes.toNat - p % rbytes.toNat), none⟩
    else none
  | .copyx dst list count size, p =>
    if p < count * size then
      let d := dst + BitVec.ofNat 64 p
      some ⟨d, BitVec.ofNat 64 (p % size), blockBytes d (size - p % size), some (list + BitVec.ofNat 64 (8 * (p / size)))⟩
    else none
  | .fill dst _ len, p =>
    if p < len.toNat then
      let d := dst + BitVec.ofNat 64 p
      some ⟨d, BitVec.ofNat 64 p, blockBytes d (len.toNat - p), none⟩
    else none
  | .pref addr len, p =>
    if p < len.toNat then
      let a := addr + BitVec.ofNat 64 p
      some ⟨a, a, blockBytes a (len.toNat - p), none⟩
    else none

/-! ### Completion and faults of a context -/

/-- A hart's slot of a context follows it. -/
def State.withSlot (s : State) (key : Nat) (g : CtxSlot → CtxSlot) : State :=
  match (s.ctx key).hart with
  | none => s
  | some h =>
    let t := s.hart h
    let k := (s.ctx key).slot + (if 1024 ≤ key % 2048 then 8 else 0)
    s.setHart h (t.setCtxSlot k (g (t.ctxSlot k)))
/-- An uncorrectable error that a context meets, in its I/O die's record (21_service R378). -/
def State.logCtx (s : State) (key : Nat) (va : Word) : State :=
  let x := s.ctx key
  let ga := ((s.lookup x.die x.tenant x.ptroot va.toNat).map fun pg => pg.ga va.toNat).getD 0
  s.logDie (key / 2048 + 8) (errorUnit ga) ga
/-- The I/O die that holds a context: its own, or the other while that is out of service (21_service R384). -/
def State.ctxDie (s : State) (key : Nat) : Nat :=
  let d := key / 2048 + 8
  if s.iodUp d then d else 17 - d
/-- Commands of a context up to a number are complete (R190). -/
def State.completeCtx (s : State) (key : Nat) (n : Word) : State :=
  (s.setCtx key { s.ctx key with completed := n }).withSlot key fun k => { k with completed := n }
/-- The oldest engine command of a context is complete. -/
def State.completeEngine (s : State) (key : Nat) : State :=
  let x := s.ctx key
  match x.eng with
  | [] => s
  | c :: rest => (s.setCtx key { x with eng := rest, inFlight := false }).completeCtx key c.num
/-- A command without bytes completes at once when those before it have (R191). -/
def State.completeEmpty (s : State) (key : Nat) : State :=
  (s.ctx key).eng.foldl (fun s c =>
    if (c.op.segment 0).isNone && decide ((s.ctx key).eng.head?.map (·.num) = some c.num) then s.completeEngine key else s) s

/-- A context faults (R196, R311): its record is written and ENGFAULT or COLLFAULT becomes pending for its hart; a
second fault while one is pending sets nothing further (20_faults R366). -/
def State.faultCtx (s : State) (key : Nat) (cause : Byte) (side reason : Nat) (issue va : Word) (perf : Nat) : State :=
  let x := s.ctx key
  let coll := decide (1024 ≤ key % 2048)
  let s := s.setCtx key { x with
    faulted := true
    inFlight := false
    parkSince := none
    rec0 := BitVec.ofNat 64 (cause.toNat + side * 2 ^ 8 + 2 ^ 10 + reason * 2 ^ 16)
    recIssue := issue
    recVaddr := va
    recPerf := BitVec.ofNat 64 perf }
  let s := s.withSlot key fun k => { k with faulted := true }
  match x.hart with
  | none => s
  | some h =>
    let t := s.hart h
    s.setHart h (if coll then { t with collFault := true } else { t with engFault := true })

/-! ### Commands -/

/-- Commands of a slot that have not completed (R190). -/
def CtxSlot.pending (c : CtxSlot) : Nat := (c.issued - c.completed).toNat

/-- A command issued on a slot (R190, R192): a faulted slot, or none to bind, traps ENGCTX; a 257th command waits. The
issue number goes to rd. -/
def State.issue (s : State) (i : Instr) (w : IWord) (d : BitVec 5) (k : Nat)
    (put : State → CtxSlot → Word → State) : State :=
  let c := s.me.ctxSlot k
  if c.bound && c.faulted then s.raise causeEngctx (tvalWord w)
  else if 256 ≤ c.pending then s.park i none
  else
    match s.bindCtx s.cur k with
    | none => s.raise causeEngctx (tvalWord w)
    | some s =>
      let c := s.me.ctxSlot k
      let n := c.issued + 1
      (put (s.withMe fun t => t.setCtxSlot k { c with issued := n }) c n).withMe fun t => t.result d n

/-- An engine command put last on its context. -/
def State.issueEngine (s : State) (i : Instr) (w : IWord) (d : BitVec 5) (k : Nat) (op : EngOp) : State :=
  s.issue i w d k fun s c n =>
    let x := s.ctx c.key
    (s.setCtx c.key { x with eng := x.eng ++ [⟨n, op, c.clasp, c.prio, s.me.priv = .user, 0, [], Xfer.none⟩] }).completeEmpty c.key

/-- Bytes that an instruction reads under R162's checks, made once; what other devices hold of them is asked for first, and a failed
device's come from VFILL (09_address R243). -/
def State.readBulk (s : State) (va : Word) (n : Nat) : Except (State × Stop) (State × List Byte) :=
  let filled := (List.range n).map fun i => s.me.vfill.extractLsb' (8 * (i % 8)) 8
  match s.accessRange .bulkRd va n with
  | .error e => .error (s, e)
  | .ok locs =>
    match s.eccByte va locs with
    | some v => .error (s.logError (errorUnit (locs.headD ⟨0, false⟩).ga) s.cur, .trap causeEcc v)
    | none =>
      match (if s.me.access.isSome then none else locs.findSome? fun l => s.failedHome l.ga) with
      | some c => .ok (s.peerLost s.cur c, filled)
      | none =>
        let r := s.gather s.cur 0 (s.needed s.winKey locs)
        if !r.2 then .error (r.1.awaitAccess locs va)
        else
          let asks := s.me.asks
          .ok (if (askFailed asks (s.farOf (locGas locs))).isSome then (s, filled)
            else (s.keepWindowsWith (askByte asks) s.winKey locs,
              locs.map (s.loadByteWith (askByte asks) s.winKey)))

/-- COPY (R191). -/
def execCopy (f : EngOps) (s : State) : Out :=
  .next (s.issueEngine (.copy f) (wordOf (.copy f)) f.d f.slot.toNat
    (.copy (s.me.xr f.a) (s.me.xr f.b) (s.me.xr f.e)))

/-- COPY2 (R191, R192): its shape record is read at issue as a blocking load (R168). -/
def execCopy2 (f : EngOps) (s : State) : Out :=
  let va := s.me.xr f.e
  .next (s.inOrder va <| if va.toNat % 8 ≠ 0 then s.raise causeAlign va
    else
      match s.readBulk va 32 with
      | .error (s, e) => s.halt e
      | .ok (s, bs) =>
        let w (i : Nat) : Word := BitVec.ofNat 64 (bytesNat ((bs.drop (8 * i)).take 8))
        s.issueEngine (.copy2 f) (wordOf (.copy2 f)) f.d f.slot.toNat
          (.copy2 (s.me.xr f.a) (s.me.xr f.b) (w 0) (w 1) (w 2) (w 3)))

/-- COPYX (R191, R192). -/
def execCopyx (f : EngOps) (s : State) : Out :=
  let v := s.me.xr f.e
  let size := (v.extractLsb' 32 16).toNat
  .next (if v.extractLsb' 48 16 ≠ 0 ∨ size = 0 then s.raise causeIllegal (tvalWord (wordOf (.copyx f)))
    else s.issueEngine (.copyx f) (wordOf (.copyx f)) f.d f.slot.toNat
      (.copyx (s.me.xr f.a) (s.me.xr f.b) (v.extractLsb' 0 32).toNat size))

/-- FILL (R191). -/
def execFill (f : EngOps) (s : State) : Out :=
  .next (s.issueEngine (.fill f) (wordOf (.fill f)) f.d f.slot.toNat
    (.fill (s.me.xr f.a) (s.me.xr f.b) (s.me.xr f.e)))

/-- PREF (R195). -/
def execPref (f : PrefOps) (s : State) : Out :=
  .next (s.issueEngine (.pref f) (joinWord (prefFields f)) f.d f.slot.toNat (.pref (s.me.xr f.b) (s.me.xr f.e)))

/-- ECFG (R195): binds or unbinds a clasp word and sets the priority. -/
def execEcfg (f : EcfgOps) (s : State) : Out :=
  let va := s.me.xr f.a
  let v := s.me.xr f.b
  let k := f.slot.toNat
  let w := tvalWord (joinWord (ecfgFields f))
  let finish (s : State) (ga : Word) : State :=
    match s.bindCtx s.cur k with
    | none => s.raise causeEngctx w
    | some s =>
      let c := s.me.ctxSlot k
      s.withMe fun t => (t.setCtxSlot k { c with clasp := ga, prio := v.extractLsb' 0 4 }).result f.d c.issued
  .next (if v.extractLsb' 4 60 ≠ 0 then s.raise causeIllegal w
    else if va = 0 then finish s 0
    else
      match s.checkRange (s.party s.cur) .wr false va 16 with
      | .error e => s.halt e
      | .ok locs =>
        match locs.findIdx? fun l => gaHost l.ga || decide (gaKind l.ga ≠ 2) with
        | some i => s.raise causePerm (va + BitVec.ofNat 64 i)
        | none =>
          if va.toNat % 16 ≠ 0 then s.raise causeAlign va
          else finish s (BitVec.ofNat 64 (locs.headD ⟨0, false⟩).ga))

/-- ECNT (R190, R195). -/
def execEcnt (f : EcntOps) (s : State) : Out :=
  .next (s.withMe fun t => t.result f.d (t.ctxSlot f.slot.toNat).completed)

/-- ERES (R195, R312). -/
def execEres (f : RrSlot) (s : State) : Out :=
  let k := f.slot.toNat
  let c := s.me.ctxSlot k
  let w := tvalWord (joinWord (eresFields f))
  .next (if s.me.priv = .user || !c.bound || !c.faulted then s.raise causeIllegal w
    else
      let x := s.ctx c.key
      let s := s.setCtx c.key { x with
        faulted := false
        rec0 := x.rec0 &&& ~~~ (1#64 <<< 10)
        eng := x.eng.map fun c => { c with xfer := Xfer.none } }
      let s := s.withMe fun t => t.setCtxSlot k { t.ctxSlot k with faulted := false }
      let s := if (s.me.xr f.a).getLsbD 0 then (s.completeEngine c.key).completeEmpty c.key else s
      s.withMe fun t => t.result f.d (t.ctxSlot k).completed)

/-! ### The bytes of a segment -/

/-- A context as the party of its accesses: it acts as the hart that bound it (R192, 21_service R382). -/
def Ctx.party (x : Ctx) (user : Bool) : Party := ⟨x.die, x.tenant, x.ptroot, x.partmap, user⟩

/-- Why a side of a segment does not go through: a cause, its side and the address, or a wait. -/
inductive SegStop where
  | fault (cause : Byte) (side : Nat) (va : Word)
  | wait (side : Nat) (va : Word)
  deriving DecidableEq, Repr

/-- Bytes of one side of a segment checked as R162 gives, formats aside (R55): translation, then failed peers and poisoned
lines, which a write of the whole line clears. -/
def State.segSide (s : State) (p : Party) (need : Need) (side : Nat) (va : Word) (n : Nat) :
    Except SegStop (List Loc) :=
  match s.checkRange p need false va n with
  | .error (.trap c v) => .error (.fault c side v)
  | .error (.poison _ v) => .error (.fault causeEcc side v)
  | .error (.wait v) => .error (.wait side v)
  | .ok locs =>
    match locs.findIdx? fun l => (s.failedHome l.ga).isSome with
    | some i => .error (.fault causePeerdown side (va + BitVec.ofNat 64 i))
    | none =>
      let whole (l : Nat) : Bool := need.writes && (locs.filter fun x => s.canon x.ga / 64 = l).length = 64
      match locs.findIdx? fun l => s.poisoned l.ga && !whole (s.canon l.ga / 64) with
      | some i => .error (.fault causeEcc side (va + BitVec.ofNat 64 i))
      | none => .ok locs

/-! ### What a command moves to and from other devices (R309; 18_fabric R336) -/

/-- A record of a context: SHART is its number. -/
def State.ctxRecord (s : State) (key : Nat) (op : BitVec 8) (ga len : Nat) (trk : Bool) (tag : BitVec 32)
    (data : List Byte) : Record :=
  ⟨s.chip, key / 2048 + 8, op, len, BitVec.ofNat 11 (key % 1024), trk, tag, BitVec.ofNat 64 ga, data, none⟩
/-- A context acts in the secure world (21_service R382). -/
def State.ctxSecure (s : State) (key : Nat) : Bool := (s.ctx key).tenant.getLsbD 16
/-- READs sent for what other devices hold among addresses; `true` once all are answered. -/
def State.xferAsk (s : State) (key : Nat) (x : Xfer) (gas : List Nat) : State × Xfer × Bool :=
  let runs := s.farRuns gas
  let o := runs.foldl (fun (o : State × Xfer) r =>
    if (askOf o.2.asks 5 r.1 r.2 false).isSome then o
    else
      let g := o.1.newTag
      let dev := gaChip r.1
      (g.1.sendTo dev (gaDie r.1 % 10) false (s.ctxSecure key) (g.1.ctxRecord key 0x01 r.1 r.2 false g.2 []),
        { o.2 with asks := o.2.asks ++ [⟨5, g.2, dev, r.1, r.2, false, false, none⟩] })) (s, x)
  (o.1, o.2, runs.all fun r => ((askOf o.2.asks 5 r.1 r.2 false).map Ask.settled).getD false)
/-- A byte as a command reads it: at its home here, or as another device has answered. -/
def State.xferByte (s : State) (x : Xfer) (ga : Nat) : Byte :=
  if (s.farDev ga).isNone then s.readByte ga else (askByte x.asks ga).getD 0
/-- What a context has written to host memory goes by the link of its I/O die, for a release of its hart to flush (15_io_dies
R315). -/
def State.countHost (s : State) (key : Nat) (gas : List Nat) : State :=
  match (s.ctx key).hart with
  | none => s
  | some h => if gas.any gaHost then s.setHart h ((s.hart h).countSent (6 + s.linkBy (s.ctxDie key))) else s
/-- Bytes written at their homes here, the poison of lines written whole cleared, and those of other devices sent to them
with TRK set. -/
def State.xferPut (s : State) (key : Nat) (x : Xfer) (bs : List (Nat × Byte)) : State × Xfer :=
  let near := bs.filter fun b => (s.farDev b.1).isNone
  let lines := (near.map fun b => s.canon b.1 / 64).dedup
  let whole := lines.filter fun l => (near.filter fun b => s.canon b.1 / 64 = l).length = 64
  let s := near.foldl (fun s b => s.writeByte b.1 b.2) s
  let s := State.countHost { s with poison := s.poison.filter fun l => !whole.contains l } key (near.map (·.1))
  (s.farRuns (bs.map (·.1))).foldl (fun (o : State × Xfer) r =>
    let g := o.1.newTag
    let data := (gaRange r.1 r.2).map fun a => ((bs.find? fun b => b.1 = a).map (·.2)).getD 0
    (g.1.sendTo (gaChip r.1) (gaDie r.1 % 10) false (s.ctxSecure key) (g.1.ctxRecord key 0x02 r.1 r.2 true g.2 data),
      { o.2 with acks := o.2.acks ++ [(gaChip r.1, g.2)] })) (s, { x with sent := true })

/-- A queued store may write memory of a kind: one whose accesses are not checked yet may write any (DESIGN CHOICE, log entry 55). -/
def QEntry.mayStore (kind : Nat → Bool) (e : QEntry) : Bool :=
  e.stores && match e.placed with
    | none => true
    | some p => p.els.any fun x => x.locs.any fun l => kind l.ga
/-- Stores of a hart that a command's read of its source waits for: those still queued, outstanding ones with a byte of some kind, and
those that the image of a vector trap holds from before the command's issue (R193, R200); the ones that can complete do. -/
def State.storesDone (s : State) (key : Nat) (num : Word) (kind : Nat → Bool) : State × Bool :=
  match (s.ctx key).hart with
  | none => (s, true)
  | some h =>
    let mine (o : NbOp) : Bool := !o.held && o.bytes.any fun b => kind b.addr
    let s := (((s.hart h).nb.filter fun o => mine o && o.ready).foldl (fun s o => s.nbFinish h o) s)
    (s, !(s.hart h).nb.any mine && !(s.hart h).queue.any (QEntry.mayStore kind) &&
      !((s.hart h).vrf && num.ule (s.ctx key).barrier))
/-- Scratchpad of this device. -/
def State.ownSpad (s : State) (a : Nat) : Bool := !gaHost a && decide (gaChip a = s.chip ∧ gaKind a = 2)

/-! ### Segments performed (R309, R310) -/

/-- A source byte: as the command has written it, or as it stood before (R191: not promised which). -/
def State.srcByte (s : State) (c : EngCmd) (ga : Nat) : Byte :=
  match c.wrote.find? fun e => e.1 = s.canon ga with
  | none => s.xferByte c.xfer ga
  | some e => if Config.overlapByte s.fresh (s.canon ga) then s.xferByte c.xfer ga else e.2

/-- What a segment moves: the bytes of other devices that it needs first, where it goes, and its source bytes. -/
structure Move where
  need : List Nat
  tgt : List Loc
  src : List Loc
  lit : List Byte
  deriving DecidableEq, Repr

/-- What the next segment of a command moves; none when the command has no more. It is read whole before any of it is written, so
where both ranges overlap inside it the old bytes move (R191; DESIGN CHOICE, log entry 12). -/
def State.segment (s : State) (x : Ctx) (c : EngCmd) : Option (Except SegStop Move) :=
  match c.op.segment c.perf with
  | none => none
  | some g =>
    let p := x.party c.user
    let moved (src : Word) : Except SegStop Move :=
      match s.segSide p .bulkRd 0 src g.bytes with
      | .error e => .error e
      | .ok from' =>
        match s.segSide p .bulkWr 1 g.dst g.bytes with
        | .error e => .error e
        | .ok tgt => .ok ⟨locGas from', tgt, from', []⟩
    some (match c.op with
      | .fill _ pattern _ =>
        match s.segSide p .bulkWr 1 g.dst g.bytes with
        | .error e => .error e
        | .ok tgt => .ok ⟨[], tgt, [], (List.range g.bytes).map fun i =>
            pattern.extractLsb' (8 * ((g.src.toNat + i) % 8)) 8⟩
      | .pref _ _ =>
        match s.segSide p .bulkRd 0 g.src g.bytes with
        | .error e => .error e
        | .ok _ => .ok ⟨[], [], [], []⟩
      | .copyx _ _ _ _ =>
        match s.segSide p .bulkRd 2 (g.entry.getD 0) 8 with
        | .error e => .error e
        | .ok locs =>
          if locs.all fun l => (s.farDev l.ga).isNone || (askByte c.xfer.asks l.ga).isSome then
            (moved (BitVec.ofNat 64 (bytesNat (locs.map fun l => s.xferByte c.xfer l.ga)) + g.src)).map fun m =>
              { m with need := locGas locs ++ m.need }
          else .ok ⟨locGas locs, [], [], []⟩
      | _ => moved g.src)

/-- A clasp word of this device updated with a performed segment (CLASP_UPDATE, R194): one atomic update. -/
def State.claspAdd (s : State) (ga n : Nat) : State :=
  let w := s.readGa ga 16
  let target := w % 2 ^ 32
  let count := w / 2 ^ 32 % 2 ^ 32
  let gen := w / 2 ^ 64 % 2 ^ 32
  let top := w / 2 ^ 96
  if target = 0 then s
  else if count + n < target then s.writeGa (ga + 4) 4 (count + n)
  else if count + n = target then s.writeGa (ga + 4) 8 ((gen + 1) % 2 ^ 32 * 2 ^ 32)
  else (s.writeGa (ga + 4) 4 (count + n)).writeGa (ga + 12) 4 (if top.testBit 0 then top else top + 1)
/-- The update of a clasp word on another device is sent there (R195): R336 gives no record for it, and operation code 15 of an ATOMIC is
this model's (DESIGN CHOICE, log entry 60). -/
def State.sendClasp (s : State) (key dev ga n : Nat) : State × BitVec 32 :=
  let g := s.newTag
  let data := atomicWord 15 3 false ++ natBytes 8 n
  (g.1.sendTo dev (gaDie ga % 10) false (s.ctxSecure key) (g.1.ctxRecord key 0x04 ga data.length true g.2 data), g.2)

/-- The bytes a segment wrote, as they stood before, for a later source that overlaps. -/
def State.overwritten (s : State) (c : EngCmd) (tgt : List Loc) : List (Nat × Byte) :=
  match c.op with
  | .fill _ _ _ | .pref _ _ => []
  | _ => c.wrote ++ ((tgt.map fun l => s.canon l.ga).filter fun a => !(c.wrote.any fun e => e.1 = a)).map fun a =>
      (a, Sparse.get 0 s.mem a)

/-- The head command of a context replaced. -/
def State.setHead (s : State) (key : Nat) (c : EngCmd) (flying : Bool) : State :=
  let x := s.ctx key
  s.setCtx key { x with eng := c :: x.eng.drop 1, inFlight := flying }
/-- A segment has been performed: its clasp word, then the command's completion when it was the last (R309). -/
def State.endSegment (s : State) (key : Nat) (c : EngCmd) (n : Nat) : State :=
  let clasp := match c.op with
    | .pref _ _ => 0
    | _ => c.clasp.toNat
  let ended (s : State) : State :=
    let c := { c with perf := c.perf + n, xfer := Xfer.none }
    let s := s.setHead key c false
    if (c.op.segment c.perf).isNone then (s.completeEngine key).completeEmpty key else s
  if clasp = 0 || c.xfer.clasped then ended s
  else match s.farDev clasp with
    | none => ended (s.claspAdd clasp n)
    | some dev =>
      let r := s.sendClasp key dev clasp n
      r.1.setHead key { c with xfer := { c.xfer with sent := true, clasped := true, acks := [(dev, r.2)] } } true
/-- A started segment goes on: what other devices hold of its source is asked for, its bytes are performed at their homes or
sent to them, and it is performed once those have been (R309). Earlier stores of the issuing hart to scratchpad come first
(R193). -/
def State.performSegment (s : State) (key : Nat) : State :=
  let r := s.storesDone key (((s.ctx key).eng.head?.map (·.num)).getD 0) s.ownSpad
  let s := r.1
  match (s.ctx key).eng with
  | [] => s
  | c :: _ =>
    let n := ((c.op.segment c.perf).map (·.bytes)).getD 0
    if !r.2 || !c.xfer.acks.isEmpty then s
    else if c.xfer.sent then s.endSegment key c n
    else
      match s.segment (s.ctx key) c with
      | none => s.completeEngine key
      | some (.error _) => s
      | some (.ok m) =>
        let a := s.xferAsk key c.xfer m.need
        let s := a.1
        let c := { c with xfer := a.2.1 }
        if !a.2.2 || (m.tgt.isEmpty && !m.need.isEmpty) then s.setHead key c true
        else
          let wrote := s.overwritten c m.tgt
          let bytes := if m.src.isEmpty then m.lit else m.src.map fun l => s.srcByte c l.ga
          let w := s.xferPut key c.xfer ((locGas m.tgt).zip bytes)
          let s := { w.1 with fresh := w.1.fresh + 1 }
          let c := { c with wrote := wrote, xfer := w.2 }
          if w.2.acks.isEmpty then s.endSegment key c n else s.setHead key c true

/-- An I/O die has a copy engine in service; the contexts of one that is drained go on at the others (15_io_dies R307, 21_service
R384). -/
def State.hasEngine (s : State) (iod : Nat) : Bool := (List.range 16).any fun n => !s.drained.contains (.engine iod n)
/-- A context of an I/O die whose next segment may start: its command and that command's priority. -/
def State.startable (s : State) (iod key : Nat) : Option (BitVec 4) :=
  let x := s.ctx key
  if s.ctxDie key = iod ∧ key % 2048 < 1024 ∧ s.hasEngine iod ∧ !x.stopped ∧ !x.faulted ∧ !x.inFlight then
    x.eng.head?.map (·.prio)
  else none
/-- The context served next: highest priority first, and round-robin within one (R309). -/
def State.served (s : State) (iod : Nat) : Option (Nat × Nat) :=
  let ready := s.ctxs.filterMap fun c => (s.startable iod c.1).map fun p => (c.1, p.toNat)
  let top := ready.foldl (fun m c => max m c.2) 0
  let same := (ready.filter fun c => c.2 = top).map (·.1)
  let last := Sparse.get 0 s.lastServed (iod * 16 + top)
  ((same.find? fun k => last ≤ k).or same.head?).map fun k => (k, top)

/-- SEGMENT_START on an I/O die: the next segment of the context served starts (R309). -/
def execSegmentStart (iod : Nat) (s : State) : Out :=
  .next (match s.served iod with
    | none => s
    | some (key, prio) =>
      let s := { s with lastServed := Sparse.set 0 s.lastServed (iod * 16 + prio) (key + 1) }
      s.setCtx key { s.ctx key with inFlight := true })

/-- SEGMENT_PERFORMED: a started segment that meets no fault goes on, and is performed (R309). -/
def execSegmentPerformed (ctx : Nat) (s : State) : Out :=
  .next (if (s.ctx ctx).inFlight && !(s.ctx ctx).faulted then s.performSegment ctx else s)

/-- Writes of a command went to a device that has failed since. -/
def State.acksLost (s : State) (x : Xfer) : Bool := !x.clasped && x.acks.any fun a => s.peerFailed a.1
/-- The fault that a started segment meets; once its bytes have gone out, only the failure of a device they went to. -/
def State.segmentFault (s : State) (key : Nat) : Option (Byte × Nat × Word) :=
  let x := s.ctx key
  if !x.inFlight then none
  else
    match x.eng with
    | [] => none
    | c :: _ =>
      let stop : Option SegStop := if c.xfer.sent then
          if s.acksLost c.xfer then (match c.op.segment c.perf with
            | none => none
            | some g => (match s.segSide (x.party c.user) .bulkWr 1 g.dst g.bytes with
              | .error e => some e
              | .ok _ => none))
          else none
        else (match s.segment x c with
          | some (.error e) => some e
          | _ => none)
      match stop with
      | some (.fault cause side va) => some (cause, side, va)
      | _ => none
/-- A started segment can go on now: nothing that it awaits is outstanding. -/
def State.segmentMoves (s : State) (key : Nat) : Bool :=
  let x := s.ctx key
  x.inFlight && !x.faulted && match x.eng with
    | [] => true
    | c :: _ => (s.segmentFault key).isSome || (c.xfer.sent && c.xfer.acks.isEmpty) ||
        (!c.xfer.sent && c.xfer.acks.isEmpty && c.xfer.asks.all Ask.settled && match s.segment x c with
          | some (.error _) => false
          | _ => (s.storesDone key c.num s.ownSpad).2)

/-- ENGINE_FAULT: the started segment meets this fault (R196, R311); an uncorrectable error is also logged in the I/O
die's record (21_service R378). -/
def execEngineFault (ctx : Nat) (cause : Byte) (side : Nat) (va : Word) (s : State) : Out :=
  .next (if s.segmentFault ctx = some (cause, side, va) then
      let x := s.ctx ctx
      let c := x.eng.head?
      let s := if cause = causeEcc then s.logCtx ctx va else s
      s.faultCtx ctx cause side 0 ((c.map (·.num)).getD 0) va ((c.map (·.perf)).getD 0)
    else s)

end Sys2Proof.Machine
end

