-- ==== Sys2Proof/Machine/VInt.lean ====
section
/-!
DEFINITION. Machine/VInt.lean: integer vector arithmetic VINT and VINTX and the integer functions of VFUN (05_vector R139,
R143).
-/

namespace Sys2Proof.Machine

/-- A V-form integer operation under the element sweep (R133): the type's signedness and width, then a, b, c. -/
def intVV (f : VOps) (w : IWord) (op : Bool → Nat → Nat → Nat → Nat → Nat) : Queued :=
  plainQueued w f.l isInt false fun s e =>
    let t := s.me
    s.sweep e f.g f.m f.d fun r i =>
      (op (isSigned e.ty) (typeWidth e.ty) (t.elem e f.a r i) (t.elem e f.b r i) (t.elem e f.d r i), Flags.none)

/-- An X-form integer operation: a is the captured scalar (R133). -/
def intVX (f : VOps) (w : IWord) (op : Bool → Nat → Nat → Nat → Nat → Nat) : Queued :=
  { plainQueued w f.l isInt false fun s e =>
      let t := s.me
      s.sweep e f.g f.m f.d fun r i =>
        (op (isSigned e.ty) (typeWidth e.ty) e.x1w (t.elem e f.b r i) (t.elem e f.d r i), Flags.none) with
    x1 := some f.a }

/-- A unary integer function of VFUN (R143). -/
def intUn (f : VUnOps) (w : IWord) (op : Bool → Nat → Nat → Nat) : Queued :=
  plainQueued w f.l isInt false fun s e =>
    let t := s.me
    s.sweep e f.g f.m f.d fun r i => (op (isSigned e.ty) (typeWidth e.ty) (t.elem e f.b r i), Flags.none)

/-! ### The operations of R139: signedness, width, a, b, c -/

def opAdd (_ : Bool) (w a b _c : Nat) : Nat := (a + b) % 2 ^ w
def opSub (_ : Bool) (w a b _c : Nat) : Nat := (a + 2 ^ w - b) % 2 ^ w
def opRsub (_ : Bool) (w a b _c : Nat) : Nat := (b + 2 ^ w - a) % 2 ^ w
def opMul (_ : Bool) (w a b _c : Nat) : Nat := a * b % 2 ^ w
/-- Bits [2w-1:w] of the exact product. -/
def opMulh (sg : Bool) (w a b _c : Nat) : Nat := wrapTo w (intValue sg w a * intValue sg w b / 2 ^ w)
def opMacc (_ : Bool) (w a b c : Nat) : Nat := (c + a * b) % 2 ^ w
def opMin (sg : Bool) (w a b _c : Nat) : Nat := if intValue sg w a < intValue sg w b then a else b
def opMax (sg : Bool) (w a b _c : Nat) : Nat := if intValue sg w a < intValue sg w b then b else a
def opAnd (_ : Bool) (_w a b _c : Nat) : Nat := a &&& b
def opOr (_ : Bool) (_w a b _c : Nat) : Nat := a ||| b
def opXor (_ : Bool) (_w a b _c : Nat) : Nat := a ^^^ b
/-- The shift value is b, the amount the low log2 w bits of a. -/
def opSll (_ : Bool) (w a b _c : Nat) : Nat := b * 2 ^ (a % w) % 2 ^ w
def opSrl (_ : Bool) (w a b _c : Nat) : Nat := b / 2 ^ (a % w)
def opSra (_ : Bool) (w a b _c : Nat) : Nat := wrapTo w (toSigned w b / 2 ^ (a % w))
def opAdds (sg : Bool) (w a b _c : Nat) : Nat := clampTo sg w (intValue sg w a + intValue sg w b)
def opSubs (sg : Bool) (w a b _c : Nat) : Nat := clampTo sg w (intValue sg w a - intValue sg w b)

/-! ### VINT and VINTX -/

/-- VADD (R139), as it is queued. -/
def vaddQueued (f : VOps) : Queued :=
  intVV f (wordOf (.vadd f)) opAdd

/-- VADD (R139). -/
def execVadd (f : VOps) (s : State) : Out := .next (s.enqueue (vaddQueued f))

/-- VSUB (R139), as it is queued. -/
def vsubQueued (f : VOps) : Queued :=
  intVV f (wordOf (.vsub f)) opSub

/-- VSUB (R139). -/
def execVsub (f : VOps) (s : State) : Out := .next (s.enqueue (vsubQueued f))

/-- VRSUB (R139), as it is queued. -/
def vrsubQueued (f : VOps) : Queued :=
  intVV f (wordOf (.vrsub f)) opRsub

/-- VRSUB (R139). -/
def execVrsub (f : VOps) (s : State) : Out := .next (s.enqueue (vrsubQueued f))

/-- VMUL (R139), as it is queued. -/
def vmulQueued (f : VOps) : Queued :=
  intVV f (wordOf (.vmul f)) opMul

/-- VMUL (R139). -/
def execVmul (f : VOps) (s : State) : Out := .next (s.enqueue (vmulQueued f))

/-- VMULH (R139), as it is queued. -/
def vmulhQueued (f : VOps) : Queued :=
  intVV f (wordOf (.vmulh f)) opMulh

/-- VMULH (R139). -/
def execVmulh (f : VOps) (s : State) : Out := .next (s.enqueue (vmulhQueued f))

/-- VMACC (R139), as it is queued. -/
def vmaccQueued (f : VOps) : Queued :=
  intVV f (wordOf (.vmacc f)) opMacc

/-- VMACC (R139). -/
def execVmacc (f : VOps) (s : State) : Out := .next (s.enqueue (vmaccQueued f))

/-- VMIN (R139), as it is queued. -/
def vminQueued (f : VOps) : Queued :=
  intVV f (wordOf (.vmin f)) opMin

/-- VMIN (R139). -/
def execVmin (f : VOps) (s : State) : Out := .next (s.enqueue (vminQueued f))

/-- VMAX (R139), as it is queued. -/
def vmaxQueued (f : VOps) : Queued :=
  intVV f (wordOf (.vmax f)) opMax

/-- VMAX (R139). -/
def execVmax (f : VOps) (s : State) : Out := .next (s.enqueue (vmaxQueued f))

/-- VAND (R139), as it is queued. -/
def vandQueued (f : VOps) : Queued :=
  intVV f (wordOf (.vand f)) opAnd

/-- VAND (R139). -/
def execVand (f : VOps) (s : State) : Out := .next (s.enqueue (vandQueued f))

/-- VOR (R139), as it is queued. -/
def vorQueued (f : VOps) : Queued :=
  intVV f (wordOf (.vor f)) opOr

/-- VOR (R139). -/
def execVor (f : VOps) (s : State) : Out := .next (s.enqueue (vorQueued f))

/-- VXOR (R139), as it is queued. -/
def vxorQueued (f : VOps) : Queued :=
  intVV f (wordOf (.vxor f)) opXor

/-- VXOR (R139). -/
def execVxor (f : VOps) (s : State) : Out := .next (s.enqueue (vxorQueued f))

/-- VSLL (R139), as it is queued. -/
def vsllQueued (f : VOps) : Queued :=
  intVV f (wordOf (.vsll f)) opSll

/-- VSLL (R139). -/
def execVsll (f : VOps) (s : State) : Out := .next (s.enqueue (vsllQueued f))

/-- VSRL (R139), as it is queued. -/
def vsrlQueued (f : VOps) : Queued :=
  intVV f (wordOf (.vsrl f)) opSrl

/-- VSRL (R139). -/
def execVsrl (f : VOps) (s : State) : Out := .next (s.enqueue (vsrlQueued f))

/-- VSRA (R139), as it is queued. -/
def vsraQueued (f : VOps) : Queued :=
  intVV f (wordOf (.vsra f)) opSra

/-- VSRA (R139). -/
def execVsra (f : VOps) (s : State) : Out := .next (s.enqueue (vsraQueued f))

/-- VADDS (R139), as it is queued. -/
def vaddsQueued (f : VOps) : Queued :=
  intVV f (wordOf (.vadds f)) opAdds

/-- VADDS (R139). -/
def execVadds (f : VOps) (s : State) : Out := .next (s.enqueue (vaddsQueued f))

/-- VSUBS (R139), as it is queued. -/
def vsubsQueued (f : VOps) : Queued :=
  intVV f (wordOf (.vsubs f)) opSubs

/-- VSUBS (R139). -/
def execVsubs (f : VOps) (s : State) : Out := .next (s.enqueue (vsubsQueued f))

/-- VADD_X (R139), as it is queued. -/
def vaddXQueued (f : VOps) : Queued :=
  intVX f (wordOf (.vaddX f)) opAdd

/-- VADD_X (R139). -/
def execVaddX (f : VOps) (s : State) : Out := .next (s.enqueue (vaddXQueued f))

/-- VSUB_X (R139), as it is queued. -/
def vsubXQueued (f : VOps) : Queued :=
  intVX f (wordOf (.vsubX f)) opSub

/-- VSUB_X (R139). -/
def execVsubX (f : VOps) (s : State) : Out := .next (s.enqueue (vsubXQueued f))

/-- VRSUB_X (R139), as it is queued. -/
def vrsubXQueued (f : VOps) : Queued :=
  intVX f (wordOf (.vrsubX f)) opRsub

/-- VRSUB_X (R139). -/
def execVrsubX (f : VOps) (s : State) : Out := .next (s.enqueue (vrsubXQueued f))

/-- VMUL_X (R139), as it is queued. -/
def vmulXQueued (f : VOps) : Queued :=
  intVX f (wordOf (.vmulX f)) opMul

/-- VMUL_X (R139). -/
def execVmulX (f : VOps) (s : State) : Out := .next (s.enqueue (vmulXQueued f))

/-- VMULH_X (R139), as it is queued. -/
def vmulhXQueued (f : VOps) : Queued :=
  intVX f (wordOf (.vmulhX f)) opMulh

/-- VMULH_X (R139). -/
def execVmulhX (f : VOps) (s : State) : Out := .next (s.enqueue (vmulhXQueued f))

/-- VMACC_X (R139), as it is queued. -/
def vmaccXQueued (f : VOps) : Queued :=
  intVX f (wordOf (.vmaccX f)) opMacc

/-- VMACC_X (R139). -/
def execVmaccX (f : VOps) (s : State) : Out := .next (s.enqueue (vmaccXQueued f))

/-- VMIN_X (R139), as it is queued. -/
def vminXQueued (f : VOps) : Queued :=
  intVX f (wordOf (.vminX f)) opMin

/-- VMIN_X (R139). -/
def execVminX (f : VOps) (s : State) : Out := .next (s.enqueue (vminXQueued f))

/-- VMAX_X (R139), as it is queued. -/
def vmaxXQueued (f : VOps) : Queued :=
  intVX f (wordOf (.vmaxX f)) opMax

/-- VMAX_X (R139). -/
def execVmaxX (f : VOps) (s : State) : Out := .next (s.enqueue (vmaxXQueued f))

/-- VAND_X (R139), as it is queued. -/
def vandXQueued (f : VOps) : Queued :=
  intVX f (wordOf (.vandX f)) opAnd

/-- VAND_X (R139). -/
def execVandX (f : VOps) (s : State) : Out := .next (s.enqueue (vandXQueued f))

/-- VOR_X (R139), as it is queued. -/
def vorXQueued (f : VOps) : Queued :=
  intVX f (wordOf (.vorX f)) opOr

/-- VOR_X (R139). -/
def execVorX (f : VOps) (s : State) : Out := .next (s.enqueue (vorXQueued f))

/-- VXOR_X (R139), as it is queued. -/
def vxorXQueued (f : VOps) : Queued :=
  intVX f (wordOf (.vxorX f)) opXor

/-- VXOR_X (R139). -/
def execVxorX (f : VOps) (s : State) : Out := .next (s.enqueue (vxorXQueued f))

/-- VSLL_X (R139), as it is queued. -/
def vsllXQueued (f : VOps) : Queued :=
  intVX f (wordOf (.vsllX f)) opSll

/-- VSLL_X (R139). -/
def execVsllX (f : VOps) (s : State) : Out := .next (s.enqueue (vsllXQueued f))

/-- VSRL_X (R139), as it is queued. -/
def vsrlXQueued (f : VOps) : Queued :=
  intVX f (wordOf (.vsrlX f)) opSrl

/-- VSRL_X (R139). -/
def execVsrlX (f : VOps) (s : State) : Out := .next (s.enqueue (vsrlXQueued f))

/-- VSRA_X (R139), as it is queued. -/
def vsraXQueued (f : VOps) : Queued :=
  intVX f (wordOf (.vsraX f)) opSra

/-- VSRA_X (R139). -/
def execVsraX (f : VOps) (s : State) : Out := .next (s.enqueue (vsraXQueued f))

/-- VADDS_X (R139), as it is queued. -/
def vaddsXQueued (f : VOps) : Queued :=
  intVX f (wordOf (.vaddsX f)) opAdds

/-- VADDS_X (R139). -/
def execVaddsX (f : VOps) (s : State) : Out := .next (s.enqueue (vaddsXQueued f))

/-- VSUBS_X (R139), as it is queued. -/
def vsubsXQueued (f : VOps) : Queued :=
  intVX f (wordOf (.vsubsX f)) opSubs

/-- VSUBS_X (R139). -/
def execVsubsX (f : VOps) (s : State) : Out := .next (s.enqueue (vsubsXQueued f))

/-! ### The integer functions of VFUN -/

/-- VCLZ (R143), as it is queued. -/
def vclzQueued (f : VUnOps) : Queued :=
  intUn f (wordOf (.vclz f)) (fun _ w b => leadingZeros w b)

/-- VCLZ (R143). -/
def execVclz (f : VUnOps) (s : State) : Out := .next (s.enqueue (vclzQueued f))

/-- VCTZ (R143), as it is queued. -/
def vctzQueued (f : VUnOps) : Queued :=
  intUn f (wordOf (.vctz f)) (fun _ w b => trailingZeros w b)

/-- VCTZ (R143). -/
def execVctz (f : VUnOps) (s : State) : Out := .next (s.enqueue (vctzQueued f))

/-- VPOPC (R143), as it is queued. -/
def vpopcQueued (f : VUnOps) : Queued :=
  intUn f (wordOf (.vpopc f)) (fun _ w b => popCount w b)

/-- VPOPC (R143). -/
def execVpopc (f : VUnOps) (s : State) : Out := .next (s.enqueue (vpopcQueued f))

/-- VNOT (R143), as it is queued. -/
def vnotQueued (f : VUnOps) : Queued :=
  intUn f (wordOf (.vnot f)) (fun _ w b => 2 ^ w - 1 - b % 2 ^ w)

/-- VNOT (R143). -/
def execVnot (f : VUnOps) (s : State) : Out := .next (s.enqueue (vnotQueued f))

/-- VABS (R143), as it is queued. -/
def vabsQueued (f : VUnOps) : Queued :=
  intUn f (wordOf (.vabs f)) (fun sg w b => wrapTo w ((intValue sg w b).natAbs : Int))

/-- VABS (R143). -/
def execVabs (f : VUnOps) (s : State) : Out := .next (s.enqueue (vabsQueued f))

/-- VNEG (R143), as it is queued. -/
def vnegQueued (f : VUnOps) : Queued :=
  intUn f (wordOf (.vneg f)) (fun _ w b => (2 ^ w - b) % 2 ^ w)

/-- VNEG (R143). -/
def execVneg (f : VUnOps) (s : State) : Out := .next (s.enqueue (vnegQueued f))

end Sys2Proof.Machine
end

