-- ==== Sys2Proof/Machine/VMove.lean ====
section
/-!
DEFINITION. Machine/VMove.lean: moves and codebooks, compares, mask operations, permutations and reductions (05_vector
R145-R155, 02_numbers R59, R60).
-/

namespace Sys2Proof.Machine

/-- Types of a function that takes every type but the sub-arithmetic ones (R135). -/
def isPlain (ty : BitVec 4) : Bool := isInt ty || isArith ty
/-- Every type (R135). -/
def anyType (_ : BitVec 4) : Bool := true

/-! ### VMOV (R145, R146) -/

/-- VMV (R145), as it is queued. -/
def vmvQueued (f : VUnOps) : Queued :=
  plainQueued (wordOf (.vmv f)) f.l anyType false fun s e =>
    let t := s.me
    s.sweep e f.g f.m f.d fun r i => (t.elem e f.b r i, Flags.none)

/-- VMV (R145). -/
def execVmv (f : VUnOps) (s : State) : Out := .next (s.enqueue (vmvQueued f))

/-- VBCAST (R145), as it is queued. -/
def vbcastQueued (f : VXOps) : Queued :=
  { plainQueued (wordOf (.vbcast f)) f.l isPlain false fun s e =>
      s.sweep e f.g f.m f.d fun _ _ => (e.x1w, Flags.none) with
    x1 := some f.a }

/-- VBCAST (R145). -/
def execVbcast (f : VXOps) (s : State) : Out := .next (s.enqueue (vbcastQueued f))

/-- VMERGE (R145), as it is queued. -/
def vmergeQueued (f : VOps) : Queued :=
  plainQueued (wordOf (.vmerge f)) f.l anyType false fun s e =>
    let t := s.me
    let mask := t.maskOf f.m
    s.sweep e f.g 0 f.d fun r i => (if mask.testBit i then t.elem e f.a r i else t.elem e f.b r i, Flags.none)

/-- VMERGE (R145). -/
def execVmerge (f : VOps) (s : State) : Out := .next (s.enqueue (vmergeQueued f))

/-- VIOTA (R145), as it is queued. -/
def viotaQueued (f : VIotaOps) : Queued :=
  plainQueued (wordOf (.viota f)) f.l isInt false fun s e =>
    s.sweep e f.g f.m f.d fun _ i => (i % 2 ^ typeWidth e.ty, Flags.none)

/-- VIOTA (R145). -/
def execViota (f : VIotaOps) (s : State) : Out := .next (s.enqueue (viotaQueued f))

/-- VCBLD's check (R146): alignment first, then as a blocking vector load, which finds kind 3 under PERM (R162); FMT is
ignored. Its 32 bytes lie in one line. -/
def State.placingBook (s : State) (e : QEntry) : Placing :=
  let el : Elem := ⟨0, 0, 8 * e.xs1.toNat⟩
  let p := s.party s.cur
  if e.xs1.toNat % 32 ≠ 0 then ⟨0, [], some (el, causeAlign, e.xs1), none⟩
  else match (s.walkMeets p e.xs1).map (·.2), s.pageOf p e.xs1 with
    | some c, _ => ⟨0, [], some (el, c, e.xs1), none⟩
    | none, none => ⟨0, [], some (el, causePage, e.xs1), none⟩
    | none, some pg =>
      match s.locFault p .bulkRd false pg (pg.ga e.xs1.toNat) with
      | some x => ⟨0, [], some (el, x.2, e.xs1), none⟩
      | none =>
        let q : Placed := ⟨el, (List.range 32).map fun i => s.locOf p pg (e.xs1 + BitVec.ofNat 64 i), 0, 256, pg⟩
        ⟨0, [q], (s.eccPlaced [] [q]).map fun x => (x.1, causeEcc, x.2), none⟩
/-- VCBLD (R146), as it is queued. -/
def vcbldQueued (f : VCbldOps) : Queued :=
  { word := wordOf (.vcbld f), len := none, x1 := some f.a, x2 := none, x3 := none, bound := shareBound,
    types := anyType, rm := false, ctr := 0, check := fun _ _ => none
    place := fun s e => some (s.placingBook e)
    act := fun s e =>
      let locs := e.checked.els.flatMap (·.locs)
      match e.checked.bad.or ((s.eccPlaced [] e.checked.els).map fun x => (x.1, causeEcc, x.2)) with
      | some (el, c, v) => s.faultAt e.checked.els el c v 0 0
      | none =>
        match locs.find? fun l => s.mustWait l.ga with
        | some _ => .wait s e.xs1
        | none =>
          let failed := locs.findSome? fun l => s.failedHome l.ga
          let r := s.gather s.cur 1 (if failed.isSome then [] else s.needed s.winKey locs)
          let far := askByte s.me.asks
          if !r.2 then .wait r.1 e.xs1
          else if failed.isSome || (askFailed s.me.asks (s.farOf (locGas locs))).isSome then
            let s := match failed with
              | some c => s.peerLost s.cur c
              | none => s
            .done ((s.dropFar locs).withMe fun t =>
              t.setCb f.cb.toNat (BitVec.ofNat 256 (repeatBits 64 e.vfill.toNat 4))) 0
          else
            .done (((s.keepWindowsWith far s.winKey locs).dropFar locs).withMe fun t =>
              t.setCb f.cb.toNat (BitVec.ofNat 256 (s.loadAtWith far s.winKey locs))) 0 }

/-- VCBLD (R146). -/
def execVcbld (f : VCbldOps) (s : State) : Out := .next (s.enqueue (vcbldQueued f))

/-! ### Mask results (R23, R147, R148) -/

/-- A mask register's bits recomputed for active i below VL. -/
def State.sweepMask (s : State) (e : QEntry) (active : Nat → Bool) (d : BitVec 3) (f : Nat → Bool × Flags) : VOut :=
  let t := s.me
  let o := sweepRow 1 active (fun i => (if (f i).1 then 1 else 0, (f i).2)) (e.till 0 - e.elem0) e.elem0
    ((t.mr d.toNat).toNat, 0, false)
  .done (s.withMe fun t => t.setM d.toNat (BitVec.ofNat 8192 o.1)) o.2.1

/-- A comparison of two elements: integers by value, floats by R147's table; the NaN result, and whether a quiet NaN
raises NV. -/
def compareElems (ty : BitVec 4) (a b : Nat) (ints : Int → Int → Bool) (flts : FVal → FVal → Bool) (onNan quiet : Bool) :
    Bool × Flags :=
  if isInt ty then
    (ints (intValue (isSigned ty) (typeWidth ty) a) (intValue (isSigned ty) (typeWidth ty) b), Flags.none)
  else
    let x := (fmtOf ty).decode a
    let y := (fmtOf ty).decode b
    if x.isNan || y.isNan then
      (onNan, Flags.when quiet Flags.nv ||| x.sigFlag ||| y.sigFlag)
    else (flts x y, Flags.none)

/-- A compare of two rows into a mask. -/
def cmpVV (f : VCmpOps) (w : IWord) (types : BitVec 4 → Bool) (op : BitVec 4 → Nat → Nat → Bool × Flags) : Queued :=
  plainQueued w f.l types false fun s e =>
    let t := s.me
    let mask := t.maskOf f.m
    s.sweepMask e (fun i => mask.testBit i) f.d fun i => op e.ty (t.elem e f.a 0 i) (t.elem e f.b 0 i)
/-- A compare of a captured scalar with a row. -/
def cmpVX (f : VCmpOps) (w : IWord) (types : BitVec 4 → Bool) (op : BitVec 4 → Nat → Nat → Bool × Flags) : Queued :=
  { plainQueued w f.l types false fun s e =>
      let t := s.me
      let mask := t.maskOf f.m
      s.sweepMask e (fun i => mask.testBit i) f.d fun i => op e.ty e.x1w (t.elem e f.b 0 i) with
    x1 := some f.a }

/-- The condition eq (R147). -/
def cmpEq (ty : BitVec 4) (x y : Nat) : Bool × Flags :=
  compareElems ty x y (fun a b => a == b) (fun a b => FVal.eq a b) false false

/-- The condition ne (R147). -/
def cmpNe (ty : BitVec 4) (x y : Nat) : Bool × Flags :=
  compareElems ty x y (fun a b => a != b) (fun a b => !FVal.eq a b) true false

/-- The condition lt (R147). -/
def cmpLt (ty : BitVec 4) (x y : Nat) : Bool × Flags :=
  compareElems ty x y (fun a b => a < b) (fun a b => FVal.lt a b) false true

/-- The condition le (R147). -/
def cmpLe (ty : BitVec 4) (x y : Nat) : Bool × Flags :=
  compareElems ty x y (fun a b => a ≤ b) (fun a b => !FVal.lt b a) false true

/-- The condition gt (R147). -/
def cmpGt (ty : BitVec 4) (x y : Nat) : Bool × Flags :=
  compareElems ty x y (fun a b => b < a) (fun a b => FVal.lt b a) false true

/-- The condition ge (R147). -/
def cmpGe (ty : BitVec 4) (x y : Nat) : Bool × Flags :=
  compareElems ty x y (fun a b => b ≤ a) (fun a b => !FVal.lt a b) false true

/-- The condition unord (R147). -/
def cmpUnord (ty : BitVec 4) (x y : Nat) : Bool × Flags :=
  compareElems ty x y (fun _ _ => false) (fun _ _ => false) true false

/-- The condition ord (R147). -/
def cmpOrd (ty : BitVec 4) (x y : Nat) : Bool × Flags :=
  compareElems ty x y (fun _ _ => true) (fun _ _ => true) false false

/-- VCMP_EQ (R147), as it is queued. -/
def vcmpEqQueued (f : VCmpOps) : Queued :=
  cmpVV f (wordOf (.vcmpEq f)) isPlain cmpEq

/-- VCMP_EQ (R147). -/
def execVcmpEq (f : VCmpOps) (s : State) : Out := .next (s.enqueue (vcmpEqQueued f))

/-- VCMP_NE (R147), as it is queued. -/
def vcmpNeQueued (f : VCmpOps) : Queued :=
  cmpVV f (wordOf (.vcmpNe f)) isPlain cmpNe

/-- VCMP_NE (R147). -/
def execVcmpNe (f : VCmpOps) (s : State) : Out := .next (s.enqueue (vcmpNeQueued f))

/-- VCMP_LT (R147), as it is queued. -/
def vcmpLtQueued (f : VCmpOps) : Queued :=
  cmpVV f (wordOf (.vcmpLt f)) isPlain cmpLt

/-- VCMP_LT (R147). -/
def execVcmpLt (f : VCmpOps) (s : State) : Out := .next (s.enqueue (vcmpLtQueued f))

/-- VCMP_LE (R147), as it is queued. -/
def vcmpLeQueued (f : VCmpOps) : Queued :=
  cmpVV f (wordOf (.vcmpLe f)) isPlain cmpLe

/-- VCMP_LE (R147). -/
def execVcmpLe (f : VCmpOps) (s : State) : Out := .next (s.enqueue (vcmpLeQueued f))

/-- VCMP_GT (R147), as it is queued. -/
def vcmpGtQueued (f : VCmpOps) : Queued :=
  cmpVV f (wordOf (.vcmpGt f)) isPlain cmpGt

/-- VCMP_GT (R147). -/
def execVcmpGt (f : VCmpOps) (s : State) : Out := .next (s.enqueue (vcmpGtQueued f))

/-- VCMP_GE (R147), as it is queued. -/
def vcmpGeQueued (f : VCmpOps) : Queued :=
  cmpVV f (wordOf (.vcmpGe f)) isPlain cmpGe

/-- VCMP_GE (R147). -/
def execVcmpGe (f : VCmpOps) (s : State) : Out := .next (s.enqueue (vcmpGeQueued f))

/-- VCMP_UNORD (R147), as it is queued. -/
def vcmpUnordQueued (f : VCmpOps) : Queued :=
  cmpVV f (wordOf (.vcmpUnord f)) isArith cmpUnord

/-- VCMP_UNORD (R147). -/
def execVcmpUnord (f : VCmpOps) (s : State) : Out := .next (s.enqueue (vcmpUnordQueued f))

/-- VCMP_ORD (R147), as it is queued. -/
def vcmpOrdQueued (f : VCmpOps) : Queued :=
  cmpVV f (wordOf (.vcmpOrd f)) isArith cmpOrd

/-- VCMP_ORD (R147). -/
def execVcmpOrd (f : VCmpOps) (s : State) : Out := .next (s.enqueue (vcmpOrdQueued f))

/-- VCMP_EQ_X (R147), as it is queued. -/
def vcmpEqXQueued (f : VCmpOps) : Queued :=
  cmpVX f (wordOf (.vcmpEqX f)) isPlain cmpEq

/-- VCMP_EQ_X (R147). -/
def execVcmpEqX (f : VCmpOps) (s : State) : Out := .next (s.enqueue (vcmpEqXQueued f))

/-- VCMP_NE_X (R147), as it is queued. -/
def vcmpNeXQueued (f : VCmpOps) : Queued :=
  cmpVX f (wordOf (.vcmpNeX f)) isPlain cmpNe

/-- VCMP_NE_X (R147). -/
def execVcmpNeX (f : VCmpOps) (s : State) : Out := .next (s.enqueue (vcmpNeXQueued f))

/-- VCMP_LT_X (R147), as it is queued. -/
def vcmpLtXQueued (f : VCmpOps) : Queued :=
  cmpVX f (wordOf (.vcmpLtX f)) isPlain cmpLt

/-- VCMP_LT_X (R147). -/
def execVcmpLtX (f : VCmpOps) (s : State) : Out := .next (s.enqueue (vcmpLtXQueued f))

/-- VCMP_LE_X (R147), as it is queued. -/
def vcmpLeXQueued (f : VCmpOps) : Queued :=
  cmpVX f (wordOf (.vcmpLeX f)) isPlain cmpLe

/-- VCMP_LE_X (R147). -/
def execVcmpLeX (f : VCmpOps) (s : State) : Out := .next (s.enqueue (vcmpLeXQueued f))

/-- VCMP_GT_X (R147), as it is queued. -/
def vcmpGtXQueued (f : VCmpOps) : Queued :=
  cmpVX f (wordOf (.vcmpGtX f)) isPlain cmpGt

/-- VCMP_GT_X (R147). -/
def execVcmpGtX (f : VCmpOps) (s : State) : Out := .next (s.enqueue (vcmpGtXQueued f))

/-- VCMP_GE_X (R147), as it is queued. -/
def vcmpGeXQueued (f : VCmpOps) : Queued :=
  cmpVX f (wordOf (.vcmpGeX f)) isPlain cmpGe

/-- VCMP_GE_X (R147). -/
def execVcmpGeX (f : VCmpOps) (s : State) : Out := .next (s.enqueue (vcmpGeXQueued f))

/-- VCMP_UNORD_X (R147), as it is queued. -/
def vcmpUnordXQueued (f : VCmpOps) : Queued :=
  cmpVX f (wordOf (.vcmpUnordX f)) isArith cmpUnord

/-- VCMP_UNORD_X (R147). -/
def execVcmpUnordX (f : VCmpOps) (s : State) : Out := .next (s.enqueue (vcmpUnordXQueued f))

/-- VCMP_ORD_X (R147), as it is queued. -/
def vcmpOrdXQueued (f : VCmpOps) : Queued :=
  cmpVX f (wordOf (.vcmpOrdX f)) isArith cmpOrd

/-- VCMP_ORD_X (R147). -/
def execVcmpOrdX (f : VCmpOps) (s : State) : Out := .next (s.enqueue (vcmpOrdXQueued f))

/-- Every element below VL. -/
def everyElem (_ : Nat) : Bool := true

/-- A mask operation of one or two sources (R148). -/
def maskOp (w : IWord) (l : BitVec 2) (d a b : BitVec 3) (op : Bool → Bool → Bool) : Queued :=
  plainQueued w l isPlain false fun s e =>
    let t := s.me
    let x := t.mr a.toNat
    let y := t.mr b.toNat
    s.sweepMask e everyElem d fun i => (op (x.getLsbD i) (y.getLsbD i), Flags.none)

/-- A vector-to-scalar result, written at completion; one to x0 is discarded (R155). -/
def State.scalarResult (s : State) (d : BitVec 5) (v : Word) (fl : Flags) : VOut :=
  .done (s.withMe fun t => t.setX d v) fl

/-- The lowest set bit of a mask from bit i on, among n bits. -/
def firstSet (b : Mask) : Nat → Nat → Option Nat
  | 0, _ => none
  | n + 1, i => if b.getLsbD i then some i else firstSet b n (i + 1)

/-- MAND (R148), as it is queued. -/
def mandQueued (f : MskBinOps) : Queued :=
  maskOp (wordOf (.mand f)) f.l f.d f.a f.b fun x y => x && y

/-- MAND (R148). -/
def execMand (f : MskBinOps) (s : State) : Out := .next (s.enqueue (mandQueued f))

/-- MOR (R148), as it is queued. -/
def morQueued (f : MskBinOps) : Queued :=
  maskOp (wordOf (.mor f)) f.l f.d f.a f.b fun x y => x || y

/-- MOR (R148). -/
def execMor (f : MskBinOps) (s : State) : Out := .next (s.enqueue (morQueued f))

/-- MXOR (R148), as it is queued. -/
def mxorQueued (f : MskBinOps) : Queued :=
  maskOp (wordOf (.mxor f)) f.l f.d f.a f.b fun x y => x != y

/-- MXOR (R148). -/
def execMxor (f : MskBinOps) (s : State) : Out := .next (s.enqueue (mxorQueued f))

/-- MANDN (R148), as it is queued. -/
def mandnQueued (f : MskBinOps) : Queued :=
  maskOp (wordOf (.mandn f)) f.l f.d f.a f.b fun x y => x && !y

/-- MANDN (R148). -/
def execMandn (f : MskBinOps) (s : State) : Out := .next (s.enqueue (mandnQueued f))

/-- MNOT (R148), as it is queued. -/
def mnotQueued (f : MskUnOps) : Queued :=
  maskOp (wordOf (.mnot f)) f.l f.d 0 f.b fun _ y => !y

/-- MNOT (R148). -/
def execMnot (f : MskUnOps) (s : State) : Out := .next (s.enqueue (mnotQueued f))

/-- MMV (R148), as it is queued. -/
def mmvQueued (f : MskUnOps) : Queued :=
  maskOp (wordOf (.mmv f)) f.l f.d 0 f.b fun _ y => y

/-- MMV (R148). -/
def execMmv (f : MskUnOps) (s : State) : Out := .next (s.enqueue (mmvQueued f))

/-- MSET (R148), as it is queued. -/
def msetQueued (f : MskSetOps) : Queued :=
  maskOp (wordOf (.mset f)) f.l f.d 0 0 fun _ _ => true

/-- MSET (R148). -/
def execMset (f : MskSetOps) (s : State) : Out := .next (s.enqueue (msetQueued f))

/-- MCLR (R148), as it is queued. -/
def mclrQueued (f : MskSetOps) : Queued :=
  maskOp (wordOf (.mclr f)) f.l f.d 0 0 fun _ _ => false

/-- MCLR (R148). -/
def execMclr (f : MskSetOps) (s : State) : Out := .next (s.enqueue (mclrQueued f))

/-- MSBF (R148), as it is queued. -/
def msbfQueued (f : MskUnOps) : Queued :=
  plainQueued (wordOf (.msbf f)) f.l isPlain false fun s e =>
    let first := (firstSet (s.me.mr f.b.toNat) e.vl 0).getD e.vl
    s.sweepMask e everyElem f.d fun i => (decide (i < first), Flags.none)

/-- MSBF (R148). -/
def execMsbf (f : MskUnOps) (s : State) : Out := .next (s.enqueue (msbfQueued f))

/-- MPOPC (R148), as it is queued. -/
def mpopcQueued (f : MskScalOps) : Queued :=
  plainQueued (wordOf (.mpopc f)) f.l isPlain false fun s e =>
    s.scalarResult f.d (BitVec.ofNat 64 (popCount e.vl (s.me.mr f.b.toNat).toNat)) 0

/-- MPOPC (R148). -/
def execMpopc (f : MskScalOps) (s : State) : Out := .next (s.enqueue (mpopcQueued f))

/-- MFIRST (R148), as it is queued. -/
def mfirstQueued (f : MskScalOps) : Queued :=
  plainQueued (wordOf (.mfirst f)) f.l isPlain false fun s e =>
    s.scalarResult f.d (match firstSet (s.me.mr f.b.toNat) e.vl 0 with
      | some i => BitVec.ofNat 64 i
      | none => BitVec.allOnes 64) 0

/-- MFIRST (R148). -/
def execMfirst (f : MskScalOps) (s : State) : Out := .next (s.enqueue (mfirstQueued f))

/-! ### Permutations (R137, R149-R153) -/

/-- VFILL at the element width (R137). -/
def QEntry.fill (e : QEntry) : Nat := e.vfill.toNat % 2 ^ typeWidth e.ty
/-- A scalar result extended by the type's signedness (R152). -/
def extendElem (ty : BitVec 4) (x : Nat) : Word :=
  if isSigned ty then BitVec.ofInt 64 (toSigned (typeWidth ty) x) else BitVec.ofNat 64 x

/-- The positions of a mask's set bits below a bound, from bit i on. -/
def setPositions (mask : Nat) : Nat → Nat → List Nat
  | 0, _ => []
  | n + 1, i => if mask.testBit i then i :: setPositions mask n (i + 1) else setPositions mask n (i + 1)

/-- VSLUP (R149), as it is queued. -/
def vslupQueued (f : VPermOps) : Queued :=
  { plainQueued (wordOf (.vslup f)) f.l isPlain false fun s e =>
      let t := s.me
      let mask := t.maskOf f.m
      let o := sweepTo t.k e.ty (e.till 0) (max e.elem0 e.xs1.toNat) (fun i => mask.testBit i)
        (fun i => (t.elem e f.b 0 (i - e.xs1.toNat), Flags.none)) (t.vr f.d.toNat)
      .done (s.withMe fun t => t.setV f.d.toNat o.1) 0 with
    x1 := some f.a }

/-- VSLUP (R149). -/
def execVslup (f : VPermOps) (s : State) : Out := .next (s.enqueue (vslupQueued f))

/-- VSLDN (R149), as it is queued. -/
def vsldnQueued (f : VPermOps) : Queued :=
  { plainQueued (wordOf (.vsldn f)) f.l isPlain false fun s e =>
      let t := s.me
      s.sweep e 0 f.m f.d fun _ i =>
        (if i + e.xs1.toNat < e.vl then t.elem e f.b 0 (i + e.xs1.toNat) else e.fill, Flags.none) with
    x1 := some f.a }

/-- VSLDN (R149). -/
def execVsldn (f : VPermOps) (s : State) : Out := .next (s.enqueue (vsldnQueued f))

/-- VGATHER (R150), as it is queued. -/
def vgatherQueued (f : VPermOps) : Queued :=
  plainQueued (wordOf (.vgather f)) f.l isPlain false fun s e =>
    let t := s.me
    s.sweep e 0 f.m f.d fun _ i =>
      let j := t.elem e f.a 0 i
      (if j < e.vl then t.elem e f.b 0 j else e.fill, Flags.none)

/-- VGATHER (R150). -/
def execVgather (f : VPermOps) (s : State) : Out := .next (s.enqueue (vgatherQueued f))

/-- VCOMPRESS (R151), as it is queued. -/
def vcompressQueued (f : VRedOps) : Queued :=
  plainQueued (wordOf (.vcompress f)) f.l isPlain false fun s e =>
    let t := s.me
    let src := setPositions (t.maskOf f.m) e.vl 0
    s.sweep e 0 0 f.d fun _ i =>
      (match src[i]? with
      | some j => t.elem e f.b 0 j
      | none => e.fill, Flags.none)

/-- VCOMPRESS (R151). -/
def execVcompress (f : VRedOps) (s : State) : Out := .next (s.enqueue (vcompressQueued f))

/-- VEXPAND (R151), as it is queued. -/
def vexpandQueued (f : VRedOps) : Queued :=
  plainQueued (wordOf (.vexpand f)) f.l isPlain false fun s e =>
    let t := s.me
    let mask := t.maskOf f.m
    s.sweep e 0 f.m f.d fun _ i => (t.elem e f.b 0 (popCount i mask), Flags.none)

/-- VEXPAND (R151). -/
def execVexpand (f : VRedOps) (s : State) : Out := .next (s.enqueue (vexpandQueued f))

/-- VEXTRACT (R152), as it is queued. -/
def vextractQueued (f : VExtOps) : Queued :=
  { plainQueued (wordOf (.vextract f)) f.l isPlain false fun s e =>
      let x := if e.xs1.toNat < e.vl then s.me.elem e f.b 0 e.xs1.toNat else e.fill
      s.scalarResult f.d (extendElem e.ty x) 0 with
    x1 := some f.a }

/-- VEXTRACT (R152). -/
def execVextract (f : VExtOps) (s : State) : Out := .next (s.enqueue (vextractQueued f))

/-- VINSERT (R152), as it is queued. -/
def vinsertQueued (f : VExtOps) : Queued :=
  { plainQueued (wordOf (.vinsert f)) f.l isPlain false fun s e =>
      s.sweep e 0 0 f.d fun _ i =>
        (if i = e.xs1.toNat then e.xs2.toNat % 2 ^ typeWidth e.ty else s.me.elem e f.d 0 i, Flags.none) with
    x1 := some f.a
    x2 := some f.b }

/-- VINSERT (R152). -/
def execVinsert (f : VExtOps) (s : State) : Out := .next (s.enqueue (vinsertQueued f))

/-- VROWROT (R153), as it is queued. -/
def vrowrotQueued (f : VOps) : Queued :=
  { plainQueued (wordOf (.vrowrot f)) f.l isPlain false fun s e =>
      let t := s.me
      s.sweep e f.g f.m f.d fun r i => (t.elem e f.b ((r + e.xs1.toNat) % groupRows f.g) i, Flags.none) with
    x1 := some f.a }

/-- VROWROT (R153). -/
def execVrowrot (f : VOps) (s : State) : Out := .next (s.enqueue (vrowrotQueued f))

/-! ### Reductions (R154, R59, R60) -/

/-- The active elements below VL of a row, in index order. -/
def Hart.activeElems (t : Hart) (e : QEntry) (m : BitVec 2) (b : BitVec 5) : List Nat :=
  (setPositions (t.maskOf m) e.vl 0).map fun i => t.elem e b 0 i

/-- A reduction of the active elements to a scalar (R154). -/
def reduceOp (f : VRedOps) (w : IWord) (types : BitVec 4 → Bool) (rm : Bool)
    (op : BitVec 4 → List Nat → Nat) : Queued :=
  plainQueued w f.l types rm fun s e =>
    s.scalarResult f.d (extendElem e.ty (op e.ty (s.me.activeElems e f.m f.b))) 0

/-- A sum in strict index order (R59). -/
def sumOrdered (F : Fmt) (rm : BitVec 3) : List Nat → Nat × Flags
  | [] => (0, Flags.none)
  | [x] => (match F.decode x with
    | .nan g => (F.nanCode, (FVal.nan g).sigFlag)
    | _ => (x, Flags.none))
  | x :: xs => xs.foldl (fun a y => let r := F.add rm a.1 y; (r.1, a.2 ||| r.2)) (x, Flags.none)

/-- Neighbouring leaves added (R60). -/
def sumPairs (F : Fmt) (rm : BitVec 3) : List Nat → List Nat × Flags
  | x :: y :: t =>
    let r := F.add rm x y
    let rest := sumPairs F rm t
    (r.1 :: rest.1, r.2 ||| rest.2)
  | l => (l, Flags.none)
/-- The fixed pairwise tree of 2^n leaves (R60). -/
def sumTree (F : Fmt) (rm : BitVec 3) : Nat → List Nat × Flags → Nat × Flags
  | 0, (l, fl) =>
    let x := l.headD 0
    (match F.decode x with
    | .nan g => (F.nanCode, fl ||| (FVal.nan g).sigFlag)
    | _ => (x, fl))
  | n + 1, (l, fl) =>
    let p := sumPairs F rm l
    sumTree F rm n (p.1, fl ||| p.2)
/-- Levels of the tree over n leaves: the least with 2^l ≥ n. -/
def treeLevels (n : Nat) : Nat := if n ≤ 1 then 0 else (n - 1).log2 + 1

/-- The smallest or largest of codes in index order (R154). -/
def minMaxAll (F : Fmt) (mx : Bool) (xs : List Nat) : Nat × Flags :=
  match xs with
  | [] => (F.signBit (mx) + F.infCode, Flags.none)
  | [x] => F.minMax mx x x
  | x :: xs => xs.foldl (fun a y => let r := F.minMax mx a.1 y; (r.1, a.2 ||| r.2)) (x, Flags.none)

/-- VREDSUM (R154), as it is queued. -/
def vredsumQueued (f : VRedOps) : Queued :=
  reduceOp f (wordOf (.vredsum f)) isInt false (fun ty xs => xs.sum % 2 ^ typeWidth ty)

/-- VREDSUM (R154). -/
def execVredsum (f : VRedOps) (s : State) : Out := .next (s.enqueue (vredsumQueued f))

/-- VREDMIN (R154), as it is queued. -/
def vredminQueued (f : VRedOps) : Queued :=
  reduceOp f (wordOf (.vredmin f)) isInt false (fun ty xs => xs.foldl (fun a b => opMin (isSigned ty) (typeWidth ty) a b 0)
    (wrapTo (typeWidth ty) (intMax (isSigned ty) (typeWidth ty))))

/-- VREDMIN (R154). -/
def execVredmin (f : VRedOps) (s : State) : Out := .next (s.enqueue (vredminQueued f))

/-- VREDMAX (R154), as it is queued. -/
def vredmaxQueued (f : VRedOps) : Queued :=
  reduceOp f (wordOf (.vredmax f)) isInt false (fun ty xs => xs.foldl (fun a b => opMax (isSigned ty) (typeWidth ty) a b 0)
    (wrapTo (typeWidth ty) (intMin (isSigned ty) (typeWidth ty))))

/-- VREDMAX (R154). -/
def execVredmax (f : VRedOps) (s : State) : Out := .next (s.enqueue (vredmaxQueued f))

/-- VREDAND (R154), as it is queued. -/
def vredandQueued (f : VRedOps) : Queued :=
  reduceOp f (wordOf (.vredand f)) isInt false (fun ty xs => xs.foldl (· &&& ·) (2 ^ typeWidth ty - 1))

/-- VREDAND (R154). -/
def execVredand (f : VRedOps) (s : State) : Out := .next (s.enqueue (vredandQueued f))

/-- VREDOR (R154), as it is queued. -/
def vredorQueued (f : VRedOps) : Queued :=
  reduceOp f (wordOf (.vredor f)) isInt false (fun _ xs => xs.foldl (· ||| ·) 0)

/-- VREDOR (R154). -/
def execVredor (f : VRedOps) (s : State) : Out := .next (s.enqueue (vredorQueued f))

/-- VREDXOR (R154), as it is queued. -/
def vredxorQueued (f : VRedOps) : Queued :=
  reduceOp f (wordOf (.vredxor f)) isInt false (fun _ xs => xs.foldl (· ^^^ ·) 0)

/-- VREDXOR (R154). -/
def execVredxor (f : VRedOps) (s : State) : Out := .next (s.enqueue (vredxorQueued f))

/-- VFSUMO (R59), as it is queued. -/
def vfsumoQueued (f : VRedOps) : Queued :=
  plainQueued (wordOf (.vfsumo f)) f.l isArith true fun s e =>
    let r := sumOrdered (fmtOf e.ty) e.rm (s.me.activeElems e f.m f.b)
    s.scalarResult f.d (extendElem e.ty r.1) r.2

/-- VFSUMO (R59). -/
def execVfsumo (f : VRedOps) (s : State) : Out := .next (s.enqueue (vfsumoQueued f))

/-- VFSUMT (R60), as it is queued. -/
def vfsumtQueued (f : VRedOps) : Queued :=
  plainQueued (wordOf (.vfsumt f)) f.l isArith true fun s e =>
    let t := s.me
    let n := treeLevels e.vl
    let mask := t.maskOf f.m
    let leaves := (List.range (2 ^ n)).map fun i => if i < e.vl ∧ mask.testBit i then t.elem e f.b 0 i else 0
    let r := sumTree (fmtOf e.ty) e.rm n (leaves, 0)
    s.scalarResult f.d (extendElem e.ty r.1) r.2

/-- VFSUMT (R60). -/
def execVfsumt (f : VRedOps) (s : State) : Out := .next (s.enqueue (vfsumtQueued f))

/-- VFREDMIN (R154), as it is queued. -/
def vfredminQueued (f : VRedOps) : Queued :=
  plainQueued (wordOf (.vfredmin f)) f.l isArith true fun s e =>
    let r := minMaxAll (fmtOf e.ty) false (s.me.activeElems e f.m f.b)
    s.scalarResult f.d (extendElem e.ty r.1) r.2

/-- VFREDMIN (R154). -/
def execVfredmin (f : VRedOps) (s : State) : Out := .next (s.enqueue (vfredminQueued f))

/-- VFREDMAX (R154), as it is queued. -/
def vfredmaxQueued (f : VRedOps) : Queued :=
  plainQueued (wordOf (.vfredmax f)) f.l isArith true fun s e =>
    let r := minMaxAll (fmtOf e.ty) true (s.me.activeElems e f.m f.b)
    s.scalarResult f.d (extendElem e.ty r.1) r.2

/-- VFREDMAX (R154). -/
def execVfredmax (f : VRedOps) (s : State) : Out := .next (s.enqueue (vfredmaxQueued f))

end Sys2Proof.Machine
end

