-- ==== Sys2Proof/Machine/Coll.lean ====
section
/-!
DEFINITION. Machine/Coll.lean: collectives (06_memory_isa R197-R205; 17_prog_decode R323, R324; 10_consistency
R263-R268; 20_faults R374, R375): COLL, the combinations, and the steps by which an operation's members meet.
-/

namespace Sys2Proof.Machine

/-! ### The collective word (R197, R201) -/

def collKind (w : Word) : Nat := (w.extractLsb' 60 4).toNat
def collOper (w : Word) : Nat := (w.extractLsb' 56 4).toNat
def collType (w : Word) : BitVec 4 := w.extractLsb' 52 4
def collTree (w : Word) : Bool := w.getLsbD 51
def collOrdered (w : Word) : Bool := w.getLsbD 50
def collRoot (w : Word) : Nat := (w.extractLsb' 32 16).toNat
def collCount (w : Word) : Nat := (w.extractLsb' 0 32).toNat

/-- KIND, OPER and TYPE pair as R201 lists. -/
def collPairs (w : Word) : Bool :=
  let k := collKind w
  let t := collType w
  let reduces := [0, 1, 4, 5].contains k
  match collOper w with
  | 0 | 1 | 2 => reduces && decide (t.toNat < 12)
  | 3 | 4 | 5 => reduces && isInt t
  | 6 => reduces && decide (t = tyF32)
  | 7 => [0, 4, 5].contains k && decide (t = tyF32)
  | 8 => (k = 2 || k = 3) && (decide (t ≠ tyF6) || collCount w % 4 = 0) && (decide (t ≠ tyC4) || collCount w % 2 = 0)
  | _ => false
/-- The second check of R199. -/
def collWordOk (w : Word) : Bool :=
  decide (collKind w ≤ 5) && decide (collOper w ≤ 8) && decide (w.extractLsb' 48 2 = 0) && collPairs w
/-- The third check of R199. -/
def collRootOk (w : Word) (n : Nat) : Bool :=
  decide (collRoot w < n) && (decide (collRoot w = 0) || collKind w = 3 || collKind w = 5) &&
    (!collOrdered w || collKind w = 3)

/-- Elements of a rank's part: COUNT, or one record for LSE (R200). -/
def collElems (w : Word) : Nat := if collOper w = 7 then 1 else collCount w
/-- Bytes of a rank's part (R200). -/
def collBytes (w : Word) : Nat :=
  match collOper w with
  | 6 => 8 * collCount w
  | 7 => 8 + 4 * collCount w
  | _ => collCount w * typeWidth (collType w) / 8
/-- Bytes of the buffer among n ranks (R200). -/
def collBuffer (w : Word) (n : Nat) : Nat :=
  if collKind w = 1 ∨ collKind w = 2 then n * collBytes w else collBytes w

/-! ### Elements and their combination (R201, R202) -/

/-- The code words of an element: one, (G, H), or a record (m, s, v). -/
abbrev CollElem := List Nat

/-- Bytes of a code word. -/
def codeBytes (w : Word) : Nat := if 6 ≤ collOper w then 4 else typeWidth (collType w) / 8
/-- Code words of an element. -/
def elemCodes (w : Word) : Nat :=
  match collOper w with
  | 6 => 2
  | 7 => collCount w + 2
  | _ => 1

/-- Element e of a contribution's bytes. -/
def elemAt (w : Word) (bs : List Byte) (e : Nat) : CollElem :=
  let c := codeBytes w
  (List.range (elemCodes w)).map fun i => bytesNat ((bs.drop (c * (elemCodes w * e + i))).take c)
/-- An element's bytes. -/
def elemBytes (w : Word) (x : CollElem) : List Byte := x.flatMap (natBytes (codeBytes w))

/-- The identity (R201, R68). -/
def collIdentity (w : Word) : CollElem :=
  let t := collType w
  let b := typeWidth t
  let F := fmtOf t
  match collOper w with
  | 1 => [if isInt t then wrapTo b (intMax (isSigned t) b) else F.infCode]
  | 2 => [if isInt t then wrapTo b (intMin (isSigned t) b) else F.infCode + F.signBit true]
  | 3 => [2 ^ b - 1]
  | 6 => [f32One, 0]
  | 7 => f32NegInf :: List.replicate (collCount w + 1) 0
  | _ => [0]

/-- Two elements combined, the first from the lower rank (R201). -/
def collCombine (w : Word) (a b : CollElem) : CollElem × Flags :=
  let t := collType w
  let n := typeWidth t
  let F := fmtOf t
  let x := a.headD 0
  let y := b.headD 0
  let less (p q : Nat) : Bool := decide (intValue (isSigned t) n p < intValue (isSigned t) n q)
  let one (r : Nat × Flags) : CollElem × Flags := ([r.1], r.2)
  match collOper w with
  | 0 => if isInt t then ([(x + y) % 2 ^ n], Flags.none) else one (F.add 0#3 x y)
  | 1 => if isInt t then ([if less y x then y else x], Flags.none) else one (F.minMax false x y)
  | 2 => if isInt t then ([if less x y then y else x], Flags.none) else one (F.minMax true x y)
  | 3 => ([x &&& y], Flags.none)
  | 4 => ([x ||| y], Flags.none)
  | 5 => ([x ^^^ y], Flags.none)
  | 6 =>
    let r := compose (x, a.getD 1 0) (y, b.getD 1 0)
    ([r.1.1, r.1.2], r.2)
  | _ => lseMerge a b

/-- Neighbours combined: one level of the tree of R60. -/
def pairUp (w : Word) : List CollElem → List CollElem × Flags
  | a :: b :: t =>
    let r := collCombine w a b
    let rest := pairUp w t
    (r.1 :: rest.1, r.2 ||| rest.2)
  | l => (l, Flags.none)
/-- The tree over 2^n leaves. -/
def treeUp (w : Word) : Nat → List CollElem × Flags → CollElem × Flags
  | 0, l => (l.1.headD (collIdentity w), l.2)
  | n + 1, l =>
    let r := pairUp w l.1
    treeUp w n (r.1, l.2 ||| r.2)
/-- Leaves padded with the identity to a power of two, and combined by the tree (R202). -/
def treeOf (w : Word) (l : List CollElem) : CollElem × Flags :=
  let n := treeLevels l.length
  treeUp w n (l ++ List.replicate (2 ^ n - l.length) (collIdentity w), Flags.none)
/-- Any order and grouping (R202, D = 0): two of those left are combined, either way round. -/
def freeUp (w : Word) (seed : Nat) : Nat → List CollElem × Flags → CollElem × Flags
  | 0, l => (l.1.headD (collIdentity w), l.2)
  | n + 1, (l, f) =>
    match l with
    | [] => (collIdentity w, f)
    | [a] => (a, f)
    | l =>
      let i := Config.combineAt seed (2 * n) % l.length
      let rest := l.eraseIdx i
      let j := Config.combineAt seed (2 * n + 1) % rest.length
      let a := l.getD i []
      let b := rest.getD j []
      let r := if Config.combineLeft seed n then collCombine w a b else collCombine w b a
      freeUp w seed n (r.1 :: rest.eraseIdx j, f ||| r.2)
/-- Contributions combined. -/
def combineRanks (w : Word) (seed : Nat) (l : List CollElem) : CollElem × Flags :=
  if collTree w then treeOf w l else freeUp w seed l.length (l, Flags.none)

/-- The largest aligned power-of-two blocks of [0, r) from the left (R202): starts and lengths. -/
def prefixBlocks (r : Nat) : List (Nat × Nat) :=
  ((List.range 17).reverse.foldl (fun (acc : Nat × List (Nat × Nat)) b =>
    if (r / 2 ^ b) % 2 = 1 then (acc.1 + 2 ^ b, acc.2 ++ [(acc.1, 2 ^ b)]) else acc) (0, [])).2
/-- The combination of ranks 0 to r - 1 (R200, R202). -/
def scanTo (w : Word) (seed r : Nat) (l : List CollElem) : CollElem × Flags :=
  if r = 0 then (collIdentity w, Flags.none)
  else if collTree w then
    let parts := (prefixBlocks r).map fun b => treeOf w ((l.drop b.1).take b.2)
    let fl := parts.foldl (fun f p => f ||| p.2) Flags.none
    match parts.map (·.1) with
    | [] => (collIdentity w, fl)
    | p :: ps => ps.foldl (fun acc q =>
        let c := collCombine w acc.1 q
        (c.1, acc.2 ||| c.2)) (p, fl)
  else combineRanks w seed (l.take r)

/-- Elements first to first + count - 1 combined over the ranks, for a member of a rank: their bytes and flags. -/
def combineSpan (w : Word) (seed : Nat) (parts : List (List Byte)) (scan : Option Nat) (first count : Nat) :
    List Byte × Flags :=
  (List.range count).foldl (fun (acc : List Byte × Flags) e =>
    let l := parts.map fun p => elemAt w p (first + e)
    let r := match scan with
      | some k => scanTo w seed k l
      | none => combineRanks w seed l
    (acc.1 ++ elemBytes w r.1, acc.2 ||| r.2)) ([], Flags.none)

/-- What a member writes into its buffer: an offset and bytes (R200). -/
def collResult (w : Word) (seed n r : Nat) (parts : List (List Byte)) : Nat × List Byte :=
  let c := collElems w
  match collKind w with
  | 0 => (0, (combineSpan w seed parts none 0 c).1)
  | 1 => (r * collBytes w, (combineSpan w seed parts none (r * c) c).1)
  | 2 => (0, parts.flatten)
  | 3 => (0, if r = collRoot w then [] else parts.headD [])
  | 4 => (0, (combineSpan w seed parts (some r) 0 c).1)
  | _ => (0, if r = collRoot w ∧ r < n then (combineSpan w seed parts none 0 c).1 else [])
/-- The status of an operation: the flags of every combination (R205). -/
def collStatus (w : Word) (seed n : Nat) (parts : List (List Byte)) : Flags :=
  let c := collElems w
  match collKind w with
  | 0 | 5 => (combineSpan w seed parts none 0 c).2
  | 1 => (combineSpan w seed parts none 0 (n * c)).2
  | 4 => (List.range n).foldl (fun f r => f ||| (combineSpan w seed parts (some r) 0 c).2) Flags.none
  | _ => Flags.none

/-! ### Groups (R198, R199) -/

/-- A group-table entry: member list, N, this endpoint's rank, settle window, V. -/
structure GroupEntry where
  mlist : Nat
  n : Nat
  rank : Nat
  settle : Word
  valid : Bool
  deriving DecidableEq, Repr
def State.groupEntry (s : State) (grptab handle : Nat) : GroupEntry :=
  let v := s.readGa (grptab + 64 * handle) 64
  ⟨v % 2 ^ 64, v / 2 ^ 64 % 2 ^ 32, v / 2 ^ 96 % 2 ^ 32, BitVec.ofNat 64 (v / 2 ^ 128), v.testBit 192⟩
/-- The member list: one endpoint word per rank. -/
def State.members (s : State) (g : GroupEntry) : List (BitVec 32) :=
  (List.range g.n).map fun r => BitVec.ofNat 32 (s.readGa (g.mlist + 4 * r) 4)
/-- Device and die of an endpoint. -/
def endDev (e : BitVec 32) : Nat := (e.extractLsb' 0 14).toNat
def endDie (e : BitVec 32) : Nat := (e.extractLsb' 16 4).toNat

/-- A group's entry or member list that cannot be read, by its address (21_service R379, R384). -/
def State.groupStop (s : State) (grptab handle : Nat) (g : GroupEntry) : Option Stop :=
  let entry := gaRange (grptab + 64 * handle) 64
  let list := if g.valid && decide (g.n ≤ 65536) then gaRange g.mlist (4 * g.n) else []
  (entry ++ list).findSome? fun a => (s.unread a).map (stopOf a (BitVec.ofNat 64 a))
/-- The checks of R199 on the word, the group and the buffer, in order; the slot's are made at the issue. -/
def State.collCheck (s : State) (buf w h : Word) (ge : GroupEntry) (g : List (BitVec 32)) : Option (State × Stop) :=
  let t := s.me
  let p := s.party s.cur
  let ill (v : Word) : Option (State × Stop) := some (s, .trap causeIllegal v)
  if h.toNat > 65535 ∨ !ge.valid ∨ ge.n < 1 ∨ 65536 < ge.n ∨ ge.n ≤ ge.rank then ill h
  else if !collWordOk w then ill w
  else if !collRootOk w ge.n then ill w
  else if g.getD ge.rank 0 ≠ BitVec.ofNat 32 (s.chip + slotDie s.cur * 2 ^ 16) then ill h
  else
    match g.findIdx? fun e => decide (endDev e ≠ s.chip) && (t.csrv 0x10B = 0 || !s.mapBit (t.csrv 0x10B) (endDev e)) with
    | some r => some (s, .trap causePartition (BitVec.ofNat 64 r))
    | none =>
      match g.findIdx? fun e => decide (endDev e ≠ s.chip) && !s.present.contains (endDev e) with
      | some r => some (s, .trap causePeerdown (BitVec.ofNat 64 r))
      | none =>
        match s.checkRange p .bulkBoth false buf (collBuffer w ge.n) with
        | .error e => some (s, e)
        | .ok _ => none

/-! ### Operations -/

/-- The operation of a group by its number. -/
def State.collOp (s : State) (g : List (BitVec 32)) (i : Nat) : CollOp :=
  (s.collOps.find? fun o => o.group = g ∧ o.index = i).getD ⟨g, i, [], [], none, s.fresh⟩
def State.setCollOp (s : State) (o : CollOp) : State :=
  { s with
    collOps := o :: s.collOps.filter fun x => !decide (x.group = o.group ∧ x.index = o.index)
    fresh := s.fresh + 1 }

/-- A command of a context changed. -/
def State.setCmd (s : State) (key : Nat) (num : Word) (f : CollCmd → CollCmd) : State :=
  let x := s.ctx key
  s.setCtx key { x with coll := x.coll.map fun m => if m.num = num then f m else m }
/-- The contexts with an unfinished command of an operation, and the commands. -/
def State.opCmds (s : State) (g : List (BitVec 32)) (i : Nat) : List (Nat × CollCmd) :=
  s.ctxs.filterMap fun c =>
    if c.2.faulted then none
    else (c.2.coll.find? fun m => decide (m.group = g ∧ m.index = i) && m.done.isNone).map fun m => (c.1, m)

/-- The other devices that hold members of a group. -/
def State.farDevs (s : State) (g : List (BitVec 32)) : List Nat := ((g.map endDev).filter (· ≠ s.chip)).dedup

/-! ### What has come of an operation (R200, R202; 17_prog_decode R324) -/

/-- An operation whose combination is formed node by node: ALLRED with D = 1 (R324). -/
def collNodes (w : Word) : Bool := collTree w && decide (collKind w = 0)
/-- The ranks that a node of the tree covers among n. -/
def nodeRanks (n lo level : Nat) : List Nat := ((List.range (2 ^ level)).map (lo + ·)).filter (· < n)
/-- Two records combined element by element, the first from the lower ranks; what no rank gives is the identity (R202, R324). -/
def combineData (w : Word) (a : List Byte) (b : Option (List Byte)) : List Byte × Flags :=
  (List.range (collElems w)).foldl (fun (acc : List Byte × Flags) e =>
    let r := collCombine w (elemAt w a e) ((b.map fun y => elemAt w y e).getD (collIdentity w))
    (acc.1 ++ elemBytes w r.1, acc.2 ||| r.2)) ([], Flags.none)

/-- The device that forms a node: which member's is not promised (R324). -/
def State.nodeDev (s : State) (o : CollOp) (lo level : Nat) : Nat :=
  let ds := (o.group.map endDev).dedup
  ds.getD (Config.nodeHome o.seed lo level % ds.length) s.chip
/-- A node's record that this device holds: one that came from another device, or its own where this device forms the node
above it. -/
def State.heldNode (s : State) (o : CollOp) (lo level : Nat) : Option CollMsg :=
  o.given.find? fun m => decide (m.level = level ∧ m.ranks.head? = some lo) &&
    (decide (m.dev ≠ s.chip) || decide (s.nodeDev o (lo / 2 ^ (level + 1) * 2 ^ (level + 1)) (level + 1) = s.chip))
/-- A node of which this device holds every input record (R324). -/
def State.formNode (s : State) (o : CollOp) (lo level : Nat) : Option CollMsg :=
  let n := o.group.length
  let mid := lo + 2 ^ (level - 1)
  if (o.given.any fun m => decide (m.level = level ∧ m.ranks.head? = some lo)) then none
  else match s.heldNode o lo (level - 1) with
    | none => none
    | some a =>
      let b := s.heldNode o mid (level - 1)
      if decide (mid < n) && b.isNone then none
      else
        let r := combineData a.word a.data (b.map (·.data))
        some { a with
          ranks := nodeRanks n lo level
          level := level
          data := r.1
          flags := a.flags ||| ((b.map (·.flags)).getD 0) ||| r.2
          dev := s.chip }
/-- The header of the records that a context of this device sends for an operation (18_fabric R336): SHART is its number. -/
def State.collHead (s : State) (key : Nat) : Record := s.ctxRecord key 0x0A 0 0 false 0 []
/-- The context by which this device sends for an operation: the first of its members here. -/
def CollOp.sender (o : CollOp) : Nat := ((o.joined.head?).map (·.1)).getD 0
/-- A message of an operation for some devices. -/
def State.sendColl (s : State) (key : Nat) (ds : List Nat) (m : CollMsg) : State :=
  { s with collOut := s.collOut ++ ds.map fun d => ⟨d, s.ctxSecure key, s.collHead key, m⟩ }
/-- Where a record goes: to the device that forms the node above it, or, of the root, to every member's (R324). -/
def State.nodeDests (s : State) (o : CollOp) (m : CollMsg) : List Nat :=
  if m.level = treeLevels o.group.length then s.farDevs o.group
  else
    let size := 2 ^ (m.level + 1)
    [s.nodeDev o (m.ranks.headD 0 / size * size) (m.level + 1)].filter (· ≠ s.chip)
/-- A record of this device sent there. -/
def State.sendNode (s : State) (o : CollOp) (m : CollMsg) : State := s.sendColl o.sender (s.nodeDests o m) m
/-- Every node that this device can form, level by level. -/
def State.formNodes (s : State) (g : List (BitVec 32)) (i : Nat) : State :=
  let n := g.length
  (List.range (treeLevels n)).foldl (fun s l =>
    ((List.range (n / 2 ^ (l + 1) + 1)).filter fun b => decide (b * 2 ^ (l + 1) < n)).foldl (fun s b =>
      let o := s.collOp g i
      match s.formNode o (b * 2 ^ (l + 1)) (l + 1) with
      | none => s
      | some m => (s.setCollOp { o with given := o.given ++ [m] }).sendNode o m) s) s

/-- Records of disjoint ranks among those that have come. -/
def coverRanks (l : List CollMsg) : List CollMsg :=
  (l.filter fun m => !m.ranks.isEmpty).foldl (fun acc m => if acc.any fun a => a.ranks.any m.ranks.contains then acc else acc ++ [m]) []
/-- Ranks whose contribution a command needs: the root's for BCAST, else all (R200, R268). -/
def neededRanks (w : Word) (n : Nat) : List Nat := if collKind w = 3 then [collRoot w] else List.range n
/-- The records that a member's result is formed from, once they have come: the root of the tree; with D = 0, records that
others may have combined in any grouping; else one contribution of each rank it needs. -/
def CollOp.parts (o : CollOp) (w : Word) (n : Nat) : Option (List CollMsg) :=
  if collNodes w then (o.given.find? fun m => m.level = treeLevels n).map ([·])
  else if !collTree w && [0, 1, 5].contains (collKind w) then
    let l := coverRanks o.given
    if (List.range n).all fun r => l.any fun m => m.ranks.contains r then some l else none
  else
    let l := (neededRanks w n).map fun r => o.given.find? fun m => m.ranks = [r]
    if l.all Option.isSome then some (l.filterMap id) else none
/-- What a member writes and the operation's status, from those records (R200, R205). -/
def partsResult (w : Word) (seed n r : Nat) (l : List CollMsg) : Nat × List Byte × Flags :=
  let fl := l.foldl (fun f m => f ||| m.flags) Flags.none
  let parts := l.map (·.data)
  if collNodes w then (0, parts.headD [], fl)
  else
    let x := collResult w seed n r parts
    (x.1, x.2, fl ||| collStatus w seed n parts)
/-- A member's contribution has come. -/
def CollOp.gave (o : CollOp) (r : Nat) : Bool := o.given.any fun m => m.ranks.contains r

/-! ### Faults (R199, R204, R264, R311; 20_faults R374) -/

/-- The members of an operation on this device that are not complete fault, and so does one that issues later; a parked one does at
its first exchange after restore (20_faults R374). -/
def State.failOp (s : State) (g : List (BitVec 32)) (i : Nat) : State :=
  let s := s.setCollOp { s.collOp g i with fate := some ((s.collOp g i).fate.getD 0) }
  ((s.opCmds g i).filter fun c => !(s.ctx c.1).stopped).foldl (fun s c => s.faultCtx c.1 causeCollfault 0 0 c.2.num 0 0) s
/-- A member of an operation has failed: those that depend on it fault with REASON 0 (R204). A member depends on one whose
contribution it still needs: of a BCAST the root's (DEDUCED, log entry 55). -/
def State.abortOp (s : State) (key : Nat) (m : CollCmd) : State :=
  let o := s.collOp m.group m.index
  if o.gave m.rank || (decide (collKind m.word = 3) && decide (m.rank ≠ collRoot m.word)) then s
  else
    let s := if (s.ctx key).faulted then s else s.faultCtx key causeCollfault 0 0 m.num 0 0
    s.failOp m.group m.index
/-- A member faults on a command, and those that depend on it; an uncorrectable error is also logged (21_service R378). -/
def State.faultColl (s : State) (key : Nat) (cause : Byte) (side reason : Nat) (va : Word) (m : CollCmd) : State :=
  let s := if cause = causeEcc then s.logCtx key va else s
  (s.faultCtx key cause side reason m.num va 0).abortOp key m
/-- A member's word for the members on other devices, in a record that contributes nothing: they fault on it as this device does
(R199). -/
def State.sendWord (s : State) (key : Nat) (m : CollCmd) : State :=
  s.sendColl key (s.farDevs m.group) ⟨m.group, m.index, [], 0, m.word, [], 0, 0, s.chip, 0⟩
/-- The words of an operation differ: every member's context faults with REASON 2 (R199), those on other devices once they see the
words of the members here. -/
def State.faultWords (s : State) (g : List (BitVec 32)) (i : Nat) : State :=
  let o := s.collOp g i
  let s := (s.opCmds g i).foldl (fun s c => s.sendWord c.1 c.2) s
  let s := s.setCollOp { o with fate := some 2 }
  o.joined.foldl (fun s c => if (s.ctx c.1).faulted then s else s.faultCtx c.1 causeCollfault 0 2 c.2 0 0) s

/-! ### Ordered multicast (R203, R263-R266, R323) -/

/-- A member receives the stamped write of an operation it has issued; a late one faults with REASON 3, at that member alone
(R264). The root's own write is never late. -/
def State.receiveKey (s : State) (key : Nat) (m : CollCmd) (k : Word × Nat × Nat) : State :=
  if m.rank = collRoot m.word then s.setCmd key m.num fun x => { x with key := some k }
  else
    let d := (s.ctx key).die
    let s := s.tickTime
    if k.1.toNat + m.settle.toNat < (s.die d).ptime.toNat then s.faultCtx key causeCollfault 0 3 m.num 0 0
    else s.setCmd key m.num fun x => { x with key := some k }

/-- The root's stamped write given to the members of this device that have issued (R323). -/
def State.receiveOrdered (s : State) (msg : CollMsg) : State :=
  ((s.opCmds msg.group msg.index).filter fun c => c.2.key.isNone).foldl (fun s c =>
    s.receiveKey c.1 c.2 (msg.stamp, msg.dev, msg.hart)) s

/-- The sequencer at the rank-0 endpoint stamps a write: the larger of its PTIME and one unit above its last stamp (R265). -/
def State.sequence (s : State) (msg : CollMsg) : State × CollMsg :=
  let d := endDie (msg.group.headD 0)
  let s := s.tickTime
  let last := Sparse.get 0 s.seqStamps d
  let st := if (s.die d).ptime.toNat ≤ last.toNat then last + 1 else (s.die d).ptime
  ({ s with seqStamps := Sparse.set 0 s.seqStamps d st }, { msg with stamp := st })

/-- A record takes its place in its operation; one of this device reaches the members on others. -/
def State.give (s : State) (msg : CollMsg) (send : Bool) : State :=
  let o := s.collOp msg.group msg.index
  let s := s.setCollOp { o with given := o.given ++ [msg] }
  let s := if !send then s
    else if collNodes msg.word then s.sendNode o msg
    else s.sendColl o.sender (s.farDevs msg.group) msg
  let s := if collNodes msg.word then s.formNodes msg.group msg.index else s
  if collOrdered msg.word then s.receiveOrdered msg else s

/-! ### Commands (R200, R205, R266) -/

/-- The buffer part that a member contributes (R200): none for a member of BCAST other than the root. -/
def collPart (w : Word) (r : Nat) : Option Nat :=
  match collKind w with
  | 2 => some (r * collBytes w)
  | 3 => if r = collRoot w then some 0 else none
  | _ => some 0

/-- Memory of this device (R200). -/
def State.ownMemory (s : State) (a : Nat) : Bool := !gaHost a && decide (gaChip a = s.chip)
/-- The command's contribution read from its buffer and given, once every earlier store of the issuing hart to memory of this
device has been performed (R200, R263, R265). -/
def State.contribute (s : State) (key : Nat) (m : CollCmd) : State :=
  match collPart m.word m.rank with
  | none =>
    let s := s.setCmd key m.num fun x => { x with given := true }
    match (s.collOp m.group m.index).given.find? fun g => g.ranks.contains (collRoot m.word) with
    | some g => if collOrdered m.word then s.receiveKey key m (g.stamp, g.dev, g.hart) else s
    | none => s
  | some off =>
    let x := s.ctx key
    let r := s.storesDone key m.num s.ownMemory
    let s := r.1
    let len := if collKind m.word = 1 then collBuffer m.word m.group.length else collBytes m.word
    match s.segSide (x.party m.user) .bulkRd 0 (m.buf + BitVec.ofNat 64 off) len with
    | .error (.fault c side v) => s.faultColl key c side 0 v m
    | .error (.wait _ _) => s
    | .ok locs =>
      if !r.2 then s
      else
        let a := s.xferAsk key m.xfer (locGas locs)
        let s := a.1
        if !a.2.2 then s.setCmd key m.num fun x => { x with xfer := a.2.1 }
        else
          let msg : CollMsg := ⟨m.group, m.index, [m.rank], 0, m.word, locs.map fun l => s.xferByte a.2.1 l.ga, 0,
            ((m.key.map (·.1)).getD 0), s.chip, (x.hart.getD s.cur)⟩
          let s := s.setCmd key m.num fun x => { x with given := true, xfer := Xfer.none }
          if !collOrdered m.word || m.key.isSome then s.give msg true
          else if endDev (m.group.headD 0) = s.chip then
            let q := s.sequence msg
            q.1.give q.2 true
          else s.sendColl key [endDev (m.group.headD 0)] msg

/-- A command done with its status; commands complete in issue order (R190). -/
def State.finishCmd (s : State) (key : Nat) (num : Word) (f : Flags) : State :=
  let s := s.setCmd key num fun x => { x with done := some f }
  let x := s.ctx key
  let now := x.coll.takeWhile fun c => c.done.isSome
  let s := s.setCtx key { x with
    coll := x.coll.drop now.length
    parkSince := none
    statuses := x.statuses ++ now.map fun c => (c.num, c.done.getD 0) }
  match now.getLast? with
  | none => s
  | some l => s.completeCtx key l.num
/-- A member's result written into its buffer, and the command done with a status once it has been performed (R200, 10_consistency
R266): a range that no longer translates faults the context; one that must wait is tried again. -/
def State.putResult (s : State) (key : Nat) (m : CollCmd) (off : Nat) (bytes : List Byte) (f : Flags) : State :=
  let x := s.ctx key
  if m.xfer.sent && m.xfer.acks.isEmpty then s.finishCmd key m.num f
  else
  match s.segSide (x.party m.user) .bulkWr 1 (m.buf + BitVec.ofNat 64 off) bytes.length with
  | .error (.fault c side v) => if m.xfer.sent && !s.acksLost m.xfer then s else s.faultColl key c side 0 v m
  | .error (.wait _ _) => s
  | .ok locs =>
    if m.xfer.sent then s
    else
      let w := s.xferPut key m.xfer ((locGas locs).zip bytes)
      if w.2.acks.isEmpty then w.1.finishCmd key m.num f
      else w.1.setCmd key m.num fun x => { x with xfer := w.2 }

/-- A parked member that has been restored meets the failure of its operation (20_faults R374). -/
def State.meetFate (s : State) (key : Nat) (num : Word) : State :=
  let x := s.ctx key
  if x.stopped || x.faulted then s
  else match x.coll.find? fun m => decide (m.num = num) && m.done.isNone with
    | none => s
    | some m => match (s.collOp m.group m.index).fate with
      | none => s
      | some r => s.faultCtx key causeCollfault 0 r m.num 0 0
/-- A command that is not ordered goes as far as it can: its contribution, then its result once what it needs has come. -/
def State.tryCmd (s : State) (key : Nat) (num : Word) : State :=
  let s := s.meetFate key num
  let cmd (s : State) : Option CollCmd :=
    if (s.ctx key).stopped || (s.ctx key).faulted then none
    else (s.ctx key).coll.find? fun m => decide (m.num = num) && m.done.isNone
  let s := match cmd s with
    | some m => if m.given then s else s.contribute key m
    | none => s
  match cmd s with
  | none => s
  | some m =>
    if !m.given || collOrdered m.word then s
    else
      let o := s.collOp m.group m.index
      match o.parts m.word m.group.length with
      | none => s
      | some l =>
        let r := partsResult m.word o.seed m.group.length m.rank l
        s.putResult key m r.1 r.2.1 r.2.2
/-- Every collective context goes as far as it can. -/
def State.progressColl (s : State) : State :=
  s.ctxs.foldl (fun s c => c.2.coll.foldl (fun s m => s.tryCmd c.1 m.num) s) s
/-- A command of an I/O die's collective contexts that can go on now: nothing that it asked for or sent is outstanding, and
its contribution is to be made or its result to be written. -/
def State.readyColl (s : State) (iod : Nat) : Option (Nat × Word) :=
  s.ctxs.findSome? fun c =>
    if s.ctxDie c.1 ≠ iod || c.2.stopped || c.2.faulted then none
    else (c.2.coll.find? fun m => m.done.isNone && ((s.collOp m.group m.index).fate.isSome ||
      ((m.xfer.acks.isEmpty || s.acksLost m.xfer) && m.xfer.asks.all Ask.settled &&
        (if m.given then !collOrdered m.word && ((s.collOp m.group m.index).parts m.word m.group.length).isSome
          else (s.storesDone c.1 m.num s.ownMemory).2)))).map fun m => (c.1, m.num)

/-- The lesser of two keys (R263). -/
def keyLe (a b : Word × Nat × Nat) : Bool :=
  if a.1 ≠ b.1 then a.1.ult b.1 else if a.2.1 ≠ b.2.1 then decide (a.2.1 < b.2.1) else decide (a.2.2 ≤ b.2.2)
/-- Ordered writes of a group that members on a die have received and not applied. -/
def State.pendingKeys (s : State) (die : Nat) (g : List (BitVec 32)) : List (Word × Nat × Nat) :=
  (s.ctxs.filter fun c => decide (c.2.die = die) && !c.2.faulted).flatMap fun c =>
    (c.2.coll.filter fun m => decide (m.group = g) && m.done.isNone).filterMap (·.key)
/-- A context's ordered write that is due: its die's PTIME has reached s + SETTLE, and no earlier key of the group
waits at this endpoint (R263). -/
def State.dueCmd (s : State) (key : Nat) : Option CollCmd :=
  let x := s.ctx key
  x.coll.find? fun m => collOrdered m.word && m.done.isNone && m.given &&
    match m.key with
    | none => false
    | some k => decide (k.1.toNat + m.settle.toNat ≤ (s.die x.die).ptime.toNat) &&
        (s.pendingKeys x.die m.group).all fun j => keyLe k j
/-- MULTICAST_APPLY: a due write is applied, at the root nothing; it is applied even while the context is parked
(R263, R323, 18_fabric R331). -/
def execMulticastApply (ctx : Nat) (s : State) : Out :=
  let s := s.tickTime
  .next (if (s.ctx ctx).faulted then s
    else match s.dueCmd ctx with
    | none => s
    | some m =>
      let o := s.collOp m.group m.index
      let data := ((o.given.find? fun g => g.ranks.contains (collRoot m.word)).map (·.data)).getD []
      if m.rank = collRoot m.word then s.finishCmd ctx m.num 0 else s.putResult ctx m 0 data 0)

/-! ### COLL (R197-R200) -/

/-- The number of an endpoint's next operation on a group (R199). -/
def State.nextIndex (s : State) (g : List (BitVec 32)) (die : Nat) : Nat :=
  ((s.collCount.find? fun c => c.1 = g ∧ c.2.1 = die).map (·.2.2)).getD 0
/-- An endpoint has issued one more operation on a group. -/
def State.countColl (s : State) (g : List (BitVec 32)) (die : Nat) : State :=
  { s with collCount := (g, die, s.nextIndex g die + 1) ::
      s.collCount.filter fun c => !decide (c.1 = g ∧ c.2.1 = die) }

/-- A command joins its operation: words that differ fault every member with REASON 2; a member that it depends on and that
has failed faults it (R199, R204). -/
def State.join (s : State) (key : Nat) (m : CollCmd) : State :=
  let o := s.collOp m.group m.index
  let words := o.given.map (·.word) ++ (s.opCmds m.group m.index).map fun c => c.2.word
  let s := s.setCollOp { o with joined := o.joined ++ [(key, m.num)] }
  match o.fate with
  | some r => s.faultCtx key causeCollfault 0 r m.num 0 0
  | none => if words.any fun w => w ≠ m.word then s.faultWords m.group m.index else s.progressColl

/-- The stamp of a synchronised sender's ordered write, taken as the COLL is issued (R263); none for one that the sequencer
stamps. -/
def State.stampWrite (s : State) : State × Option Word :=
  let d := slotDie s.cur
  let s := s.tickTime
  if (s.tstat d).getLsbD 0 then
    let last := s.me.lastStamp
    let st := if (s.die d).ptime.toNat ≤ last.toNat then last + 1 else (s.die d).ptime
    (s.withMe fun t => { t with lastStamp := st }, some st)
  else (s, none)

/-- COLL (R197, R199). -/
def execColl (f : EngOps) (s : State) : Out :=
  let buf := s.me.xr f.a
  let w := s.me.xr f.b
  let h := s.me.xr f.e
  let ge := s.groupEntry (s.me.csrv 0x016).toNat h.toNat
  let g := s.members ge
  .next (match (if h.toNat ≤ 65535 then s.groupStop (s.me.csrv 0x016).toNat h.toNat ge else none).map (fun e => (s, e)) |>.or
      (s.collCheck buf w h ge g) with
    | some (s, e) => s.halt e
    | none =>
      let die := slotDie s.cur
      s.issue (.coll f) (joinWord (collFields f)) f.d (8 + f.slot.toNat) fun s c n =>
        let st := if collOrdered w && decide (ge.rank = collRoot w) then s.stampWrite else (s, none)
        let s := st.1
        let m : CollCmd := ⟨n, w, g, ge.rank, s.nextIndex g die, buf, ge.settle, s.me.priv = .user,
          st.2.map fun t => (t, s.chip, s.cur), false, Xfer.none, none⟩
        let s := s.countColl g die
        let x := s.ctx c.key
        (s.setCtx c.key { x with coll := x.coll ++ [m] }).join c.key m)

/-! ### Steps of an operation -/

/-- A record of a collective's control: PARKED or ABORTED, from a context, in answer to a record (18_fabric R336). -/
def State.collAnswer (s : State) (key : Nat) (r : Record) (op : BitVec 8) : State :=
  s.sendTo r.srcDev r.srcDie false (s.ctxSecure key) (s.ctxRecord key op 0 0 false r.tag [])
/-- The other input of the node above a record that this device relays: one that waits to leave, or one that it holds (R324). -/
def State.sibling (s : State) (m : CollMsg) : Option CollMsg :=
  let o := s.collOp m.group m.index
  let lo := m.ranks.headD 0 / 2 ^ (m.level + 1) * 2 ^ (m.level + 1)
  let at' := if m.ranks.headD 0 = lo then lo + 2 ^ m.level else lo
  ((s.collOut.map (·.msg)).find? fun x =>
    decide (x.group = m.group ∧ x.index = m.index ∧ x.level = m.level ∧ x.ranks.head? = some at')).or (s.heldNode o at' m.level)
/-- The node above two records (R324). -/
def State.joinNode (s : State) (m x : CollMsg) : CollMsg :=
  let lo := m.ranks.headD 0 / 2 ^ (m.level + 1) * 2 ^ (m.level + 1)
  let left := decide (m.ranks.headD 0 = lo)
  let a := if left then m else x
  let b := if left then x else m
  let r := combineData m.word a.data (some b.data)
  { m with
    ranks := nodeRanks m.group.length lo (m.level + 1)
    level := m.level + 1
    data := r.1
    flags := a.flags ||| b.flags ||| r.2
    dev := s.chip }
/-- A record for another device that this one relays: it is handed on to its addressee, or combined with its node's other input where
that is here at once (R324). -/
def State.relayColl (s : State) (dest : Nat) (r : Record) (m : CollMsg) : State :=
  match (if collNodes m.word && decide (m.level < treeLevels m.group.length) then s.sibling m else none) with
  | none => { s with collOut := s.collOut ++ [⟨dest, false, { r with coll := none, data := [] }, m⟩] }
  | some x =>
    let n := s.joinNode m x
    let o := s.collOp m.group m.index
    let s := { s with collOut := s.collOut.filter fun y => y.msg ≠ x }
    let s := if m.group.any fun e => endDev e = s.chip then
        (s.setCollOp { o with given := o.given ++ [n] }).formNodes m.group m.index
      else s
    { s with collOut := s.collOut ++ (s.nodeDests o n).map fun d => ⟨d, false, { r with coll := none, data := [] }, n⟩ }

/-- COLLDATA for this device: a contribution, a node, a result or a stamped write takes its place; one without a stamp is
for the sequencer here (R265, R324). Words that differ fault every member (R199). One already held is a duplicate. A member that is
parked, or whose context has faulted, answers so (20_faults R374). -/
def State.takeColl (s : State) (r : Record) (m : CollMsg) : State :=
  let o := s.collOp m.group m.index
  let cmds := s.opCmds m.group m.index
  if o.fate.isSome then (match o.joined.head? with
    | some c => s.collAnswer c.1 r 0x0D
    | none => s)
  else if (o.given.map (·.word) ++ cmds.map fun c => c.2.word).any (· ≠ m.word) then s.faultWords m.group m.index
  else if o.given.any fun g => decide (g.ranks = m.ranks ∧ g.level = m.level) then s
  else if !collOrdered m.word && !cmds.isEmpty && cmds.all (fun c => (s.ctx c.1).stopped) then
    s.collAnswer ((cmds.head?.map (·.1)).getD 0) r 0x0B
  else if collOrdered m.word && m.stamp = 0 && !m.ranks.isEmpty && decide (endDev (m.group.headD 0) = s.chip) then
    let q := s.sequence m
    q.1.give q.2 true
  else
    let s := s.give m false
    let s := cmds.foldl (fun s c => s.setCtx c.1 { s.ctx c.1 with parkSince := none }) s
    s.progressColl
/-- The records of one message that have come. -/
def sameMsg (a b : Record) : Bool :=
  decide (a.srcDev = b.srcDev ∧ a.tag = b.tag ∧ a.coll.map (·.msg) = b.coll.map (·.msg))
/-- A record of a message for a device, this one or one that it relays to; once all of the message's bytes have come it is acted on. -/
def State.collPart (s : State) (dest : Nat) (r : Record) : State :=
  match r.coll with
  | none => s
  | some p =>
    let rs := s.collIn.filter (sameMsg r) ++ [r]
    if (rs.flatMap (·.data)).length < p.total then { s with collIn := s.collIn ++ [r] }
    else
      let order := rs.foldl (fun l x => insertBy (fun (a b : Record) =>
        decide (((a.coll.map (·.off)).getD 0) < ((b.coll.map (·.off)).getD 0))) x l) []
      let m := { p.msg with data := order.flatMap (·.data) }
      let s := { s with collIn := s.collIn.filter fun x => !sameMsg r x }
      if dest ≠ s.chip then s.relayColl dest r m
      else if m.group.any fun e => endDev e = s.chip then s.takeColl r m
      else s
/-- COLLDATA. -/
def execColldata (m : CollIn) (s : State) : Out := .next (s.collPart m.dest m.rcd)

/-- The records of a message as it leaves: at most 256 bytes each (18_fabric R336), under one TAG. -/
def CollSend.records (x : CollSend) (tag : BitVec 32) : List Record :=
  let n := x.msg.data.length
  (List.range ((n - 1) / 256 + 1)).map fun i =>
    let bs := (x.msg.data.drop (256 * i)).take 256
    { x.head with
      op := 0x0A
      len := bs.length
      tag := tag
      data := bs
      coll := some ⟨{ x.msg with data := [] }, 256 * i, n⟩ }
/-- The collective messages for a device leave as records on its connection. -/
def State.pumpColl (s : State) (dev : Nat) : State :=
  let mine := s.collOut.filter fun x => x.dest = dev
  mine.foldl (fun s x =>
    let g := s.newTag
    let s := { g.1 with collSent := g.1.collSent ++ [(g.2, x)] }
    (x.records g.2).foldl (fun s r => s.sendTo dev 0 false x.sec r) s)
    { s with collOut := s.collOut.filter fun x => x.dest ≠ dev }

/-- The first unfinished command of a context. -/
def Ctx.current (x : Ctx) : Option CollCmd := x.coll.find? fun m => m.done.isNone

/-- A member that has reached the park limit faults with REASON 1, and the others that meet it with REASON 0 (R374). -/
def State.parkFault (s : State) (ctx : Nat) (m : CollCmd) : State :=
  (s.faultCtx ctx causeCollfault 0 1 m.num 0 0).failOp m.group m.index
/-- A member of an operation is parked, as this device knows: one here, or one on another device that has answered the record that
stands to be sent to it again (10_consistency R268). -/
def State.parkedOp (s : State) (ctx : Nat) (m : CollCmd) : Bool :=
  ((s.opCmds m.group m.index).any fun c => decide (c.1 ≠ ctx) && (s.ctx c.1).stopped) ||
    s.collOut.any fun x => decide (x.msg.group = m.group ∧ x.msg.index = m.index) && s.collSent.any fun y => y.2 = x
/-- A member reaches the park limit of its I/O die where that has passed since the first PARKED of its step (R374, R375). -/
def State.parkExpires (s : State) (ctx : Nat) (m : CollCmd) (t0 : Word × Word) : State :=
  let iod := ctx / 2048 + 8
  let s := s.tickTime
  if t0.2.toNat ≤ ((s.die iod).ptime - t0.1).toNat then s.parkFault ctx m else s
/-- Records of an operation that have left go again (R374). -/
def State.resendColl (s : State) (l : List CollSend) : State :=
  { s with collOut := s.collOut ++ l.filter fun x => !s.collOut.contains x }
/-- A member learns that another one is parked: the time toward the park limit runs from the first such answer, with the limit as
it then stands, and a limit of 0 has passed at once (R374, R375). -/
def State.parkedAt (s : State) (ctx : Nat) : State :=
  let x := s.ctx ctx
  let iod := ctx / 2048 + 8
  match x.current with
  | none => s
  | some m =>
    if x.faulted || x.stopped then s
    else match x.parkSince with
      | some t0 => s.parkExpires ctx m t0
      | none =>
        let s := s.tickTime
        let v := s.die iod
        if v.parklim = 0 then s.parkFault ctx m
        else s.setCtx ctx { s.ctx ctx with parkSince := some (v.ptime, v.parklim) }
/-- The records that have left for the step that a member is at. -/
def State.sentFor (s : State) (m : CollCmd) : List CollSend :=
  (s.collSent.map (·.2)).filter fun x => decide (x.msg.group = m.group ∧ x.msg.index = m.index)
/-- PARKED: a member answers that it is parked; its records go again, without error (R374). Only a member on another device, or one
whose context is stopped here, can. -/
def execParked (ctx : Nat) (s : State) : Out :=
  .next (match (s.ctx ctx).current with
    | none => s
    | some m =>
      if !(s.farDevs m.group).isEmpty || s.parkedOp ctx m then (s.resendColl (s.sentFor m)).parkedAt ctx else s)
/-- PARKED in answer to a record that this device has sent: it goes again, and the operation's members here count (R374). -/
def State.takeParked (s : State) (r : Record) : State :=
  match s.collSent.find? fun y => decide (y.1 = r.tag ∧ y.2.dest = r.srcDev) with
  | none => s
  | some y => (s.opCmds y.2.msg.group y.2.msg.index).foldl (fun s c => s.parkedAt c.1) (s.resendColl [y.2])

/-- PARK_LIMIT_EXPIRY: a member reaches the park limit of its I/O die (R374, R375); nothing counts while no member is parked, nor while
the device sleeps (10_consistency R268; 21_service R385). -/
def execParkLimitExpiry (ctx : Nat) (s : State) : Out :=
  let awake := s.mailbox.state ≠ .retained && s.mailbox.state ≠ .resuming
  .next (match (s.ctx ctx).parkSince, (s.ctx ctx).current with
    | some t0, some m => if awake && s.parkedOp ctx m then s.parkExpires ctx m t0 else s
    | _, _ => s)

/-- A member learns that another one's context has faulted: this one faults with REASON 0 (R204, R374). -/
def State.abortedAt (s : State) (ctx : Nat) : State :=
  match (s.ctx ctx).current with
  | some m => if (s.ctx ctx).faulted || (s.ctx ctx).stopped then s else s.faultColl ctx causeCollfault 0 0 0 m
  | none => s
/-- Another member of a command's operation can have failed: it is on another device, or its context here has. -/
def State.failedOp (s : State) (m : CollCmd) : Bool :=
  !(s.farDevs m.group).isEmpty || s.ctxs.any fun c =>
    c.2.faulted && c.2.coll.any fun n => decide (n.group = m.group ∧ n.index = m.index)
/-- ABORTED: a member whose context has faulted answers so (R204, R374). -/
def execAborted (ctx : Nat) (s : State) : Out :=
  .next (if (s.ctx ctx).current.any fun m => s.failedOp m then s.abortedAt ctx else s)
/-- ABORTED in answer to a record that this device has sent: the operation's members here fault. -/
def State.takeAborted (s : State) (r : Record) : State :=
  match s.collSent.find? fun y => decide (y.1 = r.tag ∧ y.2.dest = r.srcDev) with
  | none => s
  | some y => (s.opCmds y.2.msg.group y.2.msg.index).foldl (fun s c => s.abortedAt c.1) s

/-- An operation on this device depends on a device: a contribution that it still needs is a member's there, and has not come. -/
def State.opNeeds (s : State) (m : CollCmd) (chip : Nat) : Bool :=
  let o := s.collOp m.group m.index
  (o.parts m.word m.group.length).isNone && (neededRanks m.word m.group.length).any fun r =>
    decide (endDev (m.group.getD r 0) = chip) && !o.gave r
/-- A device that is marked down faults every collective that depends on it, with REASON 0 (18_fabric R341). -/
def State.abortPeer (s : State) (chip : Nat) : State :=
  (s.ctxs.flatMap fun c => c.2.coll.filter fun m => m.done.isNone).foldl (fun s m =>
    if s.opNeeds m chip then s.failOp m.group m.index else s) s

/-! ### Host link errors of contexts (R311, R315) -/

/-- A command's buffer touches host memory. -/
def State.hostBuffer (s : State) (x : Ctx) (m : CollCmd) : Bool :=
  let p := x.party m.user
  (List.range (collBuffer m.word m.group.length / 16 + 1)).any fun i =>
    ((s.pageOf p (m.buf + BitVec.ofNat 64 (16 * i))).map fun pg => gaHost (pg.ga (m.buf.toNat + 16 * i))).getD false
/-- A host link error of a context's outstanding host access: CAUSE PEERDOWN, SIDE 3 (R311). -/
def State.hostError (s : State) (key : Nat) : State :=
  let x := s.ctx key
  if x.faulted then s
  else if x.inFlight then
    let c := x.eng.head?
    s.faultCtx key causePeerdown 3 0 ((c.map (·.num)).getD 0) 0 ((c.map (·.perf)).getD 0)
  else match x.current with
    | some m => if s.hostBuffer x m then s.faultColl key causePeerdown 3 0 0 m else s
    | none => s

/-- HOST_COMPLETION: of a context's host access, where a success lets it go on, and an Unsupported Request or Completer Abort
faults the context (R311); at 4,096 + 1,024 n + h of the flushing read that the release of the hart in slot h has sent on the link of
I/O die 8 + n, for which it no longer waits (R315). -/
def execHostCompletion (ctx : Nat) (ok : Bool) (s : State) : Out :=
  .next (if 4096 ≤ ctx then
      let h := ctx % 1024
      let link := 2 ^ 14 + 8 + (ctx - 4096) / 1024
      let t := s.hart h
      if t.sealing.any fun e => e.1 = link then
        s.setHart h { t with sealing := t.sealing.filter fun e => e.1 ≠ link }
      else s
    else if ok then s else s.hostError ctx)

/-- COMPLETION_TIMEOUT of a context's host access (R311). -/
def execCompletionTimeout (ctx : Nat) (s : State) : Out := .next (if 4096 ≤ ctx then s else s.hostError ctx)

end Sys2Proof.Machine
end

