-- ==== Sys2Proof/Machine/Launch.lean ====
section
/-!
DEFINITION. Machine/Launch.lean: LAUNCH: the region control block, inheritance, the checks and the creation of a region
(04_scalar R123, R124; 14_regions R286-R293), and the steward region (R305).
-/

namespace Sys2Proof.Machine

/-! ### The RCB (R286-R290) -/

/-- Bits of an RCB read as one little-endian number: `w` bits from bit `b` of the doubleword at byte offset `off`. -/
def rcbField (v off b w : Nat) : Nat := v / 2 ^ (8 * off + b) % 2 ^ w

/-- The reserved bits of a header, a queue record and a stage record are zero, and STEWARD is (R286, R289, R290). -/
def rcbReserved (v : Nat) (steward : Bool) : Bool :=
  let z (off b w : Nat) : Bool := rcbField v off b w ≠ 0
  z 0 18 14 || z 0 33 31 || (!steward && z 0 32 1) || z 0x08 4 4 || z 0x08 24 8 || z 0x08 48 16 || z 0x10 17 47 ||
    z 0x18 40 24 || z 0x28 32 32 || z 0x60 8 56 || z 0x68 48 144 ||
    ((List.range (rcbField v 0x60 4 4)).any fun q => z (0x80 + 32 * q + 0x10) 33 95) ||
    ((List.range (rcbField v 0x60 0 4)).any fun i =>
      z (0x180 + 32 * i + 8) 52 12 || z (0x180 + 32 * i + 0x10) 48 80)

/-- A stage record; `dies` is the region's effective mask (R290). -/
def rcbStage (v i : Nat) (dies : BitVec 8) : Stage :=
  let o := 0x180 + 32 * i
  let sd := BitVec.ofNat 8 (rcbField v (o + 8) 32 8)
  { entry := BitVec.ofNat 64 (rcbField v o 0 64)
    hmin := rcbField v (o + 8) 0 16
    hmax := rcbField v (o + 8) 16 16
    dies := if sd = 0 then dies else sd &&& dies
    vtype := BitVec.ofNat 4 (rcbField v (o + 8) 40 4)
    vlen := rcbField v (o + 0x10) 0 32
    inq := if rcbField v (o + 8) 47 1 = 1 then some (rcbField v (o + 8) 44 3) else none
    outq := if rcbField v (o + 8) 51 1 = 1 then some (rcbField v (o + 8) 48 3) else none
    sacc := rcbField v (o + 0x10) 32 16
    closing := false
    queued := rcbField v (o + 8) 0 16
    lastDie := 7 }

/-- A queue record (R289). -/
def rcbQueue (v i : Nat) : QueueRec :=
  let o := 0x80 + 32 * i
  ⟨BitVec.ofNat 64 (rcbField v o 0 64), BitVec.ofNat 64 (rcbField v (o + 8) 0 64), rcbField v (o + 0x10) 0 16,
    rcbField v (o + 0x10) 16 16, rcbField v (o + 0x10) 32 1 = 1, 0⟩

/-- The region an RCB at global address `rcb`, with CHILDREN and LIVE at `counts`, describes, its inheritable fields taken from a parent where OVR has no bit (R287). -/
def rcbRegion (v rcb counts : Nat) (parent : Option Nat) (p : Region) (steward : Bool) : Region :=
  let ovr (i : Nat) : Bool := steward || v.testBit i
  let f (i off b w own : Nat) : Nat := if ovr i then rcbField v off b w else own
  let fw (i off : Nat) (own : Word) : Word := if ovr i then BitVec.ofNat 64 (rcbField v off 0 64) else own
  let dies := if ovr 2 then BitVec.ofNat 8 (rcbField v 0x08 16 8) &&& (if steward then 0xFF else p.dies) else p.dies
  { parent := parent
    steward := steward
    rcb := some rcb
    counts := some counts
    priority := f 0 0x08 0 4 p.priority
    weight := f 1 0x08 8 8 p.weight
    dies := dies
    fdom := f 3 0x08 32 16 p.fdom
    tenant := BitVec.ofNat 16 (f 4 0x10 0 16 p.tenant.toNat)
    world := if ovr 5 then rcbField v 0x10 16 1 = 1 else p.world
    cores := f 8 0x18 32 8 p.cores
    spad := f 9 0x20 0 32 p.spad
    own := BitVec.ofNat 6 ([6, 7, 10, 11, 12, 13].foldr (fun i w => (if ovr i then 1 else 0) + 2 * w) 0)
    tot := ⟨rcbField v 0x18 0 16, rcbField v 0x18 16 16, rcbField v 0x20 32 32, rcbField v 0x28 0 16,
      rcbField v 0x28 16 16, rcbField v 0x30 0 64⟩
    tvec := fw 14 0x40 p.tvec
    ptroot := fw 15 0x48 p.ptroot
    partmap := fw 16 0x50 p.partmap
    grptab := fw 17 0x58 p.grptab
    compl := none
    stages := (List.range (rcbField v 0x60 0 4)).map fun i => rcbStage v i dies
    queues := (List.range (rcbField v 0x60 4 4)).map (rcbQueue v)
    done := false
    opening := !steward
    owed := 0
    homeCore := none
    allocs := [] }

/-! ### The checks (R292) -/

/-- Tenant number and world of a region, as they tag its translations. -/
def Region.tag (g : Region) : Word := g.tenant.setWidth 64 ||| (if g.world then 0x10000 else 0)
/-- A virtual address of a region's space translated. -/
def State.childPage (s : State) (g : Region) (va : Word) : Option Page :=
  if va.toNat < 2 ^ 52 then s.lookup 0 g.tag g.ptroot va.toNat else none
/-- Offsets within n bytes, one in each page that they may touch, the last byte among them. -/
def pageSteps (n : Nat) : List Nat := (List.range (n / 4096 + 2)).map fun i => min (4096 * i) (n - 1)
/-- The addresses of the new region's space that LAUNCH translates: COMPL, and headers and rings of its PLACE-1 queues (R289, R292). -/
def rcbAddrs (v : Nat) (g : Region) : List Word :=
  let span (va : Word) (n : Nat) : List Word := (pageSteps n).map fun o => va + BitVec.ofNat 64 o
  let c := BitVec.ofNat 64 (rcbField v 0x38 0 64)
  (if c = 0 then [] else [c]) ++
    (g.queues.filter (·.place)).flatMap fun q => span q.hdr 64 ++ span q.ring (q.depth * q.item)
/-- The entry of the new region's page tables that LAUNCH cannot read, with the address whose translation meets it and why it cannot
(21_service R379, R384). -/
def State.rcbMeets (s : State) (v : Nat) (g : Region) : Option (Word × Nat × Byte) :=
  (rcbAddrs v g).findSome? fun va => (s.walkMeets ⟨0, g.tag, g.ptroot, 0, false⟩ va).map fun x => (va, x)
/-- The n bytes of a PLACE-1 queue's header or ring lie in HBM of the own device (R289), and one after another, as the header gives the
ring by one global address: bytes that do not follow one another break the record, which gives BADRCB (DESIGN CHOICE, log entry 59). -/
def State.inOwnHbm (s : State) (g : Region) (va : Word) (n : Nat) : Bool :=
  let base := (s.childPage g va).map fun p => p.ga va.toNat
  (pageSteps n).all fun o =>
    let a := va + BitVec.ofNat 64 o
    (s.childPage g a).any fun p =>
      let ga := p.ga a.toNat
      !gaHost ga && decide (gaChip ga = s.chip) && [0, 1, 4].contains (gaKind ga) && decide (base = some (ga - o))

/-- A queue record within its ranges and places. -/
def State.queueOk (s : State) (g : Region) (q : QueueRec) : Bool :=
  decide (q.hdr.toNat % 64 = 0) && decide (q.ring.toNat % 8 = 0) && decide (1 ≤ q.depth) &&
    decide (8 ≤ q.item ∧ q.item ≤ 4096 ∧ q.item % 8 = 0) &&
    if q.place then s.inOwnHbm g q.hdr 64 && s.inOwnHbm g q.ring (q.depth * q.item)
    else decide (q.hdr.toNat + 64 ≤ g.spad) && decide (q.ring.toNat + q.depth * q.item ≤ g.spad)
/-- A stage record within its ranges. -/
def stageOk (g : Region) (t : Stage) : Bool :=
  decide (t.entry.toNat % 4 = 0) && decide (t.hmin ≤ t.hmax) && decide (1 ≤ t.hmax ∧ t.hmax ≤ 1024) &&
    decide (t.clusters ≤ 8) && t.inq.all (fun q => decide (q < g.queues.length)) &&
    t.outq.all (fun q => decide (q < g.queues.length)) && (t.dies ≠ 0 || g.dies = 0)
/-- COMPL is 0, or translates to a writable page outside kind 3 (R292). -/
def State.complOk (s : State) (g : Region) (va : Word) : Bool :=
  va = 0 || (decide (va.toNat % 8 = 0) && (s.childPage g va).any fun p =>
    let ga := p.ga va.toNat
    p.wr && (gaHost ga || decide (gaKind ga ≠ 3)))

/-- The RCB's fields lie in their ranges (the rest of BADRCB, R292). -/
def State.rcbOk (s : State) (v : Nat) (p g : Region) : Bool :=
  !rcbReserved v false && decide (1 ≤ rcbField v 0x60 0 4 ∧ rcbField v 0x60 0 4 ≤ 8) &&
    decide (rcbField v 0x60 4 4 ≤ 8) && decide (g.weight ≠ 0) && decide (g.priority ≤ p.priority) &&
    (g.tenant = p.tenant || p.steward) &&
    decide (g.cores ≤ 128 ∧ g.spad % 4096 = 0 ∧ g.spad ≤ 0x180000) &&
    (!g.own.getLsbD 0 || decide (g.tot.lanes ≤ 1024)) && (!g.own.getLsbD 1 || decide (g.tot.harts ≤ 1024)) &&
    (!g.own.getLsbD 2 || decide (g.tot.accrows ≤ 196608)) && (!g.own.getLsbD 3 || decide (g.tot.eng ≤ 2048)) &&
    (!g.own.getLsbD 4 || decide (g.tot.coll ≤ 2048)) &&
    g.stages.all (stageOk g) && decide (0 < (g.stages.map (·.hmin)).sum) &&
    decide (g.stages.filterMap (·.inq)).Nodup && decide (g.stages.filterMap (·.outq)).Nodup &&
    g.queues.all (s.queueOk g) && s.complOk g (BitVec.ofNat 64 (rcbField v 0x38 0 64))

/-- NODIE: the effective mask, or a stage's, names no live die. -/
def State.noDie (s : State) (g : Region) : Bool :=
  let live (m : BitVec 8) : Bool := m &&& s.live ≠ 0
  !live g.dies || g.stages.any fun t => !live t.dies

/-- BUDGET: a reserved budget, the sum of HMIN, or the largest stage's clusters or windows exceed what remains of the
parent's; or an overridden SPAD or CORES exceeds the parent's effective value. -/
def State.overBudget (s : State) (v : Nat) (pn : Nat) (p g : Region) : Bool :=
  ((List.range 6).any fun i => g.own.getLsbD i && decide (s.remaining i pn < g.tot.get i)) ||
    decide (s.remaining 1 pn < (g.stages.map (·.hmin)).sum) ||
    (g.stages.any fun t => decide (s.remaining 0 pn < t.hmin * t.clusters)) ||
    (g.stages.any fun t => decide (s.remaining 2 pn < t.hmin * g.windowRows t)) ||
    (v.testBit 9 && decide (p.spad < g.spad)) || (v.testBit 8 && decide (p.cores < g.cores))

/-- The status of a LAUNCH (R123): the first condition that fails. `sec` is whether the launching hart is secure,
`sw` whether the RCB lies in an SW page, `placed` whether it is aligned and in device memory here. -/
def State.launchStatus (s : State) (v : Nat) (pn : Nat) (p g : Region) (placed sec sw : Bool) : Nat :=
  if !placed || !s.rcbOk v p g then 4
  else if !sec && (g.world || sw) then 3
  else if s.noDie g then 1
  else if s.overBudget v pn p g then 2
  else 0

/-! ### Creation (R293) -/

/-- Queue records of HBM queues with their global addresses. -/
def State.placeQueues (s : State) (g : Region) : List QueueRec :=
  g.queues.map fun q =>
    if q.place then
      let at' (va : Word) : Nat := ((s.childPage g va).map fun p => p.ga va.toNat).getD 0
      { q with ga := at' q.hdr, ring := BitVec.ofNat 64 (at' q.ring) }
    else q

/-- A region created: its parent's CHILDREN rises, its grants are queued (R293). -/
def State.createRegion (s : State) (v : Nat) (g : Region) : State :=
  let va := BitVec.ofNat 64 (rcbField v 0x38 0 64)
  let compl := if va = 0 then none else (s.childPage g va).map fun p => p.ga va.toNat
  let g := { g with queues := s.placeQueues g, compl := compl }
  let n := s.nextRegion
  let s := { s.setRegion n g with nextRegion := n + 1 }
  let s := match g.parent with
    | none => s
    | some p => s.syncRcb p
  s.syncRcb n
/-- The completion word of a region zeroed by its launching hart, as part of its release (R293): on another device by a WRITE that the
release seals. -/
def State.zeroCompl (s : State) (h n : Nat) : State :=
  match (s.region n).compl with
  | none => s
  | some a =>
    match s.farDev a with
    | none => s
    | some c =>
      let r := s.newTag
      let s := r.1.setHart h ((r.1.hart h).countSent (16 + c))
      s.sendTracked h c false (s.hartRecord h 0x02 a 8 true r.2 (natBytes 8 0))
/-- The word at COMPL of a region zeroed in this package or with the host (R293). -/
def State.zeroOwnCompl (s : State) (n : Nat) : State :=
  ((s.region n).compl.filter fun a => (s.farDev a).isNone).elim s fun a => s.writeGa a 8 0
/-- The release of a LAUNCH that has created region n (R124): once it is complete, and the word at COMPL is zeroed, the region's harts may
be granted and rd is written. -/
def State.openRegion (s : State) (f : Rr) (n : Nat) : State :=
  let r := s.release s.cur 2
  let s := r.1
  if r.2 ∧ (s.region n).compl.all (fun a => !s.mustWait a) then
    let s := s.zeroOwnCompl n
    (s.setRegion n { s.region n with opening := false }).withMe fun t => { t.result f.d 0 with launching := none }
  else s.park (.launch f) none

/-- LAUNCH (R123, R124): the RCB is read as a load, in order behind the hart's blocking vector accesses; its world is no fault but
status 3. The checks and the creation of the region are one step, so that LAUNCHes of one parent are performed one at a time (R293);
the release of the hart's earlier writes follows, and nothing of the region starts before it ends. An entry of the new region's page
tables that cannot be read traps ECC or is waited for, with the address in that region's space (log entry 29). -/
def execLaunch (f : Rr) (s : State) : Out :=
  let va := s.me.xr f.a
  let p := s.party s.cur
  let sw := (List.range 640).any fun i => (s.pageOf p (va + BitVec.ofNat 64 i)).any Page.sw
  .next (match s.me.launching with
  | some n => s.openRegion f n
  | none => s.inOrder va <| match s.checkRange p .rcb false va 640 with
    | .error e => s.halt e
    | .ok locs =>
      match s.eccByte va locs with
      | some w => (s.logError (errorUnit (locs.headD ⟨0, false⟩).ga) s.cur).halt (.trap causeEcc w)
      | none =>
        let gas := locGas locs
        let placed := decide (va.toNat % 64 = 0) && locs.all fun l =>
          !gaHost l.ga && decide (gaChip l.ga = s.chip) && decide (gaKind l.ga ≠ 3)
        let v := s.readAt gas
        let pn := s.me.region.getD s.nextRegion
        let par := s.region pn
        let g := rcbRegion v (gas.getD 0 0) (gas.getD 0x68 0) s.me.region par false
        match if placed then s.rcbMeets v g else none with
        | some x => s.halt (stopOf x.2.1 x.1 x.2.2)
        | none =>
          let st := s.launchStatus v pn par g placed s.me.secure sw
          if st = 0 then
            let n := s.nextRegion
            (((s.createRegion v g).zeroCompl s.cur n).withMe fun t => { t with launching := some n }).openRegion f n
          else s.withMe fun t => t.result f.d (BitVec.ofNat 64 st))

end Sys2Proof.Machine
end

