-- ==== Sys2Proof/Machine/System.lean ====
section
/-!
DEFINITION. Machine/System.lean: the majors SYS and CTL (04_scalar R116-R130; 20_faults R363, R376): system calls,
returns, fences, lockets, SETVL, FORK, MERGE, END and YIELD.
-/

namespace Sys2Proof.Machine

/-! ### Traps by instruction, and the return (R125, R129, R363) -/

/-- SVC (R125): EPC is the next instruction's address. -/
def execSvc (s : State) : Out :=
  .next (s.withMe fun t => t.enterTrap causeSvc false (tvalWord (wordOf .svc)) (t.pc + 4))
/-- BRK (R125). -/
def execBrk (s : State) : Out := .next (s.raise causeBrk (tvalWord (wordOf .brk)))
/-- UDF: ILLEGAL (03_encoding R75). -/
def execUdf (f : UdfOps) (s : State) : Out :=
  .next (s.raise causeIllegal (tvalWord (joinWord (udfFields f))))

/-- The restart indices of the faulting convoy's members, from CPOS0 and CPOS1 (R129, R361); entries that are no
convoy's take no position. -/
def withPositions (c0 c1 : Word) : Nat → List QEntry → List QEntry
  | _, [] => []
  | m, e :: t =>
    if classOf e.word = .none then e :: withPositions c0 c1 m t
    else
      let w := if m < 4 then c0 >>> (16 * m) else c1 >>> (16 * (m - 4))
      { e with restart := (w.extractLsb' 0 16).toNat } :: withPositions c0 c1 (m + 1) t

/-- The queue that TRET reissues from the image at VQIMG (R363). -/
def State.reissued (s : State) : Option (List QEntry) :=
  let t := s.me
  (s.imgQueue (fun i => (t.csrv 0x105).toNat + i) 0).map fun es =>
    let lead := leadConvoy es
    withPositions (t.csrv 0x002) (t.csrv 0x003) 0 lead ++ es.drop lead.length

/-- A TRET that would enter the secure world traps WORLD, and EPC and TSTATUS keep their values (R129). -/
def State.refuseWorld (s : State) (w : Word) : State :=
  let ts := s.me.csrv 0x104
  let epc := s.me.csrv 0x101
  (s.raise causeWorld w).withMe fun t => (t.setCsr 0x101 epc).setCsr 0x104 ts
/-- TRET (R129, R131, R356, R363): one that changes the world waits as a write of TENANT does (R115); the reissued convoys
follow what the queue holds. -/
def execTret (s : State) : Out :=
  let w := tvalWord (wordOf .tret)
  let pw := (s.me.csrv 0x104).getLsbD 3
  let s := s.withMe Hart.closeConvoy
  .next (if s.me.priv = .user then s.raise causeIllegal w
    else if pw && !s.me.secure then s.refuseWorld w
    else
      let s := if pw = s.me.secure then s else s.drainNb s.cur
      if pw ≠ s.me.secure ∧ !s.me.worked then s.park .tret none
      else if s.me.vrf then
        match s.reissued with
        | none => s.raise causeIllegal (s.me.csrv 0x105)
        | some es =>
          let t := s.me.dropDrained
          if queueSize < t.queue.length + es.length then s.park .tret none
          else
            let p := t.takeFlags es
            s.withMe fun _ =>
              { (p.1.setCsr 0x104 (p.1.csrv 0x104 &&& ~~~ 0x10#64)).leaveTrap with queue := p.1.queue ++ p.2 }
      else s.withMe Hart.leaveTrap)

/-- IFENCE (R126): earlier stores have been performed at their homes, and fetches read memory as it stands. -/
def execIfence (s : State) : Out :=
  let s := s.withMe Hart.closeConvoy
  .next (if s.me.drained && s.me.tracked.isEmpty then s.withMe Hart.advance else s.park .ifence none)

/-- WFI (R127): it may return early. -/
def execWfi (s : State) : Out :=
  .next (if s.me.priv = .user then s.raise causeIllegal (tvalWord (wordOf .wfi))
    else
      let s := s.tickTime
      let wake := s.me.engFault || s.me.collFault || s.expired || Config.early s.fresh
      let s := { s with fresh := s.fresh + 1 }
      if wake then s.withMe Hart.advance else s.park .wfi none)

/-- YIELD (R118): the hart ranks last in its priority for the rest of its core's fairness round (12_operand_delivery R270). -/
def execYield (s : State) : Out :=
  .next (s.withMe fun t => { t.closeConvoy.advance with yielded := some (s.round s.cur) })

/-! ### SETVL (R116) -/

/-- SETVL. -/
def execSetvl (f : SetvlOps) (s : State) : Out :=
  let s := s.withMe Hart.closeConvoy
  let done (s : State) : State := s.withMe fun t =>
    { t.result f.d (BitVec.ofNat 64 (f.ty.toNat * 2 ^ 32 + min (t.xr f.a).toNat (vlmaxOf t.k f.ty))) with
      laneLost := false }
  .next (if s.me.pending.isNone then done s
    else s.afterWork (.setvl f) fun s =>
      match s.adoptShare s.cur (typeWidth f.ty) with
      | none => s.park (.setvl f) none
      | some s => done s)

/-! ### FORK, MERGE (R18, R119-R121) -/

/-- The bits of a parent's row in the groups that child i of n owns, k clusters in all (R18). -/
def childRow (k n i : Nat) (r : Row) : Row :=
  BitVec.ofNat 32768 ((List.range (8 * k / n)).foldr (fun j v => rowElem 512 r.toNat (i + n * j) + 2 ^ 512 * v) 0)
/-- A parent's row from its children's, child i's group j being group i + n * j (R18). -/
def parentRow (k n : Nat) (child : Nat → Row) : Row :=
  BitVec.ofNat 32768 ((List.range (8 * k)).foldr (fun g v => rowElem 512 (child (g % n)).toNat (g / n) + 2 ^ 512 * v) 0)
/-- Every row of a register file changed. -/
def mapRows (f : Nat → Row) : List (Nat × Row) := (List.range 32).foldl (fun l r => Sparse.set 0 l r (f r)) []

/-- The CSRs a child copies from its parent (R119). -/
def childCsrs : List Nat := [0x000, 0x001, 0x00A, 0x00B, 0x012, 0x013, 0x016, 0x100, 0x106, 0x107, 0x10B]

/-- Child i of a hart: its registers, its clusters and rows, and the zeroes of R119. -/
def Hart.child (t : Hart) (d : BitVec 5) (n i id : Nat) (space : Option Nat) : Hart :=
  let csr := childCsrs.foldl (fun l c => Sparse.set 0 l c (t.csrv c)) []
  let c : Hart := { Hart.free with
    run := .running
    pc := t.pc
    priv := t.priv
    x := t.x
    v := mapRows fun r => childRow t.k n i (t.vr r)
    m := t.m
    cb := t.cb
    cc := t.cc
    csr := Sparse.set 0 csr 0x105 (BitVec.ofNat 64 (space.getD 0))
    map := childMap t.map n i
    demand := t.demand
    family := some ⟨i, n, id, t.map, []⟩
    region := t.region
    stage := t.stage
    granted := t.granted
    space := space
    laneLost := t.laneLost }
  c.result d (BitVec.ofNat 64 i)

/-- Child 0: the parent itself, on its own clusters (R119). -/
def Hart.childZero (t : Hart) (d : BitVec 5) (n id : Nat) : Hart :=
  { t with
    v := mapRows fun r => childRow t.k n 0 (t.vr r)
    map := childMap t.map n 0
    family := some ⟨0, n, id, t.map, []⟩ }.result d 0

/-- The hart splits (FORK_SPLIT), or goes on unsplit with -1 (R119). The rules name only the HBM budget: a device pool with fewer than
n - 1 locket spaces left for the hart's world refuses the split as well (DESIGN CHOICE, log entry 59). -/
def State.split (s : State) (f : ForkOps) : State :=
  let n := if f.four = 1 then 4 else 2
  let t := s.me
  let core := coreOf s.cur
  let slots := (s.freeSlots core).take (n - 1)
  let budget := match t.region with
    | none => true
    | some r => decide (n - 1 ≤ s.remaining 1 r) &&
        decide ((n - 1) * (locketSize 0 + 4096) ≤ s.remaining 5 r) && decide (n - 1 ≤ (s.spaces t.secure 0).length)
  if t.family.isSome || t.matrix.isSome || decide (t.k < n) || decide (slots.length < n - 1) || !budget then
    s.withMe fun t => t.result f.d (BitVec.allOnes 64)
  else
    let id := s.fresh
    let spaces := (s.spaces t.secure 0).take (n - 1)
    let kids := slots.mapIdx fun j h => (h, t.child f.d n (j + 1) id spaces[j]?)
    let s := kids.foldl (fun s c => s.setHart c.1 c.2) (s.withMe fun t => t.childZero f.d n id)
    let s := { s.takeSpaces spaces 0 with fresh := s.fresh + 1 }
    match t.region with
    | none => s
    | some r => s.syncRcb r

/-- FORK (R119). -/
def execFork (f : ForkOps) (s : State) : Out :=
  .next (s.afterWork (.fork f) fun s =>
    match s.adoptShare s.cur 64 with
    | none => s.park (.fork f) none
    | some s => s.split f)

/-- A context is unbound and free (R190); it is a member of no operation any more. -/
def State.freeCtx (s : State) (k : Nat) : State :=
  { s.setCtx k Ctx.empty with
    collOps := s.collOps.map fun o => { o with joined := o.joined.filter fun c => c.1 ≠ k } }
def State.dropBound (s : State) (h : Nat) : State := (s.hart h).boundKeys.foldl State.freeCtx s

/-- The context faults that a completion word shows: ECF and CCF (14_regions R294). -/
def Hart.faultBits (t : Hart) : Word :=
  let bad (coll : Bool) : Bool := t.ctxs.any fun e => e.2.bound && e.2.faulted && decide (8 ≤ e.1) == coll
  (if bad false then 0x40 else 0) ||| (if bad true then 0x80 else 0)
/-- A child hands its rows, flags and unsealed records to child 0, its context faults to the completion word, and frees its slot
(R120, 10_consistency R253, 14_regions R294). -/
def State.handBack (s : State) (f : Family) : State :=
  let t := s.me
  let s := if t.faultBits = 0 then s else (t.region.map fun r => s.completionOr r t.faultBits).getD s
  let zero := (s.kin s.cur).find? fun h => (s.hart h).family.any fun g => g.index = 0
  let s := match zero with
    | none => s
    | some z =>
      let p := s.hart z
      let p := (p.setCsr 0x000 (p.csrv 0x000 ||| (t.csrv 0x000 &&& 0x1F))).setCsr 0x012 (p.csrv 0x012 ||| t.csrv 0x012)
      let p := p.inherit t s.cur
      (s.setHart z { p with
        family := p.family.map fun (g : Family) => { g with handed := g.handed ++ [(f.index, t.v)] } }).withMe fun t =>
          { t with unsealed := [], inherited := [] }
  (s.dropBound s.cur).leave s.cur

/-- Child 0 reassembles the parent's rows and share (R120). -/
def Hart.reassemble (t : Hart) (f : Family) : Hart :=
  let rows (i r : Nat) : Row :=
    if i = 0 then t.vr r else Sparse.get 0 (((f.handed.find? fun e => e.1 = i).map (·.2)).getD []) r
  { t with
    v := mapRows fun r => parentRow (popCount 8 f.parentMap.toNat) f.ways fun i => rows i r
    map := f.parentMap
    family := none }

/-- Every bound context has completed its commands or has faulted. -/
def Hart.ctxsSettled (t : Hart) : Bool :=
  t.ctxs.all fun e => !e.2.bound || e.2.faulted || e.2.completed = e.2.issued
/-- Statuses of completed collective commands that no WAITT has acquired enter STICKY (R205). -/
def State.allStatuses (s : State) : State :=
  ((List.range 8).map (· + 8)).foldl (fun (s : State) k =>
    if (s.me.ctxSlot k).bound then s.acquireStatuses k (BitVec.allOnes 64) else s) s
/-- MERGE (MERGE_COMPLETE, R120): a child ends, once the commands of its contexts have completed or faulted (10_consistency R262) and
its records have been performed; child 0 waits for its siblings; any other hart goes on. -/
def execMerge (s : State) : Out :=
  .next (s.afterWork .merge fun s =>
    match s.me.family with
    | none => s.withMe Hart.advance
    | some f =>
      if f.index ≠ 0 then (if s.me.ctxsSettled && s.me.tracked.isEmpty then s.allStatuses.handBack f else s.park .merge none)
      else if f.handed.length + 1 = f.ways then s.withMe fun t => (t.reassemble f).advance
      else s.park .merge none)

/-! ### END (R122) -/

/-- What END ORs into the completion word: STICKY, ECF, CCF and PFAIL (R122, 14_regions R294). -/
def Hart.endBits (t : Hart) : Word :=
  (t.csrv 0x012 &&& 0x3F) ||| t.faultBits ||| (if t.sealFailed.isEmpty then 0 else 0x100)
/-- A stage one of whose harts has executed END is closing; without an input queue it starts no new hart, so grants still queued
are dropped (R299). -/
def State.closeStage (s : State) (r st : Nat) : State :=
  let g := s.region r
  let t := g.stage st
  s.setRegion r (g.setStage st { t with closing := true, queued := if t.inq.isNone then 0 else t.queued })

/-- END (END_COMPLETE): it waits for the hart's work and contexts, merges, leaves matrix mode, releases at pod scope,
reports, and frees the slot (R122). -/
def execEndHart (s : State) : Out :=
  .next (s.afterWork .endHart fun s =>
    if !s.me.ctxsSettled then s.park .endHart none
    else
      let s := s.allStatuses
      let close (s : State) : State := match s.me.region with
        | none => s
        | some r => s.closeStage r s.me.stage
      match s.me.family with
      | some f =>
        if f.index ≠ 0 then (if s.me.tracked.isEmpty then (close s).handBack f else s.park .endHart none)
        else if f.handed.length + 1 = f.ways then finish close (s.withMe fun t => t.reassemble f)
        else s.park .endHart none
      | none => finish close s)
where
  /-- The release and what follows it. -/
  finish (close : State → State) (s : State) : State :=
    if s.me.matrix.isSome && !s.me.matrixIdle then s.park .endHart none
    else
    let s := s.withMe fun t => { t with matrix := none }
    let r := s.release s.cur 3
    if r.2 then
      let s := r.1
      let s := match s.me.region with
        | none => s
        | some n => s.completionOr n s.me.endBits
      let s := close s
      (s.dropBound s.cur).leave s.cur
    else r.1.park .endHart none

/-! ### Held harts (R128, 20_faults R376) -/

/-- The slot that rs1 names on the executing hart's core. -/
def State.target (s : State) (v : Word) : Nat := coreOf s.cur * 8 + v.toNat % 8
/-- A target of another tenant, or a secure one for a non-secure hart (R128). -/
def State.foreign (s : State) (h : Nat) : Bool :=
  let t := s.hart h
  decide (t.run ≠ .free) && ((t.csrv 0x107).extractLsb' 0 16 ≠ (s.me.csrv 0x107).extractLsb' 0 16 ||
    (t.secure && !s.me.secure))

/-- The checks that LKSV, LKLD and HREL share, in this order: privilege, rs1's reserved bits, the locket's alignment,
the target's state, its tenant and world. The rule says only that rs1[63:4] must be zero: ILLEGAL is this model's choice, and so
is the instruction word in TVAL of the WORLD trap (DESIGN CHOICE, log entry 51). -/
def State.heldCheck (s : State) (w : IWord) (v : Word) (locket : Option Word) (ok : Run → Bool) : Option Stop :=
  let h := s.target v
  let ill := some (Stop.trap causeIllegal (tvalWord w))
  if s.me.priv = .user || v.extractLsb' 4 60 ≠ 0 then ill
  else match locket.bind fun a => if a.toNat % 4096 = 0 then none else some a with
    | some a => some (.trap causeAlign a)
    | none =>
      if !ok (s.hart h).run then ill
      else if s.foreign h then some (.trap causeWorld (tvalWord w))
      else none

/-- The address of each byte of a checked range. -/
def locAddr (locs : List Loc) : Nat → Nat :=
  let v := (locGas locs).toArray
  fun i => v.getD i 0
/-- A locket's bytes checked as an access (R106), and that they lie in kind 0, 1 or 4 of the own device (20_faults R370; one that
does not traps PERM: log entry 51). -/
def State.locketRange (s : State) (need : Need) (va : Word) (n : Nat) : Except Stop (List Loc) :=
  match s.checkRange (s.party s.cur) need false va n with
  | .error e => .error e
  | .ok locs =>
    match locs.findIdx? fun l => gaHost l.ga || decide (gaChip l.ga ≠ s.chip) || !([0, 1, 4].contains (gaKind l.ga)) with
    | some i => .error (.trap causePerm (va + BitVec.ofNat 64 i))
    | none => .ok locs

/-- LKSV may save a slot's hart: one that runs or is held, or one that is being stopped. -/
def Run.savable : Run → Bool
  | .running | .held | .holding _ | .stopping _ _ => true
  | _ => false
/-- LKSV (R128, R376): a running target is stopped first, at its pre-emption granularity; once it is held its locket is
written. -/
def execLksv (f : Rs2) (s : State) : Out :=
  let v := s.me.xr f.a
  let va := s.me.xr f.b
  let h := s.target v
  .next (match s.heldCheck (wordOf (.lksv f)) v (some va) (fun r => r.savable && decide (h ≠ s.cur)) with
    | some e => s.halt e
    | none =>
      match s.locketRange .wr va (locketSize (s.hart h).accRows) with
      | .error e => s.halt e
      | .ok locs =>
        match s.eccByte va locs with
        | some w => (s.logError (errorUnit (locs.headD ⟨0, false⟩).ga) s.cur).halt (.trap causeEcc w)
        | none =>
          match (s.hart h).run with
          | .held =>
            let s := s.writeLocket h (locAddr locs) true
            (s.setHart h { s.hart h with saved := true }).withMe Hart.advance
          | .running => (s.sendHold h).park (.lksv f) none
          | _ => s.park (.lksv f) none)

/-- A discarded hart's contexts: detached with its locket when it was saved, else abandoned (R376). -/
def State.parting (s : State) (h : Nat) : State :=
  if (s.hart h).saved then
    (s.hart h).boundKeys.foldl (fun s k => s.setCtx k { s.ctx k with hart := none, stopped := true }) s
  else s.dropBound h

/-- The FORK family of a loaded member: the one on its core that lacks its index, else one of its own; which of several is this
model's choice (log entry 17). -/
def State.imgFamily (s : State) (addr : Nat → Nat) (h : Nat) : Option Family :=
  if (s.imgWord addr 0x10).getLsbD 1 then
    let w := s.imgWord addr 0x18
    let index := (w.extractLsb' 0 2).toNat
    let ways := if w.getLsbD 2 then 4 else 2
    let kin := (coreSlots (coreOf h)).filterMap fun k => if k = h then none else (s.hart k).family
    let lacks (g : Family) : Bool := decide (g.ways = ways) &&
      kin.all fun x => decide (x.id ≠ g.id) || (decide (x.index ≠ index) && x.handed.all fun e => e.1 ≠ index)
    some ((kin.find? lacks).elim ⟨index, ways, s.fresh, 0, []⟩ fun g => ⟨index, ways, g.id, g.parentMap, []⟩)
  else none
/-- The clusters of a family as its members now hold them, with what merged ones have returned. -/
def State.settleFamily (s : State) (h : Nat) : State :=
  let kin := s.kin h
  let back := kin.foldl (fun (m : BitVec 8) k => ((s.hart k).family.elim [] (·.handed)).foldl (fun m e =>
    m ||| childMap ((s.hart k).family.elim 0 (·.parentMap)) ((s.hart k).family.elim 1 (·.ways)) e.1) m) 0
  let m := kin.foldl (fun m k => m ||| (s.hart k).map) back
  kin.foldl (fun s k => s.setHart k { s.hart k with
    family := (s.hart k).family.map fun (g : Family) => { g with parentMap := m } }) s

/-- What a loaded hart needs of its core and region (R128, R376; 14_regions R287, R300, R303): free clusters, a tile queue in matrix
mode, locket space, and what the region's budgets have left of clusters, slots, window rows and HBM. -/
def State.roomToLoad (s : State) (core k rows : Nat) (mm : Bool) : Bool :=
  decide (k ≤ popCount 8 (s.freeClusters core).toNat) && (!mm || !(s.freeTq core).isEmpty) &&
    !(s.spaces s.me.secure rows).isEmpty &&
    match s.me.region with
    | none => true
    | some r => decide (k ≤ s.remaining 0 r) && decide (1 ≤ s.remaining 1 r) && decide (rows ≤ s.remaining 2 r) &&
        decide (locketSize rows + 4096 ≤ s.remaining 5 r)
/-- A checked image loaded into a slot, which is left held (R376). The hart joins the executing hart's region and stage, with the
stage's demand: the spec does not say which (DESIGN CHOICE, log entry 17). -/
def State.loadSlot (s : State) (h : Nat) (addr : Nat → Nat) (k : Nat) : State :=
  let core := coreOf h
  let t := s.loadLocket addr
    { Hart.free with
      priv := if Config.savedUser s.fresh then .user else .supervisor
      region := s.me.region
      stage := s.me.stage
      demand := (s.me.region.map fun r => ((s.region r).stage s.me.stage).clusters).getD 0
      granted := s.grants
      graceAt := (s.die (slotDie h)).ptime
      saved := true
      family := s.imgFamily addr h
      space := (s.spaces s.me.secure (s.imgRows addr)).head? }
    (pickClusters s.fresh k (s.freeClusters core)) ((s.freeTq core).headD 0)
  let s := ((s.setHart h t).loadRows addr core t.accFirst t.accRows).settleFamily h
  let s := t.ctxs.foldl (fun (s : State) (e : Nat × CtxSlot) =>
    if e.2.bound then s.setCtx e.2.key { s.ctx e.2.key with hart := some h, slot := e.1 % 8, stopped := true }
    else s) s
  let s := { s.takeSpaces t.space.toList t.accRows with fresh := s.fresh + 1, grants := s.grants + 1 }
  (t.region.map s.syncRcb).getD s

/-- LKLD (R128, R376): the image is checked, then loaded into the slot, which is left held; it waits until enough
clusters and, in matrix mode, a tile queue are free. -/
def execLkld (f : Rs2) (s : State) : Out :=
  let v := s.me.xr f.a
  let va := s.me.xr f.b
  let h := s.target v
  let core := coreOf s.cur
  let s := s.withMe Hart.closeConvoy
  .next (match s.heldCheck (wordOf (.lkld f)) v (some va) (fun r => r = .free || r = .held) with
    | some e => s.halt e
    | none =>
      match s.locketRange .rd va 0x35000 with
      | .error e => s.halt e
      | .ok head =>
        match s.locketRange .rd va (locketSize (s.imgRows (locAddr head))) with
        | .error e => s.halt e
        | .ok locs =>
          let addr := locAddr locs
          match s.eccByte va locs with
          | some w => (s.logError (errorUnit (locs.headD ⟨0, false⟩).ga) s.cur).halt (.trap causeEcc w)
          | none =>
            if !s.imageValid addr core then s.halt (.trap causeIllegal va)
            else if !s.me.secure && s.imageSecure addr then s.halt (.trap causeWorld (tvalWord (wordOf (.lkld f))))
            else
              let k := ((s.imgWord addr 0x10).extractLsb' 4 4).toNat
              let old := (s.hart h).region
              let s' := if (s.hart h).run = .free then s else (s.parting h).freeSlot h
              if s'.roomToLoad core k (s.imgRows addr) ((s.imgWord addr 0x10).getLsbD 0) then
                let s' := s'.loadSlot h addr k
                let s' := (old.map fun q => (s'.releaseCore q core).settleRegion q).getD s'
                s'.withMe Hart.advance
              else s.park (.lkld f) none)

/-- HREL (R128, R376): the held hart runs, or is discarded. -/
def execHrel (f : Rs1) (s : State) : Out :=
  let v := s.me.xr f.a
  let h := s.target v
  .next (match s.heldCheck (wordOf (.hrel f)) v none (fun r => r = .held) with
    | some e => s.halt e
    | none =>
      let s :=
        if v.getLsbD 3 then ((s.parting h).withMe Hart.advance).leave h
        else ((s.setHart h { s.hart h with run := .running, saved := false }).resumeCtxs h).withMe Hart.advance
      s)

end Sys2Proof.Machine
end

