-- ==== Sys2Proof/Machine/VFlt.lean ====
section
/-!
DEFINITION. Machine/VFlt.lean: floating-point vector arithmetic VFLT and VFLTX, the functions of VFUN and the conversions
VCVT (05_vector R140-R144).
-/

namespace Sys2Proof.Machine

/-- A V-form floating-point operation under the element sweep (R133, R140): format, rounding mode, a, b, c. -/
def fltVV (f : VOps) (w : IWord) (op : Fmt → BitVec 3 → Nat → Nat → Nat → Nat × Flags) : Queued :=
  plainQueued w f.l isArith true fun s e =>
    let t := s.me
    s.sweep e f.g f.m f.d fun r i =>
      op (fmtOf e.ty) e.rm (t.elem e f.a r i) (t.elem e f.b r i) (t.elem e f.d r i)

/-- An X-form floating-point operation: a is the captured scalar's bit pattern (R133). -/
def fltVX (f : VOps) (w : IWord) (op : Fmt → BitVec 3 → Nat → Nat → Nat → Nat × Flags) : Queued :=
  { plainQueued w f.l isArith true fun s e =>
      let t := s.me
      s.sweep e f.g f.m f.d fun r i =>
        op (fmtOf e.ty) e.rm e.x1w (t.elem e f.b r i) (t.elem e f.d r i) with
    x1 := some f.a }

/-- A unary floating-point function of VFUN (R141). -/
def fltUn (f : VUnOps) (w : IWord) (types : BitVec 4 → Bool) (op : Fmt → BitVec 3 → Nat → Nat × Flags) : Queued :=
  plainQueued w f.l types true fun s e =>
    let t := s.me
    s.sweep e f.g f.m f.d fun r i => op (fmtOf e.ty) e.rm (t.elem e f.b r i)

/-- The magnitude bits of a code. -/
def Fmt.mag (F : Fmt) (x : Nat) : Nat := x % 2 ^ (F.w - 1)
/-- The sign bit of a code. -/
def Fmt.neg (F : Fmt) (x : Nat) : Bool := x.testBit (F.w - 1)
/-- A code with another sign bit; a bit move (R46). -/
def Fmt.withSign (F : Fmt) (neg : Bool) (x : Nat) : Nat := F.signBit neg + F.mag x

/-! ### VFLT and VFLTX -/

/-- The operation of VFADD (R140). -/
def opFadd : Fmt → BitVec 3 → Nat → Nat → Nat → Nat × Flags :=
  fun F rm a b _ => F.add rm a b

/-- The operation of VFSUB (R140). -/
def opFsub : Fmt → BitVec 3 → Nat → Nat → Nat → Nat × Flags :=
  fun F rm a b _ => F.sub rm a b

/-- The operation of VFMUL (R140). -/
def opFmul : Fmt → BitVec 3 → Nat → Nat → Nat → Nat × Flags :=
  fun F rm a b _ => F.mul rm a b

/-- The operation of VFDIV (R140). -/
def opFdiv : Fmt → BitVec 3 → Nat → Nat → Nat → Nat × Flags :=
  fun F rm a b _ => F.div rm a b

/-- The operation of VFMIN (R57). -/
def opFmin : Fmt → BitVec 3 → Nat → Nat → Nat → Nat × Flags :=
  fun F _ a b _ => F.minMax false a b

/-- The operation of VFMAX (R57). -/
def opFmax : Fmt → BitVec 3 → Nat → Nat → Nat → Nat × Flags :=
  fun F _ a b _ => F.minMax true a b

/-- The operation of VFMA (R56). -/
def opFma : Fmt → BitVec 3 → Nat → Nat → Nat → Nat × Flags :=
  fun F rm a b c => F.fma rm false false a b c

/-- The operation of VFMS (R56). -/
def opFms : Fmt → BitVec 3 → Nat → Nat → Nat → Nat × Flags :=
  fun F rm a b c => F.fma rm false true a b c

/-- The operation of VFNMA (R56). -/
def opFnma : Fmt → BitVec 3 → Nat → Nat → Nat → Nat × Flags :=
  fun F rm a b c => F.fma rm true true a b c

/-- The operation of VFNMS (R56). -/
def opFnms : Fmt → BitVec 3 → Nat → Nat → Nat → Nat × Flags :=
  fun F rm a b c => F.fma rm true false a b c

/-- The operation of VFSGNJ (R140). -/
def opFsgnj : Fmt → BitVec 3 → Nat → Nat → Nat → Nat × Flags :=
  fun F _ a b _ => (F.withSign (F.neg a) b, Flags.none)

/-- The operation of VFSGNJN (R140). -/
def opFsgnjn : Fmt → BitVec 3 → Nat → Nat → Nat → Nat × Flags :=
  fun F _ a b _ => (F.withSign (!F.neg a) b, Flags.none)

/-- The operation of VFSGNJX (R140). -/
def opFsgnjx : Fmt → BitVec 3 → Nat → Nat → Nat → Nat × Flags :=
  fun F _ a b _ => (F.withSign (F.neg a != F.neg b) b, Flags.none)

/-- VFADD (R140), as it is queued. -/
def vfaddQueued (f : VOps) : Queued :=
  fltVV f (wordOf (.vfadd f)) opFadd

/-- VFADD (R140). -/
def execVfadd (f : VOps) (s : State) : Out := .next (s.enqueue (vfaddQueued f))

/-- VFSUB (R140), as it is queued. -/
def vfsubQueued (f : VOps) : Queued :=
  fltVV f (wordOf (.vfsub f)) opFsub

/-- VFSUB (R140). -/
def execVfsub (f : VOps) (s : State) : Out := .next (s.enqueue (vfsubQueued f))

/-- VFMUL (R140), as it is queued. -/
def vfmulQueued (f : VOps) : Queued :=
  fltVV f (wordOf (.vfmul f)) opFmul

/-- VFMUL (R140). -/
def execVfmul (f : VOps) (s : State) : Out := .next (s.enqueue (vfmulQueued f))

/-- VFDIV (R140), as it is queued. -/
def vfdivQueued (f : VOps) : Queued :=
  fltVV f (wordOf (.vfdiv f)) opFdiv

/-- VFDIV (R140). -/
def execVfdiv (f : VOps) (s : State) : Out := .next (s.enqueue (vfdivQueued f))

/-- VFMIN (R57), as it is queued. -/
def vfminQueued (f : VOps) : Queued :=
  fltVV f (wordOf (.vfmin f)) opFmin

/-- VFMIN (R57). -/
def execVfmin (f : VOps) (s : State) : Out := .next (s.enqueue (vfminQueued f))

/-- VFMAX (R57), as it is queued. -/
def vfmaxQueued (f : VOps) : Queued :=
  fltVV f (wordOf (.vfmax f)) opFmax

/-- VFMAX (R57). -/
def execVfmax (f : VOps) (s : State) : Out := .next (s.enqueue (vfmaxQueued f))

/-- VFMA (R56), as it is queued. -/
def vfmaQueued (f : VOps) : Queued :=
  fltVV f (wordOf (.vfma f)) opFma

/-- VFMA (R56). -/
def execVfma (f : VOps) (s : State) : Out := .next (s.enqueue (vfmaQueued f))

/-- VFMS (R56), as it is queued. -/
def vfmsQueued (f : VOps) : Queued :=
  fltVV f (wordOf (.vfms f)) opFms

/-- VFMS (R56). -/
def execVfms (f : VOps) (s : State) : Out := .next (s.enqueue (vfmsQueued f))

/-- VFNMA (R56), as it is queued. -/
def vfnmaQueued (f : VOps) : Queued :=
  fltVV f (wordOf (.vfnma f)) opFnma

/-- VFNMA (R56). -/
def execVfnma (f : VOps) (s : State) : Out := .next (s.enqueue (vfnmaQueued f))

/-- VFNMS (R56), as it is queued. -/
def vfnmsQueued (f : VOps) : Queued :=
  fltVV f (wordOf (.vfnms f)) opFnms

/-- VFNMS (R56). -/
def execVfnms (f : VOps) (s : State) : Out := .next (s.enqueue (vfnmsQueued f))

/-- VFSGNJ (R140), as it is queued. -/
def vfsgnjQueued (f : VOps) : Queued :=
  fltVV f (wordOf (.vfsgnj f)) opFsgnj

/-- VFSGNJ (R140). -/
def execVfsgnj (f : VOps) (s : State) : Out := .next (s.enqueue (vfsgnjQueued f))

/-- VFSGNJN (R140), as it is queued. -/
def vfsgnjnQueued (f : VOps) : Queued :=
  fltVV f (wordOf (.vfsgnjn f)) opFsgnjn

/-- VFSGNJN (R140). -/
def execVfsgnjn (f : VOps) (s : State) : Out := .next (s.enqueue (vfsgnjnQueued f))

/-- VFSGNJX (R140), as it is queued. -/
def vfsgnjxQueued (f : VOps) : Queued :=
  fltVV f (wordOf (.vfsgnjx f)) opFsgnjx

/-- VFSGNJX (R140). -/
def execVfsgnjx (f : VOps) (s : State) : Out := .next (s.enqueue (vfsgnjxQueued f))

/-- VFADD_X (R140), as it is queued. -/
def vfaddXQueued (f : VOps) : Queued :=
  fltVX f (wordOf (.vfaddX f)) opFadd

/-- VFADD_X (R140). -/
def execVfaddX (f : VOps) (s : State) : Out := .next (s.enqueue (vfaddXQueued f))

/-- VFSUB_X (R140), as it is queued. -/
def vfsubXQueued (f : VOps) : Queued :=
  fltVX f (wordOf (.vfsubX f)) opFsub

/-- VFSUB_X (R140). -/
def execVfsubX (f : VOps) (s : State) : Out := .next (s.enqueue (vfsubXQueued f))

/-- VFMUL_X (R140), as it is queued. -/
def vfmulXQueued (f : VOps) : Queued :=
  fltVX f (wordOf (.vfmulX f)) opFmul

/-- VFMUL_X (R140). -/
def execVfmulX (f : VOps) (s : State) : Out := .next (s.enqueue (vfmulXQueued f))

/-- VFDIV_X (R140), as it is queued. -/
def vfdivXQueued (f : VOps) : Queued :=
  fltVX f (wordOf (.vfdivX f)) opFdiv

/-- VFDIV_X (R140). -/
def execVfdivX (f : VOps) (s : State) : Out := .next (s.enqueue (vfdivXQueued f))

/-- VFMIN_X (R57), as it is queued. -/
def vfminXQueued (f : VOps) : Queued :=
  fltVX f (wordOf (.vfminX f)) opFmin

/-- VFMIN_X (R57). -/
def execVfminX (f : VOps) (s : State) : Out := .next (s.enqueue (vfminXQueued f))

/-- VFMAX_X (R57), as it is queued. -/
def vfmaxXQueued (f : VOps) : Queued :=
  fltVX f (wordOf (.vfmaxX f)) opFmax

/-- VFMAX_X (R57). -/
def execVfmaxX (f : VOps) (s : State) : Out := .next (s.enqueue (vfmaxXQueued f))

/-- VFMA_X (R56), as it is queued. -/
def vfmaXQueued (f : VOps) : Queued :=
  fltVX f (wordOf (.vfmaX f)) opFma

/-- VFMA_X (R56). -/
def execVfmaX (f : VOps) (s : State) : Out := .next (s.enqueue (vfmaXQueued f))

/-- VFMS_X (R56), as it is queued. -/
def vfmsXQueued (f : VOps) : Queued :=
  fltVX f (wordOf (.vfmsX f)) opFms

/-- VFMS_X (R56). -/
def execVfmsX (f : VOps) (s : State) : Out := .next (s.enqueue (vfmsXQueued f))

/-- VFNMA_X (R56), as it is queued. -/
def vfnmaXQueued (f : VOps) : Queued :=
  fltVX f (wordOf (.vfnmaX f)) opFnma

/-- VFNMA_X (R56). -/
def execVfnmaX (f : VOps) (s : State) : Out := .next (s.enqueue (vfnmaXQueued f))

/-- VFNMS_X (R56), as it is queued. -/
def vfnmsXQueued (f : VOps) : Queued :=
  fltVX f (wordOf (.vfnmsX f)) opFnms

/-- VFNMS_X (R56). -/
def execVfnmsX (f : VOps) (s : State) : Out := .next (s.enqueue (vfnmsXQueued f))

/-- VFSGNJ_X (R140), as it is queued. -/
def vfsgnjXQueued (f : VOps) : Queued :=
  fltVX f (wordOf (.vfsgnjX f)) opFsgnj

/-- VFSGNJ_X (R140). -/
def execVfsgnjX (f : VOps) (s : State) : Out := .next (s.enqueue (vfsgnjXQueued f))

/-- VFSGNJN_X (R140), as it is queued. -/
def vfsgnjnXQueued (f : VOps) : Queued :=
  fltVX f (wordOf (.vfsgnjnX f)) opFsgnjn

/-- VFSGNJN_X (R140). -/
def execVfsgnjnX (f : VOps) (s : State) : Out := .next (s.enqueue (vfsgnjnXQueued f))

/-- VFSGNJX_X (R140), as it is queued. -/
def vfsgnjxXQueued (f : VOps) : Queued :=
  fltVX f (wordOf (.vfsgnjxX f)) opFsgnjx

/-- VFSGNJX_X (R140). -/
def execVfsgnjxX (f : VOps) (s : State) : Out := .next (s.enqueue (vfsgnjxXQueued f))

/-! ### The floating-point functions of VFUN -/

/-- VFSQRT (R141), as it is queued. -/
def vfsqrtQueued (f : VUnOps) : Queued :=
  fltUn f (wordOf (.vfsqrt f)) isArith (fun F rm b => F.sqrt rm b)

/-- VFSQRT (R141). -/
def execVfsqrt (f : VUnOps) (s : State) : Out := .next (s.enqueue (vfsqrtQueued f))

/-- VFEXP2 (R58), as it is queued. -/
def vfexp2Queued (f : VUnOps) : Queued :=
  fltUn f (wordOf (.vfexp2 f)) (fun ty => isArith ty && ty ≠ 0xB) (fun F _ b => F.exp2 b)

/-- VFEXP2 (R58). -/
def execVfexp2 (f : VUnOps) (s : State) : Out := .next (s.enqueue (vfexp2Queued f))

/-- VFABS (R141), as it is queued. -/
def vfabsQueued (f : VUnOps) : Queued :=
  fltUn f (wordOf (.vfabs f)) isArith (fun F _ b => (F.withSign false b, Flags.none))

/-- VFABS (R141). -/
def execVfabs (f : VUnOps) (s : State) : Out := .next (s.enqueue (vfabsQueued f))

/-- VFNEG (R141), as it is queued. -/
def vfnegQueued (f : VUnOps) : Queued :=
  fltUn f (wordOf (.vfneg f)) isArith (fun F _ b => (F.withSign (!F.neg b) b, Flags.none))

/-- VFNEG (R141). -/
def execVfneg (f : VUnOps) (s : State) : Out := .next (s.enqueue (vfnegQueued f))

/-- VFCLASS (R142), as it is queued. -/
def vfclassQueued (f : VUnOps) : Queued :=
  fltUn f (wordOf (.vfclass f)) isArith (fun F _ b => (F.classify b, Flags.none))

/-- VFCLASS (R142). -/
def execVfclass (f : VUnOps) (s : State) : Out := .next (s.enqueue (vfclassQueued f))

/-- VFRINT (R141), as it is queued. -/
def vfrintQueued (f : VUnOps) : Queued :=
  fltUn f (wordOf (.vfrint f)) isArith (fun F rm b => F.rint rm b)

/-- VFRINT (R141). -/
def execVfrint (f : VUnOps) (s : State) : Out := .next (s.enqueue (vfrintQueued f))

/-! ### VCVT -/

/-- The source's own bound joins the third check (R144): a VL above VLMAX of the source type traps VLEN. -/
def cvtBound (src : BitVec 4) (t : Hart) (ty : BitVec 4) : Nat := min (shareBound t ty) (shareBound t src)
/-- Destination types (R135). -/
def cvtTypes (ty : BitVec 4) : Bool := ty ≠ tyC4

/-- VCVT (R144), as it is queued. -/
def vcvtQueued (f : VCvtOps) : Queued :=
  { plainQueued (wordOf (.vcvt f)) f.l cvtTypes true fun s e =>
      let t := s.me
      s.sweep e f.g f.m f.d fun r i =>
        convertElem e.rm f.src e.ty (rowElem (typeWidth f.src) (t.vr (f.b.toNat + r)).toNat i) with
    bound := cvtBound f.src }

/-- VCVT (R144). -/
def execVcvt (f : VCvtOps) (s : State) : Out := .next (s.enqueue (vcvtQueued f))

/-- VCVT_C4 (R144), as it is queued. -/
def vcvtC4Queued (f : VCvtC4Ops) : Queued :=
  { plainQueued (wordOf (.vcvtC4 f)) f.l cvtTypes true fun s e =>
      let t := s.me
      s.sweep e f.g f.m f.d fun r i =>
        convertElem e.rm tyB16 e.ty
          (codebookEntry (t.cbr f.cb.toNat) (rowElem 4 (t.vr (f.b.toNat + r)).toNat i)) with
    bound := cvtBound tyC4 }

/-- VCVT_C4 (R144). -/
def execVcvtC4 (f : VCvtC4Ops) (s : State) : Out := .next (s.enqueue (vcvtC4Queued f))

end Sys2Proof.Machine
end

