-- ==== Sys2Proof/Machine/Rep.lean ====
section
/-!
DEFINITION. Machine/Rep.lean: fetching (04_scalar R104), the queued instructions by their words, members reissued
from an image (20_faults R363), and repeat frames (03_encoding R89-R91; 05_vector R156, R157; 12_operand_delivery
R278).
-/

namespace Sys2Proof.Machine

/-! ### Fetching -/

/-- The bytes of the fetch under way: checked once, they stay as they are while it waits for another device (09_address R243). -/
def State.fetchRange (s : State) (va : Word) : Except Stop (List Loc) :=
  match s.me.fetching with
  | some locs => .ok locs
  | none => s.checkRange (s.party s.cur) .fetch false va 4
/-- The word at a virtual address, fetched (R104): a page that grants X. Another device is asked with a READ; a failed peer's
word is a free value. -/
def State.fetchWord (s : State) (va : Word) : Except (State × Stop) (State × IWord) :=
  match s.fetchRange va with
  | .error e => .error (s, e)
  | .ok locs =>
    let ga := (locs.headD ⟨0, false⟩).ga
    if locs.any Loc.isReg ∧ gaChip ga = s.chip then .ok (s, BitVec.ofNat 32 (s.regLoad s.me.secure ga 4))
    else
      match s.eccByte va locs with
      | some v => .error (s.logError (errorUnit ga) s.cur, .trap causeEcc v)
      | none =>
        match (if s.me.fetching.isSome then none else s.failedHome ga) with
        | some c => .ok ({ s.peerLost s.cur c with fresh := s.fresh + 1 }, Config.fetched s.fresh)
        | none =>
          let r := s.gather s.cur 2 (s.needed s.winKey locs)
          if !r.2 then .error (r.1.withMe fun t => { t with fetching := some locs }, .wait va)
          else
            let far := askByte s.me.asks
            let s := s.withMe fun t => t.dropAsks 2
            if (askFailed r.1.me.asks (s.farOf (locGas locs))).isSome then
              .ok ({ s with fresh := s.fresh + 1 }, Config.fetched s.fresh)
            else .ok (s.keepWindowsWith far s.winKey locs, BitVec.ofNat 32 (s.loadAtWith far s.winKey locs))

/-- n words fetched one after another. -/
def State.fetchWords (s : State) (va : Word) : Nat → Except (State × Stop) (State × List IWord)
  | 0 => .ok (s, [])
  | n + 1 =>
    match s.fetchWord va with
    | .error e => .error e
    | .ok (s, w) =>
      match State.fetchWords s (va + 4) n with
      | .error e => .error e
      | .ok (s, ws) => .ok (s, w :: ws)

/-! ### Queued instructions by their words -/

/-- What an instruction enqueues; none for one that is not queued. -/
def queuedOf : Instr → Option Queued
  | .vadd f => some (vaddQueued f)
  | .vsub f => some (vsubQueued f)
  | .vrsub f => some (vrsubQueued f)
  | .vmul f => some (vmulQueued f)
  | .vmulh f => some (vmulhQueued f)
  | .vmacc f => some (vmaccQueued f)
  | .vmin f => some (vminQueued f)
  | .vmax f => some (vmaxQueued f)
  | .vand f => some (vandQueued f)
  | .vor f => some (vorQueued f)
  | .vxor f => some (vxorQueued f)
  | .vsll f => some (vsllQueued f)
  | .vsrl f => some (vsrlQueued f)
  | .vsra f => some (vsraQueued f)
  | .vadds f => some (vaddsQueued f)
  | .vsubs f => some (vsubsQueued f)
  | .vaddX f => some (vaddXQueued f)
  | .vsubX f => some (vsubXQueued f)
  | .vrsubX f => some (vrsubXQueued f)
  | .vmulX f => some (vmulXQueued f)
  | .vmulhX f => some (vmulhXQueued f)
  | .vmaccX f => some (vmaccXQueued f)
  | .vminX f => some (vminXQueued f)
  | .vmaxX f => some (vmaxXQueued f)
  | .vandX f => some (vandXQueued f)
  | .vorX f => some (vorXQueued f)
  | .vxorX f => some (vxorXQueued f)
  | .vsllX f => some (vsllXQueued f)
  | .vsrlX f => some (vsrlXQueued f)
  | .vsraX f => some (vsraXQueued f)
  | .vaddsX f => some (vaddsXQueued f)
  | .vsubsX f => some (vsubsXQueued f)
  | .vclz f => some (vclzQueued f)
  | .vctz f => some (vctzQueued f)
  | .vpopc f => some (vpopcQueued f)
  | .vnot f => some (vnotQueued f)
  | .vabs f => some (vabsQueued f)
  | .vneg f => some (vnegQueued f)
  | .vfadd f => some (vfaddQueued f)
  | .vfsub f => some (vfsubQueued f)
  | .vfmul f => some (vfmulQueued f)
  | .vfdiv f => some (vfdivQueued f)
  | .vfmin f => some (vfminQueued f)
  | .vfmax f => some (vfmaxQueued f)
  | .vfma f => some (vfmaQueued f)
  | .vfms f => some (vfmsQueued f)
  | .vfnma f => some (vfnmaQueued f)
  | .vfnms f => some (vfnmsQueued f)
  | .vfsgnj f => some (vfsgnjQueued f)
  | .vfsgnjn f => some (vfsgnjnQueued f)
  | .vfsgnjx f => some (vfsgnjxQueued f)
  | .vfaddX f => some (vfaddXQueued f)
  | .vfsubX f => some (vfsubXQueued f)
  | .vfmulX f => some (vfmulXQueued f)
  | .vfdivX f => some (vfdivXQueued f)
  | .vfminX f => some (vfminXQueued f)
  | .vfmaxX f => some (vfmaxXQueued f)
  | .vfmaX f => some (vfmaXQueued f)
  | .vfmsX f => some (vfmsXQueued f)
  | .vfnmaX f => some (vfnmaXQueued f)
  | .vfnmsX f => some (vfnmsXQueued f)
  | .vfsgnjX f => some (vfsgnjXQueued f)
  | .vfsgnjnX f => some (vfsgnjnXQueued f)
  | .vfsgnjxX f => some (vfsgnjxXQueued f)
  | .vfsqrt f => some (vfsqrtQueued f)
  | .vfexp2 f => some (vfexp2Queued f)
  | .vfabs f => some (vfabsQueued f)
  | .vfneg f => some (vfnegQueued f)
  | .vfclass f => some (vfclassQueued f)
  | .vfrint f => some (vfrintQueued f)
  | .vcvt f => some (vcvtQueued f)
  | .vcvtC4 f => some (vcvtC4Queued f)
  | .vmv f => some (vmvQueued f)
  | .vbcast f => some (vbcastQueued f)
  | .vmerge f => some (vmergeQueued f)
  | .viota f => some (viotaQueued f)
  | .vcbld f => some (vcbldQueued f)
  | .vcmpEq f => some (vcmpEqQueued f)
  | .vcmpNe f => some (vcmpNeQueued f)
  | .vcmpLt f => some (vcmpLtQueued f)
  | .vcmpLe f => some (vcmpLeQueued f)
  | .vcmpGt f => some (vcmpGtQueued f)
  | .vcmpGe f => some (vcmpGeQueued f)
  | .vcmpUnord f => some (vcmpUnordQueued f)
  | .vcmpOrd f => some (vcmpOrdQueued f)
  | .vcmpEqX f => some (vcmpEqXQueued f)
  | .vcmpNeX f => some (vcmpNeXQueued f)
  | .vcmpLtX f => some (vcmpLtXQueued f)
  | .vcmpLeX f => some (vcmpLeXQueued f)
  | .vcmpGtX f => some (vcmpGtXQueued f)
  | .vcmpGeX f => some (vcmpGeXQueued f)
  | .vcmpUnordX f => some (vcmpUnordXQueued f)
  | .vcmpOrdX f => some (vcmpOrdXQueued f)
  | .mand f => some (mandQueued f)
  | .mor f => some (morQueued f)
  | .mxor f => some (mxorQueued f)
  | .mandn f => some (mandnQueued f)
  | .mnot f => some (mnotQueued f)
  | .mmv f => some (mmvQueued f)
  | .mset f => some (msetQueued f)
  | .mclr f => some (mclrQueued f)
  | .msbf f => some (msbfQueued f)
  | .mpopc f => some (mpopcQueued f)
  | .mfirst f => some (mfirstQueued f)
  | .vslup f => some (vslupQueued f)
  | .vsldn f => some (vsldnQueued f)
  | .vgather f => some (vgatherQueued f)
  | .vcompress f => some (vcompressQueued f)
  | .vexpand f => some (vexpandQueued f)
  | .vextract f => some (vextractQueued f)
  | .vinsert f => some (vinsertQueued f)
  | .vrowrot f => some (vrowrotQueued f)
  | .vredsum f => some (vredsumQueued f)
  | .vredmin f => some (vredminQueued f)
  | .vredmax f => some (vredmaxQueued f)
  | .vredand f => some (vredandQueued f)
  | .vredor f => some (vredorQueued f)
  | .vredxor f => some (vredxorQueued f)
  | .vfsumo f => some (vfsumoQueued f)
  | .vfsumt f => some (vfsumtQueued f)
  | .vfredmin f => some (vfredminQueued f)
  | .vfredmax f => some (vfredmaxQueued f)
  | .vlu f => some (vluQueued f)
  | .vls f => some (vlsQueued f)
  | .vld f => some (vldQueued f)
  | .vsu f => some (vsuQueued f)
  | .vss f => some (vssQueued f)
  | .vsd f => some (vsdQueued f)
  | .vlx f => some (vlxQueued f)
  | .vsx f => some (vsxQueued f)
  | .vamoaAdd f => some (vamoaAddQueued f)
  | .vamoaAnd f => some (vamoaAndQueued f)
  | .vamoaOr f => some (vamoaOrQueued f)
  | .vamoaXor f => some (vamoaXorQueued f)
  | .vamobMin f => some (vamobMinQueued f)
  | .vamobMax f => some (vamobMaxQueued f)
  | .vamobSwap f => some (vamobSwapQueued f)
  | .vamobCas f => some (vamobCasQueued f)
  | .vamocFadd f => some (vamocFaddQueued f)
  | .vamocFmin f => some (vamocFminQueued f)
  | .vamocFmax f => some (vamocFmaxQueued f)
  | .mswap => some mswapQueued
  | .mls f => some (mlsQueued f)
  | .mstr f => some (mstrQueued f)
  | .mop f => some (mopQueued f)
  | .mscan f => some (mscanQueued f)
  | .mscanf f => some (mscanfQueued f)
  | .maccRd f => some (maccRdQueued f)
  | .maccWr f => some (maccWrQueued f)
  | .maccZr f => some (maccZrQueued f)
  | .maccCp f => some (maccCpQueued f)
  | .maccScrd f => some (maccScrdQueued f)
  | .maccScwr f => some (maccScwrQueued f)
  | _ => none

/-- The word that a queued word means: of VMOV.BCAST, whose vs2 a repeat frame steps though it names no register (03_encoding R80,
R89), without that field. -/
def bareWord (w : IWord) : IWord :=
  if majorOf w = 0x16 ∧ functOf w = 1 then w &&& ~~~ (0x1F#32 <<< 10) else w
/-- What a word enqueues, if it is a well-formed queued instruction. -/
def queuedWord (w : IWord) : Option Queued :=
  match decodeQueued (splitWord w) with
  | .error _ => none
  | .ok i => if wellFormed i then queuedOf i else none
/-- What a word of the queue is: one that a repeat frame has stepped is shown as stepped. -/
def steppedWord (w : IWord) : Option Queued := (queuedWord (bareWord w)).map fun q => { q with word := w }

/-! ### Results to scalar registers (05_vector R155) -/

/-- The scalar registers that an instruction of the scalar side names (05_vector R155). -/
def scalarRegs : Instr → List (BitVec 5)
  | .min f | .max f | .minn f | .maxn f | .rol f | .ror f | .addw f | .subw f | .amosAdd f | .amosAnd f
  | .amosOr f | .amosXor f | .amosMin f | .amosMax f | .amosMinn f | .amosMaxn f | .amosSwap f
  | .amosCas f | .waitg f | .waitwEq f | .waitwNe f | .waitwGen f | .waitwLtn f | .qpop f | .qpush f
  | .ecfg f | .add f | .sub f | .and f | .or f | .xor f | .sll f | .srl f | .sra f | .slt f | .sltn f
  | .mul f | .mulh f | .mulhn f | .div f | .divn f | .rem f | .remn f => [f.d, f.a, f.b]
  | .clz f | .ctz f | .popc f | .addi f | .andi f | .ori f | .xori f | .slti f | .sltni f | .slli f
  | .srli f | .srai f | .jalr f | .ldb f | .ldh f | .ldw f | .ldd f | .ldbs f | .ldhs f | .ldws f
  | .csrw f | .csrs f | .csrc f | .setvl f | .launch f | .share f | .waitc f | .waitt f | .eres f => [f.d, f.a]
  | .lui f | .auipc f | .jal f | .ldpc f | .csrr f | .fork f | .phaseRel f | .phaseAcq f | .phaseAr f
  | .time f | .ccrd f | .mmodeOn f | .mstat f | .ecnt f => [f.d]
  | .beq f | .bne f | .blt f | .bge f | .bltn f | .bgen f | .lksv f | .lkld f | .winfl f => [f.a, f.b]
  | .stb f | .sth f | .stw f | .std f => [f.b, f.a]
  | .hrel f | .ccset f => [f.a]
  | .copy f | .copy2 f | .copyx f | .fill f | .coll f => [f.d, f.a, f.b, f.e]
  | .pref f => [f.d, f.b, f.e]
  | _ => []
/-- The scalar registers that an enqueue captures. -/
def Queued.captures (q : Queued) : List (BitVec 5) :=
  q.x1.toList ++ q.x2.toList ++ q.x3.toList ++ (q.len.map fun l => 28 + l.setWidth 5).toList
/-- The scalar registers that a queued word captures. -/
def queuedRegs (w : IWord) : List (BitVec 5) := ((queuedWord w).map Queued.captures).getD []
/-- The scalar registers that a word at the pc names. -/
noncomputable def wordRegs (w : IWord) : List (BitVec 5) :=
  match queuedWord w with
  | some q => q.captures
  | none => match decode w with
    | .ok i => scalarRegs i
    | .error _ => []
/-- A vector-to-scalar member that is not complete has still to write one of these registers. -/
def Hart.owes (t : Hart) (rs : List (BitVec 5)) : Bool :=
  t.undone.any fun e => toScalar e.word && rs.any fun r => decide (r ≠ 0 ∧ r = e.word.extractLsb' 20 5)

/-! ### Groups (12_operand_delivery R272-R277; 20_faults R359, R360) -/

/-- Members processed one element group at a time (R274): those that write group j from groups j of their sources, and
cross-lane ones that overwrite none of their sources. Any other is processed whole. -/
def QEntry.grouped (e : QEntry) : Bool :=
  let fn := functOf e.word
  let plain := e.reads.all fun u => e.writes.all fun w =>
    decide (u.reg ≠ w.reg ∨ (u.row = w.row ∧ u.width = w.width ∧ !u.whole))
  match majorOf e.word with
  | 0x10 | 0x11 | 0x12 | 0x13 | 0x14 | 0x15 | 0x18 | 0x19 => plain
  | 0x16 => decide (fn < 4) && plain
  | 0x1A => decide (fn < 8) && plain
  | 0x1B => decide (fn < 3 ∨ fn = 7) && plain
  | 0x20 | 0x21 | 0x22 | 0x23 | 0x24 | 0x25 | 0x26 | 0x27 => decide (e.word.extractLsb' 1 3 = 0)
  | _ => false
/-- Rows of a member processed by groups. -/
def QEntry.tileRows (e : QEntry) : Nat :=
  let m := majorOf e.word
  if m = 0x18 ∨ m = 0x19 ∨ m = 0x1A ∨ m = 0x22 ∨ m = 0x26 then 1 else groupRows (e.word.extractLsb' 6 2)
/-- The group that holds the next element of a member. -/
def QEntry.groupNum (e : QEntry) : Nat := e.elem0 * typeWidth e.ty / 512
/-- Where a member's next group ends: at the first element that begins beyond it, F6 elements that straddle its end
included (R17). -/
def QEntry.groupStop (e : QEntry) : Nat :=
  if e.grouped then
    let w := typeWidth e.ty
    let hi := (512 * (e.groupNum + 1) + w - 1) / w
    if hi < e.vl then restartOf e.row0 hi
    else if e.row0 + 1 < e.tileRows then restartOf (e.row0 + 1) 0
    else wholeStop
  else wholeStop

/-- Members that read or write memory one after another: their convoy's loads and stores, MLS and VCBLD. -/
def usesMemory (w : IWord) : Bool :=
  decide (classOf w = .memory) || decide (majorOf w = 0x31) || decide (majorOf w = 0x16 ∧ functOf w = 4)
/-- Its mask gates elements; that of VMOV.MERGE, VPERM.COMPRESS and VPERM.EXPAND selects sources (R276). -/
def gatingMask (w : IWord) : Bool :=
  decide (w.extractLsb' 4 2 ≠ 0) && !(decide (majorOf w = 0x16 ∧ functOf w = 2)) &&
    !(decide (majorOf w = 0x1B ∧ (functOf w = 3 ∨ functOf w = 4)))
/-- A member skips its next group (R276): none of the elements that belong to it is active. -/
def Hart.skips (t : Hart) (e : QEntry) : Bool :=
  e.grouped && gatingMask e.word &&
    (if usesMemory e.word then e.placed.isSome && ({ e with stop := e.groupStop } : QEntry).now.isEmpty
    else
      let mask := t.maskOf (e.word.extractLsb' 4 2)
      let hi := if e.groupStop / 2 ^ 13 = e.row0 then e.groupStop % 2 ^ 13 else e.vl
      (List.range (min hi e.vl - e.elem0)).all fun n => !mask.testBit (e.elem0 + n))

/-- VCBLD loads a codebook register, and a C4 conversion decodes through one (05_vector R145, R146), as loads from C4 pages do. -/
def loadsCodebook (w : IWord) : Bool := decide (majorOf w = 0x16 ∧ functOf w = 4)
def decodesC4 (w : IWord) : Bool := decide (majorOf w = 0x15 ∧ functOf w = 15)
/-- Two members whose effects are not on rows and masks alone, in program order: accesses to memory, results to scalar
registers, and codebook loads with what decodes through a codebook. -/
def keepsOrder (a b : IWord) : Bool :=
  (usesMemory a && usesMemory b) || (toScalar a && toScalar b) || (loadsCodebook a && decodesC4 b) ||
    (decodesC4 a && loadsCodebook b)
/-- A member has sent all it asks of other devices and awaits the answers. -/
def QEntry.awaits (e : QEntry) : Bool := e.started && !e.done && decide (e.restart = wholeStop)

/-! ### What matrix members read and write of the engine (R279, R282) -/

/-- Accumulator rows as themselves, carry register n as 5000 + n, the active plane as 6000, the shadow plane as 6001:
what a matrix member of a hart reads and what it writes from its progress `lo` up to `hi`. -/
def QEntry.matUses (e : QEntry) (t : Hart) (lo hi : Nat) : List Nat × List Nat :=
  let a := e.xs1.toNat
  let n := e.xs2.toNat
  let span (b k : Nat) : List Nat := (List.range k).map (b + ·)
  let rows (b k : Nat) : List Nat := span (b + lo) (min k hi - lo)
  match decodeQueued (splitWord e.word) with
  | .ok (.mls _) => ([], [6001])
  | .ok (.mstr f) =>
    let row (r : Nat) : Nat := a + (if f.aff = 1 then 2 * (lo + r) + 1 else lo + r)
    let rows := (List.range (min (groupRows f.g) hi - lo)).map row
    (6000 :: (if f.ovw = 1 then [] else rows), rows)
  | .ok (.mop f) =>
    let mask := (e.view t).maskOf f.m
    let rs := (rows a e.vl).filter fun r => mask.testBit (r - a)
    (rs, rs)
  | .ok (.mscan f) =>
    let rows := span (a + 2 * lo) (2 * (min n hi - lo))
    (rows ++ (if lo = 0 then (if f.cin = 1 then [5000 + f.slot.toNat] else []) else span (a + 2 * lo - 2) 2),
      rows ++ (if f.wout = 1 ∧ n ≤ hi then [5000 + f.slot.toNat] else []))
  | .ok (.mscanf f) =>
    let steps := (List.range (min n hi - lo)).map (lo + ·)
    ((5000 + f.slot.toNat) :: span (a + 2 * lo) (2 * (min n hi - lo)), steps.map fun i => a + 2 * i + 1)
  | .ok (.maccRd f) => (rows a (groupRows f.g), [])
  | .ok (.maccWr f) => ([], rows a (groupRows f.g))
  | .ok (.maccZr _) => ([], rows a n)
  | .ok (.maccCp _) => (rows e.xs3.toNat n, rows a n)
  | .ok (.maccScrd f) => ([5000 + f.slot.toNat], [])
  | .ok (.maccScwr f) => ([], [5000 + f.slot.toNat])
  | .ok .mswap => ([6000, 6001], [6000, 6001])
  | _ => ([], [])
/-- A matrix member's next act waits for an earlier one that still has to write what it reads or writes, or to read what it
writes. -/
def QEntry.matBlocks (x y : QEntry) (t : Hart) (stop : Nat) : Bool :=
  let xs := x.matUses t x.restart wholeStop
  let ys := y.matUses t y.restart stop
  xs.2.any (fun k => ys.1.contains k || ys.2.contains k) || xs.1.any fun k => ys.2.contains k

/-- Where the next act of a matrix member ends (07_matrix_isa R222; R279): an MLS loads a segment of 1 KiB, an MSTR takes a
row slot of two rows, or of one row of F16 or B16, a scan takes a step, a MOP and a move of accumulator rows a row, and a zeroing
four rows; a copy whose ranges overlap takes all of its rows. -/
def QEntry.unitStop (e : QEntry) (mvl : Nat) : Nat :=
  match decodeQueued (splitWord e.word) with
  | .ok (.mls _) =>
    let p := (e.restart / 1024 + 1) * 1024
    if p < 2 * (e.vl * mvl) then p else wholeStop
  | .ok (.mstr f) =>
    let p := if e.ty = tyF16 ∨ e.ty = tyB16 then e.restart + 1 else (e.restart / 2 + 1) * 2
    if p < groupRows f.g then p else wholeStop
  | .ok (.mscan _) | .ok (.mscanf _) => if e.restart + 1 < e.xs2.toNat then e.restart + 1 else wholeStop
  | .ok (.mop _) => if e.restart + 1 < e.vl then e.restart + 1 else wholeStop
  | .ok (.maccRd f) | .ok (.maccWr f) => if e.restart + 1 < groupRows f.g then e.restart + 1 else wholeStop
  | .ok (.maccZr _) =>
    let p := (e.restart / 4 + 1) * 4
    if p < e.xs2.toNat then p else wholeStop
  | .ok (.maccCp _) =>
    let a := e.xs1.toNat
    let b := e.xs3.toNat
    let n := e.xs2.toNat
    if e.restart + 1 < n ∧ (a + n ≤ b ∨ b + n ≤ a) then e.restart + 1 else wholeStop
  | _ => wholeStop

/-- The rows of an MSTR's next slot all qualify for zero-block skipping (R281): each K-block with an active position has
its zero flag set, and the active activations in it are finite. -/
def QEntry.zeroSlot (e : QEntry) (t : Hart) : Bool :=
  match decodeQueued (splitWord e.word), t.matrix with
  | .ok (.mstr f), some m =>
    let v := e.view t
    let mask := v.maskOf f.m
    let stop := min (e.unitStop m.mvl) (groupRows f.g)
    (List.range (stop - e.restart)).all fun r =>
      (List.range e.vl).all fun k => !mask.testBit k ||
        (m.active.zero.getLsbD (k / 32) && (valueOf e.ty (v.elem e f.vs (e.restart + r) k)).isFinite)
  | _, _ => false
/-- The unit that serves a matrix member's next act: 0 the array, 1 the scan unit, 2 the accumulate path (R279, R281); MLS
goes through the memory port and MSWAP through none. -/
def Hart.unitOf (t : Hart) (e : QEntry) : Option Nat :=
  match majorOf e.word with
  | 0x32 => some (if e.zeroSlot t then 2 else 0)
  | 0x33 | 0x35 => some 2
  | 0x34 => some 1
  | _ => none

/-- Matrix members of a list that are not complete. -/
def matrixLeft (l : List QEntry) : List QEntry := l.filter fun e => !e.done && isMatrixWord e.word
/-- A matrix member may act: what it needs of the engine has been left by the earlier ones. -/
def Hart.engineReady (t : Hart) (earlier : List QEntry) (e : QEntry) : Bool :=
  (matrixLeft earlier).all fun x => !x.matBlocks e t (e.unitStop t.mvl)

/-! ### The members that can act -/

/-- The end of a member's next act. -/
def Hart.actStop (t : Hart) (e : QEntry) : Nat :=
  if isMatrixWord e.word then e.unitStop t.mvl else e.groupStop
/-- Member n of the leading convoy may act: what it uses is ready, for a group that it skips the mask alone, and nothing whose order
with it shows is before it. -/
def Hart.memberReady (t : Hart) (lead : List QEntry) (n : Nat) (e : QEntry) : Bool :=
  let earlier := lead.take n
  !e.done && !e.awaits && (earlier.all fun p => p.done || !keepsOrder p.word e.word) &&
    (t.operandsReady earlier e (t.actStop e) || (t.maskReady earlier e (t.actStop e) && t.skips e)) &&
    (!isMatrixWord e.word || t.engineReady (t.tile ++ earlier) e)
/-- Two members share a pipe of one cluster for their next group (R273, R274); a skipped group takes none (R276). -/
def Hart.samePipe (t : Hart) (a b : QEntry) : Bool :=
  decide (classOf a.word = classOf b.word) && decide (a.groupNum % t.k = b.groupNum % t.k) && !t.skips a && !t.skips b
/-- The members of the leading convoy that can start a group: of those that share a pipe, the earliest (R273). Matrix members
other than MLS are served by the matrix units. -/
def Hart.groupMembers (t : Hart) : List Nat :=
  let lead := leadConvoy t.queue
  let ready := (List.range lead.length).filter fun n =>
    let e := lead.getD n QEntry.vacant
    decide (classOf e.word ≠ .none) && (t.unitOf e).isNone && t.memberReady lead n e
  ready.filter fun n => ready.all fun m =>
    decide (n ≤ m) || !t.samePipe (lead.getD m QEntry.vacant) (lead.getD n QEntry.vacant)

/-! ### Storage that an uncorrectable error has taken (21_service R379) -/

/-- The bits of a row that an act of a member uses, from its restart to its stop. -/
def QEntry.actBits (e : QEntry) (u : Use) (stop : Nat) : Nat × Nat :=
  if u.whole then (0, if usesMemory e.word then 32768 else u.width * e.vl)
  else
    let a := e.at e.restart
    let b := e.at stop
    (e.usedBits u a.1 a.2, e.usedBits u b.1 b.2)
/-- The number under which the lost storage of a matrix key stands. -/
def lostKey (k : Nat) : Nat := 10000 + k
/-- What an act of a member reads of the hart's lost storage. -/
def Hart.lostRead (t : Hart) (e : QEntry) (stop : Nat) : Option Nat :=
  if t.lost.isEmpty ∨ t.skips e then none
  else t.lost.find? fun x =>
    (e.reads.any fun u =>
      let b := e.actBits u stop
      if 32 ≤ u.reg then decide (x = 2016 + u.reg)
      else decide (x / 64 = u.reg) && decide (b.1 < 512 * (x % 64 + 1) ∧ 512 * (x % 64) < b.2)) ||
      (isMatrixWord e.word && (e.matUses t e.restart stop).1.any fun k => decide (x = lostKey k) && decide (classOf e.word ≠ .none))
/-- Lost storage that an act has rewritten: element groups written whole, accumulator rows, carries and planes that it writes and
does not read. -/
def Hart.madeGood (t : Hart) (e : QEntry) (stop : Nat) : Hart :=
  if t.lost.isEmpty then t
  else
    let u := if e.word.extractLsb' 4 2 = 0 then e.writes.foldl (fun (t : Hart) w =>
      let b := e.actBits w stop
      if w.reg < 32 then t.rewritten w.reg (BitVec.ofNat 32768 (2 ^ b.2 - 2 ^ b.1))
      else { t with lost := t.lost.filter (· ≠ 2016 + w.reg) }) t else t
    let m := if isMatrixWord e.word && decide (classOf e.word ≠ .none) then e.matUses t e.restart stop else ([], [])
    { u with lost := u.lost.filter fun x => !(m.2.any fun k => decide (x = lostKey k) && !m.1.contains k) }
/-- UNIT, register number and element of an error in lost storage, and whether it is a vector row (21_service R378). -/
def lostSite (x : Nat) (e : QEntry) : Nat × Nat × Nat :=
  if x < 2048 then (0, x / 64, e.elem0)
  else if x < 10000 then (1, x - 2048, e.elem0)
  else if x < 15000 then (3, (x - 10000) % 32, e.restart)
  else if x < 16000 then (5, x - 15000, e.restart)
  else (4, e.restart % 32, e.restart)
/-- The record of an error in lost storage that an act of a member meets. -/
def State.logLost (s : State) (x : Nat) (e : QEntry) : State :=
  let u := lostSite x e
  let site := if x < 2048 then siteReg (Config.errorSite s.fresh) ((mapList s.me.map).getD (x % 64 % s.me.k) 0) u.2.1 u.2.2
    else siteReg (Config.errorSite s.fresh) ((Config.errorSite s.fresh).extractLsb' 0 3).toNat u.2.1 u.2.2
  { s.logSite u.1 site s.cur with fresh := s.fresh + 2 }

/-- Entry n of the executing hart's queue goes on to the end of its next act (R274, R363); a word that an image gives and that
is no queued instruction traps ILLEGAL, and one that would read lost storage ECC (21_service R379). A memory port that is held back lets
no memory member go on (18_fabric R337). -/
def State.stepMember (s : State) (n : Nat) : State :=
  let e := s.me.queue.getD n QEntry.vacant
  let s := s.withMe fun t => { t with qstalled := none }
  let stop := s.me.actStop e
  if usesMemory e.word && s.portHeld s.cur then s
  else match steppedWord e.word, s.me.lostRead e stop with
  | none, _ =>
    if s.faultWaits s.cur || s.me.replayFirst n then s else s.vectorFault n causeIllegal (tvalWord e.word) e.restart
  | some _, some x =>
    if s.faultWaits s.cur || s.me.replayFirst n then s
    else (s.logLost x e).vectorFault n causeEcc (BitVec.ofNat 64 e.restart) e.restart
  | some q, none =>
    (s.runEntry n e stop q).withMe fun t => Hart.dropDrained <| Hart.dropSwaps <|
      if (t.queue.getD n QEntry.vacant).done || decide ((t.queue.getD n QEntry.vacant).restart = stop) then t.madeGood e stop else t
/-- A member of a kind that can start a group does, if there is one; which is not promised. -/
def State.groupStep (s : State) (p : IWord → Bool) : State :=
  let t := s.me
  let l := t.groupMembers.filter fun n => p (t.queue.getD n QEntry.vacant).word
  match l[Config.member s.fresh % l.length]? with
  | none => s
  | some n => { s with fresh := s.fresh + 1 }.stepMember n

/-! ### The units and the tile queue (R272, R279-R282) -/

/-- Entry n of the executing hart's tile queue goes on to the end of its next act; a complete one leaves the tile queue. -/
def State.stepTile (s : State) (n : Nat) : State :=
  match s.me.tile[n]? with
  | none => s
  | some e =>
    let stop := s.me.actStop e
    match steppedWord e.word, s.me.lostRead { e with snap := none } stop with
    | none, _ => s.withMe fun t => { t with tile := t.tile.eraseIdx n }
    | some _, some x =>
      if s.faultWaits s.cur then s
      else (s.logLost x e).vectorFaultIn s.me.tile n causeEcc (BitVec.ofNat 64 e.restart) e.restart
    | some q, none =>
      match q.act s { e with stop := stop } with
      | .done s' f =>
        s'.withMe fun t => Hart.dropDrained <| (Hart.madeGood · e stop) <|
          if stop = wholeStop then { t.complete e f with tile := t.tile.eraseIdx n }
          else { t with tile := t.tile.modify n fun x =>
            { x with started := true, restart := stop, flags := x.flags ||| f } }
      | _ => s
/-- The queue goes on: its hart runs; or it is being stopped, and a replay is still to be enqueued behind what the queue holds, or a
member that stops only as a whole is under way (20_faults R367, R368). -/
def Hart.queueGoes (t : Hart) : Bool :=
  decide (t.run = .running) || decide (t.partReplay ≠ 0) || t.queue.any QEntry.midway
/-- Where a hart has work that a unit can serve next: in its tile queue (`true`) or in the leading convoy of its queue. -/
def Hart.unitWork (t : Hart) (unit : Nat) : Option (Bool × Nat) :=
  let lead := leadConvoy t.queue
  let inTile := (List.range t.tile.length).find? fun n =>
    let e := t.tile.getD n QEntry.vacant
    decide (t.unitOf e = some unit) && t.engineReady (t.tile.take n) e
  let inQueue := (List.range lead.length).find? fun n =>
    let e := lead.getD n QEntry.vacant
    decide (t.unitOf e = some unit) && t.memberReady lead n e
  match inTile with
  | some n => some (true, n)
  | none => if t.queueGoes then inQueue.map fun n => (false, n) else none
/-- A hart's next act on a unit. -/
def State.unitStep (s : State) (unit : Nat) : State :=
  match s.me.unitWork unit with
  | none => s
  | some (true, n) => s.stepTile n
  | some (false, n) => s.stepMember n

/-- A matrix member that an MSWAP behind it waits for (R282): an MLS that is not complete, one that reads the active plane and has not
been given its last slot, an earlier MSWAP. -/
def holdsSwap (e : QEntry) : Bool :=
  !e.done && (decide (majorOf e.word = 0x31) || decide (majorOf e.word = 0x32) || decide (classOf e.word = .none))
/-- Where the first MSWAP stands, if nothing before it holds it (R282): in the tile queue, or in the queue before the members that
wait for its convoy. -/
def Hart.swapDue (t : Hart) : Option (Bool × Nat) :=
  let lead := leadConvoy t.queue
  match t.tile.findIdx? holdsSwap with
  | some n => if classOf (t.tile.getD n QEntry.vacant).word = .none then some (true, n) else none
  | none =>
    if !t.queueGoes then none
    else match lead.findIdx? holdsSwap with
      | none => none
      | some n => if classOf (lead.getD n QEntry.vacant).word = .none then some (false, n) else none
/-- The due MSWAP of the executing hart takes effect. -/
def State.swapStep (s : State) : State :=
  match s.me.swapDue with
  | none => s
  | some (true, n) => s.stepTile n
  | some (false, n) => s.stepMember n

/-- What a hart's vector side can do. -/
inductive VTask where
  | drain
  | group
  | unit (n : Nat)
  | swap
  deriving DecidableEq, Repr
/-- Everything that a hart's vector side can do now. -/
def Hart.vectorTasks (t : Hart) : List VTask :=
  if t.queue.isEmpty && t.tile.isEmpty then []
  else
    (if t.drains then [.drain] else []) ++ (if t.groupMembers.isEmpty then [] else [.group]) ++
      ((List.range 3).filter fun n => (t.unitWork n).isSome).map .unit ++ (if t.swapDue.isSome then [.swap] else [])

/-! ### Repeat frames: stepping (R89) -/

/-- The fields that a frame steps in a word: whether [24:20], [19:15] and [14:10] are, and the group size they use. -/
structure Steps where
  d : Bool
  a : Bool
  b : Bool
  rows : Nat
  deriving DecidableEq, Repr

/-- The stepped fields of a captured word; a reserved function names none (R89, R90). -/
def stepsOf (w : IWord) : Steps :=
  let fn := (w.extractLsb' 0 4).toNat
  let g := groupRows (w.extractLsb' 6 2)
  let none : Steps := ⟨false, false, false, 1⟩
  match (w.extractLsb' 25 6).toNat with
  | 0x10 => ⟨true, true, true, g⟩
  | 0x11 => ⟨true, false, true, g⟩
  | 0x12 => if fn < 13 then ⟨true, true, true, g⟩ else none
  | 0x13 => if fn < 13 then ⟨true, false, true, g⟩ else none
  | 0x14 => if fn < 13 ∧ fn ≠ 6 then ⟨true, false, true, g⟩ else none
  | 0x15 => if fn = 15 then ⟨true, false, false, g⟩ else ⟨true, false, true, g⟩
  | 0x16 =>
    if fn = 0 ∨ fn = 1 then ⟨true, false, true, g⟩
    else if fn = 3 then ⟨true, false, false, g⟩
    else if fn = 2 then ⟨true, true, true, g⟩
    else none
  | 0x18 => if fn < 8 then ⟨false, true, true, 1⟩ else none
  | 0x19 => if fn < 8 then ⟨false, false, true, 1⟩ else none
  | 0x1B =>
    if fn = 0 ∨ fn = 1 ∨ fn = 3 ∨ fn = 4 then ⟨true, false, true, 1⟩
    else if fn = 2 then ⟨true, true, true, 1⟩
    else if fn = 5 then ⟨false, false, true, 1⟩
    else if fn = 6 then ⟨true, false, false, 1⟩
    else if fn = 7 then ⟨true, false, true, g⟩
    else none
  | 0x1C => if fn < 10 then ⟨false, false, true, 1⟩ else none
  | 0x32 => ⟨true, false, false, g⟩
  | 0x33 => ⟨true, false, true, 1⟩
  | _ => none
/-- A word steps some field. -/
def Steps.any (p : Steps) : Bool := p.d || p.a || p.b

/-- A register field moved on, modulo 32. -/
def stepField (w : IWord) (at' : Nat) (by' : Nat) : IWord :=
  let v := (w.extractLsb' at' 5 + BitVec.ofNat 5 by').setWidth 32
  (w &&& ~~~ (0x1F#32 <<< at')) ||| (v <<< at')
/-- A captured word as replay j enqueues it (R89). -/
def stepWord (w : IWord) (by' : Nat) : IWord :=
  let p := stepsOf w
  let w := if p.d then stepField w 20 by' else w
  let w := if p.a then stepField w 15 by' else w
  if p.b then stepField w 10 by' else w

/-! ### The checks of a frame (R90) -/

/-- Majors that a frame may hold (check 2). -/
def frameMajor (w : IWord) : Bool :=
  let m := (w.extractLsb' 25 6).toNat
  decide (0x10 ≤ m ∧ m ≤ 0x1C) || decide (m = 0x32 ∨ m = 0x33)
/-- The position of the first word that exceeds a class limit of its convoy (check 6). -/
def frameConvoys : List QEntry → List QEntry → Nat → Option Nat
  | _, [], _ => none
  | ms, e :: t, i =>
    let ms := if e.first then [] else ms
    if e.first || convoyRoom ms e.word then frameConvoys (ms ++ [e]) t (i + 1) else some i

/-- The trap of a frame: a cause and the offending word's position. -/
def firstFail (l : List (Option Byte)) : Option (Byte × Nat) :=
  (l.zipIdx.findSome? fun e => e.1.map fun c => (c, e.2))
/-- The cause of a check that fails. -/
def Stop.cause : Stop → Byte
  | .trap c _ => c
  | .poison _ _ => causeEcc
  | .wait _ => causePage

/-- Checks that read scalar operands or the hart's state, of one word of a replay (checks 8 of R90). -/
def Queued.replayCheck (q : Queued) (s : State) (e : QEntry) : Option Byte :=
  if !q.typeCheck e then some causeIllegal
  else (q.check s e).map Stop.cause

/-- The first check of R90 that a frame fails, and the position of its first word that fails it. `resumed` is whether
replay 0 is not enqueued again, so that check 8 is not made for it. The source-type check of R144 is in check 7, as R13 has it
(DESIGN CHOICE, log entry 56). LANEOFF comes where every enqueue meets it, behind the check of the share (20_faults R365). -/
def State.frameCheck (s : State) (ws : List IWord) (step : Nat) (resumed : Bool) : Option (Byte × Nat) :=
  let t := s.me
  let pc (i : Nat) : Word := t.pc + BitVec.ofNat 64 (4 * (i + 1))
  let qs := ws.filterMap queuedWord
  let es := qs.mapIdx fun i q => { q.capture t (pc i) with first := q.word.getLsbD 31 }
  let both := qs.zip es
  (firstFail (ws.map fun w => if frameMajor w then none else some causeRepframe)).or <|
  (if ((ws.headD 0).getLsbD 31) then none else some (causeRepframe, 0)).or <|
  (firstFail (ws.map fun w => if (stepsOf w).any && decide (step % (stepsOf w).rows ≠ 0) then some causeRepframe
    else none)).or <|
  (firstFail (ws.map fun w => if (queuedWord w).isNone then some causeIllegal else none)).or <|
  (if t.k = 0 then some (causeVlen, 0) else if t.laneLost then some (causeLaneoff, 0) else none).or <|
  ((frameConvoys [] es 0).map fun i => (causeConvoy, i)).or <|
  (firstFail (both.map fun x => x.1.lengthCheck t x.2)).or <|
  if resumed then none else firstFail (both.map fun x => x.1.replayCheck s x.2)

/-- TVAL of a frame's trap: the offending word and its position (R90); for LANEOFF the core's bitmap (20_faults R355). -/
def State.frameTval (s : State) (c : Byte) (w : IWord) (i : Nat) : Word :=
  if c = causeLaneoff then (s.retired (coreOf s.cur)).setWidth 64 else w.setWidth 64 ||| BitVec.ofNat 64 (i * 2 ^ 32)

/-- Some other hart of the core has the sequencer buffer (R278). -/
def State.bufferTaken (s : State) (h : Nat) : Bool :=
  (coreSlots (coreOf h)).any fun k => decide (k ≠ h) && (s.hart k).rep.any fun r => r.captured
/-- The replay that a REP begins with: REPPOS's when it is valid (R91, R157), whichever REP it is (DESIGN CHOICE,
log entry 56). -/
def Hart.firstReplay (t : Hart) : Nat :=
  let p := t.csrv 0x008
  if p.getLsbD 6 then (p.extractLsb' 0 6).toNat else 0

/-- A hart made the executing one. -/
def State.asHart (s : State) (h : Nat) : State := { s with cur := h }
/-- A hart that fetches and issues, or waits. -/
def State.runs (s : State) (h : Nat) : Bool := decide ((s.hart h).run = .running)

/-- A REP whose turn at the sequencer buffer has come: its frame is fetched, checked and captured (R90, R278). A frame that
reads a register which a vector-to-scalar member has still to write waits (R155). -/
def State.captureFrame (s : State) (r : RepFrame) : State :=
  match s.fetchWords (r.pc + 4) r.n with
  | .error (s, e) => (s.withMe fun t => { t with rep := some r }).halt e
  | .ok (s, ws) =>
    if s.me.owes (ws.flatMap queuedRegs) then s.withMe fun t => { t with rep := some r }
    else
      let j := s.me.firstReplay
      match s.frameCheck ws r.s (decide (0 < j)) with
      | some (c, i) => s.raise c (s.frameTval c (ws.getD i 0) i)
      | none => s.withMe fun t => { (t.setCsr 0x008 0).dropAsks 2 with
          rep := some { r with captured := true, words := ws, replay := j }, wait := none }

/-- REP (R89, R90): it waits for the sequencer buffer while another hart of the core has it. -/
def execRep (f : RepOps) (s : State) : Out :=
  let s := s.withMe Hart.closeConvoy
  let r : RepFrame := ⟨false, [], f.n.toNat + 1, f.k.toNat + 1, f.s.toNat, 0, 0, s.me.pc, []⟩
  .next (if s.bufferTaken s.cur then s.withMe fun t => { t with rep := some r } else s.captureFrame r)

/-! ### Replays (R156, R278) -/

/-- The frame after a word of it has been enqueued; after the last word of the last replay the scalar side goes on behind the
frame (R89). -/
def Hart.nextWord (t : Hart) (r : RepFrame) : Hart :=
  if r.pos + 1 < r.n then { t with rep := some { r with pos := r.pos + 1, blocked := [] } }
  else if r.replay + 1 < r.k then { t with rep := some { r with replay := r.replay + 1, pos := 0, blocked := [] } }
  else { t with rep := none, pc := r.pc + BitVec.ofNat 64 (4 * (r.n + 1)) }

/-- A replay does not go on: nothing of it stays enqueued, and the trap is taken at its REP (R90). -/
def State.failReplay (s : State) (r : RepFrame) (c : Byte) (tval : Word) : State :=
  (s.withMe fun t => ({ t with queue := t.queue.take (t.queue.length - r.pos) } : Hart).setCsr 0x008
    (BitVec.ofNat 64 (r.replay + 64))).raise c tval
/-- The next word of a replay enqueued (R89, R278), with its operands captured then: not while the queue is full or a register
that it captures is owed (R155). The checks of scalar operands are made for all of a replay's words before its first is enqueued
(R90). A word that captures what an earlier word of its own replay writes is checked again with what it captures (DESIGN CHOICE, log
entry 56). -/
def State.replayWord (s : State) (r : RepFrame) : State :=
  let t := s.me
  let ws := r.words.map fun w => stepWord w (r.replay * r.s)
  let qs := ws.filterMap steppedWord
  let fails (l : List Queued) : Option (Byte × Nat) :=
    if t.laneLost then some (causeLaneoff, 0) else firstFail (l.map fun q => q.replayCheck s (q.capture t t.pc))
  let needs := if r.pos = 0 then qs.flatMap Queued.captures else (qs[r.pos]?.map Queued.captures).getD []
  match qs[r.pos]? with
  | none => s.withMe fun t => t.nextWord { r with pos := r.n }
  | some q =>
    if t.owes needs then s.withMe fun t => { t with rep := some { r with blocked := needs } }
    else
      match (if r.pos = 0 then (if r.replay = 0 then none else fails qs)
        else if r.blocked.isEmpty then none else (fails [q]).map fun x => (x.1, r.pos)) with
      | some (c, i) => s.failReplay r c (s.frameTval c (ws.getD i 0) i)
      | none =>
        let e := q.fixes s (q.capture t (r.pc + BitVec.ofNat 64 (4 * (r.pos + 1))))
        if queueSize ≤ (t.entriesBefore e.first).length then s
        else (s.enter q e false).withMe fun t => t.nextWord r

/-- REP_BUFFER_ACQUIRE: a waiting REP takes the freed buffer (R278). -/
def execRepBufferAcquire (h : Nat) (s : State) : Out :=
  .next (match (s.hart h).rep with
    | none => s
    | some r =>
      if s.runs h && !r.captured && !s.bufferTaken h then
        ((s.asHart h).withMe fun t => { t with stalled := none }).captureFrame r
      else s)

/-- The next word of a replay may be enqueued: the hart runs, or it is being stopped and the replay under way is still to be fully
enqueued (R91; 20_faults R368). -/
def Hart.replays (t : Hart) (r : RepFrame) : Bool :=
  r.captured && (match t.run with
    | .running => true
    | .stopping _ _ | .holding _ => decide (r.pos ≠ 0)
    | _ => false)
/-- REPLAY_ENQUEUE: the next word of a replay is enqueued when the queue has room for it (R278). -/
def execReplayEnqueue (h : Nat) (s : State) : Out :=
  .next (match (s.hart h).rep with
    | none => s
    | some r => if (s.hart h).replays r then (s.asHart h).replayWord r else s)

end Sys2Proof.Machine
end

