-- ==== Sys2Proof/Machine/Delivery.lean ====
section
/-!
DEFINITION. Machine/Delivery.lean: the steps of operand delivery (12_operand_delivery R272-R282), non-blocking
completion (06_memory_isa R169-R171), vector and asynchronous traps (20_faults R358-R366; 04_scalar R130), the save of
a stopped hart and its fault domain (14_regions R296), page walks (09_address R245) and cluster retirement (21_service
R380).

These steps move what is queued and not complete, and non-blocking work. A step that is not due changes nothing.
-/

namespace Sys2Proof.Machine

/-! ### Convoys -/

/-- CONVOY_START: the drained predecessor leaves, and the next convoy is the first of the queue (R272). -/
def execConvoyStart (h : Nat) (s : State) : Out :=
  let t := s.hart h
  .next (if s.runs h && !(t.queue.drop (leadConvoy t.queue).length).isEmpty then s.setHart h t.dropDrained else s)

/-- CONVOY_DRAIN: a closed convoy whose members have completed or passed their drain points leaves its entries (R272). -/
def execConvoyDrain (h : Nat) (s : State) : Out :=
  .next (if s.runs h then s.setHart h (s.hart h).dropDrained else s)

/-- GROUP_START: a member of the leading convoy starts its next group; which of several is not promised (R273, R274). -/
def execGroupStart (h : Nat) (s : State) : Out :=
  .next (if s.runs h then (s.asHart h).groupStep fun _ => true else s)

/-- VECTOR_TO_SCALAR_WRITE: a vector-to-scalar member completes and writes its register (05_vector R155). -/
def execVectorToScalarWrite (h : Nat) (s : State) : Out :=
  .next (if s.runs h then (s.asHart h).groupStep toScalar else s)

/-- MSWAP_EFFECT: an MSWAP takes effect when all before it has completed (R282). -/
def execMswapEffect (h : Nat) (s : State) : Out := .next (s.asHart h).swapStep

/-! ### The matrix units (R279-R281) -/

/-- The hart whose work a unit of a core serves: of those with work that is ready, the one of higher region priority, then
tile queue 0 (07_matrix_isa R211; R280). -/
def State.unitHart (s : State) (core unit : Nat) : Option Nat :=
  let ready := (coreSlots core).filter fun h =>
    (s.hart h).matrix.isSome && ((s.hart h).unitWork unit).isSome
  let tq (h : Nat) : Nat := ((s.hart h).matrix.map (·.tq)).getD 0
  (ready.foldl (fun l h => insertBy (fun a b =>
    decide (s.prioOf b < s.prioOf a) || (decide (s.prioOf a = s.prioOf b) && decide (tq a < tq b))) h l) []).head?
/-- A unit of a core serves the next act of the hart that has precedence. -/
def State.serveUnit (s : State) (core unit : Nat) : State :=
  match s.unitHart core unit with
  | none => s
  | some h => (s.asHart h).unitStep unit

/-- ROW_SLOT: the array serves a row slot of an MSTR (R279, R280). -/
def execRowSlot (core : Nat) (s : State) : Out := .next (s.serveUnit core 0)
/-- SCAN_UNIT_STEP: the scan unit serves a step of an MSCAN or MSCANF (R279). -/
def execScanUnitStep (core : Nat) (s : State) : Out := .next (s.serveUnit core 1)
/-- ACCUMULATE_PATH_ROW: the accumulate path serves a MOP, a MACC move, or the rows of an MSTR slot that all qualify for
zero-block skipping (R279, R281). -/
def execAccumulatePathRow (core : Nat) (s : State) : Out := .next (s.serveUnit core 2)

/-! ### Non-blocking work (R169-R171, R275) -/

/-- One group of an outstanding row lands: its bits are written and its arrival bit is set. -/
def Hart.landGroup (t : Hart) (r : NbRow) (g : Nat) : Hart :=
  let m := r.bits &&& groupBits g
  { (t.rewritten r.row m).setV r.row ((t.vr r.row &&& ~~~ m) ||| (r.data &&& m)) with
    away := Sparse.modify 0 t.away r.row (· &&& ~~~ (1#64 <<< g)) }
/-- A row record without a group. -/
def NbRow.without (r : NbRow) (g : Nat) : NbRow :=
  { r with bits := r.bits &&& ~~~ groupBits g, groups := r.groups &&& ~~~ (1#64 <<< g) }
/-- The elements of a group of a row that an operation still awaits. -/
def NbOp.awaitsGroup (o : NbOp) (row g : Nat) : Bool :=
  o.late.any fun x => decide (x.row = row ∧ x.bit / 512 ≤ g ∧ g ≤ (x.bit + typeWidth x.ty - 1) / 512)
/-- LOAD_GROUP_LANDING: a group of a row that the oldest outstanding load of it brings lands, once what other devices hold of
it has come (R171, R275). -/
def execLoadGroupLanding (h row grp : Nat) (s : State) : Out :=
  let t := s.hart h
  .next (match t.nb.find? fun o => o.brings row grp with
    | none => s
    | some o =>
      match o.rows.find? fun r => decide (r.row = row) && r.groups.getLsbD grp with
      | none => s
      | some r =>
        if o.awaitsGroup row grp then s else
        let rows := o.rows.map fun x => if x = r then r.without grp else x
        let nb := t.nb.map fun x => if x.ctr = o.ctr ∧ x.num = o.num then { x with rows := rows } else x
        s.setHart h ({ t with nb := nb }.landGroup r grp))

/-- NONBLOCKING_COMPLETE: an outstanding operation that can completes: its loads land, its stores are performed, and the
retired count follows in issue order (R169). -/
def execNonblockingComplete (h ctr num : Nat) (s : State) : Out :=
  .next (match (s.hart h).nb.find? fun o => decide (o.ctr = ctr ∧ o.num.toNat = num) && o.ready with
    | none => s
    | some o => s.nbFinish h o)

/-! ### Lost clusters (20_faults R365; 21_service R380) -/

/-- A hart that has lost clusters: its pending share is the largest power of two not above its surviving clusters, and
its queued instructions trap LANEOFF until its next SETVL. -/
def State.loseLanes (s : State) (h : Nat) : State :=
  let s := s.tickTime
  let t := s.hart h
  s.setHart h { t.setShare (s.surviving h) true (s.die (slotDie h)).ptime with laneLost := true }
/-- A trap just taken with the image written and VRF left clear (R365); where VRF was set already the first trap's image stays. -/
def State.dropImage (s : State) (h : Nat) (was : Bool) : State :=
  if was then s else (s.asHart h).withMe fun t => t.setCsr 0x104 (t.csrv 0x104 &&& ~~~ 0x10#64)
/-- A due LANEOFF trap is taken once nothing holds a fault back: the image is written and VRF is left clear (R358, R365). -/
def State.laneTrap (s : State) (h : Nat) : State :=
  let s := s.asHart h
  if !s.me.laneDue || s.faultWaits h then s
  else
    let n := (s.me.queue.findIdx? fun e => !e.done).getD 0
    let tv := (s.retired (coreOf h)).setWidth 64
    let r := ((s.me.queue[n]?).map (·.restart)).getD 0
    ((s.vectorFault n causeLaneoff tv r).loseLanes h).dropImage h s.me.vrf

/-- CLUSTER_RETIRE: the cluster's bit in LANEOFF is set on its core; the hart that owns it traps LANEOFF (R365,
R380), at once or when it can (R358); the storage of a matrix instruction or row in the cluster is lost with it. -/
def execClusterRetire (core cluster : Nat) (s : State) : Out :=
  .next (if cluster < 8 ∧ core < 128 ∧ !(s.retired core).getLsbD cluster then
      let s := { s with laneOff := Sparse.modify 0 s.laneOff core (· ||| (1#8 <<< cluster)) }
      match (coreSlots core).find? fun h => (s.hart h).map.getLsbD cluster with
      | none => s
      | some h =>
        if (s.hart h).run.lanesWork then (s.setHart h { s.hart h with laneDue := true }).laneTrap h else s.loseLanes h
    else s)

/-! ### Vector traps (R358, R379) -/

/-- An uncorrectable error that a queued member meets, in ERRLOG0 as the unit reports it, without a syndrome where it is of a
residue check, and ERRLOG1 (21_service R378). -/
def State.recordError (s : State) (h : Nat) (log : Word) : State :=
  let unit := (log.extractLsb' 3 4).toNat
  let log := if unit = 8 ∨ unit = 9 then log &&& ~~~ 0x7F80000000#64 else log
  let s := if ((s.hart h).csrv 0x108).getLsbD 0 then s else s.tickTime
  let t := s.hart h
  s.setHart h (if (t.csrv 0x108).getLsbD 0 then t.setCsr 0x108 (t.csrv 0x108 ||| 2)
    else (t.setCsr 0x108 ((log &&& 0xFFFFFFFFF8) ||| (if s.synced (slotDie h) then 5 else 1))).setCsr 0x109
      (s.die (slotDie h)).ptime)
/-- The storage of a hart in which a member's unit has met an uncorrectable error, by the record's UNIT, REG and ELEM: what the member's
next act reads of it is lost (21_service R378, R379). -/
def Hart.loseStorage (t : Hart) (e : QEntry) (log : Word) : Hart :=
  let unit := (log.extractLsb' 3 4).toNat
  let reg := (log.extractLsb' 13 5).toNat
  let elem := (log.extractLsb' 18 13).toNat
  let keys := (e.matUses t e.restart (t.actStop e)).1
  let gone : List Nat := match unit with
    | 0 => [64 * reg + elem * typeWidth e.ty / 512]
    | 1 => (e.reads.filter fun u => decide (u.reg = 32 + reg)).map fun u => 2016 + u.reg
    | 3 => (keys.filter fun k => decide (k < 5000 ∧ k % 32 = reg)).map lostKey
    | 4 => (keys.filter fun k => decide (6000 ≤ k)).map lostKey
    | 5 => (keys.filter fun k => decide (5000 ≤ k ∧ k < 6000)).map lostKey
    | _ => []
  { t with lost := t.lost ++ (gone.filter fun x => !t.lost.contains x).dedup }

/-- The member that a position of a report names: of the leading convoy of the queue, or behind 32 of the tile queue. -/
def Hart.memberAt (t : Hart) (pos : Nat) : Option QEntry :=
  if pos < queueSize then (leadConvoy t.queue)[pos]? else t.tile[pos - queueSize]?
/-- An uncorrectable error that a unit reports of a member (R358, R379): its record, the loss of the storage, and the trap, without its
restart where the cluster is being retired (R365). -/
def State.eccTrap (s : State) (h pos : Nat) (e : QEntry) (tval log : Word) : State :=
  let was := (s.hart h).vrf
  let s := ((s.recordError h log).asHart h).withMe fun t => t.loseStorage e log
  let s := if pos < queueSize then s.vectorFault pos causeEcc tval e.restart
    else s.vectorFaultIn s.me.tile (pos - queueSize) causeEcc tval e.restart
  if log.getLsbD 39 then (s.loseLanes h).dropImage h was else s

/-- VECTOR_TRAP: a member that has started its convoy or stands in the tile queue meets a fault that its unit reports: an
uncorrectable error, or a lost cluster; a fault of its own accesses is met when it runs (R358, R379). -/
def execVectorTrap (h pos : Nat) (cause : Byte) (tval log : Word) (s : State) : Out :=
  .next (match (s.hart h).memberAt pos with
    | none => s
    | some e =>
      if !(s.hart h).run.lanesWork || e.done || s.faultWaits h || (decide (pos < queueSize) && (s.hart h).replayFirst pos) then s
      else if cause = causeEcc then s.eccTrap h pos e tval log
      else if cause = causeLaneoff then (s.setHart h { s.hart h with laneDue := true }).laneTrap h
      else if (s.hart h).groupMembers.contains pos then (s.asHart h).stepMember pos
      else s)

/-! ### Asynchronous traps (R130, R311, R357) -/

/-- TVAL of ENGFAULT or COLLFAULT: the lowest faulted slot of that kind and its context (15_io_dies R311). -/
def Hart.asyncTval (t : Hart) (coll : Bool) : Word :=
  match t.ctxs.find? fun e => e.2.bound && e.2.faulted && decide (8 ≤ e.1) == coll with
  | none => if coll then 8 else 0
  | some e => BitVec.ofNat 64 (e.1 % 8 + (if coll then 8 else 0) + e.2.key / 2048 * 16 + e.2.key % 1024 * 32)
/-- The asynchronous trap a hart takes at a boundary between two scalar instructions, the lower code first (R130,
R357): not while an access of an instruction under way awaits its answer. -/
def Hart.asyncEntry (t : Hart) : Option Hart :=
  if (t.priv = .user || t.ie) && t.wait.isNone && t.rep.isNone && decide (t.run = .running) &&
      !(t.asks.any fun a => a.own = 0) then
    if t.engFault then some ({ t with engFault := false }.enterTrap causeEngfault true (t.asyncTval false) t.pc)
    else if t.collFault then some ({ t with collFault := false }.enterTrap causeCollfault true (t.asyncTval true) t.pc)
    else none
  else none
/-- ASYNC_TRAP. -/
def execAsyncTrap (h : Nat) (s : State) : Out :=
  .next (match (s.hart h).asyncEntry with
    | none => s
    | some t => s.setHart h t)

/-! ### Stopped harts and fault domains (R130, R294-R296) -/

/-- A hart's locket saved in its locket space; its own image area holds what its queue has left (R362, R368). -/
def State.saveLocket (s : State) (h : Nat) : State :=
  let s := s.stopHart h
  match (s.hart h).space with
  | none => s
  | some ga => s.writeLocket h (fun i => ga + 4096 + i) false
/-- The collectives of contexts fail, so that members that depend on them fault with REASON 0 (R204, R296). -/
def State.failCtxs (s : State) (keys : List Nat) : State :=
  keys.foldl (fun s k =>
    ((s.ctx k).coll.filter fun m => m.done.isNone).foldl (fun s m => s.abortOp k m) s) s
/-- The contexts of a region: bound to its harts in slots and in lockets, or detached with one. -/
def State.regionCtxs (s : State) (r : Nat) : List Nat := (s.ctxs.filter fun c => c.2.region = some r).map (·.1)
/-- The harts of a region that have stopped on a trap they could not take, in the order in which they stopped. -/
def State.stoppedHarts (s : State) (r : Nat) : List Nat := s.stops.filter fun h => (s.hart h).region = some r
/-- What the completion word of a region of a stopped domain tells (R294, R296): STOP and the first cause where a hart of its
own stopped, FDS where that of another region stopped first, and which contexts it held. -/
def State.stopBits (s : State) (r first : Nat) : Word :=
  let held (coll : Bool) : Bool := (s.regionCtxs r).any fun k => decide (1024 ≤ k % 2048) == coll
  let own : Word := match (s.stoppedHarts r).head?.map fun h => (s.hart h).run with
    | some (.stopped cause _) => 0x200 ||| (cause.setWidth 64 <<< 16)
    | _ => 0
  own ||| (if r = first then 0 else 0x400) ||| (if held false then 0x40 else 0) ||| (if held true then 0x80 else 0)
/-- A region of a stopped domain: its queued grants are dropped and no further one is made (R296). -/
def State.closeRegion (s : State) (r : Nat) : State :=
  let g := s.region r
  s.setRegion r { g with stages := g.stages.map fun (t : Stage) => { t with closing := true, queued := 0 } }
/-- The lockets of a region leave it. -/
def State.dropLockets (s : State) (r : Nat) : State :=
  let gone := s.lockets.filter fun l => l.region = r
  { s with
    lockets := s.lockets.filter fun l => l.region ≠ r
    pool := (gone.map fun (l : Locket) => l.ga) ++ s.pool }
/-- A hart has stopped at its granularity: it is held, or it stopped on a trap and its units have come to rest. -/
def State.atRest (s : State) (h : Nat) : Bool :=
  match (s.hart h).run with
  | .held | .free => true
  | .stopped _ _ => (List.range 6).all fun n => !s.unitBusy h n
  | _ => false
/-- FAULT_DOMAIN_STOP: a stop reaches every hart of the domain of a region; once all are at rest, each is saved and freed, and
the domain's regions are done (R296). -/
def State.stopDomain (s : State) (r : Nat) : State :=
  let ds := s.domain r
  let s := ds.foldl State.closeRegion s
  let hs := ds.flatMap s.slotHarts
  let s := hs.foldl State.sendHold s
  let s := hs.foldl State.drainNb s
  if !hs.all s.atRest then s
  else
    let s := s.failCtxs (ds.flatMap s.regionCtxs)
    let s := hs.foldl State.saveLocket s
    let first := ((s.stops.filterMap fun h => (s.hart h).region).filter ds.contains).headD r
    let s := ds.foldl (fun s q => (s.completionOr q (s.stopBits q first)).dropLockets q) s
    let s := hs.foldl (fun s h =>
      let q := (s.hart h).region.getD r
      (s.freeSlot h).releaseCore q (coreOf h)) s
    ds.foldl State.settleRegion s

/-- STOPPED_HART_SAVE (R130, R295, R296): a hart of no region is held. -/
def execStoppedHartSave (h : Nat) (s : State) : Out :=
  .next (match (s.hart h).run with
    | .stopped _ _ =>
      match (s.hart h).region with
      | none =>
        let s := s.drainNb h
        if s.atRest h then
          let s := s.stopHart h
          s.setHart h { s.hart h with run := .held }
        else s
      | some r => s.stopDomain r
    | _ => s)

/-! ### Page walks (R241, R244, R245) -/

/-- PAGE_WALK_COMPLETE: a walk for a hart's access fills the translations of its die; one that fails, or meets an entry that it cannot
read, fills nothing, and the access itself takes the fault or waits. -/
def execPageWalkComplete (h : Nat) (va : Word) (s : State) : Out :=
  let p := s.party h
  .next (if decide ((s.hart h).run = .free) || decide (2 ^ 52 ≤ va.toNat) ||
      (s.walkPath va.toNat 5 p.ptroot.toNat).any fun a => (s.unread a).isSome then s
    else match s.walkFrom va.toNat 5 p.ptroot.toNat with
      | none => s
      | some pg =>
        let e : TlbEntry := ⟨p.die, p.tenant, p.ptroot, va.toNat / 2 ^ pg.log, pg.ent, pg.log⟩
        { s with tlb := e :: s.tlb.filter fun x =>
            !decide (x.die = e.die ∧ x.tenant = e.tenant ∧ x.ptroot = e.ptroot ∧ x.page = e.page ∧ x.log2 = e.log2) })

end Sys2Proof.Machine
end

