-- ==== Sys2Proof/Machine/Waits.lean ====
section
/-!
DEFINITION. Machine/Waits.lean: the steps by which a waiting instruction goes on (06_memory_isa R177-R184; 04_scalar
R115-R127; 01_machine R19, R25; 07_matrix_isa R207).

A waiting instruction is tried again: it completes, or it goes on waiting. Each step here concerns the instructions that
its row names.
-/

namespace Sys2Proof.Machine

/-! ### Trying a waiting instruction again -/

/-- The waits of R180 and WFI. -/
def retryWait (i : Instr) (s : State) : Out :=
  match i with
  | .waitc f => execWaitc f s
  | .waitt f => execWaitt f s
  | .waitg f => execWaitg f s
  | .waitwEq f => execWaitwEq f s
  | .waitwNe f => execWaitwNe f s
  | .waitwGen f => execWaitwGen f s
  | .waitwLtn f => execWaitwLtn f s
  | .qpop f => execQpop f s
  | .qpush f => execQpush f s
  | .wfi => execWfi s
  | .mmodeOn f => execMmodeOn f s
  | _ => .next s
/-- The waits on remote or host words. -/
def retryWord (i : Instr) (s : State) : Out :=
  match i with
  | .waitwEq f => execWaitwEq f s
  | .waitwNe f => execWaitwNe f s
  | .waitwGen f => execWaitwGen f s
  | .waitwLtn f => execWaitwLtn f s
  | _ => .next s
/-- The releases. -/
def retryRelease (i : Instr) (s : State) : Out :=
  match i with
  | .phaseRel f => execPhaseRel f s
  | .phaseAr f => execPhaseAr f s
  | .endHart => execEndHart s
  | _ => .next s
/-- SETVL, FORK, MERGE and END. -/
def retrySetvl (i : Instr) (s : State) : Out :=
  match i with
  | .setvl f => execSetvl f s
  | _ => .next s
def retryFork (i : Instr) (s : State) : Out :=
  match i with
  | .fork f => execFork f s
  | _ => .next s
def retryMerge (i : Instr) (s : State) : Out :=
  match i with
  | .merge => execMerge s
  | _ => .next s
def retryEnd (i : Instr) (s : State) : Out :=
  match i with
  | .endHart => execEndHart s
  | _ => .next s
def retryTile (i : Instr) (s : State) : Out :=
  match i with
  | .mmodeOn f => execMmodeOn f s
  | _ => .next s
/-- Every other instruction that waits: for the vector queue, a counter, a segment, clusters, or room in a context. -/
def retryDrain (i : Instr) (s : State) : Out :=
  match i with
  | .time f => execTime f s
  | .ifence => execIfence s
  | .phaseRel f => execPhaseRel f s
  | .phaseAcq f => execPhaseAcq f s
  | .phaseAr f => execPhaseAr f s
  | .qpush f => execQpush f s
  | .ccset f => execCcset f s
  | .setvl f => execSetvl f s
  | .fork f => execFork f s
  | .merge => execMerge s
  | .endHart => execEndHart s
  | .lksv f => execLksv f s
  | .lkld f => execLkld f s
  | .copy f => execCopy f s
  | .copy2 f => execCopy2 f s
  | .copyx f => execCopyx f s
  | .fill f => execFill f s
  | .pref f => execPref f s
  | .coll f => execColl f s
  | .csrr f => execCsrr f s
  | .csrw f => execCsrw f s
  | .csrs f => execCsrs f s
  | .csrc f => execCsrc f s
  | .tret => execTret s
  | .launch f => execLaunch f s
  | _ => .next s

/-- A running hart's waiting instruction tried again. -/
def State.retry (s : State) (h : Nat) (f : Instr → State → Out) : Out :=
  match (s.hart h).wait with
  | none => .next s
  | some w => if s.runs h then f w.instr (s.asHart h) else .next s

/-! ### The steps -/

/-- WAIT_RETURN: a wait or a WFI returns once its condition is met (R180, R127). -/
def execWaitReturn (h : Nat) (s : State) : Out := s.retry h retryWait

/-- WDEADLINE_EXPIRY: PTIME has moved on; a wait whose deadline it has reached returns (R180). -/
def execWdeadlineExpiry (h : Nat) (s : State) : Out :=
  let s := if (s.hart h).wait.any fun w => w.deadline ≠ 0 then s.tickTime else s
  s.retry h fun i s => if s.expired then retryWait i s else .next s

/-- WAITW_POLL: a WAITW reads its word again (R184). -/
def execWaitwPoll (h : Nat) (s : State) : Out := s.retry h retryWord

/-- SEAL_SEND: a release whose earlier writes have been sent sends its seals (R177). -/
def execSealSend (h : Nat) (s : State) : Out := s.retry h retryRelease

/-- DRAINED_RESUME: an instruction that waits for its hart's vector queue, or for other work of its own, goes on (R25,
R115). -/
def execDrainedResume (h : Nat) (s : State) : Out := s.retry h retryDrain

/-- SHARE_ADOPTION: a SETVL adopts the pending share (R19). -/
def execShareAdoption (h : Nat) (s : State) : Out := s.retry h retrySetvl

/-- FORK_SPLIT: a FORK splits the hart (R119). -/
def execForkSplit (h : Nat) (s : State) : Out := s.retry h retryFork

/-- MERGE_COMPLETE: a child is handed back, or child 0 reassembles the parent (R120). -/
def execMergeComplete (h : Nat) (s : State) : Out := s.retry h retryMerge

/-- END_COMPLETE: after its waits END releases, reports and frees the slot (R122). -/
def execEndComplete (h : Nat) (s : State) : Out := s.retry h retryEnd

/-- TILE_QUEUE_GRANT: the hart of the core that is first by priority and arrival receives the freed tile queue (R207). -/
def execTileQueueGrant (core : Nat) (s : State) : Out :=
  let waits := (coreSlots core).filter fun h => s.runs h && (s.hart h).wait.any Wait.forTile
  let since (h : Nat) : Nat := ((s.hart h).wait.map (·.since)).getD 0
  match (waits.foldl (fun l h => insertBy (fun a b =>
    decide (s.prioOf b < s.prioOf a) || (decide (s.prioOf a = s.prioOf b) && decide (since a < since b))) h l) []).head? with
  | none => .next s
  | some h => s.retry h retryTile

end Sys2Proof.Machine
end

