-- ==== Sys2Proof/Machine/Fabric.lean ====
section
/-!
DEFINITION. Machine/Fabric.lean: records performed at their home (18_fabric R336; 10_consistency R257), the receive
channels of the package (R326-R330), frames and reliable connections (R334-R338), rotor slots and training (R332,
R339, R340), and peers that go down (R341).
-/

namespace Sys2Proof

/-! ### Frames (R335, R337) -/

/-- The fields of the forwarding header. -/
def Frame.ddev (f : Frame) : Nat := (f.fwd.extractLsb' 34 14).toNat
def Frame.ddie (f : Frame) : Nat := (f.fwd.extractLsb' 30 4).toNat
def Frame.sdev (f : Frame) : Nat := (f.fwd.extractLsb' 16 14).toNat
def Frame.cls (f : Frame) : Nat := (f.fwd.extractLsb' 14 2).toNat
def Frame.hops (f : Frame) : Nat := (f.fwd.extractLsb' 12 2).toNat
def Frame.relay (f : Frame) : Bool := f.fwd.getLsbD 11
/-- The fields of the connection header. -/
def Frame.seq (f : Frame) : BitVec 24 := f.chdr.extractLsb' 0 24
def Frame.ack (f : Frame) : BitVec 24 := f.chdr.extractLsb' 24 24
def Frame.sackp (f : Frame) : Bool := f.chdr.getLsbD 48
def Frame.ackonly (f : Frame) : Bool := f.chdr.getLsbD 49
def Frame.rst (f : Frame) : Bool := f.chdr.getLsbD 50
def Frame.nrec (f : Frame) : Nat := (f.chdr.extractLsb' 56 8).toNat
/-- The 16 bytes of a record's header (R336). -/
def recordHeader (r : Record) : List Byte :=
  Machine.natBytes 16 (r.op.toNat + r.len % 512 * 2 ^ 8 + r.shart.toNat * 2 ^ 17 + (if r.trk then 2 ^ 28 else 0) +
    r.tag.toNat * 2 ^ 32 + r.addr.toNat * 2 ^ 64)
/-- The bytes of a frame but for its FCS: the forwarding header and the EtherType with their most significant byte first, in
Ethernet-switch mode behind the addresses and the EtherType, every later field with its least significant one first (R335, R343). -/
def Frame.bytes (f : Frame) : List Byte :=
  let big (n v : Nat) : List Byte := (Machine.natBytes n v).reverse
  (match f.macs with
    | none => big 6 f.fwd.toNat ++ big 2 f.etype.toNat
    | some m => big 6 m.1.toNat ++ big 6 m.2.toNat ++ big 2 f.etype.toNat ++ big 6 f.fwd.toNat) ++
  (if f.cls = 3 then f.time
    else Machine.natBytes 8 f.chdr.toNat ++ (if f.sackp then Machine.natBytes 8 f.sack.toNat else []) ++
      f.recs.flatMap fun r => recordHeader r ++ r.data)
/-- A frame as an intermediate sends it on: HOPS becomes 1 (R335). -/
def Frame.hopped (f : Frame) : Frame := { f with fwd := (f.fwd &&& ~~~(3#48 <<< 12)) ||| 1#48 <<< 12 }
/-- The bytes of a frame's records (R335, R336). -/
def recsBytes (l : List Record) : Nat := (l.map fun r => 16 + r.data.length).sum
/-- The bytes of a frame from its forwarding header to its records' end, and its FCS (R335). -/
def Frame.size (f : Frame) : Nat := 28 + recsBytes f.recs

end Sys2Proof

namespace Sys2Proof.Machine

/-! ### Time messages (19_time R349) -/

/-- The 32 bytes of a time message of a TYPE (19_time R349). -/
def timeBytes (ty : Nat) (m : TimeMsg) : List Byte :=
  natBytes 8 (ty + m.gmpri.toNat * 2 ^ 8 + m.seq.toNat * 2 ^ 16 + m.gmdev.toNat * 2 ^ 32) ++ natBytes 8 m.t.toNat ++
    natBytes 8 m.bound.toNat ++ natBytes 8 0
/-- A time message read from its bytes: none with a reserved TYPE or a reserved bit that is not zero (R349, R335). -/
def timeMessage (src : Nat) (bs : List Byte) : Option (Nat × TimeMsg) :=
  let v := BitVec.ofNat 256 (bytesNat bs)
  if bs.length = 32 ∧ v.extractLsb' 0 4 ≤ 4 ∧ v.extractLsb' 4 4 = 0 ∧ v.extractLsb' 46 18 = 0 ∧ v.extractLsb' 192 64 = 0 then
    some ((v.extractLsb' 0 4).toNat, ⟨src, v.extractLsb' 8 8, v.extractLsb' 16 16, v.extractLsb' 32 14, v.extractLsb' 64 64,
      v.extractLsb' 128 64⟩)
  else none

/-! ### Records at their home (R336) -/

/-- A record's address lies on this device, in populated locations. -/
def State.homed (s : State) (r : Record) (n : Nat) : Bool :=
  let a := r.addr.toNat
  !gaHost a && decide (gaChip a = s.chip) && s.pagePopulated a (max n 1)
/-- A record of register space: naturally aligned words only. -/
def recordIsReg (r : Record) : Bool := decide (gaKind r.addr.toNat = 3)

/-- The hart of a device whose records a home counts (10_consistency R257). -/
def recordSource (r : Record) : Nat := r.srcDev * 2048 + r.shart.toNat
/-- A record of a hart: those of engine and collective contexts come from an I/O die and bear a context's number, and no seal counts
them (R257). -/
def recordOfHart (r : Record) : Bool := decide (r.srcDie < 8)
/-- A poisoned line among n bytes that a write of whole lines does not clear (21_service R377, R379). -/
def State.poisonedAt (s : State) (a n : Nat) : Bool :=
  (gaRange a n).any fun b => s.poisoned b &&
    decide (((gaRange a n).filter fun c => s.canon c / 64 = s.canon b / 64).length < 64)
/-- Bytes written by a record: poison of the lines written whole is cleared. -/
def State.recordWrite (s : State) (a : Nat) (bs : List Byte) : State :=
  let lines := ((gaRange a bs.length).map fun b => s.canon b / 64).dedup
  { s.writeBytes a bs with poison := s.poison.filter fun l => !lines.contains l }

/-- The answer to a record; one from a secure granule is of the secure world (21_service R382). -/
def State.answer (s : State) (r : Record) (op : BitVec 8) (data : List Byte) : State :=
  s.sendTo r.srcDev r.srcDie false (s.secure.contains (s.canon r.addr.toNat / 2 ^ 30))
    ⟨s.chip, gaDie r.addr.toNat % 10, op, data.length, r.shart, false, r.tag, r.addr, data, none⟩

/-- Seals whose count has been reached are acknowledged (SEAL, R257). -/
def State.ackSeals (s : State) : State :=
  let due (r : Record) : Bool := decide (r.addr.toNat % 2 ^ 32 ≤ Sparse.get 0 s.sealCount (recordSource r))
  let s' := (s.pendSeals.filter due).foldl (fun s r =>
    { s.answer r 0x09 [] with
      sealCount := Sparse.modify 0 s.sealCount (recordSource r) fun n => n - r.addr.toNat % 2 ^ 32 }) s
  { s' with pendSeals := s.pendSeals.filter fun r => !due r }
/-- A write or atomic has been performed: it is counted for its hart's seals, and listed for a PERFACK when it is
tracked (R257, R329). -/
def State.performedRecord (s : State) (r : Record) : State :=
  State.ackSeals { s with
    sealCount := if recordOfHart r then Sparse.modify 0 s.sealCount (recordSource r) (· + 1) else s.sealCount
    perfacks := if r.trk then s.perfacks ++ [r] else s.perfacks }

/-- READ: the bytes are read and returned; an uncorrectable error is logged and never delivered (21_service R379). -/
def State.serveRead (s : State) (r : Record) : State :=
  let a := r.addr.toNat
  if !s.homed r r.len then s
  else if (recordIsReg r) then s.answer r 0x06 (natBytes r.len (s.regLoad false a r.len))
  else if (gaRange a r.len).any s.poisoned then s.logDie (s.homeDie a) (errorUnit a) a
  else s.answer r 0x06 ((gaRange a r.len).map s.readByte)
/-- WRITE (15_io_dies R319 gives its pieces). -/
def State.serveWrite (s : State) (r : Record) : State :=
  let a := r.addr.toNat
  let n := r.data.length
  if !s.homed r n then s
  else if (recordIsReg r) then (s.regStore false true a n (bytesNat r.data)).performedRecord r
  else if s.poisonedAt a n then s.logDie (s.homeDie a) (errorUnit a) a
  else (s.recordWrite a r.data).performedRecord r
/-- WRITEB: data bytes, then their bit masks (06_memory_isa R165). -/
def State.serveWriteb (s : State) (r : Record) : State :=
  let a := r.addr.toNat
  let n := r.data.length / 2
  if !s.homed r n || (recordIsReg r) then s
  else if (gaRange a n).any s.poisoned then s.logDie (s.homeDie a) (errorUnit a) a
  else
    (s.performBytes ((List.range n).map fun i =>
      ⟨a + i, r.data.getD i 0, r.data.getD (n + i) 0⟩)).performedRecord r

/-- Operands of an atomic record in order; CAS carries each with its compare value after it. R227 gives the order of the list's
elements and not where their compare values stand: that they follow their operands one by one is this model's choice (DESIGN
CHOICE, log entry 41). -/
def atomicArgs (cas : Bool) (b : Nat) : Nat → List Byte → List (Nat × Nat)
  | 0, _ => []
  | n + 1, bs =>
    let k := if cas then 2 * b else b
    if bs.length < k then []
    else (bytesNat (bs.take b), if cas then bytesNat ((bs.drop b).take b) else 0) :: atomicArgs cas b n (bs.drop k)
/-- What another device's QPUSH has sent of its item so far joins what came before (log entry 60). -/
def State.pushPart (s : State) (r : Record) (bs : List Byte) : State :=
  { s with pushes := Sparse.modify [] s.pushes (recordSource r) (· ++ bs) }
/-- The last part of an item that another device's hart pushes: it goes into the queue, or the answer says why not: 1 full, 2 closed or
no queue of this package (log entry 60). -/
def State.pushHere (s : State) (r : Record) (bs : List Byte) : State :=
  let a := r.addr.toNat
  let q := qHeader (s.readGa a 32)
  let item := Sparse.get [] s.pushes (recordSource r) ++ bs
  let s := { s with pushes := Sparse.set [] s.pushes (recordSource r) [] }
  if !s.openQueue a q || q.closed then s.answer r 0x07 (natBytes 8 2)
  else if q.depth ≤ q.occupancy then s.answer r 0x07 (natBytes 8 1)
  else (s.pushItem a q (bytesNat item)).answer r 0x07 (natBytes 8 0)
/-- ATOMIC and COMBINED: the operands are performed at the home as one block, and the old value is returned when the
control word asks for it (08_prog_histogram R227). Codes 13 to 15 are this model's records of far queues and clasp words (log entry
60). -/
def State.serveAtomic (s : State) (r : Record) (skip : Nat) : State :=
  let a := r.addr.toNat
  let cw := bytesNat (r.data.take 8)
  let op := cw % 16
  let ty := BitVec.ofNat 4 (cw / 16)
  let b := typeWidth ty / 8
  if !s.homed r b || (recordIsReg r) || decide (b = 0) then s
  else if (gaRange a b).any s.poisoned then s.logDie (s.homeDie a) (errorUnit a) a
  else if op = 13 then (s.pushPart r (r.data.drop 8)).performedRecord r
  else if op = 14 then (s.pushHere r (r.data.drop 8)).performedRecord r
  else if op = 15 then (s.claspAdd a (bytesNat ((r.data.drop 8).take 8))).performedRecord r
  else
    let m := s.readGa a b
    let args := atomicArgs (op = 9) b r.data.length (r.data.drop skip)
    let v := args.foldl (fun m x => atomicOp op ty m x.1 x.2) m
    let s := (s.writeGa a b v).performedRecord r
    let s := if s.headers.contains (s.canon a) then s.closeAllQueues else s
    if cw.testBit 8 then s.answer r 0x07 (natBytes b m) else s

/-! ### Answers (R177, R227, R243, R329, R336) -/

/-- The answer to a request, if it is the one. -/
def Ask.take (dev : Nat) (tag : BitVec 32) (data : List Byte) (a : Ask) : Ask :=
  if a.dev = dev ∧ a.tag = tag ∧ !a.settled then { a with data := some data } else a
/-- A request to a device that has failed before it answered (09_address R243). -/
def Ask.lose (dev : Nat) (a : Ask) : Ask := if a.dev = dev ∧ !a.settled then { a with failed := true } else a
/-- A device's answers put into every request of a hart that awaits them: elements whose answers have all come stand in the rows
to land. -/
def Hart.mapAsks (f : Ask → Ask) (t : Hart) : Hart :=
  { t with
    asks := t.asks.map f
    nb := t.nb.map fun o => NbOp.settle { o with asks := o.asks.map f } }
/-- The same of a context's commands. -/
def Ctx.mapXfers (f : Xfer → Xfer) (x : Ctx) : Ctx :=
  { x with
    eng := x.eng.map fun c => { c with xfer := f c.xfer }
    coll := x.coll.map fun c => { c with xfer := f c.xfer } }
/-- A hart has asked a device and awaits its answer, with the TAG if one is given. -/
def Hart.awaits (t : Hart) (dev : Nat) (tag : Option (BitVec 32)) : Bool :=
  (t.asks ++ t.nb.flatMap (·.asks)).any fun a => decide (a.dev = dev) && tag.all (· = a.tag) && !a.settled
/-- A context has commands that other devices owe answers. -/
def Ctx.busyFar (x : Ctx) : Bool :=
  (x.eng.map (·.xfer) ++ x.coll.map (·.xfer)).any fun f => !f.asks.isEmpty || !f.acks.isEmpty
/-- Every harts that satisfies a test changed, and every context that another device owes something. -/
def State.mapHarts (s : State) (p : Hart → Bool) (f : State → Nat → State) : State :=
  ((s.harts.filter fun e => p e.2).map (·.1)).foldl f s
def State.mapXfers (s : State) (f : Xfer → Xfer) : State :=
  ((s.ctxs.filter fun c => c.2.busyFar).map (·.1)).foldl (fun s k => s.setCtx k ((s.ctx k).mapXfers f)) s

/-- READRESP and ATOMRESP: the bytes read, or the old value, reach whoever asked with that TAG, and the request holds no later
record (R227, R329, R336). -/
def State.takeAnswer (s : State) (r : Record) : State :=
  let s := s.mapHarts (·.awaits r.srcDev (some r.tag)) fun s h =>
    (s.setHart h ((s.hart h).mapAsks (Ask.take r.srcDev r.tag r.data))).untrack h r.srcDev [r.tag]
  s.mapXfers fun f => { f with asks := f.asks.map (Ask.take r.srcDev r.tag r.data) }
/-- SEAL: acknowledged once the home has performed as many records of the hart as it counts (R257). -/
def State.takeSeal (s : State) (r : Record) : State :=
  State.ackSeals { s with pendSeals := s.pendSeals ++ [r] }
/-- SEALACK: the release that sent this seal no longer awaits that device (06_memory_isa R177). -/
def State.takeSealAck (s : State) (r : Record) : State :=
  s.mapHarts (fun t => t.sealing.contains (r.srcDev, r.tag)) fun s h =>
    s.setHart h { s.hart h with sealing := (s.hart h).sealing.filter (· ≠ (r.srcDev, r.tag)) }

/-- The TAGs that a PERFACK lists (R329, R336). -/
def recordTags (r : Record) : List (BitVec 32) :=
  let n := min (bytesNat (r.data.take 4)) 32
  (List.range n).map fun i => BitVec.ofNat 32 (bytesNat ((r.data.drop (4 + 4 * i)).take 4))
/-- PERFACK: the records it lists have been performed at their home: they hold no later record of their hart to the same lines,
and what waits for them goes on (R329, 06_memory_isa R169, 15_io_dies R309). -/
def State.takePerfack (s : State) (r : Record) : State :=
  let mine (x : Nat × BitVec 32) : Bool := decide (x.1 = r.srcDev) && (recordTags r).contains x.2
  let s := s.mapHarts (fun t => t.tracked.any (fun x => mine (x.dev, x.rcd.tag)) || t.nb.any fun o => o.tags.any mine)
    fun s h => (s.setHart h { s.hart h with nb := (s.hart h).nb.map fun o =>
      { o with tags := o.tags.filter fun x => !mine x } }).untrack h r.srcDev (recordTags r)
  s.mapXfers fun f => { f with acks := f.acks.filter fun x => !mine x }

/-! ### The steps of R336 -/

/-- The bytes that a record's location has. -/
def recordBytes (r : Record) : Nat :=
  match r.op.toNat with
  | 0x01 => r.len
  | 0x02 => r.data.length
  | 0x03 => r.data.length / 2
  | _ => typeWidth (BitVec.ofNat 4 (bytesNat (r.data.take 8) / 16)) / 8
/-- Two records come from one hart. -/
def sameSender (a b : Record) : Bool := decide (a.srcDev = b.srcDev ∧ a.srcDie = b.srcDie ∧ a.shart = b.shart)
/-- A record waits at its home: its die is out of service or its granule is being zeroed (21_service R383, R384), or it is of the ordered
class and an earlier one of its hart waits (R328). -/
def State.waitsHome (s : State) (ord : Bool) (r : Record) : Bool :=
  (s.homed r (recordBytes r) && (gaRange r.addr.toNat (recordBytes r)).any s.mustWait) ||
    (ord && s.held.any fun x => x.1 && sameSender x.2 r)
/-- A record performed at its home, once it can be; whoever waits for a word sees it (06_memory_isa R184). -/
def State.atHome (s : State) (ord : Bool) (r : Record) (f : State → Record → State) : State :=
  if s.waitsHome ord r then { s with held := s.held ++ [(ord, r)] } else (f s r).noticeAll
/-- ATOMIC and COMBINED: one operand after the 8-byte control word, or a control word, an element count of 8 bytes and the
operands in index order (log entry 41). -/
def State.serveSingle (s : State) (r : Record) : State := s.serveAtomic r 8
def State.serveMany (s : State) (r : Record) : State := s.serveAtomic r 16

/-- A record handed on: what its operation does at its destination (R336). -/
def State.deliver (s : State) (ord : Bool) (r : Record) : State :=
  match r.op.toNat with
  | 0x01 => s.atHome ord r State.serveRead
  | 0x02 => s.atHome ord r State.serveWrite
  | 0x03 => s.atHome ord r State.serveWriteb
  | 0x04 => s.atHome ord r State.serveSingle
  | 0x05 => s.atHome ord r State.serveMany
  | 0x06 | 0x07 => s.takeAnswer r
  | 0x08 => s.takeSeal r
  | 0x09 => s.takeSealAck r
  | 0x0A => s.collPart s.chip r
  | 0x0B => s.takeParked r
  | 0x0C => s.takePerfack r
  | 0x0D => s.takeAborted r
  | _ => s
/-- The records that wait at their homes, tried again in the order in which they came. -/
def State.serveHeld (s : State) : State :=
  if s.held.isEmpty then s else s.held.foldl (fun s x => s.deliver x.1 x.2) { s with held := [] }
/-- An operation of R336's table. -/
def recordKnown (r : Record) : Bool := decide (1 ≤ r.op.toNat ∧ r.op.toNat ≤ 0x0D)

/-- READ. -/
def execRead (r : Record) (s : State) : Out := .next (s.atHome false { r with op := 0x01 } State.serveRead)
/-- WRITE. -/
def execWrite (r : Record) (s : State) : Out := .next (s.atHome false { r with op := 0x02 } State.serveWrite)
/-- WRITEB. -/
def execWriteb (r : Record) (s : State) : Out := .next (s.atHome false { r with op := 0x03 } State.serveWriteb)
/-- ATOMIC. -/
def execAtomic (r : Record) (s : State) : Out := .next (s.atHome false { r with op := 0x04 } State.serveSingle)
/-- COMBINED. -/
def execCombined (r : Record) (s : State) : Out := .next (s.atHome false { r with op := 0x05 } State.serveMany)
/-- READRESP. -/
def execReadresp (r : Record) (s : State) : Out := .next (s.takeAnswer r)
/-- ATOMRESP: the old value; the merge buffer forms each element's from it (R227). -/
def execAtomresp (r : Record) (s : State) : Out := .next (s.takeAnswer r)
/-- SEAL. -/
def execSeal (r : Record) (s : State) : Out := .next (s.takeSeal r)
/-- SEALACK. -/
def execSealack (r : Record) (s : State) : Out := .next (s.takeSealAck r)
/-- PERFACK. -/
def execPerfack (r : Record) (s : State) : Out := .next (s.takePerfack r)

/-- PERFACK_SEND_TIMER of a die: a PERFACK lists up to 32 TAGs of records performed there, to each of their senders
(R329). -/
def execPerfackSendTimer (die : Nat) (s : State) : Out :=
  let mine := s.perfacks.filter fun r => s.homeDie r.addr.toNat = die
  let first := mine.head?.map fun r => (r.srcDev, r.srcDie)
  .next (match first with
    | none => s
    | some d =>
      let now := (mine.filter fun r => (r.srcDev, r.srcDie) = d).take 32
      let data := natBytes 4 now.length ++ now.flatMap fun r => natBytes 4 r.tag.toNat
      let s := s.sendTo d.1 d.2 false false ⟨s.chip, die, 0x0C, data.length, 0, false, 0, 0, data, none⟩
      { s with perfacks := s.perfacks.filter fun r => !now.contains r })

/-! ### Receive channels (R326-R328, R330) -/

def State.conn (s : State) (p : Nat) : Conn := Sparse.get Conn.reset s.conns p
def State.setConn (s : State) (p : Nat) (c : Conn) : State := { s with conns := Sparse.set Conn.reset s.conns p c }
/-- The I/O die that holds a connection (R338). -/
def State.connDie (s : State) (p : Nat) : Nat :=
  let d := 8 + p % 2
  if s.iodUp d then d else 17 - d

/-- A receive channel of a die. -/
def Die.chan (v : Die) (c : Nat) : Chan := Sparse.get Chan.reset v.chans c
def State.setChan (s : State) (d c : Nat) (x : Chan) : State :=
  s.setDie d { s.die d with chans := Sparse.set Chan.reset (s.die d).chans c x }
/-- The writer that the bead visits after one: ascending die numbers, cyclically, without the reader. -/
def nextWriter (reader w : Nat) : Nat :=
  let n := (w + 1) % 10
  if n = reader then (n + 1) % 10 else n
/-- The writer that a channel's bead comes to next. -/
def Chan.at (c : Chan) (reader : Nat) : Nat := if c.bead = reader then nextWriter reader reader else c.bead
/-- The records of a hold: 16 beats of 64 bytes (R326). -/
def holdful : Nat → List Outgoing → List Outgoing
  | _, [] => []
  | room, x :: t =>
    if 16 + x.rcd.data.length ≤ room then x :: holdful (room - (16 + x.rcd.data.length)) t else []
/-- The die from which a record crosses to another die of the package: one of another device comes from its I/O die (R328). -/
def State.writerOf (s : State) (r : Record) : Nat := if r.srcDev = s.chip then r.srcDie else s.connDie r.srcDev
/-- A record may go on a channel: one of the ordered class on its hart's alone (R328). -/
def takesChannel (x : Outgoing) (ch : Nat) : Bool :=
  decide (x.cls ≠ 0 ∨ ch = (x.rcd.shart.toNat / 8 % 16 + x.rcd.shart.toNat % 8) % 8)
/-- The oldest hold of a writer that is in flight on a channel. -/
def State.flying (s : State) (die ch writer : Nat) : Option (Nat × Nat × Hold) :=
  s.holdsOut.find? fun x => decide (x.1 = die ∧ x.2.1 = ch ∧ x.2.2.writer = writer)

/-- BEAD_ARRIVAL: the bead reaches the writer whose turn it is, which sends one hold to the reader, under the bead's generation: the
first that is to be sent again, else one of its waiting records; it re-emits the bead (R326, R327). -/
def execBeadArrival (die ch writer : Nat) (s : State) : Out :=
  let c := (s.die die).chan ch
  .next (if die < 10 ∧ ch < 8 ∧ writer < 10 ∧ writer = c.at die then
      let bead := nextWriter die writer
      match c.again.find? fun x => x.writer = writer with
      | some x => { s.setChan die ch { c with bead := bead, again := c.again.erase x } with
          holdsOut := s.holdsOut ++ [(die, ch, { x with gen := c.gen })] }
      | none =>
        let sent := holdful 1024 (s.outbox.filter fun x =>
          decide (x.die = die ∧ s.writerOf x.rcd = writer) && takesChannel x ch)
        if sent.isEmpty then s.setChan die ch { c with bead := bead }
        else
          let n := Sparse.get 0 c.wseqs writer
          { s.setChan die ch { c with bead := bead, wseqs := Sparse.set 0 c.wseqs writer (n + 1) } with
            outbox := s.outbox.filter fun x => !sent.contains x
            holdsOut := s.holdsOut ++ [(die, ch, ⟨writer, n, c.gen, true, sent.map fun x => (decide (x.cls = 0), x.rcd)⟩)] }
    else s)

/-- A hold in flight that is discarded is sent again by its writer at a later bead (R327). -/
def State.resend (s : State) (die ch : Nat) (x : Nat × Nat × Hold) (crc : Bool) : State :=
  let c := (s.die die).chan ch
  { s.setChan die ch { c with
      crcerr := if crc then c.crcerr + 1 else c.crcerr
      resent := c.resent + 1
      again := c.again ++ [x.2.2] } with holdsOut := s.holdsOut.erase x }

/-- HOLD_RECEIVE: what a reader receives of a writer is its oldest hold in flight. The reader accepts it if its CRC is right, its
generation the bead's and its number the next of its writer; one accepted before is dropped, any other is discarded and sent again
(R327, R330). -/
def execHoldReceive (die ch : Nat) (hold : Hold) (s : State) : Out :=
  let c := (s.die die).chan ch
  let next := Sparse.get 0 c.seqs hold.writer
  .next (if 10 ≤ die ∨ 8 ≤ ch ∨ 10 ≤ hold.writer ∨ hold.writer = die then s
    else match s.flying die ch hold.writer with
    | none => s
    | some x =>
      if !hold.good then s.resend die ch x true
      else if hold ≠ x.2.2 then s
      else if !c.accepting || hold.gen ≠ c.gen then s.resend die ch x false
      else if hold.seq ≠ next then
        (if (next - hold.seq).toNat < 128 then { s with holdsOut := s.holdsOut.erase x } else s.resend die ch x false)
      else
        let s := s.setChan die ch { c with seqs := Sparse.set 0 c.seqs hold.writer (next + 1) }
        hold.recs.foldl (fun s r => s.deliver r.1 r.2) { s with holdsOut := s.holdsOut.erase x })

/-- BEAD_TIMEOUT: no bead for 120 ns: the reader stops accepting holds (R327). -/
def execBeadTimeout (die ch : Nat) (s : State) : Out :=
  .next (if die < 10 ∧ ch < 8 then s.setChan die ch { (s.die die).chan ch with accepting := false } else s)

/-- BEAD_REGENERATE: after 20 ns without light a reader that has stopped emits a bead of the inverse generation, and
accepts again (R327, R330). -/
def execBeadRegenerate (die ch : Nat) (s : State) : Out :=
  let c := (s.die die).chan ch
  .next (if die < 10 ∧ ch < 8 ∧ !c.accepting then
      s.setChan die ch { c with
        gen := !c.gen
        accepting := true
        regen := c.regen + 1
        bead := nextWriter die die }
    else s)

/-! ### The rotor schedule (R332, R333) and paths (R334, R339, R343) -/

/-- A rotor pairing: its port (global ports above 35) and shift. -/
def pairKey (port shift : Nat) : Nat := port * 256 + shift
/-- Shift of a port in slot n (R333). -/
def slotShift (port n : Nat) : Nat :=
  if port < 36 then 1 + (36 * n + port) % 143 else 1 + (36 * n + (port - 36)) % 63
/-- Ports of an I/O die: 18 local and 18 global ones. -/
def diePorts (iod : Nat) : List Nat := (List.range 18).flatMap fun j => [(iod - 8) * 18 + j, 36 + (iod - 8) * 18 + j]
/-- The device that a device's pairing faces (R332, R333). -/
def facing (c port shift : Nat) : Nat :=
  let g := c / 144
  let i := c % 144
  if port < 36 then g * 144 + (i + shift) % 144 else (g + shift) % 64 * 144 + i
def State.peerOf (s : State) (port shift : Nat) : Nat := facing s.chip port shift
/-- A pairing's score. -/
def State.score (s : State) (port shift : Nat) : Nat :=
  if port < 36 then Sparse.get 128 s.lscore (pairKey port shift) else Sparse.get 128 s.gscore (pairKey (port - 36) shift)
def State.setScore (s : State) (port shift v : Nat) : State :=
  if port < 36 then { s with lscore := Sparse.set 128 s.lscore (pairKey port shift) v }
  else { s with gscore := Sparse.set 128 s.gscore (pairKey (port - 36) shift) v }
/-- What a pairing has carried in its slot, changed (R339). -/
def State.meter (s : State) (key : Nat) (f : Meter → Meter) : State := { s with meters := Sparse.modify Meter.zero s.meters key f }

/-- The I/O die of a port, and its number there. -/
def portIod (p : Nat) : Nat := 8 + p % 36 / 18
def portNum (p : Nat) : Nat := p % 18 + (if p < 36 then 0 else 18)
/-- The slot that the I/O die of a port is in (R332). -/
def State.slotOf (s : State) (port : Nat) : Nat := (s.die (portIod port)).slot
/-- The pairing of a port in the slot that its I/O die is in. -/
def State.slotPair (s : State) (port : Nat) : Nat := pairKey port (slotShift port (s.slotOf port))
/-- A port of an I/O die is drained: out of the rotation (21_service R384). -/
def State.portOut (s : State) (p : Nat) : Bool :=
  !s.iodUp (portIod p) || s.drained.contains (.port (portIod p) (portNum p))
/-- A pairing of this device may carry frames, of the secure world where they are (R339, 21_service R382, R384). -/
def State.usable (s : State) (sec : Bool) (port shift : Nat) : Bool :=
  !s.portOut port && !(sec && s.plainPorts.contains port) && decide (32 ≤ s.score port shift) &&
    decide (Sparse.get 0 s.training (pairKey port shift) = 0) && !s.spent.contains (pairKey port shift)
/-- Frames to a peer go by ordinary Ethernet switches: in that mode, or where only a scale-out port reaches it (R343, 15_io_dies
R316). -/
def State.ethernet (s : State) (p : Nat) : Bool := s.swmode || s.scaleOut.contains p
/-- Rotor mode serves a device number (R332). -/
def rotorServes (c : Nat) : Bool := decide (c < 9216)
/-- A pairing of this device faces a peer (R332). -/
def State.faces (s : State) (p : Nat) : Bool :=
  !s.ethernet p && rotorServes p && rotorServes s.chip &&
    (decide (p / 144 = s.chip / 144) || decide (p % 144 = s.chip % 144))
/-- A port of an I/O die to an Ethernet switch that can take frames to a peer, of the secure world where they are: a scale-up port in
Ethernet-switch mode, else a scale-out port, which are ports 36 to 39 of their I/O die (21_service R382, R384). -/
def State.switchPort (s : State) (iod : Nat) (sec : Bool) (p : Nat) : Bool :=
  if s.scaleOut.contains p then (List.range 4).any fun i =>
    s.iodUp iod && !s.drained.contains (.port iod (36 + i)) && !(sec && s.plainPorts.contains (72 + 4 * (iod - 8) + i))
  else (diePorts iod).any fun q => !s.portOut q && !(sec && s.plainPorts.contains q)
/-- Rotor ports that carry no data: holdover beyond 480 units (19_time R351). -/
def State.silent (s : State) : Bool := s.time.hold && decide (480 < s.time.term)
/-- No frame of classes 0 to 2 can be sent to a peer now: rotor mode does not serve it or this device, or rotor ports are silent. -/
def State.cutOff (s : State) (p : Nat) : Bool := !s.ethernet p && (s.silent || !rotorServes p || !rotorServes s.chip)
/-- The device sleeps: its optics are off (21_service R385). -/
def State.asleep (s : State) : Bool := s.mailbox.state = .retained || s.mailbox.state = .resuming

/-- The first slot from one on, among so many, in which a usable pairing of a device reaches another, and that pairing; the scores of
another device's pairings are not known here (R334; log entry 52). -/
def onwardHop (fresh c p n : Nat) : Nat → Option (Nat × Nat × Nat)
  | 0 => none
  | k + 1 =>
    match (List.range 72).find? fun q => decide (facing c q (slotShift q n) = p ∧
        32 ≤ Config.onwardScore fresh c (pairKey q (slotShift q n))) with
    | some q => some (n, q, slotShift q n)
    | none => onwardHop fresh c p (n + 1) k
/-- A path of a frame: how many slots on its first hop lies, the slot in which the frame arrives, and the way. -/
structure Path where
  start : Nat
  slot : Nat
  way : Way
  deriving DecidableEq, Repr

/-- The paths to a peer whose first hop lies so many slots on: one hop, or two through an intermediate, the second in the same slot or
one of the next three (R334, R391). -/
def State.pathsAt (s : State) (sec : Bool) (p i : Nat) : List Path :=
  (List.range 72).filterMap fun q =>
    let n := s.slotOf q + i
    let k := slotShift q n
    if !s.usable sec q k then none
    else if s.peerOf q k = p then some ⟨i, n, ⟨q, k, none⟩⟩
    else (onwardHop s.fresh (s.peerOf q k) p n 4).map fun m => ⟨i, m.1, ⟨q, k, some m.2⟩⟩
/-- The score of a way's second hop, as this device knows it. -/
def State.onwardScore (s : State) (w : Way) : Nat :=
  match w.onward with
  | none => 255
  | some q => Config.onwardScore s.fresh (s.peerOf w.port w.shift) (pairKey q.1 q.2)
/-- The smaller score of a path's hops (R334). -/
def State.weight (s : State) (w : Way) : Nat := min (s.score w.port w.shift) (s.onwardScore w)
/-- Of weighted things, the one in whose share a number falls. -/
def drawn (x : Nat) : List (Nat × Path) → Option Path
  | [] => none
  | p :: t => if x < p.1 then some p.2 else drawn (x - p.1) t
/-- The path of an unordered frame: of those that reach the peer earliest one, in proportion to the smaller score of its hops where
several do (R334; which one a frame takes is not promised). -/
def State.earliest (s : State) (sec : Bool) (p : Nat) : Option Path :=
  let l := (List.range 4).flatMap fun i => s.pathsAt sec p i
  match l.map (·.slot) with
  | [] => none
  | m :: ms =>
    let first := ms.foldl min m
    let l := (l.filter fun x => x.slot = first).map fun x => (s.weight x.way, x)
    drawn (Config.pick s.fresh % (l.map (·.1)).sum) l
/-- The pinned path of a connection: kept while no hop of it falls below 32, else chosen anew once every ordered frame sent on the
old one has been acknowledged (R334). -/
def State.pinned (s : State) (sec : Bool) (p : Nat) : Option Way :=
  let c := s.conn p
  let anew := (s.earliest sec p).map (·.way)
  match c.pin with
  | none => anew
  | some w =>
    if s.usable sec w.port w.shift && decide (32 ≤ s.onwardScore w) then some w
    else if c.unacked.any (·.2.cls = 0) then none else anew

/-! ### Reliable connections (R337, R338) -/

/-- The selective acknowledgement: bit i for ACK + 1 + i (R337). -/
def Conn.sack (c : Conn) : BitVec 64 :=
  BitVec.ofNat 64 ((List.range 64).foldr (fun i w =>
    (if c.got.contains (c.expect + 1 + BitVec.ofNat 24 i) then 1 else 0) + 2 * w) 0)
/-- The forwarding header of a frame and its connection header (R335, R337). -/
def fwdHeader (ddev ddie sdev cls : Nat) (relay : Bool) : BitVec 48 :=
  BitVec.ofNat 48 (ddev % 2 ^ 14 * 2 ^ 34 + ddie % 16 * 2 ^ 30 + sdev % 2 ^ 14 * 2 ^ 16 + cls % 4 * 2 ^ 14 +
    if relay then 2 ^ 11 else 0)
def connHeader (seq ack : BitVec 24) (sackp ackonly rst : Bool) (nrec : Nat) : BitVec 64 :=
  BitVec.ofNat 64 (seq.toNat + ack.toNat * 2 ^ 24 + (if sackp then 2 ^ 48 else 0) + (if ackonly then 2 ^ 49 else 0) +
    (if rst then 2 ^ 50 else 0) + nrec % 256 * 2 ^ 56)
/-- The MAC address of a device (R343). -/
def State.mac (s : State) (p : Nat) : BitVec 48 := Sparse.get 0 s.macs p
/-- A frame to a peer with records of one class for one die, or none: an acknowledgement or a restart. -/
def State.frameTo (s : State) (p die cls : Nat) (recs : List Record) (rst relay : Bool) : Frame :=
  let c := s.conn p
  { macs := if s.ethernet p then some (s.mac p, s.mac s.chip) else none
    fwd := fwdHeader p die s.chip cls relay
    etype := 0x88B5
    chdr := connHeader c.nextSeq c.expect (!c.got.isEmpty) recs.isEmpty rst recs.length
    sack := c.sack
    time := []
    good := true
    recs := recs }
/-- The state of a connection written to the 256 bytes of its peer in the table at CTAB, whose layout is not given (R338; log entry
52). -/
def State.saveConn (s : State) (p : Nat) : State :=
  let a := s.ctab.toNat + 256 * p
  if gaHost a || gaChip a ≠ s.chip then s else s.writeBytes a ((List.range 256).map (Config.connByte s.fresh))
/-- One connection of more than 1,024 on an I/O die leaves its port SRAM for the table at CTAB (R338; which one is not
promised). -/
def State.spillConn (s : State) (p : Nat) : State :=
  let l := (s.conns.filter fun e => e.2.up && !e.2.spilled && decide (s.connDie e.1 = s.connDie p ∧ e.1 ≠ p)).map (·.1)
  match (if l.length < 1024 then none else choose s.fresh l) with
  | none => s
  | some q =>
    State.saveConn { s.setConn q { s.conn q with spilled := true } with fresh := s.fresh + 1 } q
/-- The key of a frame's way: its pairing, or none. -/
def wayKey (w : Option Way) : Nat := (w.map fun x => pairKey x.port x.shift).getD (2 ^ 16)
def wayRelay (w : Option Way) : Bool := w.any (·.onward.isSome)
/-- A frame leaves by a pairing, or to an Ethernet switch, and its acknowledgement with it; the first one establishes the
connection (R341). -/
def State.emitFrame (s : State) (p : Nat) (w : Option Way) (f : Frame) : State :=
  let c := s.conn p
  let now := (s.die (s.connDie p)).ptime
  let c := { c with ackDue := 0, ackWant := false, sentAt := now }
  let s := if c.up then s.setConn p c
    else (s.setConn p { c with up := true, heard := now, pathAt := now }).spillConn p
  let s := match w with
    | none => s
    | some x => s.meter (pairKey x.port x.shift) fun m => { m with carried := true }
  { s with frames := s.frames ++ [(wayKey w, f)] }
/-- No frame and no link-level keepalive has come from a peer behind a switch for 2 ms: it has no path (R343). -/
def State.pathless (s : State) (p : Nat) : Bool :=
  let c := s.conn p
  s.ethernet p && c.up && decide (32000000 ≤ ((s.die (s.connDie p)).ptime - c.pathAt).toNat)
/-- A frame of n bytes may start on an I/O die's rotor ports now: after the guard of its slot, and its last beat leaves 200 ns before
the slot ends, at 200 bytes a nanosecond (R332, R391). -/
def State.canStart (s : State) (iod n : Nat) : Bool :=
  let x := ((s.die iod).ptime - s.epoch).toNat
  decide (x / 32000 = (s.die iod).slot ∧ 960 ≤ x % 32000 ∧ 25 * (x % 32000) + 2 * n ≤ 25 * 28800)
/-- A way whose first hop lies in the slot that its port of an I/O die is in. -/
def State.startsNow (s : State) (iod : Nat) (w : Way) : Bool :=
  decide (portIod w.port = iod ∧ slotShift w.port (s.slotOf w.port) = w.shift)
/-- The way by which an I/O die can start a frame of a class now: none needed through Ethernet switches; `none` when its path does not
start in this slot (R334, R391). A frame sent again takes the earliest path, whatever its class: the receiver restores the order
(R337). -/
def State.way (s : State) (iod p cls n : Nat) (sec again : Bool) : Option (Option Way) :=
  if s.cutOff p then none
  else if s.ethernet p then (if s.switchPort iod sec p && !s.pathless p then some none else none)
  else if !s.canStart iod n then none
  else if cls = 0 && !again then ((s.pinned sec p).filter (s.startsNow iod)).map some
  else (((s.earliest sec p).map (·.way)).filter (s.startsNow iod)).map some

/-- The records of a frame: the first ones that wait, of one class and for one die, 16 and 2,048 bytes at most (R335). -/
def frameful (cls die : Nat) : Nat → Nat → List Outgoing → List Outgoing
  | _, _, [] => []
  | 0, _, _ => []
  | n + 1, room, r :: t =>
    if r.cls = cls ∧ r.die = die ∧ 16 + r.rcd.data.length ≤ room then
      r :: frameful cls die n (room - (16 + r.rcd.data.length)) t
    else []
/-- A peer that is being readmitted has exchanged a restart: both sides start from SEQ 0 and its presence bit is set (R341,
09_address R242). -/
def State.restarted (s : State) (p : Nat) : State :=
  let c := s.conn p
  if c.down && c.readmit && c.rstSent && c.rstGot then
    { s.setConn p { c with down := false, failed := false, readmit := false } with
      present := if s.present.contains p then s.present else s.present ++ [p] }
  else s
/-- A restart leaves. -/
def State.sendRst (s : State) (p : Nat) (w : Option Way) : State :=
  let s := s.setConn p { s.conn p with rstWant := false, rstSent := true }
  (s.emitFrame p w (s.frameTo p (8 + s.chip % 2) 2 [] true (wayRelay w))).restarted p
/-- An acknowledgement leaves: its SEQ is not consumed (R337). -/
def State.sendAck (s : State) (p : Nat) (w : Option Way) : State :=
  s.emitFrame p w (s.frameTo p (8 + s.chip % 2) 2 [] false (wayRelay w))
/-- A frame that is sent again, with the acknowledgement that now stands. -/
def State.sendAgain (s : State) (p : Nat) (w : Option Way) (x : Bool × Frame) : State :=
  let c := s.conn p
  let f := { s.frameTo p x.2.ddie x.2.cls x.2.recs false (wayRelay w) with
    chdr := connHeader x.2.seq c.expect (!c.got.isEmpty) false false x.2.recs.length }
  let s := s.setConn p { c with again := c.again.filter (· ≠ x.2.seq) }
  let s := match w with
    | none => s
    | some y => s.meter (pairKey y.port y.shift) fun m => { m with again := m.again + 1 }
  s.emitFrame p w f
/-- A new frame of records leaves, and awaits its acknowledgement: the retry timer runs from the oldest one (R337). -/
def State.sendNew (s : State) (p : Nat) (w : Option Way) (out : List Outgoing) (cls die : Nat) (sec : Bool) : State :=
  let c := s.conn p
  let f := s.frameTo p die cls (out.map (·.rcd)) false (wayRelay w)
  let s := s.setConn p { c with
    nextSeq := c.nextSeq + 1
    unacked := c.unacked ++ [(sec, f)]
    waiting := c.waiting.drop out.length
    retryAt := if c.unacked.isEmpty then (s.die (s.connDie p)).ptime else c.retryAt
    pin := if cls = 0 then w else c.pin }
  s.emitFrame p w f

/-- FRAME_TRANSMIT: a port of an I/O die starts a frame to a peer in the slot of its path: a restart, a frame that is to be sent again,
waiting records while the window has room, or else an acknowledgement that is due (R334, R337, R341, R391). A frame whose connection
has spilled waits for its state (R338). -/
def execFrameTransmit (iod peer : Nat) (s : State) : Out :=
  let s := s.tickTime
  let s := s.pumpColl peer
  let c := s.conn peer
  let head := c.waiting.head?
  let cls := (head.map (·.cls)).getD 2
  let die := (head.map (·.die)).getD 0
  let out := frameful cls die 16 2048 c.waiting
  let sec := out.any (·.sec)
  let way (cls n : Nat) (sec again : Bool) := s.way iod peer cls n sec again
  .next (if c.spilled || s.asleep || !isIod iod || !s.iodUp iod || decide (peer = s.chip) then s
    else if c.rstWant then (match way 2 28 false false with
      | none => s
      | some w => State.sendRst { s with fresh := s.fresh + 1 } peer w)
    else if c.down || c.failed then s
    else match (c.unacked.filter fun x => c.again.contains x.2.seq).findSome? fun x =>
        (way x.2.cls x.2.size x.1 true).map fun w => (w, x) with
    | some y => State.sendAgain { s with fresh := s.fresh + 1 } peer y.1 y.2
    | none =>
      if !out.isEmpty && decide (c.unacked.length < 512) then
        (match way cls (28 + recsBytes (out.map (·.rcd))) sec false with
        | none => s
        | some w => State.sendNew { s with fresh := s.fresh + 1 } peer w out cls die sec)
      else if 0 < c.ackDue || c.ackWant then (match way 2 28 false false with
        | none => s
        | some w => State.sendAck { s with fresh := s.fresh + 1 } peer w)
      else s)

/-- A sequence number lies before another in the window of R337. -/
def seqBefore (a b : BitVec 24) : Bool := decide (a ≠ b) && decide ((b - a).toNat ≤ 512)
/-- What an acknowledgement and its bitmap cover leaves the sender; progress resets the retry timer (R337). -/
def Conn.acked (c : Conn) (now : Word) (f : Frame) : Conn :=
  let covered (x : BitVec 24) : Bool := seqBefore x f.ack ||
    (f.sackp && (List.range 64).any fun i => f.sack.getLsbD i && decide (x = f.ack + 1 + BitVec.ofNat 24 i))
  let progress := c.unacked.any fun x => seqBefore x.2.seq f.ack
  { c with
    unacked := c.unacked.filter fun x => !covered x.2.seq
    again := c.again.filter fun x => !covered x
    retryUs := if progress then 20 else c.retryUs
    retryAt := if progress then now else c.retryAt
    expiries := if progress then 0 else c.expiries }
/-- Frames that have become the next in order: what was received early follows (R337). -/
def Conn.advanceOver (c : Conn) : Nat → Conn
  | 0 => c
  | n + 1 =>
    if c.got.contains c.expect then
      Conn.advanceOver { c with expect := c.expect + 1, got := c.got.filter (· ≠ c.expect) } n
    else c

/-- A frame that R335 discards. -/
def State.malformed (s : State) (f : Frame) : Bool :=
  !f.good || decide (f.fwd.extractLsb' 0 11 ≠ 0) || (decide (f.hops = 1) && decide (f.ddev ≠ s.chip)) ||
    (if f.cls = 3 then (timeMessage f.sdev f.time).isNone
      else decide (f.chdr.extractLsb' 51 5 ≠ 0) || f.recs.any (fun r => !recordKnown r) || (f.ackonly && !f.recs.isEmpty) ||
        (!f.ackonly && f.recs.isEmpty) || decide (16 < f.recs.length ∨ 2048 < recsBytes f.recs ∨ f.nrec ≠ f.recs.length))
/-- An acknowledgement is due with every frame of records, and is wanted at the latest with the 32nd (R337). -/
def State.countFrame (s : State) (p : Nat) : State :=
  let c := s.conn p
  s.setConn p { c with ackDue := c.ackDue + 1, ackWant := c.ackWant || decide (32 ≤ c.ackDue + 1) }

/-! ### Peers that fail (R337) -/

/-- A device that has failed owes a hart an answer or an acknowledgement. -/
def Hart.owed (t : Hart) (p : Nat) : Bool :=
  t.awaits p none || t.tracked.any (·.dev = p) || t.nb.any fun o => o.tags.any (·.1 = p)
/-- What a device that has failed leaves of a hart's work: loads and returning atomics complete with VFILL, writes may have been
performed, and the device is reported (09_address R243). -/
def State.loseHart (s : State) (p h : Nat) : State :=
  let s := if (s.hart h).owed p then
      let s := s.peerLost h p
      let t := (s.hart h).mapAsks (Ask.lose p)
      (s.setHart h { t with
        tracked := t.tracked.filter fun x => x.dev ≠ p
        nb := t.nb.map fun o => { o with tags := o.tags.filter fun x => x.1 ≠ p } }).pump h
    else s
  if (s.hart h).sealing.any (·.1 = p) then s.failSeal h p else s
/-- What a connection that has failed owes harts and contexts ends: loads and returning atomics complete, seals that await the peer
fail, a clasp update counts as sent (R178, R243). Contexts that read from it or wrote to it fault as they go on. -/
def State.losePeer (s : State) (p : Nat) : State :=
  let s := s.mapHarts (fun t => t.owed p || t.sealing.any (·.1 = p)) fun s h => s.loseHart p h
  s.mapXfers fun f => { f with
    asks := f.asks.map (Ask.lose p)
    acks := if f.clasped then f.acks.filter fun x => x.1 ≠ p else f.acks }
/-- PEER_FAILED: eight expiries without progress (R337). -/
def State.failPeer (s : State) (p : Nat) : State := (s.setConn p { s.conn p with failed := true }).losePeer p

/-! ### Frames received (R335, R337, R341) -/

/-- A frame has been heard from a peer (R341, R343). -/
def State.hear (s : State) (p : Nat) : State :=
  let s := s.tickTime
  let now := (s.die (s.connDie p)).ptime
  s.setConn p { s.conn p with heard := now, pathAt := now }
/-- Something has come from the MAC address of a peer through an Ethernet switch: a link-level keepalive (R343). -/
def State.hearPath (s : State) (f : Frame) : State :=
  match f.macs with
  | none => s
  | some m =>
    let s := s.tickTime
    (s.macs.filter fun e => e.2 = m.2).foldl (fun s e =>
      s.setConn e.1 { s.conn e.1 with pathAt := (s.die (s.connDie e.1)).ptime }) s
/-- A restart has come from a peer (R341): of one that is being readmitted; from one that has not been marked down here both sides start
again from SEQ 0, and what its old connection owed ends as it does with a failed one (DESIGN CHOICE, log entry 52). -/
def State.takeRst (s : State) (p : Nat) : State :=
  let c := s.conn p
  if c.down then (if c.readmit then (s.setConn p { c with rstGot := true }).restarted p else s)
  else if c.nextSeq = 0 ∧ c.expect = 0 ∧ c.got = [] then
    s.setConn p { c with rstGot := true, rstWant := !c.rstSent }
  else
    let s := s.losePeer p
    s.setConn p { Conn.reset with
      waiting := (s.conn p).waiting
      up := true
      heard := c.heard
      sentAt := c.sentAt
      pathAt := c.pathAt
      rstGot := true
      rstWant := true }
/-- A frame of records for this device: acknowledged, and its records handed on once; class 0 in SEQ order. -/
def State.receiveFrame (s : State) (f : Frame) : State :=
  let p := f.sdev
  if (s.conn p).spilled then s.setConn p { s.conn p with arrived := (s.conn p).arrived ++ [f] }
  else if f.rst then s.takeRst p
  else if (s.conn p).down then s
  else
    let c := (s.conn p).acked (s.die (s.connDie p)).ptime f
    if f.ackonly then s.setConn p c
    else
      let seen := seqBefore f.seq c.expect || c.got.contains f.seq
      let inWindow := decide ((f.seq - c.expect).toNat < 512)
      if seen || !inWindow then (s.setConn p c).countFrame p
      else
        let c := Conn.advanceOver { c with got := f.seq :: c.got } 513
        let early := if f.cls = 0 then c.early ++ [f] else c.early
        let ready := early.filter fun x => seqBefore x.seq c.expect
        let order := ready.foldl (fun l x => insertBy (fun (a b : Frame) => seqBefore a.seq b.seq) x l) []
        let s := (s.setConn p { c with early := early.filter fun x => !seqBefore x.seq c.expect }).countFrame p
        let s := (if f.cls = 0 then [] else f.recs).foldl (fun s r => s.deliver false r) s
        (order.flatMap (·.recs)).foldl (fun s r => s.deliver true r) s
/-- A frame counted in DISCARD (R335). -/
def State.discardFrame (s : State) (iod : Nat) : State :=
  s.setDie iod { s.die iod with discard := (s.die iod).discard + 1 }
/-- A port of an I/O die attaches to an Ethernet switch: a scale-out port, or any in Ethernet-switch mode (R343). -/
def State.switched (s : State) (port : Nat) : Bool := s.swmode || decide (36 ≤ port)
/-- The number under which an I/O die's scale-up port stands among the device's, global ones above 35. -/
def portOf (iod port : Nat) : Nat := (iod - 8) * 18 + port % 18 + (if port < 18 then 0 else 36)
/-- The port is a non-secure one (21_service R382). -/
def State.plainPort (s : State) (iod port : Nat) : Bool :=
  s.plainPorts.contains (if port < 36 then portOf iod port else 72 + 4 * (iod - 8) + (port - 36))
/-- What a rotor port receives counts for its pairing, one whose FCS failed among them (R339). -/
def State.meterIn (s : State) (iod port : Nat) (good : Bool) : State :=
  if s.switched port then s
  else s.meter (s.slotPair (portOf iod port)) fun m =>
    { m with carried := true, fcs := if good then m.fcs else m.fcs + 1 }
/-- A frame that a port takes: in the form of its network, through a switch the one that bears this device's address. -/
def State.takesFrame (s : State) (port : Nat) (f : Frame) : Bool :=
  match f.macs with
  | none => !s.switched port
  | some m => s.switched port && decide (m.1 = s.mac s.chip)
/-- A frame for another device: kept for its onward hop while this device has relay credit (R334); through Ethernet switches there is
no intermediate (R343). -/
def State.relayFrame (s : State) (iod port : Nat) (f : Frame) : State :=
  if !f.relay || s.switched port then s.discardFrame iod
  else if s.relay.length < Config.relayRoom then { s with relay := s.relay ++ [(!s.plainPort iod port, f.hopped)] }
  else s

/-- RELAY_FORWARD: an intermediate forwards a relayed frame in the first slot in which the onward pairing is usable (R334); one that
came by a secure port leaves by such a port (21_service R382). -/
def execRelayForward (iod : Nat) (s : State) : Out :=
  let s := s.tickTime
  let onward (x : Bool × Frame) : Option Nat := (diePorts iod).find? fun q =>
    decide (s.peerOf q (slotShift q (s.slotOf q)) = x.2.ddev) && s.usable x.1 q (slotShift q (s.slotOf q)) &&
      s.canStart iod x.2.size
  .next (match s.relay.findSome? fun x => (onward x).map fun q => (x, q) with
    | none => s
    | some y =>
      if isIod iod && !s.silent && !s.asleep && !s.swmode then
        { s.meter (s.slotPair y.2) (fun m => { m with carried := true }) with
          relay := s.relay.erase y.1
          frames := s.frames ++ [(s.slotPair y.2, y.1.2)] }
      else s)

/-! ### Timers and peers that go down (R337, R341) -/

/-- RETRY_TIMER_EXPIRY: the frames that no acknowledgement covers are to be sent again and the timer doubles, up to 2 ms; the
eighth expiry without progress fails the peer (R337). The timer, in the PTIME of the connection's I/O die (19_time R353), does not run
while the device sleeps (21_service R385). -/
def execRetryTimerExpiry (peer : Nat) (s : State) : Out :=
  let s := s.tickTime
  let c := s.conn peer
  let now := (s.die (s.connDie peer)).ptime
  .next (if c.unacked.isEmpty || c.failed || c.down || c.spilled || s.asleep ||
      decide ((now - c.retryAt).toNat < 16000 * c.retryUs) then s
    else
      let s := s.setConn peer { c with
        again := c.unacked.map (·.2.seq)
        retryUs := min (2 * c.retryUs) 2000
        retryAt := now
        expiries := c.expiries + 1 }
      if 8 ≤ c.expiries + 1 then s.failPeer peer else s)

/-- ACK_TIMER: what a receiver has to acknowledge is acknowledged within 2 us (R337): with the next frame that a port can start. -/
def execAckTimer (peer : Nat) (s : State) : Out :=
  let c := s.conn peer
  .next (if 0 < c.ackDue && !c.down && !c.spilled && !s.asleep then s.setConn peer { c with ackWant := true } else s)

/-- KEEPALIVE_TIMER: 500 us without a frame on an established connection: an ACKONLY frame is to be sent (R341). -/
def execKeepaliveTimer (peer : Nat) (s : State) : Out :=
  let s := s.tickTime
  let c := s.conn peer
  .next (if c.up && !c.down && !c.spilled && !s.asleep &&
      decide (8000000 ≤ ((s.die (s.connDie peer)).ptime - c.sentAt).toNat) then s.setConn peer { c with ackWant := true }
    else s)

/-- A peer marked down (R341): its presence bit is cleared, its connection and frames are discarded, pending seals fail,
and the collectives that depend on it fault. The counts of records performed for its harts' seals stay (DESIGN CHOICE, log entry 57). -/
def State.markDown (s : State) (p : Nat) : State :=
  let s := s.failPeer p
  let s := s.setConn p { Conn.reset with down := true, failed := true }
  let s := { s with
    present := s.present.filter fun c => c ≠ p ∨ c = s.chip
    relay := s.relay.filter fun x => x.2.ddev ≠ p ∧ x.2.sdev ≠ p
    frames := s.frames.filter fun f => f.2.ddev ≠ p
    collOut := s.collOut.filter fun m => m.dest ≠ p
    collSent := s.collSent.filter fun m => m.2.dest ≠ p
    collIn := s.collIn.filter fun r => r.srcDev ≠ p }
  s.abortPeer p
/-- PEER_MARK_DOWN: a peer that has failed, or from which no frame has come on an established connection for 2 ms of PTIME
(R341); the count does not run while the device sleeps (21_service R385). -/
def execPeerMarkDown (peer : Nat) (s : State) : Out :=
  let s := s.tickTime
  let c := s.conn peer
  let quiet := decide (32000000 ≤ ((s.die (s.connDie peer)).ptime - c.heard).toNat)
  .next (if (c.failed || (c.up && quiet)) && !c.down && !s.asleep && decide (peer ≠ s.chip) then s.markDown peer else s)

/-- RST: after a full training a connection restart is exchanged with a peer that PEERUP readmits (R341, R242); it leaves in the slot of
its path. A peer that no pairing faces has none to train. -/
def execRst (peer : Nat) (s : State) : Out :=
  let c := s.conn peer
  .next (if c.readmit && c.down && s.peers.contains peer && decide (peer ≠ s.chip) && (c.trained || !s.faces peer) then
      s.setConn peer { c with rstWant := true }
    else s)

/-- CONNECTION_STATE_FILL: spilled state arrives from the connection table, the miss stands in SPILL, and the frames that waited for it
are received (R338, R342). -/
def execConnectionStateFill (peer : Nat) (s : State) : Out :=
  let c := s.conn peer
  let d := s.connDie peer
  .next (if c.up && c.spilled then
      let s := s.setDie d { s.die d with spill := (s.die d).spill + 1 }
      let s := (s.setConn peer { c with spilled := false, arrived := [] }).spillConn peer
      c.arrived.foldl State.receiveFrame s
    else s)

/-! ### Slots, health and training (R332, R339, R340) -/

/-- The quality of a pairing in a slot (R339): C frames whose FCS failed, X frames sent again, F corrected codewords in units of
1,024, and D, 255 less the optical margin. -/
def linkQuality (c x f d : Nat) : Nat := 255 - (64 * c + 16 * x + 4 * min 15 f + d)
/-- A score after such a slot, rounding down. -/
def nextScore (score q : Nat) : Nat := (7 * score + q) / 8
/-- HEALTH_UPDATE: a pairing that carried frames in the slot that ends has its score updated; below 32 it is dropped until a full
training (R339). -/
def State.updateHealth (s : State) (port shift : Nat) : State :=
  let k := pairKey port shift
  let m := Sparse.get Meter.zero s.meters k
  if m.carried then
    let v := nextScore (s.score port shift)
      (linkQuality m.fcs m.again (Config.corrected s.fresh k) (Config.opticalLoss s.fresh k % 256))
    let s : State := { s.setScore port shift v with meters := Sparse.set Meter.zero s.meters k Meter.zero }
    if v < 32 ∧ Sparse.get 0 s.training k = 0 then { s with training := Sparse.set 0 s.training k 1 } else s
  else s
/-- FULL_TRAINING: a slot that forms a pairing whose settings are not cached, or one that faces a peer to be readmitted, is spent
on it: a success gives score 128; after three failures the score is 0 and one occurrence in 64 trains again (R340, R341). -/
def State.trainPair (s : State) (port shift : Nat) : State :=
  let k := pairKey port shift
  let p := s.peerOf port shift
  let n := Sparse.get 0 s.training k
  let n := if n = 0 && (s.conn p).readmit && !(s.conn p).trained then 1 else n
  if n = 0 then s
  else if 4 ≤ n ∧ n < 67 then { s with training := Sparse.set 0 s.training k (n + 1) }
  else
    let s := { s with spent := k :: s.spent }
    if Config.trains s.fresh k then
      let s := { s.setScore port shift 128 with training := Sparse.set 0 s.training k 0 }
      if (s.conn p).readmit then s.setConn p { s.conn p with trained := true } else s
    else
      let s := { s with training := Sparse.set 0 s.training k (if 67 ≤ n then 4 else n + 1) }
      if 3 ≤ n then s.setScore port shift 0 else s

/-- SLOT_BEGIN on an I/O die: the health of the pairings of the slot that ends is updated, its frames have arrived, and
the pairings of the new slot lock or train (R332, R339, R340, R391). -/
def execSlotBegin (iod : Nat) (s : State) : Out :=
  .next (if !isIod iod || s.swmode then s
    else
      let s := s.tickTime
      let old := (s.die iod).slot
      let n := ((s.die iod).ptime - s.epoch).toNat / 32000
      let ports := (diePorts iod).filter fun p => !s.portOut p
      let s := ports.foldl (fun s p => s.updateHealth p (slotShift p old)) s
      let s := { s with spent := s.spent.filter fun k => portIod (k / 256) ≠ iod }
      let s := ports.foldl (fun s p => s.trainPair p (slotShift p n)) s
      let s := s.setDie iod { s.die iod with slot := n }
      { s with
        fresh := s.fresh + 1
        frames := s.frames.filter fun f => decide (portIod (f.1 / 256) ≠ iod ∨ 2 ^ 16 ≤ f.1) })

/-- LOCK_TIMEOUT: a pairing of the slot that has not locked within 80 ns carries nothing in it and its cached settings are gone
(R340). -/
def execLockTimeout (iod port shift : Nat) (s : State) : Out :=
  let k := pairKey port shift
  .next (if isIod iod && (diePorts iod).contains port && !s.swmode && decide (k = s.slotPair port) &&
      decide (Sparse.get 0 s.training k = 0) && !s.spent.contains k then
      { s with training := Sparse.set 0 s.training k 1 }
    else s)

end Sys2Proof.Machine
end

