-- ==== Sys2Proof/Machine/HostLink.lean ====
section
/-!
DEFINITION. Machine/HostLink.lean: stores to the kind-3 registers as events (09_address R246, R390; 18_fabric R341;
20_faults R375) and what the host does through BAR0 and BAR2 (15_io_dies R313, R314).
-/

namespace Sys2Proof.Machine

/-- TLBINV of a die (R246). -/
def execTlbinv (die : Nat) (val : Word) (s : State) : Out :=
  .next (if s.liveDie die then s.tlbInvalidate die val else s)

/-- PEERUP of an I/O die: the device in bits [13:0] is readmitted (R341). -/
def execPeerup (iod : Nat) (val : Word) (s : State) : Out :=
  .next (if isIod iod then s.peerUp (val.extractLsb' 0 14).toNat else s)

/-- PARKLIM of an I/O die, stored by a hart: only a supervisor hart in the secure world may write it (R375). -/
def execParklim (iod h : Nat) (val : Word) (s : State) : Out :=
  let t := s.hart h
  .next (if isIod iod && decide (t.run ≠ .free) && decide (t.priv = .supervisor) && t.secure then
      s.setDie iod { s.die iod with parklim := val }
    else s)

/-- A kind-3 access of a width at an offset is naturally aligned and within the 8 MiB (R390). -/
def regAccess (widths : List Nat) (off n : Nat) : Bool :=
  widths.contains n && decide (off % n = 0) && decide (off < 0x800000)
/-- REGISTER_WRITE: a store of 1, 2, 4 or 8 bytes to a register of a die (R390). -/
def execRegisterWrite (die off width : Nat) (val : Word) (s : State) : Out :=
  .next (if (s.liveDie die || isIod die) && regAccess [1, 2, 4, 8] off width then
      s.regStore false false (mkGa s.chip die 3 off) width val.toNat
    else s)

/-- GA of a BAR2 offset (R313). -/
def State.bar2Ga (s : State) (off : Nat) : Nat := mkGa s.chip (off / 2 ^ 38) 0 (off % 2 ^ 38)
/-- The device answers BAR2: after HBM training, and neither retained nor resuming (21_service R385, R387); the range
lies on live dies. -/
def State.bar2Open (s : State) (off n : Nat) : Bool :=
  decide (3 ≤ s.bootStep) && s.mailbox.state ≠ .retained && s.mailbox.state ≠ .resuming &&
    decide (off + n ≤ 2 ^ 41) && (gaRange off n).all fun o => s.liveDie (o / 2 ^ 38)
/-- A BAR2 range whose home cannot perform the access yet (21_service R383, R384). -/
def State.bar2Waits (s : State) (off n : Nat) : Bool := (gaRange off n).any fun o => s.mustWait (s.bar2Ga o)
/-- A host link that has trained. -/
def State.hasLink (s : State) (link : Nat) : Bool := s.links.any fun l => l.1 = link

/-- A posted write performed: registers through BAR0, naturally aligned words of 4 or 8 bytes; device HBM through BAR2 (R313).
What either does not map is ignored. -/
def State.performPosted (s : State) (p : Posted) : State :=
  let n := p.data.length
  if p.bar = 0 then
    let d := p.off / 0x800000
    if (s.liveDie d || isIod d) && regAccess [4, 8] (p.off % 0x800000) n then
      s.regStore false false (mkGa s.chip d 3 (p.off % 0x800000)) n (bytesNat p.data)
    else s
  else if p.bar = 2 && s.bar2Open p.off n then
    if s.poisonedAt (s.bar2Ga p.off) n then s.logDie (p.off / 2 ^ 38) 7 (s.bar2Ga p.off)
    else s.recordWrite (s.bar2Ga p.off) p.data
  else s
/-- A posted write that has arrived may be performed now: its home can, and no earlier one of its link with Relaxed Ordering clear
waits, unless its own attribute is set (R314). -/
def State.postedReady (s : State) (before : List Posted) (p : Posted) : Bool :=
  !(decide (p.bar = 2) && s.bar2Waits p.off p.data.length) &&
    (p.ro || before.all fun q => decide (q.link ≠ p.link) || q.ro)
/-- HOST_POSTED_WRITE on a link (R314): performed as it arrives where it may be; one with Relaxed Ordering set may be passed by
later ones. -/
def execHostPostedWrite (bar : HostBar) (off : Nat) (data : List Byte) (s : State) : Out :=
  let p : Posted := ⟨bar.link, bar.ro, bar.bar, off, data⟩
  .next (if !s.hasLink bar.link then s
    else if s.postedReady s.posted p && !(bar.ro && Config.postedWaits s.fresh) then s.performPosted p
    else { s with posted := s.posted ++ [p], fresh := s.fresh + 1 })

/-- A number of n bytes as doublewords, the last one padded with zeros. -/
def wordsOf (v n : Nat) : List Word := (List.range ((n + 7) / 8)).map fun i => BitVec.ofNat 64 (v / 2 ^ (64 * i))
/-- The posted writes of a link are performed in arrival order, as far as they may be (R314). -/
def State.flushPosted (s : State) (link : Nat) : State :=
  s.posted.foldl (fun (u : State) p =>
    if p.link = link && u.postedReady u.posted p then u.performPosted p else { u with posted := u.posted ++ [p] })
    { s with posted := [] }
/-- What the host reads: each doubleword, or none for a request that the device does not perform. -/
def State.hostAnswer (s : State) (l : List (Option Word)) : State := { s with hostReads := s.hostReads ++ l }
/-- A read of the host performed: through BAR0 or BAR2; what BAR0 does not map reads zero. An access of another width, or one that
the device does not accept, is answered as a request not supported or aborted (R313; 21_service R385). A poisoned line is logged
and not delivered (21_service R379). -/
def State.performRead (s : State) (bar : HostBar) (off width : Nat) : State :=
  if bar.bar = 0 then
    let d := off / 0x800000
    if regAccess [4, 8] (off % 0x800000) width && decide (off < 0x8000000) then
      s.hostAnswer [some (if s.liveDie d || isIod d then
        BitVec.ofNat 64 (s.regLoad true (mkGa s.chip d 3 (off % 0x800000)) width) else 0)]
    else s.hostAnswer [none]
  else if bar.bar = 2 && s.bar2Open off width then
    let ga := s.bar2Ga off
    if (gaRange ga width).any s.poisoned then (s.logDie (off / 2 ^ 38) 7 ga).hostAnswer [none]
    else s.hostAnswer ((wordsOf (s.readGa ga width) width).map some)
  else s.hostAnswer [none]
/-- A read of the host waits for every posted write of its link before it, and for its home (R314; 21_service R383, R384). -/
def State.readReady (s : State) (bar : HostBar) (off width : Nat) : Bool :=
  (s.posted.all fun p => decide (p.link ≠ bar.link)) &&
    !(decide (bar.bar = 2) && s.bar2Open off width && s.bar2Waits off width)

/-- HOST_READ on a link: what the host reads through BAR0 or BAR2, after every posted write of its link (R313, R314). -/
def execHostRead (bar : HostBar) (off width : Nat) (s : State) : Out :=
  .next (if !s.hasLink bar.link then s
    else
      let s := s.flushPosted bar.link
      if s.readReady bar off width then s.performRead bar off width
      else { s with hostWaits := s.hostWaits ++ [(bar, off, width)] })

/-! ### Host accesses that wait -/

/-- The waiting accesses of the host that can go on now, by their places: the posted writes, then the reads. -/
def State.hostDue (s : State) : List Nat :=
  ((List.range s.posted.length).filter fun i => (s.posted[i]?).any fun p => s.postedReady (s.posted.take i) p) ++
    ((List.range s.hostWaits.length).filter fun i => (s.hostWaits[i]?).any fun r => s.readReady r.1 r.2.1 r.2.2).map
      (s.posted.length + ·)
/-- One of them is performed; which is not promised. -/
def State.hostMove (s : State) : State :=
  match choose s.fresh s.hostDue with
  | none => s
  | some i =>
    let s := { s with fresh := s.fresh + 1 }
    match s.posted[i]? with
    | some p => State.performPosted { s with posted := s.posted.eraseIdx i } p
    | none =>
      let n := i - s.posted.length
      match s.hostWaits[n]? with
      | none => s
      | some r => State.performRead { s with hostWaits := s.hostWaits.eraseIdx n } r.1 r.2.1 r.2.2

/-- A BAR2 access that waits for a die out of service (21_service R384). -/
def State.bar2Out (s : State) (off n : Nat) : Bool := (gaRange off n).any fun o => (s.die (o / 2 ^ 38)).out
/-- The host's accesses on a link that have waited too long for a die out of service: writes end, and reads are answered as not
performed. -/
def State.hostTimeout (s : State) (link : Nat) : State :=
  let lost (r : HostBar × Nat × Nat) : Bool := decide (r.1.link = link ∧ r.1.bar = 2) && s.bar2Out r.2.1 r.2.2
  { s with
    posted := s.posted.filter fun p => !(decide (p.link = link ∧ p.bar = 2) && s.bar2Out p.off p.data.length)
    hostWaits := s.hostWaits.filter fun r => !lost r
    hostReads := s.hostReads ++ (s.hostWaits.filter lost).map fun _ => none }

end Sys2Proof.Machine
end

