-- ==== Sys2Proof/Machine/Hash.lean ====
section
/-!
DEFINITION. Machine/Hash.lean: SHA-512, the function of its published standard (00_scope R5) by which the boot ROM measures
firmware (21_service R388).
-/

namespace Sys2Proof.Machine

/-- The round constants: the first 64 bits of the fractional parts of the cube roots of the first 80 primes. -/
def shaRound : List Word :=
  [0x428A2F98D728AE22, 0x7137449123EF65CD, 0xB5C0FBCFEC4D3B2F, 0xE9B5DBA58189DBBC,
   0x3956C25BF348B538, 0x59F111F1B605D019, 0x923F82A4AF194F9B, 0xAB1C5ED5DA6D8118,
   0xD807AA98A3030242, 0x12835B0145706FBE, 0x243185BE4EE4B28C, 0x550C7DC3D5FFB4E2,
   0x72BE5D74F27B896F, 0x80DEB1FE3B1696B1, 0x9BDC06A725C71235, 0xC19BF174CF692694] ++
  [0xE49B69C19EF14AD2, 0xEFBE4786384F25E3, 0x0FC19DC68B8CD5B5, 0x240CA1CC77AC9C65,
   0x2DE92C6F592B0275, 0x4A7484AA6EA6E483, 0x5CB0A9DCBD41FBD4, 0x76F988DA831153B5,
   0x983E5152EE66DFAB, 0xA831C66D2DB43210, 0xB00327C898FB213F, 0xBF597FC7BEEF0EE4,
   0xC6E00BF33DA88FC2, 0xD5A79147930AA725, 0x06CA6351E003826F, 0x142929670A0E6E70] ++
  [0x27B70A8546D22FFC, 0x2E1B21385C26C926, 0x4D2C6DFC5AC42AED, 0x53380D139D95B3DF,
   0x650A73548BAF63DE, 0x766A0ABB3C77B2A8, 0x81C2C92E47EDAEE6, 0x92722C851482353B,
   0xA2BFE8A14CF10364, 0xA81A664BBC423001, 0xC24B8B70D0F89791, 0xC76C51A30654BE30,
   0xD192E819D6EF5218, 0xD69906245565A910, 0xF40E35855771202A, 0x106AA07032BBD1B8] ++
  [0x19A4C116B8D2D0C8, 0x1E376C085141AB53, 0x2748774CDF8EEB99, 0x34B0BCB5E19B48A8,
   0x391C0CB3C5C95A63, 0x4ED8AA4AE3418ACB, 0x5B9CCA4F7763E373, 0x682E6FF3D6B2B8A3,
   0x748F82EE5DEFB2FC, 0x78A5636F43172F60, 0x84C87814A1F0AB72, 0x8CC702081A6439EC,
   0x90BEFFFA23631E28, 0xA4506CEBDE82BDE9, 0xBEF9A3F7B2C67915, 0xC67178F2E372532B] ++
  [0xCA273ECEEA26619C, 0xD186B8C721C0C207, 0xEADA7DD6CDE0EB1E, 0xF57D4F7FEE6ED178,
   0x06F067AA72176FBA, 0x0A637DC5A2C898A6, 0x113F9804BEF90DAE, 0x1B710B35131C471B,
   0x28DB77F523047D84, 0x32CAAB7B40C72493, 0x3C9EBE0A15C9BEBC, 0x431D67C49C100D4C,
   0x4CC5D4BECB3E42B6, 0x597F299CFC657E2A, 0x5FCB6FAB3AD6FAEC, 0x6C44198C4A475817]
/-- The initial hash value: those of the square roots of the first eight primes. -/
def shaInit : List Word :=
  [0x6A09E667F3BCC908, 0xBB67AE8584CAA73B, 0x3C6EF372FE94F82B, 0xA54FF53A5F1D36F1,
   0x510E527FADE682D1, 0x9B05688C2B3E6C1F, 0x1F83D9ABFB41BD6B, 0x5BE0CD19137E2179]

/-- Bytes as a number, the first the most significant. -/
def bigNat (l : List Byte) : Nat := l.foldl (fun n b => n * 256 + b.toNat) 0
/-- A message padded to whole blocks of 128 bytes: a bit 1, zeros, and its length in bits in 16 bytes. -/
def shaPad (m : List Byte) : List Byte :=
  m ++ 0x80 :: List.replicate ((239 - m.length % 128) % 128) 0 ++ (natBytes 16 (8 * m.length)).reverse
/-- The 80 words of a block's schedule. -/
def shaSchedule (block : List Byte) : List Word :=
  let w := (List.range 16).map fun i => BitVec.ofNat 64 (bigNat ((block.drop (8 * i)).take 8))
  (List.range 64).foldl (fun w t =>
    let a := w.getD (t + 14) 0
    let b := w.getD (t + 1) 0
    w ++ [(a.rotateRight 19 ^^^ a.rotateRight 61 ^^^ a >>> 6) + w.getD (t + 9) 0 +
      (b.rotateRight 1 ^^^ b.rotateRight 8 ^^^ b >>> 7) + w.getD t 0]) w
/-- One round on the eight working words. -/
def shaStep (v : List Word) (kw : Word) : List Word :=
  match v with
  | [a, b, c, d, e, f, g, h] =>
    let t := h + (e.rotateRight 14 ^^^ e.rotateRight 18 ^^^ e.rotateRight 41) + ((e &&& f) ^^^ (~~~e &&& g)) + kw
    let u := (a.rotateRight 28 ^^^ a.rotateRight 34 ^^^ a.rotateRight 39) + ((a &&& b) ^^^ (a &&& c) ^^^ (b &&& c))
    [t + u, a, b, c, d + t, e, f, g]
  | _ => v
/-- A block taken into the hash. -/
def shaBlock (h : List Word) (block : List Byte) : List Word :=
  h.zipWith (· + ·) ((shaRound.zipWith (· + ·) (shaSchedule block)).foldl shaStep h)
/-- SHA-512, as a number whose most significant byte is the hash's first. -/
def sha512 (m : List Byte) : BitVec 512 :=
  let p := shaPad m
  let h := (List.range (p.length / 128)).foldl (fun h i => shaBlock h ((p.drop (128 * i)).take 128)) shaInit
  BitVec.ofNat 512 (h.foldl (fun n w => n * 2 ^ 64 + w.toNat) 0)
/-- The 64 bytes of a hash, in their order. -/
def hashBytes (h : BitVec 512) : List Byte := (natBytes 64 h.toNat).reverse

end Sys2Proof.Machine
end

