-- ==== Sys2Proof/Machine/PodTime.lean ====
section
/-!
DEFINITION. Machine/PodTime.lean: pod time (19_time R348-R351): discipline of the dies, exchanges with a parent, the
election of a grandmaster, and holdover; and the frames that a port receives, time-class ones among them (18_fabric R335, R337).
PTIME itself passes where it is observed (Machine/Ops.lean): an exchange gives an amount by which it is slewed, and steps
nothing (R346).
-/

namespace Sys2Proof.Machine

/-- The time of the disciplining I/O die. -/
def State.timeNow (s : State) : Word := (s.die s.timeDie).ptime
/-- How far two times lie apart. -/
def timeGap (a b : Word) : Nat := (a.toNat - b.toNat) + (b.toNat - a.toNat)
/-- That a time has passed by the clock of the disciplining I/O die. -/
def State.since (s : State) (t : Word) (n : Nat) : Bool := decide (n ≤ (s.timeNow - t).toNat)

/-! ### Discipline across the interposer (R348) -/

/-- DIE_TIME_EXCHANGE: a die completes an exchange of timing tokens; its die term is computed from the four times, and bounds its
distance from the disciplining die (R347, R348). -/
def execDieTimeExchange (die : Nat) (t1 t2 t3 t4 : Word) (s : State) : Out :=
  let s := s.tickTime
  .next (if die < 10 ∧ die ≠ s.timeDie then
      s.setDie die { s.die die with
        dieTerm := max (Config.dieTerm t1 t2 t3 t4) (timeGap (s.die die).ptime s.timeNow)
        sync := true
        exchanged := s.timeNow }
    else s)

/-- DIE_SYNC_TIMEOUT: no exchange for 100 us clears the die's SYNC (R348). -/
def execDieSyncTimeout (die : Nat) (s : State) : Out :=
  let s := s.tickTime
  .next (if die < 10 && decide (die ≠ s.timeDie) && s.since (s.die die).exchanged 1600000 then
      s.setDie die { s.die die with sync := false, exchanged := s.timeNow }
    else s)

/-- DIE_TERM_GROWTH: 10 us without an exchange after that (R348). -/
def execDieTermGrowth (die : Nat) (s : State) : Out :=
  let s := s.tickTime
  .next (if die < 10 && decide (die ≠ s.timeDie) && !(s.die die).sync && s.since (s.die die).exchanged 160000 then
      s.setDie die { s.die die with dieTerm := (s.die die).dieTerm + 1, exchanged := (s.die die).exchanged + 160000 }
    else s)

/-! ### Exchanges with a parent (R349) -/

/-- A time message of this device, which carries its package term and the pair it announces. -/
def State.timeMsg (s : State) (seq : BitVec 16) (t : Word) : TimeMsg :=
  ⟨s.chip, s.time.gmpri, seq, BitVec.ofNat 14 s.chip, t, BitVec.ofNat 64 s.time.term⟩
/-- A time-class frame (18_fabric R335). -/
def State.timeFrame (s : State) (ty dest : Nat) (m : TimeMsg) : Frame :=
  ⟨if s.ethernet dest then some (s.mac dest, s.mac s.chip) else none, fwdHeader dest 8 s.chip 3 false, 0x88B5, 0, 0,
    timeBytes ty m, true, []⟩
/-- A time message sent, in a frame by whichever pairing joins the devices. -/
def State.sendTime (s : State) (ty dest : Nat) (m : TimeMsg) : State :=
  { s with
    timeOut := s.timeOut ++ [(ty, dest, m)]
    frames := s.frames ++ [(2 ^ 16, s.timeFrame ty dest m)] }

/-- TIME_EXCHANGE_TIMER: this device, as a parent, begins an exchange with a child: SYNC, and FOLLOW with its send
time (R349). -/
def execTimeExchangeTimer (child : Nat) (s : State) : Out :=
  .next (if child = s.chip ∨ s.asleep then s
    else
      let s := s.tickTime
      let seq := BitVec.ofNat 16 (s.timeOut.filter fun m => decide (m.1 = 0 ∧ m.2.1 = child)).length
      let t := s.timeNow
      (s.sendTime 0 child (s.timeMsg seq 0)).sendTime 1 child (s.timeMsg seq t))

/-- A message comes from the parent. -/
def State.fromParent (s : State) (m : TimeMsg) : Bool := decide (m.src = s.time.parent.toNat ∧ m.src ≠ s.chip)

/-- SYNC: its receive time is captured; it begins an exchange by its number (R349). -/
def execSync (m : TimeMsg) (s : State) : Out :=
  .next (if s.fromParent m then
      let s := s.tickTime
      { s with time := { s.time with t2 := s.timeNow, seq := m.seq } }
    else s)

/-- FOLLOW of the exchange under way: t1, and the parent's bound; the child sends DREQ (R349). -/
def execFollow (m : TimeMsg) (s : State) : Out :=
  .next (if s.fromParent m && decide (m.seq = s.time.seq) then
      let s := s.tickTime
      let s := { s with time := { s.time with t1 := m.t, t3 := s.timeNow, parentBound := m.bound.toNat } }
      s.sendTime 2 m.src (s.timeMsg m.seq 0)
    else s)

/-- DREQ: the parent answers with the time it received it (R349). -/
def execDreq (m : TimeMsg) (s : State) : Out :=
  .next (if m.src = s.chip then s
    else
      let s := s.tickTime
      s.sendTime 3 m.src (s.timeMsg m.seq s.timeNow))

/-- Half of a signed difference, toward minus infinity. -/
def halfOf (v : Word) : Word := BitVec.ofInt 64 (v.toInt / 2)
/-- The spread of the delay values held. -/
def spreadOf (l : List Int) : Nat := (l.foldl max (l.headD 0) - l.foldl min (l.headD 0)).toNat

/-- DRESP: the exchange under way completes: the offset, by which PTIME is slewed from now on, the delay and the new package term;
holdover ends (R346, R349, R351). -/
def execDresp (m : TimeMsg) (s : State) : Out :=
  .next (if s.fromParent m && decide (m.seq = s.time.seq) then
      let t := s.time
      let there := t.t2 - t.t1
      let back := m.t - t.t3
      let delays := ((halfOf (there + back)).toInt :: t.delays).take 16
      { s with time := { t with
          offset := halfOf (there - back)
          slew := -(halfOf (there - back)).toInt
          delays := delays
          term := t.parentBound + (spreadOf delays + 1) / 2 + Config.calibration
          lastAt := s.timeNow
          hold := false
          longHold := false } }
    else s)

/-! ### Election and parents (R349, R350) -/

/-- Lexicographic order of pairs of priority and device. -/
def pairBefore (a b : Nat × Nat) : Bool := decide (a.1 < b.1) || (decide (a.1 = b.1) && decide (a.2 < b.2))
/-- The lowest pair among those heard and the device's own; a priority of 255 never wins. -/
def State.lowestPair (s : State) : Option (Nat × Nat) :=
  (((s.time.gmpri.toNat, s.chip) :: s.time.heard.map fun p => (p.1, p.2.1)).filter fun p => decide (p.1 ≠ 255)).foldl (fun b p =>
    match b with
    | none => some p
    | some q => if pairBefore p q then some p else some q) none
/-- A device that frames reach in one hop (R349): one that a pairing faces, or one behind an Ethernet switch. -/
def State.oneHop (s : State) (p : Nat) : Bool := s.ethernet p || s.faces p
/-- The peers that can be this device's parent, with their package terms: those heard from that frames reach in one hop. -/
def State.parents (s : State) : List (Nat × Nat) :=
  s.time.terms.filter fun e => decide (e.1 ≠ s.chip) && s.oneHop e.1 && !(s.conn e.1).failed && !(s.conn e.1).down
/-- The parent: a peer of lowest package term, the present one among several; the grandmaster has none (R349, R352). -/
def State.chooseParent (s : State) : State :=
  if s.time.gm then { s with time := { s.time with parent := BitVec.ofNat 14 s.chip } }
  else match s.parents.map (·.2) with
  | [] => s
  | b :: bs =>
    let low := bs.foldl min b
    let best := (s.parents.filter fun e => e.2 = low).map (·.1)
    if best.contains s.time.parent.toNat then s
    else { s with time := { s.time with
      parent := BitVec.ofNat 14 (best.headD s.chip)
      parentBound := low } }
/-- The grandmaster followed: the device of the lowest pair; with no pair there is none. A device that takes its time from an
external source follows no other (R350; DESIGN CHOICE, log entry 62). -/
def State.electGrandmaster (s : State) : State :=
  match (if s.time.src then some (s.time.gmpri.toNat, s.chip) else s.lowestPair) with
  | none => State.chooseParent { s with time := { s.time with gm := false } }
  | some p => State.chooseParent { s with time := { s.time with gmdev := BitVec.ofNat 14 p.2, gm := decide (p.2 = s.chip) } }

/-- ANNOUNCE: a pair is heard, and its sender's package term (R349, R350). -/
def execAnnounce (m : TimeMsg) (s : State) : Out :=
  .next (if m.src = s.chip then s
    else
      let s := s.tickTime
      State.electGrandmaster { s with time := { s.time with
        heard := (m.gmpri.toNat, m.gmdev.toNat, s.timeNow) :: s.time.heard.filter fun p => p.2.1 ≠ m.gmdev.toNat
        terms := (m.src, m.bound.toNat) :: s.time.terms.filter fun e => e.1 ≠ m.src } })

/-- ANNOUNCE_TIMER: the device announces its pair to the devices present (R350). -/
def execAnnounceTimer (s : State) : Out :=
  .next (if s.asleep then s
    else (s.present.filter fun d => d ≠ s.chip).foldl (fun s d => s.sendTime 4 d (s.timeMsg 0 0)) s)

/-- ANNOUNCE_AGE_EXPIRY: pairs that have not been heard for 4 ms count no more (R350). -/
def execAnnounceAgeExpiry (s : State) : Out :=
  let s := s.tickTime
  .next (State.electGrandmaster { s with time := { s.time with
    heard := s.time.heard.filter fun p => !s.since p.2.2 64000000 } })

/-- EXTERNAL_PTP_MESSAGE: with SRC = 1, PTIME is slewed to (PTP time - TZERO) * 16 (R346, R350). -/
def execExternalPtpMessage (ptp : Word) (s : State) : Out :=
  .next (if s.time.src then
      let s := s.tickTime
      let off := s.timeNow - (ptp - s.time.tzero) * 16
      { s with time := { s.time with
          offset := off
          slew := -off.toInt
          lastAt := s.timeNow
          hold := false
          longHold := false } }
    else s)

/-! ### Holdover (R351) -/

/-- HOLDOVER_ENTRY: no exchange with any parent for 250 us; a grandmaster has none. -/
def execHoldoverEntry (s : State) : Out :=
  let s := s.tickTime
  .next (if s.time.gm || s.time.src || s.time.hold || !s.since s.time.lastAt 4000000 then s
    else { s with time := { s.time with hold := true, holdAt := s.timeNow } })

/-- HOLDOVER_SYNC_LOSS: 1 ms of holdover. -/
def execHoldoverSyncLoss (s : State) : Out :=
  let s := s.tickTime
  .next (if s.time.hold && !s.time.longHold && s.since s.time.holdAt 16000000 then
      { s with time := { s.time with longHold := true, growAt := s.timeNow } }
    else s)

/-- PACKAGE_TERM_GROWTH: a further millisecond of PTIME in holdover. -/
def execPackageTermGrowth (s : State) : Out :=
  let s := s.tickTime
  .next (if s.time.hold && s.time.longHold && s.since s.time.growAt 16000000 then
      { s with time := { s.time with term := s.time.term + 32, growAt := s.time.growAt + 16000000 } }
    else s)

/-! ### Frames received (18_fabric R334, R335, R337, R341) -/

/-- A time message acts by its TYPE; its sender's package term is known from it (R349). -/
def State.takeTime (s : State) (ty : Nat) (m : TimeMsg) : Out :=
  let s := { s with time := { s.time with terms := (m.src, m.bound.toNat) :: s.time.terms.filter fun e => e.1 ≠ m.src } }
  match ty with
  | 0 => execSync m s
  | 1 => execFollow m s
  | 2 => execDreq m s
  | 3 => execDresp m s
  | _ => execAnnounce m s

/-- FRAME_RECEIVE on a port of an I/O die: a malformed or misrouted frame is discarded and counted (FRAME_DISCARD); one for another
device is kept for its onward hop (R334, R335, R337). A peer marked down is not heard until it is readmitted (R341). What
comes through a switch and is no scale-up frame counts as a link-level keepalive (R343). -/
def execFrameReceive (iod : Nat) (pf : PortFrame) (s : State) : Out :=
  let f := pf.frame
  if !isIod iod || s.asleep || !s.takesFrame pf.port f then .next s
  else
    let s := (s.meterIn iod pf.port f.good).hearPath f
    if f.etype ≠ 0x88B5 then .next s
    else if s.malformed f then .next (s.discardFrame iod)
    else if f.ddev ≠ s.chip then .next (s.relayFrame iod pf.port f)
    else if f.cls = 3 then
      match timeMessage f.sdev f.time with
      | none => .next s
      | some m => s.takeTime m.1 m.2
    else .next (if (s.conn f.sdev).down && !f.rst then s else (s.hear f.sdev).receiveFrame f)

end Sys2Proof.Machine
end

