-- ==== Sys2Proof/Machine/Service.lean ====
section
/-!
DEFINITION. Machine/Service.lean: the management controller (21_service R377-R389): mailbox commands, coordinated
suspend, draining and rejoining units, tenants and granules, bring-up, clocks and scrubbing.
-/

namespace Sys2Proof.Machine

/-! ### Commands (R386) -/

/-- A mailbox command performed: the command that is posted and not done is executed and its status is given; one from
the non-secure world, ATTEST aside, has STATUS 3. The controller runs from the boot ROM on (R387). -/
def State.perform (s : State) (code : Byte) (f : State → State × BitVec 4) : State :=
  let m := s.mailbox
  if m.cmd = code && !m.done && decide (1 ≤ s.bootStep) then
    let r := if m.nonsecure && code ≠ 0x02 then (s, 3) else f s
    { r.1 with mailbox := { r.1.mailbox with done := true, status := r.2 } }
  else s
/-- ARGi of the mailbox. -/
def State.arg (s : State) (i : Nat) : Word := Sparse.get 0 s.mailbox.args (i + 1)
/-- n bytes of host memory (09_address R230: bit 63 of a global address). -/
def State.hostBytes (s : State) (a : Word) (n : Nat) : List Byte :=
  (List.range n).map fun i => s.readByte (2 ^ 63 + (a.toNat + i) % 2 ^ 63)

/-- LOADFW (R388): the image is measured and its signature checked; on failure the device stays where it is. -/
def execLoadfw (s : State) : Out :=
  .next (s.perform 0x01 fun s =>
    let image := s.hostBytes (s.arg 0) (s.arg 1).toNat
    if Config.signatureGood image then
      ({ s with
        bootStep := if s.bootStep = 1 then 2 else s.bootStep
        mailbox := { s.mailbox with
          image := sha512 image
          measure := sha512 (hashBytes s.mailbox.measure ++ hashBytes (sha512 image)) } },
        0)
    else (s, 4))

/-- ATTEST (R388): the device number, the measurements, the nonce and LIVE are written, and their signature after them; R388 names them in
this order and gives no layout (DESIGN CHOICE, log entry 63). -/
def execAttest (s : State) : Out :=
  .next (s.perform 0x02 fun s =>
    let nonce := s.hostBytes (s.arg 0) 64
    let out := natBytes 2 s.chip ++ hashBytes s.mailbox.measure ++ nonce ++ natBytes 1 s.live.toNat
    (s.writeBytes (2 ^ 63 + (s.arg 1).toNat % 2 ^ 63) (out ++ Config.attestation out), 0))

/-! ### Coordinated suspend (R385) -/

/-- The device number and those of the set bitmap. -/
def State.suspendSet (s : State) : List Nat :=
  s.chip :: ((List.range 16384).filter fun c => s.mapBit s.mailbox.setMap c)
/-- Harts that run or are being stopped. -/
def State.activeHarts (s : State) : List Nat :=
  (s.harts.filter fun e => match e.2.run with
    | .running | .stopping _ _ => true
    | _ => false).map (·.1)
/-- A die has reached the deadline: its harts are pre-empted, and its contexts parked (R353, R385). -/
def State.quiesceDie (s : State) (d : Nat) : State :=
  let s := { s with mailbox := { s.mailbox with reached := d :: s.mailbox.reached } }
  let s := (s.activeHarts.filter fun h => slotDie h = d).foldl (fun s h => s.preempt h false) s
  ((s.ctxs.map (·.1)).filter fun k => k / 2048 + 8 = d).foldl (fun s k => s.setStopped k true) s
/-- QUIESCE on some dies, the device's grants, launches and regions waiting from the first one on (R385). -/
def State.quiesce (s : State) (late : Bool) (ds : List Nat) : State :=
  ds.foldl State.quiesceDie { s with mailbox := { s.mailbox with state := .quiesce, late := late } }
/-- The dies whose own PTIME has reached the deadline since (R353). -/
def State.quiesceDue (s : State) : List Nat :=
  s.timedDies.filter fun d => !s.mailbox.reached.contains d && decide (s.mailbox.deadline ≤ (s.die d).ptime)
/-- PTIME of I/O die A has reached a time. -/
def State.reached (s : State) (t : Word) : Bool := decide (t ≤ s.timeNow)

/-- SUSPEND: in RUN it arms the deadline in ARG0 with the set in ARG1; a deadline that has passed acts at once (R385). -/
def execSuspend (s : State) : Out :=
  .next (s.perform 0x10 fun s =>
    if s.mailbox.state = .run then
      let s := s.tickTime
      let s := { s with mailbox := { s.mailbox with
        state := .armed
        late := false
        downed := false
        deadline := s.arg 0
        setMap := s.arg 1
        quiet := []
        told := []
        reached := [] } }
      (if s.reached s.mailbox.deadline then s.quiesce true (List.range 10) else s, 0)
    else (s, 5))
/-- CANCEL: from ARMED back to RUN (R385, R386). -/
def execCancel (s : State) : Out :=
  .next (s.perform 0x11 fun s =>
    if s.mailbox.state = .armed then ({ s with mailbox := { s.mailbox with state := .run } }, 0) else (s, 5))
/-- RESUME: in RETAINED it gives the resume deadline (R385, R386). -/
def execResume (s : State) : Out :=
  .next (s.perform 0x12 fun s =>
    if s.mailbox.state = .retained then
      ({ s with mailbox := { s.mailbox with resumeAt := some (s.arg 0) } }, 0)
    else (s, 5))

/-- SUSPEND_DEADLINE: PTIME of dies reaches D, of each one its own (R353). -/
def execSuspendDeadline (s : State) : Out :=
  let s := s.tickTime
  .next (if s.mailbox.state = .armed && !s.quiesceDue.isEmpty then s.quiesce false s.quiesceDue
    else if s.mailbox.state = .quiesce then s.quiesce s.mailbox.late s.quiesceDue
    else s)
/-- SAVING begins once every member, this device among them, is quiet. -/
def State.settleQuiet (s : State) : State :=
  if s.mailbox.state = .quiesce && s.suspendSet.all s.mailbox.quiet.contains then
    { s with mailbox := { s.mailbox with state := .saving } }
  else s
/-- This device's own outstanding work is performed: every die is in QUIESCE, no hart runs, no segment is under way, and no frame to a live peer waits or
awaits its acknowledgement. -/
def State.workDone (s : State) : Bool :=
  s.timedDies.all s.mailbox.reached.contains && s.activeHarts.isEmpty &&
    s.ctxs.all (fun c => !c.2.inFlight || c.2.faulted) && s.outbox.isEmpty && s.holdsOut.isEmpty && s.held.isEmpty &&
    s.conns.all fun c => c.2.down || c.2.failed || (c.2.waiting.isEmpty && c.2.unacked.isEmpty)
/-- QUIET of a member; this device's own once its own outstanding work is performed: it is sent to each other member. -/
def execQuiet (dev : Nat) (s : State) : Out :=
  let m := s.mailbox
  let own := decide (dev = s.chip)
  let due := (m.state = .armed && !own) || (m.state = .quiesce && (!own || s.workDone))
  .next (if due && !m.quiet.contains dev then State.settleQuiet { s with mailbox := { m with
      quiet := dev :: m.quiet
      told := if own then s.suspendSet.filter (· ≠ s.chip) else m.told } }
    else s)
/-- SAVING_TIMEOUT: D + 1 s: the members not yet quiet are marked down. -/
def execSavingTimeout (s : State) : Out :=
  let s := s.tickTime
  .next (if s.mailbox.state = .quiesce && decide (s.mailbox.deadline.toNat + 16000000000 ≤ s.timeNow.toNat) then
      let late := (s.suspendSet.filter fun c => decide (c ≠ s.chip) && !s.mailbox.quiet.contains c).dedup
      let s := late.foldl State.markDown s
      { s with mailbox := { s.mailbox with state := .saving, downed := !late.isEmpty } }
    else s)
/-- Times that the clocks of I/O dies measure from, of connections and of parked collectives, turned into what has passed since them,
and back: nothing passes while the device sleeps (R385). -/
def State.turnTimers (s : State) : State :=
  { s with
    conns := s.conns.map fun e =>
      let now := (s.die (s.connDie e.1)).ptime
      let c := e.2
      (e.1, if c = Conn.reset then c else { c with
        heard := now - c.heard
        sentAt := now - c.sentAt
        retryAt := now - c.retryAt
        pathAt := now - c.pathAt })
    ctxs := s.ctxs.map fun e =>
      (e.1, { e.2 with parkSince := e.2.parkSince.map fun t => ((s.die (e.1 / 2048 + 8)).ptime - t.1, t.2) }) }
/-- The state of every connection stands in the table at CTAB (18_fabric R338). -/
def State.saveConns (s : State) : State :=
  (s.conns.filter fun e => e.2.up).foldl (fun s e => s.saveConn e.1) s
/-- SAVING_COMPLETE: lockets, contexts, connections and time have been saved. -/
def execSavingComplete (s : State) : Out :=
  .next (if s.mailbox.state = .saving && s.activeHarts.isEmpty then
      { s.saveConns.turnTimers with mailbox := { s.mailbox with state := .retained, resumeAt := none } }
    else s)
/-- RESUME_DEADLINE: PTIME reaches the resume deadline. -/
def execResumeDeadline (s : State) : Out :=
  let s := s.tickTime
  .next (if s.mailbox.state = .retained && s.mailbox.resumeAt.any s.reached then
      { s with mailbox := { s.mailbox with state := .resuming } }
    else s)
/-- Dies relocked to a time, in one step forward (19_time R346), and synchronised: the die term is what is left between them (R347). -/
def State.relockTo (s : State) (now : Word) (ds : List Nat) : State :=
  ds.foldl (fun s d =>
    let t := if (s.die d).ptime.ule now then now else (s.die d).ptime
    s.setDie d { s.die d with
      ptime := t
      dieTerm := timeGap t now
      sync := true
      exchanged := now }) s
/-- Dies relocked to the disciplining die. -/
def State.relock (s : State) (ds : List Nat) : State :=
  let s := s.tickTime
  s.relockTo s.timeNow ds

/-- RESUME_COMPLETE: time is relocked, ports are trained anew, connections continue with their sequence numbers, contexts whose
harts are not in lockets go on, and the scheduler restores the harts. -/
def execResumeComplete (s : State) : Out :=
  .next (if s.mailbox.state = .resuming then
      let held := s.lockets.flatMap fun l => l.hart.boundKeys
      let s := (s.relock ((List.range 10).filter (· ≠ s.timeDie))).turnTimers
      let s := ((s.ctxs.map (·.1)).filter fun k => !held.contains k).foldl (fun s k => s.setStopped k false) s
      let s := { s with lscore := [], gscore := [], training := [], spent := [], meters := [] }
      { s with mailbox := { s.mailbox with state := .run, reached := [] } }
    else s)

/-! ### Draining and rejoining (R384) -/

/-- A live region has its home core or scratchpad on one of these cores. -/
def State.coresUsed (s : State) (cores : List Nat) : Bool :=
  s.liveRegions.any fun r =>
    (s.region r).homeCore.any cores.contains || (s.region r).allocs.any fun a => cores.contains a.1
/-- Harts of some cores pre-empted, to be restored elsewhere. -/
def State.clearCores (s : State) (cores : List Nat) : State :=
  (cores.flatMap coreSlots).foldl (fun s h => s.preempt h false) s
/-- A unit taken out of service. -/
def State.takeOut (s : State) (u : SvcUnit) : State :=
  if s.drained.contains u then s else { s with drained := u :: s.drained }
/-- The pairings of a port of an I/O die: 0 to 17 local, 18 to 35 global (18_fabric R332). -/
def portPairs (iod n : Nat) : List (Nat × Nat) :=
  if n < 18 then (List.range 143).map fun k => ((iod - 8) * 18 + n, k + 1)
  else if n < 36 then (List.range 63).map fun k => (36 + (iod - 8) * 18 + (n - 18), k + 1)
  else []

/-- An I/O die goes out of service. Where it has disciplined the package the other one does from now on, and what bounded its own distance
joins every die's term and the package's until exchanges give new ones (19_time R347, R348). -/
def State.handOver (s : State) (d : Nat) : State :=
  let o := 17 - d
  let gap := (s.die o).dieTerm
  if d ≠ s.timeDie then s.takeOut (.iod d)
  else
    let s := (List.range 10).foldl (fun s c => s.setDie c { s.die c with dieTerm := if c = o then 0 else (s.die c).dieTerm + gap }) s
    let s := s.setDie o { s.die o with sync := (s.die o).sync || (s.die d).sync }
    { s.takeOut (.iod d) with time := { s.time with term := s.time.term + gap } }

/-- DRAIN (R384): STATUS 2 while a unit's precondition fails, STATUS 1 for a unit that does not exist. -/
def execDrain (u : SvcUnit) (s : State) : Out :=
  .next (s.perform 0x20 fun s =>
    match u with
    | .core d c =>
      if !s.liveDie d || 16 ≤ c then (s, 1)
      else if s.coresUsed [d * 16 + c] then (s, 2)
      else ((s.takeOut u).clearCores [d * 16 + c], 0)
    | .die d =>
      let cores := (List.range 16).map (d * 16 + ·)
      if !s.liveDie d then (s, 1)
      else if s.coresUsed cores || s.liveRegions.any (fun r => (s.region r).dies &&& s.live = 1#8 <<< d) then (s, 2)
      else ((s.setDie d { s.die d with out := true }).clearCores cores, 0)
    | .engine d n => if isIod d ∧ n < 16 then (s.takeOut u, 0) else (s, 1)
    | .port d n => if isIod d ∧ n < 40 then (s.takeOut u, 0) else (s, 1)
    | .iod d => if !isIod d then (s, 1) else if s.iodUp (17 - d) then (s.handOver d, 0) else (s, 2))

/-- A die that has been reset: its counters, its error record and its CYCLE begin anew, PTIME goes on (01_machine R32, R34), and
it runs at its own clock (00_scope R2). -/
def State.resetDie (s : State) (d : Nat) : State :=
  s.setDie d { Die.reset with ptime := (s.die d).ptime, mhz := if isIod d then 1500 else 1650 }
/-- REJOIN (R384): a core's retired clusters are cleared; a port's pairings are trained in full; a die that was out starts from its
reset and its time is relocked (19_time R346); an I/O die's firmware is loaded and measured again (R388). -/
def execRejoin (u : SvcUnit) (s : State) : Out :=
  .next (s.perform 0x21 fun s =>
    let out := s.drained.contains u
    let s := s.tickTime
    let s := { s with drained := s.drained.filter (· ≠ u) }
    match u with
    | .core d c => ({ s with laneOff := Sparse.set 0 s.laneOff (d * 16 + c) 0 }, 0)
    | .die d => (if (s.die d).out then State.relock (s.resetDie d) [d] else s, 0)
    | .port d n =>
      ({ s with training := (portPairs d n).foldl (fun l p => Sparse.set 0 l (pairKey p.1 p.2) 1) s.training }, 0)
    | .engine _ _ => (s, 0)
    | .iod d =>
      if !out then (s, 0)
      else
        let m := s.mailbox
        let now := (s.die (17 - d)).ptime
        let s := { s.resetDie d with mailbox := { m with
          measure := sha512 (hashBytes m.measure ++ hashBytes m.image) } }
        (s.relockTo now [d], 0))

/-- The home of a virtual address, as a party translates it, or of a table entry on the way there, is out of service. -/
def State.homeOut (s : State) (p : Party) (va : Word) : Bool :=
  let out (ga : Nat) : Bool := (s.farDev ga).isNone && !gaHost ga && (s.die (s.homeDie ga)).out
  (s.lookup p.die p.tenant p.ptroot va.toNat).any (fun pg => out (pg.ga va.toNat)) ||
    ((s.walkMeets p va).isSome && (s.walkPath va.toNat 5 p.ptroot.toNat).any out)
/-- The member of the executing hart's queue whose access waits at an address. -/
def State.stalledMember (s : State) (va : Word) : Option Nat :=
  (List.range s.me.queue.length).find? fun n =>
    let e := s.me.queue.getD n QEntry.vacant
    !e.done && (queuedWord e.word).any fun q =>
      let placed := e.placed.or (q.place s e)
      (placed.any fun p => p.waits && p.bad.any fun b => decide (b.2.2 = va)) ||
        match q.act s { e with stop := s.me.actStop e, placed := placed } with
        | .wait _ v => v = va
        | _ => false
/-- The operand addresses of a wait that tests memory (06_memory_isa R180). -/
def waitVas (t : Hart) : Instr → List Word
  | .waitg f | .waitwEq f | .waitwNe f | .waitwGen f | .waitwLtn f => [t.xr f.a]
  | .qpop f | .qpush f => [t.xr f.a, t.xr f.b]
  | _ => []
/-- The address at which a wait of a hart stands because of a die out of service: an operand's, or the header's where it is the ring. -/
def State.waitOut (s : State) (h : Nat) : Option Word :=
  (s.hart h).wait.bind fun w =>
    let vas := waitVas (s.hart h) w.instr
    let p := s.party h
    (vas.find? (s.homeOut p)).or
      (if vas.length < 2 then none
      else vas.head?.filter fun va => (s.lookup p.die p.tenant p.ptroot va.toNat).any fun pg =>
        (s.die (s.homeDie (qHeader (s.readGa (pg.ga va.toNat) 32)).ring)).out)
/-- The side and the address at which a context's segment, contribution or result waits. -/
def State.ctxWait (s : State) (key : Nat) : Option (Nat × Word) :=
  let x := s.ctx key
  let side (r : Except SegStop (List Loc)) : Option (Nat × Word) := match r with
    | .error (.wait side va) => some (side, va)
    | _ => none
  match x.eng.head?, x.current with
  | some c, _ => if x.inFlight then (match s.segment x c with
      | some (.error (.wait sd va)) => some (sd, va)
      | _ => none) else none
  | none, some m =>
    if m.given then side (s.segSide (x.party m.user) .bulkWr 1 m.buf (collBuffer m.word m.group.length))
    else side (s.segSide (x.party m.user) .bulkRd 0 m.buf (collBuffer m.word m.group.length))
  | none, none => none
/-- DRAINED_DIE_ACCESS_TIMEOUT: an access has waited 2 s for a die that is out of service: it faults PEERDOWN (R384); that of a
queued member as its vector trap, from 4,096 on that of context `h` - 4,096 in its record, and from 8,192 on the host's accesses
on the link of I/O die `h` - 8,192 end. -/
def execDrainedDieAccessTimeout (h : Nat) (s : State) : Out :=
  let key := h - 4096
  let x := s.ctx key
  let t := s.hart h
  .next (if 8192 ≤ h then s.hostTimeout (h - 8192)
    else if 4096 ≤ h then
      match s.ctxWait key with
      | none => s
      | some (side, va) =>
        if x.faulted || !s.homeOut (x.party false) va then s
        else match x.eng.head?, x.current with
          | some c, _ => s.faultCtx key causePeerdown side 0 c.num va c.perf
          | none, some m => s.faultColl key causePeerdown side 0 va m
          | none, none => s
    else if !s.runs h then s
    else match s.waitOut h, t.stalled, t.qstalled with
      | some va, _, _ => ((s.asHart h).withMe fun t => { t with wait := none }).raise causePeerdown va
      | none, some va, _ =>
        if s.homeOut (s.party h) va then ((s.asHart h).withMe fun t => { t with stalled := none }).raise causePeerdown va
        else s
      | none, none, some va =>
        if !s.homeOut (s.party h) va then s
        else match (s.asHart h).stalledMember va with
          | none => s
          | some n =>
            if s.faultWaits h then s
            else (s.asHart h).vectorFault n causePeerdown va (((t.queue[n]?).map (·.restart)).getD 0)
      | none, none, none => s)

/-! ### Tenants and owners (R381-R383) -/

/-- Secure harts on cores that have become non-secure are pre-empted, to be restored elsewhere (R382). -/
def State.clearSecure (s : State) : State :=
  ((s.activeHarts.filter fun h => s.plainCores.contains (coreOf h) && (s.hart h).secure).filter fun h =>
    decide ((s.hart h).run = .running)).foldl (fun s h => s.preempt h false) s
/-- TENANT (R381, R382): the tenant's mode, its cores and channels (die * 64 + channel), and which of the command's cores
are non-secure. -/
def execTenant (tenant : Nat) (strict : Bool) (cores chans plain : List Nat) (s : State) : Out :=
  .next (s.perform 0x30 fun s =>
    let give (l : List (Nat × Nat)) (ks : List Nat) : List (Nat × Nat) :=
      let l := (l.filter fun e => e.2 = tenant + 1).foldl (fun m e => Sparse.set 0 m e.1 0) l
      if strict then ks.foldl (fun m k => Sparse.set 0 m k (tenant + 1)) l else l
    (State.clearSecure { s with
      strict := if strict then (if s.strict.contains tenant then s.strict else tenant :: s.strict)
        else s.strict.filter (· ≠ tenant)
      coreOwner := give s.coreOwner cores
      chanOwner := give s.chanOwner chans
      plainCores := (s.plainCores.filter fun c => !cores.contains c && !plain.contains c) ++ plain.dedup },
      0))

/-- OWNER: a granule of 2 MiB, by its global address / 2^21, is reassigned: it is zeroed before the new owner can read
it, and accesses wait until that is complete (R383). -/
def execOwner (granule tenant : Nat) (s : State) : Out :=
  .next (s.perform 0x31 fun s =>
    let a := granule * 2 ^ 21
    if gaHost a || gaKind a ≠ 0 || gaChip a ≠ s.chip || !s.pagePopulated a (2 ^ 21) then (s, 1)
    else if Sparse.get 0 s.granuleOwner granule = tenant + 1 then (s, 0)
    else
      ({ s.zeroRange a (2 ^ 21) with
        granuleOwner := Sparse.set 0 s.granuleOwner granule (tenant + 1)
        zeroing := if s.zeroing.contains granule then s.zeroing else granule :: s.zeroing }, 0))
/-- ZEROING_COMPLETE (R383). -/
def execZeroingComplete (granule : Nat) (s : State) : Out :=
  .next { s with zeroing := s.zeroing.filter (· ≠ granule) }

/-! ### Bring-up (R305, R387) -/

/-- A field of a region control block replaced (14_regions R286). -/
def rcbPut (v off bit w x : Nat) : Nat :=
  let b := 8 * off + bit
  v % 2 ^ b + x % 2 ^ w * 2 ^ b + v / 2 ^ (b + w) * 2 ^ (b + w)
/-- The RCB of the steward: its STEWARD bit is set, its priority is 15, its world is secure, it may be placed on every die, and
its budgets cover the device (R305); the rest of it is firmware's. -/
def stewardRcb : Nat :=
  [(0x00, 0, 18, 0x3FFFF), (0x00, 32, 1, 1), (0x08, 0, 4, 15), (0x08, 16, 8, 0xFF), (0x10, 16, 1, 1), (0x18, 0, 16, 1024),
    (0x18, 16, 16, 1024), (0x18, 32, 8, 128), (0x20, 0, 32, 0x180000), (0x20, 32, 32, 196608), (0x28, 0, 16, 2048),
    (0x28, 16, 16, 2048), (0x30, 0, 64, 2 ^ 41)].foldl (fun v x => rcbPut v x.1 x.2.1 x.2.2.1 x.2.2.2)
    (Config.stewardBlock % 2 ^ 5120)
/-- Firmware launches the steward region: its RCB is in memory, the scheduler has its locket spaces, its initial grants are
queued (R305). -/
def State.launchSteward (s : State) : State :=
  let rcb := Config.stewardRcb
  let s := { s.writeGa rcb 640 stewardRcb with pool := Config.locketPool }
  (s.createRegion stewardRcb (rcbRegion stewardRcb rcb (rcb + 0x68) none Region.empty true)).zeroOwnCompl s.nextRegion
/-- The host links that train at port training: that of I/O die A always, that of B where there is one, each as PCI Express or as
CXL (15_io_dies R307, R313). -/
def State.trainLinks (s : State) : State :=
  { s with
    links := ([8, 9].filter fun d => decide (d = 8) || Config.linkTrains s.fresh).map fun d => (d, Config.linkCxl (s.fresh + d))
    fresh := s.fresh + 10 }
/-- The dies that a boot finds in service: one that is out at a boot has left permanently, which changes LIVE and DIETAB (R384,
09_address R233). -/
def State.bootLive (s : State) : BitVec 8 :=
  let l := BitVec.ofNat 8 ((List.range 8).map fun d => if s.live.getLsbD d && !(s.die d).out then 2 ^ d else 0).sum
  if l = 0 then s.live else l
/-- BOOT: the next step of bring-up (R387). LOADFW alone completes step 2. From step 7 the device is reset, with memory,
what firmware sets at boot, and the outside world as they were. -/
def execBoot (s : State) : Out :=
  .next (match s.bootStep with
    | 1 => s
    | 4 => State.electGrandmaster { s.relock (List.range 10) with bootStep := 5 }
    | 5 => { s.trainLinks with bootStep := 6 }
    | 6 => State.launchSteward { s with bootStep := 7 }
    | 7 =>
      { State.reset with
        mem := s.mem
        poison := s.poison
        chip := s.chip
        live := s.bootLive
        groups := s.groups
        inbox := s.inbox
        present := s.peers
        peers := s.peers
        scaleOut := s.scaleOut
        plainPorts := s.plainPorts
        secure := s.secure
        epoch := s.epoch
        ctab := s.ctab
        swmode := s.swmode
        macs := s.macs
        time := { State.reset.time with
          gmpri := s.time.gmpri
          src := s.time.src
          tzero := s.time.tzero
          gmdev := BitVec.ofNat 14 s.chip
          parent := BitVec.ofNat 14 s.chip }
        podTime := s.podTime
        hostReads := s.hostReads
        posted := s.posted
        hostWaits := s.hostWaits
        inputs := s.inputs
        next := s.next
        fresh := s.fresh }
    | n => { s with bootStep := n + 1 })

/-! ### Clocks and scrubbing (R377, R389; 01_machine R33) -/

/-- CLOCK_RATE_CHANGE of a compute die, within 0.6 to 2.0 GHz: it changes timing only (R33). -/
def execClockRateChange (die mhz : Nat) (s : State) : Out :=
  .next (if s.liveDie die ∧ 600 ≤ mhz ∧ mhz ≤ 2000 then s.setDie die { s.die die with mhz := mhz } else s)
/-- THERMAL_THROTTLE: firmware lowers the clocks of the compute dies (R389). -/
def execThermalThrottle (mhz : Nat) (s : State) : Out :=
  .next (if 600 ≤ mhz ∧ mhz ≤ 2000 then
      s.liveDies.foldl (fun s d => s.setDie d { s.die d with mhz := min mhz (s.die d).mhz }) s
    else s)
/-- HBM_SCRUB of a line of a die, by its global address, in HBM (and the L2 slice before it) or a scratchpad: a corrected error is counted
in CORR; an uncorrectable one poisons the line and is logged (R377, R378). An address of register space stands for storage that has no
address, registers, accumulator rows, planes and carries, whose corrected errors count as well; their uncorrectable ones come by
VECTOR_TRAP (DESIGN CHOICE, log entry 63). -/
def execHbmScrub (die : Nat) (line : Word) (bad : Bool) (s : State) : Out :=
  let a := line.toNat
  .next (if gaHost a || gaChip a ≠ s.chip || !s.pagePopulated a 1 || s.homeDie a ≠ die then s
    else if !bad then s.setDie die { s.die die with corr := (s.die die).corr + 1 }
    else if gaKind a = 3 || s.poisoned a then s
    else State.logDie { s with poison := (s.canon a / 64) :: s.poison } die (errorUnit a) a)

end Sys2Proof.Machine
end

