-- ==== Sys2Proof/Machine/Agents.lean ====
section
/-!
DEFINITION. Machine/Agents.lean: which agents of the package can move and what each does (01_machine R10; the order among
them is a free value), fetching and running an instruction, what follows every step, and placing an instruction.

`run` stands for `exec`, which Machine/Step.lean gives.
-/

namespace Sys2Proof.Machine

/-! ### What a hart does next -/

/-- What a hart does next. -/
inductive Task where
  | none
  /-- a unit acknowledges a stop -/
  | ack (unit : Nat)
  /-- an instruction whose update of another device has been answered is completed before a stop -/
  | finish
  | save
  | vector (v : VTask)
  | lane
  | buffer
  | replay
  | async
  | waits (i : Instr)
  | fetch
  deriving DecidableEq, Repr

/-- The LANEOFF trap that is due to the executing hart can be taken (20_faults R358, R365). -/
def State.laneReady (s : State) : Bool := s.me.laneDue && s.me.run.lanesWork && !s.faultWaits s.cur
/-- A member of a list by a free choice. -/
def pickTask (fresh : Nat) (l : List Task) : Task := (l[Config.member fresh % l.length]?).getD .none

/-- What the scalar side of the executing hart does next. -/
def State.scalarTask (s : State) : Task :=
  let t := s.me
  match t.rep with
  | some r => if r.captured then .replay else .buffer
  | none =>
    if t.asyncEntry.isSome then .async
    else match t.wait with
      | some w => .waits w.instr
      | none => .fetch
/-- Before the units of a stopped hart rest: those that do not stop yet go on, others acknowledge (20_faults R358, R368). -/
def State.stopTasks (s : State) : List Task :=
  let t := s.me
  let ups := t.asks.filter fun a => decide (a.own = 0) && a.upd
  let owed := t.partReplay ≠ 0
  ((t.run.awaited.filter fun n => !s.unitBusy s.cur n).map .ack) ++
    (if !ups.isEmpty && ups.all Ask.settled then [.finish] else []) ++ (if owed then [.replay] else []) ++
    (if s.laneReady then [.lane] else []) ++ (if t.launching.isSome then t.wait.toList.map fun w => .waits w.instr else []) ++
    (if owed || t.run.awaited.contains 1 || t.run.awaited.contains 3 then t.vectorTasks.map .vector else [])
/-- The task of the executing hart. Its vector side and its scalar side go on independently; which comes first is not promised
(03_encoding R88). -/
def State.hartTask (s : State) : Task :=
  let t := s.me
  match t.run with
  | .free | .held => .none
  | .stopping _ _ | .holding _ => pickTask s.fresh s.stopTasks
  | .stopped _ _ => if s.unitBusy s.cur 3 && !t.vectorTasks.isEmpty then pickTask s.fresh (t.vectorTasks.map .vector) else .save
  | .running =>
    if s.laneReady then .lane
    else if t.vectorTasks.isEmpty || Config.ahead s.fresh then s.scalarTask
    else pickTask s.fresh (t.vectorTasks.map .vector)

/-! ### Turns -/

/-- A hart in its slot that can do something of its own. -/
def Hart.active (t : Hart) : Bool :=
  match t.run with
  | .running | .stopping _ _ | .holding _ | .stopped _ _ => true
  | .free | .held => false
/-- A group of a row that an operation brings and that can land: its row and number. -/
def NbOp.landable (o : NbOp) : Option (Nat × Nat) :=
  if o.held then none
  else o.rows.findSome? fun r =>
    ((List.range 64).find? fun g => r.groups.getLsbD g && !o.awaitsGroup r.row g).map fun g => (r.row, g)
/-- An outstanding non-blocking operation can complete, or a row group of one can land. -/
def Hart.hasNb (t : Hart) : Bool := decide (t.run ≠ .free) && t.nb.any fun o => o.ready || o.landable.isSome
/-- The contexts of an I/O die whose started segment can go on. -/
def State.movingCtxs (s : State) (d : Nat) : List Nat :=
  (s.ctxs.filter fun c => decide (s.ctxDie c.1 = d) && s.segmentMoves c.1).map (·.1)
/-- An I/O die has a segment to perform or to start, or a collective step that can be taken. -/
def State.enginesReady (s : State) (d : Nat) : Bool :=
  !(s.movingCtxs d).isEmpty || (s.readyColl d).isSome || (s.served d).isSome

/-- The agents that can move. -/
def State.agents (s : State) : List Agent :=
  (if s.inputs.isEmpty then [] else [.input]) ++ (if s.hostDue.isEmpty then [] else [.host]) ++
    ((s.harts.filter fun e => e.2.active).map fun e => .hart e.1) ++
    ((s.harts.filter fun e => e.2.hasNb).map fun e => .nonblocking e.1) ++
    (([8, 9].filter s.enginesReady).map fun d => .engines d)

/-- Before a fetch: no access waits any more. -/
def State.beforeFetch (s : State) : State := s.withMe fun t => { t with stalled := none }

/-- A fetch at the pc (04_scalar R104): a fault traps with the fetch address; the fault of a fetch at the handler of a trap
just entered stops the hart with that trap's cause and changes no CSR (R130). -/
def State.fetched (s : State) : Except State (State × IWord) :=
  match s.fetchWord s.me.pc with
  | .ok (s', w) => .ok (s'.withMe fun t => { t with entering := false }, w)
  | .error (s', .wait va) => .error (s'.halt (.wait va))
  | .error (s', e) =>
    if s.me.entering then
      .error (s.withMe fun t => { t with
        entering := false
        run := .stopped ((t.csrv 0x102).extractLsb' 0 8) false })
    else .error (s'.halt e)

/-- A hart issues nothing while its vector queue is full (12_operand_delivery R270), but goes on with an access that it has sent. -/
def Hart.heldUp (t : Hart) : Bool := t.queueFull && !t.asks.any fun a => a.own = 0

/-- The instruction word at the executing hart's pc can issue: the queue has room, and it names no register that a vector-to-scalar
member has still to write (12_operand_delivery R270); a fetch that traps issues as well. -/
noncomputable def State.canIssue (s : State) : Bool :=
  !s.me.heldUp && match s.beforeFetch.fetched with
  | .error _ => true
  | .ok (v, w) => !v.me.owes (wordRegs w)
/-- A hart whose scalar side can issue its next instruction; whether a multi-clock one that it issued last still occupies it is a
free value (12_operand_delivery R270). -/
noncomputable def State.runnable (s : State) (h : Nat) : Bool :=
  let t := s.hart h
  decide (t.run = .running) && t.stalled.isNone && decide ((s.asHart h).scalarTask = .fetch) &&
    (!t.multi || Config.ready s.fresh h) && (s.asHart h).canIssue
/-- The order in which a core picks runnable harts: region priority, those that have not yielded in the round, the one that
issued least recently, the lower slot (R270). -/
def State.issuesBefore (s : State) (a b : Nat) : Bool :=
  let yields (h : Nat) : Nat := if (s.hart h).yielded = some (s.round h) then 1 else 0
  decide (s.prioOf b < s.prioOf a) || (decide (s.prioOf a = s.prioOf b) &&
    (decide (yields a < yields b) || (decide (yields a = yields b) &&
      (decide ((s.hart a).issuedAt < (s.hart b).issuedAt) ||
        (decide ((s.hart a).issuedAt = (s.hart b).issuedAt) && decide (a ≤ b))))))
/-- The hart that issues on the turn of one of a core: the first of its runnable harts; with none, the hart itself tries. -/
noncomputable def State.issuer (s : State) (h : Nat) : Nat :=
  let l := (coreSlots (coreOf h)).filter s.runnable
  ((l.foldl (fun l k => insertBy s.issuesBefore k l) []).head?).getD h

/-- Whose turn it is: the agent set to be next, else one of those that can move (a free choice); where a hart would issue an
instruction its core picks which. -/
noncomputable def State.turn (s : State) : Option (State × Agent) :=
  match s.next with
  | some a => some ({ s with next := none }, a)
  | none =>
    let l := s.agents
    (l[Config.turn s.fresh % l.length]?).map fun a =>
      let s := { s with fresh := s.fresh + 1 }
      match a with
      | .hart h => (s, .hart (if (s.asHart h).hartTask = .fetch ∧ (s.hart h).stalled.isNone then s.issuer h else h))
      | a => (s, a)

/-! ### The moves of the other agents -/

/-- An outstanding operation of a hart completes, or a row group of one lands (06_memory_isa R169-R171). -/
def State.nonblockingMove (s : State) (h : Nat) : Out :=
  let l := (s.hart h).nb.filter fun o => o.ready || o.landable.isSome
  let s' := { s with fresh := s.fresh + 1 }
  match l[Config.member s.fresh % l.length]? with
  | none => .next s'
  | some o =>
    match o.landable with
    | some x => if o.ready && Config.ahead s.fresh then execNonblockingComplete h o.ctr o.num.toNat s'
      else execLoadGroupLanding h x.1 x.2 s'
    | none => execNonblockingComplete h o.ctr o.num.toNat s'

/-- A started segment of an I/O die is performed or faults, a collective command goes on, or the next segment starts; which is
not promised. -/
def State.engineMove (s : State) (d : Nat) : Out :=
  let acts : List (State → Out) :=
    ((s.movingCtxs d).map fun k s => match s.segmentFault k with
      | some (c, side, va) => execEngineFault k c side va s
      | none => execSegmentPerformed k s) ++
    ((s.readyColl d).toList.map fun c s => .next (s.tryCmd c.1 c.2)) ++
    (if (s.served d).isSome then [execSegmentStart d] else [])
  match acts[Config.member s.fresh % acts.length]? with
  | none => .next s
  | some f => f { s with fresh := s.fresh + 1 }

/-! ### A hart's move -/

/-- The answers that an access of a hart has got are done with once it no longer waits. -/
def State.settleAsks (s : State) (h : Nat) : State :=
  let t := s.hart h
  if t.stalled.isNone && t.wait.isNone &&
      (t.access.isSome || t.fetching.isSome || t.asks.any fun a => a.own = 0 || a.own = 2 || a.own = 4) then
    s.setHart h (((t.dropAsks 0).dropAsks 2).dropAsks 4)
  else s

/-- Before a waiting instruction is tried again: time has passed for a deadline (06_memory_isa R180). -/
def State.beforeRetry (s : State) : State :=
  (if s.me.wait.any fun w => w.deadline ≠ 0 then s.tickTime else s).withMe fun t =>
    { t with stalled := none }

/-- A multi-clock scalar instruction (12_operand_delivery R270). -/
noncomputable def multiClock (w : IWord) : Bool :=
  match decode w with
  | .ok (.mul _) | .ok (.mulh _) | .ok (.mulhn _) | .ok (.div _) | .ok (.divn _) | .ok (.rem _) | .ok (.remn _) => true
  | _ => false
/-- The clock in which a hart issues, from the earliest on: at most one instruction of a hart and four of a core issue in one
(12_operand_delivery R270). -/
def State.issueClock (s : State) (h : Nat) (c : Word) : Word :=
  let t := s.hart h
  let c := if t.issuedAt ≠ 0 && c.ule t.issuedIn then t.issuedIn + 1 else c
  let others := (coreSlots (coreOf h)).filter fun k => decide (k ≠ h ∧ (s.hart k).issuedAt ≠ 0 ∧ (s.hart k).issuedIn = c)
  if 4 ≤ others.length then c + 1 else c
/-- The executing hart issues an instruction word in a clock of its die: it is the one of its core that issued last
(12_operand_delivery R270), and whether a queued instruction runs at its enqueue is the step's free choice. -/
noncomputable def State.issues (s : State) (w : IWord) : State :=
  let s := s.tickCycle (slotDie s.cur)
  let d := s.die (slotDie s.cur)
  let c := s.issueClock s.cur d.cycle
  let s := s.setDie (slotDie s.cur) { d with cycle := c }
  { s.withMe fun t => { t with issuedAt := s.fresh, issuedIn := c, multi := multiClock w } with
    prompt := Config.prompt s.fresh
    fresh := s.fresh + 1 }

/-- An instruction word at a hart's pc: a word that decodes to a well-formed instruction is executed; any other traps
ILLEGAL (03_encoding R75). -/
noncomputable def State.runWord (run : Instr → State → Out) (s : State) (w : IWord) : Out :=
  match decode w with
  | .error _ => .next (s.raise causeIllegal (tvalWord w))
  | .ok i => if wellFormed i then run i s else .next (s.raise causeIllegal (tvalWord w))

/-- The executing hart fetches at its pc and runs the word (04_scalar R104), but while its queue is full (12_operand_delivery R270), and
but for one that names a register which a vector-to-scalar member has still to write (05_vector R155). -/
noncomputable def State.fetchRun (run : Instr → State → Out) (s : State) : Out :=
  if s.me.heldUp then .next s
  else match s.fetched with
  | .error s' => .next s'
  | .ok (s', w) => if s'.me.owes (wordRegs w) then .next s else (s'.issues w).runWord run w

/-- The vector side of the executing hart goes on; a unit of its core serves the hart that has precedence (12_operand_delivery
R280). -/
def State.vectorMove (s : State) : VTask → State
  | .drain => s.withMe Hart.dropDrained
  | .group => s.groupStep fun _ => true
  | .unit n => s.serveUnit (coreOf s.cur) n
  | .swap => s.swapStep

/-- A hart's move: its task. -/
noncomputable def State.hartMove (run : Instr → State → Out) (s : State) : Out :=
  let s' := { s with fresh := s.fresh + 1 }
  match s.hartTask with
  | .none => .next s'
  | .ack n => execUnitStopAck s.cur n s'
  | .finish => s'.beforeFetch.fetchRun run
  | .save => execStoppedHartSave s.cur (s'.withMe fun t => { t with stalled := none, wait := none })
  | .vector v => .next (s'.vectorMove v)
  | .lane => .next (s'.laneTrap s.cur)
  | .buffer => execRepBufferAcquire s.cur s'
  | .replay => execReplayEnqueue s.cur s'
  | .async => execAsyncTrap s.cur s'
  | .waits i => run i s'.beforeRetry
  | .fetch => s'.beforeFetch.fetchRun run

/-- An agent's move. -/
noncomputable def State.move (run : Instr → State → Out) (s : State) : Agent → Out
  | .input =>
    match s.inputs with
    | [] => .next s
    | i :: t => run i { s with inputs := t }
  | .host => .next s.hostMove
  | .hart h => State.hartMove run ((s.asHart h).settleAsks h)
  | .nonblocking h => s.nonblockingMove h
  | .engines d => s.engineMove d

/-! ### After every step -/

/-- Harts in their slots that have stopped on a trap they could not take, in the order in which they stopped (14_regions
R294). -/
def State.noteStops (s : State) : State :=
  let now := (s.harts.filter fun e => match e.2.run with
    | .stopped _ _ => true
    | _ => false).map (·.1)
  { s with stops := s.stops.filter now.contains ++ now.filter fun h => !s.stops.contains h }
/-- Regions whose completion word has waited for its home, or whose end has (14_regions R295; 21_service R384). -/
def State.duePays (s : State) : List Nat :=
  (s.regions.filter fun g => !g.2.done && !g.2.opening && (decide (g.2.owed ≠ 0) || decide (s.liveCount g.1 = 0))).map (·.1)
/-- What follows every step: records that wait at their homes are performed where they can be, homes evaluate the conditions of the
words that are waited for (06_memory_isa R184), what is due to completion words is written, and queued initial grants are made as soon
as they can be (14_regions R299). -/
def State.afterStep (s : State) : State :=
  let s := s.serveHeld.noticeAll.noteStops
  (s.duePays.foldl State.settleRegion s).grantWaiting
/-- The next state of an outcome changed. -/
def Out.after (o : Out) (f : State → State) : Out :=
  match o with
  | .next s => .next (f s)
  | .fault r => .fault r
  | .refused r => .refused r

/-! ### Placing an instruction (log entry 40) -/

/-- A page-table entry: a pointer to the node at a kind-0 address, and a leaf that grants everything at offset 0 of a page
of 2^28 bytes (09_address R238-R240). -/
def pointerEntry (ga : Nat) : Nat := 1 + ga / 4096 * 2 ^ 64
def leafEntry (ga : Nat) : Nat := 0x3F + ga / 4096 * 2 ^ 64
/-- Hart 0 of the package with all clusters of its core, in supervisor privilege, about to fetch a word that stands at
virtual address 0x4000, which a page table of three nodes maps to the same offset of the lowest live die's memory. -/
def State.placeWord (s : State) (w : IWord) : State :=
  let d := s.liveDies.headD 0
  let base := mkGa s.chip d 0 0
  let s := s.setDie d { s.die d with out := false }
  let s := (s.writeGa (base + 0x1000) 16 (pointerEntry (base + 0x2000))).writeGa (base + 0x2000) 16
    (pointerEntry (base + 0x3000))
  let s := (s.writeGa (base + 0x3000) 16 (leafEntry base)).writeGa (base + 0x4000) 4 w.toNat
  let t := { s.hart 0 with
    run := .running
    pc := 0x4000
    priv := .supervisor
    entering := false
    map := 0xFF
    pending := none
    convoyOpen := false
    queue := []
    tile := []
    rep := none
    wait := none
    engFault := false
    collFault := false
    laneDue := false
    asks := []
    access := none
    fetching := none
    launching := none
    stalled := none }
  { s.setHart 0 ((t.setCsr 0x106 (BitVec.ofNat 64 (base + 0x1000))).setCsr 0x107 0) with
    cur := 0
    tlb := []
    poison := []
    secure := []
    strict := []
    zeroing := []
    next := some (.hart 0) }

end Sys2Proof.Machine
end

