-- ==== Sys2Proof/Machine/Dispatch.lean ====
section
/-!
DEFINITION. Machine/Dispatch.lean: every instruction and step runs its meaning, one arm per constructor.
-/

namespace Sys2Proof.Machine

/-- The meaning of an instruction (03_encoding R74) or of a step without an encoding, as `s.cur` executes it. -/
def exec (i : Instr) (s : State) : Host.Outcome State Fault Refusal :=
  match i with
  | .min f => Sys2Proof.Machine.execMin f s
  | .max f => Sys2Proof.Machine.execMax f s
  | .minn f => Sys2Proof.Machine.execMinn f s
  | .maxn f => Sys2Proof.Machine.execMaxn f s
  | .clz f => Sys2Proof.Machine.execClz f s
  | .ctz f => Sys2Proof.Machine.execCtz f s
  | .popc f => Sys2Proof.Machine.execPopc f s
  | .rol f => Sys2Proof.Machine.execRol f s
  | .ror f => Sys2Proof.Machine.execRor f s
  | .addw f => Sys2Proof.Machine.execAddw f s
  | .subw f => Sys2Proof.Machine.execSubw f s
  | .addi f => Sys2Proof.Machine.execAddi f s
  | .andi f => Sys2Proof.Machine.execAndi f s
  | .ori f => Sys2Proof.Machine.execOri f s
  | .xori f => Sys2Proof.Machine.execXori f s
  | .slti f => Sys2Proof.Machine.execSlti f s
  | .sltni f => Sys2Proof.Machine.execSltni f s
  | .slli f => Sys2Proof.Machine.execSlli f s
  | .srli f => Sys2Proof.Machine.execSrli f s
  | .srai f => Sys2Proof.Machine.execSrai f s
  | .lui f => Sys2Proof.Machine.execLui f s
  | .auipc f => Sys2Proof.Machine.execAuipc f s
  | .beq f => Sys2Proof.Machine.execBeq f s
  | .bne f => Sys2Proof.Machine.execBne f s
  | .blt f => Sys2Proof.Machine.execBlt f s
  | .bge f => Sys2Proof.Machine.execBge f s
  | .bltn f => Sys2Proof.Machine.execBltn f s
  | .bgen f => Sys2Proof.Machine.execBgen f s
  | .jal f => Sys2Proof.Machine.execJal f s
  | .jalr f => Sys2Proof.Machine.execJalr f s
  | .ldb f => Sys2Proof.Machine.execLdb f s
  | .ldh f => Sys2Proof.Machine.execLdh f s
  | .ldw f => Sys2Proof.Machine.execLdw f s
  | .ldd f => Sys2Proof.Machine.execLdd f s
  | .ldbs f => Sys2Proof.Machine.execLdbs f s
  | .ldhs f => Sys2Proof.Machine.execLdhs f s
  | .ldws f => Sys2Proof.Machine.execLdws f s
  | .stb f => Sys2Proof.Machine.execStb f s
  | .sth f => Sys2Proof.Machine.execSth f s
  | .stw f => Sys2Proof.Machine.execStw f s
  | .std f => Sys2Proof.Machine.execStd f s
  | .amosAdd f => Sys2Proof.Machine.execAmosAdd f s
  | .amosAnd f => Sys2Proof.Machine.execAmosAnd f s
  | .amosOr f => Sys2Proof.Machine.execAmosOr f s
  | .amosXor f => Sys2Proof.Machine.execAmosXor f s
  | .amosMin f => Sys2Proof.Machine.execAmosMin f s
  | .amosMax f => Sys2Proof.Machine.execAmosMax f s
  | .amosMinn f => Sys2Proof.Machine.execAmosMinn f s
  | .amosMaxn f => Sys2Proof.Machine.execAmosMaxn f s
  | .amosSwap f => Sys2Proof.Machine.execAmosSwap f s
  | .amosCas f => Sys2Proof.Machine.execAmosCas f s
  | .ldpc f => Sys2Proof.Machine.execLdpc f s
  | .csrr f => Sys2Proof.Machine.execCsrr f s
  | .csrw f => Sys2Proof.Machine.execCsrw f s
  | .csrs f => Sys2Proof.Machine.execCsrs f s
  | .csrc f => Sys2Proof.Machine.execCsrc f s
  | .lksv f => Sys2Proof.Machine.execLksv f s
  | .lkld f => Sys2Proof.Machine.execLkld f s
  | .hrel f => Sys2Proof.Machine.execHrel f s
  | .setvl f => Sys2Proof.Machine.execSetvl f s
  | .fork f => Sys2Proof.Machine.execFork f s
  | .launch f => Sys2Proof.Machine.execLaunch f s
  | .share f => Sys2Proof.Machine.execShare f s
  | .phaseRel f => Sys2Proof.Machine.execPhaseRel f s
  | .phaseAcq f => Sys2Proof.Machine.execPhaseAcq f s
  | .phaseAr f => Sys2Proof.Machine.execPhaseAr f s
  | .waitc f => Sys2Proof.Machine.execWaitc f s
  | .waitt f => Sys2Proof.Machine.execWaitt f s
  | .waitg f => Sys2Proof.Machine.execWaitg f s
  | .waitwEq f => Sys2Proof.Machine.execWaitwEq f s
  | .waitwNe f => Sys2Proof.Machine.execWaitwNe f s
  | .waitwGen f => Sys2Proof.Machine.execWaitwGen f s
  | .waitwLtn f => Sys2Proof.Machine.execWaitwLtn f s
  | .time f => Sys2Proof.Machine.execTime f s
  | .winfl f => Sys2Proof.Machine.execWinfl f s
  | .qpop f => Sys2Proof.Machine.execQpop f s
  | .qpush f => Sys2Proof.Machine.execQpush f s
  | .ccrd f => Sys2Proof.Machine.execCcrd f s
  | .ccset f => Sys2Proof.Machine.execCcset f s
  | .vadd f => Sys2Proof.Machine.execVadd f s
  | .vsub f => Sys2Proof.Machine.execVsub f s
  | .vrsub f => Sys2Proof.Machine.execVrsub f s
  | .vmul f => Sys2Proof.Machine.execVmul f s
  | .vmulh f => Sys2Proof.Machine.execVmulh f s
  | .vmacc f => Sys2Proof.Machine.execVmacc f s
  | .vmin f => Sys2Proof.Machine.execVmin f s
  | .vmax f => Sys2Proof.Machine.execVmax f s
  | .vand f => Sys2Proof.Machine.execVand f s
  | .vor f => Sys2Proof.Machine.execVor f s
  | .vxor f => Sys2Proof.Machine.execVxor f s
  | .vsll f => Sys2Proof.Machine.execVsll f s
  | .vsrl f => Sys2Proof.Machine.execVsrl f s
  | .vsra f => Sys2Proof.Machine.execVsra f s
  | .vadds f => Sys2Proof.Machine.execVadds f s
  | .vsubs f => Sys2Proof.Machine.execVsubs f s
  | .vaddX f => Sys2Proof.Machine.execVaddX f s
  | .vsubX f => Sys2Proof.Machine.execVsubX f s
  | .vrsubX f => Sys2Proof.Machine.execVrsubX f s
  | .vmulX f => Sys2Proof.Machine.execVmulX f s
  | .vmulhX f => Sys2Proof.Machine.execVmulhX f s
  | .vmaccX f => Sys2Proof.Machine.execVmaccX f s
  | .vminX f => Sys2Proof.Machine.execVminX f s
  | .vmaxX f => Sys2Proof.Machine.execVmaxX f s
  | .vandX f => Sys2Proof.Machine.execVandX f s
  | .vorX f => Sys2Proof.Machine.execVorX f s
  | .vxorX f => Sys2Proof.Machine.execVxorX f s
  | .vsllX f => Sys2Proof.Machine.execVsllX f s
  | .vsrlX f => Sys2Proof.Machine.execVsrlX f s
  | .vsraX f => Sys2Proof.Machine.execVsraX f s
  | .vaddsX f => Sys2Proof.Machine.execVaddsX f s
  | .vsubsX f => Sys2Proof.Machine.execVsubsX f s
  | .vfadd f => Sys2Proof.Machine.execVfadd f s
  | .vfsub f => Sys2Proof.Machine.execVfsub f s
  | .vfmul f => Sys2Proof.Machine.execVfmul f s
  | .vfdiv f => Sys2Proof.Machine.execVfdiv f s
  | .vfmin f => Sys2Proof.Machine.execVfmin f s
  | .vfmax f => Sys2Proof.Machine.execVfmax f s
  | .vfma f => Sys2Proof.Machine.execVfma f s
  | .vfms f => Sys2Proof.Machine.execVfms f s
  | .vfnma f => Sys2Proof.Machine.execVfnma f s
  | .vfnms f => Sys2Proof.Machine.execVfnms f s
  | .vfsgnj f => Sys2Proof.Machine.execVfsgnj f s
  | .vfsgnjn f => Sys2Proof.Machine.execVfsgnjn f s
  | .vfsgnjx f => Sys2Proof.Machine.execVfsgnjx f s
  | .vfaddX f => Sys2Proof.Machine.execVfaddX f s
  | .vfsubX f => Sys2Proof.Machine.execVfsubX f s
  | .vfmulX f => Sys2Proof.Machine.execVfmulX f s
  | .vfdivX f => Sys2Proof.Machine.execVfdivX f s
  | .vfminX f => Sys2Proof.Machine.execVfminX f s
  | .vfmaxX f => Sys2Proof.Machine.execVfmaxX f s
  | .vfmaX f => Sys2Proof.Machine.execVfmaX f s
  | .vfmsX f => Sys2Proof.Machine.execVfmsX f s
  | .vfnmaX f => Sys2Proof.Machine.execVfnmaX f s
  | .vfnmsX f => Sys2Proof.Machine.execVfnmsX f s
  | .vfsgnjX f => Sys2Proof.Machine.execVfsgnjX f s
  | .vfsgnjnX f => Sys2Proof.Machine.execVfsgnjnX f s
  | .vfsgnjxX f => Sys2Proof.Machine.execVfsgnjxX f s
  | .vfsqrt f => Sys2Proof.Machine.execVfsqrt f s
  | .vfexp2 f => Sys2Proof.Machine.execVfexp2 f s
  | .vfabs f => Sys2Proof.Machine.execVfabs f s
  | .vfneg f => Sys2Proof.Machine.execVfneg f s
  | .vfclass f => Sys2Proof.Machine.execVfclass f s
  | .vfrint f => Sys2Proof.Machine.execVfrint f s
  | .vclz f => Sys2Proof.Machine.execVclz f s
  | .vctz f => Sys2Proof.Machine.execVctz f s
  | .vpopc f => Sys2Proof.Machine.execVpopc f s
  | .vnot f => Sys2Proof.Machine.execVnot f s
  | .vabs f => Sys2Proof.Machine.execVabs f s
  | .vneg f => Sys2Proof.Machine.execVneg f s
  | .vcvt f => Sys2Proof.Machine.execVcvt f s
  | .vcvtC4 f => Sys2Proof.Machine.execVcvtC4 f s
  | .vmv f => Sys2Proof.Machine.execVmv f s
  | .vbcast f => Sys2Proof.Machine.execVbcast f s
  | .vmerge f => Sys2Proof.Machine.execVmerge f s
  | .viota f => Sys2Proof.Machine.execViota f s
  | .vcbld f => Sys2Proof.Machine.execVcbld f s
  | .vcmpEq f => Sys2Proof.Machine.execVcmpEq f s
  | .vcmpNe f => Sys2Proof.Machine.execVcmpNe f s
  | .vcmpLt f => Sys2Proof.Machine.execVcmpLt f s
  | .vcmpLe f => Sys2Proof.Machine.execVcmpLe f s
  | .vcmpGt f => Sys2Proof.Machine.execVcmpGt f s
  | .vcmpGe f => Sys2Proof.Machine.execVcmpGe f s
  | .vcmpUnord f => Sys2Proof.Machine.execVcmpUnord f s
  | .vcmpOrd f => Sys2Proof.Machine.execVcmpOrd f s
  | .vcmpEqX f => Sys2Proof.Machine.execVcmpEqX f s
  | .vcmpNeX f => Sys2Proof.Machine.execVcmpNeX f s
  | .vcmpLtX f => Sys2Proof.Machine.execVcmpLtX f s
  | .vcmpLeX f => Sys2Proof.Machine.execVcmpLeX f s
  | .vcmpGtX f => Sys2Proof.Machine.execVcmpGtX f s
  | .vcmpGeX f => Sys2Proof.Machine.execVcmpGeX f s
  | .vcmpUnordX f => Sys2Proof.Machine.execVcmpUnordX f s
  | .vcmpOrdX f => Sys2Proof.Machine.execVcmpOrdX f s
  | .mand f => Sys2Proof.Machine.execMand f s
  | .mor f => Sys2Proof.Machine.execMor f s
  | .mxor f => Sys2Proof.Machine.execMxor f s
  | .mandn f => Sys2Proof.Machine.execMandn f s
  | .mnot f => Sys2Proof.Machine.execMnot f s
  | .mset f => Sys2Proof.Machine.execMset f s
  | .mclr f => Sys2Proof.Machine.execMclr f s
  | .mmv f => Sys2Proof.Machine.execMmv f s
  | .mpopc f => Sys2Proof.Machine.execMpopc f s
  | .mfirst f => Sys2Proof.Machine.execMfirst f s
  | .msbf f => Sys2Proof.Machine.execMsbf f s
  | .vslup f => Sys2Proof.Machine.execVslup f s
  | .vsldn f => Sys2Proof.Machine.execVsldn f s
  | .vgather f => Sys2Proof.Machine.execVgather f s
  | .vcompress f => Sys2Proof.Machine.execVcompress f s
  | .vexpand f => Sys2Proof.Machine.execVexpand f s
  | .vextract f => Sys2Proof.Machine.execVextract f s
  | .vinsert f => Sys2Proof.Machine.execVinsert f s
  | .vrowrot f => Sys2Proof.Machine.execVrowrot f s
  | .vredsum f => Sys2Proof.Machine.execVredsum f s
  | .vredmin f => Sys2Proof.Machine.execVredmin f s
  | .vredmax f => Sys2Proof.Machine.execVredmax f s
  | .vredand f => Sys2Proof.Machine.execVredand f s
  | .vredor f => Sys2Proof.Machine.execVredor f s
  | .vredxor f => Sys2Proof.Machine.execVredxor f s
  | .vfsumo f => Sys2Proof.Machine.execVfsumo f s
  | .vfsumt f => Sys2Proof.Machine.execVfsumt f s
  | .vfredmin f => Sys2Proof.Machine.execVfredmin f s
  | .vfredmax f => Sys2Proof.Machine.execVfredmax f s
  | .vlu f => Sys2Proof.Machine.execVlu f s
  | .vls f => Sys2Proof.Machine.execVls f s
  | .vlx f => Sys2Proof.Machine.execVlx f s
  | .vld f => Sys2Proof.Machine.execVld f s
  | .vsu f => Sys2Proof.Machine.execVsu f s
  | .vss f => Sys2Proof.Machine.execVss f s
  | .vsx f => Sys2Proof.Machine.execVsx f s
  | .vsd f => Sys2Proof.Machine.execVsd f s
  | .vamoaAdd f => Sys2Proof.Machine.execVamoaAdd f s
  | .vamoaAnd f => Sys2Proof.Machine.execVamoaAnd f s
  | .vamoaOr f => Sys2Proof.Machine.execVamoaOr f s
  | .vamoaXor f => Sys2Proof.Machine.execVamoaXor f s
  | .vamobMin f => Sys2Proof.Machine.execVamobMin f s
  | .vamobMax f => Sys2Proof.Machine.execVamobMax f s
  | .vamobSwap f => Sys2Proof.Machine.execVamobSwap f s
  | .vamobCas f => Sys2Proof.Machine.execVamobCas f s
  | .vamocFadd f => Sys2Proof.Machine.execVamocFadd f s
  | .vamocFmin f => Sys2Proof.Machine.execVamocFmin f s
  | .vamocFmax f => Sys2Proof.Machine.execVamocFmax f s
  | .copy f => Sys2Proof.Machine.execCopy f s
  | .copy2 f => Sys2Proof.Machine.execCopy2 f s
  | .copyx f => Sys2Proof.Machine.execCopyx f s
  | .fill f => Sys2Proof.Machine.execFill f s
  | .mmodeOn f => Sys2Proof.Machine.execMmodeOn f s
  | .mstat f => Sys2Proof.Machine.execMstat f s
  | .mstr f => Sys2Proof.Machine.execMstr f s
  | .pref f => Sys2Proof.Machine.execPref f s
  | .ecfg f => Sys2Proof.Machine.execEcfg f s
  | .ecnt f => Sys2Proof.Machine.execEcnt f s
  | .eres f => Sys2Proof.Machine.execEres f s
  | .coll f => Sys2Proof.Machine.execColl f s
  | .mls f => Sys2Proof.Machine.execMls f s
  | .mop f => Sys2Proof.Machine.execMop f s
  | .mscan f => Sys2Proof.Machine.execMscan f s
  | .mscanf f => Sys2Proof.Machine.execMscanf f s
  | .maccRd f => Sys2Proof.Machine.execMaccRd f s
  | .maccWr f => Sys2Proof.Machine.execMaccWr f s
  | .maccZr f => Sys2Proof.Machine.execMaccZr f s
  | .maccCp f => Sys2Proof.Machine.execMaccCp f s
  | .maccScrd f => Sys2Proof.Machine.execMaccScrd f s
  | .maccScwr f => Sys2Proof.Machine.execMaccScwr f s
  | .rep f => Sys2Proof.Machine.execRep f s
  | .udf f => Sys2Proof.Machine.execUdf f s
  | .svc => Sys2Proof.Machine.execSvc s
  | .tret => Sys2Proof.Machine.execTret s
  | .brk => Sys2Proof.Machine.execBrk s
  | .ifence => Sys2Proof.Machine.execIfence s
  | .wfi => Sys2Proof.Machine.execWfi s
  | .merge => Sys2Proof.Machine.execMerge s
  | .endHart => Sys2Proof.Machine.execEndHart s
  | .yield => Sys2Proof.Machine.execYield s
  | .mmodeOff => Sys2Proof.Machine.execMmodeOff s
  | .mswap => Sys2Proof.Machine.execMswap s
  | .add f => Sys2Proof.Machine.execAdd f s
  | .sub f => Sys2Proof.Machine.execSub f s
  | .and f => Sys2Proof.Machine.execAnd f s
  | .or f => Sys2Proof.Machine.execOr f s
  | .xor f => Sys2Proof.Machine.execXor f s
  | .sll f => Sys2Proof.Machine.execSll f s
  | .srl f => Sys2Proof.Machine.execSrl f s
  | .sra f => Sys2Proof.Machine.execSra f s
  | .slt f => Sys2Proof.Machine.execSlt f s
  | .sltn f => Sys2Proof.Machine.execSltn f s
  | .mul f => Sys2Proof.Machine.execMul f s
  | .mulh f => Sys2Proof.Machine.execMulh f s
  | .mulhn f => Sys2Proof.Machine.execMulhn f s
  | .div f => Sys2Proof.Machine.execDiv f s
  | .divn f => Sys2Proof.Machine.execDivn f s
  | .rem f => Sys2Proof.Machine.execRem f s
  | .remn f => Sys2Proof.Machine.execRemn f s
  | .convoyStart h => Sys2Proof.Machine.execConvoyStart h s
  | .groupStart h => Sys2Proof.Machine.execGroupStart h s
  | .loadGroupLanding h row grp => Sys2Proof.Machine.execLoadGroupLanding h row grp s
  | .convoyDrain h => Sys2Proof.Machine.execConvoyDrain h s
  | .vectorToScalarWrite h => Sys2Proof.Machine.execVectorToScalarWrite h s
  | .nonblockingComplete h ctr num => Sys2Proof.Machine.execNonblockingComplete h ctr num s
  | .vectorTrap h pos cause tval log => Sys2Proof.Machine.execVectorTrap h pos cause tval log s
  | .asyncTrap h => Sys2Proof.Machine.execAsyncTrap h s
  | .stoppedHartSave h => Sys2Proof.Machine.execStoppedHartSave h s
  | .shareAdoption h => Sys2Proof.Machine.execShareAdoption h s
  | .forkSplit h => Sys2Proof.Machine.execForkSplit h s
  | .mergeComplete h => Sys2Proof.Machine.execMergeComplete h s
  | .endComplete h => Sys2Proof.Machine.execEndComplete h s
  | .drainedResume h => Sys2Proof.Machine.execDrainedResume h s
  | .sealSend h => Sys2Proof.Machine.execSealSend h s
  | .waitReturn h => Sys2Proof.Machine.execWaitReturn h s
  | .wdeadlineExpiry h => Sys2Proof.Machine.execWdeadlineExpiry h s
  | .waitwPoll h => Sys2Proof.Machine.execWaitwPoll h s
  | .tileQueueGrant core => Sys2Proof.Machine.execTileQueueGrant core s
  | .repBufferAcquire h => Sys2Proof.Machine.execRepBufferAcquire h s
  | .replayEnqueue h => Sys2Proof.Machine.execReplayEnqueue h s
  | .rowSlot core => Sys2Proof.Machine.execRowSlot core s
  | .mswapEffect h => Sys2Proof.Machine.execMswapEffect h s
  | .pageWalkComplete h va => Sys2Proof.Machine.execPageWalkComplete h va s
  | .schedulingInterval die => Sys2Proof.Machine.execSchedulingInterval die s
  | .initialGrant region => Sys2Proof.Machine.execInitialGrant region s
  | .shareGraceExpiry h => Sys2Proof.Machine.execShareGraceExpiry h s
  | .unitStopAck h part => Sys2Proof.Machine.execUnitStopAck h part s
  | .segmentStart iod => Sys2Proof.Machine.execSegmentStart iod s
  | .segmentPerformed ctx => Sys2Proof.Machine.execSegmentPerformed ctx s
  | .engineFault ctx cause side va => Sys2Proof.Machine.execEngineFault ctx cause side va s
  | .multicastApply ctx => Sys2Proof.Machine.execMulticastApply ctx s
  | .parkLimitExpiry ctx => Sys2Proof.Machine.execParkLimitExpiry ctx s
  | .read r => Sys2Proof.Machine.execRead r s
  | .write r => Sys2Proof.Machine.execWrite r s
  | .writeb r => Sys2Proof.Machine.execWriteb r s
  | .atomic r => Sys2Proof.Machine.execAtomic r s
  | .combined r => Sys2Proof.Machine.execCombined r s
  | .readresp r => Sys2Proof.Machine.execReadresp r s
  | .atomresp r => Sys2Proof.Machine.execAtomresp r s
  | .seal r => Sys2Proof.Machine.execSeal r s
  | .sealack r => Sys2Proof.Machine.execSealack r s
  | .colldata m => Sys2Proof.Machine.execColldata m s
  | .parked ctx => Sys2Proof.Machine.execParked ctx s
  | .perfack r => Sys2Proof.Machine.execPerfack r s
  | .aborted ctx => Sys2Proof.Machine.execAborted ctx s
  | .frameReceive iod f => Sys2Proof.Machine.execFrameReceive iod f s
  | .relayForward iod => Sys2Proof.Machine.execRelayForward iod s
  | .frameTransmit iod peer => Sys2Proof.Machine.execFrameTransmit iod peer s
  | .retryTimerExpiry peer => Sys2Proof.Machine.execRetryTimerExpiry peer s
  | .ackTimer peer => Sys2Proof.Machine.execAckTimer peer s
  | .keepaliveTimer peer => Sys2Proof.Machine.execKeepaliveTimer peer s
  | .peerMarkDown peer => Sys2Proof.Machine.execPeerMarkDown peer s
  | .rst peer => Sys2Proof.Machine.execRst peer s
  | .slotBegin iod => Sys2Proof.Machine.execSlotBegin iod s
  | .lockTimeout iod port shift => Sys2Proof.Machine.execLockTimeout iod port shift s
  | .beadArrival die ch writer => Sys2Proof.Machine.execBeadArrival die ch writer s
  | .holdReceive die ch hold => Sys2Proof.Machine.execHoldReceive die ch hold s
  | .beadTimeout die ch => Sys2Proof.Machine.execBeadTimeout die ch s
  | .beadRegenerate die ch => Sys2Proof.Machine.execBeadRegenerate die ch s
  | .tlbinv die val => Sys2Proof.Machine.execTlbinv die val s
  | .peerup iod val => Sys2Proof.Machine.execPeerup iod val s
  | .parklim iod h val => Sys2Proof.Machine.execParklim iod h val s
  | .registerWrite die off width val => Sys2Proof.Machine.execRegisterWrite die off width val s
  | .hostPostedWrite bar off data => Sys2Proof.Machine.execHostPostedWrite bar off data s
  | .hostRead bar off width => Sys2Proof.Machine.execHostRead bar off width s
  | .hostCompletion ctx ok => Sys2Proof.Machine.execHostCompletion ctx ok s
  | .dieTimeExchange die t1 t2 t3 t4 => Sys2Proof.Machine.execDieTimeExchange die t1 t2 t3 t4 s
  | .dieSyncTimeout die => Sys2Proof.Machine.execDieSyncTimeout die s
  | .timeExchangeTimer child => Sys2Proof.Machine.execTimeExchangeTimer child s
  | .sync m => Sys2Proof.Machine.execSync m s
  | .follow m => Sys2Proof.Machine.execFollow m s
  | .dreq m => Sys2Proof.Machine.execDreq m s
  | .dresp m => Sys2Proof.Machine.execDresp m s
  | .announce m => Sys2Proof.Machine.execAnnounce m s
  | .announceTimer => Sys2Proof.Machine.execAnnounceTimer s
  | .externalPtpMessage ptp => Sys2Proof.Machine.execExternalPtpMessage ptp s
  | .holdoverEntry => Sys2Proof.Machine.execHoldoverEntry s
  | .holdoverSyncLoss => Sys2Proof.Machine.execHoldoverSyncLoss s
  | .packageTermGrowth => Sys2Proof.Machine.execPackageTermGrowth s
  | .loadfw => Sys2Proof.Machine.execLoadfw s
  | .attest => Sys2Proof.Machine.execAttest s
  | .suspend => Sys2Proof.Machine.execSuspend s
  | .cancel => Sys2Proof.Machine.execCancel s
  | .resume => Sys2Proof.Machine.execResume s
  | .drain u => Sys2Proof.Machine.execDrain u s
  | .rejoin u => Sys2Proof.Machine.execRejoin u s
  | .tenant tenant strict cores chans plain => Sys2Proof.Machine.execTenant tenant strict cores chans plain s
  | .owner granule tenant => Sys2Proof.Machine.execOwner granule tenant s
  | .zeroingComplete granule => Sys2Proof.Machine.execZeroingComplete granule s
  | .suspendDeadline => Sys2Proof.Machine.execSuspendDeadline s
  | .quiet dev => Sys2Proof.Machine.execQuiet dev s
  | .savingTimeout => Sys2Proof.Machine.execSavingTimeout s
  | .savingComplete => Sys2Proof.Machine.execSavingComplete s
  | .resumeDeadline => Sys2Proof.Machine.execResumeDeadline s
  | .resumeComplete => Sys2Proof.Machine.execResumeComplete s
  | .drainedDieAccessTimeout h => Sys2Proof.Machine.execDrainedDieAccessTimeout h s
  | .boot => Sys2Proof.Machine.execBoot s
  | .clockRateChange die mhz => Sys2Proof.Machine.execClockRateChange die mhz s
  | .thermalThrottle mhz => Sys2Proof.Machine.execThermalThrottle mhz s
  | .hbmScrub die line bad => Sys2Proof.Machine.execHbmScrub die line bad s
  | .clusterRetire core cluster => Sys2Proof.Machine.execClusterRetire core cluster s
  | .scanUnitStep core => Sys2Proof.Machine.execScanUnitStep core s
  | .accumulatePathRow core => Sys2Proof.Machine.execAccumulatePathRow core s
  | .completionTimeout ctx => Sys2Proof.Machine.execCompletionTimeout ctx s
  | .perfackSendTimer die => Sys2Proof.Machine.execPerfackSendTimer die s
  | .connectionStateFill peer => Sys2Proof.Machine.execConnectionStateFill peer s
  | .announceAgeExpiry => Sys2Proof.Machine.execAnnounceAgeExpiry s
  | .dieTermGrowth die => Sys2Proof.Machine.execDieTermGrowth die s

end Sys2Proof.Machine
end

