-- ==== Sys2Proof/Machine/Step.lean ====
section
/-!
DEFINITION. Machine/Step.lean: one step of the machine: an agent that can move does (Machine/Agents.lean).
-/

namespace Sys2Proof.Machine

/-- One step: the agent named to be next, else one of those that can move, which of them is not promised; with none the
machine waits for an input. -/
noncomputable def step (s : State) : Host.Outcome State Fault Refusal :=
  match s.turn with
  | none => .fault .idle
  | some (s', a) => (s'.move exec a).after State.afterStep

/-- The state in which the next step is that of hart 0, which fetches the instruction whose bits are `w` (log entry 40). -/
def State.withFetchWord (s : State) (_nbits w : Nat) : State := s.placeWord (BitVec.ofNat 32 w)

end Sys2Proof.Machine
end

