-- ==== Sys2Proof/Safety.lean ====
section
/-!
DEFINITION. Safety.lean: runs of the machine and what a safe one is: the package waits for an input at worst, and memory
stays in its canonical form; and the terms in which the statements say what an instruction leaves unchanged.
-/

namespace Sys2Proof

/-- Memory is in its canonical form: addresses strictly rising and no entry equal to what an unlisted byte reads as. -/
def Machine.Memory.wf (m : List (Nat × Byte)) : Bool := Machine.Sparse.wf 0 m

/-- A step of the machine leads from one state to another. -/
def Machine.LeadsTo (s t : Machine.State) : Prop := Machine.step s = .next t

/-- A state reached from another in some number of steps. -/
inductive Machine.Reaches (s : Machine.State) : Machine.State → Prop where
  | here : Machine.Reaches s s
  | further {t u : Machine.State} : Machine.Reaches s t → Machine.LeadsTo t u → Machine.Reaches s u

/-- A state from which no run stops but to wait for an input. -/
def Machine.Safe (s : Machine.State) : Prop :=
  ∀ t, Machine.Reaches s t → (∃ u, Machine.step t = .next u) ∨ Machine.step t = .fault .idle

namespace Machine

/-! ### What stays as it was -/

/-- Only the executing hart may differ: every other hart, memory and every other component of the package are the same. -/
def OnlyMe (s t : State) : Prop :=
  t = { s with harts := t.harts } ∧ ∀ h, h ≠ s.cur → t.hart h = s.hart h
/-- Of a hart, only scalar registers, the pc and the record of a wait may differ. -/
def OnlyRegs (a b : Hart) : Prop := b = { a with x := b.x, pc := b.pc, wait := b.wait }
/-- Scalar register d holds v, unless it is x0, which reads zero as before; every other register is as it was. -/
def RegSet (a b : Hart) (d : BitVec 5) (v : Word) : Prop := ∀ r, b.xr r = if r = d ∧ r ≠ 0 then v else a.xr r
/-- Every control register but those listed is as it was. -/
def CsrsKept (a b : Hart) (except : List Nat) : Prop := ∀ n, n ∉ except → b.csrv n = a.csrv n

/-- A scalar instruction that only writes rd: it completes, rd holds v, the hart is at the next word, and nothing else has
changed. -/
def Writes (o : Out) (s : State) (d : BitVec 5) (v : Word) : Prop :=
  ∃ t, o = .next t ∧ OnlyMe s t ∧ OnlyRegs s.me t.me ∧ t.me.pc = s.me.pc + 4 ∧ RegSet s.me t.me d v

/-- The memory bytes at a list of global addresses hold the little-endian bytes of v (where two name one location, the later
one), and every other byte of memory is as it was. -/
def StoredAt (s t : State) (as : List Nat) (v : Nat) : Prop :=
  (∀ i (h : i < as.length), (∀ j (k : j < as.length), i < j → s.canon as[j] ≠ s.canon as[i]) →
    t.readByte as[i] = BitVec.ofNat 8 (v / 256 ^ i)) ∧
  ∀ a, (∀ b ∈ as, s.canon b ≠ s.canon a) → t.readByte a = s.readByte a

/-- A synchronous or asynchronous trap has been entered by the executing hart and nothing else has happened: EPC, CAUSE,
TVAL and TSTATUS are written as 04_scalar R129 and 20_faults R356 give, the hart is in supervisor privilege at TVEC with
interrupts disabled and no open convoy, or stopped where TVEC is 0 (R130). -/
def TrapEntered (s t : State) (cause : Byte) (async : Bool) (epc tval : Word) : Prop :=
  OnlyMe s t ∧
  t.me = { s.me with
    csr := t.me.csr
    priv := .supervisor
    pc := s.me.csrv 0x100
    convoyOpen := false
    wait := none
    rep := none
    entering := decide (s.me.csrv 0x100 ≠ 0)
    run := if s.me.csrv 0x100 = 0 then .stopped cause false else s.me.run } ∧
  t.me.csrv 0x101 = epc ∧
  t.me.csrv 0x102 = cause.setWidth 64 ||| (if async then 0x8000000000000000 else 0) ∧
  t.me.csrv 0x103 = tval ∧
  t.me.csrv 0x104 = BitVec.ofNat 64 ((if s.me.ie then 2 else 0) + (if s.me.priv = .supervisor then 4 else 0) +
    (if s.me.secure then 8 else 0) + (if s.me.vrf then 16 else 0)) ∧
  CsrsKept s.me t.me [0x101, 0x102, 0x103, 0x104]
/-- An instruction takes a synchronous trap at its own address. -/
def Traps (o : Out) (s : State) (cause : Byte) (tval : Word) : Prop :=
  ∃ t, o = .next t ∧ TrapEntered s t cause false s.me.pc tval

/-- A wait ends with a status: rd holds it, the next word, no open convoy, and nothing else changes. -/
def Ends (o : Out) (s : State) (d : BitVec 5) (v : Word) : Prop :=
  ∃ t, o = .next t ∧ OnlyMe s t ∧
    t.me = { s.me with x := t.me.x, pc := s.me.pc + 4, wait := none, convoyOpen := false } ∧ RegSet s.me t.me d v

/-! ### Queued instructions -/

/-- A queued word of the executing hart runs at its enqueue: the step has chosen so, the hart owns a cluster and has lost
none, no error has taken any of its storage, the word begins a convoy or the open one has room for it and the queue an entry,
nothing that it must wait for is outstanding, and for a matrix word no hart of the core has matrix work left. -/
def Runs (s : State) (w : IWord) : Prop :=
  s.prompt = true ∧ s.me.k ≠ 0 ∧ s.me.laneLost = false ∧ s.me.lost = [] ∧
    (s.me.begins w = true ∨ convoyRoom s.me.openMembers w = true) ∧
    (s.me.entriesBefore (s.me.begins w)).length < queueSize ∧ s.me.drained = true ∧ s.portHeld s.cur = false ∧
    (isMatrixWord w = true → s.unitsFree = true) ∧ ∀ o ∈ s.me.nb, o.held = true ∨ o.rows = []
/-- The length register that L names holds a count within VLMAX of its type on the hart's clusters (01_machine R12-R14). -/
def HasLength (s : State) (l : BitVec 2) (vl : Nat) (ty : BitVec 4) : Prop :=
  s.me.xr (28 + l.setWidth 5) = BitVec.ofNat 64 (ty.toNat * 2 ^ 32 + vl) ∧ vl ≤ vlmaxOf s.me.k ty
/-- A queued instruction has run: the hart is at the next word with its convoy open and nothing undone; of it only scalar,
vector and mask registers and control registers may differ, and nothing else of the package. -/
def Ran (s t : State) : Prop :=
  OnlyMe s t ∧ t.me.drained = true ∧
    t.me = { s.me with
      x := t.me.x
      v := t.me.v
      m := t.me.m
      csr := t.me.csr
      pc := s.me.pc + 4
      wait := none
      convoyOpen := true
      queue := t.me.queue }
/-- Element i of row r of the group at a register. -/
def Hart.element (t : Hart) (ty : BitVec 4) (b : BitVec 5) (r i : Nat) : Nat :=
  rowElem (typeWidth ty) (t.vr (b.toNat + r)).toNat i
/-- Element i is active under mask field M (05_vector R132). -/
def Hart.gates (t : Hart) (m : BitVec 2) (i : Nat) : Bool := decide (m = 0) || (t.mr m.toNat).getLsbD i
/-- Exactly the flags named have been accrued into FCSR and STICKY, and no other control register differs. -/
def Accrued (a b : Hart) (raised : Nat → Prop) : Prop :=
  ∃ fl : Flags, (∀ k, fl.getLsbD k = true ↔ raised k) ∧
    b.csrv 0 = a.csrv 0 ||| (fl &&& 0x1F).setWidth 64 ∧ b.csrv 0x012 = a.csrv 0x012 ||| fl.setWidth 64 ∧
    CsrsKept a b [0, 0x012]
/-- The element sweep (05_vector R132-R134) of the group at d: each active element below VL holds its value, computed from
the registers as they were; every other element of the share and every other row is unchanged; the flags are accrued. -/
def Swept (a b : Hart) (g m : BitVec 2) (d : BitVec 5) (ty : BitVec 4) (vl : Nat) (f : Nat → Nat → Nat × Flags) : Prop :=
  (∀ r i, r < 2 ^ g.toNat → i < vlmaxOf a.k ty → b.element ty d r i =
    if i < vl ∧ a.gates m i = true then (f r i).1 % 2 ^ typeWidth ty else a.element ty d r i) ∧
  (∀ n, n < 32 → (∀ r, r < 2 ^ g.toNat → n ≠ (d.toNat + r) % 32) → b.vr n = a.vr n) ∧
  Accrued a b fun k => ∃ r i, r < 2 ^ g.toNat ∧ i < vl ∧ a.gates m i = true ∧ (f r i).2.getLsbD k = true
/-- A queued instruction runs as an element sweep. -/
def Sweeps (o : Out) (s : State) (g m : BitVec 2) (d : BitVec 5) (ty : BitVec 4) (vl : Nat)
    (f : Nat → Nat → Nat × Flags) : Prop :=
  ∃ t, o = .next t ∧ Ran s t ∧ t.me.x = s.me.x ∧ t.me.m = s.me.m ∧ Swept s.me t.me g m d ty vl f
/-- A queued instruction runs and sets the bits of a mask register below VL where it is active; m0 cannot be written. -/
def SetsMask (o : Out) (s : State) (m : BitVec 2) (d : BitVec 3) (vl : Nat) (f : Nat → Bool × Flags) : Prop :=
  ∃ t, o = .next t ∧ Ran s t ∧ t.me.x = s.me.x ∧ t.me.v = s.me.v ∧
    (∀ n i, (t.me.mr n).getLsbD i =
      if n = d.toNat ∧ d ≠ 0 ∧ i < vl ∧ s.me.gates m i = true then (f i).1 else (s.me.mr n).getLsbD i) ∧
    Accrued s.me t.me fun k => ∃ i, i < vl ∧ s.me.gates m i = true ∧ (f i).2.getLsbD k = true
/-- A queued instruction runs and writes a scalar register. -/
def SetsScalar (o : Out) (s : State) (d : BitVec 5) (v : Word) (fl : Flags) : Prop :=
  ∃ t, o = .next t ∧ Ran s t ∧ t.me.v = s.me.v ∧ t.me.m = s.me.m ∧ RegSet s.me t.me d v ∧
    Accrued s.me t.me fun k => fl.getLsbD k = true
/-- A matrix instruction has run: of its hart only vector rows, the flags of FCSR and STICKY and the matrix state may differ
beside the pc, the wait, the convoy and the queue; of the package only accumulator rows. The matrix state is m with the flags
raised put into its status, and exactly those are accrued. -/
def RanMatrix (s t : State) (m : Matrix) (raised : Nat → Prop) : Prop :=
  t = { s with harts := t.harts, acc := t.acc } ∧ (∀ h, h ≠ s.cur → t.hart h = s.hart h) ∧ t.me.drained = true ∧
    t.me = { s.me with
      v := t.me.v
      csr := t.me.csr
      matrix := t.me.matrix
      pc := s.me.pc + 4
      wait := none
      convoyOpen := true
      queue := t.me.queue } ∧
    ∃ fl : Flags, (∀ k, fl.getLsbD k = true ↔ raised k) ∧ t.me.matrix = some { m with flags := m.flags ||| fl } ∧
      t.me.csrv 0 = s.me.csrv 0 ||| (fl &&& 0x1F).setWidth 64 ∧
      t.me.csrv 0x012 = s.me.csrv 0x012 ||| fl.setWidth 64 ∧ CsrsKept s.me t.me [0, 0x012]
/-- Every accumulator row of the package but those of the executing hart's window that `rows` names is as it was. -/
def AccKept (s t : State) (rows : Nat → Prop) : Prop :=
  ∀ n, (∀ a, rows a → n ≠ s.accKey a) → Sparse.get 0 t.acc n = Sparse.get 0 s.acc n
/-- A queued word that runs at its enqueue faults at its check instead (06_memory_isa R162-R164; 20_faults R356-R364): where the
hart has a handler, VRF is 0, the image's range can be written and nothing makes the fault wait, the members of its convoy are
written to the image with the faulting one started at its restart index, and the hart enters the handler with the cause and the
faulting address, VRF set and its queue empty. No other byte of memory, scalar or mask register or hart changes; `kept` says what
becomes of the rest of the hart. -/
def FaultsQueued (o : Out) (s : State) (e : QEntry) (cause : Byte) (tval : Word) (restart : Nat) (kept : Hart → Prop) : Prop :=
  ∀ (es : List QEntry) (img : Nat), img = (s.me.csrv 0x105).toNat →
    es = s.me.entriesBefore e.first ++ [{ e with started := true, restart := restart }] →
    s.me.csrv 0x100 ≠ 0 → s.me.vrf = false → s.me.rep = none → s.imageWritable img = true → s.faultWaits s.cur = false →
    ∃ t, o = .next t ∧ (∀ h, h ≠ s.cur → t.hart h = s.hart h) ∧
      t.mem = (s.writeWords img (imageWords (es.drop (fromConvoy es (es.length - 1))))).mem ∧
      t.me.queue = [] ∧ t.me.vrf = true ∧ t.me.pc = s.me.csrv 0x100 ∧ t.me.priv = .supervisor ∧ t.me.run = s.me.run ∧
      t.me.csrv 0x101 = s.me.pc + 4 ∧ t.me.csrv 0x102 = cause.setWidth 64 ∧ t.me.csrv 0x103 = tval ∧
      t.me.csrv 0x104 = BitVec.ofNat 64 ((if s.me.ie then 2 else 0) + (if s.me.priv = .supervisor then 4 else 0) +
        (if s.me.secure then 8 else 0) + 16) ∧
      t.me.x = s.me.x ∧ t.me.m = s.me.m ∧ kept t.me
/-- TVAL of a trap of a frame: the offending word and its position, or for LANEOFF the core's retired clusters (03_encoding R90;
20_faults R355). -/
def State.frameTrap (s : State) (c : Byte) (w : IWord) (n : Nat) : Word :=
  if c = 0x19 then (s.retired (coreOf s.cur)).setWidth 64 else w.setWidth 64 ||| BitVec.ofNat 64 (n * 2 ^ 32)
/-- A REP of the executing hart has its turn at the sequencer buffer (03_encoding R90, R91; 05_vector R155; 12_operand_delivery
R278): a word that cannot be fetched takes that fetch's trap or waits, a frame that reads a register still owed waits, the first
failed check traps, and else the frame is captured. -/
def FrameTurn (o : Out) (s : State) (r : RepFrame) : Prop :=
  match s.fetchWords (r.pc + 4) r.n with
  | .error (u, .trap c v) => Traps o u c v
  | .error (u, .poison a v) => ∃ t, o = .next t ∧ TrapEntered (u.logError (errorUnit a) u.cur) t 0x18 false u.me.pc v
  | .error (u, .wait va) => ∃ t, o = .next t ∧ OnlyMe u t ∧ t.me = { u.me with rep := some r, stalled := some va }
  | .ok (u, ws) =>
    if u.me.owes (ws.flatMap queuedRegs) then ∃ t, o = .next t ∧ OnlyMe u t ∧ t.me = { u.me with rep := some r }
    else ∀ j, j = (if (u.me.csrv 0x008).getLsbD 6 then ((u.me.csrv 0x008).extractLsb' 0 6).toNat else 0) →
      match u.frameCheck ws r.s (decide (0 < j)) with
      | some (c, n) => Traps o u c (u.frameTrap c (ws.getD n 0) n)
      | none => ∃ t, o = .next t ∧ OnlyMe u t ∧ t.me.csrv 0x008 = 0 ∧ CsrsKept u.me t.me [0x008] ∧
          t.me = { u.me with
            csr := t.me.csr
            asks := u.me.asks.filter fun a => a.own ≠ 2
            fetching := none
            wait := none
            rep := some { r with captured := true, words := ws, replay := j } }
/-- The bytes of placed elements need not wait for a die or a granule (21_service R383, R384). -/
def Ready (s : State) (ps : List Placed) : Prop := ∀ p ∈ ps, ∀ l ∈ p.locs, s.mustWait l.ga = false
/-- An instruction waits at its own address: nothing but the record of its wait has changed. -/
def Waits (o : Out) (s : State) (i : Instr) : Prop :=
  ∃ t, o = .next t ∧ OnlyMe { s with fresh := t.fresh } t ∧ t.me = { s.me with wait := t.me.wait } ∧
    (t.me.wait.map fun w => w.instr) = some i

/-- Column j of accumulator row a of the executing hart's window, as an F32 pattern. -/
def State.cell (s : State) (a j : Nat) : Nat := AccRow.col (s.accRow a) j

/-- Placed elements are memory of this package or of the host, with no poisoned line. -/
def PlainElems (s : State) (ps : List Placed) : Prop :=
  ∀ q ∈ ps, ∀ l ∈ q.locs, s.poisoned l.ga = false ∧ s.farDev l.ga = none
/-- The state but for the window copies that a load may have kept (09_address R237). -/
def Windowed (s t : State) : State := { s with windows := t.windows, fresh := t.fresh }

/-! ### Records -/

/-- A record has been put on its way to a die of the package, or on the connection to a device, after those that wait. -/
def Sent (s t : State) (dev die : Nat) (x : Record) : Prop :=
  ∃ o : Outgoing, o.rcd = x ∧ o.die = die ∧
    if dev = s.chip then t.outbox = s.outbox ++ [o] else (t.conn dev).waiting = (s.conn dev).waiting ++ [o]
/-- A record has been answered. -/
def Answered (s t : State) (r : Record) (op : BitVec 8) (data : List Byte) : Prop :=
  ∃ x : Record, Sent s t r.srcDev r.srcDie x ∧ x.srcDev = s.chip ∧ x.op = op ∧ x.tag = r.tag ∧ x.shart = r.shart ∧
    x.addr = r.addr ∧ x.data = data
/-- A record has been performed at its home: memory is as given, it counts for its hart's seals where it is a hart's, and it is
listed for a PERFACK when it is tracked; no hart differs but in what its wait has seen. -/
def Performed (s t : State) (r : Record) (mem : List (Nat × Byte)) : Prop :=
  t.mem = mem ∧ (∀ h, t.hart h = { s.hart h with wait := (t.hart h).wait }) ∧
    t.perfacks = (if r.trk then s.perfacks ++ [r] else s.perfacks) ∧
    ∀ n, Sparse.get 0 t.sealCount n =
      Sparse.get 0 s.sealCount n + if n = recordSource r ∧ recordOfHart r = true then 1 else 0

/-! ### Operands in memory -/

/-- A scalar memory instruction of the executing hart need not wait: its blocking vector memory instructions are complete (R108),
and no full window holds its memory port back (18_fabric R337). -/
def Unhindered (s : State) : Prop := s.me.vectorMemory = false ∧ s.portHeld s.cur = false
/-- The n bytes at a virtual address, as the executing hart, which has no access under way, reaches them for a need, lie at these
global addresses, all of them memory of this package or of the host: no register space, no poisoned line, no window copy. -/
def Plain (s : State) (need : Need) (va : Word) (n : Nat) (as : List Nat) : Prop :=
  s.me.access = none ∧ s.checkRange (s.party s.cur) need false va n = .ok (as.map fun a => ⟨a, false⟩) ∧
  ∀ a ∈ as, (gaHost a = true ∨ gaKind a ≠ 3) ∧ s.poisoned a = false ∧ s.farDev a = none

/-- The WAITW instructions with their conditions (06_memory_isa R184). -/
def wordWaits : List ((Rrr → Instr) × (Word → Word → Bool)) :=
  [(Instr.waitwEq, fun w b => decide (w = b)), (Instr.waitwNe, fun w b => decide (w ≠ b)),
    (Instr.waitwGen, fun w b => decide (0 ≤ (w - b).toInt)), (Instr.waitwLtn, fun w b => decide (w.toNat < b.toNat))]
/-- The operands of a QPOP or QPUSH pass their checks (06_memory_isa R392): the header's bytes lie at `hl` in this package, and the
first 32 of them read as q; the item's bytes lie at `il` in this package or with the host. -/
def QueueAt (s : State) (f : Rrr) (push : Bool) (hl : List Nat) (il : List Loc) (q : QHeader) : Prop :=
  s.checkOnce .both false (s.me.xr f.a) 64 = .ok (hl.map fun a => ⟨a, false⟩) ∧
  (∀ a ∈ hl, gaHost a = false ∧ gaKind a ≠ 3 ∧ s.farDev a = none ∧ s.mustWait a = false ∧ s.poisoned a = false) ∧
  q = qHeader (s.readAt (hl.take 32)) ∧
  s.checkOnce (if push then .bulkRd else .bulkWr) false (s.me.xr f.b) q.item = .ok il ∧
  (∀ l ∈ il, l.isReg = false ∧ s.farDev l.ga = none ∧ s.mustWait l.ga = false ∧ s.poisoned l.ga = false) ∧
  (s.me.xr f.a).toNat % 64 = 0 ∧ (s.me.xr f.b).toNat % 8 = 0

end Machine

end Sys2Proof
end

