-- ==== Sys2Proof/Certificates/Slice0/Obligations.lean ====
section
/-!
DEFINITION. Certificates/Slice0/Obligations.lean: the statements for the provers. Each docstring names the rules of spec/
that the statement formalises; what rests on a choice of the model says so.
-/

open Sys2Proof Sys2Proof.Machine

/-! ### Scalar registers, branches and jumps (04_scalar R99-R104) -/

/-- R100, R101, R99: the operations of OP write rd, advance the pc and change nothing else; a write of x0 is discarded. -/
def Obligations.RegisterOperationsWriteOnlyRd : Prop :=
  (∀ p ∈ ([(Instr.add, fun a b => a + b), (Instr.sub, fun a b => a - b), (Instr.and, fun a b => a &&& b),
      (Instr.or, fun a b => a ||| b), (Instr.xor, fun a b => a ^^^ b),
      (Instr.sll, fun a b => a <<< (b.toNat % 64)), (Instr.srl, fun a b => a >>> (b.toNat % 64)),
      (Instr.sra, fun a b => BitVec.ofInt 64 (a.toInt / 2 ^ (b.toNat % 64))),
      (Instr.slt, fun a b => if a.toInt < b.toInt then 1 else 0),
      (Instr.sltn, fun a b => if a.toNat < b.toNat then 1 else 0),
      (Instr.mul, fun a b => a * b),
      (Instr.mulh, fun a b => BitVec.ofInt 64 (a.toInt * b.toInt / 2 ^ 64)),
      (Instr.mulhn, fun a b => BitVec.ofNat 64 (a.toNat * b.toNat / 2 ^ 64)),
      (Instr.div, fun a b => if b = 0 then BitVec.allOnes 64 else BitVec.ofInt 64 (a.toInt.tdiv b.toInt)),
      (Instr.divn, fun a b => if b = 0 then BitVec.allOnes 64 else BitVec.ofNat 64 (a.toNat / b.toNat)),
      (Instr.rem, fun a b => if b = 0 then a else BitVec.ofInt 64 (a.toInt.tmod b.toInt)),
      (Instr.remn, fun a b => if b = 0 then a else BitVec.ofNat 64 (a.toNat % b.toNat)),
      (Instr.min, fun a b => BitVec.ofInt 64 (min a.toInt b.toInt)),
      (Instr.max, fun a b => BitVec.ofInt 64 (max a.toInt b.toInt)),
      (Instr.minn, fun a b => BitVec.ofNat 64 (min a.toNat b.toNat)),
      (Instr.maxn, fun a b => BitVec.ofNat 64 (max a.toNat b.toNat)),
      (Instr.rol, fun a b => (a <<< (b.toNat % 64)) ||| (a >>> ((64 - b.toNat % 64)))),
      (Instr.ror, fun a b => (a >>> (b.toNat % 64)) ||| (a <<< ((64 - b.toNat % 64)))),
      (Instr.addw, fun a b => (BitVec.ofNat 32 (a.toNat + b.toNat)).signExtend 64),
      (Instr.subw, fun a b => (a.setWidth 32 - b.setWidth 32).signExtend 64)] :
      List ((Rrr → Instr) × (Word → Word → Word))),
    ∀ (f : Rrr) (s : State), Writes (exec (p.1 f) s) s f.d (p.2 (s.me.xr f.a) (s.me.xr f.b))) ∧
  (∀ p ∈ ([(Instr.clz, fun a => BitVec.ofNat 64 ((List.range 64).reverse.takeWhile fun i => !a.getLsbD i).length),
      (Instr.ctz, fun a => BitVec.ofNat 64 ((List.range 64).takeWhile fun i => !a.getLsbD i).length),
      (Instr.popc, fun a => BitVec.ofNat 64 ((List.range 64).filter fun i => a.getLsbD i).length)] :
      List ((Rr → Instr) × (Word → Word))),
    ∀ (f : Rr) (s : State), Writes (exec (p.1 f) s) s f.d (p.2 (s.me.xr f.a)))

/-- R102, R99: the operations with an immediate write rd, advance the pc and change nothing else. -/
def Obligations.ImmediateOperationsWriteOnlyRd : Prop :=
  (∀ (f : RrImm15) (s : State), Writes (exec (.addi f) s) s f.d (s.me.xr f.a + BitVec.ofInt 64 f.imm.toInt)) ∧
  (∀ p ∈ ([(Instr.andi, fun a b => a &&& b), (Instr.ori, fun a b => a ||| b), (Instr.xori, fun a b => a ^^^ b),
      (Instr.slti, fun a b => if a.toInt < b.toInt then 1 else 0),
      (Instr.sltni, fun a b => if a.toNat < b.toNat then 1 else 0)] : List ((RrImm12 → Instr) × (Word → Word → Word))),
    ∀ (f : RrImm12) (s : State), Writes (exec (p.1 f) s) s f.d (p.2 (s.me.xr f.a) (BitVec.ofInt 64 f.imm.toInt))) ∧
  (∀ p ∈ ([(Instr.slli, fun a n => a <<< n), (Instr.srli, fun a n => a >>> n),
      (Instr.srai, fun a n => BitVec.ofInt 64 (a.toInt / 2 ^ n))] : List ((RrSh → Instr) × (Word → Nat → Word))),
    ∀ (f : RrSh) (s : State), Writes (exec (p.1 f) s) s f.d (p.2 (s.me.xr f.a) f.sh.toNat)) ∧
  (∀ (f : RImm20) (s : State), Writes (exec (.lui f) s) s f.d (BitVec.ofInt 64 (f.imm.toInt * 4096))) ∧
  (∀ (f : RImm20) (s : State),
    Writes (exec (.auipc f) s) s f.d (s.me.pc + BitVec.ofInt 64 (f.imm.toInt * 4096)))

/-- R103: a branch changes the pc alone, to its target where its condition holds and to the next word elsewhere.
R103, R104: JAL and JALR write the next word's address to rd and go to the target; a JALR target that is not a multiple
of 4 traps ALIGN with the target in TVAL. -/
def Obligations.BranchesAndJumpsGoToTheirTarget : Prop :=
  (∀ p ∈ ([(Instr.beq, fun a b => decide (a = b)), (Instr.bne, fun a b => decide (a ≠ b)),
      (Instr.blt, fun a b => decide (a.toInt < b.toInt)), (Instr.bge, fun a b => decide (b.toInt ≤ a.toInt)),
      (Instr.bltn, fun a b => decide (a.toNat < b.toNat)), (Instr.bgen, fun a b => decide (b.toNat ≤ a.toNat))] :
      List ((BrOff → Instr) × (Word → Word → Bool))),
    ∀ (f : BrOff) (s : State), ∃ t, exec (p.1 f) s = .next t ∧ OnlyMe s t ∧
      t.me = { s.me with
        pc := s.me.pc + (if p.2 (s.me.xr f.a) (s.me.xr f.b) then BitVec.ofInt 64 (4 * f.off.toInt) else 4) }) ∧
  ((∀ (f : ROff20) (s : State), ∃ t, exec (.jal f) s = .next t ∧ OnlyMe s t ∧ OnlyRegs s.me t.me ∧
    t.me.pc = s.me.pc + BitVec.ofInt 64 (4 * f.off.toInt) ∧ RegSet s.me t.me f.d (s.me.pc + 4)) ∧
  (∀ (f : RrImm15) (s : State),
    if (s.me.xr f.a + BitVec.ofInt 64 f.imm.toInt).toNat % 4 = 0 then
      ∃ t, exec (.jalr f) s = .next t ∧ OnlyMe s t ∧ OnlyRegs s.me t.me ∧
        t.me.pc = s.me.xr f.a + BitVec.ofInt 64 f.imm.toInt ∧ RegSet s.me t.me f.d (s.me.pc + 4)
    else Traps (exec (.jalr f) s) s 0x06 (s.me.xr f.a + BitVec.ofInt 64 f.imm.toInt)))

/-! ### Scalar memory (04_scalar R105-R112) -/

/-- R105, R106, R109: a load from memory that its checks allow writes the little-endian bytes, zero- or sign-extended, to
rd and changes nothing else; LDPC reads the doubleword near the pc; through a read-only window a byte comes from its home or from
a copy that the die keeps (R237). R390: an aligned load from the own device's register space
gives the registers' bytes. R336: a load from another device sends it one READ and waits; with its answer it writes the bytes
that came, and bytes of VFILL where the device has failed (R243), without a second check (R246). R108: while a vector memory
instruction of the hart is not complete a load waits, and so it does while a full window holds its memory port back (R337). -/
def Obligations.LoadsReadMemory : Prop :=
  ∀ (s : State) (i : Instr) (need : Need) (va : Word) (n : Nat) (sg : Bool) (d : BitVec 5) (out : Nat → Word),
    ((∃ f : LoadOff, need = .rd ∧ va = s.me.xr f.a + BitVec.ofInt 64 f.off.toInt ∧ d = f.d ∧
        (i, n, sg) ∈ [(Instr.ldb f, 1, false), (.ldh f, 2, false), (.ldw f, 4, false), (.ldd f, 8, false),
          (.ldbs f, 1, true), (.ldhs f, 2, true), (.ldws f, 4, true)]) ∨
      ∃ f : ROff20, need = .literal ∧ d = f.d ∧ i = .ldpc f ∧ n = 8 ∧ sg = false ∧
        va = s.me.pc - BitVec.ofNat 64 (s.me.pc.toNat % 8) + BitVec.ofInt 64 (8 * f.off.toInt)) →
    out = (fun v => if sg then (BitVec.ofNat (8 * n) v).signExtend 64 else BitVec.ofNat 64 v) →
    (s.me.vectorMemory = true ∨ s.portHeld s.cur = true →
      ∃ t, exec i s = .next t ∧ OnlyMe s t ∧ t.me = { s.me with stalled := some va }) ∧
    (Unhindered s →
      (∀ as, Plain s need va n as → Writes (exec i s) s d (out (s.readAt as))) ∧
      (∀ locs, s.me.access = none → s.checkRange (s.party s.cur) need false va n = .ok locs →
        (∀ l ∈ locs, l.isReg = false ∧ s.poisoned l.ga = false ∧ s.farDev l.ga = none) →
        ∃ t, exec i s = .next t ∧ OnlyMe (Windowed s t) t ∧ OnlyRegs s.me t.me ∧ t.me.pc = s.me.pc + 4 ∧
          RegSet s.me t.me d (out (s.loadAt s.winKey locs))) ∧
      (∀ ga, s.me.access = none → gaHost ga = false → gaChip ga = s.chip → gaKind ga = 3 → va.toNat % n = 0 →
        s.checkRange (s.party s.cur) need false va n = .ok ((gaRange ga n).map fun a => ⟨a, false⟩) →
        Writes (exec i s) s d (out (s.regLoad s.me.secure ga n))) ∧
      ∀ (ga dev : Nat) (locs : List Loc), s.farDev ga = some dev → va.toNat % n = 0 →
        locs = (gaRange ga n).map (fun a => ⟨a, false⟩) → s.farRuns (gaRange ga n) = [(ga, n)] →
        (∀ a ∈ gaRange ga n, (s.farDev a).isSome = true ∧ s.poisoned a = false) →
        (s.me.access = none → s.checkRange (s.party s.cur) need false va n = .ok locs → s.peerFailed dev = false →
          s.me.asks = [] → s.me.tracked = [] → ∃ (t : State) (r : Record), exec i s = .next t ∧ t.mem = s.mem ∧
          (∀ h, h ≠ s.cur → t.hart h = s.hart h) ∧ Sent s t dev (gaDie ga % 10) r ∧ r.op = 0x01 ∧
          r.addr = BitVec.ofNat 64 ga ∧ r.len = n ∧ (∃ k, t.me.asks = [k] ∧ k.tag = r.tag ∧ k.settled = false) ∧
          t.me = { s.me with
            asks := t.me.asks
            tracked := t.me.tracked
            access := some locs
            stalled := some va }) ∧
        (s.me.access = some locs →
          (∀ (tag : BitVec 32) (bs : List Byte), bs.length = n → s.me.asks = [⟨0, tag, dev, ga, n, false, false, some bs⟩] →
            Writes (exec i s) s d (out (bytesNat bs))) ∧
          ∀ tag : BitVec 32, s.me.asks = [⟨0, tag, dev, ga, n, false, true, none⟩] →
            Writes (exec i s) s d (out (s.me.vfill.toNat % 2 ^ (8 * n)))))

/-- R105, R106, R177: a store to memory that its checks allow writes the low bytes of rs2 at the address that rs1 and the
offset give, and every other byte is as it was; of the hart only the pc, the wait and the count of records that its next
release seals change. R390: an aligned store to the own device's register space does what the register does. R336: a store to
another device sends it one tracked WRITE with the bytes, and no byte here changes. R108, R337: a
store waits as a load does. -/
def Obligations.StoresWriteOnlyTheirBytes : Prop :=
  ∀ p ∈ ([(Instr.stb, 1), (Instr.sth, 2), (Instr.stw, 4), (Instr.std, 8)] : List ((StoreOff → Instr) × Nat)),
    ∀ (f : StoreOff) (s : State) (va : Word), va = s.me.xr f.a + BitVec.ofInt 64 f.off.toInt →
      (s.me.vectorMemory = true ∨ s.portHeld s.cur = true →
        ∃ t, exec (p.1 f) s = .next t ∧ OnlyMe s t ∧ t.me = { s.me with stalled := some va }) ∧
      (Unhindered s →
        (∀ as, Plain s .wr va p.2 as →
          ∃ t, exec (p.1 f) s = .next t ∧ StoredAt s t as (s.me.xr f.b).toNat ∧
            t = { s with mem := t.mem, harts := t.harts } ∧ (∀ h, h ≠ s.cur → t.hart h = s.hart h) ∧
            t.me = { s.me with pc := s.me.pc + 4, wait := none, unsealed := t.me.unsealed }) ∧
        (∀ ga, gaHost ga = false → gaChip ga = s.chip → gaKind ga = 3 → va.toNat % p.2 = 0 →
          s.checkRange (s.party s.cur) .wr false va p.2 = .ok ((gaRange ga p.2).map fun a => ⟨a, false⟩) →
          ∃ u, u = s.regStore (s.me.secure && s.me.priv = .supervisor) (!s.me.secure) ga p.2
              ((s.me.xr f.b).toNat % 2 ^ (8 * p.2)) ∧
            exec (p.1 f) s = .next (u.setHart u.cur { u.me with pc := u.me.pc + 4, wait := none })) ∧
        ∀ (ga dev : Nat), s.farDev ga = some dev → s.peerFailed dev = false → va.toNat % p.2 = 0 →
          s.checkRange (s.party s.cur) .wr false va p.2 = .ok ((gaRange ga p.2).map fun a => ⟨a, false⟩) →
          (∀ a ∈ gaRange ga p.2, (s.farDev a).isSome = true ∧ s.poisoned a = false) →
          s.farRuns (gaRange ga p.2) = [(ga, p.2)] → s.me.tracked = [] →
          ∃ (t : State) (r : Record), exec (p.1 f) s = .next t ∧ t.mem = s.mem ∧
            (∀ h, h ≠ s.cur → t.hart h = s.hart h) ∧ Sent s t dev (gaDie ga % 10) r ∧ r.op = 0x02 ∧ r.trk = true ∧
            r.addr = BitVec.ofNat 64 ga ∧ r.data = natBytes p.2 ((s.me.xr f.b).toNat % 2 ^ (8 * p.2)) ∧
            Sparse.get 0 t.me.unsealed (16 + dev) = Sparse.get 0 s.me.unsealed (16 + dev) + 1 ∧
            t.me = { s.me with
              pc := s.me.pc + 4
              wait := none
              unsealed := t.me.unsealed
              tracked := t.me.tracked })

/-- R110, R111, R112: a scalar atomic on aligned memory that its checks allow reads the old value into rd (sign-extended
at 32 bits), stores the new value there and changes no other byte; after AMOS_OR the queues that it closed finish their
stages (14_regions R298). R260, R336: one on another device's memory changes no byte here: it sends an ATOMIC with its
operation and operands and waits, and the old value that the home answers goes to rd, or VFILL where it has failed (R243). -/
def Obligations.AtomicsUpdateOneWord : Prop :=
  ∀ p ∈ ([(Instr.amosAdd, 0, fun w m b _ => (m + b) % 2 ^ w, id), (Instr.amosAnd, 1, fun _ m b _ => m &&& b, id),
      (Instr.amosOr, 2, fun _ m b _ => m ||| b, State.closeAllQueues), (Instr.amosXor, 3, fun _ m b _ => m ^^^ b, id),
      (Instr.amosMin, 4, fun w m b _ =>
        if (BitVec.ofNat w b).toInt < (BitVec.ofNat w m).toInt then b else m, id),
      (Instr.amosMax, 5, fun w m b _ =>
        if (BitVec.ofNat w m).toInt < (BitVec.ofNat w b).toInt then b else m, id),
      (Instr.amosMinn, 6, fun _ m b _ => min m b, id), (Instr.amosMaxn, 7, fun _ m b _ => max m b, id),
      (Instr.amosSwap, 8, fun _ _ b _ => b, id), (Instr.amosCas, 9, fun _ m b c => if m = c then b else m, id)] :
      List ((AmoOps → Instr) × Nat × (Nat → Nat → Nat → Nat → Nat) × (State → State))),
    ∀ (f : AmoOps) (s : State) (w b c : Nat) (out : Nat → Word), w = (if f.wide = 1 then 64 else 32) →
      b = (s.me.xr f.b).toNat % 2 ^ w → c = (s.me.xr f.d).toNat % 2 ^ w →
      out = (fun m => if w = 32 then (BitVec.ofNat 32 m).signExtend 64 else BitVec.ofNat 64 m) →
      Unhindered s → (s.me.xr f.a).toNat % (w / 8) = 0 →
      (∀ as, Plain s .both (s.me.xr f.a) (w / 8) as →
        ∃ t, exec (p.1 f) s = .next (p.2.2.2 t) ∧ StoredAt s t as (p.2.2.1 w (s.readAt as) b c) ∧
          t = { s with mem := t.mem, harts := t.harts } ∧ (∀ h, h ≠ s.cur → t.hart h = s.hart h) ∧
          t.me = { s.me with x := t.me.x, pc := s.me.pc + 4, wait := none, unsealed := t.me.unsealed } ∧
          RegSet s.me t.me f.d (out (s.readAt as))) ∧
      ∀ (ga dev : Nat) (locs : List Loc), s.farDev ga = some dev → locs = (gaRange ga (w / 8)).map (fun a => ⟨a, false⟩) →
        (∀ a ∈ gaRange ga (w / 8), gaKind a ≠ 3 ∧ s.poisoned a = false) →
        (s.me.access = none → s.checkRange (s.party s.cur) .both false (s.me.xr f.a) (w / 8) = .ok locs →
          s.peerFailed dev = false → s.me.asks = [] → s.me.tracked = [] →
          ∃ (t : State) (r : Record), exec (p.1 f) s = .next t ∧ t.mem = s.mem ∧
          (∀ h, h ≠ s.cur → t.hart h = s.hart h) ∧ t.me.pc = s.me.pc ∧ t.me.x = s.me.x ∧ t.me.access = some locs ∧
          Sent s t dev (gaDie ga % 10) r ∧ r.op = 0x04 ∧ r.addr = BitVec.ofNat 64 ga ∧
          r.data = natBytes 8 (p.2.1 + (if w = 64 then 48 else 32) + 256) ++ natBytes (w / 8) b ++
            (if p.2.1 = 9 then natBytes (w / 8) c else [])) ∧
        ∀ (tag : BitVec 32) (failed : Bool) (ans : Option (List Byte)) (v : Nat), s.me.access = some locs →
          s.me.asks = [⟨0, tag, dev, ga, w / 8, true, failed, ans⟩] →
          (failed = false ∧ (∃ bs, ans = some bs ∧ bs.length = w / 8 ∧ v = bytesNat bs) ∨
            failed = true ∧ v = s.me.vfill.toNat % 2 ^ w) →
          ∃ t, exec (p.1 f) s = .next (p.2.2.2 t) ∧ OnlyMe s t ∧ OnlyRegs s.me t.me ∧ t.me.pc = s.me.pc + 4 ∧
            RegSet s.me t.me f.d (out v)

/-- R106, R107, R110, R111: a scalar access whose range fails a check traps precisely with that check's cause and the first
faulting byte's address, LDPC's among them (R109); an atomic on register space traps PERM, and one that is not aligned traps
ALIGN, as does a load or store of register space. R379: one that meets a poisoned line traps ECC at the line's first byte, with
the error logged, and so does one whose translation or check reads such a line. -/
def Obligations.ScalarAccessFaultsTrap : Prop :=
  ∀ (s : State) (i : Instr) (need : Need) (va : Word) (n : Nat) (amo : Bool), Unhindered s → s.me.access = none →
    ((∃ f : LoadOff, need = .rd ∧ va = s.me.xr f.a + BitVec.ofInt 64 f.off.toInt ∧ amo = false ∧
        (i, n) ∈ [(Instr.ldb f, 1), (.ldh f, 2), (.ldw f, 4), (.ldd f, 8), (.ldbs f, 1), (.ldhs f, 2), (.ldws f, 4)]) ∨
      (∃ f : ROff20, need = .literal ∧ amo = false ∧ i = .ldpc f ∧ n = 8 ∧
        va = s.me.pc - BitVec.ofNat 64 (s.me.pc.toNat % 8) + BitVec.ofInt 64 (8 * f.off.toInt)) ∨
      (∃ f : StoreOff, need = .wr ∧ va = s.me.xr f.a + BitVec.ofInt 64 f.off.toInt ∧ amo = false ∧
        (i, n) ∈ [(Instr.stb f, 1), (.sth f, 2), (.stw f, 4), (.std f, 8)]) ∨
      (∃ f : AmoOps, need = .both ∧ va = s.me.xr f.a ∧ amo = true ∧ n = (if f.wide = 1 then 8 else 4) ∧
        i ∈ [Instr.amosAdd f, .amosAnd f, .amosOr f, .amosXor f, .amosMin f, .amosMax f, .amosMinn f, .amosMaxn f,
          .amosSwap f, .amosCas f])) →
    (∀ (c : Byte) (v : Word), s.checkRange (s.party s.cur) need false va n = .error (.trap c v) →
      Traps (exec i s) s c v) ∧
    (∀ (a : Nat) (v : Word), s.checkRange (s.party s.cur) need false va n = .error (.poison a v) →
      ∃ t, exec i s = .next t ∧ TrapEntered (s.logError (errorUnit a) s.cur) t 0x18 false s.me.pc v) ∧
    ∀ locs, s.checkRange (s.party s.cur) need false va n = .ok locs →
      ((∃ l ∈ locs, gaHost l.ga = false ∧ gaKind l.ga = 3) → amo = true → Traps (exec i s) s 0x09 va) ∧
      ((∃ l ∈ locs, gaHost l.ga = false ∧ gaKind l.ga = 3) → amo = false → va.toNat % n ≠ 0 →
        Traps (exec i s) s 0x06 va) ∧
      ((∀ l ∈ locs, gaHost l.ga = true ∨ gaKind l.ga ≠ 3) → amo = true → va.toNat % n ≠ 0 →
        Traps (exec i s) s 0x06 va) ∧
      ∀ v, (∀ l ∈ locs, gaHost l.ga = true ∨ gaKind l.ga ≠ 3) → (amo = true → va.toNat % n = 0) →
        s.eccByte va locs = some v →
        ∃ t, exec i s = .next t ∧
          TrapEntered (s.logError (errorUnit (locs.headD ⟨0, false⟩).ga) s.cur) t 0x18 false s.me.pc v

/-! ### Control registers (01_machine R24-R27; 04_scalar R113-R115) -/

/-- R113, R114, R115: a CSR instruction that its checks allow and that waits for nothing writes the CSR's old value to rd;
CSRW stores rs1, CSRS sets and CSRC clears the ones of rs1, in the bits that the register has; a read-only register is
unchanged, and in a register whose ones are cleared by writing them CSRW and CSRS clear the ones of rs1, and a one for V of
ERRLOG0 clears both error words. Every other control register is as it was, but that a flag set in FCSR is set in STICKY
(R27). An access of FCSR or STICKY closes the convoy and waits for the vector queue and the matrix instructions that have left
it (R25); a write of PTROOT, TENANT or PARTMAP
closes it, completes the non-blocking operations that can, and waits for the queue and for the rest; one of ACCWIN waits for
matrix instructions (R210). State u is the one after that, and v the one in which, for CYCLE and PTIME, time has passed.
R113, R115: CSRR writes the CSR's value to rd. -/
def Obligations.CsrInstructionsReadAndWrite : Prop :=
  ∀ (s u v : State) (i : Instr) (n : Nat) (d : BitVec 5) (new : Option (Word → Word)),
    ((∃ f : CsrRd, i = .csrr f ∧ n = f.csr.toNat ∧ d = f.d ∧ new = none) ∨
      ∃ f : CsrOps, n = f.csr.toNat ∧ d = f.d ∧
        ((i = .csrw f ∧ new = some fun _ => s.me.xr f.a) ∨
          (i = .csrs f ∧ new = some fun o => if csrW1c n then s.me.xr f.a else o ||| s.me.xr f.a) ∨
          (i = .csrc f ∧ new = some fun o => if csrW1c n then 0 else o &&& ~~~ s.me.xr f.a))) →
    s.csrCheck n (wordOf i) (new.map fun g => g (s.csrValue n)) = none →
    u = (if new.isSome = true ∧ n ∈ [0x106, 0x107, 0x10B] then (s.withMe Hart.closeConvoy).drainNb s.cur
      else if n = 0 ∨ n = 0x012 then s.withMe Hart.closeConvoy else s) → v = u.csrTick n →
    if (n = 0 ∨ n = 0x012) ∧ (u.me.drained = false ∨ u.me.tile ≠ []) ∨
        new.isSome = true ∧ (n ∈ [0x106, 0x107, 0x10B] ∧ u.me.worked = false ∨ n = 0x014 ∧ u.me.matrixBusy = true) then
      ∃ t, exec i s = .next t ∧ OnlyMe { u with fresh := t.fresh } t ∧ t.me = { u.me with wait := t.me.wait } ∧
        (t.me.wait.map fun w => w.instr) = some i
    else
      ∃ t, exec i s = .next t ∧ OnlyMe v t ∧ RegSet v.me t.me d (v.csrValue n) ∧
        t.me = { v.me with x := t.me.x, csr := t.me.csr, pc := v.me.pc + 4, wait := none } ∧
        (new = none ∨ csrReadOnly n = true → t.me.csr = v.me.csr) ∧
        ∀ g, new = some g → csrReadOnly n = false →
          CsrsKept v.me t.me (if n = 0x108 then [0x108, 0x109] else if n = 0 then [0, 0x012] else [n]) ∧
          (n = 0x108 → t.me.csrv 0x108 = (if (g (v.csrValue 0x108)).getLsbD 0 then 0
              else v.me.csrv 0x108 &&& ~~~ g (v.csrValue 0x108)) ∧
            t.me.csrv 0x109 = if (g (v.csrValue 0x108)).getLsbD 0 then 0 else v.me.csrv 0x109) ∧
          (n = 0 → t.me.csrv 0x012 = v.me.csrv 0x012 ||| (g (v.csrValue 0) &&& 0x1F)) ∧
          (n ≠ 0x108 → t.me.csrv n =
            if csrW1c n then v.me.csrv n &&& ~~~ g (v.csrValue n) else g (v.csrValue n) &&& csrMask n)

/-- R24, R114: an access of an unlisted CSR, one of a supervisor CSR at user privilege, and a write at user privilege of a
CSR that only supervisor privilege writes trap ILLEGAL with the instruction word in TVAL and change nothing else. At supervisor
privilege a write that would set TENANT's world bit traps WORLD in a non-secure hart, and one that would leave in PEERBM, VQIMG
or ACCWIN a value against its rule traps ILLEGAL, or WORLD where a non-secure hart's PEERBM or VQIMG would touch a secure granule
(the instruction word in a WORLD trap's TVAL is the model's choice, log entry 51). -/
def Obligations.CsrPrivilegeTraps : Prop :=
  (∀ (f : CsrRd) (s : State), (csrListed f.csr.toNat = false ∨ (s.me.priv = .user ∧ 0x100 ≤ f.csr.toNat)) →
    Traps (exec (.csrr f) s) s 0x01 ((wordOf (.csrr f)).setWidth 64)) ∧
  (∀ (c : CsrOps → Instr), c ∈ ([Instr.csrw, .csrs, .csrc] : List (CsrOps → Instr)) → ∀ (f : CsrOps) (s : State),
    (csrListed f.csr.toNat = false ∨ (s.me.priv = .user ∧ (0x100 ≤ f.csr.toNat ∨
      f.csr.toNat ∈ [0x002, 0x003, 0x004, 0x007, 0x008, 0x00B, 0x014, 0x016]))) →
    Traps (exec (c f) s) s 0x01 ((wordOf (c f)).setWidth 64)) ∧
  ∀ (f : CsrOps) (s : State) (i : Instr) (n : Nat) (w v : Word), n = f.csr.toNat → s.me.priv = .supervisor →
    (i = .csrw f ∧ w = s.me.xr f.a ∨ i = .csrs f ∧ w = s.csrValue n ||| s.me.xr f.a ∨
      i = .csrc f ∧ w = s.csrValue n &&& ~~~ s.me.xr f.a) →
    (n = 0x107 → s.me.secure = false → w.getLsbD 16 = true → Traps (exec i s) s 0x0D ((wordOf i).setWidth 64)) ∧
    (n = 0x00B → v = w - BitVec.ofNat 64 (w.toNat % 64) → v ≠ 0 →
      (s.ownRange [0, 1, 2, 4] v.toNat 2048 = false → Traps (exec i s) s 0x01 ((wordOf i).setWidth 64)) ∧
      (s.ownRange [0, 1, 2, 4] v.toNat 2048 = true → s.me.secure = false → s.touchesSecure v.toNat 2048 = true →
        Traps (exec i s) s 0x0D ((wordOf i).setWidth 64))) ∧
    (n = 0x105 →
      (w.toNat % 4096 ≠ 0 ∨ s.ownRange [0, 1, 4] w.toNat 2112 = false → Traps (exec i s) s 0x01 ((wordOf i).setWidth 64)) ∧
      (w.toNat % 4096 = 0 → s.ownRange [0, 1, 4] w.toNat 2112 = true → s.me.secure = false →
        s.touchesSecure w.toNat 2112 = true → Traps (exec i s) s 0x0D ((wordOf i).setWidth 64))) ∧
    (n = 0x014 → 1536 < (w.extractLsb' 0 11).toNat + (w.extractLsb' 16 11).toNat →
      Traps (exec i s) s 0x01 ((wordOf i).setWidth 64))

/-! ### Traps, returns and the control instructions (04_scalar R116-R131) -/

/-- R125, R129, R130, R356, R75: SVC traps with the next instruction's address in EPC, BRK and UDF at their own; each has
its instruction word in TVAL. -/
def Obligations.TrapInstructionsEnterTheHandler : Prop :=
  ∀ (s : State),
    (∃ t, exec .svc s = .next t ∧ TrapEntered s t 0x20 false (s.me.pc + 4) 0x1A000001) ∧
    Traps (exec .brk s) s 0x21 0x1A000003 ∧
    ∀ (f : UdfOps), Traps (exec (.udf f) s) s 0x01 (BitVec.ofNat 64 (0x7E000000 + f.u.toNat * 2 ^ 31 + f.v.toNat))

/-- R129, R131, R356, R115: TRET at supervisor privilege to a world that it may return to restores the pc from EPC with bits
[1:0] cleared, the privilege from PP, the interrupt enable from PIE and the world from PW, closes the convoy and changes no
other register; where it changes the world it first waits for the vector queue and for the non-blocking operations.
R129, R363: with VRF set it also appends the image at VQIMG to the vector queue and clears VRF; an image that is not one traps
ILLEGAL with VQIMG in TVAL, and one for which the queue lacks entries waits. State u is the one after that waiting. -/
def Obligations.TretRestoresTheInterruptedState : Prop :=
  ∀ (s u : State) (q : Hart), s.me.priv = .supervisor → ((s.me.csrv 0x104).getLsbD 3 = true → s.me.secure = true) →
    u = (if (s.me.csrv 0x104).getLsbD 3 = s.me.secure then s.withMe Hart.closeConvoy
      else (s.withMe Hart.closeConvoy).drainNb s.cur) → q = u.me.dropDrained →
    if (s.me.csrv 0x104).getLsbD 3 ≠ s.me.secure ∧ u.me.worked = false ∨
        u.me.vrf = true ∧ ∃ es, u.reissued = some es ∧ queueSize < q.queue.length + es.length then
      ∃ t, exec .tret s = .next t ∧ OnlyMe { u with fresh := t.fresh } t ∧ t.me = { u.me with wait := t.me.wait } ∧
        (t.me.wait.map fun w => w.instr) = some .tret
    else if u.me.vrf = true ∧ u.reissued = none then Traps (exec .tret s) u 0x01 (u.me.csrv 0x105)
    else
      ∃ t, exec .tret s = .next t ∧ OnlyMe u t ∧
        t.me.pc = u.me.csrv 0x101 - BitVec.ofNat 64 ((u.me.csrv 0x101).toNat % 4) ∧
        t.me.priv = (if (u.me.csrv 0x104).getLsbD 2 then .supervisor else .user) ∧
        t.me.ie = (u.me.csrv 0x104).getLsbD 1 ∧ t.me.secure = (u.me.csrv 0x104).getLsbD 3 ∧ t.me.vrf = false ∧
        (∀ i, 1 ≤ i → i ≤ 3 → (t.me.csrv 0x104).getLsbD i = (u.me.csrv 0x104).getLsbD i) ∧
        (∀ i, i < 16 → (t.me.csrv 0x107).getLsbD i = (u.me.csrv 0x107).getLsbD i) ∧
        CsrsKept u.me t.me [0x104, 0x107] ∧
        (u.me.vrf = false → t.me = { u.me with
          csr := t.me.csr
          convoyOpen := false
          wait := none
          pc := t.me.pc
          priv := t.me.priv }) ∧
        (∀ es, u.me.vrf = true → u.reissued = some es → t.me = { (q.takeFlags es).1 with
          csr := t.me.csr
          convoyOpen := false
          wait := none
          queue := (q.takeFlags es).1.queue ++ (q.takeFlags es).2
          pc := t.me.pc
          priv := t.me.priv })

/-- R131: TRET and WFI at user privilege trap ILLEGAL, and TRET to the secure world by a hart of the other traps WORLD with
EPC and TSTATUS as they were (R129).
R128, R131: LKSV, LKLD and HREL at user privilege, with reserved bits of rs1 set (ILLEGAL there is the model's choice, log entry
51), or of a slot whose hart does not stand as they require, trap ILLEGAL; with a locket address that is no multiple of 4,096
LKSV and LKLD trap ALIGN; and with a target of another tenant, or of the secure world for a hart that is not, they trap WORLD. -/
def Obligations.PrivilegedInstructionsTrap : Prop :=
  (∀ (s : State),
    (s.me.priv = .user → ∃ t, exec .tret s = .next t ∧ TrapEntered s t 0x01 false s.me.pc 0x1A000002) ∧
    (s.me.priv = .supervisor → (s.me.csrv 0x104).getLsbD 3 = true → s.me.secure = false →
      ∃ t w, exec .tret s = .next t ∧ TrapEntered s w 0x0D false s.me.pc 0x1A000002 ∧ OnlyMe s t ∧
        t.me = { w.me with csr := t.me.csr } ∧
        ∀ n, t.me.csrv n = if n = 0x101 ∨ n = 0x104 then s.me.csrv n else w.me.csrv n) ∧
    (s.me.priv = .user → Traps (exec .wfi s) s 0x01 0x1A000005)) ∧
  ∀ (s : State) (i : Instr) (a : BitVec 5) (va : Option Word) (h : Nat) (stands : Bool),
    ((∃ f : Rs1, i = .hrel f ∧ a = f.a ∧ va = none ∧ stands = decide ((s.hart h).run = .held)) ∨
      (∃ f : Rs2, i = .lksv f ∧ a = f.a ∧ va = some (s.me.xr f.b) ∧ stands = ((s.hart h).run.savable && decide (h ≠ s.cur))) ∨
      ∃ f : Rs2, i = .lkld f ∧ a = f.a ∧ va = some (s.me.xr f.b) ∧
        stands = decide ((s.hart h).run = .free ∨ (s.hart h).run = .held)) →
    h = coreOf s.cur * 8 + (s.me.xr a).toNat % 8 →
    if s.me.priv = .user ∨ (s.me.xr a).toNat / 16 ≠ 0 then Traps (exec i s) s 0x01 ((wordOf i).setWidth 64)
    else if (va.getD 0).toNat % 4096 ≠ 0 then Traps (exec i s) s 0x06 (va.getD 0)
    else if stands = false then Traps (exec i s) s 0x01 ((wordOf i).setWidth 64)
    else (s.hart h).run ≠ .free → ((s.hart h).csrv 0x107).toNat % 2 ^ 16 ≠ (s.me.csrv 0x107).toNat % 2 ^ 16 ∨
        (s.hart h).secure = true ∧ s.me.secure = false →
      Traps (exec i s) s 0x0D ((wordOf i).setWidth 64)

/-- R118, R126, R127: YIELD, IFENCE with nothing queued and every store performed at its home, and WFI at supervisor privilege
with a pending asynchronous cause go on at the next word and change no register, no memory and no other hart; YIELD and IFENCE
close the convoy, and YIELD has yielded in its core's fairness round. An IFENCE that has queued work or unperformed stores waits. -/
def Obligations.HintsAndFencesOnlyAdvance : Prop :=
  ∀ (s : State),
    (∃ t, exec .yield s = .next t ∧ OnlyMe s t ∧
      t.me = { s.me with pc := s.me.pc + 4, wait := none, convoyOpen := false, yielded := some (s.round s.cur) }) ∧
    (if s.me.drained = true ∧ s.me.tracked = [] then ∃ t, exec .ifence s = .next t ∧ OnlyMe s t ∧
        t.me = { s.me with pc := s.me.pc + 4, wait := none, convoyOpen := false }
      else ∃ t, exec .ifence s = .next t ∧ t.mem = s.mem ∧ (∀ h, h ≠ s.cur → t.hart h = s.hart h) ∧
        t.me = { s.me with wait := t.me.wait, convoyOpen := false } ∧ (t.me.wait.map fun w => w.instr) = some .ifence) ∧
    (s.me.priv = .supervisor → (s.me.engFault = true ∨ s.me.collFault = true) → ∃ t, exec .wfi s = .next t ∧
      t.mem = s.mem ∧ (∀ h, h ≠ s.cur → t.hart h = s.hart h) ∧
      t.me = { s.me with pc := s.me.pc + 4, wait := none })

/-- R116, R12, R14, R19: SETVL closes the convoy and writes a length word with the smaller of rs1 and VLMAX of the type on the
hart's clusters as its count. With a pending share it first waits for the hart's vector work, and for clusters that the share
lacks, and then adopts it (v is the state in which it has). -/
def Obligations.SetvlGivesALengthWord : Prop :=
  ∀ (f : SetvlOps) (s u : State), u = (s.withMe Hart.closeConvoy).drainNb s.cur →
    (s.me.pending = none →
      ∃ t, exec (.setvl f) s = .next t ∧ OnlyMe s t ∧
        t.me = { s.me with x := t.me.x, pc := s.me.pc + 4, wait := none, convoyOpen := false, laneLost := false } ∧
        RegSet s.me t.me f.d (BitVec.ofNat 64
          (f.ty.toNat * 2 ^ 32 + min (s.me.xr f.a).toNat (s.me.k * 4096 / typeWidth f.ty)))) ∧
    (∀ v, s.me.pending.isSome = true → s.me.drained = true → u.me.worked = true →
      u.adoptShare s.cur (typeWidth f.ty) = some v →
      ∃ t, exec (.setvl f) s = .next t ∧ OnlyMe v t ∧
        t.me = { v.me with x := t.me.x, pc := v.me.pc + 4, wait := none, laneLost := false } ∧
        RegSet v.me t.me f.d (BitVec.ofNat 64
          (f.ty.toNat * 2 ^ 32 + min (v.me.xr f.a).toNat (v.me.k * 4096 / typeWidth f.ty)))) ∧
    (s.me.pending.isSome = true →
      s.me.drained = false ∨ u.me.worked = false ∨ u.adoptShare s.cur (typeWidth f.ty) = none →
      ∃ t, exec (.setvl f) s = .next t ∧ t.me.pc = s.me.pc ∧ (t.me.wait.map fun w => w.instr) = some (.setvl f))

/-- R119, R120: a FORK that finds fewer clusters than ways, too few free slots, hart slots or locket space of its region, an
existing family or matrix mode returns -1 and splits nothing (u is the state in which its work is done, v the one in which a
pending share has been adopted). MERGE in a hart of no family only goes on. MERGE in child 0, once every sibling has handed back
its rows, gives it its parent's clusters and rows again, and in another child of no region, whose contexts have ended their
commands (R262) and whose records have been performed, hands its rows, flags and counts of unsealed records (R253) to child 0
and frees its slot; before that either waits. That a short pool of locket spaces refuses a FORK, and what becomes of the counts,
is the model's choice (log entries 59 and 57). -/
def Obligations.ForkAndMergeOfASingleHart : Prop :=
  (∀ (f : ForkOps) (s u v : State) (n : Nat), n = (if f.four = 1 then 4 else 2) →
    u = (s.withMe Hart.closeConvoy).drainNb s.cur → s.me.drained = true → u.me.worked = true →
    u.adoptShare s.cur 64 = some v →
    (v.me.k < n ∨ v.me.family.isSome = true ∨ v.me.matrix.isSome = true ∨
      (v.freeSlots (coreOf s.cur)).length < n - 1 ∨
      ∃ r, v.me.region = some r ∧ (v.remaining 1 r < n - 1 ∨ v.remaining 5 r < (n - 1) * (locketSize 0 + 4096) ∨
        (v.spaces v.me.secure 0).length < n - 1)) →
    ∃ t, exec (.fork f) s = .next t ∧ OnlyMe v t ∧ t.me = { v.me with x := t.me.x, pc := v.me.pc + 4, wait := none } ∧
      RegSet v.me t.me f.d (BitVec.allOnes 64)) ∧
  (∀ (s u : State), u = (s.withMe Hart.closeConvoy).drainNb s.cur → s.me.drained = true → u.me.worked = true →
    (u.me.family = none → ∃ t, exec .merge s = .next t ∧ OnlyMe u t ∧ t.me = { u.me with pc := u.me.pc + 4, wait := none }) ∧
    (∀ g : Family, u.me.family = some g → g.index = 0 → g.handed.length + 1 = g.ways →
      ∃ t, exec .merge s = .next t ∧ OnlyMe u t ∧
        t.me = { u.me with v := t.me.v, map := g.parentMap, family := none, pc := u.me.pc + 4, wait := none } ∧
        ∀ r i, r < 32 → i < 8 * popCount 8 g.parentMap.toNat → rowElem 512 (t.me.vr r).toNat i =
          if i % g.ways = 0 then rowElem 512 (u.me.vr r).toNat (i / g.ways)
          else rowElem 512 (Sparse.get 0 ((g.handed.find? fun e : Nat × List (Nat × Row) => e.1 = i % g.ways).elim [] Prod.snd) r).toNat
            (i / g.ways)) ∧
    (∀ g : Family, u.me.family = some g → (if g.index = 0 then g.handed.length + 1 ≠ g.ways
        else u.me.ctxsSettled = false ∨ u.me.tracked ≠ []) →
      ∃ t, exec .merge s = .next t ∧ t.me.pc = u.me.pc ∧ (t.me.wait.map fun w => w.instr) = some .merge) ∧
    (∀ (g c : Family) (z : Nat), u.me.family = some g → g.index ≠ 0 → u.me.region = none → u.me.ctxs = [] →
      u.me.tracked = [] →
      ((u.kin u.cur).find? fun h => (u.hart h).family.any fun x => x.index = 0) = some z → (u.hart z).family = some c →
      ∃ t, exec .merge s = .next t ∧ t.mem = u.mem ∧ t.me = Hart.free ∧
        (∀ h, h ≠ z → h ≠ u.cur → t.hart h = u.hart h) ∧
        (t.hart z).family = some { c with handed := c.handed ++ [(g.index, u.me.v)] } ∧
        (t.hart z).csrv 0 = (u.hart z).csrv 0 ||| (u.me.csrv 0 &&& 0x1F) ∧
        (t.hart z).csrv 0x012 = (u.hart z).csrv 0x012 ||| u.me.csrv 0x012 ∧
        CsrsKept (u.hart z) (t.hart z) [0, 0x012] ∧
        t.hart z = { (u.hart z).inherit u.me u.cur with
          csr := (t.hart z).csr
          family := (t.hart z).family }))

/-- R18, R119: a hart that has the clusters, and whose core and region have the slots and locket space, splits into n children:
child j is in the j-th free slot of the core at the next word with j in rd, the parent being child 0, each with every n-th
cluster of the parent's and the row groups on them; each child's other registers, counters and the control registers that R119
lists are the parent's, VQIMG is its own locket space, and every other one is 0. The locket spaces are zeroed (14_regions R295),
the region control block counts the children (R286), and no other byte of memory changes. -/
def Obligations.ForkSplitsAHart : Prop :=
  ∀ (f : ForkOps) (s u v : State) (n : Nat) (slots spaces : List Nat), n = (if f.four = 1 then 4 else 2) →
    u = (s.withMe Hart.closeConvoy).drainNb s.cur → s.me.drained = true → u.me.worked = true →
    u.adoptShare s.cur 64 = some v → v.me.family = none → v.me.matrix = none → n ≤ v.me.k → v.me.run ≠ .free →
    slots = (v.freeSlots (coreOf s.cur)).take (n - 1) → slots.length = n - 1 →
    spaces = (v.spaces v.me.secure 0).take (n - 1) →
    (∀ r, v.me.region = some r → n - 1 ≤ v.remaining 1 r ∧ (n - 1) * (locketSize 0 + 4096) ≤ v.remaining 5 r ∧
      spaces.length = n - 1) →
    ∃ t, exec (.fork f) s = .next t ∧
      t.mem = (match v.me.region.bind fun r =>
          if (v.region r).done then none else ((v.region r).counts.filter fun a => !v.mustWait a).map fun a => (r, a) with
        | none => (v.takeSpaces spaces 0).mem
        | some (r, a) => (((v.takeSpaces spaces 0).writeGa a 4 (t.childCount r)).writeGa (a + 4) 2 (t.liveCount r)).mem) ∧
      (∀ h, h ≠ s.cur → h ∉ slots → t.hart h = v.hart h) ∧
      t.me = { v.me with
        x := t.me.x
        v := t.me.v
        map := childMap v.me.map n 0
        family := t.me.family
        pc := v.me.pc + 4
        wait := none } ∧ RegSet v.me t.me f.d 0 ∧
      (∀ j h, j < n → (if j = 0 then some s.cur else slots[j - 1]?) = some h →
        ((t.hart h).family.map fun g => (g.index, g.ways)) = some (j, n) ∧ (t.hart h).map = childMap v.me.map n j ∧
        ∀ r i, r < 32 → i < 8 * v.me.k / n →
          rowElem 512 ((t.hart h).vr r).toNat i = rowElem 512 (v.me.vr r).toNat (j + n * i)) ∧
      ∀ j h, j < n - 1 → slots[j]? = some h →
        (t.hart h).run = .running ∧ (t.hart h).pc = v.me.pc + 4 ∧ (t.hart h).priv = v.me.priv ∧
        RegSet v.me (t.hart h) f.d (BitVec.ofNat 64 (j + 1)) ∧
        (t.hart h).m = v.me.m ∧ (t.hart h).cb = v.me.cb ∧ (t.hart h).cc = v.me.cc ∧
        ∀ c, (t.hart h).csrv c = if c ∈ childCsrs then v.me.csrv c
          else if c = 0x105 then BitVec.ofNat 64 (spaces.getD j 0) else 0

/-- R122: END of a hart that has finished its work, whose contexts have completed their commands or faulted and whose siblings,
where it is child 0 of a FORK family, have merged, frees its slot once its pod-scope release is complete: the slot holds no hart
and reads as a free one; another child of a family frees it once its records have been performed. No other hart changes but in
what its wait has seen. A hart of no region with no contexts changes nothing else
beside its family. While its contexts have commands left it waits. -/
def Obligations.EndFreesTheSlot : Prop :=
  ∀ (s u : State), u = (s.withMe Hart.closeConvoy).drainNb s.cur → s.me.drained = true → u.me.worked = true →
    (u.me.ctxsSettled = false →
      ∃ t, exec .endHart s = .next t ∧ t.me.pc = u.me.pc ∧ (t.me.wait.map fun w => w.instr) = some .endHart) ∧
    (∀ g, u.me.ctxsSettled = true → u.me.family = some g → g.index ≠ 0 → u.me.tracked = [] →
      ∃ t, exec .endHart s = .next t ∧ t.me = Hart.free) ∧
    (u.me.ctxsSettled = true → (∀ g, u.me.family = some g → g.index = 0 ∧ g.handed.length + 1 = g.ways) →
      (u.me.matrix.isSome = true → u.me.matrixIdle = true) → (∀ e ∈ u.me.unsealed, e.1 < 14) → u.me.inherited = [] →
      u.me.sealing = [] → (∀ x ∈ u.me.tracked, x.sent = true) →
      ∃ t, exec .endHart s = .next t ∧ t.me = Hart.free ∧
        (∀ h, h ≠ u.cur → t.hart h = { u.hart h with wait := (t.hart h).wait }) ∧
        (u.me.region = none → u.me.nb = [] → t.mem = u.mem))

/-- R117: SHARE of an amount that is no share, that is above what the stage requests, or by a member of a FORK family
returns -1; else it records the demand. An amount up to the hart's own sets the pending share to it, or to what the scheduler has
set pending where that is smaller, and with the hart's own amount none is pending; a new reduction's grace begins then (01_machine R19). A larger one is pending where the core has
clusters to spare and the region's budget allows it, unless a reduction by the scheduler is pending; else nothing more changes.
rd holds VSHARE. -/
def Obligations.ShareRecordsADemand : Prop :=
  ∀ (f : Rr) (s : State) (n top p : Nat), n = (s.me.xr f.a).toNat →
    top = (match s.me.region with | none => 8 | some r => ((s.region r).stage s.me.stage).clusters) →
    p = min n (s.me.limit.getD n) →
    (n ∉ [0, 1, 2, 4, 8] ∨ top < n ∨ s.me.family.isSome = true →
      Writes (exec (.share f) s) s f.d (BitVec.allOnes 64)) ∧
    (n ∈ [0, 1, 2, 4, 8] → n ≤ top → s.me.family = none →
      ∃ t, exec (.share f) s = .next t ∧ OnlyMe (if n ≤ s.me.k ∧ p < s.me.k ∧ s.me.shrinking = false then s.tickTime else s) t ∧
        RegSet s.me t.me f.d t.me.vshare ∧
        t.me = { s.me with
          x := t.me.x
          pc := s.me.pc + 4
          wait := none
          demand := n
          pending := t.me.pending
          graceAt := t.me.graceAt
          reduced := t.me.reduced } ∧
        (n ≤ s.me.k → p < s.me.k → s.me.shrinking = false → t.me.graceAt = (s.tickTime.die (slotDie s.cur)).ptime) ∧
        (n ≤ s.me.k → t.me.pending = if p = s.me.k then none else some p) ∧
        (s.me.k < n → t.me.pending =
          if s.me.reduced = false ∧ n - s.me.k ≤ s.spare (coreOf s.cur) + (s.me.pending.getD 0 - s.me.k) ∧
              (∀ r, s.me.region = some r → n - s.me.k ≤ s.remaining 0 r + (s.me.pending.getD 0 - s.me.k))
          then some n else s.me.pending))

/-! ### Held harts (04_scalar R128; 20_faults R376) -/

/-- R128, R376: HREL of a held hart of the executing hart's core, tenant and world lets it run with its contexts, or, with bit 3
of rs1 set, discards it and frees its slot.
R128, R376: LKSV of a held hart of the same core, tenant and world writes its image to the locket, marks it saved and goes on,
with the hart's registers and every byte outside the locket as they were; of a running one it sends the stop and waits. A locket
that an access check refuses traps with that check's cause. -/
def Obligations.HeldHartsAreSavedAndReleased : Prop :=
  (∀ (f : Rs1) (s : State) (h : Nat), h = coreOf s.cur * 8 + (s.me.xr f.a).toNat % 8 → s.me.run ≠ .held →
    s.me.priv = .supervisor → (s.me.xr f.a).toNat / 16 = 0 → (s.hart h).run = .held → s.foreign h = false →
    ∃ t, exec (.hrel f) s = .next t ∧ t.me = { s.me with pc := s.me.pc + 4, wait := none } ∧
      (∀ k, k ≠ h → k ≠ s.cur → t.hart k = { s.hart k with wait := (t.hart k).wait }) ∧
      ((s.me.xr f.a).getLsbD 3 = false → t.mem = s.mem ∧ t.hart h = { s.hart h with
        run := .running
        saved := false
        ctxs := (t.hart h).ctxs
        engFault := (t.hart h).engFault
        collFault := (t.hart h).collFault }) ∧
      ((s.me.xr f.a).getLsbD 3 = true → t.hart h = Hart.free ∧ ((s.hart h).region = none → t.mem = s.mem))) ∧
  (∀ (f : Rs2) (s : State) (h : Nat), h = coreOf s.cur * 8 + (s.me.xr f.a).toNat % 8 → h ≠ s.cur →
    s.me.priv = .supervisor → (s.me.xr f.a).toNat / 16 = 0 → (s.me.xr f.b).toNat % 4096 = 0 →
    ((s.hart h).run = .running ∨ (s.hart h).run = .held) → s.foreign h = false →
    match s.locketRange .wr (s.me.xr f.b) (locketSize (s.hart h).accRows) with
    | .error (.trap c v) => Traps (exec (.lksv f) s) s c v
    | .error (.wait va) => ∃ t, exec (.lksv f) s = .next t ∧ OnlyMe s t ∧ t.me = { s.me with stalled := some va }
    | .error (.poison a v) => ∃ t, exec (.lksv f) s = .next t ∧
        TrapEntered (s.logError (errorUnit a) s.cur) t 0x18 false s.me.pc v
    | .ok locs => s.eccByte (s.me.xr f.b) locs = none →
      ∃ t, exec (.lksv f) s = .next t ∧ (∀ k, k ≠ h → k ≠ s.cur → t.hart k = s.hart k) ∧
        ((s.hart h).run = .held → t.hart h = { s.hart h with saved := true } ∧
          t.me = { s.me with pc := s.me.pc + 4, wait := none } ∧
          t.mem = (s.writeLocket h (locAddr locs) true).mem ∧
          ∀ a, (∀ l ∈ locs, s.canon l.ga ≠ s.canon a) → t.readByte a = s.readByte a) ∧
        ((s.hart h).run = .running → t.mem = s.mem ∧
          t.hart h = { s.hart h with run := .holding (s.hart h).stopUnits } ∧
          t.me = { s.me with wait := t.me.wait } ∧ (t.me.wait.map fun w => w.instr) = some (.lksv f)))
/-! ### Phases, waits, time, counters and queues (06_memory_isa R177-R189, R392) -/

/-- R177: once the vector queue has drained, an acquire whose earlier loads and returning atomics are complete, and a release of
which every store has been sent, no seal is due to another device or to host memory and none is unanswered, complete: the hart's
stores to homes of its package are performed, a release gives in rd the count of devices whose seals failed, the window copies of
the die are dropped where W is set, the records that the scope covers are sealed, and nothing else changes (AR is both) but what
the waits of other harts have seen.
R257: a release by a hart that has sent records to another device waits at its own address with a seal on its way to that device;
R315: one that covers writes to host memory waits for a flushing read on their link. An acquire with a load outstanding waits. -/
def Obligations.PhasesCompleteWhenSealed : Prop :=
  ∀ (f : PhaseOps) (s u : State) (i : Instr) (rel acq : Bool),
    (i, rel, acq) ∈ [(Instr.phaseRel f, true, false), (.phaseAcq f, false, true), (.phaseAr f, true, true)] →
    s.me.drained = true → u = (s.withMe Hart.closeConvoy).drainNb s.cur →
    ((acq = true → u.me.acquired = true) →
      (rel = true → (∀ x ∈ u.me.tracked, x.sent = true) ∧ u.me.sealing = [] ∧
        (∀ e ∈ u.me.inherited, covers f.scope.toNat (slotDie s.cur) (e.1 / 2048) = false) ∧
        ∀ e ∈ u.me.unsealed, covers f.scope.toNat (slotDie s.cur) e.1 = true → e.1 < 14) →
      ∃ t, exec i s = .next t ∧ t.mem = (if rel then u.flushStores s.cur else u).mem ∧
        (∀ h, h ≠ s.cur → t.hart h = { s.hart h with wait := (t.hart h).wait }) ∧
        t.windows = (if f.win = 1 then s.windows.filter fun w => w.1 % 16 ≠ slotDie s.cur else s.windows) ∧
        t.me = { u.me with
          x := t.me.x
          pc := s.me.pc + 4
          wait := none
          nb := (if rel then u.flushStores s.cur else u).me.nb
          unsealed := t.me.unsealed
          sealFailed := if rel then [] else u.me.sealFailed } ∧
        t.me.unsealed = (if rel then u.me.unsealed.filter fun e => !covers f.scope.toNat (slotDie s.cur) e.1
          else u.me.unsealed) ∧
        RegSet s.me t.me f.d (if rel then BitVec.ofNat 64 u.me.sealFailed.length else 0)) ∧
    (rel = false → u.me.acquired = false →
      ∃ t, exec i s = .next t ∧ OnlyMe { u with fresh := t.fresh } t ∧ t.me = { u.me with wait := t.me.wait } ∧
        (t.me.wait.map fun w => w.instr) = some i) ∧
    ∀ (c n : Nat), rel = true → f.scope = 3 → (∀ x ∈ u.me.tracked, x.sent = true) → u.me.sealing = [] →
      u.me.inherited = [] → u.me.unsealed = [(c, n)] →
      (c = 14 ∨ c = 15 ∨ 16 ≤ c ∧ c ≠ 16 + s.chip ∧ s.peerFailed (c - 16) = false) →
      ∃ (t : State) (tag : BitVec 32), exec i s = .next t ∧ t.me.pc = s.me.pc ∧ t.me.x = s.me.x ∧
        (t.me.wait.map fun w => w.instr) = some i ∧ t.me.unsealed = [] ∧
        t.mem = (u.flushStores s.cur).mem ∧ (∀ h, h ≠ s.cur → t.hart h = { s.hart h with wait := (t.hart h).wait }) ∧
        t.me.sealing = [(if c < 16 then 2 ^ 14 + (c - 6) else c - 16, tag)] ∧
        (16 ≤ c → ∃ o : Outgoing, (t.conn (c - 16)).waiting = (s.conn (c - 16)).waiting ++ [o] ∧ o.rcd.op = 0x08 ∧
          o.rcd.tag = tag ∧ o.rcd.shart = BitVec.ofNat 11 s.cur ∧ o.rcd.addr = BitVec.ofNat 64 (n % 2 ^ 32))

/-- R180-R184: a wait whose condition holds ends with status 0: a counter that has retired rs1 operations, a context that
has completed the command numbered in rs1 (its statuses are acquired in STICKY, R182), a clasp word without ERR whose generation
has reached rs2, and a word of this package or of the host that stands, or at a write of it has stood, in the relation to rs2; of
another device's word one READ is sent, and its answer decides, also where the deadline has passed before it (R180: the condition
is tested once). A faulted context and a clasp word with ERR give status 2; a slot with no context gives 0 for command 0 and else
traps ENGCTX. A wait whose condition does not hold ends with status 1 once PTIME of its die has reached a deadline other than 0,
and before that goes on waiting with the deadline it first read. R392: the word of a WAITG or WAITW is checked as a load; one that
is not in the hart's own scratchpad, or that is register space, traps PERM, and then one that is not aligned traps ALIGN. -/
def Obligations.WaitsEndWhenTheirConditionHolds : Prop :=
  (∀ (f : WaitcOps) (s : State), (s.me.xr f.a).toNat ≤ (s.me.ctr f.ctr.toNat).retired.toNat →
    Ends (exec (.waitc f) s) s f.d 0) ∧
  (∀ (f : RrSlot) (s : State) (k : Nat) (n : Word) (c : CtxSlot),
    k = f.slot.toNat + (if (s.me.xr f.a).getLsbD 63 then 8 else 0) → n = ((s.me.xr f.a).extractLsb' 0 63).setWidth 64 →
    c = s.me.ctxSlot k →
    (c.bound = false → if n = 0 then Ends (exec (.waitt f) s) s f.d 0
      else Traps (exec (.waitt f) s) s 0x12 ((wordOf (.waitt f)).setWidth 64)) ∧
    (c.bound = true → c.completed.toNat < n.toNat → c.faulted = true → Ends (exec (.waitt f) s) s f.d 2) ∧
    (c.bound = true → n.toNat ≤ c.completed.toNat → ∃ t, exec (.waitt f) s = .next t ∧
      t = { s with harts := t.harts, ctxs := t.ctxs } ∧ (∀ h, h ≠ s.cur → t.hart h = s.hart h) ∧
      t.me = { s.me with x := t.me.x, csr := t.me.csr, pc := s.me.pc + 4, wait := none, convoyOpen := false } ∧
      RegSet s.me t.me f.d 0 ∧ CsrsKept s.me t.me [0x012] ∧
      t.me.csrv 0x012 = (((s.ctx c.key).statuses.filter fun e => e.1.ule n).foldl (fun w e => w ||| e.2.setWidth 64)
        (s.me.csrv 0x012)) ∧
      t.ctx c.key = { s.ctx c.key with statuses := (s.ctx c.key).statuses.filter fun e => !e.1.ule n } ∧
      ∀ j, j ≠ c.key → t.ctx j = s.ctx j)) ∧
  (∀ (f : Rrr) (s : State) (as : List Nat), Unhindered s →
    s.checkOnce .rd false (s.me.xr f.a) 16 = .ok (as.map fun a => ⟨a, false⟩) →
    (∀ a ∈ as, s.inOwnSpad ⟨a, false⟩ = true ∧ s.poisoned a = false ∧ s.mustWait a = false) → (s.me.xr f.a).toNat % 16 = 0 →
    ((s.readAt as).testBit 96 = true → Ends (exec (.waitg f) s) s f.d 2) ∧
    ((s.readAt as).testBit 96 = false →
      0 ≤ (BitVec.ofNat 32 (s.readAt as / 2 ^ 64) - (s.me.xr f.b).setWidth 32).toInt →
      Ends (exec (.waitg f) s) s f.d 0)) ∧
  (∀ p ∈ wordWaits, ∀ (f : Rrr) (s : State), Unhindered s → (s.me.xr f.a).toNat % 8 = 0 →
      (∀ (as : List Nat), s.checkOnce .rd false (s.me.xr f.a) 8 = .ok (as.map fun a => ⟨a, false⟩) →
        (∀ a ∈ as, (gaHost a = true ∨ gaKind a ≠ 3) ∧ s.poisoned a = false ∧ s.farDev a = none ∧ s.mustWait a = false) →
        p.2 (BitVec.ofNat 64 (s.readAt as)) (s.me.xr f.b) = true ∨
          (∃ (w : Wait) (v : Word), s.me.wait = some w ∧ w.seen = some v ∧ p.2 v (s.me.xr f.b) = true) →
        Ends (exec (p.1 f) s) s f.d 0) ∧
      ∀ (ga dev : Nat), s.checkOnce .rd false (s.me.xr f.a) 8 = .ok ((gaRange ga 8).map fun a => ⟨a, false⟩) →
        (∀ a ∈ gaRange ga 8, gaKind a ≠ 3 ∧ s.poisoned a = false ∧ s.farDev a = some dev) → s.peerFailed dev = false →
        s.farRuns (gaRange ga 8) = [(ga, 8)] →
        (s.me.asks = [] → s.me.tracked = [] → s.me.wait.bind (·.seen) = none ∨ s.expired = false →
          ∃ (t : State) (r : Record), exec (p.1 f) s = .next t ∧
          t.mem = s.mem ∧ (∀ h, h ≠ s.cur → t.hart h = s.hart h) ∧ t.me.pc = s.me.pc ∧ t.me.x = s.me.x ∧
          Sent s t dev (gaDie ga % 10) r ∧ r.op = 0x01 ∧ r.addr = BitVec.ofNat 64 ga ∧ r.len = 8) ∧
        ∀ (tag : BitVec 32) (bs : List Byte), bs.length = 8 → s.me.asks = [⟨4, tag, dev, ga, 8, false, false, some bs⟩] →
          (p.2 (BitVec.ofNat 64 (bytesNat bs)) (s.me.xr f.b) = true ∨ s.expired = true) →
          ∃ t, exec (p.1 f) s = .next t ∧ OnlyMe s t ∧
            RegSet s.me t.me f.d (if p.2 (BitVec.ofNat 64 (bytesNat bs)) (s.me.xr f.b) = true then 0 else 1) ∧
            t.me = { s.me with x := t.me.x, pc := s.me.pc + 4, wait := none, convoyOpen := false, asks := [] }) ∧
  (∀ (i : Instr) (f : Rrr) (s : State) (n : Nat) (fits : Nat → Bool), Unhindered s →
    (i = .waitg f ∧ n = 16 ∧ fits = (fun a => s.inOwnSpad ⟨a, false⟩) ∨
      (∃ p ∈ wordWaits, i = p.1 f) ∧ n = 8 ∧ fits = (fun a => gaHost a || decide (gaKind a ≠ 3))) →
    (∀ c v, s.checkOnce .rd false (s.me.xr f.a) n = .error (.trap c v) → Traps (exec i s) s c v) ∧
    ∀ as : List Nat, s.checkOnce .rd false (s.me.xr f.a) n = .ok (as.map fun a => ⟨a, false⟩) →
      (∀ k a, as[k]? = some a → fits a = false → (∀ j b, j < k → as[j]? = some b → fits b = true) →
        Traps (exec i s) s 0x09 (s.me.xr f.a + BitVec.ofNat 64 k)) ∧
      ((∀ a ∈ as, fits a = true) → (s.me.xr f.a).toNat % n ≠ 0 → Traps (exec i s) s 0x06 (s.me.xr f.a))) ∧
  (∀ (i : Instr) (d : BitVec 5) (s : State),
    ((∃ f : WaitcOps, i = .waitc f ∧ d = f.d ∧ (s.me.ctr f.ctr.toNat).retired.toNat < (s.me.xr f.a).toNat) ∨
      (∃ (f : RrSlot) (c : CtxSlot), i = .waitt f ∧ d = f.d ∧
        c = s.me.ctxSlot (f.slot.toNat + (if (s.me.xr f.a).getLsbD 63 then 8 else 0)) ∧ c.bound = true ∧
        c.faulted = false ∧ c.completed.toNat < (s.me.xr f.a).toNat % 2 ^ 63) ∨
      (∃ (f : Rrr) (as : List Nat), i = .waitg f ∧ d = f.d ∧ Unhindered s ∧ (s.me.xr f.a).toNat % 16 = 0 ∧
        s.checkOnce .rd false (s.me.xr f.a) 16 = .ok (as.map fun a => ⟨a, false⟩) ∧
        (∀ a ∈ as, s.inOwnSpad ⟨a, false⟩ = true ∧ s.poisoned a = false ∧ s.mustWait a = false) ∧
        (s.readAt as).testBit 96 = false ∧
        (BitVec.ofNat 32 (s.readAt as / 2 ^ 64) - (s.me.xr f.b).setWidth 32).toInt < 0) ∨
      ∃ (f : Rrr) (as : List Nat), d = f.d ∧ Unhindered s ∧ (s.me.xr f.a).toNat % 8 = 0 ∧ s.me.wait.bind (·.seen) = none ∧
        s.checkOnce .rd false (s.me.xr f.a) 8 = .ok (as.map fun a => ⟨a, false⟩) ∧
        (∀ a ∈ as, (gaHost a = true ∨ gaKind a ≠ 3) ∧ s.poisoned a = false ∧ s.farDev a = none ∧ s.mustWait a = false) ∧
        ∃ p ∈ wordWaits, i = p.1 f ∧ p.2 (BitVec.ofNat 64 (s.readAt as)) (s.me.xr f.b) = false) →
    ((s.me.waitDeadline ≠ 0 ∧ s.me.waitDeadline.toNat ≤ (s.die (slotDie s.cur)).ptime.toNat) → Ends (exec i s) s d 1) ∧
    ((s.me.waitDeadline = 0 ∨ (s.die (slotDie s.cur)).ptime.toNat < s.me.waitDeadline.toNat) →
      ∃ t, exec i s = .next t ∧ t.me.pc = s.me.pc ∧ t.me.x = s.me.x ∧ t.mem = s.mem ∧
        (t.me.wait.map fun w => (w.instr, w.deadline)) = some (i, s.me.waitDeadline)))

/-- R185, R186, R187: TIME with nothing queued closes the convoy and writes the PTIME of the hart's die, as time has then passed,
to rd; with work queued it waits. WINFL drops those window copies of the hart's die that a byte of the range names through a
window page, and no others. CCRD reads the retired count of a counter; CCSET of a counter with nothing outstanding sets both its
counts to rs1, and else waits. -/
def Obligations.TimeWindowsAndCounters : Prop :=
  (∀ (f : Rs2) (s : State), ∃ t, exec (.winfl f) s = .next t ∧
    t = { s with harts := t.harts, windows := t.windows } ∧ (∀ h, h ≠ s.cur → t.hart h = s.hart h) ∧
    t.me = { s.me with pc := s.me.pc + 4, wait := none } ∧
    ∀ w, w ∈ t.windows ↔ w ∈ s.windows ∧ ¬ (w.1 % 16 = slotDie s.cur ∧ ∃ i pg, i < (s.me.xr f.b).toNat ∧
      s.pageOf (s.party s.cur) (s.me.xr f.a + BitVec.ofNat 64 i) = some pg ∧ pg.rwin = true ∧
      s.canon (pg.ga (s.me.xr f.a + BitVec.ofNat 64 i).toNat) / 64 = w.2.1)) ∧
  (∀ (f : RdCtr) (s : State), Writes (exec (.ccrd f) s) s f.d (s.me.ctr f.ctr.toNat).retired) ∧
  (∀ (f : RsCtr) (s : State), if (s.me.ctr f.ctr.toNat).retired = (s.me.ctr f.ctr.toNat).issued then
      ∃ t, exec (.ccset f) s = .next t ∧ OnlyMe s t ∧
        t.me = { s.me with cc := t.me.cc, pc := s.me.pc + 4, wait := none } ∧
        ∀ n, t.me.ctr n = if n = f.ctr.toNat then ⟨s.me.xr f.a, s.me.xr f.a⟩ else s.me.ctr n
    else ∃ t, exec (.ccset f) s = .next t ∧ OnlyMe { s with fresh := t.fresh } t ∧ t.me = { s.me with wait := t.me.wait } ∧
      (t.me.wait.map fun w => w.instr) = some (.ccset f)) ∧
  (∀ (f : Rd) (s : State), if s.me.drained = true then
      ∃ t, exec (.time f) s = .next t ∧ t.mem = s.mem ∧ (∀ h, h ≠ s.cur → t.hart h = s.hart h) ∧
        t.me = { s.me with x := t.me.x, pc := s.me.pc + 4, wait := none, convoyOpen := false } ∧
        t.dies = s.tickTime.dies ∧ RegSet s.me t.me f.d (t.die (slotDie s.cur)).ptime
    else ∃ t, exec (.time f) s = .next t ∧ t.mem = s.mem ∧ (∀ h, h ≠ s.cur → t.hart h = s.hart h) ∧
      t.me = { s.me with wait := t.me.wait, convoyOpen := false } ∧ (t.me.wait.map fun w => w.instr) = some (.time f))

/-- R188, R189, R298: QPOP of a queue that holds an item copies the item numbered HEAD to the buffer, raises HEAD and ends
with status 0; of one whose V is 0, and of a closed and empty one, it ends with status 2; of an empty one it waits, and ends with
status 1 at its deadline. QPUSH, once the hart's vector queue has drained and its stores have been performed, copies the item into
the slot numbered TAIL of a queue with room and raises TAIL; to one that is closed or whose V is 0 it ends with status 2, and with
a full one it waits, and ends with status 1 at its deadline. A hart whose release is not complete waits before it pushes. (Nothing
is promised of a header that the device did not write, R298. The stages that this finishes are closed, 14_regions R299.) R392:
operands that an access check refuses trap with its cause, a header in register space or host memory traps PERM, and a header or
item that is not aligned traps ALIGN. -/
def Obligations.QueueInstructionsMoveOneItem : Prop :=
  (∀ (f : Rrr) (s : State) (i : Instr) (push : Bool), (i, push) ∈ [(Instr.qpop f, false), (.qpush f, true)] →
    (∀ c v, s.checkOnce .both false (s.me.xr f.a) 64 = .error (.trap c v) → Traps (exec i s) s c v) ∧
    ∀ (hl : List Loc) (v : Nat), s.checkOnce .both false (s.me.xr f.a) 64 = .ok hl →
      (s.peek 4 (hl.take 32)).2 = some v →
      (∀ c w, s.checkOnce (if push then .bulkRd else .bulkWr) false (s.me.xr f.b) (qHeader v).item = .error (.trap c w) →
        Traps (exec i s) s c w) ∧
      ∀ il, s.checkOnce (if push then .bulkRd else .bulkWr) false (s.me.xr f.b) (qHeader v).item = .ok il →
        (∀ k l, hl[k]? = some l → (gaHost l.ga = true ∨ l.isReg = true) →
          (∀ j m, j < k → hl[j]? = some m → gaHost m.ga = false ∧ m.isReg = false) →
          Traps (exec i s) s 0x09 (s.me.xr f.a + BitVec.ofNat 64 k)) ∧
        ((∀ l ∈ hl, gaHost l.ga = false ∧ l.isReg = false) →
          ((s.me.xr f.a).toNat % 64 ≠ 0 → Traps (exec i s) s 0x06 (s.me.xr f.a)) ∧
          ((s.me.xr f.a).toNat % 64 = 0 → (s.me.xr f.b).toNat % 8 ≠ 0 → Traps (exec i s) s 0x06 (s.me.xr f.b)))) ∧
  (∀ (f : Rrr) (s : State) (ga : Nat) (hl : List Nat) (il : List Loc) (q : QHeader), QueueAt s f false hl il q →
    ga = hl.headD 0 →
    (q.valid = false → Ends (exec (.qpop f) s) s f.d 2) ∧
    (q.valid = true → s.deviceQueue ga q = true →
      (q.occupancy = 0 → q.closed = true → Ends (exec (.qpop f) s) s f.d 2) ∧
      (q.occupancy = 0 → q.closed = false → s.expired = true → Ends (exec (.qpop f) s) s f.d 1) ∧
      (q.occupancy = 0 → q.closed = false → s.expired = false →
        ∃ t, exec (.qpop f) s = .next t ∧ t.mem = s.mem ∧ (∀ h, h ≠ s.cur → t.hart h = s.hart h) ∧
          t.me = { s.me with wait := t.me.wait, convoyOpen := false } ∧
          (t.me.wait.map fun w => (w.instr, w.deadline)) = some (.qpop f, s.me.waitDeadline)) ∧
      (q.occupancy ≠ 0 → s.ringPoisoned q q.head = false → s.ringAway q q.head = false →
        ∃ t : State, exec (.qpop f) s = .next t.closeAllQueues ∧
          t = { s with mem := t.mem, harts := t.harts } ∧ (∀ h, h ≠ s.cur → t.hart h = s.hart h) ∧
          t.mem = ((s.writeAt (locGas il) (s.readGa (q.slot q.head) q.item)).writeGa ga 4 (q.head + 1)).mem ∧
          t.me = { s.me with
            x := t.me.x
            pc := s.me.pc + 4
            wait := none
            convoyOpen := false
            unsealed := t.me.unsealed } ∧
          RegSet s.me t.me f.d 0))) ∧
  (∀ (f : Rrr) (s u : State) (ga : Nat) (hl : List Nat) (il : List Loc) (q : QHeader), QueueAt s f true hl il q →
    ga = hl.headD 0 → u = (s.withMe Hart.closeConvoy).flushStores s.cur → s.me.drained = true → s.me.asks = [] →
    ((∃ x ∈ s.me.tracked, x.sent = false) → ∃ t, exec (.qpush f) s = .next t ∧ t.me.pc = s.me.pc ∧ t.me.x = s.me.x ∧
      (t.me.wait.map fun w => w.instr) = some (.qpush f)) ∧
    ((∀ x ∈ s.me.tracked, x.sent = true) → s.me.sealing = [] → (∀ e ∈ s.me.inherited, 14 ≤ e.1 / 2048) →
      (q.valid = false ∨ s.deviceQueue ga q = true ∧ q.closed = true →
        ∃ t, exec (.qpush f) s = .next t ∧ t.mem = u.mem ∧
          (∀ h, h ≠ s.cur → t.hart h = { s.hart h with wait := (t.hart h).wait }) ∧ RegSet s.me t.me f.d 2 ∧
          t.me = { u.me with x := t.me.x, pc := s.me.pc + 4, wait := none, unsealed := t.me.unsealed }) ∧
      (q.valid = true → s.deviceQueue ga q = true → q.closed = false →
        (q.depth ≤ q.occupancy → s.expired = true → ∃ t, exec (.qpush f) s = .next t ∧ t.mem = u.mem ∧
          RegSet s.me t.me f.d 1 ∧ t.me.pc = s.me.pc + 4) ∧
        (q.depth ≤ q.occupancy → s.expired = false → ∃ t, exec (.qpush f) s = .next t ∧ t.mem = u.mem ∧ t.me.x = s.me.x ∧
          t.me.pc = s.me.pc ∧ (t.me.wait.map fun w => (w.instr, w.deadline)) = some (.qpush f, s.me.waitDeadline)) ∧
        (q.occupancy < q.depth → s.ringAway q q.tail = false →
          ∃ w t : State, w.mem = ((u.writeGa (q.slot q.tail) q.item (u.readAt (locGas il))).writeGa (ga + 4) 4 (q.tail + 1)).mem ∧
            w = { u with mem := w.mem, harts := w.harts } ∧ w.me = { u.me with unsealed := w.me.unsealed } ∧
            (∀ h, h ≠ s.cur → w.hart h = u.hart h) ∧ exec (.qpush f) s = .next t ∧ Ends (.next t) w.closeAllQueues f.d 0))))

/-! ### Regions (04_scalar R123; 14_regions R292, R293) -/

/-- R123, R292, R293: a LAUNCH whose RCB can be read, and with it the tables through which its addresses are translated, gives the first status whose condition holds, in the order 4 (BADRCB), 3
(WORLD), 1 (NODIE), 2 (BUDGET), 0; with one other than 0 only rd changes. With status 0 there is one more region, numbered next, as
its control block says, its queues and completion word placed, and the child counts of the two control blocks are as they now
stand; the rest is R124's release: once the hart's writes are performed at package scope the completion word is zeroed, the
region's harts may be granted and rd is 0, and before that the hart waits. An access check that the control block fails traps with
its cause. -/
def Obligations.LaunchGivesAStatus : Prop :=
  (∀ (f : Rr) (s : State) (n : Nat) (w : State × Bool), s.me.launching = some n → w = s.release s.cur 2 →
    if w.2 = true ∧ ((s.region n).compl.all fun a => !s.mustWait a) = true then
      ∃ t, exec (.launch f) s = .next t ∧ t.me.pc = s.me.pc + 4 ∧ t.me.launching = none ∧ RegSet s.me t.me f.d 0 ∧
        (∀ h, h ≠ s.cur → t.hart h = { s.hart h with wait := (t.hart h).wait }) ∧
        t.region n = { s.region n with opening := false } ∧ (∀ r, r ≠ n → t.region r = s.region r) ∧
        (∀ x, (s.region n).compl = some x → s.farDev x = none →
          ∀ b ∈ gaRange x 8, t.readByte b = 0) ∧
        ∀ a, (∀ x, (s.region n).compl = some x → s.farDev x = none → ∀ b ∈ gaRange x 8, s.canon b ≠ s.canon a) →
          t.readByte a = w.1.readByte a
    else
      ∃ t, exec (.launch f) s = .next t ∧ t.me.pc = s.me.pc ∧ t.me.x = s.me.x ∧ t.me.launching = some n ∧
        (t.me.wait.map fun w => w.instr) = some (.launch f)) ∧
  ∀ (f : Rr) (s : State), s.me.launching = none → Unhindered s →
    (∀ c v, s.checkRange (s.party s.cur) .rcb false (s.me.xr f.a) 640 = .error (.trap c v) →
      Traps (exec (.launch f) s) s c v) ∧
    ∀ (locs : List Loc) (v pn st : Nat) (g : Region) (placed sw : Bool),
      s.checkRange (s.party s.cur) .rcb false (s.me.xr f.a) 640 = .ok locs → s.eccByte (s.me.xr f.a) locs = none →
      v = s.readAt (locGas locs) → pn = s.me.region.getD s.nextRegion →
      g = rcbRegion v ((locGas locs).getD 0 0) ((locGas locs).getD 0x68 0) s.me.region (s.region pn) false →
      placed = decide ((s.me.xr f.a).toNat % 64 = 0 ∧
        ∀ l ∈ locs, gaHost l.ga = false ∧ gaChip l.ga = s.chip ∧ gaKind l.ga ≠ 3) →
      sw = ((List.range 640).any fun i =>
        (s.pageOf (s.party s.cur) (s.me.xr f.a + BitVec.ofNat 64 i)).any Page.sw) →
      (placed = true → s.rcbMeets v g = none) →
      st = (if placed = false ∨ s.rcbOk v (s.region pn) g = false then 4
        else if s.me.secure = false ∧ (g.world = true ∨ sw = true) then 3
        else if s.noDie g = true then 1
        else if s.overBudget v pn (s.region pn) g = true then 2
        else 0) →
      (st ≠ 0 → Writes (exec (.launch f) s) s f.d (BitVec.ofNat 64 st)) ∧
      (st = 0 → ∃ u, exec (.launch f) s = exec (.launch f) u ∧ u.me.launching = some s.nextRegion ∧
        u.nextRegion = s.nextRegion + 1 ∧ u.me.pc = s.me.pc ∧ u.me.x = s.me.x ∧ (∀ h, h ≠ s.cur → u.hart h = s.hart h) ∧
        (∀ r, r ≠ s.nextRegion → u.region r = s.region r) ∧
        u.region s.nextRegion = { g with
          queues := (u.region s.nextRegion).queues
          compl := (u.region s.nextRegion).compl } ∧
        g.opening = true ∧ (u.region s.nextRegion).queues.length = g.queues.length ∧
        ∀ a, (∀ r x, s.me.region = some r → (s.region r).counts = some x →
            ∀ b ∈ gaRange x 6, s.canon b ≠ s.canon a) →
          (∀ b ∈ gaRange ((locGas locs).getD 0x68 0) 6, s.canon b ≠ s.canon a) → u.readByte a = s.readByte a)

/-! ### Vector arithmetic (05_vector R132-R144) -/

/-- R132, R133, R134, R139, R143: VINT, VINTX and the integer functions of VFUN sweep the group at vd with their operation
on the elements' integers, a being vs1's element or the captured scalar's low bits, and raise no flag. -/
def Obligations.IntegerVectorsSweepTheirGroup : Prop :=
  (∀ p ∈ ([(Instr.vadd, Instr.vaddX, fun _ w a b _ => (a + b) % 2 ^ w),
      (Instr.vsub, Instr.vsubX, fun _ w a b _ => (a + 2 ^ w - b) % 2 ^ w),
      (Instr.vrsub, Instr.vrsubX, fun _ w a b _ => (b + 2 ^ w - a) % 2 ^ w),
      (Instr.vmul, Instr.vmulX, fun _ w a b _ => a * b % 2 ^ w),
      (Instr.vmulh, Instr.vmulhX, fun sg w a b _ => wrapTo w (intValue sg w a * intValue sg w b / 2 ^ w)),
      (Instr.vmacc, Instr.vmaccX, fun _ w a b c => (c + a * b) % 2 ^ w),
      (Instr.vmin, Instr.vminX, fun sg w a b _ => wrapTo w (min (intValue sg w a) (intValue sg w b))),
      (Instr.vmax, Instr.vmaxX, fun sg w a b _ => wrapTo w (max (intValue sg w a) (intValue sg w b))),
      (Instr.vand, Instr.vandX, fun _ _ a b _ => a &&& b), (Instr.vor, Instr.vorX, fun _ _ a b _ => a ||| b),
      (Instr.vxor, Instr.vxorX, fun _ _ a b _ => a ^^^ b),
      (Instr.vsll, Instr.vsllX, fun _ w a b _ => b <<< (a % w) % 2 ^ w),
      (Instr.vsrl, Instr.vsrlX, fun _ w a b _ => b >>> (a % w)),
      (Instr.vsra, Instr.vsraX, fun _ w a b _ => wrapTo w (toSigned w b / 2 ^ (a % w))),
      (Instr.vadds, Instr.vaddsX, fun sg w a b _ =>
        wrapTo w (max (intMin sg w) (min (intMax sg w) (intValue sg w a + intValue sg w b)))),
      (Instr.vsubs, Instr.vsubsX, fun sg w a b _ =>
        wrapTo w (max (intMin sg w) (min (intMax sg w) (intValue sg w a - intValue sg w b))))] :
      List ((VOps → Instr) × (VOps → Instr) × (Bool → Nat → Nat → Nat → Nat → Nat))),
    ∀ (f : VOps) (s : State) (vl : Nat) (ty : BitVec 4) (w : Nat) (sg : Bool), ty.toNat < 8 → w = typeWidth ty →
      sg = decide (ty.toNat < 4) → HasLength s f.l vl ty →
      (Runs s (wordOf (p.1 f)) → Sweeps (exec (p.1 f) s) s f.g f.m f.d ty vl fun r i =>
        (p.2.2 sg w (s.me.element ty f.a r i) (s.me.element ty f.b r i) (s.me.element ty f.d r i), 0)) ∧
      (Runs s (wordOf (p.2.1 f)) → Sweeps (exec (p.2.1 f) s) s f.g f.m f.d ty vl fun r i =>
        (p.2.2 sg w ((s.me.xr f.a).toNat % 2 ^ w) (s.me.element ty f.b r i) (s.me.element ty f.d r i), 0))) ∧
  (∀ p ∈ ([(Instr.vclz, fun _ w b => ((List.range w).reverse.takeWhile fun i => !b.testBit i).length),
      (Instr.vctz, fun _ w b => ((List.range w).takeWhile fun i => !b.testBit i).length),
      (Instr.vpopc, fun _ w b => ((List.range w).filter fun i => b.testBit i).length),
      (Instr.vnot, fun _ w b => 2 ^ w - 1 - b),
      (Instr.vabs, fun sg w b => (intValue sg w b).natAbs % 2 ^ w),
      (Instr.vneg, fun _ w b => (2 ^ w - b) % 2 ^ w)] : List ((VUnOps → Instr) × (Bool → Nat → Nat → Nat))),
    ∀ (f : VUnOps) (s : State) (vl : Nat) (ty : BitVec 4), ty.toNat < 8 → HasLength s f.l vl ty →
      Runs s (wordOf (p.1 f)) → Sweeps (exec (p.1 f) s) s f.g f.m f.d ty vl fun r i =>
        (p.2 (decide (ty.toNat < 4)) (typeWidth ty) (s.me.element ty f.b r i), 0))

/-- R132, R133, R135, R140, R141, R142, R25: VFLT, VFLTX and the floating-point functions of VFUN, enqueued with a
rounding mode below 5 and a type that they accept, sweep the group at vd with their operation in the captured rounding mode
and accrue the flags that the active elements raise; the sign moves work on the bits. -/
def Obligations.FloatVectorsSweepTheirGroup : Prop :=
  (∀ p ∈ ([(Instr.vfadd, Instr.vfaddX, fun F rm a b _ => F.add rm a b),
      (Instr.vfsub, Instr.vfsubX, fun F rm a b _ => F.sub rm a b),
      (Instr.vfmul, Instr.vfmulX, fun F rm a b _ => F.mul rm a b),
      (Instr.vfdiv, Instr.vfdivX, fun F rm a b _ => F.div rm a b),
      (Instr.vfmin, Instr.vfminX, fun F _ a b _ => F.minMax false a b),
      (Instr.vfmax, Instr.vfmaxX, fun F _ a b _ => F.minMax true a b),
      (Instr.vfma, Instr.vfmaX, fun F rm a b c => F.fma rm false false a b c),
      (Instr.vfms, Instr.vfmsX, fun F rm a b c => F.fma rm false true a b c),
      (Instr.vfnma, Instr.vfnmaX, fun F rm a b c => F.fma rm true true a b c),
      (Instr.vfnms, Instr.vfnmsX, fun F rm a b c => F.fma rm true false a b c),
      (Instr.vfsgnj, Instr.vfsgnjX, fun F _ a b _ =>
        ((if a.testBit (F.w - 1) then 2 ^ (F.w - 1) else 0) + b % 2 ^ (F.w - 1), 0)),
      (Instr.vfsgnjn, Instr.vfsgnjnX, fun F _ a b _ =>
        ((if a.testBit (F.w - 1) then 0 else 2 ^ (F.w - 1)) + b % 2 ^ (F.w - 1), 0)),
      (Instr.vfsgnjx, Instr.vfsgnjxX, fun F _ a b _ =>
        ((if a.testBit (F.w - 1) = b.testBit (F.w - 1) then 0 else 2 ^ (F.w - 1)) + b % 2 ^ (F.w - 1), 0))] :
      List ((VOps → Instr) × (VOps → Instr) × (Fmt → BitVec 3 → Nat → Nat → Nat → Nat × Flags))),
    ∀ (f : VOps) (s : State) (vl : Nat) (ty : BitVec 4), 8 ≤ ty.toNat → ty.toNat < 12 → s.me.rm.toNat < 5 →
      HasLength s f.l vl ty →
      (Runs s (wordOf (p.1 f)) → Sweeps (exec (p.1 f) s) s f.g f.m f.d ty vl fun r i =>
        p.2.2 (fmtOf ty) s.me.rm (s.me.element ty f.a r i) (s.me.element ty f.b r i) (s.me.element ty f.d r i)) ∧
      (Runs s (wordOf (p.2.1 f)) → Sweeps (exec (p.2.1 f) s) s f.g f.m f.d ty vl fun r i =>
        p.2.2 (fmtOf ty) s.me.rm ((s.me.xr f.a).toNat % 2 ^ typeWidth ty) (s.me.element ty f.b r i)
          (s.me.element ty f.d r i))) ∧
  (∀ p ∈ ([(Instr.vfsqrt, 12, fun F rm b => F.sqrt rm b), (Instr.vfexp2, 11, fun F _ b => F.exp2 b),
      (Instr.vfabs, 12, fun F _ b => (b % 2 ^ (F.w - 1), 0)),
      (Instr.vfneg, 12, fun F _ b => ((if b.testBit (F.w - 1) then 0 else 2 ^ (F.w - 1)) + b % 2 ^ (F.w - 1), 0)),
      (Instr.vfclass, 12, fun F _ b => (F.classify b, 0)), (Instr.vfrint, 12, fun F rm b => F.rint rm b)] :
      List ((VUnOps → Instr) × Nat × (Fmt → BitVec 3 → Nat → Nat × Flags))),
    ∀ (f : VUnOps) (s : State) (vl : Nat) (ty : BitVec 4), 8 ≤ ty.toNat → ty.toNat < p.2.1 → s.me.rm.toNat < 5 →
      HasLength s f.l vl ty → Runs s (wordOf (p.1 f)) → Sweeps (exec (p.1 f) s) s f.g f.m f.d ty vl fun r i =>
        p.2.2 (fmtOf ty) s.me.rm (s.me.element ty f.b r i))

/-- R144, R145, R146: VCVT converts source elements read at the source width, of type F or through a codebook, to the
length word's type; VMV, VBCAST, VMERGE and VIOTA move raw elements, a scalar, a choice by the mask, and indices; VCBLD loads
a codebook register from 32 bytes of memory at a multiple of 32, and faults with ALIGN at any other address or with the cause of
its check. -/
def Obligations.ConversionsAndMoves : Prop :=
  (∀ (f : VCvtOps) (s : State) (vl : Nat) (ty : BitVec 4), ty ≠ 0xF → s.me.rm.toNat < 5 → HasLength s f.l vl ty →
    vl ≤ vlmaxOf s.me.k f.src → Runs s (wordOf (.vcvt f)) →
    Sweeps (exec (.vcvt f) s) s f.g f.m f.d ty vl fun r i =>
      convertElem s.me.rm f.src ty (s.me.element f.src f.b r i)) ∧
  (∀ (f : VCvtC4Ops) (s : State) (vl : Nat) (ty : BitVec 4), ty ≠ 0xF → s.me.rm.toNat < 5 → HasLength s f.l vl ty →
    vl ≤ vlmaxOf s.me.k 0xF → Runs s (wordOf (.vcvtC4 f)) →
    Sweeps (exec (.vcvtC4 f) s) s f.g f.m f.d ty vl fun r i =>
      convertElem s.me.rm 0x9 ty ((s.me.cbr f.cb.toNat).toNat / 2 ^ (16 * s.me.element 0xF f.b r i) % 2 ^ 16)) ∧
  (∀ (f : VUnOps) (s : State) (vl : Nat) (ty : BitVec 4), HasLength s f.l vl ty → Runs s (wordOf (.vmv f)) →
    Sweeps (exec (.vmv f) s) s f.g f.m f.d ty vl fun r i => (s.me.element ty f.b r i, 0)) ∧
  (∀ (f : VXOps) (s : State) (vl : Nat) (ty : BitVec 4), ty.toNat < 12 → HasLength s f.l vl ty →
    Runs s (wordOf (.vbcast f)) →
    Sweeps (exec (.vbcast f) s) s f.g f.m f.d ty vl fun _ _ => ((s.me.xr f.a).toNat, 0)) ∧
  (∀ (f : VOps) (s : State) (vl : Nat) (ty : BitVec 4), HasLength s f.l vl ty → Runs s (wordOf (.vmerge f)) →
    Sweeps (exec (.vmerge f) s) s f.g 0 f.d ty vl fun r i =>
      (if s.me.gates f.m i then s.me.element ty f.a r i else s.me.element ty f.b r i, 0)) ∧
  (∀ (f : VIotaOps) (s : State) (vl : Nat) (ty : BitVec 4), ty.toNat < 8 → HasLength s f.l vl ty →
    Runs s (wordOf (.viota f)) → Sweeps (exec (.viota f) s) s f.g f.m f.d ty vl fun _ i => (i, 0)) ∧
  (∀ (f : VCbldOps) (s : State) (as : List Nat), Runs s (wordOf (.vcbld f)) → (s.me.xr f.a).toNat % 32 = 0 →
    Plain s .rd (s.me.xr f.a) 32 as → ∃ t, exec (.vcbld f) s = .next t ∧ OnlyMe s t ∧ t.me.drained = true ∧
      t.me = { s.me with cb := t.me.cb, csr := t.me.csr, pc := s.me.pc + 4, wait := none, convoyOpen := true, queue := t.me.queue } ∧
      (∀ n, t.me.cbr n = if n = f.cb.toNat then BitVec.ofNat 256 (s.readAt as) else s.me.cbr n) ∧
      CsrsKept s.me t.me []) ∧
  ∀ (f : VCbldOps) (s : State) (e : QEntry) (c : Byte), Runs s (wordOf (.vcbld f)) →
    e = (vcbldQueued f).capture s.me s.me.pc →
    ((s.me.xr f.a).toNat % 32 ≠ 0 ∧ c = 0x06 ∨ (s.me.xr f.a).toNat % 32 = 0 ∧ c ≠ 0x18 ∧
      s.checkRange (s.party s.cur) .bulkRd false (s.me.xr f.a) 32 = .error (.trap c (s.me.xr f.a))) →
    FaultsQueued (exec (.vcbld f) s) s e c (s.me.xr f.a) 0 fun t => t.v = s.me.v ∧ t.cb = s.me.cb

/-! ### Compares, masks, permutations and reductions (05_vector R147-R155) -/

/-- R147, R23: VCMP and VCMPX write the truth of their relation on each active element below VL to a mask register, by
value and signedness for integers; a NaN operand gives the fixed result of the table, NV being raised on any NaN by the
ordered relations and on a signalling one by the others.
R148, R155: VMSK's functions form mask bits below VL from masks, of which m0 reads all ones, or write the number of
ones, or the index of the lowest one, to a scalar register. -/
def Obligations.ComparesAndMaskOperations : Prop :=
  (∀ p ∈ ([(Instr.vcmpEq, Instr.vcmpEqX, 0, fun a b => decide (a = b), fun x y => FVal.eq x y, false, false),
      (Instr.vcmpNe, Instr.vcmpNeX, 0, fun a b => decide (a ≠ b), fun x y => !FVal.eq x y, true, false),
      (Instr.vcmpLt, Instr.vcmpLtX, 0, fun a b => decide (a < b), fun x y => FVal.lt x y, false, true),
      (Instr.vcmpLe, Instr.vcmpLeX, 0, fun a b => decide (a ≤ b), fun x y => !FVal.lt y x, false, true),
      (Instr.vcmpGt, Instr.vcmpGtX, 0, fun a b => decide (b < a), fun x y => FVal.lt y x, false, true),
      (Instr.vcmpGe, Instr.vcmpGeX, 0, fun a b => decide (b ≤ a), fun x y => !FVal.lt x y, false, true),
      (Instr.vcmpUnord, Instr.vcmpUnordX, 8, fun _ _ => false, fun _ _ => false, true, false),
      (Instr.vcmpOrd, Instr.vcmpOrdX, 8, fun _ _ => true, fun _ _ => true, false, false)] :
      List ((VCmpOps → Instr) × (VCmpOps → Instr) × Nat × (Int → Int → Bool) × (FVal → FVal → Bool) × Bool × Bool)),
    ∀ (f : VCmpOps) (s : State) (vl : Nat) (ty : BitVec 4) (rel : Nat → Nat → Bool × Flags),
      rel = (fun a b =>
        if ty.toNat < 8 then (p.2.2.2.1 (intValue (decide (ty.toNat < 4)) (typeWidth ty) a)
          (intValue (decide (ty.toNat < 4)) (typeWidth ty) b), 0)
        else if ((fmtOf ty).decode a).isNan || ((fmtOf ty).decode b).isNan then (p.2.2.2.2.2.1,
          (if p.2.2.2.2.2.2 then 1 else 0) ||| ((fmtOf ty).decode a).sigFlag ||| ((fmtOf ty).decode b).sigFlag)
        else (p.2.2.2.2.1 ((fmtOf ty).decode a) ((fmtOf ty).decode b), 0)) →
      p.2.2.1 ≤ ty.toNat → ty.toNat < 12 → HasLength s f.l vl ty →
      (Runs s (wordOf (p.1 f)) → SetsMask (exec (p.1 f) s) s f.m f.d vl fun i =>
        rel (s.me.element ty f.a 0 i) (s.me.element ty f.b 0 i)) ∧
      (Runs s (wordOf (p.2.1 f)) → SetsMask (exec (p.2.1 f) s) s f.m f.d vl fun i =>
        rel ((s.me.xr f.a).toNat % 2 ^ typeWidth ty) (s.me.element ty f.b 0 i))) ∧
  ((∀ p ∈ ([(Instr.mand, fun x y => x && y), (Instr.mor, fun x y => x || y), (Instr.mxor, fun x y => x != y),
      (Instr.mandn, fun x y => x && !y)] : List ((MskBinOps → Instr) × (Bool → Bool → Bool))),
    ∀ (f : MskBinOps) (s : State) (vl : Nat) (ty : BitVec 4), ty.toNat < 12 → HasLength s f.l vl ty →
      Runs s (wordOf (p.1 f)) → SetsMask (exec (p.1 f) s) s 0 f.d vl fun i =>
        (p.2 ((s.me.mr f.a.toNat).getLsbD i) ((s.me.mr f.b.toNat).getLsbD i), 0)) ∧
  (∀ (f : MskUnOps) (s : State) (vl : Nat) (ty : BitVec 4), ty.toNat < 12 → HasLength s f.l vl ty →
    (Runs s (wordOf (.mnot f)) → SetsMask (exec (.mnot f) s) s 0 f.d vl fun i =>
      (!(s.me.mr f.b.toNat).getLsbD i, 0)) ∧
    (Runs s (wordOf (.mmv f)) → SetsMask (exec (.mmv f) s) s 0 f.d vl fun i => ((s.me.mr f.b.toNat).getLsbD i, 0)) ∧
    (Runs s (wordOf (.msbf f)) → SetsMask (exec (.msbf f) s) s 0 f.d vl fun i =>
      ((List.range (i + 1)).all fun j => !(s.me.mr f.b.toNat).getLsbD j, 0))) ∧
  (∀ (f : MskSetOps) (s : State) (vl : Nat) (ty : BitVec 4), ty.toNat < 12 → HasLength s f.l vl ty →
    (Runs s (wordOf (.mset f)) → SetsMask (exec (.mset f) s) s 0 f.d vl fun _ => (true, 0)) ∧
    (Runs s (wordOf (.mclr f)) → SetsMask (exec (.mclr f) s) s 0 f.d vl fun _ => (false, 0))) ∧
  (∀ (f : MskScalOps) (s : State) (vl : Nat) (ty : BitVec 4), ty.toNat < 12 → HasLength s f.l vl ty →
    (Runs s (wordOf (.mpopc f)) → SetsScalar (exec (.mpopc f) s) s f.d
      (BitVec.ofNat 64 ((List.range vl).filter fun i => (s.me.mr f.b.toNat).getLsbD i).length) 0) ∧
    (Runs s (wordOf (.mfirst f)) → SetsScalar (exec (.mfirst f) s) s f.d
      (match (List.range vl).find? fun i => (s.me.mr f.b.toNat).getLsbD i with
        | some i => BitVec.ofNat 64 i
        | none => BitVec.allOnes 64) 0)))

/-- R137, R149-R153: the permutations of one row, and VROWROT of a group: slides, a gather by indices, compress and expand
by the mask, extract to and insert from a scalar, VFILL's low bits standing for an element outside the row's VL. -/
def Obligations.PermutationsMoveElements : Prop :=
  ∀ (s : State) (vl : Nat) (ty : BitVec 4) (fill : Nat), ty.toNat < 12 → fill = s.me.vfill.toNat % 2 ^ typeWidth ty →
    (∀ (f : VPermOps) (n : Nat), HasLength s f.l vl ty → n = (s.me.xr f.a).toNat →
      (Runs s (wordOf (.vslup f)) → Sweeps (exec (.vslup f) s) s 0 f.m f.d ty vl fun _ i =>
        (if n ≤ i then s.me.element ty f.b 0 (i - n) else s.me.element ty f.d 0 i, 0)) ∧
      (Runs s (wordOf (.vsldn f)) → Sweeps (exec (.vsldn f) s) s 0 f.m f.d ty vl fun _ i =>
        (if i + n < vl then s.me.element ty f.b 0 (i + n) else fill, 0)) ∧
      (Runs s (wordOf (.vgather f)) → Sweeps (exec (.vgather f) s) s 0 f.m f.d ty vl fun _ i =>
        (if s.me.element ty f.a 0 i < vl then s.me.element ty f.b 0 (s.me.element ty f.a 0 i) else fill, 0))) ∧
    (∀ (f : VRedOps), HasLength s f.l vl ty →
      (Runs s (wordOf (.vcompress f)) → Sweeps (exec (.vcompress f) s) s 0 0 f.d ty vl fun _ i =>
        (match ((List.range vl).filter fun j => s.me.gates f.m j)[i]? with
          | some j => s.me.element ty f.b 0 j
          | none => fill, 0)) ∧
      (Runs s (wordOf (.vexpand f)) → Sweeps (exec (.vexpand f) s) s 0 f.m f.d ty vl fun _ i =>
        (s.me.element ty f.b 0 ((List.range i).filter fun j => s.me.gates f.m j).length, 0))) ∧
    (∀ (f : VExtOps), HasLength s f.l vl ty →
      (Runs s (wordOf (.vextract f)) → SetsScalar (exec (.vextract f) s) s f.d (extendElem ty
        (if (s.me.xr f.a).toNat < vl then s.me.element ty f.b 0 (s.me.xr f.a).toNat else fill)) 0) ∧
      (Runs s (wordOf (.vinsert f)) → Sweeps (exec (.vinsert f) s) s 0 0 f.d ty vl fun _ i =>
        (if i = (s.me.xr f.a).toNat then (s.me.xr f.b).toNat else s.me.element ty f.d 0 i, 0))) ∧
    (∀ (f : VOps), HasLength s f.l vl ty → Runs s (wordOf (.vrowrot f)) →
      Sweeps (exec (.vrowrot f) s) s f.g f.m f.d ty vl fun r i =>
        (s.me.element ty f.b ((r + (s.me.xr f.a).toNat) % 2 ^ f.g.toNat) i, 0))

/-- R59, R60, R154: VRED combines the active elements below VL of one row, in index order, into x[vd]: the integer
reductions from their identities; the floating-point sums in strict index order or by the fixed tree, and the extrema. -/
def Obligations.ReductionsWriteAScalar : Prop :=
  ∀ (f : VRedOps) (s : State) (vl : Nat) (ty : BitVec 4) (xs : List Nat), HasLength s f.l vl ty →
    xs = (((List.range vl).filter fun i => s.me.gates f.m i).map fun i => s.me.element ty f.b 0 i) →
    (∀ p ∈ ([(Instr.vredsum, fun _ w l => l.sum % 2 ^ w),
        (Instr.vredmin, fun sg w l => wrapTo w ((l.map (intValue sg w)).foldl min (intMax sg w))),
        (Instr.vredmax, fun sg w l => wrapTo w ((l.map (intValue sg w)).foldl max (intMin sg w))),
        (Instr.vredand, fun _ w l => l.foldl (· &&& ·) (2 ^ w - 1)), (Instr.vredor, fun _ _ l => l.foldl (· ||| ·) 0),
        (Instr.vredxor, fun _ _ l => l.foldl (· ^^^ ·) 0)] :
        List ((VRedOps → Instr) × (Bool → Nat → List Nat → Nat))), ty.toNat < 8 → Runs s (wordOf (p.1 f)) →
      SetsScalar (exec (p.1 f) s) s f.d (extendElem ty (p.2 (decide (ty.toNat < 4)) (typeWidth ty) xs)) 0) ∧
    (∀ p ∈ ([(Instr.vfsumo, sumOrdered (fmtOf ty) s.me.rm xs),
        (Instr.vfsumt, sumTree (fmtOf ty) s.me.rm (treeLevels vl) ((List.range (2 ^ treeLevels vl)).map fun i =>
          if i < vl ∧ s.me.gates f.m i = true then s.me.element ty f.b 0 i else 0, 0)),
        (Instr.vfredmin, minMaxAll (fmtOf ty) false xs), (Instr.vfredmax, minMaxAll (fmtOf ty) true xs)] :
        List ((VRedOps → Instr) × Nat × Flags)), 8 ≤ ty.toNat → ty.toNat < 12 → s.me.rm.toNat < 5 →
      Runs s (wordOf (p.1 f)) → SetsScalar (exec (p.1 f) s) s f.d (extendElem ty p.2.1) p.2.2)

/-! ### Vector memory (06_memory_isa R158-R176) -/

/-- R158, R161, R162, R169: a vector load whose elements' checks pass delivers to each placed element the value that its
bytes give under its page's format, leaves every other element of the share and every other row, and accrues the flags; only
window copies that it keeps change beside the hart. A blocking one some of whose elements another device holds and has not
answered for waits in the queue with its rows as they are. A non-blocking one leaves its elements as they are and is outstanding on
its counter with the next number. Where an element's check fails, the elements before it are delivered and the load faults with
that check's cause and byte, to be restarted at that element.
R52, R54, R159, R161, R162, R164, R174: an element's check, which loads, stores and atomics share, fails with PAGE at a byte without a leaf
or of FMT 1 to 7, PERM, WORLD, PARTITION, PEERDOWN or FMTMIX at one whose page or home that rule forbids, and with ALIGN at the element. -/
def Obligations.VectorLoadsDeliverTheirElements : Prop :=
  (∀ (s : State) (pt : Party) (p : MemPlan) (el : Elem) (c : Byte) (v : Word), s.checkElem pt p el = .error (c, v) → c ≠ 0x18 →
    c ≠ 0xFF →
    (c = 0x08 ∧ ∀ pg, s.pageOf pt v = some pg → 1 ≤ pg.fmt.toNat ∧ pg.fmt.toNat ≤ 7) ∨
    (c = 0x06 ∧ v = BitVec.ofNat 64 (el.bit / 8) ∧
      (p.badBit = true ∨ ∃ a noHost, p.atomic = some (a, noHost) ∧ v.toNat % a ≠ 0)) ∨
    ∃ (pg : Page) (ga : Nat), s.pageOf pt v = some pg ∧ ga = (s.placeByte pt p el.r pg v).ga ∧
      ((c = 0x09 ∧ (pg.grants p.need = false ∨ (pt.user = true ∧ pg.u = false) ∨
          (p.need.writes = true ∧ pg.rwin = true ∧ s.remote pt.die ga = true) ∨ (gaHost ga = false ∧ gaKind ga = 3) ∨
          s.strictForeign pt pg ga = true ∨ (p.spread.isSome = true ∧ (gaHost ga = true ∨ gaKind ga ∉ [0, 2, 4])) ∨
          ((∃ a, p.atomic = some (a, true)) ∧ gaHost ga = true))) ∨
        (c = 0x0D ∧ ((pg.sw = true ∧ pt.secure = false) ∨
          (pg.sw = false ∧ gaHost ga = false ∧ s.secure.contains (s.canon ga / 2 ^ 30) = true))) ∨
        (c = 0x0B ∧ (s.farDev ga).isSome = true ∧ (pt.partmap = 0 ∨ s.mapBit pt.partmap (gaChip ga) = false)) ∨
        (c = 0x0C ∧ (((s.farDev ga).isSome = true ∧ s.present.contains (gaChip ga) = false) ∨
          (p.spread.isSome = true ∧ gaChip ga = s.chip ∧ s.liveDie (gaDie ga) = false))) ∨
        (c = 0x0A ∧ ∃ first, s.pageOf pt (BitVec.ofNat 64 (el.bit / 8)) = some first ∧
          (p.mixed pg = true ∨ first.attr ≠ pg.attr)))) ∧
  ∀ (s : State) (vl : Nat) (ty : BitVec 4) (w : IWord) (o : Out) (q : Queued) (plan : MemPlan) (els : List Elem)
    (ps : List Placed) (rows : Nat) (d : BitVec 5) (l : BitVec 2) (ctr : BitVec 3) (e : QEntry),
    ((∃ f : VMemOps, d = f.d ∧ l = f.l ∧ ctr = f.ctr ∧ rows = 2 ^ f.g.toNat ∧ (∃ form : QEntry → Nat → Nat → MemForm,
        s.memElems e f (form e) false = (plan, none, els) ∧
        ((form = (fun e _ => unitForm e) ∧ w = wordOf (.vlu f) ∧ o = exec (.vlu f) s ∧ q = vluQueued f) ∨
          (form = (fun e _ => strideForm e) ∧ w = wordOf (.vls f) ∧ o = exec (.vls f) s ∧ q = vlsQueued f) ∨
          (form = spreadForm ∧ w = wordOf (.vld f) ∧ o = exec (.vld f) s ∧ q = vldQueued f)))) ∨
      (∃ f : VIdxOps, d = f.d ∧ l = f.l ∧ ctr = f.ctr ∧ rows = 1 ∧ w = wordOf (.vlx f) ∧ o = exec (.vlx f) s ∧
        q = vlxQueued f ∧ offsetCheck w f.b [f.d.toNat] s e = none ∧ plan = ⟨.rd, false, none, ty, none, false, none⟩ ∧
        els = s.idxElems e f.m f.b)) →
    e = q.capture s.me s.me.pc → Runs s w → HasLength s l vl ty → Ready s ps →
    (∀ p ∈ ps, ∀ l ∈ p.locs, s.poisoned l.ga = false) →
    (∀ (el : Elem) (c : Byte) (v : Word), s.checkElems (s.party s.cur) plan els = (ps, some (el, c, v)) → c ≠ 0x18 → c ≠ 0xFF →
      PlainElems s ps → FaultsQueued o s e c v (el.r * 2 ^ 13 + el.i) fun t =>
        (∀ p ∈ ps, t.element ty d p.el.r p.el.i = (s.loadPlaced s.me e p).1 % 2 ^ typeWidth ty) ∧
        ∀ r i, r < rows → i < vlmaxOf s.me.k ty → (∀ p ∈ ps, p.el.r = r → p.el.i ≠ i) →
          t.element ty d r i = s.me.element ty d r i) ∧
    (s.checkElems (s.party s.cur) plan els = (ps, none) →
    (ctr = 0 → PlainElems s ps → ∃ t, o = .next t ∧ Ran (Windowed s t) t ∧ t.me.x = s.me.x ∧ t.me.m = s.me.m ∧
      (∀ p ∈ ps, t.me.element ty d p.el.r p.el.i = (s.loadPlaced s.me e p).1 % 2 ^ typeWidth ty) ∧
      (∀ r i, r < rows → i < vlmaxOf s.me.k ty → (∀ p ∈ ps, p.el.r = r → p.el.i ≠ i) →
        t.me.element ty d r i = s.me.element ty d r i) ∧
      (∀ n, n < 32 → (∀ r, r < rows → n ≠ (d.toNat + r) % 32) → t.me.vr n = s.me.vr n) ∧
      Accrued s.me t.me fun k => ∃ p ∈ ps, (s.loadPlaced s.me e p).2.getLsbD k = true) ∧
    (ctr = 0 → (s.gather s.cur 1 ((ps.filter s.awaits).flatMap fun p => locGas p.locs)).2 = false →
      ∃ t, o = .next t ∧ t.mem = s.mem ∧ (∀ h, h ≠ s.cur → t.hart h = s.hart h) ∧ t.me.pc = s.me.pc + 4 ∧
        t.me.x = s.me.x ∧ t.me.v = s.me.v ∧ t.me.m = s.me.m ∧ CsrsKept s.me t.me [] ∧ t.me.qstalled.isSome = true ∧
        t.me.undone.map (·.word) = [w]) ∧
    (ctr ≠ 0 → ∃ t, o = .next t ∧ (∀ h, h ≠ s.cur → t.hart h = s.hart h) ∧ t.me.pc = s.me.pc + 4 ∧
      (ty ≠ 0xE → t.me.v = s.me.v) ∧ (∀ r i, i < vlmaxOf s.me.k ty → t.me.element ty d r i = s.me.element ty d r i) ∧
      (∀ n, n < 32 → (∀ r, r < rows → n ≠ (d.toNat + r) % 32) → t.me.vr n = s.me.vr n) ∧
      t.me.x = s.me.x ∧ t.me.m = s.me.m ∧ CsrsKept s.me t.me [] ∧
      (t.me.ctr ctr.toNat).issued = (s.me.ctr ctr.toNat).issued + 1 ∧
      (t.me.ctr ctr.toNat).retired = (s.me.ctr ctr.toNat).retired ∧ (PlainElems s ps → t.mem = s.mem) ∧
      ∃ op ∈ t.me.nb, op.ctr = ctr.toNat ∧ op.num = (s.me.ctr ctr.toNat).issued + 1 ∧ op.held = false))

/-- R158, R161, R163, R165, R169, R172: a vector store whose elements' checks pass writes each placed element's code to the bits
of its bytes that are homed in this package or with the host and no other byte of memory; it changes no register, and of the hart
only its queue, counts, flags and operations outstanding; a non-blocking one leaves memory as it is until it completes. One of
the ordered class first performs the bytes of the ordered stores before it (state u). A poisoned line that it writes whole is good
afterwards. Where an element's check fails, the store faults with that check's cause and byte, to be restarted as a whole, and writes
nothing. -/
def Obligations.VectorStoresWriteTheirBytes : Prop :=
  ∀ (s u : State) (vl : Nat) (ty : BitVec 4) (w : IWord) (o : Out) (q : Queued) (plan : MemPlan) (els : List Elem)
    (ps : List Placed) (d : BitVec 5) (l : BitVec 2) (ctr : BitVec 3) (ord : BitVec 1) (e : QEntry) (code : Placed → Nat)
    (bytes : List PendByte),
    e = q.capture s.me s.me.pc → Runs s w → HasLength s l vl ty → Ready s ps →
    ((∃ f : VMemOps, d = f.d ∧ l = f.l ∧ ctr = f.ctr ∧ ord = f.ord ∧ (∃ form : QEntry → Nat → Nat → MemForm,
        s.memElems e f (form e) true = (plan, none, els) ∧
        ((form = (fun e _ => unitForm e) ∧ w = wordOf (.vsu f) ∧ o = exec (.vsu f) s ∧ q = vsuQueued f) ∨
          (form = (fun e _ => strideForm e) ∧ w = wordOf (.vss f) ∧ o = exec (.vss f) s ∧ q = vssQueued f) ∨
          (form = spreadForm ∧ w = wordOf (.vsd f) ∧ o = exec (.vsd f) s ∧ q = vsdQueued f)))) ∨
      (∃ f : VIdxOps, d = f.d ∧ l = f.l ∧ ctr = f.ctr ∧ ord = f.ord ∧ w = wordOf (.vsx f) ∧ o = exec (.vsx f) s ∧
        q = vsxQueued f ∧ offsetCheck w f.b [] s e = none ∧ plan = ⟨.wr, true, none, ty, none, false, none⟩ ∧
        els = s.idxElems e f.m f.b)) →
    (∀ (el : Elem) (c : Byte) (v : Word), s.checkElems (s.party s.cur) plan els = (ps, some (el, c, v)) → c ≠ 0x18 → c ≠ 0xFF →
      FaultsQueued o s e c v 0 fun t => t.v = s.me.v) ∧
    (s.checkElems (s.party s.cur) plan els = (ps, none) →
    (∀ p ∈ ps, ∀ l ∈ p.locs, s.failedHome l.ga = none ∧
      (s.poisoned l.ga = true → (s.coveredLines ps).contains (s.canon l.ga / 64) = true)) →
    code = (fun p => if p.pg.fmt = 0 then s.me.element ty d p.el.r p.el.i
      else (storeElem p.pg.fmt p.pg.pscale ty (s.me.element ty d p.el.r p.el.i)).1) →
    bytes = ((ps.flatMap fun p => pendBytes p (code p)).filter fun b => (s.farDev b.addr).isNone) →
    u = (if ord = 1 then s.performOrdered s.cur fun _ => false else s) →
    (∀ t, o = .next t → t.poison = s.poison.filter fun n => !(s.coveredLines ps).contains n) ∧
    (ctr = 0 → ∃ t, o = .next t ∧ (∀ h, h ≠ s.cur → t.hart h = { s.hart h with wait := (t.hart h).wait }) ∧
      t.me.pc = s.me.pc + 4 ∧ t.me.x = s.me.x ∧
      t.me.v = s.me.v ∧ t.me.m = s.me.m ∧ t.me.drained = true ∧ CsrsKept s.me t.me [0, 0x012] ∧
      ((∀ p ∈ ps, ∀ l ∈ p.locs, s.farDev l.ga = none) → t = { s with mem := t.mem, harts := t.harts, poison := t.poison }) ∧
      t.mem = (u.performBytes bytes).mem ∧
      ∀ a, (∀ p ∈ ps, ∀ l ∈ p.locs, s.canon l.ga ≠ s.canon a) → t.readByte a = u.readByte a) ∧
    (ctr ≠ 0 → ∃ t, o = .next t ∧ (∀ h, h ≠ s.cur → t.hart h = { s.hart h with wait := (t.hart h).wait }) ∧ t.mem = u.mem ∧ t.me.pc = s.me.pc + 4 ∧
      t.me.x = s.me.x ∧ t.me.v = s.me.v ∧ t.me.m = s.me.m ∧ CsrsKept s.me t.me [] ∧
      (t.me.ctr ctr.toNat).issued = (s.me.ctr ctr.toNat).issued + 1 ∧
      ∃ op ∈ t.me.nb, op.ctr = ctr.toNat ∧ op.num = (s.me.ctr ctr.toNat).issued + 1 ∧ op.held = false ∧
        op.bytes = bytes))

/-- R173, R174, R175: a vector atomic of an accepted type whose elements' checks pass, on memory of this package or of the host,
applies its operation location by location, and at each location to its elements one after another in index order (VAMOC element
by element), each old value going to its element of vd where the old values are asked for; it writes no other byte of memory and
no other register. A non-blocking one has its old values outstanding on its counter with the next number. While the merge buffer
of its die has no entry for every element it waits and does nothing (18_fabric R331); where an element's check fails it faults with
that check's cause and byte, and does nothing else. -/
def Obligations.VectorAtomicsUpdateInOrder : Prop :=
  ∀ p ∈ ([(Instr.vamoaAdd, vamoaAddQueued, false, fun _ => 0, fun ty m d _ => (m + d) % 2 ^ typeWidth ty),
      (Instr.vamoaAnd, vamoaAndQueued, false, fun _ => 1, fun _ m d _ => m &&& d),
      (Instr.vamoaOr, vamoaOrQueued, false, fun _ => 2, fun _ m d _ => m ||| d),
      (Instr.vamoaXor, vamoaXorQueued, false, fun _ => 3, fun _ m d _ => m ^^^ d),
      (Instr.vamobMin, vamobMinQueued, false, signedOp 4 6, fun ty m d _ =>
        if intValue (isSigned ty) (typeWidth ty) d < intValue (isSigned ty) (typeWidth ty) m then d else m),
      (Instr.vamobMax, vamobMaxQueued, false, signedOp 5 7, fun ty m d _ =>
        if intValue (isSigned ty) (typeWidth ty) m < intValue (isSigned ty) (typeWidth ty) d then d else m),
      (Instr.vamobSwap, vamobSwapQueued, false, fun _ => 8, fun _ _ d _ => d),
      (Instr.vamobCas, vamobCasQueued, false, fun _ => 9, fun _ m d c => if m = c then d else m),
      (Instr.vamocFadd, vamocFaddQueued, true, fun _ => 10, fun ty m d _ => ((fmtOf ty).add 0#3 m d).1),
      (Instr.vamocFmin, vamocFminQueued, true, fun _ => 11, fun ty m d _ => ((fmtOf ty).minMax false m d).1),
      (Instr.vamocFmax, vamocFmaxQueued, true, fun _ => 12, fun ty m d _ => ((fmtOf ty).minMax true m d).1)] :
      List ((VAmoOps → Instr) × (VAmoOps → Queued) × Bool × (BitVec 4 → Nat) × (BitVec 4 → Nat → Nat → Nat → Nat))),
    ∀ (f : VAmoOps) (s : State) (vl : Nat) (ty : BitVec 4) (e : QEntry) (ps : List Placed)
      (r : State × List (Elem × Nat)),
      (if p.2.2.1 then ty = 9 ∨ ty = 10 else ty = 2 ∨ ty = 3 ∨ ty = 6 ∨ ty = 7) →
      e = (p.2.1 f).capture s.me s.me.pc → (p.2.1 f).check s e = none → Runs s (wordOf (p.1 f)) → HasLength s f.l vl ty →
      (∀ (el : Elem) (c : Byte) (v : Word), s.checkElems (s.party s.cur)
          ⟨.both, true, none, ty, none, false, some (typeWidth ty / 8, p.2.2.1)⟩ (s.idxElems e f.m f.b) = (ps, some (el, c, v)) →
        c ≠ 0x18 → c ≠ 0xFF → FaultsQueued (exec (p.1 f) s) s e c v 0 fun t => t.v = s.me.v) ∧
      (s.checkElems (s.party s.cur) ⟨.both, true, none, ty, none, false, some (typeWidth ty / 8, p.2.2.1)⟩
        (s.idxElems e f.m f.b) = (ps, none) → PlainElems s ps → Ready s ps →
      (mergeEntries < s.mergeUsed (slotDie s.cur) + ps.length → ∃ t, exec (p.1 f) s = .next t ∧ OnlyMe s t ∧
        t.me.v = s.me.v ∧ t.me.x = s.me.x ∧ t.me.pc = s.me.pc + 4 ∧ t.me.qstalled = some (s.me.xr f.a)) ∧
      (s.mergeUsed (slotDie s.cur) + ps.length ≤ mergeEntries →
      r = (s.atomicBlocks (p.2.2.2.1 ty) ty ps).foldl (fun (u : State × List (Elem × Nat)) b =>
        let gas := locGas ((b.head?.map (·.locs)).getD [])
        let x := b.foldl (fun (x : Nat × List (Elem × Nat)) q => (p.2.2.2.2 ty x.1 (s.me.element ty f.d 0 q.el.i)
          (rowElem (typeWidth ty) (s.me.vr (f.d.toNat + 1)).toNat q.el.i), x.2 ++ [(q.el, x.1)])) (u.1.readAt gas, [])
        (u.1.writeAt gas x.1, u.2 ++ x.2)) (s, []) →
      ∃ t, exec (p.1 f) s = .next t ∧ t.mem = r.1.mem ∧
        t = { s with mem := t.mem, harts := t.harts, fresh := t.fresh } ∧ (∀ h, h ≠ s.cur → t.hart h = { s.hart h with wait := (t.hart h).wait }) ∧
        t.me.pc = s.me.pc + 4 ∧ t.me.x = s.me.x ∧ t.me.m = s.me.m ∧ CsrsKept s.me t.me [] ∧
        (f.ret = 0 ∨ f.ctr ≠ 0 → t.me.v = s.me.v) ∧
        (f.ctr = 0 → t.me.drained = true) ∧
        (f.ctr = 0 → f.ret = 1 → (∀ n, n < 32 → n ≠ f.d.toNat → t.me.vr n = s.me.vr n) ∧
          (∀ x ∈ r.2, t.me.element ty f.d 0 x.1.i = x.2 % 2 ^ typeWidth ty) ∧
          ∀ i, i < vlmaxOf s.me.k ty → (∀ x ∈ r.2, x.1.i ≠ i) → t.me.element ty f.d 0 i = s.me.element ty f.d 0 i) ∧
        (f.ctr ≠ 0 → (t.me.ctr f.ctr.toNat).issued = (s.me.ctr f.ctr.toNat).issued + 1 ∧
          ∃ op ∈ t.me.nb, op.ctr = f.ctr.toNat ∧ op.num = (s.me.ctr f.ctr.toNat).issued + 1 ∧ op.held = false ∧
            op.late = [] ∧ op.tags = []) ∧
        ∀ a, (∀ q ∈ ps, ∀ l ∈ q.locs, s.canon l.ga ≠ s.canon a) → t.readByte a = s.readByte a))

/-! ### The vector queue (01_machine R10, R13, R26; 03_encoding R86-R88; 12_operand_delivery R270, R272) -/

/-- R10, R13, R26, R87, R365: a queued instruction other than MSWAP is checked at its enqueue in this order, and the first
check that fails traps at its address and changes nothing else: no cluster owned (VLEN), clusters lost (LANEOFF), no room in
the open convoy (CONVOY), a reserved length bit (LENWORD), a count above its bound (VLEN), a type that it does not accept or
a reserved rounding mode (ILLEGAL).
R13, R25, R88, R98, R270, R272: a queued instruction other than MSWAP whose checks pass and that does not run at once
stands last in the queue with what it captured, as a member of the open convoy, and the scalar side is at the next word; a
convoy that it begins drops a drained one before it; nothing else changes but the issued count of its counter. With the queue's
32 entries taken it waits, and nothing changes. -/
def Obligations.EnqueueChecksThenAppends : Prop :=
  (∀ (i : Instr) (q : Queued) (s : State) (e : QEntry), queuedOf i = some q → i ≠ .mswap → e = q.fixes s (q.capture s.me s.me.pc) →
    if s.me.k = 0 then Traps (exec i s) s 0x04 (q.word.setWidth 64)
    else if s.me.laneLost = true then Traps (exec i s) s 0x19 ((s.retired (coreOf s.cur)).setWidth 64)
    else if s.me.begins q.word = false ∧ convoyRoom s.me.openMembers q.word = false then
      Traps (exec i s) s 0x02 (q.word.setWidth 64)
    else if q.len.isSome = true ∧ e.lw.extractLsb' 36 28 ≠ 0 then Traps (exec i s) s 0x05 (q.word.setWidth 64)
    else if q.len.isSome = true ∧ q.bound s.me e.ty < e.vl then Traps (exec i s) s 0x04 (q.word.setWidth 64)
    else (q.len.isSome = true ∧ q.types e.ty = false) ∨ (q.rm = true ∧ 5 ≤ s.me.rm.toNat) →
      Traps (exec i s) s 0x01 (q.word.setWidth 64)) ∧
  (∀ (i : Instr) (q : Queued) (s : State) (e : QEntry), queuedOf i = some q → i ≠ .mswap → e = q.fixes s (q.capture s.me s.me.pc) →
    q.enqueueCheck s e = none →
    (32 ≤ (s.me.entriesBefore (s.me.begins q.word)).length → exec i s = .next s) ∧
    ((s.me.entriesBefore (s.me.begins q.word)).length < 32 → s.runsNow e = false →
      ∃ t, exec i s = .next t ∧ OnlyMe s t ∧
        t.me = { s.me with
          pc := s.me.pc + 4
          wait := none
          convoyOpen := true
          queue := (if s.me.begins q.word = true ∧ s.me.drained = true then [] else s.me.queue) ++ [e]
          cc := t.me.cc } ∧
        e.done = false ∧ e.pc = s.me.pc ∧ e.word = q.word ∧
        ∀ n, t.me.ctr n = if n = q.ctr ∧ q.ctr ≠ 0 then ⟨(s.me.ctr n).issued + 1, (s.me.ctr n).retired⟩ else s.me.ctr n))


/-! ### Loading a locket (04_scalar R128; 20_faults R370, R376) -/

/-- R128, R370, R376: LKLD of a valid image into a free or a held slot of the executing hart's core, tenant and world (v is the
state in which a hart held there has been discarded) waits while the core lacks free clusters, or a tile queue in matrix mode, or
the region locket space, and else leaves the slot held with what the image holds and clusters of its own: pc, scalar, vector and
mask registers, codebooks, counters, control registers and context slots. Memory outside the new hart's locket space and its
region's control block, and every other hart but for what its family counts as its clusters, stays as it was. (Which clusters,
region and family is the model's choice, log entries 6 and 17.) An image that is not valid traps ILLEGAL with the locket's address,
and an image of the secure world loaded by another hart traps WORLD. -/
def Obligations.LkldLoadsAHeldHart : Prop :=
  ∀ (f : Rs2) (s u v : State) (h core k : Nat) (head locs : List Loc) (addr : Nat → Nat), core = coreOf s.cur →
    h = core * 8 + (s.me.xr f.a).toNat % 8 → h ≠ s.cur → u = s.withMe Hart.closeConvoy → s.me.priv = .supervisor →
    (s.me.xr f.a).toNat / 16 = 0 → (s.me.xr f.b).toNat % 4096 = 0 → ((s.hart h).run = .free ∨ (s.hart h).run = .held) →
    s.foreign h = false → v = (if (s.hart h).run = .free then u else (u.parting h).freeSlot h) →
    u.locketRange .rd (s.me.xr f.b) 0x35000 = .ok head →
    u.locketRange .rd (s.me.xr f.b) (locketSize (u.imgRows (locAddr head))) = .ok locs →
    addr = locAddr locs → u.eccByte (s.me.xr f.b) locs = none → k = ((u.imgWord addr 0x10).extractLsb' 4 4).toNat →
    (u.imageValid addr core = false → Traps (exec (.lkld f) s) s 0x01 (s.me.xr f.b)) ∧
    (u.imageValid addr core = true → u.imageSecure addr = true → s.me.secure = false →
      Traps (exec (.lkld f) s) s 0x0D ((wordOf (.lkld f)).setWidth 64)) ∧
    (u.imageValid addr core = true → (u.imageSecure addr = true → s.me.secure = true) →
      (v.roomToLoad core k (u.imgRows addr) ((u.imgWord addr 0x10).getLsbD 0) = false →
        Waits (exec (.lkld f) s) u (.lkld f)) ∧
      (v.roomToLoad core k (u.imgRows addr) ((u.imgWord addr 0x10).getLsbD 0) = true →
        ∃ t : State, exec (.lkld f) s = .next ((((s.hart h).region.map fun q =>
            (t.releaseCore q core).settleRegion q).getD t).withMe Hart.advance) ∧
          t.mem = (match v.me.region.bind fun r => if (v.region r).done then none else (v.region r).counts.map fun a => (r, a) with
            | none => (v.takeSpaces (v.spaces v.me.secure (u.imgRows addr)).head?.toList (u.imgRows addr)).mem
            | some (r, a) => if v.mustWait a then
                (v.takeSpaces (v.spaces v.me.secure (u.imgRows addr)).head?.toList (u.imgRows addr)).mem
              else (((v.takeSpaces (v.spaces v.me.secure (u.imgRows addr)).head?.toList (u.imgRows addr)).writeGa a 4
                (t.childCount r)).writeGa (a + 4) 2 (t.liveCount r)).mem) ∧
          (∀ j, j ≠ h → t.hart j = { v.hart j with family := (t.hart j).family } ∧
            ((u.imgWord addr 0x10).getLsbD 1 = false → t.hart j = v.hart j)) ∧
          (t.hart h).run = .held ∧ (t.hart h).saved = true ∧ (t.hart h).pc = u.imgWord addr 8 ∧
          (t.hart h).map = pickClusters v.fresh k (v.freeClusters core) ∧
          (∀ r : BitVec 5, r ≠ 0 → (t.hart h).xr r = u.imgWord addr (0x100 + 8 * r.toNat)) ∧
          (∀ n, n < 32 → (t.hart h).vr n = BitVec.ofNat 32768 (u.getAt addr (0x4000 + 4096 * n) 4096)) ∧
          (∀ n, 0 < n → n < 8 → (t.hart h).mr n = BitVec.ofNat 8192 (u.getAt addr (0xC00 + 1024 * n) 1024) ∧
            (t.hart h).ctr n = ⟨u.imgWord addr (0x500 + 16 * n), u.imgWord addr (0x508 + 16 * n)⟩) ∧
          (∀ n, n < 8 → (t.hart h).cbr n = BitVec.ofNat 256 (u.getAt addr (0x400 + 32 * n) 32)) ∧
          (∀ n ∈ restoredCsrs, (t.hart h).csrv n = u.imgWord addr (csrOffset n) &&& csrBits n) ∧
          ∀ n, n < 16 → (t.hart h).ctxSlot n = u.imgCtx addr n))

/-! ### Matrix mode (07_matrix_isa R206-R225) -/

/-- R207, R208, R216, R224, R225: MMODE_ON traps MMODE in matrix mode or in a FORK family, grants nothing to a hart without
accumulator rows, takes a free tile queue with MVL = rd, or 128 for 0 and for more, and, while no tile queue is its to take, waits
and grants nothing once its deadline has come; MMODE_OFF leaves matrix mode once nothing of it is queued; MSTAT gives 0 outside it
and the fields of R225 in it, once nothing of it is queued; MSWAP traps outside matrix mode, and in it takes a queue entry, or
exchanges the planes at once where nothing is before it; to a full queue it waits. -/
def Obligations.MatrixModeInstructions : Prop :=
  (∀ (f : Rd) (s : State), (s.me.matrix.isSome = true ∨ s.me.family.isSome = true →
      Traps (exec (.mmodeOn f) s) s 0x10 ((wordOf (.mmodeOn f)).setWidth 64)) ∧
    (s.me.matrix = none → s.me.family = none → s.me.accRows = 0 → Writes (exec (.mmodeOn f) s) s f.d 0) ∧
    (∀ (n q : Nat) (rest : List Nat), s.me.matrix = none → s.me.family = none → s.me.accRows ≠ 0 →
      s.tileBefore = false → s.freeTq (coreOf s.cur) = q :: rest →
      n = (if (s.me.xr f.d).toNat = 0 ∨ 128 < (s.me.xr f.d).toNat then 128 else (s.me.xr f.d).toNat) →
      ∃ t, exec (.mmodeOn f) s = .next t ∧ OnlyMe s t ∧ RegSet s.me t.me f.d (BitVec.ofNat 64 n) ∧
        t.me = { s.me with
          x := t.me.x
          pc := s.me.pc + 4
          wait := none
          matrix := some ⟨q, n, 0, .empty, .empty, []⟩
          lost := s.me.lost.filter fun x => decide (x < 15000) }) ∧
    (∀ u, s.me.matrix = none → s.me.family = none → s.me.accRows ≠ 0 →
      (s.tileBefore = true ∨ s.freeTq (coreOf s.cur) = []) → u = s.tickTime →
      if u.expired then Writes (exec (.mmodeOn f) s) u f.d 0 else Waits (exec (.mmodeOn f) s) u (.mmodeOn f)) ∧
    (s.me.matrix = none → Writes (exec (.mstat f) s) s f.d 0) ∧
    ∀ m, s.me.matrix = some m → m.tq < 2 → m.mvl ≤ 128 → m.active.k ≤ 128 → m.shadow.k ≤ 128 →
      if s.me.matrixIdle then ∃ v : Word, Writes (exec (.mstat f) s) s f.d v ∧ v.extractLsb' 0 6 = m.flags ∧
        v.getLsbD 6 = true ∧
        (v.extractLsb' 7 1).toNat = m.tq ∧ (v.extractLsb' 8 8).toNat = m.mvl ∧ (v.extractLsb' 16 8).toNat = m.active.k ∧
        v.extractLsb' 24 4 = (if m.active.k = 0 then 0 else m.active.ty) ∧ v.extractLsb' 28 4 = m.active.zero ∧
        (v.extractLsb' 32 8).toNat = m.shadow.k ∧ v.extractLsb' 40 4 = (if m.shadow.k = 0 then 0 else m.shadow.ty) ∧
        v.extractLsb' 44 4 = m.shadow.zero ∧ v.extractLsb' 48 16 = 0
      else exec (.mstat f) s = .next s) ∧
  ∀ (s : State), (if s.me.matrixIdle then ∃ t, exec .mmodeOff s = .next t ∧ OnlyMe s t ∧
      t.me = { s.me with matrix := none, pc := s.me.pc + 4, wait := none } else exec .mmodeOff s = .next s) ∧
    (s.me.matrix = none → Traps (exec .mswap s) s 0x10 ((wordOf .mswap).setWidth 64)) ∧
    ∀ m, s.me.matrix = some m → if queueSize ≤ s.me.queue.length then exec .mswap s = .next s
      else ∃ t, exec .mswap s = .next t ∧ OnlyMe s t ∧
        if s.prompt = true ∧ s.me.drained = true ∧ s.me.tile = [] then t.me = { s.me with
          matrix := some { m with active := m.shadow, shadow := m.active }
          pc := s.me.pc + 4
          wait := none
          lost := s.me.lost.map fun x => if x = 16000 then 16001 else if x = 16001 then 16000 else x }
        else ∃ e : QEntry, e.word = wordOf .mswap ∧ e.done = false ∧ e.first = false ∧
          t.me = { s.me with pc := s.me.pc + 4, wait := none, queue := s.me.queue ++ [e] }

/-- R213, R214, R215: MLS in matrix mode, whose checks pass, fills the shadow plane with the values of its VL by MVL elements,
zero elsewhere, with the codebook of the page for C4, and sets the zero flags; the flags that its conversions raise accrue. The
active plane, the carries, the accumulator and every vector row stay as they are. Where the check of its base or of an element fails
(R214; 06_memory_isa R159, R162), it faults with that check's cause and byte, to be restarted as a whole, and loads nothing. -/
def Obligations.MlsFillsTheShadowPlane : Prop :=
  ∀ (f : MlsOps) (s : State) (m : Matrix) (vl : Nat) (ty : BitVec 4) (pg : Page) (ps : List Placed) (e : QEntry)
    (p : Int), s.me.matrix = some m → m.mvl ≤ 128 → Runs s (mlsQueued f).word →
    e = (mlsQueued f).fixes s ((mlsQueued f).capture s.me s.me.pc) →
    s.me.xr (28 + f.l.setWidth 5) = BitVec.ofNat 64 (ty.toNat * 2 ^ 32 + vl) → vl ≤ 128 →
    ty.toNat ∈ [8, 9, 12, 13, 14, 15] →
    (∀ (pl : Placing) (el : Elem) (c : Byte) (v : Word), s.placingPlane e = some pl → pl.bad = some (el, c, v) → c ≠ 0x18 →
      c ≠ 0xFF → FaultsQueued (exec (.mls f) s) s e c v 0 fun t => t.v = s.me.v ∧ t.matrix = s.me.matrix) ∧
    (s.baseLeaf (s.me.xr f.a) = .ok pg → p = (s.me.xr f.b).toInt →
    s.checkElems (s.party s.cur) ⟨.rd, false, some pg, ty, none, false, none⟩
      (tileElems (2 ^ 128 - 1) m.mvl 0 0 vl (fun _ => false) fun k j =>
        (if p ≠ 0 then 8 * (((s.me.xr f.a).toNat : Int) + k * p)
          else 8 * ((s.me.xr f.a).toNat : Int) + (k * m.mvl * memWidth pg ty : Nat)) + (j * memWidth pg ty : Nat)) =
      (ps, none) → PlainElems s ps → Ready s ps →
    ∃ (t : State) (pl : Plane), exec (.mls f) s = .next t ∧ t.acc = s.acc ∧ t.me.v = s.me.v ∧
      RanMatrix (Windowed s t) t { m with shadow := pl }
        (fun k => ∃ q ∈ ps, (s.loadPlaced s.me e q).2.getLsbD k = true) ∧
      pl.k = vl ∧ pl.ty = ty ∧ pl.zero = pl.zeroFlags m.mvl ∧
      pl.cb = (if ty = 0xF then s.me.cbr (if pg.fmt = 0 then 0 else pg.cb.toNat) else 0) ∧
      (∀ q ∈ ps, q.el.i < 128 → pl.code q.el.r q.el.i = (s.loadPlaced s.me e q).1 % 2 ^ 16) ∧
      ∀ k j, j < 128 → (k < vl → m.mvl ≤ j) → pl.code k j = 0)

/-- R217, R219, R211: MSTR adds to each of its window rows, or with O sets it to, the exact dot products of a vector row with the
columns of the active plane, rounded once; MOP adds to each active window row the products of one element with a vector
row; each accrues the flags that its columns raise. Columns from MVL on and every other accumulator row are unchanged, and so are
every vector row and the planes. -/
def Obligations.MatrixProductsAccumulate : Prop :=
  (∀ (f : MstrOps) (s : State) (m : Matrix) (vl : Nat) (ty : BitVec 4) (row : Nat → Nat) (dot : Nat → Nat → Nat × Flags),
    s.me.matrix = some m → m.mvl ≤ 128 → Runs s (mstrQueued f).word → HasLength s f.l vl ty →
    ty.toNat ∈ [8, 9, 12, 13, 14] → (m.active.k = 0 ∨ pairs ty m.active.ty = true) → vl ≤ m.active.k →
    row = (fun r => (s.me.xr f.a).toNat + (if f.aff = 1 then 2 * r + 1 else r)) →
    (s.me.xr f.a).toNat + (if f.aff = 1 then 2 * 2 ^ f.g.toNat else 2 ^ f.g.toNat) ≤ s.me.accRows →
    dot = (fun r j => dotAccumulate (if f.ovw = 1 then 0 else s.cell (row r) j)
      (rowTerms s.me m.active ty (s.me.maskOf f.m) vl (s.me.vr (f.vs.toNat + r)).toNat j)) →
    ∃ t, exec (.mstr f) s = .next t ∧ t.me.v = s.me.v ∧
      RanMatrix s t m (fun k => ∃ r j, r < 2 ^ f.g.toNat ∧ j < m.mvl ∧ (dot r j).2.getLsbD k = true) ∧
      (∀ r j, r < 2 ^ f.g.toNat → j < 128 → t.cell (row r) j =
        if j < m.mvl then (dot r j).1 % 2 ^ 32 else s.cell (row r) j) ∧
      AccKept s t fun a => ∃ r, r < 2 ^ f.g.toNat ∧ a = row r) ∧
  (∀ (f : MopOps) (s : State) (m : Matrix) (vl : Nat) (ty : BitVec 4) (base : Nat) (out : Nat → Nat → Nat × Flags),
    s.me.matrix = some m → m.mvl ≤ 128 → Runs s (mopQueued f).word → HasLength s f.l vl ty →
    ty.toNat ∈ [8, 9, 10, 12, 13, 14] → m.mvl ≤ vlmaxOf s.me.k ty →
    base = (s.me.xr f.a).toNat → (vl = 0 ∨ base + vl ≤ s.me.accRows) →
    out = (fun i j => f32.deliver 0#3 (FVal.fma 0#3 (valueOf ty (s.me.element ty f.vs 0 i))
      (valueOf ty (s.me.element ty f.b 0 j)) (f32.decode (s.cell (base + i) j)))) →
    ∃ t, exec (.mop f) s = .next t ∧ t.me.v = s.me.v ∧
      RanMatrix s t m (fun k => ∃ i j, i < vl ∧ s.me.gates f.m i = true ∧ j < m.mvl ∧ (out i j).2.getLsbD k = true) ∧
      (∀ i j, i < vl → j < 128 → t.cell (base + i) j =
        if s.me.gates f.m i = true ∧ j < m.mvl then (out i j).1 % 2 ^ 32 else s.cell (base + i) j) ∧
      AccKept s t fun a => ∃ i, i < vl ∧ a = base + i)

/-- R220, R221: MSCAN replaces the pairs of its steps by the running compositions in each column below MVL, from the carry
or the identity, and with W leaves the last one in the carry; MSCANF sends the carry's offset through each gain that is not
zero into the step's offset; each accrues the flags that its steps raise. Columns from MVL on, every other accumulator row, every
other carry, the planes and every vector row are unchanged. -/
def Obligations.ScansComposeTheirSteps : Prop :=
  (∀ (f : MscanOps) (s : State) (m : Matrix) (base n : Nat), s.me.matrix = some m → m.mvl ≤ 128 →
    Runs s (mscanQueued f).word → base = (s.me.xr f.a).toNat → n = (s.me.xr f.b).toNat →
    (n = 0 ∨ base + 2 * n ≤ s.me.accRows) →
    ∃ (t : State) (m' : Matrix) (p : Nat → Nat → Nat × Nat), exec (.mscan f) s = .next t ∧ t.me.v = s.me.v ∧
      m' = { m with sc := m'.sc } ∧
      RanMatrix s t m' (fun k => ∃ i j, i < n ∧ j < m.mvl ∧ (compose (p i j) (s.stepPair base i j)).2.getLsbD k = true) ∧
      (∀ j, p 0 j = (if f.cin = 1 then m.carry f.slot.toNat j else (f32One, 0))) ∧
      (∀ i j, p (i + 1) j = (compose (p i j) (s.stepPair base i j)).1) ∧
      (∀ i j, i < n → j < 128 → t.stepPair base i j =
        if j < m.mvl then ((p (i + 1) j).1 % 2 ^ 32, (p (i + 1) j).2 % 2 ^ 32) else s.stepPair base i j) ∧
      (∀ c j, c < 4 → j < 128 → m'.carry c j =
        if f.wout = 1 ∧ c = f.slot.toNat ∧ j < m.mvl then ((p n j).1 % 2 ^ 32, (p n j).2 % 2 ^ 32) else m.carry c j) ∧
      (f.wout = 0 → m'.sc = m.sc) ∧ AccKept s t fun a => base ≤ a ∧ a < base + 2 * n) ∧
  (∀ (f : MscanfOps) (s : State) (m : Matrix) (base n : Nat) (fix : Nat → Nat → Nat × Flags), s.me.matrix = some m →
    m.mvl ≤ 128 → Runs s (mscanfQueued f).word → base = (s.me.xr f.a).toNat → n = (s.me.xr f.b).toNat →
    (n = 0 ∨ base + 2 * n ≤ s.me.accRows) →
    fix = (fun i j => f32.fma 0#3 false false (s.stepPair base i j).1 (m.carry f.slot.toNat j).2 (s.stepPair base i j).2) →
    ∃ t, exec (.mscanf f) s = .next t ∧ t.me.v = s.me.v ∧
      RanMatrix s t m (fun k => ∃ i j, i < n ∧ j < m.mvl ∧ (f32.decode (s.stepPair base i j).1).isZero = false ∧
        (fix i j).2.getLsbD k = true) ∧
      (∀ i j, i < n → j < 128 → (t.stepPair base i j).1 = (s.stepPair base i j).1 ∧ (t.stepPair base i j).2 =
        if j < m.mvl ∧ (f32.decode (s.stepPair base i j).1).isZero = false then (fix i j).1 % 2 ^ 32
        else (s.stepPair base i j).2) ∧
      AccKept s t fun a => base ≤ a ∧ a < base + 2 * n)

/-- R223: the MACC moves: accumulator columns converted into vector elements and back, window rows zeroed or copied below
MVL (every source row read first), and the carries moved to and from two vector rows; conversions accrue their flags. -/
def Obligations.AccumulatorMoves : Prop :=
  ∀ (s : State) (m : Matrix) (vl : Nat) (ty : BitVec 4), s.me.matrix = some m → m.mvl ≤ 128 →
    (∀ (f : VXOps) (base : Nat) (rd wr : Nat → Nat → Nat × Flags), base = (s.me.xr f.a).toNat → HasLength s f.l vl ty →
      ty ≠ 0xF → vl ≤ m.mvl → base + 2 ^ f.g.toNat ≤ s.me.accRows →
      rd = (fun r j => convertElem 0#3 0xA ty (s.cell (base + r) j)) →
      wr = (fun r j => convertElem 0#3 ty 0xA (s.me.element ty f.d r j)) →
      (Runs s (maccRdQueued f).word → ∃ t, exec (.maccRd f) s = .next t ∧ t.acc = s.acc ∧
        RanMatrix s t m (fun k => ∃ r j, r < 2 ^ f.g.toNat ∧ j < vl ∧ s.me.gates f.m j = true ∧
          (rd r j).2.getLsbD k = true) ∧
        Swept s.me t.me f.g f.m f.d ty vl rd) ∧
      (Runs s (maccWrQueued f).word → ∃ t, exec (.maccWr f) s = .next t ∧ t.me.v = s.me.v ∧
        RanMatrix s t m (fun k => ∃ r j, r < 2 ^ f.g.toNat ∧ j < vl ∧ s.me.gates f.m j = true ∧
          (wr r j).2.getLsbD k = true) ∧
        (∀ r j, r < 2 ^ f.g.toNat → j < 128 → t.cell (base + r) j =
          if j < vl ∧ s.me.gates f.m j = true then (wr r j).1 % 2 ^ 32 else s.cell (base + r) j) ∧
        AccKept s t fun a => base ≤ a ∧ a < base + 2 ^ f.g.toNat)) ∧
    (∀ (f : MaccZrOps) (base n : Nat), base = (s.me.xr f.a).toNat → n = (s.me.xr f.b).toNat →
      (n = 0 ∨ base + n ≤ s.me.accRows) → Runs s (maccZrQueued f).word →
      ∃ t, exec (.maccZr f) s = .next t ∧ RanMatrix s t m (fun _ => False) ∧ t.me.v = s.me.v ∧
        (∀ i j, i < n → j < 128 →
          t.cell (base + i) j = if j < m.mvl then 0 else s.cell (base + i) j) ∧
        AccKept s t fun a => base ≤ a ∧ a < base + n) ∧
    (∀ (f : MaccCpOps) (src base n : Nat), src = (s.me.xr f.e).toNat → base = (s.me.xr f.a).toNat →
      n = (s.me.xr f.b).toNat → (n = 0 ∨ (src + n ≤ s.me.accRows ∧ base + n ≤ s.me.accRows)) →
      Runs s (maccCpQueued f).word →
      ∃ t, exec (.maccCp f) s = .next t ∧ RanMatrix s t m (fun _ => False) ∧ t.me.v = s.me.v ∧
        (∀ i j, i < n → j < 128 → t.cell (base + i) j =
          if j < m.mvl then s.cell (src + i) j else s.cell (base + i) j) ∧
        AccKept s t fun a => base ≤ a ∧ a < base + n) ∧
    ∀ (f : MaccScOps) (rd wr : Nat → Nat → Nat × Flags), HasLength s f.l vl ty → ty ≠ 0xF → vl ≤ m.mvl →
      rd = (fun r j => convertElem 0#3 0xA ty
        (if r = 0 then (m.carry f.slot.toNat j).1 else (m.carry f.slot.toNat j).2)) →
      wr = (fun r j => convertElem 0#3 ty 0xA (s.me.element ty f.d r j)) →
      (Runs s (maccScrdQueued f).word → ∃ t, exec (.maccScrd f) s = .next t ∧ t.acc = s.acc ∧
        RanMatrix s t m (fun k => ∃ r j, r < 2 ∧ j < vl ∧ (rd r j).2.getLsbD k = true) ∧
        Swept s.me t.me 1 0 f.d ty vl rd) ∧
      (Runs s (maccScwrQueued f).word → ∃ (t : State) (m' : Matrix), exec (.maccScwr f) s = .next t ∧
        RanMatrix s t m' (fun k => ∃ r j, r < 2 ∧ j < vl ∧ (wr r j).2.getLsbD k = true) ∧
        t.acc = s.acc ∧ t.me.v = s.me.v ∧ m' = { m with sc := m'.sc } ∧
        ∀ c j, c < 4 → j < 128 → m'.carry c j = if c = f.slot.toNat ∧ j < vl then
          ((wr 0 j).1 % 2 ^ 32, (wr 1 j).1 % 2 ^ 32) else m.carry c j)

/-! ### Repeat frames (03_encoding R89-R91; 05_vector R156; 12_operand_delivery R278) -/

/-- R89, R90, R156, R278: a REP closes the convoy and waits for the core's sequencer buffer while another hart has it, and
REP_BUFFER_ACQUIRE gives it its turn once the buffer is free; at its turn its words are fetched, and a word that cannot be takes that
fetch's trap; a frame that reads a register which a queued member has still to write waits; the first failed check traps at the REP
with that check's cause and the offending word and position; a frame without a fault is captured, its replays to begin at REPPOS's,
and REPPOS is cleared.
REPLAY_ENQUEUE of a captured frame, of a hart that runs or, amid a replay, is being stopped, enqueues the next word of the replay,
stepped, with its operands as they now are, where the queue has room and nothing it reads is owed; after the last word of a replay
the next replay begins, and after the last replay the pc is behind the frame. Before the first word of each replay but the first, and
at a word that has waited for what it reads, the checks on operands are made: one that fails traps with REPPOS holding the replay, of
which nothing stays enqueued. -/
def Obligations.RepeatFramesReplayTheirWords : Prop :=
  (∀ (f : RepOps) (s : State) (r : RepFrame),
    r = ⟨false, [], f.n.toNat + 1, f.k.toNat + 1, f.s.toNat, 0, 0, s.me.pc, []⟩ →
    if s.bufferTaken s.cur then
      ∃ t, exec (.rep f) s = .next t ∧ OnlyMe s t ∧ t.me = { s.me with convoyOpen := false, rep := some r }
    else FrameTurn (exec (.rep f) s) (s.withMe Hart.closeConvoy) r) ∧
  (∀ (h : Nat) (s : State),
    ((s.hart h).run ≠ .running ∨ (s.hart h).rep = none ∨ s.bufferTaken h = true ∨
      (∃ r, (s.hart h).rep = some r ∧ r.captured = true) → exec (.repBufferAcquire h) s = .next s) ∧
    ∀ r, (s.hart h).run = .running → (s.hart h).rep = some r → s.bufferTaken h = false → r.captured = false →
      (∃ t, exec (.repBufferAcquire h) s = .next t) ∧
      FrameTurn (exec (.repBufferAcquire h) s)
        ((s.setHart h { s.hart h with stalled := none }).asHart h) r) ∧
  ∀ (h : Nat) (s u : State) (r : RepFrame) (ws : List IWord) (qs : List Queued) (q : Queued)
    (bad : Option (Byte × Nat)), (s.hart h).rep = some r → r.captured = true →
    ((s.hart h).run = .running ∨ r.pos ≠ 0 ∧ ∃ units park, (s.hart h).run = .stopping units park ∨ (s.hart h).run = .holding units) →
    u = s.asHart h → ws = r.words.map (fun w => stepWord w (r.replay * r.s)) → qs = ws.filterMap steppedWord →
    qs[r.pos]? = some q →
    bad = (if r.pos = 0 ∧ r.replay = 0 ∨ r.pos ≠ 0 ∧ r.blocked = [] then none
      else if u.me.laneLost then some (0x19, if r.pos = 0 then 0 else r.pos)
      else if r.pos = 0 then firstFail (qs.map fun x => x.replayCheck u (x.capture u.me u.me.pc))
      else (q.replayCheck u (q.capture u.me u.me.pc)).map fun c => (c, r.pos)) →
    if u.me.owes (if r.pos = 0 then qs.flatMap Queued.captures else q.captures) then
      exec (.replayEnqueue h) s = .next (u.withMe fun t => { t with
        rep := some { r with blocked := if r.pos = 0 then qs.flatMap Queued.captures else q.captures } })
    else match bad with
    | some (c, i) => Traps (exec (.replayEnqueue h) s)
        (u.withMe fun t => ({ t with queue := t.queue.take (t.queue.length - r.pos) } : Hart).setCsr 0x008
          (BitVec.ofNat 64 (r.replay + 64))) c (u.frameTrap c (ws.getD i 0) i)
    | none => ∀ e, e = q.fixes u (q.capture u.me (r.pc + BitVec.ofNat 64 (4 * (r.pos + 1)))) →
      if queueSize ≤ (u.me.entriesBefore e.first).length then exec (.replayEnqueue h) s = .next u
      else ∃ t, exec (.replayEnqueue h) s = .next t ∧ OnlyMe u t ∧
        (∀ n, t.me.ctr n = if q.ctr ≠ 0 ∧ n = q.ctr then { u.me.ctr n with issued := e.issue } else u.me.ctr n) ∧
        t.me = { u.me with
          queue := u.me.entriesBefore e.first ++ [e]
          convoyOpen := true
          cc := t.me.cc
          rep := if r.pos + 1 < r.n then some { r with pos := r.pos + 1, blocked := [] }
            else if r.replay + 1 < r.k then some { r with replay := r.replay + 1, pos := 0, blocked := [] } else none
          pc := if r.pos + 1 < r.n ∨ r.replay + 1 < r.k then u.me.pc
            else r.pc + BitVec.ofNat 64 (4 * (r.n + 1)) }

/-! ### Engine and collective commands (06_memory_isa R190-R199) -/

/-- R190, R191, R192, R195: an engine command on a slot that has not faulted, with fewer than 256 outstanding, is put last
on the slot's context, bound now if it was not (state u), with the slot's clasp word and priority; its issue number goes to
rd and nothing else changes, but that one which moves no bytes, with nothing before it, completes at once. On a faulted slot, or
with no context to bind, it traps ENGCTX; with 256 outstanding it waits. A COPYX whose size is 0 or whose reserved bits are set
traps ILLEGAL, and a COPY2 whose record is not aligned to 8 traps ALIGN or cannot be read the trap of that access, and waits while a blocking vector memory instruction of the hart is not complete.
R190, R195, R312: ECFG sets a slot's priority and its clasp word, 16 aligned scratchpad bytes, or none for address 0, and gives the
issue count; a word of another kind of memory traps PERM, a misaligned one ALIGN, reserved bits ILLEGAL. ECNT gives the completed
count; ERES at supervisor privilege on a faulted slot clears the fault of slot and context and with bit 0 of rs1 completes the
faulted command; at user privilege or on a slot that has not faulted it traps ILLEGAL. -/
def Obligations.EngineInstructionsQueueAndConfigure : Prop :=
  (∀ (s : State) (i : Instr) (d : BitVec 5) (k : BitVec 3) (op : EngOp) (c : CtxSlot),
    ((∃ f : EngOps, d = f.d ∧ k = f.slot ∧
        ((i = .copy f ∧ op = .copy (s.me.xr f.a) (s.me.xr f.b) (s.me.xr f.e)) ∨
          (i = .fill f ∧ op = .fill (s.me.xr f.a) (s.me.xr f.b) (s.me.xr f.e)) ∨
          (i = .copyx f ∧ (s.me.xr f.e).extractLsb' 48 16 = 0 ∧ (s.me.xr f.e).extractLsb' 32 16 ≠ 0 ∧
            op = .copyx (s.me.xr f.a) (s.me.xr f.b) ((s.me.xr f.e).extractLsb' 0 32).toNat
              ((s.me.xr f.e).extractLsb' 32 16).toNat) ∨
          (i = .copy2 f ∧ Unhindered s ∧ (s.me.xr f.e).toNat % 8 = 0 ∧ ∃ (as : List Nat) (w : Nat → Word),
            Plain s .bulkRd (s.me.xr f.e) 32 as ∧ w = (fun j => BitVec.ofNat 64 (s.readAt as / 2 ^ (64 * j))) ∧
            op = .copy2 (s.me.xr f.a) (s.me.xr f.b) (w 0) (w 1) (w 2) (w 3)))) ∨
      (∃ f : PrefOps, d = f.d ∧ k = f.slot ∧ i = .pref f ∧ op = .pref (s.me.xr f.b) (s.me.xr f.e))) →
    c = s.me.ctxSlot k.toNat →
    if c.bound = true ∧ c.faulted = true then Traps (exec i s) s 0x12 ((wordOf i).setWidth 64)
    else if 256 ≤ (c.issued - c.completed).toNat then Waits (exec i s) s i
    else match s.bindCtx s.cur k.toNat with
    | none => Traps (exec i s) s 0x12 ((wordOf i).setWidth 64)
    | some u => ∀ (b : CtxSlot) (n : Word) (x : Ctx), b = u.me.ctxSlot k.toNat → n = b.issued + 1 → x = u.ctx b.key →
      (∀ y ∈ x.eng, (y.op.segment 0).isSome = true) → ((op.segment 0).isSome = true ∨
        x.eng = [] ∧ x.hart = some s.cur ∧ x.slot = k.toNat ∧ b.key % 2048 < 1024) →
      ∃ t, exec i s = .next t ∧ t = { u with harts := t.harts, ctxs := t.ctxs } ∧
        (∀ h, h ≠ s.cur → t.hart h = s.hart h) ∧
        t.me = { u.me with x := t.me.x, pc := s.me.pc + 4, wait := none, ctxs := t.me.ctxs } ∧ RegSet s.me t.me d n ∧
        (∀ j, t.me.ctxSlot j = if j = k.toNat then
            { b with issued := n, completed := if (op.segment 0).isSome then b.completed else n }
          else u.me.ctxSlot j) ∧
        ∀ key, t.ctx key = if key = b.key then (if (op.segment 0).isSome then
            { x with eng := x.eng ++ [⟨n, op, b.clasp, b.prio, decide (s.me.priv = .user), 0, [], Xfer.none⟩] }
          else { x with eng := [], inFlight := false, completed := n }) else u.ctx key) ∧
  (∀ (f : EngOps) (s : State),
    ((s.me.xr f.e).extractLsb' 48 16 ≠ 0 ∨ (s.me.xr f.e).extractLsb' 32 16 = 0 →
      Traps (exec (.copyx f) s) s 0x01 ((wordOf (.copyx f)).setWidth 64)) ∧
    (¬ Unhindered s → ∃ t, exec (.copy2 f) s = .next t ∧ OnlyMe s t ∧ t.me = { s.me with stalled := some (s.me.xr f.e) }) ∧
    (Unhindered s → (s.me.xr f.e).toNat % 8 ≠ 0 → Traps (exec (.copy2 f) s) s 0x06 (s.me.xr f.e)) ∧
    ∀ c v, Unhindered s → s.me.access = none → (s.me.xr f.e).toNat % 8 = 0 → s.checkRange (s.party s.cur) .bulkRd false (s.me.xr f.e) 32 = .error (.trap c v) →
      Traps (exec (.copy2 f) s) s c v) ∧
  (∀ (f : EcfgOps) (s : State) (va : Word), va = s.me.xr f.a →
    ((s.me.xr f.b).extractLsb' 4 60 ≠ 0 → Traps (exec (.ecfg f) s) s 0x01 ((wordOf (.ecfg f)).setWidth 64)) ∧
    ((s.me.xr f.b).extractLsb' 4 60 = 0 →
      (∀ c v, va ≠ 0 → s.checkRange (s.party s.cur) .wr false va 16 = .error (.trap c v) → Traps (exec (.ecfg f) s) s c v) ∧
      (∀ locs, va ≠ 0 → s.checkRange (s.party s.cur) .wr false va 16 = .ok locs →
        (∀ j, locs.findIdx? (fun l => gaHost l.ga || decide (gaKind l.ga ≠ 2)) = some j →
          Traps (exec (.ecfg f) s) s 0x09 (va + BitVec.ofNat 64 j)) ∧
        ((∀ l ∈ locs, gaHost l.ga = false ∧ gaKind l.ga = 2) → va.toNat % 16 ≠ 0 → Traps (exec (.ecfg f) s) s 0x06 va)) ∧
      ∀ (ga : Word), (va = 0 ∧ ga = 0 ∨ va ≠ 0 ∧ va.toNat % 16 = 0 ∧ ∃ l rest,
          s.checkRange (s.party s.cur) .wr false va 16 = .ok (l :: rest) ∧ ga = BitVec.ofNat 64 l.ga ∧
          ∀ l' ∈ l :: rest, gaHost l'.ga = false ∧ gaKind l'.ga = 2) →
        match s.bindCtx s.cur f.slot.toNat with
        | none => Traps (exec (.ecfg f) s) s 0x12 ((wordOf (.ecfg f)).setWidth 64)
        | some u => ∃ t, exec (.ecfg f) s = .next t ∧ OnlyMe u t ∧
            t.me = { u.me with x := t.me.x, pc := s.me.pc + 4, wait := none, ctxs := t.me.ctxs } ∧
            RegSet u.me t.me f.d (u.me.ctxSlot f.slot.toNat).issued ∧
            ∀ j, t.me.ctxSlot j = if j = f.slot.toNat then
              { u.me.ctxSlot j with clasp := ga, prio := (s.me.xr f.b).extractLsb' 0 4 } else u.me.ctxSlot j)) ∧
  (∀ (f : EcntOps) (s : State), Writes (exec (.ecnt f) s) s f.d (s.me.ctxSlot f.slot.toNat).completed) ∧
  ∀ (f : RrSlot) (s : State) (c : CtxSlot) (x : Ctx) (n : Word) (skip : Bool), c = s.me.ctxSlot f.slot.toNat →
    x = s.ctx c.key →
    (s.me.priv = .user ∨ c.bound = false ∨ c.faulted = false →
      Traps (exec (.eres f) s) s 0x01 ((wordOf (.eres f)).setWidth 64)) ∧
    (s.me.priv = .supervisor → c.bound = true → c.faulted = true →
      ((s.me.xr f.a).getLsbD 0 = false ∧ skip = false ∧ n = c.completed ∨ (s.me.xr f.a).getLsbD 0 = true ∧ skip = true ∧
        (∃ y, x.eng.head? = some y ∧ n = y.num) ∧ (∀ y ∈ x.eng.tail, (y.op.segment 0).isSome = true) ∧
        x.hart = some s.cur ∧ x.slot = f.slot.toNat ∧ c.key % 2048 < 1024) →
      ∃ t, exec (.eres f) s = .next t ∧ t = { s with harts := t.harts, ctxs := t.ctxs } ∧
        (∀ h, h ≠ s.cur → t.hart h = s.hart h) ∧ RegSet s.me t.me f.d n ∧
        t.me = { s.me with x := t.me.x, pc := s.me.pc + 4, wait := none, ctxs := t.me.ctxs } ∧
        (∀ j, t.me.ctxSlot j = if j = f.slot.toNat then { c with faulted := false, completed := n } else s.me.ctxSlot j) ∧
        ∀ key, t.ctx key = if key = c.key then { x with
            faulted := false
            rec0 := x.rec0 &&& ~~~ 0x400
            inFlight := if skip then false else x.inFlight
            completed := if skip then n else x.completed
            eng := ((if skip then x.eng.tail else x.eng).map fun y => { y with xfer := Xfer.none }) } else s.ctx key)

/-- R197, R199: a COLL that a check of its word, group, member list or buffer refuses traps with that check's cause, a handle above
65535 ILLEGAL with the handle in TVAL, an entry of the group that cannot be read ECC; on a faulted slot, or with no context to bind,
it traps ENGCTX; with 256 outstanding it waits; else it is issued: its number goes to rd, the hart is at the next word, its endpoint
has issued one more operation on the group, and no other hart's scalar registers or pc change. -/
def Obligations.CollectivesAreIssued : Prop :=
  ∀ (f : EngOps) (s : State) (ge : GroupEntry) (g : List (BitVec 32)) (k : Nat) (c : CtxSlot) (stop : Option Stop),
    k = 8 + f.slot.toNat →
    ge = s.groupEntry (s.me.csrv 0x016).toNat (s.me.xr f.e).toNat → g = s.members ge → c = s.me.ctxSlot k →
    stop = (if (s.me.xr f.e).toNat ≤ 65535 then s.groupStop (s.me.csrv 0x016).toNat (s.me.xr f.e).toNat ge else none).or
      ((s.collCheck (s.me.xr f.a) (s.me.xr f.b) (s.me.xr f.e) ge g).map (·.2)) →
    (65535 < (s.me.xr f.e).toNat → Traps (exec (.coll f) s) s 0x01 (s.me.xr f.e)) ∧
    match stop with
    | some (.trap cause v) => Traps (exec (.coll f) s) s cause v
    | some (.poison a v) => ∃ t, exec (.coll f) s = .next t ∧
        TrapEntered (s.logError (errorUnit a) s.cur) t 0x18 false s.me.pc v
    | some (.wait va) => ∃ t, exec (.coll f) s = .next t ∧ OnlyMe s t ∧ t.me = { s.me with stalled := some va }
    | none =>
      if c.bound = true ∧ c.faulted = true then Traps (exec (.coll f) s) s 0x12 ((wordOf (.coll f)).setWidth 64)
      else if 256 ≤ (c.issued - c.completed).toNat then Waits (exec (.coll f) s) s (.coll f)
      else match s.bindCtx s.cur k with
      | none => Traps (exec (.coll f) s) s 0x12 ((wordOf (.coll f)).setWidth 64)
      | some u => ∃ t, exec (.coll f) s = .next t ∧ t.me.pc = s.me.pc + 4 ∧ t.me.wait = none ∧
          RegSet s.me t.me f.d ((u.me.ctxSlot k).issued + 1) ∧ (t.me.ctxSlot k).issued = (u.me.ctxSlot k).issued + 1 ∧
          t.nextIndex g (slotDie s.cur) = s.nextIndex g (slotDie s.cur) + 1 ∧
          ∀ h, h ≠ s.cur → (t.hart h).x = (s.hart h).x ∧ (t.hart h).pc = (s.hart h).pc

/-! ### The steps of operand delivery (12_operand_delivery R270-R282; 06_memory_isa R169-R171) -/

/-- R88, R155, R171, R272-R275, R278-R282: a drained convoy leaves the queue once another follows it or it is closed, those of its
matrix members that have passed their drain points going to the tile queue with their operands; the member chosen to start a group,
and the one that a matrix unit serves or the due MSWAP, goes on with the result that it computes to the end of that act, where it
is done or holds its progress and the flags so far; one whose access waits waits; one that faults takes its convoy-precise trap with
that cause and address, its convoy saved in the image, once nothing holds a fault back; a group of an outstanding row lands; an
outstanding operation that can completes with its rows and bytes; a waiting REP does at the freed sequencer buffer what REP does. -/
def Obligations.QueuedWorkIsPerformed : Prop :=
  (∀ (h : Nat) (s : State) (lead q late : List QEntry), (s.hart h).run = .running → lead = leadConvoy (s.hart h).queue →
    q = (s.hart h).queue.drop lead.length → late = lead.filter (fun e => !e.done) → lead ≠ [] →
    (∀ e ∈ late, (s.hart h).drainPoint lead e = true) → (late = [] ∨ (s.hart h).tile.length + late.length ≤ tileSize) →
    ∀ u, u = s.setHart h { s.hart h with
        queue := q
        tile := (s.hart h).tile ++ late.map fun e => { e with snap := some (e.snap.getD ⟨(s.hart h).v, (s.hart h).m⟩) } } →
      (q ≠ [] → exec (.convoyStart h) s = .next u) ∧
      (q ≠ [] ∨ (s.hart h).convoyOpen = false → exec (.convoyDrain h) s = .next u)) ∧
  (∀ (h n stop : Nat) (s u v : State) (i : Instr) (e : QEntry) (q : Queued) (pl : Option Placing) (o : VOut),
    (s.hart h).queue[n]? = some e → steppedWord e.word = some q → stop = (s.hart h).actStop e → (s.hart h).lost = [] →
    (usesMemory e.word = true → s.portHeld h = false) →
    ((s.hart h).run = .running ∧ u = { s.asHart h with fresh := s.fresh + 1 } ∧
        (∃ (p : IWord → Bool) (l : List Nat), (i = .groupStart h ∧ p = (fun _ => true) ∨
            i = .vectorToScalarWrite h ∧ p = toScalar) ∧
          l = (s.hart h).groupMembers.filter (fun n => p ((s.hart h).queue.getD n QEntry.vacant).word) ∧
          l[Config.member s.fresh % l.length]? = some n) ∨
      u = s.asHart h ∧ (i = .mswapEffect h ∧ (s.hart h).swapDue = some (false, n) ∨
        ∃ core unit, (i, unit) ∈ [(Instr.rowSlot core, 0), (.scanUnitStep core, 1), (.accumulatePathRow core, 2)] ∧
          s.unitHart core unit = some h ∧ (s.hart h).unitWork unit = some (false, n))) →
    pl = e.placed.or (q.place (u.withMe fun t => { t with qstalled := none }) e) → (∀ p, pl = some p → p.waits = false) →
    v = (u.withMe fun t => { t with qstalled := none }).withMe (fun t => t.setEntry n fun x => { x with placed := pl }) →
    o = q.act v { e with stop := stop, placed := pl } →
    (∀ w va, o = .wait w va → w.cur = h → (w.hart h).lost = [] → exec i s =
      .next ((w.withMe fun t => { t with qstalled := some va }).withMe fun t => t.dropSwaps.dropDrained)) ∧
    (∀ (w : State) (c : Byte) (va : Word) (r : Nat) (fl : Flags), o = .fault w c va r fl → w.cur = h → (w.hart h).lost = [] →
      (s.faultWaits h = true ∨ (s.hart h).replayFirst n = true → exec i s = .next (v.withMe fun t => t.dropSwaps.dropDrained)) ∧
      ∀ es, es = (((s.hart h).queue.mapIdx fun i x => if i = n then { x with started := true, restart := r } else x).take
          ((s.hart h).queue.length - (s.hart h).partReplay)).drop (fromConvoy (s.hart h).queue n) →
        s.faultWaits h = false → (s.hart h).replayFirst n = false → (w.hart h).queue = (v.hart h).queue →
        (w.hart h).rep = (s.hart h).rep → (w.hart h).vrf = false → (w.hart h).csrv 0x100 ≠ 0 →
        w.imageWritable ((w.hart h).csrv 0x105).toNat = true →
        ∃ t, exec i s = .next t ∧ (∀ k, k ≠ h → t.hart k = w.hart k) ∧
          t.mem = (w.writeWords ((w.hart h).csrv 0x105).toNat (imageWords es)).mem ∧
          (t.hart h).queue = [] ∧ (t.hart h).vrf = true ∧ (t.hart h).pc = (w.hart h).csrv 0x100 ∧
          (t.hart h).priv = .supervisor ∧ (t.hart h).csrv 0x101 = (w.hart h).pc ∧
          (t.hart h).csrv 0x102 = c.setWidth 64 ∧ (t.hart h).csrv 0x103 = va ∧ (t.hart h).x = (w.hart h).x ∧
          (t.hart h).v = (w.hart h).v ∧ (t.hart h).m = (w.hart h).m) ∧
    (∀ w, o = .later w → w.cur = h → (w.hart h).lost = [] → (w.hart h).queue = (v.hart h).queue →
      exec i s = .next ((w.withMe fun t => t.setEntry n fun x => { x with started := true, restart := wholeStop }).withMe
        fun t => t.dropSwaps.dropDrained)) ∧
    ∀ (w : State) (fl : Flags), o = .done w fl →
      w.cur = h → (w.hart h).lost = [] → (w.hart h).queue = (v.hart h).queue →
      ∃ t : State, exec i s = .next (t.withMe fun t => t.dropSwaps.dropDrained) ∧ t = { w with harts := t.harts } ∧
        (∀ k, k ≠ h → t.hart k = w.hart k) ∧
        t.hart h = { w.hart h with csr := (t.hart h).csr, matrix := (t.hart h).matrix, queue := (t.hart h).queue } ∧
        (∀ k, k ≠ n → (t.hart h).queue[k]? = (s.hart h).queue[k]?) ∧
        (if stop = wholeStop then (t.hart h).queue[n]? = some { e with started := true, done := true, placed := none } ∧
            (t.hart h).csrv 0 = (w.hart h).csrv 0 ||| ((e.flags ||| fl) &&& 0x1F).setWidth 64 ∧
            (t.hart h).csrv 0x012 = (w.hart h).csrv 0x012 ||| (e.flags ||| fl).setWidth 64 ∧
            CsrsKept (w.hart h) (t.hart h) [0, 0x012] ∧
            (t.hart h).matrix = (if classOf e.word = .matrix then
              (w.hart h).matrix.map fun m => { m with flags := m.flags ||| e.flags ||| fl } else (w.hart h).matrix)
          else (t.hart h).queue[n]? =
              some { e with started := true, restart := stop, flags := e.flags ||| fl, placed := pl } ∧
            (t.hart h).csr = (w.hart h).csr ∧ (t.hart h).matrix = (w.hart h).matrix)) ∧
  (∀ (h n stop : Nat) (s w : State) (i : Instr) (e : QEntry) (q : Queued) (fl : Flags), (s.hart h).tile[n]? = some e →
    steppedWord e.word = some q → stop = (s.hart h).actStop e → (s.hart h).lost = [] →
    (i = .mswapEffect h ∧ (s.hart h).swapDue = some (true, n) ∨
      ∃ core unit, (i, unit) ∈ [(Instr.rowSlot core, 0), (.scanUnitStep core, 1), (.accumulatePathRow core, 2)] ∧
        s.unitHart core unit = some h ∧ (s.hart h).unitWork unit = some (true, n)) →
    q.act (s.asHart h) { e with stop := stop } = .done w fl → w.cur = h → (w.hart h).lost = [] →
    (w.hart h).tile = (s.hart h).tile →
    ∃ t : State, exec i s = .next (t.withMe Hart.dropDrained) ∧ t = { w with harts := t.harts } ∧
      (∀ k, k ≠ h → t.hart k = w.hart k) ∧
      t.hart h = { w.hart h with csr := (t.hart h).csr, matrix := (t.hart h).matrix, tile := (t.hart h).tile } ∧
      if stop = wholeStop then (t.hart h).tile = (s.hart h).tile.eraseIdx n ∧
        (t.hart h).csrv 0 = (w.hart h).csrv 0 ||| ((e.flags ||| fl) &&& 0x1F).setWidth 64 ∧
        (t.hart h).csrv 0x012 = (w.hart h).csrv 0x012 ||| (e.flags ||| fl).setWidth 64 ∧
        CsrsKept (w.hart h) (t.hart h) [0, 0x012] ∧
        (t.hart h).matrix = (if classOf e.word = .matrix then
          (w.hart h).matrix.map fun m => { m with flags := m.flags ||| e.flags ||| fl } else (w.hart h).matrix)
      else (t.hart h).tile = (s.hart h).tile.set n { e with started := true, restart := stop, flags := e.flags ||| fl } ∧
        (t.hart h).csr = (w.hart h).csr ∧ (t.hart h).matrix = (w.hart h).matrix) ∧
  (∀ (s : State) (h core : Nat), ((s.hart h).swapDue = none → exec (.mswapEffect h) s = .next (s.asHart h)) ∧
    ∀ i unit, (i, unit) ∈ [(Instr.rowSlot core, 0), (.scanUnitStep core, 1), (.accumulatePathRow core, 2)] →
      s.unitHart core unit = none → exec i s = .next s) ∧
  (∀ (h row grp : Nat) (s : State) (o : NbOp) (r : NbRow), row < 32 → grp < 64 →
    (s.hart h).nb.find? (fun o => o.brings row grp) = some o →
    o.rows.find? (fun r => decide (r.row = row) && r.groups.getLsbD grp) = some r →
    if o.awaitsGroup row grp then exec (.loadGroupLanding h row grp) s = .next s
    else ∃ t, exec (.loadGroupLanding h row grp) s = .next t ∧ t = { s with harts := t.harts } ∧
      (∀ k, k ≠ h → t.hart k = s.hart k) ∧
      t.hart h = { s.hart h with v := (t.hart h).v, away := (t.hart h).away, nb := (t.hart h).nb } ∧
      (∀ i, i < 32768 → ((t.hart h).vr row).getLsbD i =
        if i / 512 = grp ∧ r.bits.getLsbD i = true then r.data.getLsbD i else ((s.hart h).vr row).getLsbD i) ∧
      (∀ n, n < 32 → n ≠ row → (t.hart h).vr n = (s.hart h).vr n) ∧
      (Sparse.get 0 (t.hart h).away row).getLsbD grp = false) ∧
  (∀ (h ctr num : Nat) (s u : State) (o : NbOp),
    (s.hart h).nb.find? (fun o => decide (o.ctr = ctr ∧ o.num.toNat = num) && o.ready) = some o →
    u = (if o.ord then s.performOrdered h (· = o) else s) →
    ∃ t, exec (.nonblockingComplete h ctr num) s = .next t ∧ t.mem = (u.performBytes o.bytes).mem ∧
      (∀ k, k ≠ h → t.hart k = { s.hart k with wait := (t.hart k).wait }) ∧ (t.hart h).x = (s.hart h).x ∧ (t.hart h).m = (s.hart h).m ∧
      (∀ x ∈ (t.hart h).nb, ¬ (x.ctr = o.ctr ∧ x.num = o.num)) ∧
      (∀ c, ((t.hart h).ctr c).issued = ((s.hart h).ctr c).issued) ∧
      (o.ctr ≠ 0 → (∀ x ∈ (s.hart h).nb, x.ctr = o.ctr → x.num = o.num) →
        (∀ e ∈ (s.hart h).queue, e.nb = true → e.done = true) →
        ((t.hart h).ctr o.ctr).retired = ((s.hart h).ctr o.ctr).issued) ∧
      (o.rows = [] → (t.hart h).v = (s.hart h).v)) ∧
  ∀ (h : Nat) (s : State) (f : RepOps) (r : RepFrame), (s.hart h).rep = some r → (s.hart h).run = .running →
    r = ⟨false, [], f.n.toNat + 1, f.k.toNat + 1, f.s.toNat, 0, 0, (s.hart h).pc, []⟩ → (s.hart h).convoyOpen = false →
    exec (.repBufferAcquire h) s = (if s.bufferTaken h then .next s
      else exec (.rep f) ((s.asHart h).withMe fun t => { t with stalled := none }))

/-! ### Vector, asynchronous and late traps (20_faults R355-R366; 04_scalar R130) -/

/-- R130, R295, R356-R362, R365, R378, R380, R384, R245: a convoy-precise trap of a queued member, once nothing before it is owed an
answer, saves the queue from its convoy on in the image at VQIMG, sets VRF, but not where its cluster is being retired, records the
error and enters the handler, or with VRF already set stops the hart; an asynchronous fault traps with bit 63 of CAUSE set and the
faulted slot in TVAL; a stopped hart of no region is held once its units are at rest; a retired cluster is recorded, and a hart that
owns it loses it, once nothing holds the trap back; an access to a drained die ends as PEERDOWN; a page walk fills the translations of its die. -/
def Obligations.UnitsTrapAndStopHarts : Prop :=
  (∀ (h pos : Nat) (s : State) (e : QEntry) (es : List QEntry) (tval log : Word), pos < queueSize →
    (leadConvoy (s.hart h).queue)[pos]? = some e → e.done = false → (s.hart h).run.lanesWork = true →
    es = (((s.hart h).queue.take ((s.hart h).queue.length - (s.hart h).partReplay)).mapIdx fun i x =>
      if i = pos then { x with started := true } else x) →
    if s.faultWaits h = true ∨ (s.hart h).replayFirst pos = true then exec (.vectorTrap h pos 0x18 tval log) s = .next s
    else ∃ t, exec (.vectorTrap h pos 0x18 tval log) s = .next t ∧ (∀ k, k ≠ h → t.hart k = s.hart k) ∧
      (t.hart h).x = (s.hart h).x ∧ (t.hart h).v = (s.hart h).v ∧ (t.hart h).m = (s.hart h).m ∧
      ((s.hart h).csrv 0x108 = 0 → (t.hart h).csrv 0x109 = (s.tickTime.die (slotDie h)).ptime ∧
        (t.hart h).csrv 0x108 = ((if (log.extractLsb' 3 4).toNat ∈ [8, 9] then log &&& ~~~ 0x7F80000000 else log) &&&
          0xFFFFFFFFF8) ||| (if s.synced (slotDie h) then 5 else 1)) ∧
      ((s.hart h).vrf = true → (t.hart h).run = .stopped 0x18 true ∧ t.mem = s.mem) ∧
      ((s.hart h).vrf = false → (s.hart h).csrv 0x100 ≠ 0 → s.imageWritable ((s.hart h).csrv 0x105).toNat = true →
        t.mem = (s.writeWords ((s.hart h).csrv 0x105).toNat (imageWords es)).mem ∧
        (t.hart h).pc = (s.hart h).csrv 0x100 ∧ (t.hart h).priv = .supervisor ∧ (t.hart h).run = (s.hart h).run ∧
        (t.hart h).csrv 0x101 = (s.hart h).pc ∧ (t.hart h).csrv 0x102 = 0x18 ∧ (t.hart h).csrv 0x103 = tval ∧
        (t.hart h).vrf = !log.getLsbD 39 ∧ (t.hart h).ie = false ∧ (t.hart h).queue = [] ∧
        (log.getLsbD 39 = true → (t.hart h).laneLost = true))) ∧
  (∀ (h : Nat) (s : State), (s.hart h).run = .running → ((s.hart h).priv = .user ∨ (s.hart h).ie = true) →
    (s.hart h).wait = none → (s.hart h).rep = none → (∀ a ∈ (s.hart h).asks, a.own ≠ 0) →
    ((s.hart h).engFault = true ∨ (s.hart h).collFault = true) →
    ∃ t, exec (.asyncTrap h) s = .next t ∧ t = { s with harts := t.harts } ∧ (∀ k, k ≠ h → t.hart k = s.hart k) ∧
      (t.hart h).pc = (s.hart h).csrv 0x100 ∧ (t.hart h).priv = .supervisor ∧ (t.hart h).ie = false ∧
      (t.hart h).csrv 0x101 = (s.hart h).pc ∧ (t.hart h).x = (s.hart h).x ∧ (t.hart h).v = (s.hart h).v ∧
      (t.hart h).csrv 0x102 = (if (s.hart h).engFault then 0x8000000000000013 else 0x8000000000000014) ∧
      (t.hart h).csrv 0x103 = (s.hart h).asyncTval (!(s.hart h).engFault) ∧
      ((s.hart h).engFault = true → (t.hart h).engFault = false ∧ (t.hart h).collFault = (s.hart h).collFault) ∧
      ((s.hart h).engFault = false → (t.hart h).collFault = false)) ∧
  (∀ (h : Nat) (s u : State) (c : Byte) (b : Bool), (s.hart h).run = .stopped c b → (s.hart h).region = none →
    u = s.drainNb h → if u.atRest h = false then exec (.stoppedHartSave h) s = .next u
      else ∃ t, exec (.stoppedHartSave h) s = .next t ∧ t = { u.stopHart h with harts := t.harts } ∧
        (∀ k, k ≠ h → t.hart k = (u.stopHart h).hart k) ∧ t.hart h = { (u.stopHart h).hart h with run := .held }) ∧
  (∀ (core cluster : Nat) (s : State), core < 128 → cluster < 8 → (s.retired core).getLsbD cluster = false →
    ((∀ h ∈ coreSlots core, (s.hart h).map.getLsbD cluster = false) → ∃ t, exec (.clusterRetire core cluster) s = .next t ∧
      t = { s with laneOff := t.laneOff } ∧ ∀ c, t.retired c = if c = core then s.retired c ||| (1 <<< cluster) else s.retired c) ∧
    (∀ h, (coreSlots core).find? (fun h => (s.hart h).map.getLsbD cluster) = some h →
      ∃ t, exec (.clusterRetire core cluster) s = .next t ∧ (t.retired core).getLsbD cluster = true ∧
        (∀ k, k ≠ h → t.hart k = s.hart k) ∧
        ((s.hart h).run.lanesWork = true → s.faultWaits h = true → t.mem = s.mem ∧
          t.hart h = { s.hart h with laneDue := true }) ∧
        ((s.hart h).run.lanesWork = false ∨ s.faultWaits h = false →
          (t.hart h).laneLost = true ∧ (t.hart h).pending.isSome = true) ∧
        ((s.hart h).run.lanesWork = false → t.mem = s.mem) ∧
        ((s.hart h).run.lanesWork = true → s.faultWaits h = false → (s.hart h).vrf = false → (s.hart h).csrv 0x100 ≠ 0 →
          s.imageWritable ((s.hart h).csrv 0x105).toNat = true →
          (t.hart h).pc = (s.hart h).csrv 0x100 ∧ (t.hart h).csrv 0x102 = 0x19 ∧ (t.hart h).vrf = false ∧
          (t.hart h).csrv 0x103 = (s.retired core ||| (1 <<< cluster)).setWidth 64))) ∧
  (∀ (h : Nat) (s : State) (va : Word), h < 4096 → (s.hart h).run = .running → s.waitOut h = none →
    (s.hart h).stalled = some va →
    if s.homeOut (s.party h) va then ∃ t, exec (.drainedDieAccessTimeout h) s = .next t ∧
      TrapEntered ((s.asHart h).withMe fun t => { t with stalled := none }) t 0x0C false (s.hart h).pc va
    else exec (.drainedDieAccessTimeout h) s = .next s) ∧
  ∀ (h : Nat) (s : State) (va : Word) (pg : Page), (s.hart h).run ≠ .free → va.toNat < 2 ^ 52 →
    s.walkFrom va.toNat 5 (s.party h).ptroot.toNat = some pg →
    (∀ a ∈ s.walkPath va.toNat 5 (s.party h).ptroot.toNat, s.unread a = none) →
    ∃ t, exec (.pageWalkComplete h va) s = .next t ∧ t = { s with tlb := t.tlb } ∧
      t.lookup (s.party h).die (s.party h).tenant (s.party h).ptroot va.toNat = some pg

/-! ### Waiting instructions tried again (06_memory_isa R177-R184; 04_scalar R115-R127; 01_machine R19, R25) -/

/-- R19, R25, R119, R120, R122, R127, R177, R180, R184, R207: a step that concerns a waiting instruction of a running hart
executes that instruction again as that hart, a deadline after time has passed; every such execution gives a next state. -/
def Obligations.WaitingInstructionsAreTriedAgain : Prop :=
  ∀ (h : Nat) (s : State) (w : Wait), (s.hart h).run = .running → (s.hart h).wait = some w →
    (∀ f, w.instr = .setvl f → ∃ t, exec (.shareAdoption h) s = .next t ∧ exec (.setvl f) { s with cur := h } = .next t) ∧
    (∀ f, w.instr = .fork f → ∃ t, exec (.forkSplit h) s = .next t ∧ exec (.fork f) { s with cur := h } = .next t) ∧
    (w.instr = .merge → ∃ t, exec (.mergeComplete h) s = .next t ∧ exec .merge { s with cur := h } = .next t) ∧
    (w.instr = .endHart → ∃ t, exec (.endComplete h) s = .next t ∧ exec .endHart { s with cur := h } = .next t ∧
      exec (.sealSend h) s = .next t) ∧
    (∀ f, (w.instr = .phaseRel f ∨ w.instr = .phaseAr f) →
      ∃ t, exec (.sealSend h) s = .next t ∧ exec w.instr { s with cur := h } = .next t) ∧
    (∀ i, (i = .ifence ∨ i = .tret ∨ (∃ f, i = .time f) ∨ (∃ f, i = .phaseAcq f) ∨ (∃ f, i = .ccset f) ∨ (∃ f, i = .lksv f) ∨
        (∃ f, i = .lkld f) ∨ (∃ f, i = .copy f) ∨ (∃ f, i = .copy2 f) ∨ (∃ f, i = .copyx f) ∨ (∃ f, i = .fill f) ∨
        (∃ f, i = .pref f) ∨ (∃ f, i = .coll f) ∨ (∃ f, i = .launch f) ∨ (∃ f, i = .csrr f) ∨ (∃ f, i = .csrw f) ∨
        (∃ f, i = .csrs f) ∨ (∃ f, i = .csrc f)) → w.instr = i →
      ∃ t, exec (.drainedResume h) s = .next t ∧ exec i { s with cur := h } = .next t) ∧
    (∀ i, (i = .wfi ∨ (∃ f, i = .waitc f) ∨ (∃ f, i = .waitt f) ∨ (∃ f, i = .waitg f) ∨ (∃ f, i = .waitwEq f) ∨
        (∃ f, i = .waitwNe f) ∨ (∃ f, i = .waitwGen f) ∨ (∃ f, i = .waitwLtn f) ∨ (∃ f, i = .qpop f) ∨
        (∃ f, i = .qpush f) ∨ ∃ f, i = .mmodeOn f) → w.instr = i →
      (∃ t, exec (.waitReturn h) s = .next t ∧ exec i { s with cur := h } = .next t) ∧
      (∀ u : State, w.deadline ≠ 0 → u = { s.tickTime with cur := h } →
        w.deadline.toNat ≤ (u.die (slotDie h)).ptime.toNat →
        ∃ t, exec (.wdeadlineExpiry h) s = .next t ∧ exec i u = .next t)) ∧
    (∀ i, ((∃ f, i = .waitwEq f) ∨ (∃ f, i = .waitwNe f) ∨ (∃ f, i = .waitwGen f) ∨ (∃ f, i = .waitwLtn f)) →
      w.instr = i → ∃ t, exec (.waitwPoll h) s = .next t ∧ exec i { s with cur := h } = .next t) ∧
    (∀ f core, w.instr = .mmodeOn f → h ∈ coreSlots core →
      (∀ k ∈ coreSlots core, k ≠ h → (s.hart k).wait = none) →
      ∃ t, exec (.tileQueueGrant core) s = .next t ∧ exec (.mmodeOn f) { s with cur := h } = .next t)

/-! ### The region scheduler (14_regions R297-R302; 20_faults R368) -/

/-- R299, R301, R302, R19, R368: a region's one queued initial grant starts a hart of its stage in a free slot; a share reduction past
its grace of 200 us stops its hart, and not before; a boundary, at the next multiple of 320,000 of its die's time, counts for one idle
in QPOP; a unit's acknowledgement, given once it has stopped, is awaited no more, and the last one puts the hart into a locket; and the
division of a core's clusters gives no more than there are and no hart more than it asks for. -/
def Obligations.TheSchedulerGrantsAndStops : Prop :=
  (∀ (r st : Nat) (s u : State), s.schedules = true → (s.region r).done = false → (s.region r).opening = false →
    s.domainStops r = false → (∀ x ∈ (s.region r).stages, 0 < x.queued → s.mayStart r x = true) →
    s.queuedStages r = [st] → ((s.region r).stage st).queued = 1 → s.grantNew r st = some u →
    ∃ (t : State) (h : Nat), exec (.initialGrant r) s = .next t ∧ (s.hart h).run = .free ∧ (t.hart h).run = .running ∧
      (t.hart h).pc = ((s.region r).stage st).entry ∧ (t.hart h).priv = .user ∧ (t.hart h).region = some r ∧
      (t.hart h).stage = st ∧ (t.hart h).xr 11 = BitVec.ofNat 64 st ∧ t.pool.length + 1 = s.pool.length ∧
      ((t.region r).stage st).queued = 0 ∧ ∀ k, k ≠ h → t.hart k = s.hart k) ∧
  (∀ (h k : Nat) (s u : State), u = s.tickTime → (s.hart h).run = .running → (s.hart h).family = none →
    (s.hart h).pending = some k → k < (s.hart h).k →
    if 3200000 ≤ ((u.die (slotDie h)).ptime - (s.hart h).graceAt).toNat then
      ∃ t, exec (.shareGraceExpiry h) s = .next t ∧ t = { u with harts := t.harts, ctxs := t.ctxs } ∧
        t.hart h = { s.hart h with reduced := true, run := .stopping (s.hart h).stopUnits false } ∧
        ∀ j, j ≠ h → t.hart j = s.hart j
    else exec (.shareGraceExpiry h) s = .next u) ∧
  (∀ (h part : Nat) (s : State) (units : List Nat) (park : Bool), (s.hart h).run = .stopping units park → part ∈ units →
    part ∈ [0, 1, 3, 4, 5, 6] →
    if s.unitBusy h part then exec (.unitStopAck h part) s = .next s
    else ((∃ x ∈ units, x ≠ part) → ∃ t, exec (.unitStopAck h part) s = .next t ∧
      t = { s with harts := t.harts, ctxs := t.ctxs } ∧ (∀ k, k ≠ h → t.hart k = s.hart k) ∧
      t.hart h = { s.hart h with run := .stopping (units.filter (· ≠ part)) park, ctxs := (t.hart h).ctxs } ∧
      (part < 5 → t.ctxs = s.ctxs) ∧ (part ≠ 6 → (t.hart h).ctxs = (s.hart h).ctxs) ∧
      ∀ k ∈ (s.hart h).boundKeys, part = (if 1024 ≤ k % 2048 then 6 else 5) → (t.ctx k).stopped = true) ∧
    (∀ (ga r : Nat), (∀ x ∈ units, x = part) → (s.hart h).space = some ga → (s.hart h).region = some r →
      (s.hart h).nb = [] → s.spaceWaits ga (s.hart h).accRows = false → ∃ t, exec (.unitStopAck h part) s = .next t ∧ (t.hart h).run = .free ∧
        ∃ l ∈ t.lockets, l.ga = ga ∧ l.region = r ∧ l.parked = park ∧ l.hart.x = (s.hart h).x ∧ l.hart.v = (s.hart h).v)) ∧
  (∀ (die : Nat) (s : State), s.schedules = true → s.liveDie die = true → s.liveDies.head? ≠ some die →
    Sparse.wf Hart.free s.harts = true → (∀ h, (s.hart h).region = none) → ∃ t, exec (.schedulingInterval die) s = .next t ∧
      t.mem = s.mem ∧
      (die ∈ s.timedDies → (s.die die).ptime.toNat < 2 ^ 63 → (s.die s.timeDie).ptime.toNat < 2 ^ 63 →
        (s.die die).ptime.toNat ≤ (s.die s.timeDie).ptime.toNat + (s.die die).dieTerm →
        (s.die s.timeDie).ptime.toNat ≤ (s.die die).ptime.toNat + (s.die die).dieTerm →
        (t.die die).ptime = BitVec.ofNat 64 (((s.die die).ptime.toNat / 320000 + 1) * 320000)) ∧
      ∀ h w f, slotDie h = die → (s.hart h).run = .running → (s.hart h).wait = some w → w.instr = .qpop f → w.age = 0 →
        t.hart h = { s.hart h with wait := some { w with age := 1 } }) ∧
  (∀ (cs : List Claim) (p avail : Nat), (∀ c ∈ cs, c.demand ∈ [1, 2, 4, 8]) →
    ((divide cs p avail).map fun c => c.got).sum ≤ avail ∧ ∀ c ∈ divide cs p avail, c.got ≤ c.demand)

/-! ### Engines and collective operations (15_io_dies R308-R312; 06_memory_isa R194-R205; 20_faults R374, R375) -/

/-- R191, R194, R196, R309-R311: the context that an I/O die serves starts its next segment; a started segment of memory of this
package writes its bytes and its clasp word and no others, and completes its command when it was the last; a fault it meets, an
error of a host access and a completion timeout fault the context, with its record written and ENGFAULT pending. -/
def Obligations.EnginesPerformSegments : Prop :=
  (∀ (iod : Nat) (s : State), (s.served iod = none → exec (.segmentStart iod) s = .next s) ∧
    ∀ key prio, s.served iod = some (key, prio) → ∃ t, exec (.segmentStart iod) s = .next t ∧
      t = { s with ctxs := t.ctxs, lastServed := t.lastServed } ∧
      (∀ n, Sparse.get 0 t.lastServed n = if n = iod * 16 + prio then key + 1 else Sparse.get 0 s.lastServed n) ∧
      ∀ k, t.ctx k = if k = key then { s.ctx k with inFlight := true } else s.ctx k) ∧
  (∀ (key n : Nat) (s w : State) (c : EngCmd) (rest : List EngCmd) (mv : Move) (bytes : List Byte),
    (s.ctx key).inFlight = true → (s.ctx key).faulted = false → (s.ctx key).eng = c :: rest → key % 2048 < 1024 →
    (∀ h, (s.ctx key).hart = some h → (s.hart h).nb = [] ∧ (s.hart h).drained = true ∧ (s.hart h).vrf = false) →
    (∀ y ∈ rest, (y.op.segment 0).isSome = true) →
    c.wrote = [] → c.xfer = Xfer.none → s.segment (s.ctx key) c = some (.ok mv) →
    ((c.op.segment c.perf).map fun g => g.bytes) = some n →
    (∀ a ∈ c.clasp.toNat :: mv.need ++ locGas mv.src ++ locGas mv.tgt, s.farDev a = none) → (mv.tgt = [] → mv.need = []) →
    bytes = (if mv.src.isEmpty then mv.lit else mv.src.map fun l => s.readByte l.ga) →
    w = ((mv.tgt.zip bytes).foldl (fun (u : State) e => u.writeByte e.1.ga e.2) s) →
    ∃ t, exec (.segmentPerformed key) s = .next t ∧
      (∀ a l, c.op = .pref a l → t.mem = s.mem) ∧ ((∀ a l, c.op ≠ .pref a l) →
        t.mem = (if c.clasp = 0 then w else w.claspAdd c.clasp.toNat n).mem) ∧
      (∀ a, (∀ l ∈ mv.tgt, s.canon l.ga ≠ s.canon a) → (∀ b ∈ gaRange c.clasp.toNat 16, s.canon b ≠ s.canon a) →
        t.readByte a = s.readByte a) ∧
      (if (c.op.segment (c.perf + n)).isSome then
        ∃ c', (t.ctx key).eng = c' :: rest ∧ c'.num = c.num ∧ c'.op = c.op ∧ c'.perf = c.perf + n
      else (t.ctx key).eng = rest ∧ (t.ctx key).completed = c.num ∧ ∀ h, (s.ctx key).hart = some h →
        ((t.hart h).ctxSlot (s.ctx key).slot).completed = c.num)) ∧
  (∀ (key : Nat) (cause : Byte) (side : Nat) (va : Word) (s : State) (c : EngCmd) (rest : List EngCmd) (h : Nat),
    (s.ctx key).eng = c :: rest → key < 4096 → key % 2048 < 1024 → (s.ctx key).hart = some h →
    (s.segmentFault key = some (cause, side, va) → cause ≠ 0x18 → ∃ t, exec (.engineFault key cause side va) s = .next t ∧
      t.mem = s.mem ∧ (t.ctx key).faulted = true ∧ (t.ctx key).recIssue = c.num ∧ (t.ctx key).recVaddr = va ∧
      (t.ctx key).rec0 = BitVec.ofNat 64 (cause.toNat + side * 2 ^ 8 + 2 ^ 10) ∧
      (t.ctx key).recPerf = BitVec.ofNat 64 c.perf ∧ (t.hart h).engFault = true ∧
      ((t.hart h).ctxSlot (s.ctx key).slot).faulted = true) ∧
    ((s.ctx key).inFlight = true → (s.ctx key).faulted = false →
      exec (.hostCompletion key true) s = .next s ∧
      ∃ t, exec (.hostCompletion key false) s = .next t ∧ exec (.completionTimeout key) s = .next t ∧ t.mem = s.mem ∧
        (t.ctx key).faulted = true ∧ (t.ctx key).rec0 = BitVec.ofNat 64 (0x0C + 3 * 2 ^ 8 + 2 ^ 10) ∧
        (t.ctx key).recIssue = c.num ∧ (t.hart h).engFault = true)) ∧
  ∀ (h n : Nat) (ok : Bool) (s : State), h < 1024 → (∃ e ∈ (s.hart h).sealing, e.1 = 2 ^ 14 + 8 + n) →
    exec (.hostCompletion (4096 + 1024 * n + h) ok) s = .next (s.setHart h
      { s.hart h with sealing := (s.hart h).sealing.filter fun e => e.1 ≠ 2 ^ 14 + 8 + n })

/-- R199, R263, R204, R311, R323, R324, R374, R375: a due ordered write is applied, and completes, at a member, and completes at its
root; a member whose operation stands at a parked one faults with REASON 1 once it has waited its park limit, and not before; told that
another one is parked, its records go again and that time begins, with a limit of 0 reached at once; told that another one has faulted,
it faults with REASON 0; a contribution from another device takes its place in its operation once all of its bytes have come, and once,
one whose word differs faults every member with REASON 2, and one for another device goes on. -/
def Obligations.CollectiveOperationsProceed : Prop :=
  (∀ (key h : Nat) (s u : State) (m : CollCmd), u = s.tickTime → (s.ctx key).faulted = false →
    u.dueCmd key = some m → (s.ctx key).coll = [m] → (s.ctx key).hart = some h → 1024 ≤ key % 2048 →
    ∃ t, exec (.multicastApply key) s = .next t ∧
      (m.rank = collRoot m.word → t.mem = s.mem ∧ (t.ctx key).coll = [] ∧
        ((t.hart h).ctxSlot ((s.ctx key).slot + 8)).completed = m.num) ∧
      ∀ (g : CollMsg) (locs : List Loc), m.rank ≠ collRoot m.word → m.xfer = Xfer.none →
        (u.collOp m.group m.index).given.find? (fun x => x.ranks.contains (collRoot m.word)) = some g →
        u.segSide ((u.ctx key).party m.user) .bulkWr 1 (m.buf + 0) g.data.length = .ok locs →
        (∀ l ∈ locs, s.farDev l.ga = none) →
        t.mem = ((locs.zip g.data).foldl (fun (v : State) e => v.writeByte e.1.ga e.2) u).mem ∧ (t.ctx key).coll = [] ∧
        ((t.hart h).ctxSlot ((s.ctx key).slot + 8)).completed = m.num) ∧
  (∀ (key h : Nat) (s u : State) (m : CollCmd), (s.ctx key).current = some m → (s.ctx key).hart = some h →
    1024 ≤ key % 2048 → (s.ctx key).faulted = false → (s.ctx key).stopped = false →
    Sparse.wf Ctx.empty s.ctxs = true → u = s.tickTime →
    (∀ (t0 lim : Word), (s.ctx key).parkSince = some (t0, lim) →
      if s.parkedOp key m = true ∧ s.mailbox.state ≠ .retained ∧ s.mailbox.state ≠ .resuming then
        if lim.toNat ≤ ((u.die (key / 2048 + 8)).ptime - t0).toNat then
          ∃ t, exec (.parkLimitExpiry key) s = .next t ∧ t.mem = s.mem ∧ (t.ctx key).faulted = true ∧
            (t.ctx key).rec0 = BitVec.ofNat 64 (0x14 + 2 ^ 10 + 1 * 2 ^ 16) ∧ (t.ctx key).recIssue = m.num ∧
            (t.hart h).collFault = true
        else exec (.parkLimitExpiry key) s = .next u
      else exec (.parkLimitExpiry key) s = .next s) ∧
    ((s.ctx key).parkSince = none → (s.farDevs m.group ≠ [] ∨
        ∃ c ∈ s.opCmds m.group m.index, c.1 ≠ key ∧ (s.ctx c.1).stopped = true) →
      ∃ t, exec (.parked key) s = .next t ∧ t.mem = s.mem ∧ (∀ x ∈ s.sentFor m, x ∈ t.collOut) ∧
        if (u.die (key / 2048 + 8)).parklim = 0 then (t.ctx key).faulted = true ∧
          (t.ctx key).rec0 = BitVec.ofNat 64 (0x14 + 2 ^ 10 + 1 * 2 ^ 16) ∧ (t.hart h).collFault = true
        else t.harts = s.harts ∧ (t.ctx key).parkSince =
          some ((u.die (key / 2048 + 8)).ptime, (u.die (key / 2048 + 8)).parklim)) ∧
    (if s.failedOp m then ∃ t, exec (.aborted key) s = .next t ∧ t.mem = s.mem ∧ (t.ctx key).faulted = true ∧
        (t.ctx key).rec0 = BitVec.ofNat 64 (0x14 + 2 ^ 10) ∧ (t.hart h).collFault = true
      else exec (.aborted key) s = .next s)) ∧
  (∀ (dest : Nat) (r : Record) (p : CollPart) (m : CollMsg) (s : State), r.coll = some p → m = { p.msg with data := r.data } →
    (∀ x ∈ s.collIn, sameMsg r x = false) →
    (r.data.length < p.total → exec (.colldata ⟨dest, r⟩) s = .next { s with collIn := s.collIn ++ [r] }) ∧
    (p.total ≤ r.data.length →
      (dest ≠ s.chip → collNodes m.word = false → exec (.colldata ⟨dest, r⟩) s =
        .next { s with collOut := s.collOut ++ [⟨dest, false, { r with coll := none, data := [] }, m⟩] }) ∧
      (dest = s.chip → (∀ e ∈ m.group, endDev e ≠ s.chip) → exec (.colldata ⟨dest, r⟩) s = .next s) ∧
      (dest = s.chip → (∃ e ∈ m.group, endDev e = s.chip) → (s.collOp m.group m.index).fate = none →
        ((∀ g ∈ (s.collOp m.group m.index).given, g.word = m.word) →
          (∀ c ∈ s.opCmds m.group m.index, c.2.word = m.word) →
          ((∃ g ∈ (s.collOp m.group m.index).given, g.ranks = m.ranks ∧ g.level = m.level) →
            exec (.colldata ⟨dest, r⟩) s = .next s) ∧
          ((∀ g ∈ (s.collOp m.group m.index).given, ¬ (g.ranks = m.ranks ∧ g.level = m.level)) →
            collOrdered m.word = false → collNodes m.word = false → (∀ c ∈ s.ctxs, c.2.coll = []) →
            ∃ t, exec (.colldata ⟨dest, r⟩) s = .next t ∧ t = { s with collOps := t.collOps, fresh := t.fresh } ∧
              (t.collOp m.group m.index).given = (s.collOp m.group m.index).given ++ [m])) ∧
        ((∃ g ∈ (s.collOp m.group m.index).given, g.word ≠ m.word) → Sparse.wf Ctx.empty s.ctxs = true →
          ∃ t, exec (.colldata ⟨dest, r⟩) s = .next t ∧ t.mem = s.mem ∧
            ∀ c ∈ (s.collOp m.group m.index).joined, (t.ctx c.1).faulted = true ∧
              ((s.ctx c.1).faulted = false →
                (t.ctx c.1).rec0 = BitVec.ofNat 64 (0x14 + 2 ^ 10 + 2 * 2 ^ 16))))))

/-! ### Records at their home (18_fabric R329, R336; 10_consistency R257; 08_prog_histogram R227) -/

/-- R165, R227, R257, R329, R336: a record of this device's memory, no seal waiting, is performed: READ answers with the
bytes, WRITE and WRITEB write theirs, ATOMIC and COMBINED apply their operands in order and answer with the old value where
it is asked for (COMBINED's element count of 8 bytes and the place of CAS's compare values are the model's, log entry 41); a
record of register space acts on the registers; one whose home is out of service or being zeroed is kept there (the model's
way to wait, log entry 52), and a poisoned line is logged and not delivered; an answer reaches whoever asked with its TAG; SEAL
is acknowledged once its count has been performed, and SEALACK ends the wait for that seal; PERFACK lists what has been
performed, and frees what it lists. Of a hart that waits for a word, what its home has seen may change as well (06_memory_isa R184). -/
def Obligations.RecordsArePerformedAtTheirHome : Prop :=
  (∀ (i : Instr) (o : BitVec 8) (r q : Record) (s : State) (a n : Nat), a = r.addr.toNat → q = { r with op := o } →
    n = recordBytes q →
    (i, o) ∈ ([(.read r, 0x01), (.write r, 0x02), (.writeb r, 0x03), (.atomic r, 0x04), (.combined r, 0x05)] :
      List (Instr × BitVec 8)) → s.homed r n = true →
    ((∃ b ∈ gaRange a n, s.mustWait b = true) →
      exec i s = .next { s with held := s.held ++ [(false, q)] }) ∧
    ((∀ b ∈ gaRange a n, s.mustWait b = false) →
      (i = .read r → recordIsReg r = true →
        ∃ t, exec i s = .next t ∧ t.mem = s.mem ∧ (∀ h, t.hart h = { s.hart h with wait := (t.hart h).wait }) ∧
          t.dies = s.dies ∧ Answered s t r 0x06 (natBytes r.len (s.regLoad false a r.len))) ∧
      (i = .write r → recordIsReg r = true → exec i s = .next (State.performedRecord
        (s.regStore false true a r.data.length (bytesNat r.data)) q).noticeAll) ∧
      (recordIsReg r = false → (∃ b ∈ gaRange a n, s.poisoned b = true) → o ≠ 0x02 → o.toNat < 4 →
        exec i s = .next (s.logDie (s.homeDie a) (errorUnit a) a).noticeAll) ∧
      (i = .read r → recordIsReg r = false → (∀ b ∈ gaRange a n, s.poisoned b = false) →
        ∃ t, exec i s = .next t ∧ t.mem = s.mem ∧ (∀ h, t.hart h = { s.hart h with wait := (t.hart h).wait }) ∧
          Answered s t r 0x06 ((gaRange a r.len).map s.readByte)) ∧
      (i = .write r → recordIsReg r = false → s.pendSeals = [] → s.poisonedAt a n = false →
        ∃ t, exec i s = .next t ∧ Performed s t q (s.writeBytes a r.data).mem ∧
          (∀ b ∈ gaRange a n, t.poisoned b = false) ∧
          ∀ b, (∀ c ∈ gaRange a n, s.canon c ≠ s.canon b) → t.readByte b = s.readByte b) ∧
      (i = .writeb r → recordIsReg r = false → s.pendSeals = [] → (∀ b ∈ gaRange a n, s.poisoned b = false) →
        ∃ t, exec i s = .next t ∧ Performed s t q ((List.range n).foldl (fun (s : State) i =>
          s.performByte ⟨a + i, r.data.getD i 0, r.data.getD (n + i) 0⟩) s).mem) ∧
      (∀ (k cw op : Nat) (ty : BitVec 4) (m : Nat), ((i = .atomic r ∧ k = 8) ∨ (i = .combined r ∧ k = 16)) →
        cw = bytesNat (r.data.take 8) → op = cw % 16 → ty = BitVec.ofNat 4 (cw / 16) → op ≤ 12 → n ≠ 0 →
        recordIsReg r = false → s.pendSeals = [] → (∀ c ∈ gaRange a n, s.poisoned c = false) → m = s.readGa a n →
        s.headers.contains (s.canon a) = false →
        ∃ t, exec i s = .next t ∧ Performed s t q (s.writeGa a n
          ((atomicArgs (op = 9) n r.data.length (r.data.drop k)).foldl (fun m x => atomicOp op ty m x.1 x.2) m)).mem ∧
          if cw.testBit 8 = true then Answered s t r 0x07 (natBytes n m)
          else t.outbox = s.outbox ∧ t.conns = s.conns))) ∧
  (∀ (r : Record) (s : State) (i : Instr),
    (i = .readresp r ∨ i = .atomresp r → ∃ t, exec i s = .next t ∧ t.mem = s.mem ∧
      (∀ h, t.hart h = { s.hart h with
          asks := (s.hart h).asks.map (Ask.take r.srcDev r.tag r.data)
          nb := (t.hart h).nb
          tracked := (t.hart h).tracked } ∧
        (∀ o ∈ (t.hart h).nb, ∀ x ∈ o.asks, x.dev = r.srcDev → x.tag = r.tag → x.settled = true) ∧
        ((s.hart h).awaits r.srcDev (some r.tag) = true →
          ∀ x ∈ (t.hart h).tracked, ¬ (x.dev = r.srcDev ∧ x.rcd.tag = r.tag))) ∧
      ∀ k, t.ctx k = (s.ctx k).mapXfers fun f => { f with asks := f.asks.map (Ask.take r.srcDev r.tag r.data) }) ∧
    (i = .seal r → s.pendSeals = [] → ∃ t, exec i s = .next t ∧ t.mem = s.mem ∧ t.harts = s.harts ∧
      if r.addr.toNat % 2 ^ 32 ≤ Sparse.get 0 s.sealCount (recordSource r) then
        Answered s t r 0x09 [] ∧ t.pendSeals = [] ∧ Sparse.get 0 t.sealCount (recordSource r) =
          Sparse.get 0 s.sealCount (recordSource r) - r.addr.toNat % 2 ^ 32
      else t.pendSeals = [r]) ∧
    (i = .sealack r → ∃ t, exec i s = .next t ∧ t = { s with harts := t.harts } ∧
      ∀ h, t.hart h = { s.hart h with sealing := (s.hart h).sealing.filter (· ≠ (r.srcDev, r.tag)) }) ∧
    (i = .perfack r → ∃ t, exec i s = .next t ∧ t.mem = s.mem ∧
      (∀ h, t.hart h = { s.hart h with
          nb := (s.hart h).nb.map fun o => { o with tags := o.tags.filter fun x =>
            !(decide (x.1 = r.srcDev) && (recordTags r).contains x.2) }
          tracked := (t.hart h).tracked } ∧
        ∀ x ∈ (t.hart h).tracked, ¬ (x.dev = r.srcDev ∧ x.rcd.tag ∈ recordTags r)) ∧
      ∀ k, t.ctx k = (s.ctx k).mapXfers fun f => { f with acks := f.acks.filter fun x =>
        !(decide (x.1 = r.srcDev) && (recordTags r).contains x.2) })) ∧
  (∀ (die : Nat) (s : State) (mine now : List Record) (q : Record), mine = s.perfacks.filter (fun r => s.homeDie r.addr.toNat = die) →
    now = (mine.filter fun r => (r.srcDev, r.srcDie) = (q.srcDev, q.srcDie)).take 32 →
    (mine = [] → exec (.perfackSendTimer die) s = .next s) ∧
    (mine.head? = some q → ∃ (t : State) (x : Record), exec (.perfackSendTimer die) s = .next t ∧ t.mem = s.mem ∧
      t.harts = s.harts ∧ t.perfacks = s.perfacks.filter (fun r => !now.contains r) ∧ Sent s t q.srcDev q.srcDie x ∧
      x.op = 0x0C ∧ x.data = natBytes 4 now.length ++ now.flatMap fun r => natBytes 4 r.tag.toNat))

/-! ### Connections, channels and slots (18_fabric R326-R341) -/

/-- R334, R335, R337, R338, R341, R349, R391: a port that takes a frame discards and counts a malformed or misrouted one, keeps one to
be relayed for its onward hop while there is credit, and acts on a time message by its TYPE; an acknowledgement frees what it covers, a
duplicate delivers nothing, and a frame that is next in order is counted for its acknowledgement and its records are handed on; a relayed
frame leaves by its onward pairing. A restart, a frame that is to be sent again, waiting records in a frame with the next SEQ while the
window has room, and an acknowledgement that is due leave in a slot of their path (which path is taken is free, log entry 52); a timer
has frames sent again, or acknowledged, or fails the peer, in the time of the connection's I/O die; a peer is marked down and readmitted;
spilled state is filled. -/
def Obligations.ConnectionsCarryFrames : Prop :=
  (∀ (d port : Nat) (f : Frame) (s w : State), (d = 8 ∨ d = 9) → w = (s.meterIn d port f.good).hearPath f →
    ((s.asleep = true ∨ s.takesFrame port f = false) → exec (.frameReceive d ⟨port, f⟩) s = .next s) ∧
    (s.asleep = false → s.takesFrame port f = true →
      (f.etype ≠ 0x88B5 → exec (.frameReceive d ⟨port, f⟩) s = .next w) ∧
      (f.etype = 0x88B5 → w.malformed f = true → exec (.frameReceive d ⟨port, f⟩) s =
        .next (w.setDie d { w.die d with discard := (w.die d).discard + 1 })) ∧
      (f.etype = 0x88B5 → w.malformed f = false →
        (f.ddev ≠ s.chip →
          ((f.relay = false ∨ w.switched port = true) → exec (.frameReceive d ⟨port, f⟩) s =
            .next (w.setDie d { w.die d with discard := (w.die d).discard + 1 })) ∧
          (f.relay = true → w.switched port = false → exec (.frameReceive d ⟨port, f⟩) s =
            .next (if w.relay.length < Config.relayRoom then
              { w with relay := w.relay ++ [(!w.plainPort d port, f.hopped)] } else w))) ∧
        (f.ddev = s.chip → f.cls = 3 → ∀ (ty : Nat) (m : TimeMsg) (v : State), timeMessage f.sdev f.time = some (ty, m) →
          v = { w with time := { w.time with
            terms := (m.src, m.bound.toNat) :: w.time.terms.filter fun e => e.1 ≠ m.src } } →
          ∀ i, (ty, i) ∈ [(0, Instr.sync m), (1, .follow m), (2, .dreq m), (3, .dresp m), (4, .announce m)] →
            exec (.frameReceive d ⟨port, f⟩) s = exec i v) ∧
        (f.ddev = s.chip → f.cls ≠ 3 → ∀ (u : State) (c : Conn), u = w.hear f.sdev → c = u.conn f.sdev →
          ((w.conn f.sdev).down = true → f.rst = false → exec (.frameReceive d ⟨port, f⟩) s = .next w) ∧
          (c.spilled = true → (c.down = false ∨ f.rst = true) → exec (.frameReceive d ⟨port, f⟩) s =
            .next (u.setConn f.sdev { c with arrived := c.arrived ++ [f] })) ∧
          (c.spilled = false → f.rst = true →
            (c.down = true → c.readmit = false → exec (.frameReceive d ⟨port, f⟩) s = .next u) ∧
            (c.down = true → c.readmit = true → c.rstSent = true → ∃ t, exec (.frameReceive d ⟨port, f⟩) s = .next t ∧
              t = { u with conns := t.conns, present := t.present } ∧ f.sdev ∈ t.present ∧
              (t.conn f.sdev).down = false ∧ (t.conn f.sdev).failed = false ∧ (t.conn f.sdev).readmit = false) ∧
            (c.down = false → (c.nextSeq ≠ 0 ∨ c.expect ≠ 0 ∨ c.got ≠ []) → ∃ t, exec (.frameReceive d ⟨port, f⟩) s = .next t ∧
              (t.conn f.sdev).nextSeq = 0 ∧ (t.conn f.sdev).expect = 0 ∧ (t.conn f.sdev).rstWant = true ∧
              (t.conn f.sdev).unacked = [])) ∧
          (c.spilled = false → c.down = false → f.rst = false →
            (f.ackonly = true → ∃ t, exec (.frameReceive d ⟨port, f⟩) s = .next t ∧ t = { u with conns := t.conns } ∧
              (t.conn f.sdev).expect = c.expect ∧ (t.conn f.sdev).ackDue = c.ackDue ∧
              ∀ x, x ∈ (t.conn f.sdev).unacked ↔ x ∈ c.unacked ∧ ¬ (seqBefore x.2.seq f.ack = true ∨
                (f.sackp = true ∧ ∃ i, i < 64 ∧ f.sack.getLsbD i = true ∧ x.2.seq = f.ack + 1 + BitVec.ofNat 24 i))) ∧
            (f.ackonly = false → seqBefore f.seq c.expect = true → ∃ t, exec (.frameReceive d ⟨port, f⟩) s = .next t ∧
              t = { u with conns := t.conns } ∧ (t.conn f.sdev).ackDue = c.ackDue + 1 ∧ (t.conn f.sdev).expect = c.expect ∧
              (32 ≤ c.ackDue + 1 → (t.conn f.sdev).ackWant = true)) ∧
            (f.ackonly = false → f.seq = c.expect → c.got = [] → c.early = [] →
              ∃ v, exec (.frameReceive d ⟨port, f⟩) s = .next (f.recs.foldl (State.deliver · (decide (f.cls = 0)) ·) v) ∧
                v = { u with conns := v.conns } ∧ (v.conn f.sdev).expect = c.expect + 1 ∧
                (v.conn f.sdev).ackDue = c.ackDue + 1 ∧ (32 ≤ c.ackDue + 1 → (v.conn f.sdev).ackWant = true))))))) ∧
  (∀ (d q : Nat) (x : Bool × Frame) (l : List (Bool × Frame)) (s u : State), (d = 8 ∨ d = 9) → u = s.tickTime → s.relay = x :: l →
    (diePorts d).find? (fun q => decide (u.peerOf q (slotShift q (u.slotOf q)) = x.2.ddev) &&
      u.usable x.1 q (slotShift q (u.slotOf q)) && u.canStart d x.2.size) = some q →
    if u.silent ∨ u.asleep ∨ u.swmode then exec (.relayForward d) s = .next u
    else ∃ t, exec (.relayForward d) s = .next t ∧ t = { u with relay := l, frames := t.frames, meters := t.meters } ∧
      t.frames = s.frames ++ [(pairKey q (slotShift q (u.slotOf q)), x.2)] ∧
      (Sparse.get Meter.zero t.meters (pairKey q (slotShift q (u.slotOf q)))).carried = true) ∧
  (∀ (d p : Nat) (s u : State) (c : Conn), (d = 8 ∨ d = 9) → c = s.conn p → p ≠ s.chip → u = s.tickTime →
    (s.iodUp d = true → s.asleep = false → c.spilled = false → (∀ x ∈ s.collOut, x.dest ≠ p) →
      (∀ w, c.rstWant = true → u.way d p 2 28 false false = some w →
        ∃ (t : State) (f : Frame), exec (.frameTransmit d p) s = .next t ∧ t.frames = s.frames ++ [(wayKey w, f)] ∧
          f.rst = true ∧ f.recs = [] ∧ f.ddev = p % 2 ^ 14 ∧ (t.conn p).rstWant = false ∧
          (if c.down = true ∧ c.readmit = true ∧ c.rstGot = true then p ∈ t.present ∧ (t.conn p).down = false
            else (t.conn p).rstSent = true)) ∧
      (c.rstWant = false → c.down = false → c.failed = false →
        (∀ (x : Bool × Frame) (w : Option Way) (l : List (Bool × Frame)), c.unacked = x :: l → x.2.seq ∈ c.again →
          u.way d p x.2.cls x.2.size x.1 true = some w →
          ∃ (t : State) (f : Frame), exec (.frameTransmit d p) s = .next t ∧ t.frames = s.frames ++ [(wayKey w, f)] ∧
            f.recs = x.2.recs ∧ f.cls = x.2.cls ∧ f.seq = x.2.seq ∧ f.ack = c.expect ∧ f.ddev = p % 2 ^ 14 ∧
            (t.conn p).unacked = c.unacked ∧ (∀ n, n ∈ (t.conn p).again ↔ n ∈ c.again ∧ n ≠ x.2.seq) ∧
            (t.conn p).ackDue = 0 ∧ t.harts = s.harts ∧ (c.up = true → t.mem = s.mem)) ∧
        (∀ (o : Outgoing) (l out : List Outgoing) (sec : Bool) (w : Option Way), c.again = [] → c.waiting = o :: l →
          out = frameful o.cls o.die 16 2048 c.waiting → out ≠ [] → sec = out.any (·.sec) → c.unacked.length < 512 →
          u.way d p o.cls (28 + recsBytes (out.map (·.rcd))) sec false = some w →
          ∃ (t : State) (f : Frame), exec (.frameTransmit d p) s = .next t ∧ t.frames = s.frames ++ [(wayKey w, f)] ∧
            f.recs = out.map (·.rcd) ∧ f.cls = o.cls % 4 ∧ f.seq = c.nextSeq ∧ f.ack = c.expect ∧ f.ddev = p % 2 ^ 14 ∧
            f.ddie = o.die % 16 ∧ f.nrec = out.length ∧ f.relay = wayRelay w ∧
            (t.conn p).nextSeq = c.nextSeq + 1 ∧ (t.conn p).unacked = c.unacked ++ [(sec, f)] ∧
            (t.conn p).waiting = c.waiting.drop out.length ∧ (t.conn p).ackDue = 0 ∧ (c.up = true → t.mem = s.mem) ∧
            t.harts = s.harts) ∧
        (c.again = [] → (c.waiting = [] ∨ 512 ≤ c.unacked.length) → (0 < c.ackDue ∨ c.ackWant = true) →
          match u.way d p 2 28 false false with
          | none => exec (.frameTransmit d p) s = .next u
          | some w => ∃ (t : State) (f : Frame), exec (.frameTransmit d p) s = .next t ∧
              t.frames = s.frames ++ [(wayKey w, f)] ∧ f.ddev = p % 2 ^ 14 ∧ f.ackonly = true ∧ f.ack = c.expect ∧
              (t.conn p).ackDue = 0 ∧ (t.conn p).ackWant = false ∧ (t.conn p).nextSeq = c.nextSeq))) ∧
    exec (.ackTimer p) s = .next (if 0 < c.ackDue ∧ c.down = false ∧ c.spilled = false ∧ s.asleep = false then
      s.setConn p { c with ackWant := true } else s) ∧
    exec (.keepaliveTimer p) s = .next (if c.up = true ∧ c.down = false ∧ c.spilled = false ∧ s.asleep = false ∧
        8000000 ≤ ((u.die (s.connDie p)).ptime - c.sentAt).toNat then u.setConn p { c with ackWant := true } else u) ∧
    (if c.unacked ≠ [] ∧ c.failed = false ∧ c.down = false ∧ c.spilled = false ∧ s.asleep = false ∧
        16000 * c.retryUs ≤ ((u.die (s.connDie p)).ptime - c.retryAt).toNat then
      ∃ t, exec (.retryTimerExpiry p) s = .next t ∧ t.frames = s.frames ∧ (t.conn p).again = c.unacked.map (·.2.seq) ∧
        (t.conn p).retryUs = min (2 * c.retryUs) 2000 ∧ (t.conn p).expiries = c.expiries + 1 ∧
        (t.conn p).failed = decide (8 ≤ c.expiries + 1) ∧
        (c.expiries + 1 < 8 → t.mem = s.mem ∧ t.harts = s.harts ∧ t.ctxs = s.ctxs) ∧
        (8 ≤ c.expiries + 1 → ∀ h, (t.hart h).owed p = false ∧ ∀ x ∈ (t.hart h).sealing, x.1 ≠ p)
    else exec (.retryTimerExpiry p) s = .next u) ∧
    (if (c.failed = true ∨ (c.up = true ∧ 32000000 ≤ ((u.die (s.connDie p)).ptime - c.heard).toNat)) ∧ c.down = false ∧
        s.asleep = false then
      ∃ t, exec (.peerMarkDown p) s = .next t ∧ (t.conn p).down = true ∧ (t.conn p).failed = true ∧ p ∉ t.present ∧
        (∀ f ∈ t.frames, f.2.ddev ≠ p) ∧ (∀ h, (t.hart h).owed p = false ∧ ∀ x ∈ (t.hart h).sealing, x.1 ≠ p) ∧
        ((∀ e ∈ s.harts, e.2.owed p = false ∧ ∀ x ∈ e.2.sealing, x.1 ≠ p) → t.mem = s.mem)
    else exec (.peerMarkDown p) s = .next u) ∧
    exec (.rst p) s = .next (if c.readmit = true ∧ c.down = true ∧ p ∈ s.peers ∧ (c.trained = true ∨ s.faces p = false) then
      s.setConn p { c with rstWant := true } else s) ∧
    (c.up = true → c.spilled = true → c.arrived = [] → ∃ t, exec (.connectionStateFill p) s = .next t ∧
      t.conn p = { c with spilled := false, arrived := [] } ∧
      (t.die (s.connDie p)).spill = (s.die (s.connDie p)).spill + 1 ∧ t.harts = s.harts))

/-- R326, R327, R328, R330, R332, R340: the bead takes one hold of a writer's waiting records to the reader, those of the ordered class
on their hart's channel alone, or the first hold that it is to send again, and goes on to the next writer; a reader performs the records
of the oldest hold in flight of its writer when that is the next one, and discards, counts and has sent again one whose CRC is bad or
that comes while it does not accept; a bead lost stops the channel, which starts again in the other generation; a slot begins at its
number and what had been sent by the die's ports has arrived; a pairing of the slot that does not lock must be trained. -/
def Obligations.ChannelsAndSlotsMoveOn : Prop :=
  (∀ (d ch w : Nat) (s : State) (c : Chan), d < 10 → ch < 8 → c = (s.die d).chan ch →
    (w ≠ c.at d → exec (.beadArrival d ch w) s = .next s) ∧
    (w < 10 → w = c.at d →
      (∀ x, c.again.find? (fun x => x.writer = w) = some x → exec (.beadArrival d ch w) s = .next
        { s.setChan d ch { c with bead := nextWriter d w, again := c.again.erase x } with
          holdsOut := s.holdsOut ++ [(d, ch, { x with gen := c.gen })] }) ∧
      ∀ sent, c.again.find? (fun x => x.writer = w) = none →
        sent = holdful 1024 (s.outbox.filter fun x => decide (x.die = d ∧ s.writerOf x.rcd = w) && decide (x.cls ≠ 0 ∨
          ch = (x.rcd.shart.toNat / 8 % 16 + x.rcd.shart.toNat % 8) % 8)) →
        exec (.beadArrival d ch w) s = .next (if sent = [] then s.setChan d ch { c with bead := nextWriter d w }
          else { s.setChan d ch { c with
              bead := nextWriter d w
              wseqs := Sparse.set 0 c.wseqs w (Sparse.get 0 c.wseqs w + 1) } with
            outbox := s.outbox.filter fun x => !sent.contains x
            holdsOut := s.holdsOut ++
              [(d, ch, ⟨w, Sparse.get 0 c.wseqs w, c.gen, true, sent.map fun x => (decide (x.cls = 0), x.rcd)⟩)] })) ∧
    (∀ hold : Hold, hold.writer < 10 → hold.writer ≠ d →
      (s.flying d ch hold.writer = none → exec (.holdReceive d ch hold) s = .next s) ∧
      ∀ x n, s.flying d ch hold.writer = some x → n = Sparse.get 0 c.seqs hold.writer →
        (hold.good = false → exec (.holdReceive d ch hold) s = .next
          { s.setChan d ch { c with crcerr := c.crcerr + 1, resent := c.resent + 1, again := c.again ++ [x.2.2] } with
            holdsOut := s.holdsOut.erase x }) ∧
        (hold.good = true → hold ≠ x.2.2 → exec (.holdReceive d ch hold) s = .next s) ∧
        (hold.good = true → hold = x.2.2 →
          ((c.accepting = false ∨ hold.gen ≠ c.gen ∨ (hold.seq ≠ n ∧ 128 ≤ (n - hold.seq).toNat)) →
            exec (.holdReceive d ch hold) s = .next
              { s.setChan d ch { c with resent := c.resent + 1, again := c.again ++ [x.2.2] } with
                holdsOut := s.holdsOut.erase x }) ∧
          (c.accepting = true → hold.gen = c.gen → hold.seq ≠ n → (n - hold.seq).toNat < 128 →
            exec (.holdReceive d ch hold) s = .next { s with holdsOut := s.holdsOut.erase x }) ∧
          (c.accepting = true → hold.gen = c.gen → hold.seq = n →
            exec (.holdReceive d ch hold) s = .next (hold.recs.foldl (fun s r => s.deliver r.1 r.2)
              { s.setChan d ch { c with seqs := Sparse.set 0 c.seqs hold.writer (n + 1) } with
                holdsOut := s.holdsOut.erase x })))) ∧
    exec (.beadTimeout d ch) s = .next (s.setChan d ch { c with accepting := false }) ∧
    exec (.beadRegenerate d ch) s = .next (if c.accepting then s else
      s.setChan d ch { c with gen := !c.gen, accepting := true, regen := c.regen + 1, bead := nextWriter d d })) ∧
  (∀ (d : Nat) (s u : State), (d = 8 ∨ d = 9) → u = s.tickTime →
    (s.swmode = true → exec (.slotBegin d) s = .next s) ∧
    (s.swmode = false → ∃ t, exec (.slotBegin d) s = .next t ∧ t.mem = s.mem ∧ t.harts = s.harts ∧
      (t.die d).slot = ((u.die d).ptime - s.epoch).toNat / 32000 ∧
      ∀ f, f ∈ t.frames ↔ f ∈ s.frames ∧ (portIod (f.1 / 256) ≠ d ∨ 2 ^ 16 ≤ f.1))) ∧
  (∀ (d port shift : Nat) (s : State), (d = 8 ∨ d = 9) → port ∈ diePorts d →
    exec (.lockTimeout d port shift) s = .next (if s.swmode = false ∧ pairKey port shift = s.slotPair port ∧
        Sparse.get 0 s.training (pairKey port shift) = 0 ∧ pairKey port shift ∉ s.spent then
      { s with training := Sparse.set 0 s.training (pairKey port shift) 1 } else s))

/-! ### Registers and the host (09_address R246, R390; 15_io_dies R313, R314; 20_faults R375) -/

/-- R246, R313, R314, R341, R375, R390: TLBINV drops the translations of its die that it names and the die's window copies, and
a store of its reserved half does nothing; PEERUP readmits a peer that is down; only a secure supervisor hart sets PARKLIM; a
store to a register does what the register does, and a reserved mailbox command is done with STATUS 1 (R386); on a link that has trained the host writes and reads registers through BAR0 and
device memory through BAR2 while it is open, a read after every posted write of its link, a posted write in order unless its
Relaxed Ordering attribute is set; a read that must wait for its home, or for a posted write before it that must, is kept; one
that the device does not perform is answered so. -/
def Obligations.RegistersAndTheHostWindow : Prop :=
  (∀ (d : Nat) (v : Word) (s : State), s.liveDie d = true →
    (∃ t, exec (.tlbinv d v) s = .next t ∧ exec (.registerWrite d 0x1080 8 v) s = .next t ∧
      t = { s with tlb := t.tlb, windows := t.windows } ∧
      (∀ e, e ∈ t.tlb ↔ e ∈ s.tlb ∧ ¬ (e.die = d ∧ (v.getLsbD 17 = true ∨ e.tenant = v &&& 0x1FFFF))) ∧
      ∀ w, w ∈ t.windows ↔ w ∈ s.windows ∧ w.1 % 16 ≠ d) ∧
    exec (.registerWrite d 0x1084 4 v) s = .next s) ∧
  (∀ (d p : Nat) (v : Word) (s : State), (d = 8 ∨ d = 9) → p = (v.extractLsb' 0 14).toNat →
    (p ∈ s.peers → (s.conn p).down = true → ∃ t, exec (.peerup d v) s = .next t ∧ t = { s with conns := t.conns } ∧
      t.conn p = { s.conn p with readmit := true }) ∧
    ((p ∉ s.peers ∨ (s.conn p).down = false) → exec (.peerup d v) s = .next s)) ∧
  (∀ (d h : Nat) (v : Word) (s : State), (d = 8 ∨ d = 9) →
    (((s.hart h).run ≠ .free ∧ (s.hart h).priv = .supervisor ∧ (s.hart h).secure = true) →
      exec (.parklim d h v) s = .next (s.setDie d { s.die d with parklim := v })) ∧
    (((s.hart h).priv = .user ∨ (s.hart h).secure = false) → exec (.parklim d h v) s = .next s)) ∧
  (∀ (d off w : Nat) (v : Word) (s : State), (s.liveDie d = true ∨ d = 8 ∨ d = 9) → w ∈ [1, 2, 4, 8] → off % w = 0 →
    off < 0x800000 →
    exec (.registerWrite d off w v) s = .next (s.regStore false false (mkGa s.chip d 3 off) w v.toNat)) ∧
  (∀ (v : Word) (s : State) (c : Byte), c = v.extractLsb' 0 8 → c ∉ [0x01, 0x02, 0x10, 0x11, 0x12, 0x20, 0x21, 0x30, 0x31] →
    (s.mailbox.cmd = 0 ∨ s.mailbox.done = true) → exec (.registerWrite 8 0x700000 1 v) s =
      .next { s with mailbox := { s.mailbox with cmd := c, done := true, status := 1, nonsecure := false } }) ∧
  (∀ (link d r off : Nat) (data : List Byte) (s : State), s.hasLink link = true →
    (∀ p ∈ s.posted, p.link ≠ link ∨ p.ro = true) →
    ((s.liveDie d = true ∨ d = 8 ∨ d = 9) → (data.length = 4 ∨ data.length = 8) → r % data.length = 0 → r < 0x800000 →
      exec (.hostPostedWrite ⟨link, false, 0⟩ (d * 0x800000 + r) data) s =
        .next (s.regStore false false (mkGa s.chip d 3 r) data.length (bytesNat data))) ∧
    (s.bar2Open off data.length = true → s.bar2Waits off data.length = false →
      s.poisonedAt (s.bar2Ga off) data.length = false →
      ∃ t, exec (.hostPostedWrite ⟨link, false, 2⟩ off data) s = .next t ∧ t = { s with mem := t.mem, poison := t.poison } ∧
        t.mem = (s.writeBytes (s.bar2Ga off) data).mem)) ∧
  (∀ (link bar off : Nat) (ro : Bool) (data : List Byte) (s : State) (p : Posted), p = ⟨link, ro, bar, off, data⟩ →
    (s.hasLink link = false → exec (.hostPostedWrite ⟨link, ro, bar⟩ off data) s = .next s) ∧
    (s.hasLink link = true → s.postedReady s.posted p = false →
      exec (.hostPostedWrite ⟨link, ro, bar⟩ off data) s = .next { s with posted := s.posted ++ [p], fresh := s.fresh + 1 }) ∧
    (s.hasLink link = true → s.postedReady s.posted p = true → ro = true →
      exec (.hostPostedWrite ⟨link, ro, bar⟩ off data) s = .next (s.performPosted p) ∨
      exec (.hostPostedWrite ⟨link, ro, bar⟩ off data) s =
        .next { s with posted := s.posted ++ [p], fresh := s.fresh + 1 })) ∧
  (∀ (link bar off n : Nat) (ro : Bool) (s u : State), s.hasLink link = true → u = s.flushPosted link →
    (∀ p ∈ u.posted, p ∈ s.posted) ∧ (∀ p ∈ s.posted, p.link ≠ link → p ∈ u.posted) ∧
    ((∀ p ∈ s.posted, p.link = link → p.bar = 0) → ∀ p ∈ u.posted, p.link ≠ link) ∧
    (((∃ p ∈ u.posted, p.link = link) ∨ bar = 2 ∧ u.bar2Open off n = true ∧ u.bar2Waits off n = true) →
      exec (.hostRead ⟨link, ro, bar⟩ off n) s = .next { u with hostWaits := u.hostWaits ++ [(⟨link, ro, bar⟩, off, n)] }) ∧
    ((∀ p ∈ u.posted, p.link ≠ link) →
      (∀ (d r : Nat), (u.liveDie d = true ∨ d = 8 ∨ d = 9) → (n = 4 ∨ n = 8) → r % n = 0 → r < 0x800000 →
        exec (.hostRead ⟨link, ro, 0⟩ (d * 0x800000 + r) n) s = .next { u with
          hostReads := u.hostReads ++ [some (BitVec.ofNat 64 (u.regLoad true (mkGa u.chip d 3 r) n))] }) ∧
      (n ≠ 4 → n ≠ 8 → exec (.hostRead ⟨link, ro, 0⟩ off n) s = .next { u with hostReads := u.hostReads ++ [none] }) ∧
      (u.bar2Open off n = true → u.bar2Waits off n = false → (∀ b ∈ gaRange (u.bar2Ga off) n, u.poisoned b = false) →
        exec (.hostRead ⟨link, ro, 2⟩ off n) s = .next { u with
          hostReads := u.hostReads ++ (wordsOf (u.readGa (u.bar2Ga off) n) n).map some }) ∧
      (u.bar2Open off n = false →
        exec (.hostRead ⟨link, ro, 2⟩ off n) s = .next { u with hostReads := u.hostReads ++ [none] })))

/-! ### Pod time (19_time R347-R351) -/

/-- R346, R348: a die's exchange sets its SYNC and its term, 100 us without one clear SYNC, and every 10 us after that let the term
grow. R349: each of the messages of an exchange captures its time and is answered in a frame of class 3, and the last one gives offset
and package term (half of the spread rounded up, and that a message belongs to the exchange by its number, are the model's reading, log
entry 42). R350: a device announces itself to those present, follows the lowest pair of priority and device heard, and takes as its
parent a device of one hop with the lowest term (log entry 42); one with an external source is slewed to that and follows no other (the
model's reading, log entry 62). R351: holdover, the loss of SYNC and the growth of the term in it, by PTIME. No message moves any die's
PTIME except as time passes where it is read. -/
def Obligations.TimeMessagesDisciplineThePackage : Prop :=
  (∀ (d : Nat) (a b c e : Word) (s u : State), d < 10 → d ≠ s.timeDie → u = s.tickTime →
    exec (.dieTimeExchange d a b c e) s = .next (u.setDie d { u.die d with
      dieTerm := max (Config.dieTerm a b c e) (timeGap (u.die d).ptime u.timeNow), sync := true, exchanged := u.timeNow }) ∧
    exec (.dieSyncTimeout d) s = .next (if 1600000 ≤ (u.timeNow - (u.die d).exchanged).toNat then
      u.setDie d { u.die d with sync := false, exchanged := u.timeNow } else u) ∧
    exec (.dieTermGrowth d) s = .next (if (s.die d).sync = false ∧ 160000 ≤ (u.timeNow - (u.die d).exchanged).toNat then
      u.setDie d { u.die d with dieTerm := (u.die d).dieTerm + 1, exchanged := (u.die d).exchanged + 160000 } else u)) ∧
  (∀ (m : TimeMsg) (s u : State), u = s.tickTime → m.src ≠ s.chip →
    (s.asleep = false → ∃ t, exec (.timeExchangeTimer m.src) s = .next t ∧
      t = { u with timeOut := t.timeOut, frames := t.frames } ∧ ∃ x y : TimeMsg,
      t.timeOut = s.timeOut ++ [(0, m.src, x), (1, m.src, y)] ∧
        t.frames = s.frames ++ [(2 ^ 16, u.timeFrame 0 m.src x), (2 ^ 16, u.timeFrame 1 m.src y)] ∧ y.t = u.timeNow ∧
        x.seq = y.seq ∧ y.bound = BitVec.ofNat 64 s.time.term) ∧
    (∃ t, exec (.dreq m) s = .next t ∧ t = { u with timeOut := t.timeOut, frames := t.frames } ∧ ∃ x : TimeMsg,
      t.timeOut = s.timeOut ++ [(3, m.src, x)] ∧ t.frames = s.frames ++ [(2 ^ 16, u.timeFrame 3 m.src x)] ∧
        x.t = u.timeNow ∧ x.seq = m.seq) ∧
    (s.time.parent.toNat = m.src →
      exec (.sync m) s = .next { u with time := { u.time with t2 := u.timeNow, seq := m.seq } } ∧
      (m.seq = s.time.seq → (∃ t, exec (.follow m) s = .next t ∧
        t = { u with time := t.time, timeOut := t.timeOut, frames := t.frames } ∧
        t.time = { u.time with t1 := m.t, t3 := u.timeNow, parentBound := m.bound.toNat } ∧ ∃ x : TimeMsg,
        t.timeOut = s.timeOut ++ [(2, m.src, x)] ∧ t.frames = s.frames ++ [(2 ^ 16, { u with time := t.time }.timeFrame 2 m.src x)] ∧
          x.seq = m.seq)) ∧
      (m.seq = s.time.seq → (∃ (t : State) (off : Int) (delays : List Int), exec (.dresp m) s = .next t ∧
        t = { s with time := t.time } ∧ off = ((s.time.t2 - s.time.t1) - (m.t - s.time.t3)).toInt / 2 ∧
        t.time.offset = BitVec.ofInt 64 off ∧ t.time.slew = -(BitVec.ofInt 64 off).toInt ∧
        delays = ((BitVec.ofInt 64 (((s.time.t2 - s.time.t1) + (m.t - s.time.t3)).toInt / 2)).toInt ::
          s.time.delays).take 16 ∧ t.time.delays = delays ∧
        t.time.term = s.time.parentBound +
          ((delays.foldl max (delays.headD 0) - delays.foldl min (delays.headD 0)).toNat + 1) / 2 + Config.calibration ∧
        t.time.lastAt = s.timeNow ∧ t.time.hold = false ∧ t.time.longHold = false)))) ∧
  (∀ (m : TimeMsg) (s u : State), u = s.tickTime → m.src ≠ s.chip →
    ∃ t, exec (.announce m) s = .next t ∧ t = { u with time := t.time } ∧
      (m.gmpri.toNat, m.gmdev.toNat, u.timeNow) ∈ t.time.heard ∧ (m.src, m.bound.toNat) ∈ t.time.terms ∧
      (s.time.src = true → t.time.gmdev = BitVec.ofNat 14 s.chip ∧ t.time.parent = BitVec.ofNat 14 s.chip) ∧
      ((∀ e ∈ s.time.terms, e.1 < 2 ^ 14) → m.src < 2 ^ 14 → t.time.gm = false → ∀ e ∈ t.parents,
        ∃ b, (t.time.parent.toNat, b) ∈ t.parents ∧ b ≤ e.2) ∧
      (s.time.src = false → s.time.heard = [] → s.time.gmpri ≠ 255 → s.chip < 2 ^ 14 → m.gmdev.toNat ≠ s.chip →
        if m.gmpri.toNat < s.time.gmpri.toNat ∨ (m.gmpri = s.time.gmpri ∧ m.gmdev.toNat < s.chip) then
          t.time.gmdev = m.gmdev ∧ t.time.gm = false ∧ (s.time.terms = [] → m.src < 2 ^ 14 → s.oneHop m.src = true →
            (s.conn m.src).failed = false → (s.conn m.src).down = false → t.time.parent = BitVec.ofNat 14 m.src)
        else t.time.gmdev.toNat = s.chip ∧ t.time.gm = true ∧ t.time.parent.toNat = s.chip)) ∧
  (∀ (s u : State), u = s.tickTime →
    (s.asleep = false → ∃ t, exec .announceTimer s = .next t ∧ t = { s with timeOut := t.timeOut, frames := t.frames } ∧
      t.timeOut = s.timeOut ++ (s.present.filter fun d => d ≠ s.chip).map fun d => (4, d, s.timeMsg 0 0)) ∧
    (∀ p, s.time.heard = [p] → ∃ t, exec .announceAgeExpiry s = .next t ∧ t = { u with time := t.time } ∧
      if 64000000 ≤ (u.timeNow - p.2.2).toNat then t.time.heard = [] ∧
        ((s.time.gmpri ≠ 255 ∨ s.time.src = true) → t.time.gmdev = BitVec.ofNat 14 s.chip ∧ t.time.gm = true ∧
          t.time.parent = BitVec.ofNat 14 s.chip) ∧
        (s.time.gmpri = 255 → s.time.src = false → t.time.gm = false)
      else t.time.heard = [p]) ∧
    (∀ (v off : Word), off = u.timeNow - (v - s.time.tzero) * 16 →
      exec (.externalPtpMessage v) s = .next (if s.time.src then { u with time := { u.time with
        offset := off, slew := -off.toInt, lastAt := u.timeNow, hold := false, longHold := false } } else s)) ∧
    exec .holdoverEntry s = .next (if s.time.gm = false ∧ s.time.src = false ∧ s.time.hold = false ∧
        4000000 ≤ (u.timeNow - s.time.lastAt).toNat then
      { u with time := { u.time with hold := true, holdAt := u.timeNow } } else u) ∧
    exec .holdoverSyncLoss s = .next (if s.time.hold = true ∧ s.time.longHold = false ∧
        16000000 ≤ (u.timeNow - s.time.holdAt).toNat then
      { u with time := { u.time with longHold := true, growAt := u.timeNow } } else u) ∧
    exec .packageTermGrowth s = .next (if s.time.hold = true ∧ s.time.longHold = true ∧
        16000000 ≤ (u.timeNow - s.time.growAt).toNat then
      { u with time := { u.time with term := u.time.term + 32, growAt := u.time.growAt + 16000000 } } else u))

/-! ### The management controller (21_service R377-R389; 01_machine R33) -/

/-- R377, R378, R33, R346, R383-R389: a mailbox command in its turn is performed and its status given, one from the non-secure
world with STATUS 3 only: firmware is measured and loaded when its signature is good, an attestation is written to host memory
(its layout is the model's, log entry 63), suspend is armed, cancelled and resumed, units are drained and rejoined, tenants and granules
assigned; the steps of a suspend follow the states in order, each die's harts stopping by its own time; bring-up moves by one step, and
a boot finds the dies that are in service; clocks change within their range; a scrub counts or logs the error it finds. -/
def Obligations.TheControllerServesItsCommands : Prop :=
  (∀ (s : State) (m : Mailbox) (i : Instr) (c : Byte), m = s.mailbox → m.cmd = c → m.done = false → m.nonsecure = true →
    1 ≤ s.bootStep → ((i = .loadfw ∧ c = 0x01) ∨ (i = .suspend ∧ c = 0x10) ∨ (i = .cancel ∧ c = 0x11) ∨
      (i = .resume ∧ c = 0x12) ∨ (∃ u, i = .drain u ∧ c = 0x20) ∨ (∃ u, i = .rejoin u ∧ c = 0x21) ∨
      (∃ n b cores chans plain, i = .tenant n b cores chans plain ∧ c = 0x30) ∨ ∃ g n, i = .owner g n ∧ c = 0x31) →
    exec i s = .next { s with mailbox := { m with done := true, status := 3 } }) ∧
  (∀ (s : State) (m : Mailbox), m = s.mailbox → m.done = false → m.nonsecure = false → 1 ≤ s.bootStep →
    (m.cmd = 0x01 → ∀ image, image = s.hostBytes (s.arg 0) (s.arg 1).toNat → exec .loadfw s = .next
      (if Config.signatureGood image then { s with
        bootStep := if s.bootStep = 1 then 2 else s.bootStep
        mailbox := { m with
          image := sha512 image
          measure := sha512 (hashBytes m.measure ++ hashBytes (sha512 image))
          done := true
          status := 0 } }
      else { s with mailbox := { m with done := true, status := 4 } })) ∧
    (m.cmd = 0x02 → ∃ t, exec .attest s = .next t ∧ t.mailbox.done = true ∧ t.mailbox.status = 0 ∧
      ∀ out, out = natBytes 2 s.chip ++ hashBytes m.measure ++ s.hostBytes (s.arg 0) 64 ++ natBytes 1 s.live.toNat →
        t.mem = (s.writeBytes (2 ^ 63 + (s.arg 1).toNat % 2 ^ 63) (out ++ Config.attestation out)).mem) ∧
    (m.cmd = 0x10 → ∀ u, u = s.tickTime → ∃ t, exec .suspend s = .next t ∧ t.mailbox.done = true ∧
      (m.state = .run → t.mailbox.status = 0 ∧ t.mailbox.deadline = s.arg 0 ∧ t.mailbox.setMap = s.arg 1 ∧
        if (u.die s.timeDie).ptime < s.arg 0 then t.mailbox.state = .armed ∧ t.harts = s.harts ∧ t.mem = s.mem
        else t.mailbox.state = .quiesce ∧ t.mailbox.late = true) ∧
      (m.state ≠ .run → t.mailbox.status = 5 ∧ t.mailbox.state = m.state)) ∧
    (m.cmd = 0x11 → exec .cancel s = .next { s with mailbox :=
      if m.state = .armed then { m with state := .run, done := true, status := 0 }
      else { m with done := true, status := 5 } }) ∧
    (m.cmd = 0x12 → exec .resume s = .next { s with mailbox :=
      if m.state = .retained then { m with resumeAt := some (s.arg 0), done := true, status := 0 }
      else { m with done := true, status := 5 } }) ∧
    (m.cmd = 0x20 →
      (∀ d, (d = 8 ∨ d = 9) → ∃ t, exec (.drain (.iod d)) s = .next t ∧ t.mailbox.done = true ∧ t.mem = s.mem ∧
        (if s.iodUp (17 - d) then t.mailbox.status = 0 ∧ t.iodUp d = false
          else t.mailbox.status = 2 ∧ t.drained = s.drained) ∧
        ∀ (n : Nat) (u : SvcUnit), (u = .engine d n ∧ n < 16) ∨ (u = .port d n ∧ n < 40) →
          exec (.drain u) s = .next { s with
            drained := if u ∈ s.drained then s.drained else u :: s.drained
            mailbox := { m with done := true, status := 0 } }) ∧
      (∀ d c, s.liveDie d = true → c < 16 →
        if s.coresUsed [d * 16 + c] then
          exec (.drain (.core d c)) s = .next { s with mailbox := { m with done := true, status := 2 } }
        else ∃ t, exec (.drain (.core d c)) s = .next t ∧ t.mailbox.status = 0 ∧ SvcUnit.core d c ∈ t.drained) ∧
      (∀ d, s.liveDie d = true →
        if s.coresUsed ((List.range 16).map (d * 16 + ·)) ∨
            (∃ r ∈ s.liveRegions, (s.region r).dies &&& s.live = 1#8 <<< d) then
          exec (.drain (.die d)) s = .next { s with mailbox := { m with done := true, status := 2 } }
        else ∃ t, exec (.drain (.die d)) s = .next t ∧ t.mailbox.status = 0 ∧ (t.die d).out = true)) ∧
    (m.cmd = 0x21 →
      (∀ d c, d < 8 → c < 16 → ∃ t, exec (.rejoin (.core d c)) s = .next t ∧ t.mailbox.done = true ∧
        t.mailbox.status = 0 ∧ SvcUnit.core d c ∉ t.drained ∧ t.retired (d * 16 + c) = 0 ∧ t.mem = s.mem) ∧
      (∀ d, d < 8 → (s.die d).out = true → ∃ t, exec (.rejoin (.die d)) s = .next t ∧ t.mailbox.status = 0 ∧
        (t.die d).out = false ∧ (t.die d).cycle = 0 ∧ (t.die d).sync = true ∧ t.mem = s.mem) ∧
      (∀ d n, (d = 8 ∨ d = 9) → n < 36 → ∃ t, exec (.rejoin (.port d n)) s = .next t ∧ t.mailbox.status = 0 ∧
        SvcUnit.port d n ∉ t.drained ∧ (∀ p ∈ portPairs d n, Sparse.get 0 t.training (pairKey p.1 p.2) = 1) ∧
        t.mem = s.mem) ∧
      (∀ d, (d = 8 ∨ d = 9) → s.iodUp d = false → ∃ t, exec (.rejoin (.iod d)) s = .next t ∧ t.mailbox.status = 0 ∧
        t.iodUp d = true ∧ (t.die d).sync = true ∧ t.mem = s.mem ∧
        t.mailbox.measure = sha512 (hashBytes m.measure ++ hashBytes m.image))) ∧
    (m.cmd = 0x30 → ∀ (n : Nat) (cores chans plain : List Nat), ∃ t, exec (.tenant n true cores chans plain) s = .next t ∧
      t.mailbox.done = true ∧ t.mailbox.status = 0 ∧ n ∈ t.strict ∧ (∀ c ∈ cores, Sparse.get 0 t.coreOwner c = n + 1) ∧
      (∀ c ∈ chans, Sparse.get 0 t.chanOwner c = n + 1) ∧ t.mem = s.mem ∧
      (∀ c, c ∈ t.plainCores ↔ (c ∈ s.plainCores ∧ c ∉ cores) ∨ c ∈ plain) ∧
      ∀ h, coreOf h ∈ t.plainCores → (s.hart h).secure = true → (t.hart h).run ≠ .running) ∧
    (m.cmd = 0x31 → ∀ g n, gaHost (g * 2 ^ 21) = false → gaKind (g * 2 ^ 21) = 0 → gaChip (g * 2 ^ 21) = s.chip →
      s.pagePopulated (g * 2 ^ 21) (2 ^ 21) = true →
      if Sparse.get 0 s.granuleOwner g = n + 1 then
        exec (.owner g n) s = .next { s with mailbox := { m with done := true, status := 0 } }
      else ∃ t, exec (.owner g n) s = .next t ∧ t.mailbox.done = true ∧ t.mailbox.status = 0 ∧
        Sparse.get 0 t.granuleOwner g = n + 1 ∧ g ∈ t.zeroing ∧
        ∀ b, b < 2 ^ 21 → t.readByte (g * 2 ^ 21 + b) = 0)) ∧
  (∀ (s u : State), u = s.tickTime →
    (∀ g, ∃ t, exec (.zeroingComplete g) s = .next t ∧ t = { s with zeroing := t.zeroing } ∧
      ∀ k, k ∈ t.zeroing ↔ k ∈ s.zeroing ∧ k ≠ g) ∧
    (s.mailbox.state = .armed ∨ s.mailbox.state = .quiesce → u.quiesceDue ≠ [] →
      ∃ t, exec .suspendDeadline s = .next t ∧ t.mailbox.state = .quiesce ∧
        t.mailbox.late = decide (s.mailbox.state = .quiesce ∧ s.mailbox.late = true) ∧ t.mem = s.mem ∧
        ∀ d, d ∈ u.timedDies → s.mailbox.deadline ≤ (u.die d).ptime → d ∈ t.mailbox.reached ∧
          (d ∉ s.mailbox.reached → ∀ h, slotDie h = d → (t.hart h).run ≠ .running)) ∧
    (∀ (d : Nat) (m : Mailbox), m = s.mailbox → d ∉ m.quiet →
      ((d ≠ s.chip ∧ (m.state = .armed ∨ m.state = .quiesce)) ∨
        (d = s.chip ∧ m.state = .quiesce ∧ s.workDone = true)) →
      exec (.quiet d) s = .next { s with mailbox := { m with
        quiet := d :: m.quiet
        told := if d = s.chip then s.suspendSet.filter (· ≠ s.chip) else m.told
        state := if m.state = .quiesce ∧ ∀ c ∈ s.suspendSet, c ∈ d :: m.quiet then .saving else m.state } }) ∧
    (s.mailbox.state = .quiesce → s.mailbox.deadline.toNat + 16000000000 ≤ (u.die s.timeDie).ptime.toNat →
      ((∀ c ∈ s.suspendSet, c = s.chip ∨ c ∈ s.mailbox.quiet) →
        exec .savingTimeout s = .next { u with mailbox := { s.mailbox with state := .saving, downed := false } }) ∧
      (∃ t, exec .savingTimeout s = .next t ∧ t.mailbox.state = .saving ∧
        ∀ c ∈ s.suspendSet, c ≠ s.chip → c ∉ s.mailbox.quiet → (t.conn c).down = true ∧ t.mailbox.downed = true)) ∧
    (s.mailbox.state = .saving → s.activeHarts = [] → ∃ t, exec .savingComplete s = .next t ∧
      t.mailbox = { s.mailbox with state := .retained, resumeAt := none } ∧ t.harts = s.harts ∧ t.lockets = s.lockets ∧
      ((∀ e ∈ s.conns, e.2.up = false) → t.mem = s.mem)) ∧
    (∀ r, s.mailbox.state = .retained → s.mailbox.resumeAt = some r → r ≤ (u.die s.timeDie).ptime →
      exec .resumeDeadline s = .next { u with mailbox := { s.mailbox with state := .resuming } }) ∧
    (s.mailbox.state = .resuming → ∃ t, exec .resumeComplete s = .next t ∧ t.mailbox.state = .run ∧
      t.mem = s.mem ∧ t.harts = s.harts ∧ t.lscore = [] ∧ t.gscore = [] ∧
      (∀ d, d < 10 → d ≠ s.timeDie → (t.die d).sync = true) ∧
      ∀ k, (t.ctx k).stopped = true → ∃ l ∈ s.lockets, k ∈ l.hart.boundKeys)) ∧
  (∀ (s : State),
    (s.bootStep ∈ [0, 2, 3] → exec .boot s = .next { s with bootStep := s.bootStep + 1 }) ∧
    (s.bootStep = 1 → exec .boot s = .next s) ∧
    (s.bootStep = 4 → ∃ t, exec .boot s = .next t ∧ t.bootStep = 5 ∧ t.mem = s.mem ∧ t.harts = s.harts ∧
      ∀ d, d < 10 → (t.die d).sync = true) ∧
    (s.bootStep = 5 → ∃ t, exec .boot s = .next t ∧
      t = { s with bootStep := 6, links := t.links, fresh := t.fresh } ∧ t.hasLink 8 = true) ∧
    (s.bootStep = 6 → ∃ t, exec .boot s = .next t ∧ t.bootStep = 7 ∧ t.harts = s.harts ∧
      t.pool = Config.locketPool ∧ (t.region s.nextRegion).parent = none ∧ (t.region s.nextRegion).steward = true ∧
      (t.region s.nextRegion).priority = 15 ∧ (t.region s.nextRegion).world = true) ∧
    (s.bootStep = 7 → ∃ t, exec .boot s = .next t ∧ t.bootStep = 0 ∧ t.harts = [] ∧ t.mem = s.mem ∧ t.regions = [] ∧
      ((∃ d, d < 8 ∧ s.live.getLsbD d = true ∧ (s.die d).out = false) →
        ∀ d, d < 8 → t.live.getLsbD d = (s.live.getLsbD d && !(s.die d).out))) ∧
    (∀ d f, s.liveDie d = true → 600 ≤ f → f ≤ 2000 →
      exec (.clockRateChange d f) s = .next (s.setDie d { s.die d with mhz := f })) ∧
    (∀ f, 600 ≤ f → f ≤ 2000 → ∃ t, exec (.thermalThrottle f) s = .next t ∧ t = { s with dies := t.dies } ∧
      ∀ d, s.liveDie d = true → t.die d = { s.die d with mhz := min f (s.die d).mhz }) ∧
    (∀ (d : Nat) (a : Word), gaHost a.toNat = false → gaKind a.toNat ∈ [0, 1, 2, 4] → gaChip a.toNat = s.chip →
      s.pagePopulated a.toNat 1 = true → s.homeDie a.toNat = d →
      exec (.hbmScrub d a false) s = .next (s.setDie d { s.die d with corr := (s.die d).corr + 1 }) ∧
      (s.poisoned a.toNat = false → ∃ t, exec (.hbmScrub d a true) s = .next t ∧ t.mem = s.mem ∧
        t.poisoned a.toNat = true ∧ ((s.die d).err0 = 0 → (t.die d).err0.getLsbD 0 = true ∧ (t.die d).errGa = a))))

/-! ### Reset, decoding and the step -/

/-- R24, R26, R375: after reset no slot holds a hart; the control registers whose reset value is given read it; PARKLIM is
5 s; and memory is in its canonical form. (That memory reads zero where nothing has written is the model's, log entry 2.) -/
def Obligations.ResetLeavesTheStatedValues : Prop :=
  Memory.wf State.reset.mem = true ∧ (∀ h, State.reset.hart h = Hart.free) ∧
  (∀ h n, n ∈ [0x000, 0x001, 0x002, 0x003, 0x004, 0x006, 0x007, 0x008, 0x00B, 0x00C, 0x012, 0x013, 0x101, 0x102, 0x103, 0x104,
    0x108, 0x109, 0x10A] → State.csrValue { State.reset with cur := h } n = 0) ∧
  (∀ h, State.csrValue { State.reset with cur := h } 0x011 = 0x30506) ∧
  (∀ d, (State.reset.die d).parklim = 0x12A05F2000) ∧ State.reset.mailbox.state = .run

/-- R69-R85: words written out from the encodings decode to the instructions that they stand for, and words that no table
assigns are refused: a reserved function and major, a B bit on a scalar word and a fixed field that is not zero. -/
def Obligations.SpecWordsDecode : Prop :=
  decode 0b00000000001100001000100000000001#32 = .ok (.add ⟨3, 1, 2⟩) ∧
  decode 0b00000010010100000000000000000111#32 = .ok (.addi ⟨5, 0, 7⟩) ∧
  decode 0b00001010000100010101111111111110#32 = .ok (.bgen ⟨1, 2, 0xFFE⟩) ∧
  decode 0b00010000011000100110000000010000#32 = .ok (.ldd ⟨6, 4, 16⟩) ∧
  decode 0b00010010011100011110000000001000#32 = .ok (.std ⟨7, 3, 8⟩) ∧
  decode 0b00011010000000000000000000000010#32 = .ok .tret ∧
  decode 0b00011000100100000000000100000100#32 = .ok (.csrr ⟨9, 0x104⟩) ∧
  decode 0b10100000100001100001010101010000#32 = .ok (.vadd ⟨1, 8, 12, 5, 1, 1, 1⟩) ∧
  decode 0b01000000010000101000000000000101#32 = .ok (.vlu ⟨0, 4, 5, 0, 0, 0, 0, 2, 1⟩) ∧
  decode 0b01010110101000001000100001101000#32 = .ok (.copy ⟨10, 1, 2, 3, 2⟩) ∧
  decode 0b01100100010000011000001100000001#32 = .ok (.mstr ⟨0, 4, 3, 3, 0, 0, 0, 1⟩) ∧
  decode 0b01110000001100011010000000000000#32 = .ok (.rep ⟨1, 35, 2⟩) ∧
  decode 0#32 = .error .reservedFunction ∧ decode 0x3A000000#32 = .error .reservedMajor ∧
  decode 0x82000000#32 = .error .bBitOnScalar ∧ decode 0x1A100002#32 = .error .fieldNotZero

/-- R70-R85: a word decodes to an instruction exactly when it is that instruction's word, so no bit of an encoding is
dropped, every operand takes every value of its field and each word has one meaning. -/
def Obligations.EncodeAndDecodeAgree : Prop := ∀ (i : Instr) (w : IWord), encode i = some w ↔ decode w = .ok i

/-- R69, R75, R104, R155, R270: on a hart's turn at which it fetches, a step is the execution of the instruction that the word at
its pc decodes to, in its clock and after the step's choice of whether a queued word runs at its enqueue; a word that decodes to no
well-formed instruction traps ILLEGAL; a word that names a register which a vector-to-scalar member has still to write waits, as does
any while the vector queue is full; what follows a step that leaves no record waiting at its home, no completion word due and no queued
grant changes only what a WAITW has seen and the record of stopped harts; the word fetched from memory is the four bytes at
the pc, the first the least significant; and of the harts of a core that can issue, the one with precedence does (which harts
those are is free for a hart in a multi-clock instruction, log entry 53). -/
def Obligations.StepRunsTheDecodedInstruction : Prop :=
  (∀ (s s' u f v : State) (h : Nat) (w : IWord), s.turn = some (s', .hart h) → u = (s'.asHart h).settleAsks h →
    u.hartTask = .fetch → f = State.beforeFetch { u with fresh := u.fresh + 1 } →
    (f.me.heldUp = true → step s = .next f.afterStep) ∧
    (f.me.heldUp = false → f.fetched = .ok (v, w) →
      (v.me.owes (wordRegs w) = true → step s = .next f.afterStep) ∧
      (∀ i, v.me.owes (wordRegs w) = false → decode w = .ok i → wellFormed i = true →
        step s = Out.after (exec i (v.issues w)) State.afterStep) ∧
      (v.me.owes (wordRegs w) = false → (∀ i, decode w = .ok i → wellFormed i = false) →
        ∃ t, step s = .next t.afterStep ∧ TrapEntered (v.issues w) t 0x01 false v.me.pc (w.setWidth 64)))) ∧
  (∀ (t : State), t.held = [] → (∀ g ∈ t.regions, g.2.done = true ∨ g.2.opening = true ∨
      (g.2.owed = 0 ∧ t.liveCount g.1 ≠ 0 ∧ ∀ x ∈ g.2.stages, x.queued = 0)) → Sparse.wf Region.empty t.regions = true →
    t.afterStep = { t with harts := t.afterStep.harts, stops := t.afterStep.stops } ∧
    ∀ h, t.afterStep.hart h = { t.hart h with wait := (t.afterStep.hart h).wait } ∧
      (t.afterStep.hart h).wait.map (fun x => { x with seen := none }) =
        (t.hart h).wait.map fun x => { x with seen := none }) ∧
  (∀ (s u : State) (h : Nat), u = { s with fresh := s.fresh + 1 } →
    (∀ a, s.next = some a → s.turn = some ({ s with next := none }, a)) ∧
    (s.next = none → s.agents = [.hart h] → s.turn = some (u, .hart
      (if (u.asHart h).hartTask = .fetch ∧ (u.hart h).stalled = none then u.issuer h else h))) ∧
    ((∀ j ∈ coreSlots (coreOf h), s.runnable j = false) → s.issuer h = h) ∧
    ∀ j ∈ coreSlots (coreOf h), s.runnable j = true → s.issuer h ∈ coreSlots (coreOf h) ∧ s.runnable (s.issuer h) = true ∧
      s.issuesBefore (s.issuer h) j = true) ∧
  (∀ (s : State) (as : List Nat), Plain s .fetch s.me.pc 4 as → s.me.fetching = none →
    s.fetched = .ok (s.withMe fun t => { t with entering := false, asks := t.asks.filter fun a => a.own ≠ 2 },
      BitVec.ofNat 32 (s.readAt as)))

/-! ### The invariant of memory -/

/-- 00_scope R3, 09_address R231: every step keeps memory in its canonical form (the form is the model's, log entry 2). -/
def Obligations.EveryStepKeepsMemoryCanonical : Prop :=
  ∀ (s t : State), Memory.wf s.mem = true → step s = .next t → Memory.wf t.mem = true
end

