-- ==== Sys2Proof/Laws/Sparse.lean ====
section
/-!
SUPPORT. Laws/Sparse.lean: reading after writing a keyed list, and that every operation on one keeps its canonical form.
-/

namespace Sys2Proof.Machine

variable {α : Type}

@[simp] theorem Sparse.get_nil (d : α) (n : Nat) : Sparse.get d [] n = d := rfl

theorem Sparse.get_cons (d : α) (k : Nat) (v : α) (t : List (Nat × α)) (n : Nat) :
    Sparse.get d ((k, v) :: t) n = if n = k then v else Sparse.get d t n := rfl

theorem Sparse.get_erase (d : α) (l : List (Nat × α)) (n m : Nat) :
    Sparse.get d (Sparse.erase l n) m = if m = n then d else Sparse.get d l m := by
  induction l with
  | nil => simp [Sparse.erase]
  | cons e t ih =>
    obtain ⟨k, w⟩ := e
    simp only [Sparse.erase, Sparse.get_cons]
    by_cases hk : n = k
    · subst hk
      rw [if_pos rfl, ih]
      by_cases hm : m = n <;> simp [hm]
    · rw [if_neg hk, Sparse.get_cons, ih]
      by_cases hm : m = n
      · subst hm; simp [hk]
      · simp [hm]

theorem Sparse.get_insert (d : α) (l : List (Nat × α)) (n : Nat) (v : α) (m : Nat) :
    Sparse.get d (Sparse.insert l n v) m = if m = n then v else Sparse.get d l m := by
  induction l with
  | nil => rfl
  | cons e t ih =>
    obtain ⟨k, w⟩ := e
    simp only [Sparse.insert]
    split
    · simp [Sparse.get_cons]
    · split
      · rename_i h1 h2
        subst h2
        simp only [Sparse.get_cons]
        split <;> rfl
      · rename_i h1 h2
        simp only [Sparse.get_cons, ih]
        by_cases hm : m = n
        · subst hm; simp [h2]
        · simp [hm]

/-- Reading a key after a write of one: the value written there, and any other key as before. -/
theorem Sparse.get_set [DecidableEq α] (d : α) (l : List (Nat × α)) (n : Nat) (v : α) (m : Nat) :
    Sparse.get d (Sparse.set d l n v) m = if m = n then v else Sparse.get d l m := by
  unfold Sparse.set
  split
  · rename_i h
    rw [Sparse.get_erase, h]
  · rw [Sparse.get_insert]

@[simp] theorem Sparse.get_set_same [DecidableEq α] (d : α) (l : List (Nat × α)) (n : Nat) (v : α) :
    Sparse.get d (Sparse.set d l n v) n = v := by simp [Sparse.get_set]

theorem Sparse.get_set_other [DecidableEq α] (d : α) (l : List (Nat × α)) {n m : Nat} (v : α) (h : m ≠ n) :
    Sparse.get d (Sparse.set d l n v) m = Sparse.get d l m := by simp [Sparse.get_set, h]

/-! ### The canonical form -/

theorem Sparse.above_mono {l : List (Nat × α)} : ∀ {a b : Nat}, a ≤ b → Sparse.above b l = true → Sparse.above a l = true := by
  cases l with
  | nil => intros; rfl
  | cons e t =>
    intro a b h hb
    simp only [Sparse.above, Bool.and_eq_true, decide_eq_true_eq] at hb ⊢
    exact ⟨by omega, hb.2⟩

theorem Sparse.above_erase (l : List (Nat × α)) (n : Nat) : ∀ b, Sparse.above b l = true → Sparse.above b (Sparse.erase l n) = true := by
  induction l with
  | nil => intros; rfl
  | cons e t ih =>
    obtain ⟨k, w⟩ := e
    intro b h
    simp only [Sparse.above, Bool.and_eq_true, decide_eq_true_eq] at h
    simp only [Sparse.erase]
    split
    · exact ih b (Sparse.above_mono (by omega) h.2)
    · simp only [Sparse.above, Bool.and_eq_true, decide_eq_true_eq]
      exact ⟨h.1, ih _ h.2⟩

theorem Sparse.above_insert (l : List (Nat × α)) (n : Nat) (v : α) :
    ∀ b, b ≤ n → Sparse.above b l = true → Sparse.above b (Sparse.insert l n v) = true := by
  induction l with
  | nil => intro b h _; simp [Sparse.insert, Sparse.above, h]
  | cons e t ih =>
    obtain ⟨k, w⟩ := e
    intro b hb h
    simp only [Sparse.above, Bool.and_eq_true, decide_eq_true_eq] at h
    simp only [Sparse.insert]
    split
    · simp only [Sparse.above, Bool.and_eq_true, decide_eq_true_eq]
      exact ⟨hb, by omega, h.2⟩
    · split
      · rename_i h2
        subst h2
        simp only [Sparse.above, Bool.and_eq_true, decide_eq_true_eq]
        exact ⟨hb, h.2⟩
      · simp only [Sparse.above, Bool.and_eq_true, decide_eq_true_eq]
        exact ⟨h.1, ih _ (by omega) h.2⟩

theorem Sparse.mem_erase {l : List (Nat × α)} {n : Nat} {e : Nat × α} (h : e ∈ Sparse.erase l n) : e ∈ l := by
  induction l with
  | nil => exact h
  | cons a t ih =>
    obtain ⟨k, w⟩ := a
    simp only [Sparse.erase] at h
    split at h
    · exact List.mem_cons_of_mem _ (ih h)
    · rcases List.mem_cons.mp h with h | h
      · exact h ▸ List.mem_cons_self
      · exact List.mem_cons_of_mem _ (ih h)

theorem Sparse.mem_insert {l : List (Nat × α)} {n : Nat} {v : α} {e : Nat × α} (h : e ∈ Sparse.insert l n v) :
    e = (n, v) ∨ e ∈ l := by
  induction l with
  | nil => exact .inl (by simpa [Sparse.insert] using h)
  | cons a t ih =>
    obtain ⟨k, w⟩ := a
    simp only [Sparse.insert] at h
    split at h
    · exact List.mem_cons.mp h
    · split at h
      · rcases List.mem_cons.mp h with h | h
        · exact .inl h
        · exact .inr (List.mem_cons_of_mem _ h)
      · rcases List.mem_cons.mp h with h | h
        · exact .inr (h ▸ List.mem_cons_self)
        · exact (ih h).imp id (List.mem_cons_of_mem _)

@[simp] theorem Sparse.wf_nil [DecidableEq α] (d : α) : Sparse.wf d ([] : List (Nat × α)) = true := rfl

/-- A write keeps the canonical form. -/
theorem Sparse.wf_set [DecidableEq α] {d : α} {l : List (Nat × α)} (n : Nat) (v : α) (h : Sparse.wf d l = true) :
    Sparse.wf d (Sparse.set d l n v) = true := by
  simp only [Sparse.wf, Bool.and_eq_true, List.all_eq_true, decide_eq_true_eq] at h ⊢
  unfold Sparse.set
  split
  · exact ⟨Sparse.above_erase _ _ _ h.1, fun e he => h.2 e (Sparse.mem_erase he)⟩
  · rename_i hv
    refine ⟨Sparse.above_insert _ _ _ _ (Nat.zero_le _) h.1, fun e he => ?_⟩
    rcases Sparse.mem_insert he with rfl | he
    · exact hv
    · exact h.2 e he

theorem Sparse.above_filter (p : Nat × α → Bool) (l : List (Nat × α)) :
    ∀ b, Sparse.above b l = true → Sparse.above b (l.filter p) = true := by
  induction l with
  | nil => intros; rfl
  | cons e t ih =>
    obtain ⟨k, w⟩ := e
    intro b h
    simp only [Sparse.above, Bool.and_eq_true, decide_eq_true_eq] at h
    simp only [List.filter_cons]
    split
    · simp only [Sparse.above, Bool.and_eq_true, decide_eq_true_eq]
      exact ⟨h.1, ih _ h.2⟩
    · exact ih b (Sparse.above_mono (by omega) h.2)

/-- Leaving entries out keeps the canonical form. -/
theorem Sparse.wf_filter [DecidableEq α] {d : α} {l : List (Nat × α)} (p : Nat × α → Bool) (h : Sparse.wf d l = true) :
    Sparse.wf d (l.filter p) = true := by
  simp only [Sparse.wf, Bool.and_eq_true, List.all_eq_true] at h ⊢
  exact ⟨Sparse.above_filter p l 0 h.1, fun e he => h.2 e (List.mem_filter.mp he).1⟩

/-- A key below every listed one reads as an unlisted one. -/
theorem Sparse.get_below {d : α} {l : List (Nat × α)} : ∀ {b n : Nat}, Sparse.above b l = true → n < b → Sparse.get d l n = d := by
  induction l with
  | nil => intros; rfl
  | cons e t ih =>
    obtain ⟨k, w⟩ := e
    intro b n h hn
    simp only [Sparse.above, Bool.and_eq_true, decide_eq_true_eq] at h
    rw [Sparse.get_cons, if_neg (by omega)]
    exact ih h.2 (by omega)

end Sys2Proof.Machine
end

