-- ==== Sys2Proof/Laws/Clock.lean ====
section
/-!
SUPPORT. Laws/Clock.lean: what the passing of time does (19_time R345-R347): the clocks that move, what stays, and that no reading
goes back.
-/

namespace Sys2Proof.Machine

theorem Sparse.get_foldl_set {α : Type} [DecidableEq α] (d : α) (f : Nat → α) :
    ∀ (ks : List Nat) (l : List (Nat × α)) (n : Nat),
      Sparse.get d (ks.foldl (fun l k => Sparse.set d l k (f k)) l) n = if n ∈ ks then f n else Sparse.get d l n
  | [], _, _ => rfl
  | k :: ks, l, n => by
    rw [List.foldl_cons, Sparse.get_foldl_set d f ks, Sparse.get_set]
    by_cases h : n = k
    · subst h; simp
    · simp [h]

/-- All that the passing of time changes. -/
theorem State.tickTime_eq (s : State) : s.tickTime =
    { s with dies := s.tickTime.dies, podTime := s.tickTime.podTime, time := s.tickTime.time, fresh := s.fresh + 1 } := rfl

@[simp] theorem State.hart_tickTime (s : State) (h : Nat) : s.tickTime.hart h = s.hart h := rfl
@[simp] theorem State.ctxs_tickTime (s : State) : s.tickTime.ctxs = s.ctxs := rfl
@[simp] theorem State.timeDie_tickTime (s : State) : s.tickTime.timeDie = s.timeDie := rfl

/-- Of a die it changes PTIME alone. -/
theorem State.die_tickTime (s : State) (d : Nat) :
    s.tickTime.die d = { s.die d with ptime := (s.tickTime.die d).ptime } := by
  simp only [State.tickTime, State.passTime, State.die, Sparse.get_foldl_set]
  split <;> rfl

theorem timePlus_le (t : Word) (n : Int) (h : 0 ≤ n) : t.toNat ≤ (timePlus t n).toNat := by
  have := t.isLt
  simp only [timePlus, BitVec.toNat_ofNat]
  omega

/-- No reading of PTIME goes back (R346). -/
theorem State.ptime_tickTime (s : State) (d : Nat) : (s.die d).ptime.toNat ≤ (s.tickTime.die d).ptime.toNat := by
  simp only [State.tickTime, State.passTime, State.die, Sparse.get_foldl_set]
  split
  · simp only
    split
    · rename_i h
      rw [h]
      apply timePlus_le
      simp only [within]
      omega
    · have := (Sparse.get Die.reset s.dies d).ptime.isLt
      simp only [timePlus, BitVec.toNat_ofNat]
      omega
  · exact Nat.le_refl _

end Sys2Proof.Machine
end

