-- ==== Sys2Proof/Laws/State.lean ====
section
/-!
SUPPORT. Laws/State.lean: what each update of the state and of a hart leaves in each field, so that no proof unfolds a
record update.
-/

namespace Sys2Proof.Machine

/-! ### Updates of the state -/

@[simp] theorem State.setHart_mem (s : State) (h : Nat) (t : Hart) : (s.setHart h t).mem = s.mem := rfl
@[simp] theorem State.setHart_cur (s : State) (h : Nat) (t : Hart) : (s.setHart h t).cur = s.cur := rfl
@[simp] theorem State.setHart_acc (s : State) (h : Nat) (t : Hart) : (s.setHart h t).acc = s.acc := rfl
@[simp] theorem State.setHart_laneOff (s : State) (h : Nat) (t : Hart) : (s.setHart h t).laneOff = s.laneOff := rfl
@[simp] theorem State.setHart_chip (s : State) (h : Nat) (t : Hart) : (s.setHart h t).chip = s.chip := rfl
@[simp] theorem State.setHart_live (s : State) (h : Nat) (t : Hart) : (s.setHart h t).live = s.live := rfl
@[simp] theorem State.setHart_groups (s : State) (h : Nat) (t : Hart) : (s.setHart h t).groups = s.groups := rfl
@[simp] theorem State.setHart_inbox (s : State) (h : Nat) (t : Hart) : (s.setHart h t).inbox = s.inbox := rfl
@[simp] theorem State.setHart_present (s : State) (h : Nat) (t : Hart) : (s.setHart h t).present = s.present := rfl
@[simp] theorem State.setHart_peers (s : State) (h : Nat) (t : Hart) : (s.setHart h t).peers = s.peers := rfl
@[simp] theorem State.setHart_scaleOut (s : State) (h : Nat) (t : Hart) : (s.setHart h t).scaleOut = s.scaleOut := rfl
@[simp] theorem State.setHart_tlb (s : State) (h : Nat) (t : Hart) : (s.setHart h t).tlb = s.tlb := rfl
@[simp] theorem State.setHart_poison (s : State) (h : Nat) (t : Hart) : (s.setHart h t).poison = s.poison := rfl
@[simp] theorem State.setHart_secure (s : State) (h : Nat) (t : Hart) : (s.setHart h t).secure = s.secure := rfl
@[simp] theorem State.setHart_strict (s : State) (h : Nat) (t : Hart) : (s.setHart h t).strict = s.strict := rfl
@[simp] theorem State.setHart_chanOwner (s : State) (h : Nat) (t : Hart) : (s.setHart h t).chanOwner = s.chanOwner := rfl
@[simp] theorem State.setHart_coreOwner (s : State) (h : Nat) (t : Hart) : (s.setHart h t).coreOwner = s.coreOwner := rfl
@[simp] theorem State.setHart_plainCores (s : State) (h : Nat) (t : Hart) : (s.setHart h t).plainCores = s.plainCores := rfl
@[simp] theorem State.setHart_plainPorts (s : State) (h : Nat) (t : Hart) : (s.setHart h t).plainPorts = s.plainPorts := rfl
@[simp] theorem State.setHart_zeroing (s : State) (h : Nat) (t : Hart) : (s.setHart h t).zeroing = s.zeroing := rfl
@[simp] theorem State.setHart_granuleOwner (s : State) (h : Nat) (t : Hart) : (s.setHart h t).granuleOwner = s.granuleOwner := rfl
@[simp] theorem State.setHart_drained (s : State) (h : Nat) (t : Hart) : (s.setHart h t).drained = s.drained := rfl
@[simp] theorem State.setHart_dies (s : State) (h : Nat) (t : Hart) : (s.setHart h t).dies = s.dies := rfl
@[simp] theorem State.setHart_regions (s : State) (h : Nat) (t : Hart) : (s.setHart h t).regions = s.regions := rfl
@[simp] theorem State.setHart_headers (s : State) (h : Nat) (t : Hart) : (s.setHart h t).headers = s.headers := rfl
@[simp] theorem State.setHart_nextRegion (s : State) (h : Nat) (t : Hart) : (s.setHart h t).nextRegion = s.nextRegion := rfl
@[simp] theorem State.setHart_grants (s : State) (h : Nat) (t : Hart) : (s.setHart h t).grants = s.grants := rfl
@[simp] theorem State.setHart_pool (s : State) (h : Nat) (t : Hart) : (s.setHart h t).pool = s.pool := rfl
@[simp] theorem State.setHart_lockets (s : State) (h : Nat) (t : Hart) : (s.setHart h t).lockets = s.lockets := rfl
@[simp] theorem State.setHart_ctxs (s : State) (h : Nat) (t : Hart) : (s.setHart h t).ctxs = s.ctxs := rfl
@[simp] theorem State.setHart_collOps (s : State) (h : Nat) (t : Hart) : (s.setHart h t).collOps = s.collOps := rfl
@[simp] theorem State.setHart_collCount (s : State) (h : Nat) (t : Hart) : (s.setHart h t).collCount = s.collCount := rfl
@[simp] theorem State.setHart_outbox (s : State) (h : Nat) (t : Hart) : (s.setHart h t).outbox = s.outbox := rfl
@[simp] theorem State.setHart_held (s : State) (h : Nat) (t : Hart) : (s.setHart h t).held = s.held := rfl
@[simp] theorem State.setHart_collOut (s : State) (h : Nat) (t : Hart) : (s.setHart h t).collOut = s.collOut := rfl
@[simp] theorem State.setHart_collSent (s : State) (h : Nat) (t : Hart) : (s.setHart h t).collSent = s.collSent := rfl
@[simp] theorem State.setHart_collIn (s : State) (h : Nat) (t : Hart) : (s.setHart h t).collIn = s.collIn := rfl
@[simp] theorem State.setHart_holdsOut (s : State) (h : Nat) (t : Hart) : (s.setHart h t).holdsOut = s.holdsOut := rfl
@[simp] theorem State.setHart_conns (s : State) (h : Nat) (t : Hart) : (s.setHart h t).conns = s.conns := rfl
@[simp] theorem State.setHart_relay (s : State) (h : Nat) (t : Hart) : (s.setHart h t).relay = s.relay := rfl
@[simp] theorem State.setHart_frames (s : State) (h : Nat) (t : Hart) : (s.setHart h t).frames = s.frames := rfl
@[simp] theorem State.setHart_lscore (s : State) (h : Nat) (t : Hart) : (s.setHart h t).lscore = s.lscore := rfl
@[simp] theorem State.setHart_gscore (s : State) (h : Nat) (t : Hart) : (s.setHart h t).gscore = s.gscore := rfl
@[simp] theorem State.setHart_training (s : State) (h : Nat) (t : Hart) : (s.setHart h t).training = s.training := rfl
@[simp] theorem State.setHart_spent (s : State) (h : Nat) (t : Hart) : (s.setHart h t).spent = s.spent := rfl
@[simp] theorem State.setHart_meters (s : State) (h : Nat) (t : Hart) : (s.setHart h t).meters = s.meters := rfl
@[simp] theorem State.setHart_macs (s : State) (h : Nat) (t : Hart) : (s.setHart h t).macs = s.macs := rfl
@[simp] theorem State.setHart_windows (s : State) (h : Nat) (t : Hart) : (s.setHart h t).windows = s.windows := rfl
@[simp] theorem State.setHart_sealCount (s : State) (h : Nat) (t : Hart) : (s.setHart h t).sealCount = s.sealCount := rfl
@[simp] theorem State.setHart_pushes (s : State) (h : Nat) (t : Hart) : (s.setHart h t).pushes = s.pushes := rfl
@[simp] theorem State.setHart_pendSeals (s : State) (h : Nat) (t : Hart) : (s.setHart h t).pendSeals = s.pendSeals := rfl
@[simp] theorem State.setHart_perfacks (s : State) (h : Nat) (t : Hart) : (s.setHart h t).perfacks = s.perfacks := rfl
@[simp] theorem State.setHart_seqStamps (s : State) (h : Nat) (t : Hart) : (s.setHart h t).seqStamps = s.seqStamps := rfl
@[simp] theorem State.setHart_lastServed (s : State) (h : Nat) (t : Hart) : (s.setHart h t).lastServed = s.lastServed := rfl
@[simp] theorem State.setHart_epoch (s : State) (h : Nat) (t : Hart) : (s.setHart h t).epoch = s.epoch := rfl
@[simp] theorem State.setHart_ctab (s : State) (h : Nat) (t : Hart) : (s.setHart h t).ctab = s.ctab := rfl
@[simp] theorem State.setHart_swmode (s : State) (h : Nat) (t : Hart) : (s.setHart h t).swmode = s.swmode := rfl
@[simp] theorem State.setHart_time (s : State) (h : Nat) (t : Hart) : (s.setHart h t).time = s.time := rfl
@[simp] theorem State.setHart_podTime (s : State) (h : Nat) (t : Hart) : (s.setHart h t).podTime = s.podTime := rfl
@[simp] theorem State.setHart_timeOut (s : State) (h : Nat) (t : Hart) : (s.setHart h t).timeOut = s.timeOut := rfl
@[simp] theorem State.setHart_mailbox (s : State) (h : Nat) (t : Hart) : (s.setHart h t).mailbox = s.mailbox := rfl
@[simp] theorem State.setHart_bootStep (s : State) (h : Nat) (t : Hart) : (s.setHart h t).bootStep = s.bootStep := rfl
@[simp] theorem State.setHart_hostReads (s : State) (h : Nat) (t : Hart) : (s.setHart h t).hostReads = s.hostReads := rfl
@[simp] theorem State.setHart_links (s : State) (h : Nat) (t : Hart) : (s.setHart h t).links = s.links := rfl
@[simp] theorem State.setHart_posted (s : State) (h : Nat) (t : Hart) : (s.setHart h t).posted = s.posted := rfl
@[simp] theorem State.setHart_hostWaits (s : State) (h : Nat) (t : Hart) : (s.setHart h t).hostWaits = s.hostWaits := rfl
@[simp] theorem State.setHart_inputs (s : State) (h : Nat) (t : Hart) : (s.setHart h t).inputs = s.inputs := rfl
@[simp] theorem State.setHart_next (s : State) (h : Nat) (t : Hart) : (s.setHart h t).next = s.next := rfl
@[simp] theorem State.setHart_stops (s : State) (h : Nat) (t : Hart) : (s.setHart h t).stops = s.stops := rfl
@[simp] theorem State.setHart_prompt (s : State) (h : Nat) (t : Hart) : (s.setHart h t).prompt = s.prompt := rfl
@[simp] theorem State.setHart_fresh (s : State) (h : Nat) (t : Hart) : (s.setHart h t).fresh = s.fresh := rfl

@[simp] theorem State.writeByte_harts (s : State) (a : Nat) (b : Byte) : (s.writeByte a b).harts = s.harts := rfl
@[simp] theorem State.writeByte_cur (s : State) (a : Nat) (b : Byte) : (s.writeByte a b).cur = s.cur := rfl
@[simp] theorem State.writeByte_acc (s : State) (a : Nat) (b : Byte) : (s.writeByte a b).acc = s.acc := rfl
@[simp] theorem State.writeByte_laneOff (s : State) (a : Nat) (b : Byte) : (s.writeByte a b).laneOff = s.laneOff := rfl
@[simp] theorem State.writeByte_chip (s : State) (a : Nat) (b : Byte) : (s.writeByte a b).chip = s.chip := rfl
@[simp] theorem State.writeByte_live (s : State) (a : Nat) (b : Byte) : (s.writeByte a b).live = s.live := rfl
@[simp] theorem State.writeByte_groups (s : State) (a : Nat) (b : Byte) : (s.writeByte a b).groups = s.groups := rfl
@[simp] theorem State.writeByte_inbox (s : State) (a : Nat) (b : Byte) : (s.writeByte a b).inbox = s.inbox := rfl
@[simp] theorem State.writeByte_present (s : State) (a : Nat) (b : Byte) : (s.writeByte a b).present = s.present := rfl
@[simp] theorem State.writeByte_peers (s : State) (a : Nat) (b : Byte) : (s.writeByte a b).peers = s.peers := rfl
@[simp] theorem State.writeByte_scaleOut (s : State) (a : Nat) (b : Byte) : (s.writeByte a b).scaleOut = s.scaleOut := rfl
@[simp] theorem State.writeByte_tlb (s : State) (a : Nat) (b : Byte) : (s.writeByte a b).tlb = s.tlb := rfl
@[simp] theorem State.writeByte_poison (s : State) (a : Nat) (b : Byte) : (s.writeByte a b).poison = s.poison := rfl
@[simp] theorem State.writeByte_secure (s : State) (a : Nat) (b : Byte) : (s.writeByte a b).secure = s.secure := rfl
@[simp] theorem State.writeByte_strict (s : State) (a : Nat) (b : Byte) : (s.writeByte a b).strict = s.strict := rfl
@[simp] theorem State.writeByte_chanOwner (s : State) (a : Nat) (b : Byte) : (s.writeByte a b).chanOwner = s.chanOwner := rfl
@[simp] theorem State.writeByte_coreOwner (s : State) (a : Nat) (b : Byte) : (s.writeByte a b).coreOwner = s.coreOwner := rfl
@[simp] theorem State.writeByte_plainCores (s : State) (a : Nat) (b : Byte) : (s.writeByte a b).plainCores = s.plainCores := rfl
@[simp] theorem State.writeByte_plainPorts (s : State) (a : Nat) (b : Byte) : (s.writeByte a b).plainPorts = s.plainPorts := rfl
@[simp] theorem State.writeByte_zeroing (s : State) (a : Nat) (b : Byte) : (s.writeByte a b).zeroing = s.zeroing := rfl
@[simp] theorem State.writeByte_granuleOwner (s : State) (a : Nat) (b : Byte) : (s.writeByte a b).granuleOwner = s.granuleOwner := rfl
@[simp] theorem State.writeByte_drained (s : State) (a : Nat) (b : Byte) : (s.writeByte a b).drained = s.drained := rfl
@[simp] theorem State.writeByte_dies (s : State) (a : Nat) (b : Byte) : (s.writeByte a b).dies = s.dies := rfl
@[simp] theorem State.writeByte_regions (s : State) (a : Nat) (b : Byte) : (s.writeByte a b).regions = s.regions := rfl
@[simp] theorem State.writeByte_headers (s : State) (a : Nat) (b : Byte) : (s.writeByte a b).headers = s.headers := rfl
@[simp] theorem State.writeByte_nextRegion (s : State) (a : Nat) (b : Byte) : (s.writeByte a b).nextRegion = s.nextRegion := rfl
@[simp] theorem State.writeByte_grants (s : State) (a : Nat) (b : Byte) : (s.writeByte a b).grants = s.grants := rfl
@[simp] theorem State.writeByte_pool (s : State) (a : Nat) (b : Byte) : (s.writeByte a b).pool = s.pool := rfl
@[simp] theorem State.writeByte_lockets (s : State) (a : Nat) (b : Byte) : (s.writeByte a b).lockets = s.lockets := rfl
@[simp] theorem State.writeByte_ctxs (s : State) (a : Nat) (b : Byte) : (s.writeByte a b).ctxs = s.ctxs := rfl
@[simp] theorem State.writeByte_collOps (s : State) (a : Nat) (b : Byte) : (s.writeByte a b).collOps = s.collOps := rfl
@[simp] theorem State.writeByte_collCount (s : State) (a : Nat) (b : Byte) : (s.writeByte a b).collCount = s.collCount := rfl
@[simp] theorem State.writeByte_outbox (s : State) (a : Nat) (b : Byte) : (s.writeByte a b).outbox = s.outbox := rfl
@[simp] theorem State.writeByte_held (s : State) (a : Nat) (b : Byte) : (s.writeByte a b).held = s.held := rfl
@[simp] theorem State.writeByte_collOut (s : State) (a : Nat) (b : Byte) : (s.writeByte a b).collOut = s.collOut := rfl
@[simp] theorem State.writeByte_collSent (s : State) (a : Nat) (b : Byte) : (s.writeByte a b).collSent = s.collSent := rfl
@[simp] theorem State.writeByte_collIn (s : State) (a : Nat) (b : Byte) : (s.writeByte a b).collIn = s.collIn := rfl
@[simp] theorem State.writeByte_holdsOut (s : State) (a : Nat) (b : Byte) : (s.writeByte a b).holdsOut = s.holdsOut := rfl
@[simp] theorem State.writeByte_conns (s : State) (a : Nat) (b : Byte) : (s.writeByte a b).conns = s.conns := rfl
@[simp] theorem State.writeByte_relay (s : State) (a : Nat) (b : Byte) : (s.writeByte a b).relay = s.relay := rfl
@[simp] theorem State.writeByte_frames (s : State) (a : Nat) (b : Byte) : (s.writeByte a b).frames = s.frames := rfl
@[simp] theorem State.writeByte_lscore (s : State) (a : Nat) (b : Byte) : (s.writeByte a b).lscore = s.lscore := rfl
@[simp] theorem State.writeByte_gscore (s : State) (a : Nat) (b : Byte) : (s.writeByte a b).gscore = s.gscore := rfl
@[simp] theorem State.writeByte_training (s : State) (a : Nat) (b : Byte) : (s.writeByte a b).training = s.training := rfl
@[simp] theorem State.writeByte_spent (s : State) (a : Nat) (b : Byte) : (s.writeByte a b).spent = s.spent := rfl
@[simp] theorem State.writeByte_meters (s : State) (a : Nat) (b : Byte) : (s.writeByte a b).meters = s.meters := rfl
@[simp] theorem State.writeByte_macs (s : State) (a : Nat) (b : Byte) : (s.writeByte a b).macs = s.macs := rfl
@[simp] theorem State.writeByte_windows (s : State) (a : Nat) (b : Byte) : (s.writeByte a b).windows = s.windows := rfl
@[simp] theorem State.writeByte_sealCount (s : State) (a : Nat) (b : Byte) : (s.writeByte a b).sealCount = s.sealCount := rfl
@[simp] theorem State.writeByte_pushes (s : State) (a : Nat) (b : Byte) : (s.writeByte a b).pushes = s.pushes := rfl
@[simp] theorem State.writeByte_pendSeals (s : State) (a : Nat) (b : Byte) : (s.writeByte a b).pendSeals = s.pendSeals := rfl
@[simp] theorem State.writeByte_perfacks (s : State) (a : Nat) (b : Byte) : (s.writeByte a b).perfacks = s.perfacks := rfl
@[simp] theorem State.writeByte_seqStamps (s : State) (a : Nat) (b : Byte) : (s.writeByte a b).seqStamps = s.seqStamps := rfl
@[simp] theorem State.writeByte_lastServed (s : State) (a : Nat) (b : Byte) : (s.writeByte a b).lastServed = s.lastServed := rfl
@[simp] theorem State.writeByte_epoch (s : State) (a : Nat) (b : Byte) : (s.writeByte a b).epoch = s.epoch := rfl
@[simp] theorem State.writeByte_ctab (s : State) (a : Nat) (b : Byte) : (s.writeByte a b).ctab = s.ctab := rfl
@[simp] theorem State.writeByte_swmode (s : State) (a : Nat) (b : Byte) : (s.writeByte a b).swmode = s.swmode := rfl
@[simp] theorem State.writeByte_time (s : State) (a : Nat) (b : Byte) : (s.writeByte a b).time = s.time := rfl
@[simp] theorem State.writeByte_podTime (s : State) (a : Nat) (b : Byte) : (s.writeByte a b).podTime = s.podTime := rfl
@[simp] theorem State.writeByte_timeOut (s : State) (a : Nat) (b : Byte) : (s.writeByte a b).timeOut = s.timeOut := rfl
@[simp] theorem State.writeByte_mailbox (s : State) (a : Nat) (b : Byte) : (s.writeByte a b).mailbox = s.mailbox := rfl
@[simp] theorem State.writeByte_bootStep (s : State) (a : Nat) (b : Byte) : (s.writeByte a b).bootStep = s.bootStep := rfl
@[simp] theorem State.writeByte_hostReads (s : State) (a : Nat) (b : Byte) : (s.writeByte a b).hostReads = s.hostReads := rfl
@[simp] theorem State.writeByte_links (s : State) (a : Nat) (b : Byte) : (s.writeByte a b).links = s.links := rfl
@[simp] theorem State.writeByte_posted (s : State) (a : Nat) (b : Byte) : (s.writeByte a b).posted = s.posted := rfl
@[simp] theorem State.writeByte_hostWaits (s : State) (a : Nat) (b : Byte) : (s.writeByte a b).hostWaits = s.hostWaits := rfl
@[simp] theorem State.writeByte_inputs (s : State) (a : Nat) (b : Byte) : (s.writeByte a b).inputs = s.inputs := rfl
@[simp] theorem State.writeByte_next (s : State) (a : Nat) (b : Byte) : (s.writeByte a b).next = s.next := rfl
@[simp] theorem State.writeByte_stops (s : State) (a : Nat) (b : Byte) : (s.writeByte a b).stops = s.stops := rfl
@[simp] theorem State.writeByte_prompt (s : State) (a : Nat) (b : Byte) : (s.writeByte a b).prompt = s.prompt := rfl
@[simp] theorem State.writeByte_fresh (s : State) (a : Nat) (b : Byte) : (s.writeByte a b).fresh = s.fresh := rfl

@[simp] theorem State.setDie_mem (s : State) (d : Nat) (v : Die) : (s.setDie d v).mem = s.mem := rfl
@[simp] theorem State.setDie_harts (s : State) (d : Nat) (v : Die) : (s.setDie d v).harts = s.harts := rfl
@[simp] theorem State.setDie_cur (s : State) (d : Nat) (v : Die) : (s.setDie d v).cur = s.cur := rfl
@[simp] theorem State.setDie_acc (s : State) (d : Nat) (v : Die) : (s.setDie d v).acc = s.acc := rfl
@[simp] theorem State.setDie_laneOff (s : State) (d : Nat) (v : Die) : (s.setDie d v).laneOff = s.laneOff := rfl
@[simp] theorem State.setDie_chip (s : State) (d : Nat) (v : Die) : (s.setDie d v).chip = s.chip := rfl
@[simp] theorem State.setDie_live (s : State) (d : Nat) (v : Die) : (s.setDie d v).live = s.live := rfl
@[simp] theorem State.setDie_groups (s : State) (d : Nat) (v : Die) : (s.setDie d v).groups = s.groups := rfl
@[simp] theorem State.setDie_inbox (s : State) (d : Nat) (v : Die) : (s.setDie d v).inbox = s.inbox := rfl
@[simp] theorem State.setDie_present (s : State) (d : Nat) (v : Die) : (s.setDie d v).present = s.present := rfl
@[simp] theorem State.setDie_peers (s : State) (d : Nat) (v : Die) : (s.setDie d v).peers = s.peers := rfl
@[simp] theorem State.setDie_scaleOut (s : State) (d : Nat) (v : Die) : (s.setDie d v).scaleOut = s.scaleOut := rfl
@[simp] theorem State.setDie_tlb (s : State) (d : Nat) (v : Die) : (s.setDie d v).tlb = s.tlb := rfl
@[simp] theorem State.setDie_poison (s : State) (d : Nat) (v : Die) : (s.setDie d v).poison = s.poison := rfl
@[simp] theorem State.setDie_secure (s : State) (d : Nat) (v : Die) : (s.setDie d v).secure = s.secure := rfl
@[simp] theorem State.setDie_strict (s : State) (d : Nat) (v : Die) : (s.setDie d v).strict = s.strict := rfl
@[simp] theorem State.setDie_chanOwner (s : State) (d : Nat) (v : Die) : (s.setDie d v).chanOwner = s.chanOwner := rfl
@[simp] theorem State.setDie_coreOwner (s : State) (d : Nat) (v : Die) : (s.setDie d v).coreOwner = s.coreOwner := rfl
@[simp] theorem State.setDie_plainCores (s : State) (d : Nat) (v : Die) : (s.setDie d v).plainCores = s.plainCores := rfl
@[simp] theorem State.setDie_plainPorts (s : State) (d : Nat) (v : Die) : (s.setDie d v).plainPorts = s.plainPorts := rfl
@[simp] theorem State.setDie_zeroing (s : State) (d : Nat) (v : Die) : (s.setDie d v).zeroing = s.zeroing := rfl
@[simp] theorem State.setDie_granuleOwner (s : State) (d : Nat) (v : Die) : (s.setDie d v).granuleOwner = s.granuleOwner := rfl
@[simp] theorem State.setDie_drained (s : State) (d : Nat) (v : Die) : (s.setDie d v).drained = s.drained := rfl
@[simp] theorem State.setDie_regions (s : State) (d : Nat) (v : Die) : (s.setDie d v).regions = s.regions := rfl
@[simp] theorem State.setDie_headers (s : State) (d : Nat) (v : Die) : (s.setDie d v).headers = s.headers := rfl
@[simp] theorem State.setDie_nextRegion (s : State) (d : Nat) (v : Die) : (s.setDie d v).nextRegion = s.nextRegion := rfl
@[simp] theorem State.setDie_grants (s : State) (d : Nat) (v : Die) : (s.setDie d v).grants = s.grants := rfl
@[simp] theorem State.setDie_pool (s : State) (d : Nat) (v : Die) : (s.setDie d v).pool = s.pool := rfl
@[simp] theorem State.setDie_lockets (s : State) (d : Nat) (v : Die) : (s.setDie d v).lockets = s.lockets := rfl
@[simp] theorem State.setDie_ctxs (s : State) (d : Nat) (v : Die) : (s.setDie d v).ctxs = s.ctxs := rfl
@[simp] theorem State.setDie_collOps (s : State) (d : Nat) (v : Die) : (s.setDie d v).collOps = s.collOps := rfl
@[simp] theorem State.setDie_collCount (s : State) (d : Nat) (v : Die) : (s.setDie d v).collCount = s.collCount := rfl
@[simp] theorem State.setDie_outbox (s : State) (d : Nat) (v : Die) : (s.setDie d v).outbox = s.outbox := rfl
@[simp] theorem State.setDie_held (s : State) (d : Nat) (v : Die) : (s.setDie d v).held = s.held := rfl
@[simp] theorem State.setDie_collOut (s : State) (d : Nat) (v : Die) : (s.setDie d v).collOut = s.collOut := rfl
@[simp] theorem State.setDie_collSent (s : State) (d : Nat) (v : Die) : (s.setDie d v).collSent = s.collSent := rfl
@[simp] theorem State.setDie_collIn (s : State) (d : Nat) (v : Die) : (s.setDie d v).collIn = s.collIn := rfl
@[simp] theorem State.setDie_holdsOut (s : State) (d : Nat) (v : Die) : (s.setDie d v).holdsOut = s.holdsOut := rfl
@[simp] theorem State.setDie_conns (s : State) (d : Nat) (v : Die) : (s.setDie d v).conns = s.conns := rfl
@[simp] theorem State.setDie_relay (s : State) (d : Nat) (v : Die) : (s.setDie d v).relay = s.relay := rfl
@[simp] theorem State.setDie_frames (s : State) (d : Nat) (v : Die) : (s.setDie d v).frames = s.frames := rfl
@[simp] theorem State.setDie_lscore (s : State) (d : Nat) (v : Die) : (s.setDie d v).lscore = s.lscore := rfl
@[simp] theorem State.setDie_gscore (s : State) (d : Nat) (v : Die) : (s.setDie d v).gscore = s.gscore := rfl
@[simp] theorem State.setDie_training (s : State) (d : Nat) (v : Die) : (s.setDie d v).training = s.training := rfl
@[simp] theorem State.setDie_spent (s : State) (d : Nat) (v : Die) : (s.setDie d v).spent = s.spent := rfl
@[simp] theorem State.setDie_meters (s : State) (d : Nat) (v : Die) : (s.setDie d v).meters = s.meters := rfl
@[simp] theorem State.setDie_macs (s : State) (d : Nat) (v : Die) : (s.setDie d v).macs = s.macs := rfl
@[simp] theorem State.setDie_windows (s : State) (d : Nat) (v : Die) : (s.setDie d v).windows = s.windows := rfl
@[simp] theorem State.setDie_sealCount (s : State) (d : Nat) (v : Die) : (s.setDie d v).sealCount = s.sealCount := rfl
@[simp] theorem State.setDie_pushes (s : State) (d : Nat) (v : Die) : (s.setDie d v).pushes = s.pushes := rfl
@[simp] theorem State.setDie_pendSeals (s : State) (d : Nat) (v : Die) : (s.setDie d v).pendSeals = s.pendSeals := rfl
@[simp] theorem State.setDie_perfacks (s : State) (d : Nat) (v : Die) : (s.setDie d v).perfacks = s.perfacks := rfl
@[simp] theorem State.setDie_seqStamps (s : State) (d : Nat) (v : Die) : (s.setDie d v).seqStamps = s.seqStamps := rfl
@[simp] theorem State.setDie_lastServed (s : State) (d : Nat) (v : Die) : (s.setDie d v).lastServed = s.lastServed := rfl
@[simp] theorem State.setDie_epoch (s : State) (d : Nat) (v : Die) : (s.setDie d v).epoch = s.epoch := rfl
@[simp] theorem State.setDie_ctab (s : State) (d : Nat) (v : Die) : (s.setDie d v).ctab = s.ctab := rfl
@[simp] theorem State.setDie_swmode (s : State) (d : Nat) (v : Die) : (s.setDie d v).swmode = s.swmode := rfl
@[simp] theorem State.setDie_time (s : State) (d : Nat) (v : Die) : (s.setDie d v).time = s.time := rfl
@[simp] theorem State.setDie_podTime (s : State) (d : Nat) (v : Die) : (s.setDie d v).podTime = s.podTime := rfl
@[simp] theorem State.setDie_timeOut (s : State) (d : Nat) (v : Die) : (s.setDie d v).timeOut = s.timeOut := rfl
@[simp] theorem State.setDie_mailbox (s : State) (d : Nat) (v : Die) : (s.setDie d v).mailbox = s.mailbox := rfl
@[simp] theorem State.setDie_bootStep (s : State) (d : Nat) (v : Die) : (s.setDie d v).bootStep = s.bootStep := rfl
@[simp] theorem State.setDie_hostReads (s : State) (d : Nat) (v : Die) : (s.setDie d v).hostReads = s.hostReads := rfl
@[simp] theorem State.setDie_links (s : State) (d : Nat) (v : Die) : (s.setDie d v).links = s.links := rfl
@[simp] theorem State.setDie_posted (s : State) (d : Nat) (v : Die) : (s.setDie d v).posted = s.posted := rfl
@[simp] theorem State.setDie_hostWaits (s : State) (d : Nat) (v : Die) : (s.setDie d v).hostWaits = s.hostWaits := rfl
@[simp] theorem State.setDie_inputs (s : State) (d : Nat) (v : Die) : (s.setDie d v).inputs = s.inputs := rfl
@[simp] theorem State.setDie_next (s : State) (d : Nat) (v : Die) : (s.setDie d v).next = s.next := rfl
@[simp] theorem State.setDie_stops (s : State) (d : Nat) (v : Die) : (s.setDie d v).stops = s.stops := rfl
@[simp] theorem State.setDie_prompt (s : State) (d : Nat) (v : Die) : (s.setDie d v).prompt = s.prompt := rfl
@[simp] theorem State.setDie_fresh (s : State) (d : Nat) (v : Die) : (s.setDie d v).fresh = s.fresh := rfl

@[simp] theorem State.setCtx_mem (s : State) (k : Nat) (c : Ctx) : (s.setCtx k c).mem = s.mem := rfl
@[simp] theorem State.setCtx_harts (s : State) (k : Nat) (c : Ctx) : (s.setCtx k c).harts = s.harts := rfl
@[simp] theorem State.setCtx_cur (s : State) (k : Nat) (c : Ctx) : (s.setCtx k c).cur = s.cur := rfl
@[simp] theorem State.setCtx_acc (s : State) (k : Nat) (c : Ctx) : (s.setCtx k c).acc = s.acc := rfl
@[simp] theorem State.setCtx_laneOff (s : State) (k : Nat) (c : Ctx) : (s.setCtx k c).laneOff = s.laneOff := rfl
@[simp] theorem State.setCtx_chip (s : State) (k : Nat) (c : Ctx) : (s.setCtx k c).chip = s.chip := rfl
@[simp] theorem State.setCtx_live (s : State) (k : Nat) (c : Ctx) : (s.setCtx k c).live = s.live := rfl
@[simp] theorem State.setCtx_groups (s : State) (k : Nat) (c : Ctx) : (s.setCtx k c).groups = s.groups := rfl
@[simp] theorem State.setCtx_inbox (s : State) (k : Nat) (c : Ctx) : (s.setCtx k c).inbox = s.inbox := rfl
@[simp] theorem State.setCtx_present (s : State) (k : Nat) (c : Ctx) : (s.setCtx k c).present = s.present := rfl
@[simp] theorem State.setCtx_peers (s : State) (k : Nat) (c : Ctx) : (s.setCtx k c).peers = s.peers := rfl
@[simp] theorem State.setCtx_scaleOut (s : State) (k : Nat) (c : Ctx) : (s.setCtx k c).scaleOut = s.scaleOut := rfl
@[simp] theorem State.setCtx_tlb (s : State) (k : Nat) (c : Ctx) : (s.setCtx k c).tlb = s.tlb := rfl
@[simp] theorem State.setCtx_poison (s : State) (k : Nat) (c : Ctx) : (s.setCtx k c).poison = s.poison := rfl
@[simp] theorem State.setCtx_secure (s : State) (k : Nat) (c : Ctx) : (s.setCtx k c).secure = s.secure := rfl
@[simp] theorem State.setCtx_strict (s : State) (k : Nat) (c : Ctx) : (s.setCtx k c).strict = s.strict := rfl
@[simp] theorem State.setCtx_chanOwner (s : State) (k : Nat) (c : Ctx) : (s.setCtx k c).chanOwner = s.chanOwner := rfl
@[simp] theorem State.setCtx_coreOwner (s : State) (k : Nat) (c : Ctx) : (s.setCtx k c).coreOwner = s.coreOwner := rfl
@[simp] theorem State.setCtx_plainCores (s : State) (k : Nat) (c : Ctx) : (s.setCtx k c).plainCores = s.plainCores := rfl
@[simp] theorem State.setCtx_plainPorts (s : State) (k : Nat) (c : Ctx) : (s.setCtx k c).plainPorts = s.plainPorts := rfl
@[simp] theorem State.setCtx_zeroing (s : State) (k : Nat) (c : Ctx) : (s.setCtx k c).zeroing = s.zeroing := rfl
@[simp] theorem State.setCtx_granuleOwner (s : State) (k : Nat) (c : Ctx) : (s.setCtx k c).granuleOwner = s.granuleOwner := rfl
@[simp] theorem State.setCtx_drained (s : State) (k : Nat) (c : Ctx) : (s.setCtx k c).drained = s.drained := rfl
@[simp] theorem State.setCtx_dies (s : State) (k : Nat) (c : Ctx) : (s.setCtx k c).dies = s.dies := rfl
@[simp] theorem State.setCtx_regions (s : State) (k : Nat) (c : Ctx) : (s.setCtx k c).regions = s.regions := rfl
@[simp] theorem State.setCtx_headers (s : State) (k : Nat) (c : Ctx) : (s.setCtx k c).headers = s.headers := rfl
@[simp] theorem State.setCtx_nextRegion (s : State) (k : Nat) (c : Ctx) : (s.setCtx k c).nextRegion = s.nextRegion := rfl
@[simp] theorem State.setCtx_grants (s : State) (k : Nat) (c : Ctx) : (s.setCtx k c).grants = s.grants := rfl
@[simp] theorem State.setCtx_pool (s : State) (k : Nat) (c : Ctx) : (s.setCtx k c).pool = s.pool := rfl
@[simp] theorem State.setCtx_lockets (s : State) (k : Nat) (c : Ctx) : (s.setCtx k c).lockets = s.lockets := rfl
@[simp] theorem State.setCtx_collOps (s : State) (k : Nat) (c : Ctx) : (s.setCtx k c).collOps = s.collOps := rfl
@[simp] theorem State.setCtx_collCount (s : State) (k : Nat) (c : Ctx) : (s.setCtx k c).collCount = s.collCount := rfl
@[simp] theorem State.setCtx_outbox (s : State) (k : Nat) (c : Ctx) : (s.setCtx k c).outbox = s.outbox := rfl
@[simp] theorem State.setCtx_held (s : State) (k : Nat) (c : Ctx) : (s.setCtx k c).held = s.held := rfl
@[simp] theorem State.setCtx_collOut (s : State) (k : Nat) (c : Ctx) : (s.setCtx k c).collOut = s.collOut := rfl
@[simp] theorem State.setCtx_collSent (s : State) (k : Nat) (c : Ctx) : (s.setCtx k c).collSent = s.collSent := rfl
@[simp] theorem State.setCtx_collIn (s : State) (k : Nat) (c : Ctx) : (s.setCtx k c).collIn = s.collIn := rfl
@[simp] theorem State.setCtx_holdsOut (s : State) (k : Nat) (c : Ctx) : (s.setCtx k c).holdsOut = s.holdsOut := rfl
@[simp] theorem State.setCtx_conns (s : State) (k : Nat) (c : Ctx) : (s.setCtx k c).conns = s.conns := rfl
@[simp] theorem State.setCtx_relay (s : State) (k : Nat) (c : Ctx) : (s.setCtx k c).relay = s.relay := rfl
@[simp] theorem State.setCtx_frames (s : State) (k : Nat) (c : Ctx) : (s.setCtx k c).frames = s.frames := rfl
@[simp] theorem State.setCtx_lscore (s : State) (k : Nat) (c : Ctx) : (s.setCtx k c).lscore = s.lscore := rfl
@[simp] theorem State.setCtx_gscore (s : State) (k : Nat) (c : Ctx) : (s.setCtx k c).gscore = s.gscore := rfl
@[simp] theorem State.setCtx_training (s : State) (k : Nat) (c : Ctx) : (s.setCtx k c).training = s.training := rfl
@[simp] theorem State.setCtx_spent (s : State) (k : Nat) (c : Ctx) : (s.setCtx k c).spent = s.spent := rfl
@[simp] theorem State.setCtx_meters (s : State) (k : Nat) (c : Ctx) : (s.setCtx k c).meters = s.meters := rfl
@[simp] theorem State.setCtx_macs (s : State) (k : Nat) (c : Ctx) : (s.setCtx k c).macs = s.macs := rfl
@[simp] theorem State.setCtx_windows (s : State) (k : Nat) (c : Ctx) : (s.setCtx k c).windows = s.windows := rfl
@[simp] theorem State.setCtx_sealCount (s : State) (k : Nat) (c : Ctx) : (s.setCtx k c).sealCount = s.sealCount := rfl
@[simp] theorem State.setCtx_pushes (s : State) (k : Nat) (c : Ctx) : (s.setCtx k c).pushes = s.pushes := rfl
@[simp] theorem State.setCtx_pendSeals (s : State) (k : Nat) (c : Ctx) : (s.setCtx k c).pendSeals = s.pendSeals := rfl
@[simp] theorem State.setCtx_perfacks (s : State) (k : Nat) (c : Ctx) : (s.setCtx k c).perfacks = s.perfacks := rfl
@[simp] theorem State.setCtx_seqStamps (s : State) (k : Nat) (c : Ctx) : (s.setCtx k c).seqStamps = s.seqStamps := rfl
@[simp] theorem State.setCtx_lastServed (s : State) (k : Nat) (c : Ctx) : (s.setCtx k c).lastServed = s.lastServed := rfl
@[simp] theorem State.setCtx_epoch (s : State) (k : Nat) (c : Ctx) : (s.setCtx k c).epoch = s.epoch := rfl
@[simp] theorem State.setCtx_ctab (s : State) (k : Nat) (c : Ctx) : (s.setCtx k c).ctab = s.ctab := rfl
@[simp] theorem State.setCtx_swmode (s : State) (k : Nat) (c : Ctx) : (s.setCtx k c).swmode = s.swmode := rfl
@[simp] theorem State.setCtx_time (s : State) (k : Nat) (c : Ctx) : (s.setCtx k c).time = s.time := rfl
@[simp] theorem State.setCtx_podTime (s : State) (k : Nat) (c : Ctx) : (s.setCtx k c).podTime = s.podTime := rfl
@[simp] theorem State.setCtx_timeOut (s : State) (k : Nat) (c : Ctx) : (s.setCtx k c).timeOut = s.timeOut := rfl
@[simp] theorem State.setCtx_mailbox (s : State) (k : Nat) (c : Ctx) : (s.setCtx k c).mailbox = s.mailbox := rfl
@[simp] theorem State.setCtx_bootStep (s : State) (k : Nat) (c : Ctx) : (s.setCtx k c).bootStep = s.bootStep := rfl
@[simp] theorem State.setCtx_hostReads (s : State) (k : Nat) (c : Ctx) : (s.setCtx k c).hostReads = s.hostReads := rfl
@[simp] theorem State.setCtx_links (s : State) (k : Nat) (c : Ctx) : (s.setCtx k c).links = s.links := rfl
@[simp] theorem State.setCtx_posted (s : State) (k : Nat) (c : Ctx) : (s.setCtx k c).posted = s.posted := rfl
@[simp] theorem State.setCtx_hostWaits (s : State) (k : Nat) (c : Ctx) : (s.setCtx k c).hostWaits = s.hostWaits := rfl
@[simp] theorem State.setCtx_inputs (s : State) (k : Nat) (c : Ctx) : (s.setCtx k c).inputs = s.inputs := rfl
@[simp] theorem State.setCtx_next (s : State) (k : Nat) (c : Ctx) : (s.setCtx k c).next = s.next := rfl
@[simp] theorem State.setCtx_stops (s : State) (k : Nat) (c : Ctx) : (s.setCtx k c).stops = s.stops := rfl
@[simp] theorem State.setCtx_prompt (s : State) (k : Nat) (c : Ctx) : (s.setCtx k c).prompt = s.prompt := rfl
@[simp] theorem State.setCtx_fresh (s : State) (k : Nat) (c : Ctx) : (s.setCtx k c).fresh = s.fresh := rfl

@[simp] theorem State.withMe_mem (s : State) (g : Hart → Hart) : (s.withMe g).mem = s.mem := rfl
@[simp] theorem State.withMe_cur (s : State) (g : Hart → Hart) : (s.withMe g).cur = s.cur := rfl
@[simp] theorem State.withMe_acc (s : State) (g : Hart → Hart) : (s.withMe g).acc = s.acc := rfl
@[simp] theorem State.withMe_laneOff (s : State) (g : Hart → Hart) : (s.withMe g).laneOff = s.laneOff := rfl
@[simp] theorem State.withMe_chip (s : State) (g : Hart → Hart) : (s.withMe g).chip = s.chip := rfl
@[simp] theorem State.withMe_live (s : State) (g : Hart → Hart) : (s.withMe g).live = s.live := rfl
@[simp] theorem State.withMe_groups (s : State) (g : Hart → Hart) : (s.withMe g).groups = s.groups := rfl
@[simp] theorem State.withMe_inbox (s : State) (g : Hart → Hart) : (s.withMe g).inbox = s.inbox := rfl
@[simp] theorem State.withMe_present (s : State) (g : Hart → Hart) : (s.withMe g).present = s.present := rfl
@[simp] theorem State.withMe_peers (s : State) (g : Hart → Hart) : (s.withMe g).peers = s.peers := rfl
@[simp] theorem State.withMe_scaleOut (s : State) (g : Hart → Hart) : (s.withMe g).scaleOut = s.scaleOut := rfl
@[simp] theorem State.withMe_tlb (s : State) (g : Hart → Hart) : (s.withMe g).tlb = s.tlb := rfl
@[simp] theorem State.withMe_poison (s : State) (g : Hart → Hart) : (s.withMe g).poison = s.poison := rfl
@[simp] theorem State.withMe_secure (s : State) (g : Hart → Hart) : (s.withMe g).secure = s.secure := rfl
@[simp] theorem State.withMe_strict (s : State) (g : Hart → Hart) : (s.withMe g).strict = s.strict := rfl
@[simp] theorem State.withMe_chanOwner (s : State) (g : Hart → Hart) : (s.withMe g).chanOwner = s.chanOwner := rfl
@[simp] theorem State.withMe_coreOwner (s : State) (g : Hart → Hart) : (s.withMe g).coreOwner = s.coreOwner := rfl
@[simp] theorem State.withMe_plainCores (s : State) (g : Hart → Hart) : (s.withMe g).plainCores = s.plainCores := rfl
@[simp] theorem State.withMe_plainPorts (s : State) (g : Hart → Hart) : (s.withMe g).plainPorts = s.plainPorts := rfl
@[simp] theorem State.withMe_zeroing (s : State) (g : Hart → Hart) : (s.withMe g).zeroing = s.zeroing := rfl
@[simp] theorem State.withMe_granuleOwner (s : State) (g : Hart → Hart) : (s.withMe g).granuleOwner = s.granuleOwner := rfl
@[simp] theorem State.withMe_drained (s : State) (g : Hart → Hart) : (s.withMe g).drained = s.drained := rfl
@[simp] theorem State.withMe_dies (s : State) (g : Hart → Hart) : (s.withMe g).dies = s.dies := rfl
@[simp] theorem State.withMe_regions (s : State) (g : Hart → Hart) : (s.withMe g).regions = s.regions := rfl
@[simp] theorem State.withMe_headers (s : State) (g : Hart → Hart) : (s.withMe g).headers = s.headers := rfl
@[simp] theorem State.withMe_nextRegion (s : State) (g : Hart → Hart) : (s.withMe g).nextRegion = s.nextRegion := rfl
@[simp] theorem State.withMe_grants (s : State) (g : Hart → Hart) : (s.withMe g).grants = s.grants := rfl
@[simp] theorem State.withMe_pool (s : State) (g : Hart → Hart) : (s.withMe g).pool = s.pool := rfl
@[simp] theorem State.withMe_lockets (s : State) (g : Hart → Hart) : (s.withMe g).lockets = s.lockets := rfl
@[simp] theorem State.withMe_ctxs (s : State) (g : Hart → Hart) : (s.withMe g).ctxs = s.ctxs := rfl
@[simp] theorem State.withMe_collOps (s : State) (g : Hart → Hart) : (s.withMe g).collOps = s.collOps := rfl
@[simp] theorem State.withMe_collCount (s : State) (g : Hart → Hart) : (s.withMe g).collCount = s.collCount := rfl
@[simp] theorem State.withMe_outbox (s : State) (g : Hart → Hart) : (s.withMe g).outbox = s.outbox := rfl
@[simp] theorem State.withMe_held (s : State) (g : Hart → Hart) : (s.withMe g).held = s.held := rfl
@[simp] theorem State.withMe_collOut (s : State) (g : Hart → Hart) : (s.withMe g).collOut = s.collOut := rfl
@[simp] theorem State.withMe_collSent (s : State) (g : Hart → Hart) : (s.withMe g).collSent = s.collSent := rfl
@[simp] theorem State.withMe_collIn (s : State) (g : Hart → Hart) : (s.withMe g).collIn = s.collIn := rfl
@[simp] theorem State.withMe_holdsOut (s : State) (g : Hart → Hart) : (s.withMe g).holdsOut = s.holdsOut := rfl
@[simp] theorem State.withMe_conns (s : State) (g : Hart → Hart) : (s.withMe g).conns = s.conns := rfl
@[simp] theorem State.withMe_relay (s : State) (g : Hart → Hart) : (s.withMe g).relay = s.relay := rfl
@[simp] theorem State.withMe_frames (s : State) (g : Hart → Hart) : (s.withMe g).frames = s.frames := rfl
@[simp] theorem State.withMe_lscore (s : State) (g : Hart → Hart) : (s.withMe g).lscore = s.lscore := rfl
@[simp] theorem State.withMe_gscore (s : State) (g : Hart → Hart) : (s.withMe g).gscore = s.gscore := rfl
@[simp] theorem State.withMe_training (s : State) (g : Hart → Hart) : (s.withMe g).training = s.training := rfl
@[simp] theorem State.withMe_spent (s : State) (g : Hart → Hart) : (s.withMe g).spent = s.spent := rfl
@[simp] theorem State.withMe_meters (s : State) (g : Hart → Hart) : (s.withMe g).meters = s.meters := rfl
@[simp] theorem State.withMe_macs (s : State) (g : Hart → Hart) : (s.withMe g).macs = s.macs := rfl
@[simp] theorem State.withMe_windows (s : State) (g : Hart → Hart) : (s.withMe g).windows = s.windows := rfl
@[simp] theorem State.withMe_sealCount (s : State) (g : Hart → Hart) : (s.withMe g).sealCount = s.sealCount := rfl
@[simp] theorem State.withMe_pushes (s : State) (g : Hart → Hart) : (s.withMe g).pushes = s.pushes := rfl
@[simp] theorem State.withMe_pendSeals (s : State) (g : Hart → Hart) : (s.withMe g).pendSeals = s.pendSeals := rfl
@[simp] theorem State.withMe_perfacks (s : State) (g : Hart → Hart) : (s.withMe g).perfacks = s.perfacks := rfl
@[simp] theorem State.withMe_seqStamps (s : State) (g : Hart → Hart) : (s.withMe g).seqStamps = s.seqStamps := rfl
@[simp] theorem State.withMe_lastServed (s : State) (g : Hart → Hart) : (s.withMe g).lastServed = s.lastServed := rfl
@[simp] theorem State.withMe_epoch (s : State) (g : Hart → Hart) : (s.withMe g).epoch = s.epoch := rfl
@[simp] theorem State.withMe_ctab (s : State) (g : Hart → Hart) : (s.withMe g).ctab = s.ctab := rfl
@[simp] theorem State.withMe_swmode (s : State) (g : Hart → Hart) : (s.withMe g).swmode = s.swmode := rfl
@[simp] theorem State.withMe_time (s : State) (g : Hart → Hart) : (s.withMe g).time = s.time := rfl
@[simp] theorem State.withMe_podTime (s : State) (g : Hart → Hart) : (s.withMe g).podTime = s.podTime := rfl
@[simp] theorem State.withMe_timeOut (s : State) (g : Hart → Hart) : (s.withMe g).timeOut = s.timeOut := rfl
@[simp] theorem State.withMe_mailbox (s : State) (g : Hart → Hart) : (s.withMe g).mailbox = s.mailbox := rfl
@[simp] theorem State.withMe_bootStep (s : State) (g : Hart → Hart) : (s.withMe g).bootStep = s.bootStep := rfl
@[simp] theorem State.withMe_hostReads (s : State) (g : Hart → Hart) : (s.withMe g).hostReads = s.hostReads := rfl
@[simp] theorem State.withMe_links (s : State) (g : Hart → Hart) : (s.withMe g).links = s.links := rfl
@[simp] theorem State.withMe_posted (s : State) (g : Hart → Hart) : (s.withMe g).posted = s.posted := rfl
@[simp] theorem State.withMe_hostWaits (s : State) (g : Hart → Hart) : (s.withMe g).hostWaits = s.hostWaits := rfl
@[simp] theorem State.withMe_inputs (s : State) (g : Hart → Hart) : (s.withMe g).inputs = s.inputs := rfl
@[simp] theorem State.withMe_next (s : State) (g : Hart → Hart) : (s.withMe g).next = s.next := rfl
@[simp] theorem State.withMe_stops (s : State) (g : Hart → Hart) : (s.withMe g).stops = s.stops := rfl
@[simp] theorem State.withMe_prompt (s : State) (g : Hart → Hart) : (s.withMe g).prompt = s.prompt := rfl
@[simp] theorem State.withMe_fresh (s : State) (g : Hart → Hart) : (s.withMe g).fresh = s.fresh := rfl

/-! ### Updates of a hart -/

@[simp] theorem Hart.advance_run (t : Hart) : (t.advance).run = t.run := rfl
@[simp] theorem Hart.advance_priv (t : Hart) : (t.advance).priv = t.priv := rfl
@[simp] theorem Hart.advance_entering (t : Hart) : (t.advance).entering = t.entering := rfl
@[simp] theorem Hart.advance_x (t : Hart) : (t.advance).x = t.x := rfl
@[simp] theorem Hart.advance_v (t : Hart) : (t.advance).v = t.v := rfl
@[simp] theorem Hart.advance_m (t : Hart) : (t.advance).m = t.m := rfl
@[simp] theorem Hart.advance_cb (t : Hart) : (t.advance).cb = t.cb := rfl
@[simp] theorem Hart.advance_cc (t : Hart) : (t.advance).cc = t.cc := rfl
@[simp] theorem Hart.advance_csr (t : Hart) : (t.advance).csr = t.csr := rfl
@[simp] theorem Hart.advance_away (t : Hart) : (t.advance).away = t.away := rfl
@[simp] theorem Hart.advance_map (t : Hart) : (t.advance).map = t.map := rfl
@[simp] theorem Hart.advance_pending (t : Hart) : (t.advance).pending = t.pending := rfl
@[simp] theorem Hart.advance_reduced (t : Hart) : (t.advance).reduced = t.reduced := rfl
@[simp] theorem Hart.advance_limit (t : Hart) : (t.advance).limit = t.limit := rfl
@[simp] theorem Hart.advance_demand (t : Hart) : (t.advance).demand = t.demand := rfl
@[simp] theorem Hart.advance_convoyOpen (t : Hart) : (t.advance).convoyOpen = t.convoyOpen := rfl
@[simp] theorem Hart.advance_queue (t : Hart) : (t.advance).queue = t.queue := rfl
@[simp] theorem Hart.advance_tile (t : Hart) : (t.advance).tile = t.tile := rfl
@[simp] theorem Hart.advance_nb (t : Hart) : (t.advance).nb = t.nb := rfl
@[simp] theorem Hart.advance_rep (t : Hart) : (t.advance).rep = t.rep := rfl
@[simp] theorem Hart.advance_matrix (t : Hart) : (t.advance).matrix = t.matrix := rfl
@[simp] theorem Hart.advance_family (t : Hart) : (t.advance).family = t.family := rfl
@[simp] theorem Hart.advance_ctxs (t : Hart) : (t.advance).ctxs = t.ctxs := rfl
@[simp] theorem Hart.advance_engFault (t : Hart) : (t.advance).engFault = t.engFault := rfl
@[simp] theorem Hart.advance_collFault (t : Hart) : (t.advance).collFault = t.collFault := rfl
@[simp] theorem Hart.advance_pflags (t : Hart) : (t.advance).pflags = t.pflags := rfl
@[simp] theorem Hart.advance_unsealed (t : Hart) : (t.advance).unsealed = t.unsealed := rfl
@[simp] theorem Hart.advance_inherited (t : Hart) : (t.advance).inherited = t.inherited := rfl
@[simp] theorem Hart.advance_asks (t : Hart) : (t.advance).asks = t.asks := rfl
@[simp] theorem Hart.advance_access (t : Hart) : (t.advance).access = t.access := rfl
@[simp] theorem Hart.advance_fetching (t : Hart) : (t.advance).fetching = t.fetching := rfl
@[simp] theorem Hart.advance_tracked (t : Hart) : (t.advance).tracked = t.tracked := rfl
@[simp] theorem Hart.advance_sealing (t : Hart) : (t.advance).sealing = t.sealing := rfl
@[simp] theorem Hart.advance_sealFailed (t : Hart) : (t.advance).sealFailed = t.sealFailed := rfl
@[simp] theorem Hart.advance_launching (t : Hart) : (t.advance).launching = t.launching := rfl
@[simp] theorem Hart.advance_region (t : Hart) : (t.advance).region = t.region := rfl
@[simp] theorem Hart.advance_stage (t : Hart) : (t.advance).stage = t.stage := rfl
@[simp] theorem Hart.advance_granted (t : Hart) : (t.advance).granted = t.granted := rfl
@[simp] theorem Hart.advance_issuedAt (t : Hart) : (t.advance).issuedAt = t.issuedAt := rfl
@[simp] theorem Hart.advance_issuedIn (t : Hart) : (t.advance).issuedIn = t.issuedIn := rfl
@[simp] theorem Hart.advance_multi (t : Hart) : (t.advance).multi = t.multi := rfl
@[simp] theorem Hart.advance_yielded (t : Hart) : (t.advance).yielded = t.yielded := rfl
@[simp] theorem Hart.advance_graceAt (t : Hart) : (t.advance).graceAt = t.graceAt := rfl
@[simp] theorem Hart.advance_lastStamp (t : Hart) : (t.advance).lastStamp = t.lastStamp := rfl
@[simp] theorem Hart.advance_saved (t : Hart) : (t.advance).saved = t.saved := rfl
@[simp] theorem Hart.advance_laneLost (t : Hart) : (t.advance).laneLost = t.laneLost := rfl
@[simp] theorem Hart.advance_laneDue (t : Hart) : (t.advance).laneDue = t.laneDue := rfl
@[simp] theorem Hart.advance_lost (t : Hart) : (t.advance).lost = t.lost := rfl
@[simp] theorem Hart.advance_stalled (t : Hart) : (t.advance).stalled = t.stalled := rfl
@[simp] theorem Hart.advance_qstalled (t : Hart) : (t.advance).qstalled = t.qstalled := rfl
@[simp] theorem Hart.advance_space (t : Hart) : (t.advance).space = t.space := rfl

@[simp] theorem Hart.closeConvoy_run (t : Hart) : (t.closeConvoy).run = t.run := rfl
@[simp] theorem Hart.closeConvoy_pc (t : Hart) : (t.closeConvoy).pc = t.pc := rfl
@[simp] theorem Hart.closeConvoy_priv (t : Hart) : (t.closeConvoy).priv = t.priv := rfl
@[simp] theorem Hart.closeConvoy_entering (t : Hart) : (t.closeConvoy).entering = t.entering := rfl
@[simp] theorem Hart.closeConvoy_x (t : Hart) : (t.closeConvoy).x = t.x := rfl
@[simp] theorem Hart.closeConvoy_v (t : Hart) : (t.closeConvoy).v = t.v := rfl
@[simp] theorem Hart.closeConvoy_m (t : Hart) : (t.closeConvoy).m = t.m := rfl
@[simp] theorem Hart.closeConvoy_cb (t : Hart) : (t.closeConvoy).cb = t.cb := rfl
@[simp] theorem Hart.closeConvoy_cc (t : Hart) : (t.closeConvoy).cc = t.cc := rfl
@[simp] theorem Hart.closeConvoy_csr (t : Hart) : (t.closeConvoy).csr = t.csr := rfl
@[simp] theorem Hart.closeConvoy_away (t : Hart) : (t.closeConvoy).away = t.away := rfl
@[simp] theorem Hart.closeConvoy_map (t : Hart) : (t.closeConvoy).map = t.map := rfl
@[simp] theorem Hart.closeConvoy_pending (t : Hart) : (t.closeConvoy).pending = t.pending := rfl
@[simp] theorem Hart.closeConvoy_reduced (t : Hart) : (t.closeConvoy).reduced = t.reduced := rfl
@[simp] theorem Hart.closeConvoy_limit (t : Hart) : (t.closeConvoy).limit = t.limit := rfl
@[simp] theorem Hart.closeConvoy_demand (t : Hart) : (t.closeConvoy).demand = t.demand := rfl
@[simp] theorem Hart.closeConvoy_queue (t : Hart) : (t.closeConvoy).queue = t.queue := rfl
@[simp] theorem Hart.closeConvoy_tile (t : Hart) : (t.closeConvoy).tile = t.tile := rfl
@[simp] theorem Hart.closeConvoy_nb (t : Hart) : (t.closeConvoy).nb = t.nb := rfl
@[simp] theorem Hart.closeConvoy_rep (t : Hart) : (t.closeConvoy).rep = t.rep := rfl
@[simp] theorem Hart.closeConvoy_wait (t : Hart) : (t.closeConvoy).wait = t.wait := rfl
@[simp] theorem Hart.closeConvoy_matrix (t : Hart) : (t.closeConvoy).matrix = t.matrix := rfl
@[simp] theorem Hart.closeConvoy_family (t : Hart) : (t.closeConvoy).family = t.family := rfl
@[simp] theorem Hart.closeConvoy_ctxs (t : Hart) : (t.closeConvoy).ctxs = t.ctxs := rfl
@[simp] theorem Hart.closeConvoy_engFault (t : Hart) : (t.closeConvoy).engFault = t.engFault := rfl
@[simp] theorem Hart.closeConvoy_collFault (t : Hart) : (t.closeConvoy).collFault = t.collFault := rfl
@[simp] theorem Hart.closeConvoy_pflags (t : Hart) : (t.closeConvoy).pflags = t.pflags := rfl
@[simp] theorem Hart.closeConvoy_unsealed (t : Hart) : (t.closeConvoy).unsealed = t.unsealed := rfl
@[simp] theorem Hart.closeConvoy_inherited (t : Hart) : (t.closeConvoy).inherited = t.inherited := rfl
@[simp] theorem Hart.closeConvoy_asks (t : Hart) : (t.closeConvoy).asks = t.asks := rfl
@[simp] theorem Hart.closeConvoy_access (t : Hart) : (t.closeConvoy).access = t.access := rfl
@[simp] theorem Hart.closeConvoy_fetching (t : Hart) : (t.closeConvoy).fetching = t.fetching := rfl
@[simp] theorem Hart.closeConvoy_tracked (t : Hart) : (t.closeConvoy).tracked = t.tracked := rfl
@[simp] theorem Hart.closeConvoy_sealing (t : Hart) : (t.closeConvoy).sealing = t.sealing := rfl
@[simp] theorem Hart.closeConvoy_sealFailed (t : Hart) : (t.closeConvoy).sealFailed = t.sealFailed := rfl
@[simp] theorem Hart.closeConvoy_launching (t : Hart) : (t.closeConvoy).launching = t.launching := rfl
@[simp] theorem Hart.closeConvoy_region (t : Hart) : (t.closeConvoy).region = t.region := rfl
@[simp] theorem Hart.closeConvoy_stage (t : Hart) : (t.closeConvoy).stage = t.stage := rfl
@[simp] theorem Hart.closeConvoy_granted (t : Hart) : (t.closeConvoy).granted = t.granted := rfl
@[simp] theorem Hart.closeConvoy_issuedAt (t : Hart) : (t.closeConvoy).issuedAt = t.issuedAt := rfl
@[simp] theorem Hart.closeConvoy_issuedIn (t : Hart) : (t.closeConvoy).issuedIn = t.issuedIn := rfl
@[simp] theorem Hart.closeConvoy_multi (t : Hart) : (t.closeConvoy).multi = t.multi := rfl
@[simp] theorem Hart.closeConvoy_yielded (t : Hart) : (t.closeConvoy).yielded = t.yielded := rfl
@[simp] theorem Hart.closeConvoy_graceAt (t : Hart) : (t.closeConvoy).graceAt = t.graceAt := rfl
@[simp] theorem Hart.closeConvoy_lastStamp (t : Hart) : (t.closeConvoy).lastStamp = t.lastStamp := rfl
@[simp] theorem Hart.closeConvoy_saved (t : Hart) : (t.closeConvoy).saved = t.saved := rfl
@[simp] theorem Hart.closeConvoy_laneLost (t : Hart) : (t.closeConvoy).laneLost = t.laneLost := rfl
@[simp] theorem Hart.closeConvoy_laneDue (t : Hart) : (t.closeConvoy).laneDue = t.laneDue := rfl
@[simp] theorem Hart.closeConvoy_lost (t : Hart) : (t.closeConvoy).lost = t.lost := rfl
@[simp] theorem Hart.closeConvoy_stalled (t : Hart) : (t.closeConvoy).stalled = t.stalled := rfl
@[simp] theorem Hart.closeConvoy_qstalled (t : Hart) : (t.closeConvoy).qstalled = t.qstalled := rfl
@[simp] theorem Hart.closeConvoy_space (t : Hart) : (t.closeConvoy).space = t.space := rfl

@[simp] theorem Hart.setX_run (t : Hart) (r : BitVec 5) (v : Word) : (t.setX r v).run = t.run := by unfold Hart.setX; split <;> rfl
@[simp] theorem Hart.setX_pc (t : Hart) (r : BitVec 5) (v : Word) : (t.setX r v).pc = t.pc := by unfold Hart.setX; split <;> rfl
@[simp] theorem Hart.setX_priv (t : Hart) (r : BitVec 5) (v : Word) : (t.setX r v).priv = t.priv := by unfold Hart.setX; split <;> rfl
@[simp] theorem Hart.setX_entering (t : Hart) (r : BitVec 5) (v : Word) : (t.setX r v).entering = t.entering := by unfold Hart.setX; split <;> rfl
@[simp] theorem Hart.setX_v (t : Hart) (r : BitVec 5) (v : Word) : (t.setX r v).v = t.v := by unfold Hart.setX; split <;> rfl
@[simp] theorem Hart.setX_m (t : Hart) (r : BitVec 5) (v : Word) : (t.setX r v).m = t.m := by unfold Hart.setX; split <;> rfl
@[simp] theorem Hart.setX_cb (t : Hart) (r : BitVec 5) (v : Word) : (t.setX r v).cb = t.cb := by unfold Hart.setX; split <;> rfl
@[simp] theorem Hart.setX_cc (t : Hart) (r : BitVec 5) (v : Word) : (t.setX r v).cc = t.cc := by unfold Hart.setX; split <;> rfl
@[simp] theorem Hart.setX_csr (t : Hart) (r : BitVec 5) (v : Word) : (t.setX r v).csr = t.csr := by unfold Hart.setX; split <;> rfl
@[simp] theorem Hart.setX_away (t : Hart) (r : BitVec 5) (v : Word) : (t.setX r v).away = t.away := by unfold Hart.setX; split <;> rfl
@[simp] theorem Hart.setX_map (t : Hart) (r : BitVec 5) (v : Word) : (t.setX r v).map = t.map := by unfold Hart.setX; split <;> rfl
@[simp] theorem Hart.setX_pending (t : Hart) (r : BitVec 5) (v : Word) : (t.setX r v).pending = t.pending := by unfold Hart.setX; split <;> rfl
@[simp] theorem Hart.setX_reduced (t : Hart) (r : BitVec 5) (v : Word) : (t.setX r v).reduced = t.reduced := by unfold Hart.setX; split <;> rfl
@[simp] theorem Hart.setX_limit (t : Hart) (r : BitVec 5) (v : Word) : (t.setX r v).limit = t.limit := by unfold Hart.setX; split <;> rfl
@[simp] theorem Hart.setX_demand (t : Hart) (r : BitVec 5) (v : Word) : (t.setX r v).demand = t.demand := by unfold Hart.setX; split <;> rfl
@[simp] theorem Hart.setX_convoyOpen (t : Hart) (r : BitVec 5) (v : Word) : (t.setX r v).convoyOpen = t.convoyOpen := by unfold Hart.setX; split <;> rfl
@[simp] theorem Hart.setX_queue (t : Hart) (r : BitVec 5) (v : Word) : (t.setX r v).queue = t.queue := by unfold Hart.setX; split <;> rfl
@[simp] theorem Hart.setX_tile (t : Hart) (r : BitVec 5) (v : Word) : (t.setX r v).tile = t.tile := by unfold Hart.setX; split <;> rfl
@[simp] theorem Hart.setX_nb (t : Hart) (r : BitVec 5) (v : Word) : (t.setX r v).nb = t.nb := by unfold Hart.setX; split <;> rfl
@[simp] theorem Hart.setX_rep (t : Hart) (r : BitVec 5) (v : Word) : (t.setX r v).rep = t.rep := by unfold Hart.setX; split <;> rfl
@[simp] theorem Hart.setX_wait (t : Hart) (r : BitVec 5) (v : Word) : (t.setX r v).wait = t.wait := by unfold Hart.setX; split <;> rfl
@[simp] theorem Hart.setX_matrix (t : Hart) (r : BitVec 5) (v : Word) : (t.setX r v).matrix = t.matrix := by unfold Hart.setX; split <;> rfl
@[simp] theorem Hart.setX_family (t : Hart) (r : BitVec 5) (v : Word) : (t.setX r v).family = t.family := by unfold Hart.setX; split <;> rfl
@[simp] theorem Hart.setX_ctxs (t : Hart) (r : BitVec 5) (v : Word) : (t.setX r v).ctxs = t.ctxs := by unfold Hart.setX; split <;> rfl
@[simp] theorem Hart.setX_engFault (t : Hart) (r : BitVec 5) (v : Word) : (t.setX r v).engFault = t.engFault := by unfold Hart.setX; split <;> rfl
@[simp] theorem Hart.setX_collFault (t : Hart) (r : BitVec 5) (v : Word) : (t.setX r v).collFault = t.collFault := by unfold Hart.setX; split <;> rfl
@[simp] theorem Hart.setX_pflags (t : Hart) (r : BitVec 5) (v : Word) : (t.setX r v).pflags = t.pflags := by unfold Hart.setX; split <;> rfl
@[simp] theorem Hart.setX_unsealed (t : Hart) (r : BitVec 5) (v : Word) : (t.setX r v).unsealed = t.unsealed := by unfold Hart.setX; split <;> rfl
@[simp] theorem Hart.setX_inherited (t : Hart) (r : BitVec 5) (v : Word) : (t.setX r v).inherited = t.inherited := by unfold Hart.setX; split <;> rfl
@[simp] theorem Hart.setX_asks (t : Hart) (r : BitVec 5) (v : Word) : (t.setX r v).asks = t.asks := by unfold Hart.setX; split <;> rfl
@[simp] theorem Hart.setX_access (t : Hart) (r : BitVec 5) (v : Word) : (t.setX r v).access = t.access := by unfold Hart.setX; split <;> rfl
@[simp] theorem Hart.setX_fetching (t : Hart) (r : BitVec 5) (v : Word) : (t.setX r v).fetching = t.fetching := by unfold Hart.setX; split <;> rfl
@[simp] theorem Hart.setX_tracked (t : Hart) (r : BitVec 5) (v : Word) : (t.setX r v).tracked = t.tracked := by unfold Hart.setX; split <;> rfl
@[simp] theorem Hart.setX_sealing (t : Hart) (r : BitVec 5) (v : Word) : (t.setX r v).sealing = t.sealing := by unfold Hart.setX; split <;> rfl
@[simp] theorem Hart.setX_sealFailed (t : Hart) (r : BitVec 5) (v : Word) : (t.setX r v).sealFailed = t.sealFailed := by unfold Hart.setX; split <;> rfl
@[simp] theorem Hart.setX_launching (t : Hart) (r : BitVec 5) (v : Word) : (t.setX r v).launching = t.launching := by unfold Hart.setX; split <;> rfl
@[simp] theorem Hart.setX_region (t : Hart) (r : BitVec 5) (v : Word) : (t.setX r v).region = t.region := by unfold Hart.setX; split <;> rfl
@[simp] theorem Hart.setX_stage (t : Hart) (r : BitVec 5) (v : Word) : (t.setX r v).stage = t.stage := by unfold Hart.setX; split <;> rfl
@[simp] theorem Hart.setX_granted (t : Hart) (r : BitVec 5) (v : Word) : (t.setX r v).granted = t.granted := by unfold Hart.setX; split <;> rfl
@[simp] theorem Hart.setX_issuedAt (t : Hart) (r : BitVec 5) (v : Word) : (t.setX r v).issuedAt = t.issuedAt := by unfold Hart.setX; split <;> rfl
@[simp] theorem Hart.setX_issuedIn (t : Hart) (r : BitVec 5) (v : Word) : (t.setX r v).issuedIn = t.issuedIn := by unfold Hart.setX; split <;> rfl
@[simp] theorem Hart.setX_multi (t : Hart) (r : BitVec 5) (v : Word) : (t.setX r v).multi = t.multi := by unfold Hart.setX; split <;> rfl
@[simp] theorem Hart.setX_yielded (t : Hart) (r : BitVec 5) (v : Word) : (t.setX r v).yielded = t.yielded := by unfold Hart.setX; split <;> rfl
@[simp] theorem Hart.setX_graceAt (t : Hart) (r : BitVec 5) (v : Word) : (t.setX r v).graceAt = t.graceAt := by unfold Hart.setX; split <;> rfl
@[simp] theorem Hart.setX_lastStamp (t : Hart) (r : BitVec 5) (v : Word) : (t.setX r v).lastStamp = t.lastStamp := by unfold Hart.setX; split <;> rfl
@[simp] theorem Hart.setX_saved (t : Hart) (r : BitVec 5) (v : Word) : (t.setX r v).saved = t.saved := by unfold Hart.setX; split <;> rfl
@[simp] theorem Hart.setX_laneLost (t : Hart) (r : BitVec 5) (v : Word) : (t.setX r v).laneLost = t.laneLost := by unfold Hart.setX; split <;> rfl
@[simp] theorem Hart.setX_laneDue (t : Hart) (r : BitVec 5) (v : Word) : (t.setX r v).laneDue = t.laneDue := by unfold Hart.setX; split <;> rfl
@[simp] theorem Hart.setX_lost (t : Hart) (r : BitVec 5) (v : Word) : (t.setX r v).lost = t.lost := by unfold Hart.setX; split <;> rfl
@[simp] theorem Hart.setX_stalled (t : Hart) (r : BitVec 5) (v : Word) : (t.setX r v).stalled = t.stalled := by unfold Hart.setX; split <;> rfl
@[simp] theorem Hart.setX_qstalled (t : Hart) (r : BitVec 5) (v : Word) : (t.setX r v).qstalled = t.qstalled := by unfold Hart.setX; split <;> rfl
@[simp] theorem Hart.setX_space (t : Hart) (r : BitVec 5) (v : Word) : (t.setX r v).space = t.space := by unfold Hart.setX; split <;> rfl

@[simp] theorem Hart.setV_run (t : Hart) (n : Nat) (v : Row) : (t.setV n v).run = t.run := rfl
@[simp] theorem Hart.setV_pc (t : Hart) (n : Nat) (v : Row) : (t.setV n v).pc = t.pc := rfl
@[simp] theorem Hart.setV_priv (t : Hart) (n : Nat) (v : Row) : (t.setV n v).priv = t.priv := rfl
@[simp] theorem Hart.setV_entering (t : Hart) (n : Nat) (v : Row) : (t.setV n v).entering = t.entering := rfl
@[simp] theorem Hart.setV_x (t : Hart) (n : Nat) (v : Row) : (t.setV n v).x = t.x := rfl
@[simp] theorem Hart.setV_m (t : Hart) (n : Nat) (v : Row) : (t.setV n v).m = t.m := rfl
@[simp] theorem Hart.setV_cb (t : Hart) (n : Nat) (v : Row) : (t.setV n v).cb = t.cb := rfl
@[simp] theorem Hart.setV_cc (t : Hart) (n : Nat) (v : Row) : (t.setV n v).cc = t.cc := rfl
@[simp] theorem Hart.setV_csr (t : Hart) (n : Nat) (v : Row) : (t.setV n v).csr = t.csr := rfl
@[simp] theorem Hart.setV_away (t : Hart) (n : Nat) (v : Row) : (t.setV n v).away = t.away := rfl
@[simp] theorem Hart.setV_map (t : Hart) (n : Nat) (v : Row) : (t.setV n v).map = t.map := rfl
@[simp] theorem Hart.setV_pending (t : Hart) (n : Nat) (v : Row) : (t.setV n v).pending = t.pending := rfl
@[simp] theorem Hart.setV_reduced (t : Hart) (n : Nat) (v : Row) : (t.setV n v).reduced = t.reduced := rfl
@[simp] theorem Hart.setV_limit (t : Hart) (n : Nat) (v : Row) : (t.setV n v).limit = t.limit := rfl
@[simp] theorem Hart.setV_demand (t : Hart) (n : Nat) (v : Row) : (t.setV n v).demand = t.demand := rfl
@[simp] theorem Hart.setV_convoyOpen (t : Hart) (n : Nat) (v : Row) : (t.setV n v).convoyOpen = t.convoyOpen := rfl
@[simp] theorem Hart.setV_queue (t : Hart) (n : Nat) (v : Row) : (t.setV n v).queue = t.queue := rfl
@[simp] theorem Hart.setV_tile (t : Hart) (n : Nat) (v : Row) : (t.setV n v).tile = t.tile := rfl
@[simp] theorem Hart.setV_nb (t : Hart) (n : Nat) (v : Row) : (t.setV n v).nb = t.nb := rfl
@[simp] theorem Hart.setV_rep (t : Hart) (n : Nat) (v : Row) : (t.setV n v).rep = t.rep := rfl
@[simp] theorem Hart.setV_wait (t : Hart) (n : Nat) (v : Row) : (t.setV n v).wait = t.wait := rfl
@[simp] theorem Hart.setV_matrix (t : Hart) (n : Nat) (v : Row) : (t.setV n v).matrix = t.matrix := rfl
@[simp] theorem Hart.setV_family (t : Hart) (n : Nat) (v : Row) : (t.setV n v).family = t.family := rfl
@[simp] theorem Hart.setV_ctxs (t : Hart) (n : Nat) (v : Row) : (t.setV n v).ctxs = t.ctxs := rfl
@[simp] theorem Hart.setV_engFault (t : Hart) (n : Nat) (v : Row) : (t.setV n v).engFault = t.engFault := rfl
@[simp] theorem Hart.setV_collFault (t : Hart) (n : Nat) (v : Row) : (t.setV n v).collFault = t.collFault := rfl
@[simp] theorem Hart.setV_pflags (t : Hart) (n : Nat) (v : Row) : (t.setV n v).pflags = t.pflags := rfl
@[simp] theorem Hart.setV_unsealed (t : Hart) (n : Nat) (v : Row) : (t.setV n v).unsealed = t.unsealed := rfl
@[simp] theorem Hart.setV_inherited (t : Hart) (n : Nat) (v : Row) : (t.setV n v).inherited = t.inherited := rfl
@[simp] theorem Hart.setV_asks (t : Hart) (n : Nat) (v : Row) : (t.setV n v).asks = t.asks := rfl
@[simp] theorem Hart.setV_access (t : Hart) (n : Nat) (v : Row) : (t.setV n v).access = t.access := rfl
@[simp] theorem Hart.setV_fetching (t : Hart) (n : Nat) (v : Row) : (t.setV n v).fetching = t.fetching := rfl
@[simp] theorem Hart.setV_tracked (t : Hart) (n : Nat) (v : Row) : (t.setV n v).tracked = t.tracked := rfl
@[simp] theorem Hart.setV_sealing (t : Hart) (n : Nat) (v : Row) : (t.setV n v).sealing = t.sealing := rfl
@[simp] theorem Hart.setV_sealFailed (t : Hart) (n : Nat) (v : Row) : (t.setV n v).sealFailed = t.sealFailed := rfl
@[simp] theorem Hart.setV_launching (t : Hart) (n : Nat) (v : Row) : (t.setV n v).launching = t.launching := rfl
@[simp] theorem Hart.setV_region (t : Hart) (n : Nat) (v : Row) : (t.setV n v).region = t.region := rfl
@[simp] theorem Hart.setV_stage (t : Hart) (n : Nat) (v : Row) : (t.setV n v).stage = t.stage := rfl
@[simp] theorem Hart.setV_granted (t : Hart) (n : Nat) (v : Row) : (t.setV n v).granted = t.granted := rfl
@[simp] theorem Hart.setV_issuedAt (t : Hart) (n : Nat) (v : Row) : (t.setV n v).issuedAt = t.issuedAt := rfl
@[simp] theorem Hart.setV_issuedIn (t : Hart) (n : Nat) (v : Row) : (t.setV n v).issuedIn = t.issuedIn := rfl
@[simp] theorem Hart.setV_multi (t : Hart) (n : Nat) (v : Row) : (t.setV n v).multi = t.multi := rfl
@[simp] theorem Hart.setV_yielded (t : Hart) (n : Nat) (v : Row) : (t.setV n v).yielded = t.yielded := rfl
@[simp] theorem Hart.setV_graceAt (t : Hart) (n : Nat) (v : Row) : (t.setV n v).graceAt = t.graceAt := rfl
@[simp] theorem Hart.setV_lastStamp (t : Hart) (n : Nat) (v : Row) : (t.setV n v).lastStamp = t.lastStamp := rfl
@[simp] theorem Hart.setV_saved (t : Hart) (n : Nat) (v : Row) : (t.setV n v).saved = t.saved := rfl
@[simp] theorem Hart.setV_laneLost (t : Hart) (n : Nat) (v : Row) : (t.setV n v).laneLost = t.laneLost := rfl
@[simp] theorem Hart.setV_laneDue (t : Hart) (n : Nat) (v : Row) : (t.setV n v).laneDue = t.laneDue := rfl
@[simp] theorem Hart.setV_lost (t : Hart) (n : Nat) (v : Row) : (t.setV n v).lost = t.lost := rfl
@[simp] theorem Hart.setV_stalled (t : Hart) (n : Nat) (v : Row) : (t.setV n v).stalled = t.stalled := rfl
@[simp] theorem Hart.setV_qstalled (t : Hart) (n : Nat) (v : Row) : (t.setV n v).qstalled = t.qstalled := rfl
@[simp] theorem Hart.setV_space (t : Hart) (n : Nat) (v : Row) : (t.setV n v).space = t.space := rfl

@[simp] theorem Hart.setM_run (t : Hart) (n : Nat) (v : Mask) : (t.setM n v).run = t.run := by unfold Hart.setM; split <;> rfl
@[simp] theorem Hart.setM_pc (t : Hart) (n : Nat) (v : Mask) : (t.setM n v).pc = t.pc := by unfold Hart.setM; split <;> rfl
@[simp] theorem Hart.setM_priv (t : Hart) (n : Nat) (v : Mask) : (t.setM n v).priv = t.priv := by unfold Hart.setM; split <;> rfl
@[simp] theorem Hart.setM_entering (t : Hart) (n : Nat) (v : Mask) : (t.setM n v).entering = t.entering := by unfold Hart.setM; split <;> rfl
@[simp] theorem Hart.setM_x (t : Hart) (n : Nat) (v : Mask) : (t.setM n v).x = t.x := by unfold Hart.setM; split <;> rfl
@[simp] theorem Hart.setM_v (t : Hart) (n : Nat) (v : Mask) : (t.setM n v).v = t.v := by unfold Hart.setM; split <;> rfl
@[simp] theorem Hart.setM_cb (t : Hart) (n : Nat) (v : Mask) : (t.setM n v).cb = t.cb := by unfold Hart.setM; split <;> rfl
@[simp] theorem Hart.setM_cc (t : Hart) (n : Nat) (v : Mask) : (t.setM n v).cc = t.cc := by unfold Hart.setM; split <;> rfl
@[simp] theorem Hart.setM_csr (t : Hart) (n : Nat) (v : Mask) : (t.setM n v).csr = t.csr := by unfold Hart.setM; split <;> rfl
@[simp] theorem Hart.setM_away (t : Hart) (n : Nat) (v : Mask) : (t.setM n v).away = t.away := by unfold Hart.setM; split <;> rfl
@[simp] theorem Hart.setM_map (t : Hart) (n : Nat) (v : Mask) : (t.setM n v).map = t.map := by unfold Hart.setM; split <;> rfl
@[simp] theorem Hart.setM_pending (t : Hart) (n : Nat) (v : Mask) : (t.setM n v).pending = t.pending := by unfold Hart.setM; split <;> rfl
@[simp] theorem Hart.setM_reduced (t : Hart) (n : Nat) (v : Mask) : (t.setM n v).reduced = t.reduced := by unfold Hart.setM; split <;> rfl
@[simp] theorem Hart.setM_limit (t : Hart) (n : Nat) (v : Mask) : (t.setM n v).limit = t.limit := by unfold Hart.setM; split <;> rfl
@[simp] theorem Hart.setM_demand (t : Hart) (n : Nat) (v : Mask) : (t.setM n v).demand = t.demand := by unfold Hart.setM; split <;> rfl
@[simp] theorem Hart.setM_convoyOpen (t : Hart) (n : Nat) (v : Mask) : (t.setM n v).convoyOpen = t.convoyOpen := by unfold Hart.setM; split <;> rfl
@[simp] theorem Hart.setM_queue (t : Hart) (n : Nat) (v : Mask) : (t.setM n v).queue = t.queue := by unfold Hart.setM; split <;> rfl
@[simp] theorem Hart.setM_tile (t : Hart) (n : Nat) (v : Mask) : (t.setM n v).tile = t.tile := by unfold Hart.setM; split <;> rfl
@[simp] theorem Hart.setM_nb (t : Hart) (n : Nat) (v : Mask) : (t.setM n v).nb = t.nb := by unfold Hart.setM; split <;> rfl
@[simp] theorem Hart.setM_rep (t : Hart) (n : Nat) (v : Mask) : (t.setM n v).rep = t.rep := by unfold Hart.setM; split <;> rfl
@[simp] theorem Hart.setM_wait (t : Hart) (n : Nat) (v : Mask) : (t.setM n v).wait = t.wait := by unfold Hart.setM; split <;> rfl
@[simp] theorem Hart.setM_matrix (t : Hart) (n : Nat) (v : Mask) : (t.setM n v).matrix = t.matrix := by unfold Hart.setM; split <;> rfl
@[simp] theorem Hart.setM_family (t : Hart) (n : Nat) (v : Mask) : (t.setM n v).family = t.family := by unfold Hart.setM; split <;> rfl
@[simp] theorem Hart.setM_ctxs (t : Hart) (n : Nat) (v : Mask) : (t.setM n v).ctxs = t.ctxs := by unfold Hart.setM; split <;> rfl
@[simp] theorem Hart.setM_engFault (t : Hart) (n : Nat) (v : Mask) : (t.setM n v).engFault = t.engFault := by unfold Hart.setM; split <;> rfl
@[simp] theorem Hart.setM_collFault (t : Hart) (n : Nat) (v : Mask) : (t.setM n v).collFault = t.collFault := by unfold Hart.setM; split <;> rfl
@[simp] theorem Hart.setM_pflags (t : Hart) (n : Nat) (v : Mask) : (t.setM n v).pflags = t.pflags := by unfold Hart.setM; split <;> rfl
@[simp] theorem Hart.setM_unsealed (t : Hart) (n : Nat) (v : Mask) : (t.setM n v).unsealed = t.unsealed := by unfold Hart.setM; split <;> rfl
@[simp] theorem Hart.setM_inherited (t : Hart) (n : Nat) (v : Mask) : (t.setM n v).inherited = t.inherited := by unfold Hart.setM; split <;> rfl
@[simp] theorem Hart.setM_asks (t : Hart) (n : Nat) (v : Mask) : (t.setM n v).asks = t.asks := by unfold Hart.setM; split <;> rfl
@[simp] theorem Hart.setM_access (t : Hart) (n : Nat) (v : Mask) : (t.setM n v).access = t.access := by unfold Hart.setM; split <;> rfl
@[simp] theorem Hart.setM_fetching (t : Hart) (n : Nat) (v : Mask) : (t.setM n v).fetching = t.fetching := by unfold Hart.setM; split <;> rfl
@[simp] theorem Hart.setM_tracked (t : Hart) (n : Nat) (v : Mask) : (t.setM n v).tracked = t.tracked := by unfold Hart.setM; split <;> rfl
@[simp] theorem Hart.setM_sealing (t : Hart) (n : Nat) (v : Mask) : (t.setM n v).sealing = t.sealing := by unfold Hart.setM; split <;> rfl
@[simp] theorem Hart.setM_sealFailed (t : Hart) (n : Nat) (v : Mask) : (t.setM n v).sealFailed = t.sealFailed := by unfold Hart.setM; split <;> rfl
@[simp] theorem Hart.setM_launching (t : Hart) (n : Nat) (v : Mask) : (t.setM n v).launching = t.launching := by unfold Hart.setM; split <;> rfl
@[simp] theorem Hart.setM_region (t : Hart) (n : Nat) (v : Mask) : (t.setM n v).region = t.region := by unfold Hart.setM; split <;> rfl
@[simp] theorem Hart.setM_stage (t : Hart) (n : Nat) (v : Mask) : (t.setM n v).stage = t.stage := by unfold Hart.setM; split <;> rfl
@[simp] theorem Hart.setM_granted (t : Hart) (n : Nat) (v : Mask) : (t.setM n v).granted = t.granted := by unfold Hart.setM; split <;> rfl
@[simp] theorem Hart.setM_issuedAt (t : Hart) (n : Nat) (v : Mask) : (t.setM n v).issuedAt = t.issuedAt := by unfold Hart.setM; split <;> rfl
@[simp] theorem Hart.setM_issuedIn (t : Hart) (n : Nat) (v : Mask) : (t.setM n v).issuedIn = t.issuedIn := by unfold Hart.setM; split <;> rfl
@[simp] theorem Hart.setM_multi (t : Hart) (n : Nat) (v : Mask) : (t.setM n v).multi = t.multi := by unfold Hart.setM; split <;> rfl
@[simp] theorem Hart.setM_yielded (t : Hart) (n : Nat) (v : Mask) : (t.setM n v).yielded = t.yielded := by unfold Hart.setM; split <;> rfl
@[simp] theorem Hart.setM_graceAt (t : Hart) (n : Nat) (v : Mask) : (t.setM n v).graceAt = t.graceAt := by unfold Hart.setM; split <;> rfl
@[simp] theorem Hart.setM_lastStamp (t : Hart) (n : Nat) (v : Mask) : (t.setM n v).lastStamp = t.lastStamp := by unfold Hart.setM; split <;> rfl
@[simp] theorem Hart.setM_saved (t : Hart) (n : Nat) (v : Mask) : (t.setM n v).saved = t.saved := by unfold Hart.setM; split <;> rfl
@[simp] theorem Hart.setM_laneLost (t : Hart) (n : Nat) (v : Mask) : (t.setM n v).laneLost = t.laneLost := by unfold Hart.setM; split <;> rfl
@[simp] theorem Hart.setM_laneDue (t : Hart) (n : Nat) (v : Mask) : (t.setM n v).laneDue = t.laneDue := by unfold Hart.setM; split <;> rfl
@[simp] theorem Hart.setM_lost (t : Hart) (n : Nat) (v : Mask) : (t.setM n v).lost = t.lost := by unfold Hart.setM; split <;> rfl
@[simp] theorem Hart.setM_stalled (t : Hart) (n : Nat) (v : Mask) : (t.setM n v).stalled = t.stalled := by unfold Hart.setM; split <;> rfl
@[simp] theorem Hart.setM_qstalled (t : Hart) (n : Nat) (v : Mask) : (t.setM n v).qstalled = t.qstalled := by unfold Hart.setM; split <;> rfl
@[simp] theorem Hart.setM_space (t : Hart) (n : Nat) (v : Mask) : (t.setM n v).space = t.space := by unfold Hart.setM; split <;> rfl

@[simp] theorem Hart.setCb_run (t : Hart) (n : Nat) (v : BitVec 256) : (t.setCb n v).run = t.run := rfl
@[simp] theorem Hart.setCb_pc (t : Hart) (n : Nat) (v : BitVec 256) : (t.setCb n v).pc = t.pc := rfl
@[simp] theorem Hart.setCb_priv (t : Hart) (n : Nat) (v : BitVec 256) : (t.setCb n v).priv = t.priv := rfl
@[simp] theorem Hart.setCb_entering (t : Hart) (n : Nat) (v : BitVec 256) : (t.setCb n v).entering = t.entering := rfl
@[simp] theorem Hart.setCb_x (t : Hart) (n : Nat) (v : BitVec 256) : (t.setCb n v).x = t.x := rfl
@[simp] theorem Hart.setCb_v (t : Hart) (n : Nat) (v : BitVec 256) : (t.setCb n v).v = t.v := rfl
@[simp] theorem Hart.setCb_m (t : Hart) (n : Nat) (v : BitVec 256) : (t.setCb n v).m = t.m := rfl
@[simp] theorem Hart.setCb_cc (t : Hart) (n : Nat) (v : BitVec 256) : (t.setCb n v).cc = t.cc := rfl
@[simp] theorem Hart.setCb_csr (t : Hart) (n : Nat) (v : BitVec 256) : (t.setCb n v).csr = t.csr := rfl
@[simp] theorem Hart.setCb_away (t : Hart) (n : Nat) (v : BitVec 256) : (t.setCb n v).away = t.away := rfl
@[simp] theorem Hart.setCb_map (t : Hart) (n : Nat) (v : BitVec 256) : (t.setCb n v).map = t.map := rfl
@[simp] theorem Hart.setCb_pending (t : Hart) (n : Nat) (v : BitVec 256) : (t.setCb n v).pending = t.pending := rfl
@[simp] theorem Hart.setCb_reduced (t : Hart) (n : Nat) (v : BitVec 256) : (t.setCb n v).reduced = t.reduced := rfl
@[simp] theorem Hart.setCb_limit (t : Hart) (n : Nat) (v : BitVec 256) : (t.setCb n v).limit = t.limit := rfl
@[simp] theorem Hart.setCb_demand (t : Hart) (n : Nat) (v : BitVec 256) : (t.setCb n v).demand = t.demand := rfl
@[simp] theorem Hart.setCb_convoyOpen (t : Hart) (n : Nat) (v : BitVec 256) : (t.setCb n v).convoyOpen = t.convoyOpen := rfl
@[simp] theorem Hart.setCb_queue (t : Hart) (n : Nat) (v : BitVec 256) : (t.setCb n v).queue = t.queue := rfl
@[simp] theorem Hart.setCb_tile (t : Hart) (n : Nat) (v : BitVec 256) : (t.setCb n v).tile = t.tile := rfl
@[simp] theorem Hart.setCb_nb (t : Hart) (n : Nat) (v : BitVec 256) : (t.setCb n v).nb = t.nb := rfl
@[simp] theorem Hart.setCb_rep (t : Hart) (n : Nat) (v : BitVec 256) : (t.setCb n v).rep = t.rep := rfl
@[simp] theorem Hart.setCb_wait (t : Hart) (n : Nat) (v : BitVec 256) : (t.setCb n v).wait = t.wait := rfl
@[simp] theorem Hart.setCb_matrix (t : Hart) (n : Nat) (v : BitVec 256) : (t.setCb n v).matrix = t.matrix := rfl
@[simp] theorem Hart.setCb_family (t : Hart) (n : Nat) (v : BitVec 256) : (t.setCb n v).family = t.family := rfl
@[simp] theorem Hart.setCb_ctxs (t : Hart) (n : Nat) (v : BitVec 256) : (t.setCb n v).ctxs = t.ctxs := rfl
@[simp] theorem Hart.setCb_engFault (t : Hart) (n : Nat) (v : BitVec 256) : (t.setCb n v).engFault = t.engFault := rfl
@[simp] theorem Hart.setCb_collFault (t : Hart) (n : Nat) (v : BitVec 256) : (t.setCb n v).collFault = t.collFault := rfl
@[simp] theorem Hart.setCb_pflags (t : Hart) (n : Nat) (v : BitVec 256) : (t.setCb n v).pflags = t.pflags := rfl
@[simp] theorem Hart.setCb_unsealed (t : Hart) (n : Nat) (v : BitVec 256) : (t.setCb n v).unsealed = t.unsealed := rfl
@[simp] theorem Hart.setCb_inherited (t : Hart) (n : Nat) (v : BitVec 256) : (t.setCb n v).inherited = t.inherited := rfl
@[simp] theorem Hart.setCb_asks (t : Hart) (n : Nat) (v : BitVec 256) : (t.setCb n v).asks = t.asks := rfl
@[simp] theorem Hart.setCb_access (t : Hart) (n : Nat) (v : BitVec 256) : (t.setCb n v).access = t.access := rfl
@[simp] theorem Hart.setCb_fetching (t : Hart) (n : Nat) (v : BitVec 256) : (t.setCb n v).fetching = t.fetching := rfl
@[simp] theorem Hart.setCb_tracked (t : Hart) (n : Nat) (v : BitVec 256) : (t.setCb n v).tracked = t.tracked := rfl
@[simp] theorem Hart.setCb_sealing (t : Hart) (n : Nat) (v : BitVec 256) : (t.setCb n v).sealing = t.sealing := rfl
@[simp] theorem Hart.setCb_sealFailed (t : Hart) (n : Nat) (v : BitVec 256) : (t.setCb n v).sealFailed = t.sealFailed := rfl
@[simp] theorem Hart.setCb_launching (t : Hart) (n : Nat) (v : BitVec 256) : (t.setCb n v).launching = t.launching := rfl
@[simp] theorem Hart.setCb_region (t : Hart) (n : Nat) (v : BitVec 256) : (t.setCb n v).region = t.region := rfl
@[simp] theorem Hart.setCb_stage (t : Hart) (n : Nat) (v : BitVec 256) : (t.setCb n v).stage = t.stage := rfl
@[simp] theorem Hart.setCb_granted (t : Hart) (n : Nat) (v : BitVec 256) : (t.setCb n v).granted = t.granted := rfl
@[simp] theorem Hart.setCb_issuedAt (t : Hart) (n : Nat) (v : BitVec 256) : (t.setCb n v).issuedAt = t.issuedAt := rfl
@[simp] theorem Hart.setCb_issuedIn (t : Hart) (n : Nat) (v : BitVec 256) : (t.setCb n v).issuedIn = t.issuedIn := rfl
@[simp] theorem Hart.setCb_multi (t : Hart) (n : Nat) (v : BitVec 256) : (t.setCb n v).multi = t.multi := rfl
@[simp] theorem Hart.setCb_yielded (t : Hart) (n : Nat) (v : BitVec 256) : (t.setCb n v).yielded = t.yielded := rfl
@[simp] theorem Hart.setCb_graceAt (t : Hart) (n : Nat) (v : BitVec 256) : (t.setCb n v).graceAt = t.graceAt := rfl
@[simp] theorem Hart.setCb_lastStamp (t : Hart) (n : Nat) (v : BitVec 256) : (t.setCb n v).lastStamp = t.lastStamp := rfl
@[simp] theorem Hart.setCb_saved (t : Hart) (n : Nat) (v : BitVec 256) : (t.setCb n v).saved = t.saved := rfl
@[simp] theorem Hart.setCb_laneLost (t : Hart) (n : Nat) (v : BitVec 256) : (t.setCb n v).laneLost = t.laneLost := rfl
@[simp] theorem Hart.setCb_laneDue (t : Hart) (n : Nat) (v : BitVec 256) : (t.setCb n v).laneDue = t.laneDue := rfl
@[simp] theorem Hart.setCb_lost (t : Hart) (n : Nat) (v : BitVec 256) : (t.setCb n v).lost = t.lost := rfl
@[simp] theorem Hart.setCb_stalled (t : Hart) (n : Nat) (v : BitVec 256) : (t.setCb n v).stalled = t.stalled := rfl
@[simp] theorem Hart.setCb_qstalled (t : Hart) (n : Nat) (v : BitVec 256) : (t.setCb n v).qstalled = t.qstalled := rfl
@[simp] theorem Hart.setCb_space (t : Hart) (n : Nat) (v : BitVec 256) : (t.setCb n v).space = t.space := rfl

@[simp] theorem Hart.setCtr_run (t : Hart) (n : Nat) (v : Ctr) : (t.setCtr n v).run = t.run := rfl
@[simp] theorem Hart.setCtr_pc (t : Hart) (n : Nat) (v : Ctr) : (t.setCtr n v).pc = t.pc := rfl
@[simp] theorem Hart.setCtr_priv (t : Hart) (n : Nat) (v : Ctr) : (t.setCtr n v).priv = t.priv := rfl
@[simp] theorem Hart.setCtr_entering (t : Hart) (n : Nat) (v : Ctr) : (t.setCtr n v).entering = t.entering := rfl
@[simp] theorem Hart.setCtr_x (t : Hart) (n : Nat) (v : Ctr) : (t.setCtr n v).x = t.x := rfl
@[simp] theorem Hart.setCtr_v (t : Hart) (n : Nat) (v : Ctr) : (t.setCtr n v).v = t.v := rfl
@[simp] theorem Hart.setCtr_m (t : Hart) (n : Nat) (v : Ctr) : (t.setCtr n v).m = t.m := rfl
@[simp] theorem Hart.setCtr_cb (t : Hart) (n : Nat) (v : Ctr) : (t.setCtr n v).cb = t.cb := rfl
@[simp] theorem Hart.setCtr_csr (t : Hart) (n : Nat) (v : Ctr) : (t.setCtr n v).csr = t.csr := rfl
@[simp] theorem Hart.setCtr_away (t : Hart) (n : Nat) (v : Ctr) : (t.setCtr n v).away = t.away := rfl
@[simp] theorem Hart.setCtr_map (t : Hart) (n : Nat) (v : Ctr) : (t.setCtr n v).map = t.map := rfl
@[simp] theorem Hart.setCtr_pending (t : Hart) (n : Nat) (v : Ctr) : (t.setCtr n v).pending = t.pending := rfl
@[simp] theorem Hart.setCtr_reduced (t : Hart) (n : Nat) (v : Ctr) : (t.setCtr n v).reduced = t.reduced := rfl
@[simp] theorem Hart.setCtr_limit (t : Hart) (n : Nat) (v : Ctr) : (t.setCtr n v).limit = t.limit := rfl
@[simp] theorem Hart.setCtr_demand (t : Hart) (n : Nat) (v : Ctr) : (t.setCtr n v).demand = t.demand := rfl
@[simp] theorem Hart.setCtr_convoyOpen (t : Hart) (n : Nat) (v : Ctr) : (t.setCtr n v).convoyOpen = t.convoyOpen := rfl
@[simp] theorem Hart.setCtr_queue (t : Hart) (n : Nat) (v : Ctr) : (t.setCtr n v).queue = t.queue := rfl
@[simp] theorem Hart.setCtr_tile (t : Hart) (n : Nat) (v : Ctr) : (t.setCtr n v).tile = t.tile := rfl
@[simp] theorem Hart.setCtr_nb (t : Hart) (n : Nat) (v : Ctr) : (t.setCtr n v).nb = t.nb := rfl
@[simp] theorem Hart.setCtr_rep (t : Hart) (n : Nat) (v : Ctr) : (t.setCtr n v).rep = t.rep := rfl
@[simp] theorem Hart.setCtr_wait (t : Hart) (n : Nat) (v : Ctr) : (t.setCtr n v).wait = t.wait := rfl
@[simp] theorem Hart.setCtr_matrix (t : Hart) (n : Nat) (v : Ctr) : (t.setCtr n v).matrix = t.matrix := rfl
@[simp] theorem Hart.setCtr_family (t : Hart) (n : Nat) (v : Ctr) : (t.setCtr n v).family = t.family := rfl
@[simp] theorem Hart.setCtr_ctxs (t : Hart) (n : Nat) (v : Ctr) : (t.setCtr n v).ctxs = t.ctxs := rfl
@[simp] theorem Hart.setCtr_engFault (t : Hart) (n : Nat) (v : Ctr) : (t.setCtr n v).engFault = t.engFault := rfl
@[simp] theorem Hart.setCtr_collFault (t : Hart) (n : Nat) (v : Ctr) : (t.setCtr n v).collFault = t.collFault := rfl
@[simp] theorem Hart.setCtr_pflags (t : Hart) (n : Nat) (v : Ctr) : (t.setCtr n v).pflags = t.pflags := rfl
@[simp] theorem Hart.setCtr_unsealed (t : Hart) (n : Nat) (v : Ctr) : (t.setCtr n v).unsealed = t.unsealed := rfl
@[simp] theorem Hart.setCtr_inherited (t : Hart) (n : Nat) (v : Ctr) : (t.setCtr n v).inherited = t.inherited := rfl
@[simp] theorem Hart.setCtr_asks (t : Hart) (n : Nat) (v : Ctr) : (t.setCtr n v).asks = t.asks := rfl
@[simp] theorem Hart.setCtr_access (t : Hart) (n : Nat) (v : Ctr) : (t.setCtr n v).access = t.access := rfl
@[simp] theorem Hart.setCtr_fetching (t : Hart) (n : Nat) (v : Ctr) : (t.setCtr n v).fetching = t.fetching := rfl
@[simp] theorem Hart.setCtr_tracked (t : Hart) (n : Nat) (v : Ctr) : (t.setCtr n v).tracked = t.tracked := rfl
@[simp] theorem Hart.setCtr_sealing (t : Hart) (n : Nat) (v : Ctr) : (t.setCtr n v).sealing = t.sealing := rfl
@[simp] theorem Hart.setCtr_sealFailed (t : Hart) (n : Nat) (v : Ctr) : (t.setCtr n v).sealFailed = t.sealFailed := rfl
@[simp] theorem Hart.setCtr_launching (t : Hart) (n : Nat) (v : Ctr) : (t.setCtr n v).launching = t.launching := rfl
@[simp] theorem Hart.setCtr_region (t : Hart) (n : Nat) (v : Ctr) : (t.setCtr n v).region = t.region := rfl
@[simp] theorem Hart.setCtr_stage (t : Hart) (n : Nat) (v : Ctr) : (t.setCtr n v).stage = t.stage := rfl
@[simp] theorem Hart.setCtr_granted (t : Hart) (n : Nat) (v : Ctr) : (t.setCtr n v).granted = t.granted := rfl
@[simp] theorem Hart.setCtr_issuedAt (t : Hart) (n : Nat) (v : Ctr) : (t.setCtr n v).issuedAt = t.issuedAt := rfl
@[simp] theorem Hart.setCtr_issuedIn (t : Hart) (n : Nat) (v : Ctr) : (t.setCtr n v).issuedIn = t.issuedIn := rfl
@[simp] theorem Hart.setCtr_multi (t : Hart) (n : Nat) (v : Ctr) : (t.setCtr n v).multi = t.multi := rfl
@[simp] theorem Hart.setCtr_yielded (t : Hart) (n : Nat) (v : Ctr) : (t.setCtr n v).yielded = t.yielded := rfl
@[simp] theorem Hart.setCtr_graceAt (t : Hart) (n : Nat) (v : Ctr) : (t.setCtr n v).graceAt = t.graceAt := rfl
@[simp] theorem Hart.setCtr_lastStamp (t : Hart) (n : Nat) (v : Ctr) : (t.setCtr n v).lastStamp = t.lastStamp := rfl
@[simp] theorem Hart.setCtr_saved (t : Hart) (n : Nat) (v : Ctr) : (t.setCtr n v).saved = t.saved := rfl
@[simp] theorem Hart.setCtr_laneLost (t : Hart) (n : Nat) (v : Ctr) : (t.setCtr n v).laneLost = t.laneLost := rfl
@[simp] theorem Hart.setCtr_laneDue (t : Hart) (n : Nat) (v : Ctr) : (t.setCtr n v).laneDue = t.laneDue := rfl
@[simp] theorem Hart.setCtr_lost (t : Hart) (n : Nat) (v : Ctr) : (t.setCtr n v).lost = t.lost := rfl
@[simp] theorem Hart.setCtr_stalled (t : Hart) (n : Nat) (v : Ctr) : (t.setCtr n v).stalled = t.stalled := rfl
@[simp] theorem Hart.setCtr_qstalled (t : Hart) (n : Nat) (v : Ctr) : (t.setCtr n v).qstalled = t.qstalled := rfl
@[simp] theorem Hart.setCtr_space (t : Hart) (n : Nat) (v : Ctr) : (t.setCtr n v).space = t.space := rfl

@[simp] theorem Hart.setCsr_run (t : Hart) (n : Nat) (v : Word) : (t.setCsr n v).run = t.run := rfl
@[simp] theorem Hart.setCsr_pc (t : Hart) (n : Nat) (v : Word) : (t.setCsr n v).pc = t.pc := rfl
@[simp] theorem Hart.setCsr_priv (t : Hart) (n : Nat) (v : Word) : (t.setCsr n v).priv = t.priv := rfl
@[simp] theorem Hart.setCsr_entering (t : Hart) (n : Nat) (v : Word) : (t.setCsr n v).entering = t.entering := rfl
@[simp] theorem Hart.setCsr_x (t : Hart) (n : Nat) (v : Word) : (t.setCsr n v).x = t.x := rfl
@[simp] theorem Hart.setCsr_v (t : Hart) (n : Nat) (v : Word) : (t.setCsr n v).v = t.v := rfl
@[simp] theorem Hart.setCsr_m (t : Hart) (n : Nat) (v : Word) : (t.setCsr n v).m = t.m := rfl
@[simp] theorem Hart.setCsr_cb (t : Hart) (n : Nat) (v : Word) : (t.setCsr n v).cb = t.cb := rfl
@[simp] theorem Hart.setCsr_cc (t : Hart) (n : Nat) (v : Word) : (t.setCsr n v).cc = t.cc := rfl
@[simp] theorem Hart.setCsr_away (t : Hart) (n : Nat) (v : Word) : (t.setCsr n v).away = t.away := rfl
@[simp] theorem Hart.setCsr_map (t : Hart) (n : Nat) (v : Word) : (t.setCsr n v).map = t.map := rfl
@[simp] theorem Hart.setCsr_pending (t : Hart) (n : Nat) (v : Word) : (t.setCsr n v).pending = t.pending := rfl
@[simp] theorem Hart.setCsr_reduced (t : Hart) (n : Nat) (v : Word) : (t.setCsr n v).reduced = t.reduced := rfl
@[simp] theorem Hart.setCsr_limit (t : Hart) (n : Nat) (v : Word) : (t.setCsr n v).limit = t.limit := rfl
@[simp] theorem Hart.setCsr_demand (t : Hart) (n : Nat) (v : Word) : (t.setCsr n v).demand = t.demand := rfl
@[simp] theorem Hart.setCsr_convoyOpen (t : Hart) (n : Nat) (v : Word) : (t.setCsr n v).convoyOpen = t.convoyOpen := rfl
@[simp] theorem Hart.setCsr_queue (t : Hart) (n : Nat) (v : Word) : (t.setCsr n v).queue = t.queue := rfl
@[simp] theorem Hart.setCsr_tile (t : Hart) (n : Nat) (v : Word) : (t.setCsr n v).tile = t.tile := rfl
@[simp] theorem Hart.setCsr_nb (t : Hart) (n : Nat) (v : Word) : (t.setCsr n v).nb = t.nb := rfl
@[simp] theorem Hart.setCsr_rep (t : Hart) (n : Nat) (v : Word) : (t.setCsr n v).rep = t.rep := rfl
@[simp] theorem Hart.setCsr_wait (t : Hart) (n : Nat) (v : Word) : (t.setCsr n v).wait = t.wait := rfl
@[simp] theorem Hart.setCsr_matrix (t : Hart) (n : Nat) (v : Word) : (t.setCsr n v).matrix = t.matrix := rfl
@[simp] theorem Hart.setCsr_family (t : Hart) (n : Nat) (v : Word) : (t.setCsr n v).family = t.family := rfl
@[simp] theorem Hart.setCsr_ctxs (t : Hart) (n : Nat) (v : Word) : (t.setCsr n v).ctxs = t.ctxs := rfl
@[simp] theorem Hart.setCsr_engFault (t : Hart) (n : Nat) (v : Word) : (t.setCsr n v).engFault = t.engFault := rfl
@[simp] theorem Hart.setCsr_collFault (t : Hart) (n : Nat) (v : Word) : (t.setCsr n v).collFault = t.collFault := rfl
@[simp] theorem Hart.setCsr_pflags (t : Hart) (n : Nat) (v : Word) : (t.setCsr n v).pflags = t.pflags := rfl
@[simp] theorem Hart.setCsr_unsealed (t : Hart) (n : Nat) (v : Word) : (t.setCsr n v).unsealed = t.unsealed := rfl
@[simp] theorem Hart.setCsr_inherited (t : Hart) (n : Nat) (v : Word) : (t.setCsr n v).inherited = t.inherited := rfl
@[simp] theorem Hart.setCsr_asks (t : Hart) (n : Nat) (v : Word) : (t.setCsr n v).asks = t.asks := rfl
@[simp] theorem Hart.setCsr_access (t : Hart) (n : Nat) (v : Word) : (t.setCsr n v).access = t.access := rfl
@[simp] theorem Hart.setCsr_fetching (t : Hart) (n : Nat) (v : Word) : (t.setCsr n v).fetching = t.fetching := rfl
@[simp] theorem Hart.setCsr_tracked (t : Hart) (n : Nat) (v : Word) : (t.setCsr n v).tracked = t.tracked := rfl
@[simp] theorem Hart.setCsr_sealing (t : Hart) (n : Nat) (v : Word) : (t.setCsr n v).sealing = t.sealing := rfl
@[simp] theorem Hart.setCsr_sealFailed (t : Hart) (n : Nat) (v : Word) : (t.setCsr n v).sealFailed = t.sealFailed := rfl
@[simp] theorem Hart.setCsr_launching (t : Hart) (n : Nat) (v : Word) : (t.setCsr n v).launching = t.launching := rfl
@[simp] theorem Hart.setCsr_region (t : Hart) (n : Nat) (v : Word) : (t.setCsr n v).region = t.region := rfl
@[simp] theorem Hart.setCsr_stage (t : Hart) (n : Nat) (v : Word) : (t.setCsr n v).stage = t.stage := rfl
@[simp] theorem Hart.setCsr_granted (t : Hart) (n : Nat) (v : Word) : (t.setCsr n v).granted = t.granted := rfl
@[simp] theorem Hart.setCsr_issuedAt (t : Hart) (n : Nat) (v : Word) : (t.setCsr n v).issuedAt = t.issuedAt := rfl
@[simp] theorem Hart.setCsr_issuedIn (t : Hart) (n : Nat) (v : Word) : (t.setCsr n v).issuedIn = t.issuedIn := rfl
@[simp] theorem Hart.setCsr_multi (t : Hart) (n : Nat) (v : Word) : (t.setCsr n v).multi = t.multi := rfl
@[simp] theorem Hart.setCsr_yielded (t : Hart) (n : Nat) (v : Word) : (t.setCsr n v).yielded = t.yielded := rfl
@[simp] theorem Hart.setCsr_graceAt (t : Hart) (n : Nat) (v : Word) : (t.setCsr n v).graceAt = t.graceAt := rfl
@[simp] theorem Hart.setCsr_lastStamp (t : Hart) (n : Nat) (v : Word) : (t.setCsr n v).lastStamp = t.lastStamp := rfl
@[simp] theorem Hart.setCsr_saved (t : Hart) (n : Nat) (v : Word) : (t.setCsr n v).saved = t.saved := rfl
@[simp] theorem Hart.setCsr_laneLost (t : Hart) (n : Nat) (v : Word) : (t.setCsr n v).laneLost = t.laneLost := rfl
@[simp] theorem Hart.setCsr_laneDue (t : Hart) (n : Nat) (v : Word) : (t.setCsr n v).laneDue = t.laneDue := rfl
@[simp] theorem Hart.setCsr_lost (t : Hart) (n : Nat) (v : Word) : (t.setCsr n v).lost = t.lost := rfl
@[simp] theorem Hart.setCsr_stalled (t : Hart) (n : Nat) (v : Word) : (t.setCsr n v).stalled = t.stalled := rfl
@[simp] theorem Hart.setCsr_qstalled (t : Hart) (n : Nat) (v : Word) : (t.setCsr n v).qstalled = t.qstalled := rfl
@[simp] theorem Hart.setCsr_space (t : Hart) (n : Nat) (v : Word) : (t.setCsr n v).space = t.space := rfl

@[simp] theorem Hart.setCtxSlot_run (t : Hart) (k : Nat) (c : CtxSlot) : (t.setCtxSlot k c).run = t.run := rfl
@[simp] theorem Hart.setCtxSlot_pc (t : Hart) (k : Nat) (c : CtxSlot) : (t.setCtxSlot k c).pc = t.pc := rfl
@[simp] theorem Hart.setCtxSlot_priv (t : Hart) (k : Nat) (c : CtxSlot) : (t.setCtxSlot k c).priv = t.priv := rfl
@[simp] theorem Hart.setCtxSlot_entering (t : Hart) (k : Nat) (c : CtxSlot) : (t.setCtxSlot k c).entering = t.entering := rfl
@[simp] theorem Hart.setCtxSlot_x (t : Hart) (k : Nat) (c : CtxSlot) : (t.setCtxSlot k c).x = t.x := rfl
@[simp] theorem Hart.setCtxSlot_v (t : Hart) (k : Nat) (c : CtxSlot) : (t.setCtxSlot k c).v = t.v := rfl
@[simp] theorem Hart.setCtxSlot_m (t : Hart) (k : Nat) (c : CtxSlot) : (t.setCtxSlot k c).m = t.m := rfl
@[simp] theorem Hart.setCtxSlot_cb (t : Hart) (k : Nat) (c : CtxSlot) : (t.setCtxSlot k c).cb = t.cb := rfl
@[simp] theorem Hart.setCtxSlot_cc (t : Hart) (k : Nat) (c : CtxSlot) : (t.setCtxSlot k c).cc = t.cc := rfl
@[simp] theorem Hart.setCtxSlot_csr (t : Hart) (k : Nat) (c : CtxSlot) : (t.setCtxSlot k c).csr = t.csr := rfl
@[simp] theorem Hart.setCtxSlot_away (t : Hart) (k : Nat) (c : CtxSlot) : (t.setCtxSlot k c).away = t.away := rfl
@[simp] theorem Hart.setCtxSlot_map (t : Hart) (k : Nat) (c : CtxSlot) : (t.setCtxSlot k c).map = t.map := rfl
@[simp] theorem Hart.setCtxSlot_pending (t : Hart) (k : Nat) (c : CtxSlot) : (t.setCtxSlot k c).pending = t.pending := rfl
@[simp] theorem Hart.setCtxSlot_reduced (t : Hart) (k : Nat) (c : CtxSlot) : (t.setCtxSlot k c).reduced = t.reduced := rfl
@[simp] theorem Hart.setCtxSlot_limit (t : Hart) (k : Nat) (c : CtxSlot) : (t.setCtxSlot k c).limit = t.limit := rfl
@[simp] theorem Hart.setCtxSlot_demand (t : Hart) (k : Nat) (c : CtxSlot) : (t.setCtxSlot k c).demand = t.demand := rfl
@[simp] theorem Hart.setCtxSlot_convoyOpen (t : Hart) (k : Nat) (c : CtxSlot) : (t.setCtxSlot k c).convoyOpen = t.convoyOpen := rfl
@[simp] theorem Hart.setCtxSlot_queue (t : Hart) (k : Nat) (c : CtxSlot) : (t.setCtxSlot k c).queue = t.queue := rfl
@[simp] theorem Hart.setCtxSlot_tile (t : Hart) (k : Nat) (c : CtxSlot) : (t.setCtxSlot k c).tile = t.tile := rfl
@[simp] theorem Hart.setCtxSlot_nb (t : Hart) (k : Nat) (c : CtxSlot) : (t.setCtxSlot k c).nb = t.nb := rfl
@[simp] theorem Hart.setCtxSlot_rep (t : Hart) (k : Nat) (c : CtxSlot) : (t.setCtxSlot k c).rep = t.rep := rfl
@[simp] theorem Hart.setCtxSlot_wait (t : Hart) (k : Nat) (c : CtxSlot) : (t.setCtxSlot k c).wait = t.wait := rfl
@[simp] theorem Hart.setCtxSlot_matrix (t : Hart) (k : Nat) (c : CtxSlot) : (t.setCtxSlot k c).matrix = t.matrix := rfl
@[simp] theorem Hart.setCtxSlot_family (t : Hart) (k : Nat) (c : CtxSlot) : (t.setCtxSlot k c).family = t.family := rfl
@[simp] theorem Hart.setCtxSlot_engFault (t : Hart) (k : Nat) (c : CtxSlot) : (t.setCtxSlot k c).engFault = t.engFault := rfl
@[simp] theorem Hart.setCtxSlot_collFault (t : Hart) (k : Nat) (c : CtxSlot) : (t.setCtxSlot k c).collFault = t.collFault := rfl
@[simp] theorem Hart.setCtxSlot_pflags (t : Hart) (k : Nat) (c : CtxSlot) : (t.setCtxSlot k c).pflags = t.pflags := rfl
@[simp] theorem Hart.setCtxSlot_unsealed (t : Hart) (k : Nat) (c : CtxSlot) : (t.setCtxSlot k c).unsealed = t.unsealed := rfl
@[simp] theorem Hart.setCtxSlot_inherited (t : Hart) (k : Nat) (c : CtxSlot) : (t.setCtxSlot k c).inherited = t.inherited := rfl
@[simp] theorem Hart.setCtxSlot_asks (t : Hart) (k : Nat) (c : CtxSlot) : (t.setCtxSlot k c).asks = t.asks := rfl
@[simp] theorem Hart.setCtxSlot_access (t : Hart) (k : Nat) (c : CtxSlot) : (t.setCtxSlot k c).access = t.access := rfl
@[simp] theorem Hart.setCtxSlot_fetching (t : Hart) (k : Nat) (c : CtxSlot) : (t.setCtxSlot k c).fetching = t.fetching := rfl
@[simp] theorem Hart.setCtxSlot_tracked (t : Hart) (k : Nat) (c : CtxSlot) : (t.setCtxSlot k c).tracked = t.tracked := rfl
@[simp] theorem Hart.setCtxSlot_sealing (t : Hart) (k : Nat) (c : CtxSlot) : (t.setCtxSlot k c).sealing = t.sealing := rfl
@[simp] theorem Hart.setCtxSlot_sealFailed (t : Hart) (k : Nat) (c : CtxSlot) : (t.setCtxSlot k c).sealFailed = t.sealFailed := rfl
@[simp] theorem Hart.setCtxSlot_launching (t : Hart) (k : Nat) (c : CtxSlot) : (t.setCtxSlot k c).launching = t.launching := rfl
@[simp] theorem Hart.setCtxSlot_region (t : Hart) (k : Nat) (c : CtxSlot) : (t.setCtxSlot k c).region = t.region := rfl
@[simp] theorem Hart.setCtxSlot_stage (t : Hart) (k : Nat) (c : CtxSlot) : (t.setCtxSlot k c).stage = t.stage := rfl
@[simp] theorem Hart.setCtxSlot_granted (t : Hart) (k : Nat) (c : CtxSlot) : (t.setCtxSlot k c).granted = t.granted := rfl
@[simp] theorem Hart.setCtxSlot_issuedAt (t : Hart) (k : Nat) (c : CtxSlot) : (t.setCtxSlot k c).issuedAt = t.issuedAt := rfl
@[simp] theorem Hart.setCtxSlot_issuedIn (t : Hart) (k : Nat) (c : CtxSlot) : (t.setCtxSlot k c).issuedIn = t.issuedIn := rfl
@[simp] theorem Hart.setCtxSlot_multi (t : Hart) (k : Nat) (c : CtxSlot) : (t.setCtxSlot k c).multi = t.multi := rfl
@[simp] theorem Hart.setCtxSlot_yielded (t : Hart) (k : Nat) (c : CtxSlot) : (t.setCtxSlot k c).yielded = t.yielded := rfl
@[simp] theorem Hart.setCtxSlot_graceAt (t : Hart) (k : Nat) (c : CtxSlot) : (t.setCtxSlot k c).graceAt = t.graceAt := rfl
@[simp] theorem Hart.setCtxSlot_lastStamp (t : Hart) (k : Nat) (c : CtxSlot) : (t.setCtxSlot k c).lastStamp = t.lastStamp := rfl
@[simp] theorem Hart.setCtxSlot_saved (t : Hart) (k : Nat) (c : CtxSlot) : (t.setCtxSlot k c).saved = t.saved := rfl
@[simp] theorem Hart.setCtxSlot_laneLost (t : Hart) (k : Nat) (c : CtxSlot) : (t.setCtxSlot k c).laneLost = t.laneLost := rfl
@[simp] theorem Hart.setCtxSlot_laneDue (t : Hart) (k : Nat) (c : CtxSlot) : (t.setCtxSlot k c).laneDue = t.laneDue := rfl
@[simp] theorem Hart.setCtxSlot_lost (t : Hart) (k : Nat) (c : CtxSlot) : (t.setCtxSlot k c).lost = t.lost := rfl
@[simp] theorem Hart.setCtxSlot_stalled (t : Hart) (k : Nat) (c : CtxSlot) : (t.setCtxSlot k c).stalled = t.stalled := rfl
@[simp] theorem Hart.setCtxSlot_qstalled (t : Hart) (k : Nat) (c : CtxSlot) : (t.setCtxSlot k c).qstalled = t.qstalled := rfl
@[simp] theorem Hart.setCtxSlot_space (t : Hart) (k : Nat) (c : CtxSlot) : (t.setCtxSlot k c).space = t.space := rfl

/-- The next word's address, and no wait. -/
@[simp] theorem Hart.advance_pc (t : Hart) : t.advance.pc = t.pc + 4 := rfl
@[simp] theorem Hart.advance_wait (t : Hart) : t.advance.wait = none := rfl
@[simp] theorem Hart.closeConvoy_convoyOpen (t : Hart) : t.closeConvoy.convoyOpen = false := rfl

/-! ### Registers -/

/-- A register after a write: the value written, unless it is x0, which reads zero. -/
theorem Hart.xr_setX (t : Hart) (d r : BitVec 5) (v : Word) :
    (t.setX d v).xr r = if r = d ∧ r ≠ 0 then v else t.xr r := by
  unfold Hart.setX Hart.xr
  by_cases hr : r = 0
  · rw [if_pos hr, if_pos hr, if_neg fun h => h.2 hr]
  · rw [if_neg hr, if_neg hr]
    by_cases hd : d = 0
    · rw [if_pos hd, if_neg fun h => hr (h.1.trans hd)]
    · rw [if_neg hd, Sparse.get_set]
      by_cases h : r = d
      · rw [if_pos (congrArg BitVec.toNat h), if_pos ⟨h, hr⟩]
      · rw [if_neg fun e => h (BitVec.eq_of_toNat_eq e), if_neg fun e => h e.1]
@[simp] theorem Hart.xr_zero (t : Hart) : t.xr 0 = 0 := by simp [Hart.xr]
@[simp] theorem Hart.xr_advance (t : Hart) (r : BitVec 5) : t.advance.xr r = t.xr r := rfl
@[simp] theorem Hart.xr_closeConvoy (t : Hart) (r : BitVec 5) : t.closeConvoy.xr r = t.xr r := rfl
@[simp] theorem Hart.xr_setCsr (t : Hart) (n : Nat) (v : Word) (r : BitVec 5) : (t.setCsr n v).xr r = t.xr r := rfl
theorem Hart.xr_result (t : Hart) (d r : BitVec 5) (v : Word) :
    (t.result d v).xr r = if r = d ∧ r ≠ 0 then v else t.xr r := Hart.xr_setX t d r v
/-- A result changes registers, the pc and the wait alone. -/
theorem Hart.result_eq (t : Hart) (d : BitVec 5) (v : Word) :
    t.result d v = { t with x := (t.setX d v).x, pc := t.pc + 4, wait := none } := by
  unfold Hart.result Hart.advance Hart.setX; split <;> rfl
@[simp] theorem Hart.result_pc (t : Hart) (d : BitVec 5) (v : Word) : (t.result d v).pc = t.pc + 4 := by
  rw [Hart.result_eq]
@[simp] theorem Hart.result_wait (t : Hart) (d : BitVec 5) (v : Word) : (t.result d v).wait = none := by
  rw [Hart.result_eq]

/-- A control register after a write of one. -/
@[simp] theorem Hart.csrv_setCsr (t : Hart) (n m : Nat) (v : Word) :
    (t.setCsr n v).csrv m = if m = n then v else t.csrv m := by
  simp [Hart.csrv, Hart.setCsr, Sparse.get_set]
@[simp] theorem Hart.csrv_setX (t : Hart) (d : BitVec 5) (v : Word) (n : Nat) : (t.setX d v).csrv n = t.csrv n := by
  simp [Hart.csrv]
@[simp] theorem Hart.csrv_advance (t : Hart) (n : Nat) : t.advance.csrv n = t.csrv n := rfl
@[simp] theorem Hart.csrv_result (t : Hart) (d : BitVec 5) (v : Word) (n : Nat) : (t.result d v).csrv n = t.csrv n := by
  rw [Hart.result_eq]; rfl
/-- A row, a mask register and a counter after a write of one. -/
theorem Hart.vr_setV (t : Hart) (n m : Nat) (v : Row) : (t.setV n v).vr m = if m % 32 = n % 32 then v else t.vr m := by
  simp [Hart.vr, Hart.setV, Sparse.get_set]
theorem Hart.mr_setM (t : Hart) (n m : Nat) (v : Mask) : (t.setM n v).mr m = if m = n ∧ m ≠ 0 then v else t.mr m := by
  unfold Hart.setM Hart.mr
  by_cases hn : n = 0
  · subst hn; by_cases hm : m = 0 <;> simp [hm]
  · by_cases hm : m = 0
    · subst hm; simp
    · simp [hn, hm, Sparse.get_set]
/-- m0 reads all ones. -/
@[simp] theorem Hart.mr_zero (t : Hart) : t.mr 0 = BitVec.allOnes 8192 := if_pos rfl
theorem Hart.ctr_setCtr (t : Hart) (n m : Nat) (v : Ctr) : (t.setCtr n v).ctr m = if m = n then v else t.ctr m := by
  simp [Hart.ctr, Hart.setCtr, Sparse.get_set]
theorem Hart.ctxSlot_setCtxSlot (t : Hart) (n m : Nat) (v : CtxSlot) :
    (t.setCtxSlot n v).ctxSlot m = if m = n then v else t.ctxSlot m := by
  simp [Hart.ctxSlot, Hart.setCtxSlot, Sparse.get_set]

/-! ### Harts -/

theorem State.hart_setHart (s : State) (h k : Nat) (t : Hart) :
    (s.setHart h t).hart k = if k = h then t else s.hart k := by
  simp [State.hart, State.setHart, Sparse.get_set]
@[simp] theorem State.hart_setHart_same (s : State) (h : Nat) (t : Hart) : (s.setHart h t).hart h = t := by
  simp [State.hart_setHart]
@[simp] theorem State.me_withMe (s : State) (g : Hart → Hart) : (s.withMe g).me = g s.me := by
  simp [State.me, State.withMe]
theorem State.hart_withMe (s : State) (g : Hart → Hart) (h : Nat) :
    (s.withMe g).hart h = if h = s.cur then g s.me else s.hart h := by
  simp [State.withMe, State.hart_setHart]
theorem State.withMe_eq (s : State) (g : Hart → Hart) : s.withMe g = { s with harts := (s.withMe g).harts } := rfl
@[simp] theorem State.hart_writeByte (s : State) (a : Nat) (b : Byte) (h : Nat) : (s.writeByte a b).hart h = s.hart h := rfl
@[simp] theorem State.me_writeByte (s : State) (a : Nat) (b : Byte) : (s.writeByte a b).me = s.me := rfl

theorem State.die_setDie (s : State) (d k : Nat) (v : Die) : (s.setDie d v).die k = if k = d then v else s.die k := by
  simp [State.die, State.setDie, Sparse.get_set]
theorem State.ctx_setCtx (s : State) (k j : Nat) (c : Ctx) : (s.setCtx k c).ctx j = if j = k then c else s.ctx j := by
  simp [State.ctx, State.setCtx, Sparse.get_set]

end Sys2Proof.Machine
end

