-- ==== Sys2Proof/Laws/Hart.lean ====
section
/-!
SUPPORT. Laws/Hart.lean: what the shared operations on the executing hart do, in the terms of Safety.lean: the frame of an
update of one hart, a scalar result, the end of a wait, and taking a trap.
-/

namespace Sys2Proof.Machine

theorem State.hart_withMe_other (s : State) (g : Hart → Hart) {k : Nat} (n : k ≠ s.cur) :
    (s.withMe g).hart k = s.hart k := by simp [State.hart_withMe, n]
@[simp] theorem State.cur_withMe (s : State) (g : Hart → Hart) : (s.withMe g).cur = s.cur := rfl
@[simp] theorem State.mem_withMe (s : State) (g : Hart → Hart) : (s.withMe g).mem = s.mem := rfl
theorem Hart.cbr_setCb (t : Hart) (n m : Nat) (v : BitVec 256) :
    (t.setCb n v).cbr m = if m = n then v else t.cbr m := Sparse.get_set _ _ _ _ _

/-! ### The frame of an update of the executing hart -/

/-- An update of the executing hart leaves everything else. -/
theorem onlyMe_withMe (s : State) (g : Hart → Hart) : OnlyMe s (s.withMe g) :=
  ⟨rfl, fun _ h => State.hart_withMe_other s g h⟩
theorem OnlyMe.cur {s t : State} (h : OnlyMe s t) : t.cur = s.cur := by rw [h.1]
theorem OnlyMe.mem {s t : State} (h : OnlyMe s t) : t.mem = s.mem := by rw [h.1]
theorem OnlyMe.trans {s t u : State} (h : OnlyMe s t) (k : OnlyMe t u) : OnlyMe s u := by
  refine ⟨?_, fun n hn => ?_⟩
  · rw [k.1, h.1]
  · rw [k.2 n (by rw [h.cur]; exact hn), h.2 n hn]

/-- The fields that a write of a scalar register leaves. -/
theorem Hart.setX_eq (t : Hart) (d : BitVec 5) (v : Word) : t.setX d v = { t with x := (t.setX d v).x } := by
  unfold Hart.setX; split <;> rfl
theorem regSet_result (t : Hart) (d : BitVec 5) (v : Word) : RegSet t (t.result d v) d v :=
  fun r => Hart.xr_result t d r v

/-- A scalar instruction whose answer is a result writes rd and nothing else. -/
theorem writes_result (s : State) (d : BitVec 5) (v : Word) :
    Writes (.next (s.withMe fun t => t.result d v)) s d v := by
  refine ⟨_, rfl, onlyMe_withMe _ _, ?_, ?_, ?_⟩ <;> rw [State.me_withMe]
  · unfold OnlyRegs Hart.result Hart.setX; split <;> rfl
  · exact Hart.result_pc _ _ _
  · exact regSet_result _ _ _

/-- A wait that ends delivers its status and goes on. -/
theorem ends_waitEnds (s : State) (d : BitVec 5) (v : Word) : Ends (.next (s.waitEnds d v)) s d v := by
  refine ⟨_, rfl, onlyMe_withMe _ _, ?_, ?_⟩ <;> unfold State.waitEnds <;> rw [State.me_withMe]
  · unfold Hart.closeConvoy Hart.result Hart.setX; split <;> rfl
  · intro r; rw [Hart.xr_result]; rfl

/-! ### Traps -/

/-- The vector restart flag as a word. -/
theorem vrf_word (w : Word) : w &&& 0x10 = if w.getLsbD 4 then 0x10 else 0 := by
  apply BitVec.eq_of_getLsbD_eq
  intro i hi
  rw [BitVec.getLsbD_and]
  by_cases h4 : i = 4
  · subst h4; cases h : w.getLsbD 4 <;> rfl
  · have : (0x10 : Word).getLsbD i = false := by interval_cases i <;> first | rfl | exact absurd rfl h4
    rw [this, Bool.and_false]; split
    · exact this.symm
    · simp

/-- What a trap's entry leaves in the trap registers, and that every other control register is as it was. -/
theorem Hart.csrv_enterTrap (t : Hart) (c : Byte) (b : Bool) (v p : Word) (n : Nat) :
    (t.enterTrap c b v p).csrv n = if n = 0x104 then t.entryStatus else if n = 0x103 then v
      else if n = 0x102 then c.setWidth 64 ||| (if b then 1#64 <<< 63 else 0) else if n = 0x101 then p else t.csrv n := by
  show Hart.csrv ((((t.setCsr 0x101 p).setCsr 0x102 _).setCsr 0x103 v).setCsr 0x104 _) n = _
  simp only [Hart.csrv_setCsr]

theorem Hart.entryStatus_eq (t : Hart) : t.entryStatus = BitVec.ofNat 64 ((if t.ie then 2 else 0) +
    (if t.priv = .supervisor then 4 else 0) + (if t.secure then 8 else 0) + (if t.vrf then 16 else 0)) := by
  unfold Hart.entryStatus
  rw [vrf_word, Hart.vrf]
  split <;> split <;> split <;> split <;> rfl

/-- A trap of the executing hart enters as 04_scalar R129 says and does nothing else. -/
theorem trapEntered_enterTrap (s : State) (c : Byte) (b : Bool) (v p : Word) :
    TrapEntered s (s.withMe fun t => t.enterTrap c b v p) c b p v := by
  refine ⟨onlyMe_withMe _ _, ?_, ?_, ?_, ?_, ?_, ?_⟩ <;> rw [State.me_withMe]
  · simp [Hart.enterTrap, Hart.setCsr]
  · simp [Hart.csrv_enterTrap]
  · simp only [Hart.csrv_enterTrap]; cases b <;> simp
  · simp [Hart.csrv_enterTrap]
  · simp [Hart.csrv_enterTrap, Hart.entryStatus_eq]
  · intro n hn
    simp only [List.mem_cons, List.not_mem_nil, or_false, not_or] at hn
    simp [Hart.csrv_enterTrap, hn]

theorem trapEntered_raise (s : State) (c : Byte) (v : Word) : TrapEntered s (s.raise c v) c false s.me.pc v :=
  trapEntered_enterTrap s c false v s.me.pc
/-- An instruction that raises a cause takes that trap. -/
theorem traps_raise (s : State) (c : Byte) (v : Word) : Traps (.next (s.raise c v)) s c v :=
  ⟨_, rfl, trapEntered_raise s c v⟩

end Sys2Proof.Machine
end

