-- ==== Sys2Proof/Laws/Memory.lean ====
section
/-!
SUPPORT. Laws/Memory.lean: reading a byte after writing one, what a write to a list of addresses leaves in memory,
where a range on one page lies, and that
every memory operation keeps memory in its canonical form.
-/

namespace Sys2Proof.Machine

/-! ### Reading after writing -/

@[simp] theorem State.canon_writeByte (s : State) (a : Nat) (b : Byte) (c : Nat) : (s.writeByte a b).canon c = s.canon c := rfl

/-- A byte written is read back under every name of its location, and every other byte is as it was. -/
theorem State.readByte_writeByte (s : State) (a : Nat) (b : Byte) (c : Nat) :
    (s.writeByte a b).readByte c = if s.canon c = s.canon a then b else s.readByte c :=
  Sparse.get_set 0 s.mem (s.canon a) b (s.canon c)

/-- Writing changes memory and nothing else of the package. -/
theorem State.writeAt_eq (as : List Nat) (s : State) (v : Nat) : s.writeAt as v = { s with mem := (s.writeAt as v).mem } := by
  induction as generalizing s v with
  | nil => rfl
  | cons a t ih => exact ih (s.writeByte a (BitVec.ofNat 8 v)) (v / 256)

@[simp] theorem State.canon_writeAt (s : State) (as : List Nat) (v c : Nat) : (s.writeAt as v).canon c = s.canon c := by
  rw [State.writeAt_eq]; rfl

@[simp] theorem State.harts_writeAt (s : State) (as : List Nat) (v : Nat) : (s.writeAt as v).harts = s.harts := by
  rw [State.writeAt_eq]

@[simp] theorem State.hart_writeAt (s : State) (as : List Nat) (v h : Nat) : (s.writeAt as v).hart h = s.hart h := by
  rw [State.writeAt_eq]; rfl

/-- A byte that none of the addresses names is as it was. -/
theorem State.readByte_writeAt_other (as : List Nat) (s : State) (v c : Nat) (n : ∀ b ∈ as, s.canon b ≠ s.canon c) :
    (s.writeAt as v).readByte c = s.readByte c := by
  induction as generalizing s v with
  | nil => rfl
  | cons a t ih =>
    rw [State.writeAt, ih (s.writeByte a _) _ fun b hb => n b (List.mem_cons_of_mem _ hb), State.readByte_writeByte,
      if_neg fun e => n a List.mem_cons_self e.symm]

/-- A number written to a list of addresses is stored there in little-endian order. -/
theorem State.storedAt_writeAt (as : List Nat) (s : State) (v : Nat) : StoredAt s (s.writeAt as v) as v := by
  refine ⟨?_, fun c n => State.readByte_writeAt_other as s v c n⟩
  induction as generalizing s v with
  | nil => intro i h; exact absurd h (Nat.not_lt_zero i)
  | cons a t ih =>
    intro i h last
    cases i with
    | zero =>
      have other : ∀ b ∈ t, (s.writeByte a (BitVec.ofNat 8 v)).canon b ≠ (s.writeByte a (BitVec.ofNat 8 v)).canon a := by
        intro b hb
        obtain ⟨j, hj, rfl⟩ := List.mem_iff_getElem.mp hb
        exact last (j + 1) (by simpa using hj) (by omega)
      rw [State.writeAt, List.getElem_cons_zero, State.readByte_writeAt_other t _ _ _ other, State.readByte_writeByte,
        if_pos rfl, Nat.pow_zero, Nat.div_one]
    | succ i =>
      have next := ih (s.writeByte a (BitVec.ofNat 8 v)) (v / 256) i (by simpa using h) fun j k l =>
        last (j + 1) (by simpa using k) (by omega)
      rw [State.writeAt, List.getElem_cons_succ, next, Nat.pow_succ, Nat.div_div_eq_div_mul, Nat.mul_comm]

/-- What was stored is what it holds of other state than memory, whatever the harts. -/
theorem StoredAt.of_mem {s t u : State} {as : List Nat} {v : Nat} (h : StoredAt s t as v) (e : ∀ a, u.readByte a = t.readByte a) :
    StoredAt s u as v := ⟨fun i hi l => (e _).trans (h.1 i hi l), fun a n => (e a).trans (h.2 a n)⟩

/-! ### Ranges on one page -/

/-- Bytes of a range that all pass their check on one page are located on it. -/
theorem State.checkFrom_page {s : State} {p : Party} {need : Need} {vec : Bool} {pg : Page} {lo hi : Nat} (top : hi < 2 ^ 64)
    (ok : ∀ va : Word, lo ≤ va.toNat → va.toNat < hi → s.checkByte p need vec va = .ok pg) (n : Nat) :
    ∀ (va : Word) (vb : Nat), lo ≤ va.toNat → va.toNat + n ≤ hi →
      s.checkFrom p need vec n va pg vb = .ok ((List.range n).map fun i => s.locOf p pg (va + BitVec.ofNat 64 i)) := by
  induction n with
  | zero => intros; rfl
  | succ n ih =>
    intro va vb l h
    have e : (va + 1).toNat = va.toNat + 1 := by
      rw [BitVec.toNat_add]; exact Nat.mod_eq_of_lt (by change va.toNat + 1 < 2 ^ 64; omega)
    have step : ∀ vb, s.checkFrom p need vec n (va + 1) pg vb =
        .ok ((List.range n).map fun i => s.locOf p pg (va + BitVec.ofNat 64 (i + 1))) := fun vb => by
      rw [ih (va + 1) vb (by omega) (by omega)]
      congr 2; funext i; congr 1
      rw [BitVec.ofNat_add, BitVec.add_assoc, BitVec.add_comm (1 : Word)]
      rfl
    have all : (List.range (n + 1)).map (fun i => s.locOf p pg (va + BitVec.ofNat 64 i)) =
        s.locOf p pg va :: (List.range n).map fun i => s.locOf p pg (va + BitVec.ofNat 64 (i + 1)) := by
      rw [List.range_succ_eq_map, List.map_cons, List.map_map]
      congr 2; simp
    rw [State.checkFrom, all]
    split
    · rw [step]; rfl
    · rw [ok va l (by omega)]
      dsimp only
      rw [step]; rfl

/-- A range whose bytes all pass their check on one page is that page's bytes. -/
theorem State.checkRange_page {s : State} {p : Party} {need : Need} {vec : Bool} {pg : Page} {lo hi : Nat} (top : hi < 2 ^ 64)
    (ok : ∀ va : Word, lo ≤ va.toNat → va.toNat < hi → s.checkByte p need vec va = .ok pg) (va : Word) (n : Nat)
    (l : lo ≤ va.toNat) (h : va.toNat + n ≤ hi) :
    s.checkRange p need vec va n = .ok ((List.range n).map fun i => s.locOf p pg (va + BitVec.ofNat 64 i)) := by
  cases n with
  | zero => rfl
  | succ n =>
    have e : (va + 1).toNat = va.toNat + 1 := by
      rw [BitVec.toNat_add]; exact Nat.mod_eq_of_lt (by change va.toNat + 1 < 2 ^ 64; omega)
    have all : (List.range (n + 1)).map (fun i => s.locOf p pg (va + BitVec.ofNat 64 i)) =
        s.locOf p pg va :: (List.range n).map fun i => s.locOf p pg (va + 1 + BitVec.ofNat 64 i) := by
      rw [List.range_succ_eq_map, List.map_cons, List.map_map]
      congr 2
      · simp
      · funext i; simp only [Function.comp, Nat.succ_eq_add_one]; congr 1
        rw [BitVec.ofNat_add, BitVec.add_assoc, BitVec.add_comm (1 : Word)]; rfl
    rw [State.checkRange, ok va l (by omega)]
    dsimp only
    rw [State.checkFrom_page top ok n (va + 1) _ (by omega) (by omega), all]
    rfl

/-- Where a range of locations lies. -/
theorem locAddr_range (f : Nat → Loc) (n : Nat) : locAddr ((List.range n).map f) =
    fun i => if i < n then (f i).ga else 0 := by
  funext i
  by_cases h : i < n <;> simp [locAddr, locGas, h]

/-! ### The canonical form -/

theorem Memory.wf_set {m : List (Nat × Byte)} (h : Memory.wf m = true) (a : Nat) (b : Byte) :
    Memory.wf (Sparse.set 0 m a b) = true := Sparse.wf_set a b h

theorem Memory.wf_filter {m : List (Nat × Byte)} (h : Memory.wf m = true) (p : Nat × Byte → Bool) :
    Memory.wf (m.filter p) = true := Sparse.wf_filter p h

theorem Memory.wf_reset : Memory.wf State.reset.mem = true := rfl

theorem State.writeByte_wf {s : State} (h : Memory.wf s.mem = true) (a : Nat) (b : Byte) :
    Memory.wf (s.writeByte a b).mem = true := Memory.wf_set h _ b

/-- A sequence of operations each of which keeps the form keeps it. -/
theorem Memory.wf_foldl {α : Type} {f : State → α → State}
    (k : ∀ s a, Memory.wf s.mem = true → Memory.wf (f s a).mem = true) (l : List α) {s : State}
    (h : Memory.wf s.mem = true) : Memory.wf (l.foldl f s).mem = true := by
  induction l generalizing s with
  | nil => exact h
  | cons a t ih => exact ih (k s a h)

theorem State.writeAt_wf {s : State} (h : Memory.wf s.mem = true) (as : List Nat) (v : Nat) :
    Memory.wf (s.writeAt as v).mem = true := by
  induction as generalizing s v with
  | nil => exact h
  | cons a t ih => exact ih (State.writeByte_wf h a _) _

theorem State.writeGa_wf {s : State} (h : Memory.wf s.mem = true) (a n v : Nat) : Memory.wf (s.writeGa a n v).mem = true :=
  State.writeAt_wf h _ _

theorem State.writeBytes_wf {s : State} (h : Memory.wf s.mem = true) (a : Nat) (bs : List Byte) :
    Memory.wf (s.writeBytes a bs).mem = true := Memory.wf_foldl (fun _ e hs => State.writeByte_wf hs e.1 e.2) _ h

theorem State.writeLocs_wf {s : State} (h : Memory.wf s.mem = true) (l : List (Loc × Byte)) :
    Memory.wf (l.foldl (fun (s : State) e => s.writeByte e.1.ga e.2) s).mem = true :=
  Memory.wf_foldl (fun _ e hs => State.writeByte_wf hs e.1.ga e.2) _ h

theorem State.performByte_wf {s : State} (h : Memory.wf s.mem = true) (b : PendByte) :
    Memory.wf (s.performByte b).mem = true := State.writeByte_wf h _ _

/-- What homes see of a word that is waited for stands with the hart that waits. -/
@[simp] theorem State.mem_notice (s : State) (h : Nat) : (s.notice h).mem = s.mem := by
  unfold State.notice; split <;> rfl
@[simp] theorem State.mem_noticeAll (s : State) : s.noticeAll.mem = s.mem := by
  unfold State.noticeAll
  generalize (s.harts.filter fun e => e.2.wait.isSome).map (·.1) = l
  induction l generalizing s with
  | nil => rfl
  | cons h t ih => exact (ih (s.notice h)).trans (State.mem_notice s h)

theorem State.performFrom_wf (bs : List PendByte) {s : State} (h : Memory.wf s.mem = true) (done : List Nat) :
    Memory.wf (s.performFrom done bs).mem = true := by
  induction bs generalizing s done with
  | nil => exact h
  | cons b t ih =>
    unfold State.performFrom
    split
    · exact ih (State.performByte_wf (by rw [State.mem_noticeAll]; exact h) b) _
    · exact ih (State.performByte_wf h b) _
theorem State.performBytes_wf {s : State} (h : Memory.wf s.mem = true) (bs : List PendByte) :
    Memory.wf (s.performBytes bs).mem = true := State.performFrom_wf bs h []

theorem State.performOrdered_wf {s : State} (h : Memory.wf s.mem = true) (hart : Nat) (p : NbOp → Bool) :
    Memory.wf (s.performOrdered hart p).mem = true := State.performBytes_wf h _

theorem State.nbFinish_wf {s : State} (h : Memory.wf s.mem = true) (hart : Nat) (o : NbOp) :
    Memory.wf (s.nbFinish hart o).mem = true := by
  have k : Memory.wf ((if o.ord then s.performOrdered hart (· = o) else s).performBytes o.bytes).mem = true := by
    split
    · exact State.performBytes_wf (State.performOrdered_wf h hart _) _
    · exact State.performBytes_wf h _
  unfold State.nbFinish
  dsimp only
  split <;> exact k

theorem State.flushStores_wf {s : State} (h : Memory.wf s.mem = true) (hart : Nat) :
    Memory.wf (s.flushStores hart).mem = true := State.performBytes_wf h _

theorem State.drainNb_wf {s : State} (h : Memory.wf s.mem = true) (hart : Nat) :
    Memory.wf (s.drainNb hart).mem = true := Memory.wf_foldl (fun _ o hs => by rw [State.mem_noticeAll]; exact State.nbFinish_wf hs hart o) _ h

@[simp] theorem State.mem_tickTime (s : State) : s.tickTime.mem = s.mem := rfl
@[simp] theorem State.mem_logDie (s : State) (d unit ga : Nat) : (s.logDie d unit ga).mem = s.mem := by
  unfold State.logDie; dsimp only; split <;> rfl
theorem State.markPeer_wf {s : State} (h : Memory.wf s.mem = true) (hart chip : Nat) :
    Memory.wf (s.markPeer hart chip).mem = true := by
  unfold State.markPeer
  dsimp only
  split
  · exact h
  · split
    · rw [State.mem_logDie]; exact h
    · exact State.writeByte_wf h _ _

theorem State.zeroRange_wf {s : State} (h : Memory.wf s.mem = true) (a n : Nat) : Memory.wf (s.zeroRange a n).mem = true :=
  Memory.wf_filter h _

theorem State.closeOutput_wf {s : State} (h : Memory.wf s.mem = true) (r i : Nat) :
    Memory.wf (s.closeOutput r i).mem = true := by
  unfold State.closeOutput
  split
  · split
    · exact h
    · exact State.writeByte_wf h _ _
  · exact h

theorem State.closeQueues_wf {s : State} (h : Memory.wf s.mem = true) (r : Nat) : Memory.wf (s.closeQueues r).mem = true :=
  Memory.wf_foldl (fun _ i hs => State.closeOutput_wf hs r i) _ h

theorem State.closeAllQueues_wf {s : State} (h : Memory.wf s.mem = true) : Memory.wf s.closeAllQueues.mem = true :=
  Memory.wf_foldl (fun _ r hs => State.closeQueues_wf hs r) _ h

end Sys2Proof.Machine
end

