-- ==== Sys2Proof/Laws/Sweep.lean ====
section
/-!
SUPPORT. Laws/Sweep.lean: what a queued instruction that runs at its enqueue does to its hart, and what the element sweep
leaves in the group that it writes.
-/

namespace Sys2Proof.Machine

/-! ### A member that runs at its enqueue -/


/-- Rows that no outstanding operation still brings have landed. -/
theorem Hart.landed_idle {t : Hart} (n : ∀ o ∈ t.nb, o.held = true ∨ o.rows = []) (e : QEntry) (r i : Nat) :
    t.landed e r i = true := by
  have h : ∀ row g, (t.nb.any fun o => o.brings row g) = false := fun row g => by
    simp only [List.any_eq_false, NbOp.brings, Bool.not_eq_true]
    intro o ho
    rcases n o ho with k | k <;> simp [k]
  unfold Hart.landed
  simp [h]

theorem mapIdx_last (l : List QEntry) (e : QEntry) (g : QEntry → QEntry) :
    (l ++ [e]).mapIdx (fun i x => if i = l.length then g x else x) = l ++ [g e] := by
  rw [List.mapIdx_append]
  simp only [List.mapIdx_cons, List.mapIdx_nil]
  congr 1
  · apply List.ext_getElem
    · simp
    · intro i h1 h2
      simp at h1 ⊢; omega
  · simp
theorem Hart.drained_iff (t : Hart) : t.drained = true ↔ ∀ e ∈ t.queue, e.done = true := by
  simp [Hart.drained, Hart.undone, List.filter_eq_nil_iff]

/-- The hart with a member admitted: last in its queue, its convoy open, its counter raised. -/
def admitted (t : Hart) (q : Queued) (e : QEntry) : Hart :=
  let u := { t with queue := (if e.first && t.drained then [] else t.queue) ++ [e], convoyOpen := true }
  if q.ctr = 0 then u else u.setCtr q.ctr { u.ctr q.ctr with issued := e.issue }

theorem State.enter_run (s : State) (q : Queued) (e : QEntry) :
    s.enter q e true = (s.withMe fun t => admitted t q e).runEntry
      (if e.first && s.me.drained then [] else s.me.queue).length e wholeStop q := rfl
theorem State.enter_wait (s : State) (q : Queued) (e : QEntry) :
    s.enter q e false = s.withMe fun t => admitted t q e := rfl

theorem admitted_eq (t : Hart) (q : Queued) (e : QEntry) :
    admitted t q e = { t with
      queue := (if e.first && t.drained then [] else t.queue) ++ [e]
      convoyOpen := true
      cc := (admitted t q e).cc } := by
  by_cases h : q.ctr = 0
  · unfold admitted; dsimp only; rw [if_pos h]
  · unfold admitted; dsimp only; rw [if_neg h]; rfl
theorem admitted_queue (t : Hart) (q : Queued) (e : QEntry) :
    (admitted t q e).queue = (if e.first && t.drained then [] else t.queue) ++ [e] := by rw [admitted_eq]

/-- A member may run at its enqueue where `Runs` holds. -/
theorem State.runsNow_of {s : State} {w : IWord} (h : Runs s w) {e : QEntry} (he : e.word = w) : s.runsNow e = true := by
  obtain ⟨h1, -, -, h5, -, -, h2, h6, h3, h4⟩ := h
  unfold State.runsNow
  rw [h1, h2, h5, h6, Hart.landed_idle h4, he]
  cases hw : isMatrixWord w
  · rfl
  · rw [h3 hw]; rfl

/-- A member whose checks pass, that makes no access and that runs at its enqueue: the effect of its action, its flags and its
place in the queue. -/
theorem enqueue_runs (s : State) (q : Queued) (e : QEntry) (he : e = q.capture s.me s.me.pc) (hx : q.fixes s e = e)
    (hp : ∀ u, q.place u e = none)
    (hc : q.enqueueCheck s e = none) (hr : Runs s q.word) (s2 : State → State) (f : State → Flags)
    (ha : ∀ u, OnlyMe s u → u.me = admitted s.me.advance q e → q.act u e = .done (s2 u) (f u) ∧
      (s2 u).me.queue = (admitted s.me.advance q e).queue) :
    ∃ u, OnlyMe s u ∧ u.me = admitted s.me.advance q e ∧ s.enqueue q = (s2 u).withMe fun t => { t.complete e (f u) with
      queue := (if e.first then [] else s.me.queue) ++ [{ e with started := true, done := true }] } := by
  have hd : s.me.drained = true := hr.2.2.2.2.2.2.1
  have hme : (s.withMe Hart.advance).me = s.me.advance := State.me_withMe _ _
  have hd' : (s.withMe Hart.advance).me.drained = true := by rw [hme]; exact hd
  have hpl : e.placed = none := by rw [he]; rfl
  let n := (if e.first && (s.withMe Hart.advance).me.drained then [] else (s.withMe Hart.advance).me.queue).length
  let w := (s.withMe Hart.advance).withMe fun t => admitted t q e
  let u := w.withMe fun t => t.setEntry n fun x => { x with placed := none }
  have huo : OnlyMe s u := ((onlyMe_withMe _ _).trans (onlyMe_withMe _ _)).trans (onlyMe_withMe _ _)
  have hum : u.me = admitted s.me.advance q e := by
    show (w.withMe _).me = _
    have hw : w.me = admitted s.me.advance q e := by
      show ((s.withMe Hart.advance).withMe _).me = _
      rw [State.me_withMe, hme]
    rw [State.me_withMe, hw]
    have hA : (admitted s.me.advance q e).queue.mapIdx (fun i x => if i = n then { x with placed := none } else x) =
        (admitted s.me.advance q e).queue := by
      rw [admitted_queue, ← hme]
      refine (mapIdx_last _ _ fun x => { x with placed := none }).trans ?_
      rw [← hpl]
    unfold Hart.setEntry
    rw [hA]
  refine ⟨u, huo, hum, ?_⟩
  have hst : { e with stop := wholeStop, placed := none } = e := by rw [he]; rfl
  have key : (s.withMe Hart.advance).enter q e true = (s2 u).withMe fun t => { t.complete e (f u) with
      queue := (if e.first then [] else s.me.queue) ++ [{ e with started := true, done := true }] } := by
    rw [State.enter_run]
    show w.runEntry n e wholeStop q = _
    unfold State.runEntry
    rw [hpl, hp w]
    show (match q.act u { e with stop := wholeStop, placed := none } with | .done s' f => _ | .fault s' c v r f => _ | .wait s' va => _ | .later s' => _) = _
    rw [hst, (ha u huo hum).1]
    have hA : (s2 u).me.queue.mapIdx (fun i x => if i = n then { x with started := true, done := true, placed := none } else x) =
        (if e.first then [] else s.me.queue) ++ [{ e with started := true, done := true, placed := none }] := by
      have hq : (s2 u).me.queue = (if e.first && (s.withMe Hart.advance).me.drained then []
          else (s.withMe Hart.advance).me.queue) ++ [e] := by rw [(ha u huo hum).2, admitted_queue, hme]
      rw [hq, mapIdx_last _ _ fun x => { x with started := true, done := true, placed := none }, hd', hme, Bool.and_true]
      rfl
    have hq : ((s2 u).me.complete e (f u)).queue = (s2 u).me.queue := by
      unfold Hart.complete; dsimp only; split <;> rfl
    show (s2 u).setHart (s2 u).cur (if wholeStop = wholeStop then _ else _) = _
    rw [if_pos rfl]
    unfold Hart.setEntry
    rw [hq]
    exact congrArg (fun z => (s2 u).setHart (s2 u).cur { (s2 u).me.complete e (f u) with queue := z }) hA
  unfold State.enqueue
  simp only [← he, hx, hc]
  have hl : (s.me.entriesBefore e.first).length < queueSize := by rw [he]; exact hr.2.2.2.2.2.1
  rw [if_neg (by omega), State.runsNow_of hr (by rw [he]; rfl)]
  exact key

/-! ### Elements of a row -/


theorem testBit_setElem (w r i x n : Nat) : (setElem w r i x).testBit n =
    if w * i ≤ n ∧ n < w * i + w then x.testBit (n - w * i) else r.testBit n := by
  unfold setElem
  have h1 : r % 2 ^ (w * i) + (x % 2 ^ w) * 2 ^ (w * i) < 2 ^ (w * i + w) := by
    have a := Nat.mod_lt r (Nat.two_pow_pos (w * i))
    have b := Nat.mod_lt x (Nat.two_pow_pos w)
    rw [Nat.pow_add]
    calc _ < 2 ^ (w * i) + x % 2 ^ w * 2 ^ (w * i) := by omega
      _ = (x % 2 ^ w + 1) * 2 ^ (w * i) := by ring
      _ ≤ 2 ^ w * 2 ^ (w * i) := Nat.mul_le_mul_right _ b
      _ = _ := by ring
  rw [Nat.add_comm _ (r / _ * _), Nat.mul_comm (r / _), Nat.testBit_two_pow_mul_add _ h1]
  rw [Nat.add_comm (r % _), Nat.mul_comm (x % _), Nat.testBit_two_pow_mul_add _ (Nat.mod_lt _ (Nat.two_pow_pos _))]
  by_cases c1 : n < w * i + w
  · rw [if_pos c1]
    by_cases c2 : n < w * i
    · rw [if_pos c2, if_neg (by omega), Nat.testBit_mod_two_pow]; simp [c2]
    · rw [if_neg c2, if_pos (by omega), Nat.testBit_mod_two_pow]
      simp; omega
  · rw [if_neg c1, if_neg (by omega), Nat.testBit_div_two_pow]
    congr 1; omega

theorem testBit_rowElem (w r i n : Nat) : (rowElem w r i).testBit n = (decide (n < w) && r.testBit (w * i + n)) := by
  unfold rowElem
  rw [Nat.testBit_mod_two_pow, Nat.testBit_div_two_pow, Nat.add_comm]

/-- Element j of a row with element i replaced. -/
theorem rowElem_setElem (w r i x j : Nat) (_hw : 0 < w) :
    rowElem w (setElem w r i x) j = if j = i then x % 2 ^ w else rowElem w r j := by
  apply Nat.eq_of_testBit_eq
  intro n
  rw [testBit_rowElem, testBit_setElem]
  by_cases h : n < w
  · by_cases hj : j = i
    · subst hj
      rw [if_pos (by omega), if_pos rfl, Nat.testBit_mod_two_pow]
      congr 2; omega
    · rw [if_neg hj, if_neg, testBit_rowElem]
      rintro ⟨a, b⟩
      rcases Nat.lt_or_gt_of_ne hj with c | c
      · have : w * (j + 1) ≤ w * i := Nat.mul_le_mul_left _ c
        rw [Nat.mul_add] at this; omega
      · have : w * (i + 1) ≤ w * j := Nat.mul_le_mul_left _ c
        rw [Nat.mul_add] at this; omega
  · by_cases hj : j = i
    · simp [h, hj, Nat.testBit_mod_two_pow]
    · simp [h, hj, testBit_rowElem]

/-- A sweep of one row: each element that is active holds its value, every other one is as it was; the flags are those
of the active elements. -/
theorem sweepRow_spec (w : Nat) (hw : 0 < w) (active : Nat → Bool) (f : Nat → Nat × Flags) (n : Nat) :
    ∀ (i : Nat) (r : Nat) (fl : Flags) (any : Bool),
      (∀ j, rowElem w (sweepRow w active f n i (r, fl, any)).1 j =
        if i ≤ j ∧ j < i + n ∧ active j = true then (f j).1 % 2 ^ w else rowElem w r j) ∧
      (∀ k, (sweepRow w active f n i (r, fl, any)).2.1.getLsbD k = true ↔
        fl.getLsbD k = true ∨ ∃ j, i ≤ j ∧ j < i + n ∧ active j = true ∧ (f j).2.getLsbD k = true) := by
  induction n with
  | zero =>
    intro i r fl any
    refine ⟨fun j => ?_, fun k => ?_⟩
    · rw [if_neg (by omega)]; rfl
    · constructor
      · exact Or.inl
      · rintro (h | ⟨j, a, b, _⟩)
        · exact h
        · omega
  | succ n ih =>
    intro i r fl any
    unfold sweepRow
    split
    · rename_i ha
      obtain ⟨h1, h2⟩ := ih (i + 1) (setElem w r i (f i).1) (fl ||| (f i).2) true
      refine ⟨fun j => ?_, fun k => ?_⟩
      · rw [h1, rowElem_setElem _ _ _ _ _ hw]
        by_cases hj : j = i
        · subst hj; rw [if_neg (by omega), if_pos rfl, if_pos ⟨by omega, by omega, ha⟩]
        · rw [if_neg hj]; congr 1; simp only [eq_iff_iff]; constructor
          · rintro ⟨a, b, c⟩; exact ⟨by omega, by omega, c⟩
          · rintro ⟨a, b, c⟩; exact ⟨by omega, by omega, c⟩
      · rw [h2, BitVec.getLsbD_or, Bool.or_eq_true]
        constructor
        · rintro ((h | h) | ⟨j, a, b, c⟩)
          · exact .inl h
          · exact .inr ⟨i, by omega, by omega, ha, h⟩
          · exact .inr ⟨j, by omega, by omega, c⟩
        · rintro (h | ⟨j, a, b, c, d⟩)
          · exact .inl (.inl h)
          · by_cases hj : j = i
            · subst hj; exact .inl (.inr d)
            · exact .inr ⟨j, by omega, by omega, c, d⟩
    · rename_i ha
      obtain ⟨h1, h2⟩ := ih (i + 1) r fl any
      refine ⟨fun j => ?_, fun k => ?_⟩
      · rw [h1]; congr 1; simp only [eq_iff_iff]; constructor
        · rintro ⟨a, b, c⟩; exact ⟨by omega, by omega, c⟩
        · rintro ⟨a, b, c⟩
          exact ⟨by rcases Nat.lt_or_eq_of_le a with h | h; exact h; subst h; exact absurd c ha, by omega, c⟩
      · rw [h2]
        constructor
        · rintro (h | ⟨j, a, b, c⟩)
          · exact .inl h
          · exact .inr ⟨j, by omega, by omega, c⟩
        · rintro (h | ⟨j, a, b, c, d⟩)
          · exact .inl h
          · exact .inr ⟨j, by rcases Nat.lt_or_eq_of_le a with h | h; exact h; subst h; exact absurd c ha, by omega, c, d⟩

theorem typeWidth_pos (ty : BitVec 4) : 0 < typeWidth ty := by revert ty; decide
theorem typeWidth_le (ty : BitVec 4) : typeWidth ty ≤ 64 := by revert ty; decide
theorem popCount_le (n v : Nat) : popCount n v ≤ n := by
  induction n generalizing v with
  | zero => simp [popCount]
  | succ n ih => have := ih (v / 2); unfold popCount; omega
theorem vlmax_bits (t : Hart) (ty : BitVec 4) : typeWidth ty * vlmaxOf t.k ty ≤ 32768 := by
  unfold vlmaxOf
  have h : t.k ≤ 8 := popCount_le _ _
  calc _ ≤ t.k * 4096 := Nat.mul_div_le _ _
    _ ≤ _ := by omega

/-- One row of the element sweep. -/
theorem sweepTo_spec (t : Hart) (ty : BitVec 4) (vl : Nat) (active : Nat → Bool) (f : Nat → Nat × Flags) (r : Row) :
    (∀ j, j < vlmaxOf t.k ty → rowElem (typeWidth ty) (sweepTo t.k ty vl 0 active f r).1.toNat j =
      if j < vl ∧ active j = true then (f j).1 % 2 ^ typeWidth ty else rowElem (typeWidth ty) r.toNat j) ∧
    (∀ k, (sweepTo t.k ty vl 0 active f r).2.getLsbD k = true ↔
      ∃ j, j < vl ∧ active j = true ∧ (f j).2.getLsbD k = true) := by
  obtain ⟨h1, h2⟩ := sweepRow_spec (typeWidth ty) (typeWidth_pos ty) active f (vl - 0) 0 r.toNat Flags.none false
  refine ⟨fun j hj => ?_, fun k => ?_⟩
  · have hb := vlmax_bits t ty
    have hjb : typeWidth ty * j + typeWidth ty ≤ 32768 := by
      have : typeWidth ty * (j + 1) ≤ typeWidth ty * vlmaxOf t.k ty := Nat.mul_le_mul_left _ hj
      rw [Nat.mul_add] at this; omega
    have key : ∀ x : Nat, rowElem (typeWidth ty) (BitVec.ofNat 32768 x).toNat j = rowElem (typeWidth ty) x j := by
      intro x
      apply Nat.eq_of_testBit_eq; intro n
      rw [testBit_rowElem, testBit_rowElem, BitVec.toNat_ofNat, Nat.testBit_mod_two_pow]
      by_cases hn : n < typeWidth ty
      · have : typeWidth ty * j + n < 32768 := by omega
        simp [hn, this]
      · simp [hn]
    have key2 : ∀ x : Nat, ty = tyF6 → rowElem (typeWidth ty) (clearPad t.k x) j = rowElem (typeWidth ty) x j := by
      intro x he
      apply Nat.eq_of_testBit_eq; intro n
      rw [testBit_rowElem, testBit_rowElem, clearPad, Nat.testBit_mod_two_pow]
      by_cases hn : n < typeWidth ty
      · have h6 : typeWidth ty = 6 := by rw [he]; rfl
        have : typeWidth ty * j + n < 6 * vlmaxOf t.k tyF6 := by
          have hv6 : vlmaxOf t.k tyF6 = vlmaxOf t.k ty := by rw [he]
          rw [hv6]; rw [h6] at hn ⊢; omega
        simp [this]
      · simp [hn]
    unfold sweepTo
    dsimp only
    rw [key]
    have h1' := h1 j
    simp only [Nat.zero_le, true_and, Nat.zero_add, Nat.sub_zero] at h1'
    rw [Nat.sub_zero, ← h1']
    split
    · rename_i hc
      rw [Bool.and_eq_true] at hc
      exact key2 _ (by simpa using hc.2)
    · rfl
  · unfold sweepTo
    have h2' := h2 k
    simp only [Nat.zero_le, true_and, Nat.zero_add, Nat.sub_zero] at h2' ⊢
    rw [h2']
    constructor
    · rintro (h | h)
      · simp [Flags.none] at h
      · exact h
    · exact .inr
/-! ### The element sweep -/

theorem Hart.setV_eq (t : Hart) (n : Nat) (r : Row) : t.setV n r = { t with v := (t.setV n r).v } := rfl

/-- The rows of a group swept: each row's active elements hold their values, every other row is as it was, and of the hart
only vector rows have changed. -/
theorem sweepRows_spec (t0 : Hart) (ty : BitVec 4) (vl : Nat) (till : Nat → Nat) (ht : ∀ r, r < 8 → till r = vl) (active : Nat → Bool) (d : Nat)
    (f : Nat → Nat → Nat × Flags) (n : Nat) : ∀ (r : Nat) (t : Hart) (fl : Flags), r + n ≤ 8 →
    let o := sweepRows t0.k ty till active d 0 0 f n r (t, fl)
    o.1 = { t with v := o.1.v } ∧
    (∀ ρ j, r ≤ ρ → ρ < r + n → j < vlmaxOf t0.k ty → rowElem (typeWidth ty) (o.1.vr (d + ρ)).toNat j =
      if j < vl ∧ active j = true then (f ρ j).1 % 2 ^ typeWidth ty else rowElem (typeWidth ty) (t.vr (d + ρ)).toNat j) ∧
    (∀ m, (∀ ρ, r ≤ ρ → ρ < r + n → m % 32 ≠ (d + ρ) % 32) → o.1.vr m = t.vr m) ∧
    (∀ k, o.2.getLsbD k = true ↔ fl.getLsbD k = true ∨
      ∃ ρ j, r ≤ ρ ∧ ρ < r + n ∧ j < vl ∧ active j = true ∧ (f ρ j).2.getLsbD k = true) := by
  induction n with
  | zero =>
    intro r t fl _
    refine ⟨rfl, fun ρ j a b => by omega, fun _ _ => rfl, fun k => ⟨.inl, ?_⟩⟩
    rintro (h | ⟨ρ, j, a, b, _⟩)
    · exact h
    · omega
  | succ n ih =>
    intro r t fl hr
    have hs := sweepTo_spec t0 ty vl active (f r) (t.vr (d + r))
    have e : sweepRows t0.k ty till active d 0 0 f (n + 1) r (t, fl) =
        sweepRows t0.k ty till active d 0 0 f n (r + 1)
          (t.setV (d + r) (sweepTo t0.k ty vl 0 active (f r) (t.vr (d + r))).1,
            fl ||| (sweepTo t0.k ty vl 0 active (f r) (t.vr (d + r))).2) := by
      have : (if r = 0 then 0 else 0) = 0 := by split <;> rfl
      conv_lhs => unfold sweepRows
      rw [if_neg (Nat.not_lt_zero r)]
      simp only [this, ht r (by omega)]
    intro o
    have ho : o = _ := e
    obtain ⟨h1, h2, h3, h4⟩ := ih (r + 1) (t.setV (d + r) (sweepTo t0.k ty vl 0 active (f r) (t.vr (d + r))).1)
      (fl ||| (sweepTo t0.k ty vl 0 active (f r) (t.vr (d + r))).2) (by omega)
    rw [← ho] at h1 h2 h3 h4
    refine ⟨h1, fun ρ j a b c => ?_, fun m hm => ?_, fun k => ?_⟩
    · by_cases hρ : ρ = r
      · subst hρ
        rw [h3 _ fun ρ' a' b' => by omega, Hart.vr_setV, if_pos rfl, hs.1 j c]
      · rw [h2 ρ j (by omega) (by omega) c, Hart.vr_setV, if_neg (show ¬ (d + ρ) % 32 = (d + r) % 32 by omega)]
    · rw [h3 m fun ρ a b => hm ρ (by omega) (by omega), Hart.vr_setV, if_neg (hm r (by omega) (by omega))]
    · rw [h4, BitVec.getLsbD_or, Bool.or_eq_true, hs.2]
      constructor
      · rintro ((h | ⟨j, h⟩) | ⟨ρ, j, a, b, h⟩)
        · exact .inl h
        · exact .inr ⟨r, j, by omega, by omega, h⟩
        · exact .inr ⟨ρ, j, by omega, by omega, h⟩
      · rintro (h | ⟨ρ, j, a, b, h⟩)
        · exact .inl (.inl h)
        · by_cases hρ : ρ = r
          · subst hρ; exact .inl (.inr ⟨j, h⟩)
          · exact .inr ⟨ρ, j, by omega, by omega, h⟩

theorem Hart.csrv_accrue (t : Hart) (fl : Flags) (n : Nat) : (t.accrue fl).csrv n =
    if n = 0x012 then t.csrv 0x012 ||| fl.setWidth 64
    else if n = 0 then t.csrv 0 ||| (fl &&& 0x1F).setWidth 64 else t.csrv n := by
  unfold Hart.accrue; simp only [Hart.csrv_setCsr]
theorem accrued_accrue (t : Hart) (fl : Flags) (p : Nat → Prop) (h : ∀ k, fl.getLsbD k = true ↔ p k) :
    Accrued t (t.accrue fl) p := by
  refine ⟨fl, h, ?_, ?_, fun n hn => ?_⟩
  · simp [Hart.csrv_accrue]
  · simp [Hart.csrv_accrue]
  · simp only [List.mem_cons, List.not_mem_nil, or_false, not_or] at hn
    simp [Hart.csrv_accrue, hn]

theorem Accrued.congr {a b c : Hart} {p : Nat → Prop} (h : Accrued a b p) (e : ∀ n, c.csrv n = b.csrv n) :
    Accrued a c p := by
  obtain ⟨fl, h1, h2, h3, h4⟩ := h
  exact ⟨fl, h1, by rw [e, h2], by rw [e, h3], fun n hn => by rw [e, h4 n hn]⟩

theorem mask_testBit (t : Hart) (m : BitVec 2) (i : Nat) (hi : i < 8192) : (t.maskOf m).testBit i = t.gates m i := by
  unfold Hart.maskOf Hart.gates
  split
  · rename_i h; simp [h, Nat.testBit_two_pow_sub_one, hi]
  · rename_i h; rw [decide_eq_false h, Bool.false_or]; rfl

theorem complete_eq (t : Hart) (e : QEntry) (fl : Flags) (hf : e.flags = 0) (hc : classOf e.word ≠ .matrix) :
    t.complete e fl = { t with csr := (t.accrue fl).csr } := by
  unfold Hart.complete
  dsimp only
  rw [if_neg hc, hf, show (0 : BitVec 6) ||| fl = fl from BitVec.zero_or]
  rfl

theorem share_le (k w : Nat) (hk : k ≤ 8) (hw : 4 ≤ w) : k * 4096 / w ≤ 8192 := by
  apply Nat.div_le_of_le_mul
  nlinarith
theorem vlmax_le (t : Hart) (ty : BitVec 4) : vlmaxOf t.k ty ≤ 8192 :=
  share_le _ _ (popCount_le _ _) (by revert ty; decide)

theorem lengthWord_vl (t vl : Nat) (hv : vl ≤ 8192) :
    ((BitVec.ofNat 64 (t * 2 ^ 32 + vl)).extractLsb' 0 32).toNat = vl := by
  rw [BitVec.extractLsb'_toNat, BitVec.toNat_ofNat, Nat.shiftRight_zero]
  have h1 : (2:Nat)^64 = 4294967296 * 4294967296 := by norm_num
  have h2 : (2:Nat)^32 = 4294967296 := by norm_num
  rw [h1, h2, Nat.mod_mul_right_mod]
  omega
theorem lengthWord_ty (t : BitVec 4) (vl : Nat) (hv : vl ≤ 8192) :
    (BitVec.ofNat 64 (t.toNat * 2 ^ 32 + vl)).extractLsb' 32 4 = t := by
  have := t.isLt
  apply BitVec.eq_of_toNat_eq
  have h1 : (2:Nat)^64 = 18446744073709551616 := by norm_num
  have h2 : (2:Nat)^32 = 4294967296 := by norm_num
  rw [BitVec.extractLsb'_toNat, BitVec.toNat_ofNat, Nat.shiftRight_eq_div_pow, h1, h2]
  omega
theorem lengthWord_reserved (t : BitVec 4) (vl : Nat) (hv : vl ≤ 8192) :
    (BitVec.ofNat 64 (t.toNat * 2 ^ 32 + vl)).extractLsb' 36 28 = 0 := by
  have := t.isLt
  apply BitVec.eq_of_toNat_eq
  have h1 : (2:Nat)^64 = 18446744073709551616 := by norm_num
  have h2 : (2:Nat)^32 = 4294967296 := by norm_num
  have h3 : (2:Nat)^36 = 68719476736 := by norm_num
  rw [BitVec.extractLsb'_toNat, BitVec.toNat_ofNat, Nat.shiftRight_eq_div_pow, h1, h2, h3]
  show _ = 0
  omega
/-- A member's checks pass: clusters are owned, there is room, its length word and its type are accepted, and so is what
the instruction itself asks for. -/
theorem enqueueCheck_none (s : State) (q : Queued) (l : BitVec 2) (vl : Nat) (ty : BitVec 4) (hr : Runs s q.word)
    (hl : q.len = some l) (hv : HasLength s l vl ty) (hb : q.bound = shareBound) (ht : q.types ty = true)
    (hm : q.rm = false ∨ s.me.rm.toNat < 5) (hk : q.check s (q.capture s.me s.me.pc) = none) :
    q.enqueueCheck s (q.capture s.me s.me.pc) = none ∧ (q.capture s.me s.me.pc).vl = vl ∧
      (q.capture s.me s.me.pc).ty = ty := by
  obtain ⟨h1, h2, h3, -, h4, -⟩ := hr
  have hlw : (q.capture s.me s.me.pc).lw = BitVec.ofNat 64 (ty.toNat * 2 ^ 32 + vl) := by
    show (q.len.map fun l => s.me.xr (28 + l.setWidth 5)).getD 0 = _
    rw [hl]; exact hv.1
  have hv2 : vl ≤ 8192 := le_trans hv.2 (vlmax_le s.me ty)
  have e1 : (q.capture s.me s.me.pc).vl = vl := by unfold QEntry.vl; rw [hlw, lengthWord_vl _ _ hv2]
  have e2 : (q.capture s.me s.me.pc).ty = ty := by unfold QEntry.ty; rw [hlw, lengthWord_ty _ _ hv2]
  have e3 : (q.capture s.me s.me.pc).lw.extractLsb' 36 28 = 0 := by rw [hlw, lengthWord_reserved _ _ hv2]
  refine ⟨?_, e1, e2⟩
  have hle : q.lengthCheck s.me (q.capture s.me s.me.pc) = none := by
    unfold Queued.lengthCheck
    rw [hl]; simp only
    rw [if_neg (by rw [e3]; simp), if_neg (by rw [e1, e2, hb]; exact Nat.not_lt.mpr hv.2)]
  have htc : q.typeCheck (q.capture s.me s.me.pc) = true := by
    unfold Queued.typeCheck
    rw [e2, ht]
    have : (q.capture s.me s.me.pc).rm = s.me.rm := rfl
    rw [this]
    rcases hm with h | h <;> simp [h]
  unfold Queued.enqueueCheck
  simp only [hle, htc, hk, h3]
  have hf : (!(q.capture s.me s.me.pc).first && !convoyRoom s.me.openMembers q.word) = false := by
    have : (q.capture s.me s.me.pc).first = s.me.begins q.word := rfl
    rw [this]
    rcases h4 with h | h <;> simp [h]
  rw [hf]
  simp [h2]

/-- A queued instruction whose action is an element sweep runs as one. -/
theorem sweeps_enqueue (s : State) (q : Queued) (l g m : BitVec 2) (d : BitVec 5) (vl : Nat) (ty : BitVec 4)
    (f : Nat → Nat → Nat × Flags) (hr : Runs s q.word) (hl : q.len = some l) (hv : HasLength s l vl ty)
    (hb : q.bound = shareBound) (ht : q.types ty = true) (hm : q.rm = false ∨ s.me.rm.toNat < 5) (h0 : q.ctr = 0)
    (hk : q.check s (q.capture s.me s.me.pc) = none) (hx : ∀ e, q.fixes s e = e) (hpl : ∀ u e, q.place u e = none)
    (hc : classOf q.word ≠ .matrix)
    (ha : ∀ u, u.me.x = s.me.x → u.me.v = s.me.v → u.me.m = s.me.m → u.me.csr = s.me.csr → u.me.map = s.me.map →
      u.me.cb = s.me.cb →
      (q.capture s.me s.me.pc).ty = ty → (q.capture s.me s.me.pc).vl = vl →
      q.act u (q.capture s.me s.me.pc) = u.sweep (q.capture s.me s.me.pc) g m d f) :
    Sweeps (.next (s.enqueue q)) s g m d ty vl f := by
  obtain ⟨hk1, hk2, hk3⟩ := enqueueCheck_none s q l vl ty hr hl hv hb ht hm hk
  have hr' := hr
  obtain ⟨hp, -, -, -, -, -, hd, -⟩ := hr'
  generalize he : q.capture s.me s.me.pc = e at *
  have hfirst : e.restart = 0 ∧ e.word = q.word ∧ e.flags = 0 ∧ e.stop = wholeStop := by
    rw [← he]; exact ⟨rfl, rfl, rfl, rfl⟩
  let o : State → Hart × Flags := fun u => sweepRows u.me.k e.ty e.till (fun i => (u.me.maskOf m).testBit i) d.toNat e.row0
    e.elem0 f (groupRows g) 0 (u.me, 0)
  have hact : ∀ u, OnlyMe s u → u.me = admitted s.me.advance q e →
      q.act u e = .done (u.withMe fun _ => (o u).1) (o u).2 := by
    intro u _ hu
    rw [ha u (by rw [hu, admitted_eq]; rfl) (by rw [hu, admitted_eq]; rfl) (by rw [hu, admitted_eq]; rfl)
      (by rw [hu, admitted_eq]; rfl) (by rw [hu, admitted_eq]; rfl) (by rw [hu, admitted_eq]; rfl) hk3 hk2]
    rfl
  have htill : ∀ r, r < 8 → e.till r = vl := by
    intro r h
    have hv2 : vl ≤ 8192 := le_trans hv.2 (vlmax_le s.me ty)
    unfold QEntry.till
    rw [hk2, hfirst.2.2.2]
    unfold wholeStop
    omega
  have h32 : 0 + groupRows g ≤ 8 := by unfold groupRows; have : g.toNat < 4 := g.isLt; interval_cases g.toNat <;> decide
  have hspec := fun (u : State) => sweepRows_spec u.me ty vl e.till htill (fun i => (u.me.maskOf m).testBit i) d.toNat f (groupRows g) 0
    u.me 0 h32
  have hou : ∀ u, o u = sweepRows u.me.k ty e.till (fun i => (u.me.maskOf m).testBit i) d.toNat 0 0 f (groupRows g) 0 (u.me, 0) := by
    intro u
    show sweepRows u.me.k e.ty e.till _ d.toNat e.row0 e.elem0 f _ 0 _ = _
    rw [hk3]; unfold QEntry.row0 QEntry.elem0; rw [hfirst.1, Nat.zero_div, Nat.zero_mod]
  obtain ⟨u, hu1, hu2, hu3⟩ := enqueue_runs s q e he.symm (hx e) (fun u => hpl u e) hk1 hr (fun u => u.withMe fun _ => (o u).1)
    (fun u => (o u).2) (fun u a b => ⟨hact u a b, by
      rw [State.me_withMe, hou u]
      rw [(hspec u).1, b]⟩)
  obtain ⟨s1, s2, s3, s4⟩ := hspec u
  simp only [← hou u] at s1 s2 s3 s4
  have hme : s.enqueue q = (u.withMe fun _ => (o u).1).withMe fun t => { t.complete e (o u).2 with
      queue := (if e.first then [] else s.me.queue) ++ [{ e with started := true, done := true }] } := hu3
  have hkk : u.me.k = s.me.k := by rw [hu2, admitted_eq]; rfl
  have hgg : ∀ i, u.me.gates m i = s.me.gates m i := by intro i; rw [hu2, admitted_eq]; rfl
  have hvv : ∀ n, u.me.vr n = s.me.vr n := by intro n; rw [hu2, admitted_eq]; rfl
  have hcs : ∀ n, u.me.csrv n = s.me.csrv n := by intro n; rw [hu2, admitted_eq]; rfl
  have hme2 : (s.enqueue q).me = { (o u).1 with
      csr := ((o u).1.accrue (o u).2).csr
      queue := (if e.first then [] else s.me.queue) ++ [{ e with started := true, done := true }] } := by
    rw [hme, State.me_withMe, State.me_withMe, complete_eq _ _ _ hfirst.2.2.1 (by rw [hfirst.2.1]; exact hc)]
  refine ⟨_, rfl, ⟨?_, ?_, ?_⟩, ?_, ?_, ?_, ?_, ?_⟩
  · rw [hme]; exact hu1.trans ((onlyMe_withMe _ _).trans (onlyMe_withMe _ _))
  · rw [hme2, Hart.drained_iff]
    intro x hx
    simp only [List.mem_append, List.mem_singleton] at hx
    rcases hx with hx | hx
    · split at hx
      · cases hx
      · exact (Hart.drained_iff _).mp hd x hx
    · rw [hx]
  · have hcc : (admitted s.me.advance q e).cc = s.me.cc := by unfold admitted; dsimp only; rw [if_pos h0]; rfl
    rw [hme2, s1, hu2, admitted_eq, hcc]; rfl
  · rw [hme2, s1, hu2, admitted_eq]; rfl
  · rw [hme2, s1, hu2, admitted_eq]; rfl
  · intro r i hr hi
    have := s2 r i (by omega) (by simpa [groupRows] using hr) (by rw [hkk]; exact hi)
    rw [hme2]
    show rowElem _ ((o u).1.vr (d.toNat + r)).toNat i = _
    rw [this, mask_testBit _ _ _ (lt_of_lt_of_le hi (vlmax_le _ _)), hgg, hvv]
    rfl
  · intro n hn hr
    rw [hme2]
    show (o u).1.vr n = _
    rw [s3 n fun ρ _ hρ => by rw [Nat.mod_eq_of_lt hn]; exact hr ρ (by simpa [groupRows] using hρ), hvv]
  · have hcsr : ∀ n, (s.enqueue q).me.csrv n = (s.me.accrue (o u).2).csrv n := by
      intro n
      rw [hme2]
      show ((o u).1.accrue (o u).2).csrv n = _
      have hb : ∀ k, (o u).1.csrv k = s.me.csrv k := fun k => by
        rw [← hcs k]; have h := congrArg Hart.csr s1; exact congrArg (fun l => Sparse.get 0 l k) h
      simp only [Hart.csrv_accrue, hb]
    refine (accrued_accrue s.me (o u).2 _ fun k => ?_).congr hcsr
    rw [s4 k]
    constructor
    · rintro (h | ⟨ρ, j, -, a, b, c, h⟩)
      · simp at h
      · exact ⟨ρ, j, by simpa [groupRows] using a, b, by
          rw [← hgg, ← mask_testBit _ _ _ (lt_of_lt_of_le b (le_trans hv.2 (vlmax_le _ _)))]; exact c, h⟩
    · rintro ⟨ρ, j, a, b, c, h⟩
      exact .inr ⟨ρ, j, Nat.zero_le _, by simpa [groupRows] using a, b, by
        rw [mask_testBit _ _ _ (lt_of_lt_of_le b (le_trans hv.2 (vlmax_le _ _))), hgg]; exact c, h⟩


/-- The major of a word. -/
theorem major_join (x : Fields) : (joinWord x).extractLsb' 25 6 = x.maj := by
  apply BitVec.eq_of_getLsbD_eq
  intro i hi
  simp only [joinWord, BitVec.getLsbD_extractLsb', BitVec.getLsbD_append]
  interval_cases i <;> simp

end Sys2Proof.Machine
end

