-- ==== Sys2Proof/Tests/Slice0.lean ====
section
/-!
SUPPORT. Tests/Slice0.lean: the model's own tests. Expected results are the manual's: its encoding tables and the worked
examples of its chapters. The witnesses at the end meet the hypotheses of the statements.
-/

namespace Sys2Proof.Tests

set_option Elab.async false

open Sys2Proof Sys2Proof.Machine

/-! ### Decoding: words written out from R71-R85, one for every encoded constructor -/

/-- A word decodes to an instruction, which is well-formed and has that word. -/
noncomputable def decodesTo (p : Nat × Instr) : Bool :=
  (match decode (BitVec.ofNat 32 p.1) with
    | .ok i => decide (i = p.2)
    | .error _ => false) && wellFormed p.2 && decide (encode p.2 = some (BitVec.ofNat 32 p.1))
/-- A word is refused. -/
noncomputable def refused (w : Nat) : Bool :=
  match decode (BitVec.ofNat 32 w) with
  | .ok i => !wellFormed i
  | .error _ => true

/-- R76: OP, functions 1 to 14. -/
theorem test_decode_op1 : [
    (0b0_000000_00011_00001_00010_0000000001, Instr.add ⟨3, 1, 2⟩),
    (0b0_000000_00011_00001_00010_0000000010, Instr.sub ⟨3, 1, 2⟩),
    (0b0_000000_00011_00001_00010_0000000011, Instr.and ⟨3, 1, 2⟩),
    (0b0_000000_00011_00001_00010_0000000100, Instr.or ⟨3, 1, 2⟩),
    (0b0_000000_00011_00001_00010_0000000101, Instr.xor ⟨3, 1, 2⟩),
    (0b0_000000_00011_00001_00010_0000000110, Instr.sll ⟨3, 1, 2⟩),
    (0b0_000000_00011_00001_00010_0000000111, Instr.srl ⟨3, 1, 2⟩),
    (0b0_000000_00011_00001_00010_0000001000, Instr.sra ⟨3, 1, 2⟩),
    (0b0_000000_00011_00001_00010_0000001001, Instr.slt ⟨3, 1, 2⟩),
    (0b0_000000_00011_00001_00010_0000001010, Instr.sltn ⟨3, 1, 2⟩),
    (0b0_000000_00011_00001_00010_0000001011, Instr.mul ⟨3, 1, 2⟩),
    (0b0_000000_00011_00001_00010_0000001100, Instr.mulh ⟨3, 1, 2⟩),
    (0b0_000000_00011_00001_00010_0000001101, Instr.mulhn ⟨3, 1, 2⟩),
    (0b0_000000_00011_00001_00010_0000001110, Instr.div ⟨3, 1, 2⟩)].all (decodesTo ·) = true := by decide +kernel

/-- R76: OP, functions 15 to 28. -/
theorem test_decode_op2 : [
    (0b0_000000_00011_00001_00010_0000001111, Instr.divn ⟨3, 1, 2⟩),
    (0b0_000000_00011_00001_00010_0000010000, Instr.rem ⟨3, 1, 2⟩),
    (0b0_000000_00011_00001_00010_0000010001, Instr.remn ⟨3, 1, 2⟩),
    (0b0_000000_00011_00001_00010_0000010010, Instr.min ⟨3, 1, 2⟩),
    (0b0_000000_00011_00001_00010_0000010011, Instr.max ⟨3, 1, 2⟩),
    (0b0_000000_00011_00001_00010_0000010100, Instr.minn ⟨3, 1, 2⟩),
    (0b0_000000_00011_00001_00010_0000010101, Instr.maxn ⟨3, 1, 2⟩),
    (0b0_000000_00011_00001_00000_0000010110, Instr.clz ⟨3, 1⟩),
    (0b0_000000_00011_00001_00000_0000010111, Instr.ctz ⟨3, 1⟩),
    (0b0_000000_00011_00001_00000_0000011000, Instr.popc ⟨3, 1⟩),
    (0b0_000000_00011_00001_00010_0000011001, Instr.rol ⟨3, 1, 2⟩),
    (0b0_000000_00011_00001_00010_0000011010, Instr.ror ⟨3, 1, 2⟩),
    (0b0_000000_00011_00001_00010_0000011011, Instr.addw ⟨3, 1, 2⟩),
    (0b0_000000_00011_00001_00010_0000011100, Instr.subw ⟨3, 1, 2⟩)].all (decodesTo ·) = true := by decide +kernel

/-- R77: ADDI, ALUI, LUI, AUIPC. -/
theorem test_decode_immediate : [
    (0b0_000001_00101_00110_100000000000001, Instr.addi ⟨5, 6, 0x4001⟩),
    (0b0_000010_00101_00110_000100000000001, Instr.andi ⟨5, 6, 0x801⟩),
    (0b0_000010_00101_00110_001100000000001, Instr.ori ⟨5, 6, 0x801⟩),
    (0b0_000010_00101_00110_010100000000001, Instr.xori ⟨5, 6, 0x801⟩),
    (0b0_000010_00101_00110_011100000000001, Instr.slti ⟨5, 6, 0x801⟩),
    (0b0_000010_00101_00110_100100000000001, Instr.sltni ⟨5, 6, 0x801⟩),
    (0b0_000010_00101_00110_101000000100001, Instr.slli ⟨5, 6, 33⟩),
    (0b0_000010_00101_00110_110000000100001, Instr.srli ⟨5, 6, 33⟩),
    (0b0_000010_00101_00110_111000000100001, Instr.srai ⟨5, 6, 33⟩),
    (0b0_000011_00111_10000000000000000001, Instr.lui ⟨7, 0x80001⟩),
    (0b0_000100_00111_10000000000000000001, Instr.auipc ⟨7, 0x80001⟩)].all (decodesTo ·) = true := by decide +kernel

/-- R77: BR, JAL, JALR. -/
theorem test_decode_branch : [
    (0b0_000101_00011_00100_000_100000000010, Instr.beq ⟨3, 4, 0x802⟩),
    (0b0_000101_00011_00100_001_100000000010, Instr.bne ⟨3, 4, 0x802⟩),
    (0b0_000101_00011_00100_010_100000000010, Instr.blt ⟨3, 4, 0x802⟩),
    (0b0_000101_00011_00100_011_100000000010, Instr.bge ⟨3, 4, 0x802⟩),
    (0b0_000101_00011_00100_100_100000000010, Instr.bltn ⟨3, 4, 0x802⟩),
    (0b0_000101_00011_00100_101_100000000010, Instr.bgen ⟨3, 4, 0x802⟩),
    (0b0_000110_01001_10000000000000000011, Instr.jal ⟨9, 0x80003⟩),
    (0b0_000111_01001_01010_100000000000101, Instr.jalr ⟨9, 10, 0x4005⟩)].all (decodesTo ·) = true := by decide +kernel

/-- R77: LDS, STS (rs2 first, then rs1), LDPC. -/
theorem test_decode_scalar_memory : [
    (0b0_001000_00100_00101_000100000000011, Instr.ldb ⟨4, 5, 0x803⟩),
    (0b0_001000_00100_00101_010100000000011, Instr.ldh ⟨4, 5, 0x803⟩),
    (0b0_001000_00100_00101_100100000000011, Instr.ldw ⟨4, 5, 0x803⟩),
    (0b0_001000_00100_00101_110100000000011, Instr.ldd ⟨4, 5, 0x803⟩),
    (0b0_001000_00100_00101_001100000000011, Instr.ldbs ⟨4, 5, 0x803⟩),
    (0b0_001000_00100_00101_011100000000011, Instr.ldhs ⟨4, 5, 0x803⟩),
    (0b0_001000_00100_00101_101100000000011, Instr.ldws ⟨4, 5, 0x803⟩),
    (0b0_001001_00110_00111_00_1000000000100, Instr.stb ⟨6, 7, 0x1004⟩),
    (0b0_001001_00110_00111_01_1000000000100, Instr.sth ⟨6, 7, 0x1004⟩),
    (0b0_001001_00110_00111_10_1000000000100, Instr.stw ⟨6, 7, 0x1004⟩),
    (0b0_001001_00110_00111_11_1000000000100, Instr.std ⟨6, 7, 0x1004⟩),
    (0b0_001011_01000_10000000000000000100, Instr.ldpc ⟨8, 0x80004⟩)].all (decodesTo ·) = true := by decide +kernel

/-- R77: AMOS. -/
theorem test_decode_scalar_atomic : [
    (0b0_001010_00100_00101_00110_0000101000, Instr.amosAdd ⟨4, 5, 6, 1, 2⟩),
    (0b0_001010_00100_00101_00110_0001101000, Instr.amosAnd ⟨4, 5, 6, 1, 2⟩),
    (0b0_001010_00100_00101_00110_0010101000, Instr.amosOr ⟨4, 5, 6, 1, 2⟩),
    (0b0_001010_00100_00101_00110_0011101000, Instr.amosXor ⟨4, 5, 6, 1, 2⟩),
    (0b0_001010_00100_00101_00110_0100101000, Instr.amosMin ⟨4, 5, 6, 1, 2⟩),
    (0b0_001010_00100_00101_00110_0101101000, Instr.amosMax ⟨4, 5, 6, 1, 2⟩),
    (0b0_001010_00100_00101_00110_0110101000, Instr.amosMinn ⟨4, 5, 6, 1, 2⟩),
    (0b0_001010_00100_00101_00110_0111101000, Instr.amosMaxn ⟨4, 5, 6, 1, 2⟩),
    (0b0_001010_00100_00101_00110_1000101000, Instr.amosSwap ⟨4, 5, 6, 1, 2⟩),
    (0b0_001010_00100_00101_00110_1001101000, Instr.amosCas ⟨4, 5, 6, 1, 2⟩)].all (decodesTo ·) = true := by decide +kernel

/-- R77, R78: CSR, SYS. -/
theorem test_decode_system : [
    (0b0_001100_00011_00000_000000100000100, Instr.csrr ⟨3, 0x104⟩),
    (0b0_001100_00011_00100_010000100000111, Instr.csrw ⟨3, 4, 0x107⟩),
    (0b0_001100_00011_00100_100000100000111, Instr.csrs ⟨3, 4, 0x107⟩),
    (0b0_001100_00011_00100_110000100000111, Instr.csrc ⟨3, 4, 0x107⟩),
    (0b0_001101_00000_00000_00000_0000000001, Instr.svc),
    (0b0_001101_00000_00000_00000_0000000010, Instr.tret),
    (0b0_001101_00000_00000_00000_0000000011, Instr.brk),
    (0b0_001101_00000_00000_00000_0000000100, Instr.ifence),
    (0b0_001101_00000_00000_00000_0000000101, Instr.wfi),
    (0b0_001101_00000_00011_00100_0000000110, Instr.lksv ⟨3, 4⟩),
    (0b0_001101_00000_00011_00100_0000000111, Instr.lkld ⟨3, 4⟩),
    (0b0_001101_00000_00011_00000_0000001000, Instr.hrel ⟨3⟩)].all (decodesTo ·) = true := by decide +kernel

/-- R78: CTL. -/
theorem test_decode_control : [
    (0b0_001110_11100_00011_00000_0000100100, Instr.setvl ⟨28, 3, 0b1001⟩),
    (0b0_001110_00011_00000_00000_0001000001, Instr.fork ⟨3, 1⟩),
    (0b0_001110_00000_00000_00000_0010000000, Instr.merge),
    (0b0_001110_00000_00000_00000_0011000000, Instr.endHart),
    (0b0_001110_00000_00000_00000_0100000000, Instr.yield),
    (0b0_001110_00011_00100_00000_0101000000, Instr.launch ⟨3, 4⟩),
    (0b0_001110_00011_00100_00000_0110000000, Instr.share ⟨3, 4⟩)].all (decodesTo ·) = true := by decide +kernel

/-- R78: SYNC. -/
theorem test_decode_sync : [
    (0b0_001111_00011_00000_00000_0000010011, Instr.phaseRel ⟨3, 2, 1⟩),
    (0b0_001111_00011_00000_00000_0000010101, Instr.phaseAcq ⟨3, 2, 1⟩),
    (0b0_001111_00011_00000_00000_0000010111, Instr.phaseAr ⟨3, 2, 1⟩),
    (0b0_001111_00011_00100_00000_0001000101, Instr.waitc ⟨3, 4, 5⟩),
    (0b0_001111_00011_00100_00000_0010000110, Instr.waitt ⟨3, 4, 6⟩),
    (0b0_001111_00011_00100_00101_0011000000, Instr.waitg ⟨3, 4, 5⟩),
    (0b0_001111_00011_00100_00101_0100000000, Instr.waitwEq ⟨3, 4, 5⟩),
    (0b0_001111_00011_00100_00101_0100000001, Instr.waitwNe ⟨3, 4, 5⟩),
    (0b0_001111_00011_00100_00101_0100000010, Instr.waitwGen ⟨3, 4, 5⟩),
    (0b0_001111_00011_00100_00101_0100000011, Instr.waitwLtn ⟨3, 4, 5⟩),
    (0b0_001111_00011_00000_00000_0101000000, Instr.time ⟨3⟩),
    (0b0_001111_00000_00100_00101_0110000000, Instr.winfl ⟨4, 5⟩),
    (0b0_001111_00011_00100_00101_0111000000, Instr.qpop ⟨3, 4, 5⟩),
    (0b0_001111_00011_00100_00101_1000000000, Instr.qpush ⟨3, 4, 5⟩),
    (0b0_001111_00011_00000_00000_1001000111, Instr.ccrd ⟨3, 7⟩),
    (0b0_001111_00000_00100_00000_1010000111, Instr.ccset ⟨4, 7⟩)].all (decodesTo ·) = true := by decide +kernel

/-- R79: VINT. -/
theorem test_decode_vint : [
    (0b1_010000_01000_01100_00100_01_10_11_0000, Instr.vadd ⟨1, 8, 12, 4, 1, 2, 3⟩),
    (0b1_010000_01000_01100_00100_01_10_11_0001, Instr.vsub ⟨1, 8, 12, 4, 1, 2, 3⟩),
    (0b1_010000_01000_01100_00100_01_10_11_0010, Instr.vrsub ⟨1, 8, 12, 4, 1, 2, 3⟩),
    (0b1_010000_01000_01100_00100_01_10_11_0011, Instr.vmul ⟨1, 8, 12, 4, 1, 2, 3⟩),
    (0b1_010000_01000_01100_00100_01_10_11_0100, Instr.vmulh ⟨1, 8, 12, 4, 1, 2, 3⟩),
    (0b1_010000_01000_01100_00100_01_10_11_0101, Instr.vmacc ⟨1, 8, 12, 4, 1, 2, 3⟩),
    (0b1_010000_01000_01100_00100_01_10_11_0110, Instr.vmin ⟨1, 8, 12, 4, 1, 2, 3⟩),
    (0b1_010000_01000_01100_00100_01_10_11_0111, Instr.vmax ⟨1, 8, 12, 4, 1, 2, 3⟩),
    (0b1_010000_01000_01100_00100_01_10_11_1000, Instr.vand ⟨1, 8, 12, 4, 1, 2, 3⟩),
    (0b1_010000_01000_01100_00100_01_10_11_1001, Instr.vor ⟨1, 8, 12, 4, 1, 2, 3⟩),
    (0b1_010000_01000_01100_00100_01_10_11_1010, Instr.vxor ⟨1, 8, 12, 4, 1, 2, 3⟩),
    (0b1_010000_01000_01100_00100_01_10_11_1011, Instr.vsll ⟨1, 8, 12, 4, 1, 2, 3⟩),
    (0b1_010000_01000_01100_00100_01_10_11_1100, Instr.vsrl ⟨1, 8, 12, 4, 1, 2, 3⟩),
    (0b1_010000_01000_01100_00100_01_10_11_1101, Instr.vsra ⟨1, 8, 12, 4, 1, 2, 3⟩),
    (0b1_010000_01000_01100_00100_01_10_11_1110, Instr.vadds ⟨1, 8, 12, 4, 1, 2, 3⟩),
    (0b1_010000_01000_01100_00100_01_10_11_1111, Instr.vsubs ⟨1, 8, 12, 4, 1, 2, 3⟩)].all (decodesTo ·) = true := by decide +kernel

/-- R79: VINTX. -/
theorem test_decode_vintx : [
    (0b0_010001_01000_01101_00100_01_10_11_0000, Instr.vaddX ⟨0, 8, 13, 4, 1, 2, 3⟩),
    (0b0_010001_01000_01101_00100_01_10_11_0001, Instr.vsubX ⟨0, 8, 13, 4, 1, 2, 3⟩),
    (0b0_010001_01000_01101_00100_01_10_11_0010, Instr.vrsubX ⟨0, 8, 13, 4, 1, 2, 3⟩),
    (0b0_010001_01000_01101_00100_01_10_11_0011, Instr.vmulX ⟨0, 8, 13, 4, 1, 2, 3⟩),
    (0b0_010001_01000_01101_00100_01_10_11_0100, Instr.vmulhX ⟨0, 8, 13, 4, 1, 2, 3⟩),
    (0b0_010001_01000_01101_00100_01_10_11_0101, Instr.vmaccX ⟨0, 8, 13, 4, 1, 2, 3⟩),
    (0b0_010001_01000_01101_00100_01_10_11_0110, Instr.vminX ⟨0, 8, 13, 4, 1, 2, 3⟩),
    (0b0_010001_01000_01101_00100_01_10_11_0111, Instr.vmaxX ⟨0, 8, 13, 4, 1, 2, 3⟩),
    (0b0_010001_01000_01101_00100_01_10_11_1000, Instr.vandX ⟨0, 8, 13, 4, 1, 2, 3⟩),
    (0b0_010001_01000_01101_00100_01_10_11_1001, Instr.vorX ⟨0, 8, 13, 4, 1, 2, 3⟩),
    (0b0_010001_01000_01101_00100_01_10_11_1010, Instr.vxorX ⟨0, 8, 13, 4, 1, 2, 3⟩),
    (0b0_010001_01000_01101_00100_01_10_11_1011, Instr.vsllX ⟨0, 8, 13, 4, 1, 2, 3⟩),
    (0b0_010001_01000_01101_00100_01_10_11_1100, Instr.vsrlX ⟨0, 8, 13, 4, 1, 2, 3⟩),
    (0b0_010001_01000_01101_00100_01_10_11_1101, Instr.vsraX ⟨0, 8, 13, 4, 1, 2, 3⟩),
    (0b0_010001_01000_01101_00100_01_10_11_1110, Instr.vaddsX ⟨0, 8, 13, 4, 1, 2, 3⟩),
    (0b0_010001_01000_01101_00100_01_10_11_1111, Instr.vsubsX ⟨0, 8, 13, 4, 1, 2, 3⟩)].all (decodesTo ·) = true := by decide +kernel

/-- R79: VFLT. -/
theorem test_decode_vflt : [
    (0b1_010010_01000_01100_00100_01_10_11_0000, Instr.vfadd ⟨1, 8, 12, 4, 1, 2, 3⟩),
    (0b1_010010_01000_01100_00100_01_10_11_0001, Instr.vfsub ⟨1, 8, 12, 4, 1, 2, 3⟩),
    (0b1_010010_01000_01100_00100_01_10_11_0010, Instr.vfmul ⟨1, 8, 12, 4, 1, 2, 3⟩),
    (0b1_010010_01000_01100_00100_01_10_11_0011, Instr.vfdiv ⟨1, 8, 12, 4, 1, 2, 3⟩),
    (0b1_010010_01000_01100_00100_01_10_11_0100, Instr.vfmin ⟨1, 8, 12, 4, 1, 2, 3⟩),
    (0b1_010010_01000_01100_00100_01_10_11_0101, Instr.vfmax ⟨1, 8, 12, 4, 1, 2, 3⟩),
    (0b1_010010_01000_01100_00100_01_10_11_0110, Instr.vfma ⟨1, 8, 12, 4, 1, 2, 3⟩),
    (0b1_010010_01000_01100_00100_01_10_11_0111, Instr.vfms ⟨1, 8, 12, 4, 1, 2, 3⟩),
    (0b1_010010_01000_01100_00100_01_10_11_1000, Instr.vfnma ⟨1, 8, 12, 4, 1, 2, 3⟩),
    (0b1_010010_01000_01100_00100_01_10_11_1001, Instr.vfnms ⟨1, 8, 12, 4, 1, 2, 3⟩),
    (0b1_010010_01000_01100_00100_01_10_11_1010, Instr.vfsgnj ⟨1, 8, 12, 4, 1, 2, 3⟩),
    (0b1_010010_01000_01100_00100_01_10_11_1011, Instr.vfsgnjn ⟨1, 8, 12, 4, 1, 2, 3⟩),
    (0b1_010010_01000_01100_00100_01_10_11_1100, Instr.vfsgnjx ⟨1, 8, 12, 4, 1, 2, 3⟩)].all (decodesTo ·) = true := by decide +kernel

/-- R79: VFLTX. -/
theorem test_decode_vfltx : [
    (0b0_010011_01000_01101_00100_01_10_11_0000, Instr.vfaddX ⟨0, 8, 13, 4, 1, 2, 3⟩),
    (0b0_010011_01000_01101_00100_01_10_11_0001, Instr.vfsubX ⟨0, 8, 13, 4, 1, 2, 3⟩),
    (0b0_010011_01000_01101_00100_01_10_11_0010, Instr.vfmulX ⟨0, 8, 13, 4, 1, 2, 3⟩),
    (0b0_010011_01000_01101_00100_01_10_11_0011, Instr.vfdivX ⟨0, 8, 13, 4, 1, 2, 3⟩),
    (0b0_010011_01000_01101_00100_01_10_11_0100, Instr.vfminX ⟨0, 8, 13, 4, 1, 2, 3⟩),
    (0b0_010011_01000_01101_00100_01_10_11_0101, Instr.vfmaxX ⟨0, 8, 13, 4, 1, 2, 3⟩),
    (0b0_010011_01000_01101_00100_01_10_11_0110, Instr.vfmaX ⟨0, 8, 13, 4, 1, 2, 3⟩),
    (0b0_010011_01000_01101_00100_01_10_11_0111, Instr.vfmsX ⟨0, 8, 13, 4, 1, 2, 3⟩),
    (0b0_010011_01000_01101_00100_01_10_11_1000, Instr.vfnmaX ⟨0, 8, 13, 4, 1, 2, 3⟩),
    (0b0_010011_01000_01101_00100_01_10_11_1001, Instr.vfnmsX ⟨0, 8, 13, 4, 1, 2, 3⟩),
    (0b0_010011_01000_01101_00100_01_10_11_1010, Instr.vfsgnjX ⟨0, 8, 13, 4, 1, 2, 3⟩),
    (0b0_010011_01000_01101_00100_01_10_11_1011, Instr.vfsgnjnX ⟨0, 8, 13, 4, 1, 2, 3⟩),
    (0b0_010011_01000_01101_00100_01_10_11_1100, Instr.vfsgnjxX ⟨0, 8, 13, 4, 1, 2, 3⟩)].all (decodesTo ·) = true := by decide +kernel

/-- R80: VFUN. -/
theorem test_decode_vfun : [
    (0b1_010100_01000_00000_00100_01_10_11_0000, Instr.vfsqrt ⟨1, 8, 4, 1, 2, 3⟩),
    (0b1_010100_01000_00000_00100_01_10_11_0001, Instr.vfexp2 ⟨1, 8, 4, 1, 2, 3⟩),
    (0b1_010100_01000_00000_00100_01_10_11_0010, Instr.vfabs ⟨1, 8, 4, 1, 2, 3⟩),
    (0b1_010100_01000_00000_00100_01_10_11_0011, Instr.vfneg ⟨1, 8, 4, 1, 2, 3⟩),
    (0b1_010100_01000_00000_00100_01_10_11_0100, Instr.vfclass ⟨1, 8, 4, 1, 2, 3⟩),
    (0b1_010100_01000_00000_00100_01_10_11_0101, Instr.vfrint ⟨1, 8, 4, 1, 2, 3⟩),
    (0b1_010100_01000_00000_00100_01_10_11_0111, Instr.vclz ⟨1, 8, 4, 1, 2, 3⟩),
    (0b1_010100_01000_00000_00100_01_10_11_1000, Instr.vctz ⟨1, 8, 4, 1, 2, 3⟩),
    (0b1_010100_01000_00000_00100_01_10_11_1001, Instr.vpopc ⟨1, 8, 4, 1, 2, 3⟩),
    (0b1_010100_01000_00000_00100_01_10_11_1010, Instr.vnot ⟨1, 8, 4, 1, 2, 3⟩),
    (0b1_010100_01000_00000_00100_01_10_11_1011, Instr.vabs ⟨1, 8, 4, 1, 2, 3⟩),
    (0b1_010100_01000_00000_00100_01_10_11_1100, Instr.vneg ⟨1, 8, 4, 1, 2, 3⟩)].all (decodesTo ·) = true := by decide +kernel

/-- R80: VCVT, VMOV. -/
theorem test_decode_convert_move : [
    (0b1_010101_01000_00000_00100_01_10_11_1110, Instr.vcvt ⟨1, 8, 4, 1, 2, 3, 0xE⟩),
    (0b1_010101_01000_00101_00100_01_10_11_1111, Instr.vcvtC4 ⟨1, 8, 5, 4, 1, 2, 3⟩),
    (0b1_010110_01000_00000_00100_01_10_11_0000, Instr.vmv ⟨1, 8, 4, 1, 2, 3⟩),
    (0b1_010110_01000_01101_00000_01_10_11_0001, Instr.vbcast ⟨1, 8, 13, 1, 2, 3⟩),
    (0b1_010110_01000_01100_00100_01_10_11_0010, Instr.vmerge ⟨1, 8, 12, 4, 1, 2, 3⟩),
    (0b1_010110_01000_00000_00000_01_10_11_0011, Instr.viota ⟨1, 8, 1, 2, 3⟩),
    (0b1_010110_00110_01101_00000_00_00_00_0100, Instr.vcbld ⟨1, 6, 13⟩)].all (decodesTo ·) = true := by decide +kernel

/-- R81: VCMP, VCMPX. -/
theorem test_decode_vcmp : [
    (0b1_011000_00110_01100_00100_01_00_11_0000, Instr.vcmpEq ⟨1, 6, 12, 4, 1, 3⟩),
    (0b1_011000_00110_01100_00100_01_00_11_0001, Instr.vcmpNe ⟨1, 6, 12, 4, 1, 3⟩),
    (0b1_011000_00110_01100_00100_01_00_11_0010, Instr.vcmpLt ⟨1, 6, 12, 4, 1, 3⟩),
    (0b1_011000_00110_01100_00100_01_00_11_0011, Instr.vcmpLe ⟨1, 6, 12, 4, 1, 3⟩),
    (0b1_011000_00110_01100_00100_01_00_11_0100, Instr.vcmpGt ⟨1, 6, 12, 4, 1, 3⟩),
    (0b1_011000_00110_01100_00100_01_00_11_0101, Instr.vcmpGe ⟨1, 6, 12, 4, 1, 3⟩),
    (0b1_011000_00110_01100_00100_01_00_11_0110, Instr.vcmpUnord ⟨1, 6, 12, 4, 1, 3⟩),
    (0b1_011000_00110_01100_00100_01_00_11_0111, Instr.vcmpOrd ⟨1, 6, 12, 4, 1, 3⟩),
    (0b0_011001_00110_01101_00100_01_00_11_0000, Instr.vcmpEqX ⟨0, 6, 13, 4, 1, 3⟩),
    (0b0_011001_00110_01101_00100_01_00_11_0001, Instr.vcmpNeX ⟨0, 6, 13, 4, 1, 3⟩),
    (0b0_011001_00110_01101_00100_01_00_11_0010, Instr.vcmpLtX ⟨0, 6, 13, 4, 1, 3⟩),
    (0b0_011001_00110_01101_00100_01_00_11_0011, Instr.vcmpLeX ⟨0, 6, 13, 4, 1, 3⟩),
    (0b0_011001_00110_01101_00100_01_00_11_0100, Instr.vcmpGtX ⟨0, 6, 13, 4, 1, 3⟩),
    (0b0_011001_00110_01101_00100_01_00_11_0101, Instr.vcmpGeX ⟨0, 6, 13, 4, 1, 3⟩),
    (0b0_011001_00110_01101_00100_01_00_11_0110, Instr.vcmpUnordX ⟨0, 6, 13, 4, 1, 3⟩),
    (0b0_011001_00110_01101_00100_01_00_11_0111, Instr.vcmpOrdX ⟨0, 6, 13, 4, 1, 3⟩)].all (decodesTo ·) = true := by decide +kernel

/-- R81: VMSK. -/
theorem test_decode_vmsk : [
    (0b1_011010_00110_00101_00100_01_00_00_0000, Instr.mand ⟨1, 6, 5, 4, 1⟩),
    (0b1_011010_00110_00101_00100_01_00_00_0001, Instr.mor ⟨1, 6, 5, 4, 1⟩),
    (0b1_011010_00110_00101_00100_01_00_00_0010, Instr.mxor ⟨1, 6, 5, 4, 1⟩),
    (0b1_011010_00110_00101_00100_01_00_00_0011, Instr.mandn ⟨1, 6, 5, 4, 1⟩),
    (0b1_011010_00110_00000_00100_01_00_00_0100, Instr.mnot ⟨1, 6, 4, 1⟩),
    (0b1_011010_00110_00000_00100_01_00_00_0111, Instr.mmv ⟨1, 6, 4, 1⟩),
    (0b1_011010_00110_00000_00100_01_00_00_1010, Instr.msbf ⟨1, 6, 4, 1⟩),
    (0b1_011010_00110_00000_00000_01_00_00_0101, Instr.mset ⟨1, 6, 1⟩),
    (0b1_011010_00110_00000_00000_01_00_00_0110, Instr.mclr ⟨1, 6, 1⟩),
    (0b1_011010_10000_00000_00100_01_00_00_1000, Instr.mpopc ⟨1, 16, 4, 1⟩),
    (0b1_011010_10000_00000_00100_01_00_00_1001, Instr.mfirst ⟨1, 16, 4, 1⟩)].all (decodesTo ·) = true := by decide +kernel

/-- R81: VPERM. -/
theorem test_decode_vperm : [
    (0b1_011011_00111_01101_00101_01_00_11_0000, Instr.vslup ⟨1, 7, 13, 5, 1, 3⟩),
    (0b1_011011_00111_01101_00101_01_00_11_0001, Instr.vsldn ⟨1, 7, 13, 5, 1, 3⟩),
    (0b1_011011_00111_01101_00101_01_00_11_0010, Instr.vgather ⟨1, 7, 13, 5, 1, 3⟩),
    (0b1_011011_00111_00000_00101_01_00_11_0011, Instr.vcompress ⟨1, 7, 5, 1, 3⟩),
    (0b1_011011_00111_00000_00101_01_00_11_0100, Instr.vexpand ⟨1, 7, 5, 1, 3⟩),
    (0b1_011011_00111_01101_00101_01_00_00_0101, Instr.vextract ⟨1, 7, 13, 5, 1⟩),
    (0b1_011011_00111_01101_00101_01_00_00_0110, Instr.vinsert ⟨1, 7, 13, 5, 1⟩),
    (0b1_011011_01000_01101_00100_01_10_11_0111, Instr.vrowrot ⟨1, 8, 13, 4, 1, 2, 3⟩)].all (decodesTo ·) = true := by decide +kernel

/-- R81: VRED. -/
theorem test_decode_vred : [
    (0b1_011100_10001_00000_00101_01_00_11_0000, Instr.vredsum ⟨1, 17, 5, 1, 3⟩),
    (0b1_011100_10001_00000_00101_01_00_11_0001, Instr.vredmin ⟨1, 17, 5, 1, 3⟩),
    (0b1_011100_10001_00000_00101_01_00_11_0010, Instr.vredmax ⟨1, 17, 5, 1, 3⟩),
    (0b1_011100_10001_00000_00101_01_00_11_0011, Instr.vredand ⟨1, 17, 5, 1, 3⟩),
    (0b1_011100_10001_00000_00101_01_00_11_0100, Instr.vredor ⟨1, 17, 5, 1, 3⟩),
    (0b1_011100_10001_00000_00101_01_00_11_0101, Instr.vredxor ⟨1, 17, 5, 1, 3⟩),
    (0b1_011100_10001_00000_00101_01_00_11_0110, Instr.vfsumo ⟨1, 17, 5, 1, 3⟩),
    (0b1_011100_10001_00000_00101_01_00_11_0111, Instr.vfsumt ⟨1, 17, 5, 1, 3⟩),
    (0b1_011100_10001_00000_00101_01_00_11_1000, Instr.vfredmin ⟨1, 17, 5, 1, 3⟩),
    (0b1_011100_10001_00000_00101_01_00_11_1001, Instr.vfredmax ⟨1, 17, 5, 1, 3⟩)].all (decodesTo ·) = true := by decide +kernel

/-- R82: vector loads and stores. -/
theorem test_decode_vmem : [
    (0b1_100000_01000_01101_01110_01_10_11_101_1, Instr.vlu ⟨1, 8, 13, 14, 1, 2, 3, 5, 1⟩),
    (0b1_100001_01000_01101_01110_01_10_11_101_1, Instr.vls ⟨1, 8, 13, 14, 1, 2, 3, 5, 1⟩),
    (0b1_100011_01000_01101_01110_01_10_11_101_1, Instr.vld ⟨1, 8, 13, 14, 1, 2, 3, 5, 1⟩),
    (0b1_100100_01000_01101_01110_01_10_11_101_1, Instr.vsu ⟨1, 8, 13, 14, 1, 2, 3, 5, 1⟩),
    (0b1_100101_01000_01101_01110_01_10_11_101_1, Instr.vss ⟨1, 8, 13, 14, 1, 2, 3, 5, 1⟩),
    (0b1_100111_01000_01101_01110_01_10_11_101_1, Instr.vsd ⟨1, 8, 13, 14, 1, 2, 3, 5, 1⟩),
    (0b1_100010_01001_01101_01111_01_00_11_101_1, Instr.vlx ⟨1, 9, 13, 15, 1, 3, 5, 1⟩),
    (0b1_100110_01001_01101_01111_01_00_11_101_1, Instr.vsx ⟨1, 9, 13, 15, 1, 3, 5, 1⟩)].all (decodesTo ·) = true := by decide +kernel

/-- R83: vector atomics. -/
theorem test_decode_vatomic : [
    (0b1_101000_01010_01101_01111_01_00_11_101_1, Instr.vamoaAdd ⟨1, 10, 13, 15, 1, 3, 5, 1⟩),
    (0b1_101000_01010_01101_01111_01_01_11_101_1, Instr.vamoaAnd ⟨1, 10, 13, 15, 1, 3, 5, 1⟩),
    (0b1_101000_01010_01101_01111_01_10_11_101_1, Instr.vamoaOr ⟨1, 10, 13, 15, 1, 3, 5, 1⟩),
    (0b1_101000_01010_01101_01111_01_11_11_101_1, Instr.vamoaXor ⟨1, 10, 13, 15, 1, 3, 5, 1⟩),
    (0b1_101001_01010_01101_01111_01_00_11_101_1, Instr.vamobMin ⟨1, 10, 13, 15, 1, 3, 5, 1⟩),
    (0b1_101001_01010_01101_01111_01_01_11_101_1, Instr.vamobMax ⟨1, 10, 13, 15, 1, 3, 5, 1⟩),
    (0b1_101001_01010_01101_01111_01_10_11_101_1, Instr.vamobSwap ⟨1, 10, 13, 15, 1, 3, 5, 1⟩),
    (0b1_101001_01010_01101_01111_01_11_11_101_1, Instr.vamobCas ⟨1, 10, 13, 15, 1, 3, 5, 1⟩),
    (0b1_101010_01010_01101_01111_01_00_11_101_1, Instr.vamocFadd ⟨1, 10, 13, 15, 1, 3, 5, 1⟩),
    (0b1_101010_01010_01101_01111_01_01_11_101_1, Instr.vamocFmin ⟨1, 10, 13, 15, 1, 3, 5, 1⟩),
    (0b1_101010_01010_01101_01111_01_10_11_101_1, Instr.vamocFmax ⟨1, 10, 13, 15, 1, 3, 5, 1⟩)].all (decodesTo ·) = true := by decide +kernel

/-- R84: ENGA, ENGB, COLL. -/
theorem test_decode_engines : [
    (0b0_101011_00011_00100_00101_00110_111_00, Instr.copy ⟨3, 4, 5, 6, 7⟩),
    (0b0_101011_00011_00100_00101_00110_111_01, Instr.copy2 ⟨3, 4, 5, 6, 7⟩),
    (0b0_101011_00011_00100_00101_00110_111_10, Instr.copyx ⟨3, 4, 5, 6, 7⟩),
    (0b0_101011_00011_00100_00101_00110_111_11, Instr.fill ⟨3, 4, 5, 6, 7⟩),
    (0b0_101100_00011_00000_00101_00110_111_00, Instr.pref ⟨3, 5, 6, 7⟩),
    (0b0_101100_00011_00100_00101_00000_111_01, Instr.ecfg ⟨3, 4, 5, 7⟩),
    (0b0_101100_00011_00000_00000_00000_111_10, Instr.ecnt ⟨3, 7⟩),
    (0b0_101100_00011_00100_00000_00000_111_11, Instr.eres ⟨3, 4, 7⟩),
    (0b0_101101_00011_00100_00101_00110_111_00, Instr.coll ⟨3, 4, 5, 6, 7⟩)].all (decodesTo ·) = true := by decide +kernel

/-- R85: MCFG and the matrix majors. -/
theorem test_decode_matrix : [
    (0b0_110000_00011_00000_00000_0000000000, Instr.mmodeOn ⟨3⟩),
    (0b0_110000_00000_00000_00000_0000000001, Instr.mmodeOff),
    (0b0_110000_00000_00000_00000_0000000010, Instr.mswap),
    (0b0_110000_00011_00000_00000_0000000011, Instr.mstat ⟨3⟩),
    (0b1_110001_00000_01101_01110_01_00_00_0000, Instr.mls ⟨1, 13, 14, 1⟩),
    (0b1_110010_01000_01101_00000_01_10_11_0010, Instr.mstr ⟨1, 8, 13, 1, 2, 3, 1, 0⟩),
    (0b1_110011_01001_01101_01011_01_00_11_0000, Instr.mop ⟨1, 9, 13, 11, 1, 3⟩),
    (0b1_110100_00000_01101_01110_00_00_00_1001, Instr.mscan ⟨1, 13, 14, 1, 0, 1⟩),
    (0b1_110100_00001_01101_01110_00_00_00_0010, Instr.mscanf ⟨1, 13, 14, 2⟩),
    (0b1_110101_01000_01101_00000_01_10_11_0000, Instr.maccRd ⟨1, 8, 13, 1, 2, 3⟩),
    (0b1_110101_01000_01101_00000_01_10_11_0001, Instr.maccWr ⟨1, 8, 13, 1, 2, 3⟩),
    (0b1_110101_00000_01101_01110_00_00_00_0010, Instr.maccZr ⟨1, 13, 14⟩),
    (0b1_110101_01100_01101_01110_00_00_00_0011, Instr.maccCp ⟨1, 12, 13, 14⟩),
    (0b1_110101_01000_00000_00010_01_01_00_0100, Instr.maccScrd ⟨1, 8, 2, 1⟩),
    (0b1_110101_01000_00000_00010_01_01_00_0101, Instr.maccScwr ⟨1, 8, 2, 1⟩)].all (decodesTo ·) = true := by decide +kernel

/-- R71, R75: REP (the manual gives this one as 0x70214000) and UDF. -/
theorem test_decode_rep_udf : [
    (0b0_111000_0001_000010_100_000000000000, Instr.rep ⟨1, 2, 4⟩),
    (0b1_111111_0000000000000000000000101, Instr.udf ⟨1, 5⟩)].all (decodesTo ·) = true := by decide +kernel

/-- The words that the manual's examples assemble to (03_encoding, 04_scalar, 05_vector, 06_memory_isa, 07_matrix_isa). -/
theorem test_decode_manual : [
    (0x1DD48008, Instr.setvl ⟨29, 9, 2⟩), (0xA0442950, Instr.vadd ⟨1, 4, 8, 10, 1, 1, 1⟩),
    (0x26661C06, Instr.vfmaX ⟨0, 6, 12, 7, 0, 0, 0⟩), (0xC0852C04, Instr.vlu ⟨1, 8, 10, 11, 0, 0, 0, 2, 0⟩),
    (0xD0351002, Instr.vamoaAdd ⟨1, 3, 10, 4, 0, 0, 1, 0⟩), (0x1E50001A, Instr.phaseRel ⟨5, 3, 0⟩),
    (0xE50602C0, Instr.mstr ⟨1, 16, 12, 2, 3, 0, 0, 0⟩), (0xE806340C, Instr.mscan ⟨1, 12, 13, 1, 1, 0⟩),
    (0x00A5B00E, Instr.div ⟨10, 11, 12⟩), (0x10A1C008, Instr.ldw ⟨10, 3, 8⟩), (0x12A1C008, Instr.stw ⟨10, 3, 8⟩),
    (0x0AA00004, Instr.beq ⟨10, 0, 4⟩), (0x18552001, Instr.csrw ⟨5, 10, 1⟩),
    (0x14A9AE6C, Instr.amosCas ⟨10, 19, 11, 1, 3⟩), (0x1CA00041, Instr.fork ⟨10, 1⟩),
    (0x1CA90140, Instr.launch ⟨10, 18⟩), (0x1C0000C0, Instr.endHart),
    (0xB6330801, Instr.vsldn ⟨1, 3, 6, 2, 0, 0⟩), (0xB6428802, Instr.vgather ⟨1, 4, 5, 2, 0, 0⟩),
    (0xB0108802, Instr.vcmpLt ⟨1, 1, 1, 2, 0, 0⟩), (0x36600813, Instr.vcompress ⟨0, 6, 2, 0, 1⟩),
    (0xB8A00810, Instr.vredsum ⟨1, 10, 2, 0, 1⟩), (0x34B00409, Instr.mfirst ⟨0, 11, 1, 0⟩),
    (0xAC250004, Instr.vcbld ⟨1, 2, 10⟩), (0xAA800A0A, Instr.vcvt ⟨1, 8, 2, 2, 0, 0, 10⟩),
    (0xC8858001, Instr.vsu ⟨1, 8, 11, 0, 0, 0, 0, 0, 1⟩), (0xC4451900, Instr.vlx ⟨1, 4, 10, 6, 1, 0, 0, 0⟩),
    (0xC7052E86, Instr.vld ⟨1, 16, 10, 11, 2, 2, 0, 3, 0⟩), (0x56A5B1A8, Instr.copy ⟨10, 11, 12, 13, 2⟩),
    (0x5AA5B1A4, Instr.coll ⟨10, 11, 12, 13, 1⟩), (0x60A00000, Instr.mmodeOn ⟨10⟩), (0x60B00003, Instr.mstat ⟨11⟩),
    (0xE2052D00, Instr.mls ⟨1, 10, 11, 1⟩), (0xE50602C3, Instr.mstr ⟨1, 16, 12, 2, 3, 0, 1, 1⟩),
    (0xE6160800, Instr.mop ⟨1, 1, 12, 2, 0, 0⟩), (0xE8163400, Instr.mscanf ⟨1, 12, 13, 0⟩),
    (0xEA860180, Instr.maccRd ⟨1, 8, 12, 1, 2, 0⟩), (0xEA400444, Instr.maccScrd ⟨1, 4, 1, 0⟩)].all (decodesTo ·) = true := by
  decide +kernel

/-- R70, R73, R75, R85: the words that the manual calls reserved: a B bit on SETVL and on MSWAP, END with F10[0] set, SYS 9,
MSCAN with vd 2, and VADD with a destination that is no group base. -/
theorem test_decode_reserved : [0x9DD48008, 0xE0000002, 0x1C0000C1, 0x1A000009, 0xE8263400, 0xA0542950, 0x00000000].all
    (refused ·) = true := by decide +kernel

/-! ### WellFormed: an ill-formed term for each check -/

/-- Group bases of vd, vs1, vs2 and vs. -/
theorem test_ill_formed_groups : [Instr.vadd ⟨1, 5, 8, 10, 1, 1, 1⟩, .vadd ⟨1, 4, 9, 10, 1, 1, 1⟩, .vadd ⟨1, 4, 8, 11, 1, 1, 1⟩,
    .vaddX ⟨1, 6, 9, 8, 1, 2, 1⟩, .vaddX ⟨1, 8, 9, 6, 1, 2, 1⟩, .vmerge ⟨1, 5, 8, 10, 1, 1, 1⟩, .vfsqrt ⟨1, 8, 4, 0, 3, 0⟩,
    .vcvt ⟨1, 8, 1, 0, 1, 0, 2⟩, .vbcast ⟨1, 3, 4, 0, 1, 0⟩, .vlu ⟨1, 4, 3, 0, 0, 3, 0, 0, 0⟩,
    .mstr ⟨1, 2, 3, 0, 2, 0, 0, 0⟩, .maccScrd ⟨1, 3, 0, 0⟩, .maccScwr ⟨1, 3, 0, 0⟩].all (fun i => !wellFormed i) = true := rfl
/-- m0 as a destination, a missing mask, C4 as VCVT's plain source, an odd pair, a reserved scope and counter 0. -/
theorem test_ill_formed_fields : [Instr.vcmpEq ⟨1, 0, 1, 2, 0, 0⟩, .mand ⟨1, 0, 1, 2, 0⟩, .mset ⟨1, 0, 0⟩,
    .vmerge ⟨1, 4, 8, 10, 1, 1, 0⟩, .vcompress ⟨1, 6, 2, 0, 0⟩, .vexpand ⟨1, 6, 2, 0, 0⟩, .vcvt ⟨1, 8, 2, 0, 1, 0, 15⟩,
    .vamobCas ⟨1, 3, 4, 5, 0, 0, 0, 0⟩, .amosAdd ⟨3, 4, 5, 0, 4⟩, .phaseAcq ⟨3, 4, 0⟩, .waitc ⟨3, 4, 0⟩, .ccrd ⟨3, 0⟩,
    .ccset ⟨3, 0⟩].all (fun i => !wellFormed i) = true := rfl

/-! ### Small states -/

/-- Hart 0 with all its clusters, in supervisor privilege at 0x4000, changed as given; queued instructions run at once. -/
def base (g : Hart → Hart) : State := (State.reset.placeWord 0).withMe g
/-- Little-endian elements of width w as a row. -/
def row (w : Nat) (xs : List Nat) : Row := BitVec.ofNat 32768 (xs.foldr (fun x r => x + 2 ^ w * r) 0)
/-- The first n elements of width w of a vector register. -/
def elems (w n r : Nat) (t : State) : List Nat := (List.range n).map fun i => rowElem w (t.me.vr r).toNat i
/-- A length word. -/
def len (ty vl : Nat) : Word := BitVec.ofNat 64 (ty * 2 ^ 32 + vl)
/-- What is observed of a next state. -/
def after {α : Type} (o : Out) (f : State → α) : Option α :=
  match o with
  | .next t => some (f t)
  | _ => none
/-- A second page of 2^28 bytes at virtual 2^28, with a format, a codebook and a scale, over the same memory. -/
def formatted (s : State) (fmt cb scale : Nat) : State :=
  { s with tlb := [⟨0, 0, 0x1000, 1, BitVec.ofNat 128 (leafEntry 0 + fmt * 2 ^ 12 + cb * 2 ^ 16 + scale * 2 ^ 20), 28⟩] }

/-! ### The manual's examples, one step each -/

/-- 04_scalar, end of chapter: 7 / 0 gives all ones and the next word. -/
theorem test_div_by_zero : after (exec (.div ⟨10, 11, 12⟩) (base fun t => t.setX 11 7))
    (fun t => (t.me.xr 10, t.me.pc)) = some (0xFFFFFFFFFFFFFFFF, 0x4004) := by decide +kernel
/-- 04_scalar R102: sltni a0, a1, -1 gives 1 but for the largest value. -/
theorem test_sltni : after (exec (.sltni ⟨10, 11, 0xFFF⟩) (base fun t => t.setX 11 7)) (fun t => t.me.xr 10) = some 1 ∧
    after (exec (.sltni ⟨10, 11, 0xFFF⟩) (base fun t => t.setX 11 0xFFFFFFFFFFFFFFFF)) (fun t => t.me.xr 10) = some 0 := by
  decide +kernel
/-- 04_scalar R106: a misaligned atomic traps ALIGN with its address in TVAL. -/
theorem test_amos_misaligned : after (exec (.amosCas ⟨10, 19, 11, 1, 3⟩)
    (base fun t => ((t.setX 19 0x5004).setX 10 9).setCsr 0x100 0x8000))
    (fun t => (t.me.csrv 0x102, t.me.csrv 0x103, t.me.csrv 0x101, t.me.xr 10, t.me.pc)) =
      some (0x06, 0x5004, 0x4000, 9, 0x8000) := by decide +kernel
/-- 04_scalar R116: two clusters and F6 give VLMAX 1,365. -/
theorem test_setvl : after (exec (.setvl ⟨30, 12, 0xE⟩) (base fun t => { t.setX 12 1000 with map := 0x22 }))
    (fun t => t.me.xr 30) = some 0x0000000E000003E8 := by decide +kernel
/-- 04_scalar R119: child 1 of four has clusters 1 and 5 of the parent's eight. -/
theorem test_fork : after (exec (.fork ⟨10, 1⟩) (base id))
    (fun t => ((t.me.xr 10, t.me.map), (coreSlots 0).map fun h => (t.hart h).map)) =
      some ((0, 0x11), [0x11, 0x22, 0x44, 0x88, 0, 0, 0, 0]) := by decide +kernel
/-- 04_scalar R129: SVC saves the next address and the status. -/
theorem test_svc : after (exec .svc (base fun t => { (t.setCsr 0x100 0x8000).setCsr 0x104 1 with priv := .user }))
    (fun t => (t.me.csrv 0x101, t.me.csrv 0x102, t.me.csrv 0x104, t.me.pc, t.me.priv)) =
      some (0x4004, 0x20, 0x02, 0x8000, .supervisor) := by decide +kernel
/-- 04_scalar R129: TRET resumes in user privilege at EPC. -/
theorem test_tret : after (exec .tret (base fun t => (t.setCsr 0x101 0x6003).setCsr 0x104 0x02))
    (fun t => (t.me.pc, t.me.priv, t.me.csrv 0x104)) = some (0x6000, .user, 0x03) := by decide +kernel
/-- 03_encoding R87: a second memory instruction in an open convoy traps CONVOY with its word. -/
theorem test_convoy : after (exec (.vsu ⟨0, 1, 11, 0, 0, 0, 0, 0, 0⟩)
    (base fun t => { (t.setX 28 (len 10 4)).setCsr 0x100 0x8000 with
      convoyOpen := true
      queue := [⟨true, 0xC0050000, 0x3FF8, 0, 0, 0, 0, 0, 0, 0, false, true, true, 0, wholeStop, 0, none, none, none⟩] }))
    (fun t => (t.me.csrv 0x102, t.me.csrv 0x103)) = some (0x02, 0x48158000) := by decide +kernel
/-- 05_vector R139: type S8, a = 100, b = 50. -/
theorem test_vint : [Instr.vadd ⟨1, 3, 1, 2, 0, 0, 0⟩, .vadds ⟨1, 3, 1, 2, 0, 0, 0⟩, .vmulh ⟨1, 3, 1, 2, 0, 0, 0⟩].map
    (fun i => after (exec i (base fun t => ((t.setX 28 (len 0 1)).setV 1 (row 8 [100])).setV 2 (row 8 [50]))) (elems 8 2 3)) =
      [some [0x96, 0], some [127, 0], some [0x13, 0]] := by decide +kernel
theorem test_vsra : after (exec (.vsraX ⟨1, 3, 9, 2, 0, 0, 0⟩)
    (base fun t => ((t.setX 28 (len 0 1)).setX 9 9).setV 2 (row 8 [50]))) (elems 8 1 3) = some [25] := by decide +kernel
/-- 05_vector R141: vfma.x of 2.0, 2^-149 and -2^-148 is +0 without a flag, of 2.0, +∞ and -∞ the canonical NaN with NV. -/
theorem test_vfma : after (exec (.vfmaX ⟨1, 6, 12, 7, 0, 0, 0⟩)
    (base fun t => (((t.setX 28 (len 10 1)).setX 12 0x40000000).setV 7 (row 32 [1])).setV 6 (row 32 [0x80000002])))
    (fun t => (elems 32 1 6 t, t.me.csrv 0)) = some ([0], 0) := by decide +kernel
theorem test_vfma_nan : after (exec (.vfmaX ⟨1, 6, 12, 7, 0, 0, 0⟩)
    (base fun t => (((t.setX 28 (len 10 1)).setX 12 0x40000000).setV 7 (row 32 [0x7F800000])).setV 6 (row 32 [0xFF800000])))
    (fun t => (elems 32 1 6 t, t.me.csrv 0)) = some ([0x7FC00000], 1) := by decide +kernel
/-- 05_vector R142. -/
theorem test_vfclass : after (exec (.vfclass ⟨1, 3, 2, 0, 0, 0⟩) (base fun t => (t.setX 28 (len 10 6)).setV 2
    (row 32 [0xC0400000, 0x80000000, 0x3F000000, 0x7FC00000, 0xFF800000, 1]))) (elems 32 6 3) =
      some [0x89, 0x83, 0x08, 0x20, 0x11, 0x04] := by decide +kernel
/-- 05_vector R144: F32 to E4M3, with NV, OF, UF and NX. -/
theorem test_vcvt : after (exec (.vcvt ⟨1, 8, 2, 2, 0, 0, 10⟩) (base fun t => ((t.setX 30 (len 12 5)).setV 2
    (row 32 [0x43E80000, 0x43F00000, 0x7F800000, 0x3A800000, 0x3AC00000])).setV 8 (row 8 [1, 2, 3, 4, 5, 6])))
    (fun t => (elems 8 6 8 t, t.me.csrv 0)) = some ([0x7E, 0x7E, 0x7E, 0x00, 0x01, 6], 0x1D) := by decide +kernel
/-- 05_vector, a cross-lane run: the state it starts from. -/
def lanes : State := base fun t => (((((t.setX 28 (len 2 6)).setX 6 2).setCsr 1 0xFFFFFFFFFFFFFFFF).setV 1
  (row 32 [25, 25, 25, 25, 25, 25])).setV 2 (row 32 [10, 20, 30, 40, 50, 60, 70, 80])).setV 5 (row 32 [5, 0, 7, 2, 6, 1])
def fill : Nat := 0xFFFFFFFF
theorem test_vsldn : after (exec (.vsldn ⟨1, 3, 6, 2, 0, 0⟩) lanes) (elems 32 7 3) = some [30, 40, 50, 60, fill, fill, 0] := by
  decide +kernel
theorem test_vgather : after (exec (.vgather ⟨1, 4, 5, 2, 0, 0⟩) lanes) (elems 32 6 4) = some [60, 10, fill, 30, fill, 20] := by
  decide +kernel
theorem test_vcmp : after (exec (.vcmpLt ⟨1, 1, 1, 2, 0, 0⟩) lanes) (fun t => t.me.mr 1) = some 0b111100 := by decide +kernel
theorem test_vcompress : after (exec (.vcompress ⟨1, 6, 2, 0, 1⟩) (lanes.withMe fun t => t.setM 1 0b111100)) (elems 32 7 6) =
    some [30, 40, 50, 60, fill, fill, 0] := by decide +kernel
theorem test_vredsum : after (exec (.vredsum ⟨1, 10, 2, 0, 1⟩) (lanes.withMe fun t => t.setM 1 0b111100))
    (fun t => t.me.xr 10) = some 180 := by decide +kernel
theorem test_mfirst : after (exec (.mfirst ⟨1, 11, 1, 0⟩) (lanes.withMe fun t => t.setM 1 0b111100))
    (fun t => t.me.xr 11) = some 2 := by decide +kernel
theorem test_msbf : after (exec (.msbf ⟨1, 2, 1, 0⟩) (lanes.withMe fun t => (t.setM 1 0b111100).setM 2 0b1000000))
    (fun t => t.me.mr 2) = some 0b1000011 := by decide +kernel
/-- 02_numbers R59, R60: 2^24, 1, 1, 1 summed in order and by the tree. -/
theorem test_sums : [Instr.vfsumo ⟨1, 10, 2, 0, 0⟩, .vfsumt ⟨1, 10, 2, 0, 0⟩].map (fun i =>
    after (exec i (base fun t => (t.setX 28 (len 10 4)).setV 2 (row 32 [0x4B800000, 0x3F800000, 0x3F800000, 0x3F800000])))
      (fun t => t.me.xr 10)) = [some 0x4B800000, some 0x4B800001] := by decide +kernel
/-- 06_memory_isa R167: three F6 codes from bit 3 of the stream. -/
theorem test_vlu_f6 : after (exec (.vlu ⟨1, 2, 10, 11, 0, 0, 0, 0, 0⟩) (formatted ((base fun t =>
    ((t.setX 28 (len 10 3)).setX 10 0x10005000).setX 11 3).writeGa 0x5000 3 (0x0C * 2 ^ 3 + 0x1F * 2 ^ 9 + 0x21 * 2 ^ 15))
    14 0 127)) (fun t => (elems 32 3 2 t, t.me.csrv 0)) = some ([0x3F800000, 0x41E00000, 0xBD800000], 0) := by decide +kernel
/-- 02_numbers R51-R54: a C4 code 5 through a codebook entry 1.5 with scale 2^-2, and 100.0 stored as E4M3 with scale 2^3. -/
theorem test_vlu_c4 : after (exec (.vlu ⟨1, 2, 10, 0, 0, 0, 0, 0, 0⟩) (formatted ((base fun t =>
    ((t.setX 28 (len 10 1)).setX 10 0x10005000).setCb 2 (BitVec.ofNat 256 (0x3FC0 * 2 ^ 80))).writeGa 0x5000 1 5)
    15 2 125)) (fun t => (elems 32 1 2 t, t.me.csrv 0)) = some ([0x3EC00000], 0) := by decide +kernel
theorem test_vsu_e4m3 : after (exec (.vsu ⟨1, 2, 10, 0, 0, 0, 0, 0, 0⟩) (formatted (base fun t =>
    ((t.setX 28 (len 10 1)).setX 10 0x10005000).setV 2 (row 32 [0x42C80000])) 12 0 130))
    (fun t => (t.readGa 0x5000 2, t.me.csrv 0)) = some (0x54, 0x10) := by decide +kernel
/-- 06_memory_isa R175: old values in index order. -/
theorem test_vamoa : after (exec (.vamoaAdd ⟨1, 3, 10, 4, 0, 0, 0, 1⟩) ((base fun t =>
    (((t.setX 28 (len 2 4)).setX 10 0x5000).setV 3 (row 32 [1, 1, 1, 1])).setV 4 (row 64 [0, 8, 0, 4])).writeGa 0x5000 12
      (10 + 20 * 2 ^ 32 + 30 * 2 ^ 64)))
    (fun t => (elems 32 4 3 t, t.readGa 0x5000 12)) = some ([10, 30, 11, 20], 12 + 21 * 2 ^ 32 + 31 * 2 ^ 64) := by
  decide +kernel

/-! #### 07_matrix_isa: the scan of its example, MVL = 2, window rows 0 to 15 at row 64 -/

def f32s (xs : List Nat) : Row := row 32 xs
/-- In matrix mode with the six accumulator rows and the carry given. -/
def scanning (rows : List (List Nat)) (sc : List (Nat × BitVec 64)) (g : Hart → Hart) : State :=
  rows.zipIdx.foldl (fun s r => s.setAcc r.2 ((row 32 r.1).setWidth 4096))
    (base fun t => g (({ t with matrix := some ⟨0, 2, 0, ⟨0, 0, [], 0, 0⟩, ⟨0, 0, [], 0, 0⟩, sc⟩ }.setCsr 0x014
      (64 + 16 * 2 ^ 16)).setX 28 (len 10 2)))
def one : Nat := 0x3F800000
def two : Nat := 0x40000000
def three : Nat := 0x40400000
def seven : Nat := 0x40E00000
/-- The columns of the first n window rows. -/
def columns (n : Nat) (t : State) : List (Nat × Nat) := (List.range n).map fun a => (t.cell a 0, t.cell a 1)
theorem test_macc_wr : after (exec (.maccWr ⟨1, 0, 0, 0, 2, 0⟩) (scanning [] [] fun t =>
    (((t.setV 0 (f32s [0x3F000000, two])).setV 1 (f32s [one, one])).setV 2 (f32s [two, 0])).setV 3 (f32s [three, seven])))
    (fun t => (columns 5 t, t.acc.map (·.1))) =
      some ([(0x3F000000, two), (one, one), (two, 0), (three, seven), (0, 0)], [64, 65, 66, 67]) := by decide +kernel
theorem test_mscan : after (exec (.mscan ⟨1, 0, 13, 1, 0, 0⟩) (scanning [[0x3F000000, two], [one, one], [two, 0], [three, seven],
    [0x3E800000, three], [0xC0000000, one]] [] fun t => t.setX 13 3))
    (fun t => (columns 6 t, (t.me.matrix.map fun m => (m.carry 0 0, m.carry 0 1)), t.me.csrv 0x012)) =
      some ([(0x3F000000, two), (one, one), (one, 0), (0x40A00000, seven), (0x3E800000, 0), (0xBF400000, 0x41B00000)],
        some ((0x3E800000, 0xBF400000), (0, 0x41B00000)), 0) := by decide +kernel
theorem test_mscanf : after (exec (.mscanf ⟨1, 0, 13, 1⟩) (scanning [[0x3F000000, two], [one, one], [one, 0],
    [0x40A00000, seven], [0x3E800000, 0], [0xBF400000, 0x41B00000]]
    [(128, BitVec.ofNat 64 (one + 0x40800000 * 2 ^ 32)), (129, BitVec.ofNat 64 (one + 0x40A00000 * 2 ^ 32))]
    fun t => t.setX 13 3)) (columns 6) =
      some [(0x3F000000, two), (three, 0x41300000), (one, 0), (0x41100000, seven), (0x3E800000, 0), (0x3E800000, 0x41B00000)] := by
  decide +kernel
theorem test_macc_scrd : after (exec (.maccScrd ⟨1, 4, 0, 0⟩) (scanning [] [(0, BitVec.ofNat 64 (0x3E800000 + 0xBF400000 * 2 ^ 32)),
    (1, BitVec.ofNat 64 (0x41B00000 * 2 ^ 32))] fun t => t.setX 28 (len 12 2))) (elems 8 2 5) = some [0xB4, 0x5B] := by
  decide +kernel
/-- 02_numbers R61: 2^15, 1, -2^15 by 2^15, 1, 2^15 onto 0.5 is 1.5. -/
theorem test_mstr : after (exec (.mstr ⟨1, 0, 0, 0, 0, 0, 0, 0⟩) ((scanning [[0x3F000000]] [] fun t =>
    { (t.setX 28 (len 9 3)).setV 0 (row 16 [0x4700, 0x3F80, 0xC700]) with
      matrix := some ⟨0, 1, 0, ⟨3, 9, [(0, 0x4700), (128, 0x3F80), (256, 0x4700)], 0, 0⟩, ⟨0, 0, [], 0, 0⟩, []⟩ })))
    (fun t => (t.cell 0 0, t.me.csrv 0)) = some (0x3FC00000, 0) := by decide +kernel

/-! #### Other examples -/

/-- 09_address R232, R233: die 3 dead, GROUPS = 2^16: the home of a kind-1 byte, and its channel-direct name. -/
theorem test_home : ((fun (s : State) => (s.canon 0x0018040001234567, s.canon 0x0018B015DC00A567))
    { State.reset with chip := 12, live := 0xF7, groups := 0x10000 }) = (0x0018A03700294567, 0x0018A03700294567) := by
  decide +kernel
/-- 14_regions R301: the division of 8 clusters among three harts. -/
theorem test_divide : (divide [⟨0, 7, 24, 4, 0⟩, ⟨1, 7, 24, 4, 0⟩, ⟨2, 7, 8, 8, 0⟩] 16 8).map (fun c => (c.slot, c.got)) =
    [(0, 4), (1, 2), (2, 2)] := by decide +kernel
/-- 04_scalar R103, R104: JAL and a branch go to their targets. -/
theorem test_branch : after (exec (.beq ⟨10, 0, 4⟩) (base id)) (fun t => t.me.pc) = some 0x4010 ∧
    after (exec (.jal ⟨1, 0xFFFFF⟩) (base id)) (fun t => (t.me.pc, t.me.xr 1)) = some (0x3FFC, 0x4004) := by decide +kernel
/-- 06_memory_isa: stw and ldws of the stored word. -/
theorem test_stw : after (exec (.stw ⟨10, 3, 8⟩) (base fun t => (t.setX 3 0x5000).setX 10 0x80000001))
    (fun t => t.readGa 0x5008 8) = some 0x80000001 := by decide +kernel
theorem test_ldws : after (exec (.ldws ⟨10, 3, 8⟩) ((base fun t => t.setX 3 0x5000).writeGa 0x5008 4 0x80000001))
    (fun t => t.me.xr 10) = some 0xFFFFFFFF80000001 := by decide +kernel
/-- 03_encoding R69, R75: a step fetches the word at the pc and runs it. -/
theorem test_step : after (step (State.reset.withFetchWord 32 0x02500007)) (fun t => (t.me.xr 5, t.me.pc)) = some (7, 0x4004) := by
  decide +kernel
theorem test_step_reserved : after (step (State.reset.withFetchWord 32 0)) (fun t => (t.me.csrv 0x102, t.me.csrv 0x101, t.me.run)) =
    some (0x01, 0x4000, .stopped 0x01 false) := by decide +kernel

/-! ### Witnesses: states and operands that meet the hypotheses of the statements, clause by clause -/

theorem witness_JumpsAligned : ((base fun t => t.setX 1 0x5002).me.xr 1 + BitVec.ofInt 64 (2 : BitVec 15).toInt).toNat % 4 = 0 ∧
    ((base fun t => t.setX 1 0x5002).me.xr 1 + BitVec.ofInt 64 (1 : BitVec 15).toInt).toNat % 4 ≠ 0 := by decide +kernel
/-- The last eight bytes of the page; and a blocking vector memory instruction in the queue. -/
theorem witness_LoadsReadMemory : Plain (base fun t => t.setX 1 0x10000000) .rd
    ((base fun t => t.setX 1 0x10000000).me.xr 1 + BitVec.ofInt 64 (0xFF8 : BitVec 12).toInt) 8 (gaRange 0xFFFFFF8 8) ∧
    (base id).me.vectorMemory = false ∧
    (base fun t => { t with queue := [⟨true, 0xC0050000, 0x3FF8, 0, 0, 0, 0, 0, 0, 0, false, false, false, 0, wholeStop, 0,
      none, none, none⟩] }).me.vectorMemory = true := by
  unfold Plain; decide +kernel
theorem witness_LoadsReadMemory_literal : Plain (base id) .literal ((base id).me.pc -
    BitVec.ofNat 64 ((base id).me.pc.toNat % 8) + BitVec.ofInt 64 (8 * (1 : BitVec 20).toInt)) 8 (gaRange 0x4008 8) := by
  unfold Plain; decide +kernel
/-- Hart 0 with a page of 4 KiB at virtual 4,096 over the given memory; device 5 is present and in its partition map. -/
def pageOver (ga : Nat) (g : Hart → Hart) : State :=
  { (base fun t => g (t.setCsr 0x10B 0x7000)).writeGa 0x7000 1 0x20 with
    tlb := [⟨0, 0, 0x1000, 1, BitVec.ofNat 128 (leafEntry ga), 12⟩]
    present := [0, 5] }
/-- The same with the answer of an access to the last word that is under way. -/
def answered (update : Bool) : State := pageOver (5 * 2 ^ 49) fun t => { t with
  access := some ((gaRange (5 * 2 ^ 49 + 0xFF8) 8).map fun a => ⟨a, false⟩)
  asks := [⟨0, 9, 5, 5 * 2 ^ 49 + 0xFF8, 8, update, false, some (natBytes 8 7)⟩] }
/-- Nothing holds a scalar access back; a blocking vector access does, and records behind a full window. -/
def windowFull : State := (base id).setConn 5 { Conn.reset with
  unacked := List.replicate 512 (false, ⟨none, 0, 0x88B5, 0, 0, [], true, []⟩)
  waiting := [⟨0, false, 0, ⟨0, 0, 0x02, 8, 0, true, 9, 0, natBytes 8 7, none⟩⟩] }
theorem witness_Unhindered : Unhindered (base id) ∧ (base id).me.access = none ∧ windowFull.portHeld windowFull.cur = true := by
  unfold Unhindered; decide +kernel
/-- An aligned access, in need of each kind, of the last word of a page of device 5, and its answer when it has come. -/
theorem witness_FarAccesses : (fun (s : State) => [Need.rd, .wr, .both].all (fun n => decide
      (s.checkRange (s.party s.cur) n false 0x1FF8 8 = .ok ((gaRange (5 * 2 ^ 49 + 0xFF8) 8).map fun a => ⟨a, false⟩))) = true ∧
    s.farDev (5 * 2 ^ 49 + 0xFF8) = some 5 ∧ s.peerFailed 5 = false ∧ gaKind (5 * 2 ^ 49 + 0xFF8) ≠ 3 ∧
    s.farRuns (gaRange (5 * 2 ^ 49 + 0xFF8) 8) = [(5 * 2 ^ 49 + 0xFF8, 8)] ∧ s.me.asks = [] ∧ s.me.tracked = [] ∧
    s.me.vectorMemory = false ∧ (∀ a ∈ gaRange (5 * 2 ^ 49 + 0xFF8) 8, (s.farDev a).isSome = true ∧ gaKind a ≠ 3 ∧
      s.poisoned a = false ∧ s.failedHome a = none)) (pageOver (5 * 2 ^ 49) id) ∧
    [true, false].all (fun u => decide ((answered u).me.access = some ((gaRange (5 * 2 ^ 49 + 0xFF8) 8).map fun a => ⟨a, false⟩) ∧
      (answered u).me.asks = [⟨0, 9, 5, 5 * 2 ^ 49 + 0xFF8, 8, u, false, some (natBytes 8 7)⟩])) = true := by decide +kernel
theorem witness_StoresWriteOnlyTheirBytes : Plain (base fun t => t.setX 1 0x10000000) .wr
    ((base fun t => t.setX 1 0x10000000).me.xr 1 + BitVec.ofInt 64 (0x1FFF : BitVec 13).toInt) 1 [0xFFFFFFF] := by
  unfold Plain; decide +kernel
theorem witness_AtomicsUpdateOneWord : ((base fun t => t.setX 1 0xFFFFFF8).me.xr 1).toNat % 8 = 0 ∧
    Plain (base fun t => t.setX 1 0xFFFFFF8) .both ((base fun t => t.setX 1 0xFFFFFF8).me.xr 1) 8 (gaRange 0xFFFFFF8 8) := by
  unfold Plain; decide +kernel
theorem witness_AtomicsUpdateOneWord_narrow : ((base fun t => t.setX 1 0xFFFFFFC).me.xr 1).toNat % 4 = 0 ∧
    Plain (base fun t => t.setX 1 0xFFFFFFC) .both ((base fun t => t.setX 1 0xFFFFFFC).me.xr 1) 4 (gaRange 0xFFFFFFC 4) := by
  unfold Plain; decide +kernel
/-- One byte beyond the page. -/
theorem witness_ScalarAccessFaultsTrap : [Need.rd, .wr, .both].all (fun n =>
    decide ((base id).checkRange ((base id).party 0) n false 0xFFFFFFC 8 = .error (.trap 0x08 0x10000000))) = true := by
  decide +kernel
/-- An entry of the page table on a poisoned line. -/
theorem witness_ScalarAccessFaultsTrap_walk : { base id with tlb := [], poison := [0x1000 / 64] }.checkRange ((base id).party 0)
    .rd false 0x5000 8 = .error (.poison 0x1000 0x5000) := by decide +kernel
/-- Register space of die 0; a misaligned address; and a poisoned line. -/
theorem witness_ScalarAccessFaultsTrap_registers : [Need.rd, .wr, .both].all (fun n => decide
    ((pageOver (3 * 2 ^ 42) id).checkRange ((pageOver (3 * 2 ^ 42) id).party 0) n false 0x1FF8 8 =
      .ok ((gaRange (3 * 2 ^ 42 + 0xFF8) 8).map fun a => ⟨a, false⟩))) = true ∧
    (∃ l ∈ (gaRange (3 * 2 ^ 42 + 0xFF8) 8).map (fun a => (⟨a, false⟩ : Loc)), gaHost l.ga = false ∧ gaKind l.ga = 3) ∧
    gaKind (3 * 2 ^ 42 + 0xFF8) = 3 ∧ gaChip (3 * 2 ^ 42 + 0xFF8) = (base id).chip := by
  decide +kernel
theorem witness_ScalarAccessFaultsTrap_misaligned : (base id).checkRange ((base id).party 0) .both false 0x5001 8 =
    .ok ((gaRange 0x5001 8).map fun a => ⟨a, false⟩) ∧
    (∀ l ∈ (gaRange 0x5001 8).map (fun a => (⟨a, false⟩ : Loc)), gaHost l.ga = true ∨ gaKind l.ga ≠ 3) ∧
    (0x5001 : Word).toNat % 8 ≠ 0 ∧ { base id with poison := [0x5000 / 64] }.eccByte 0x5000
      ((gaRange 0x5000 8).map fun a => ⟨a, false⟩) = some 0x5000 := by decide +kernel
theorem witness_CsrInstructionsReadAndWrite : [0x000, 0x001, 0x012, 0x104, 0x107, 0x108, 0x109, 0x10B].all (fun n => [Instr.csrw ⟨3, 4, n⟩,
    .csrs ⟨3, 4, n⟩, .csrc ⟨3, 4, n⟩].all fun i => decide ((base id).csrCheck n.toNat (wordOf i) (some 0) = none)) = true ∧
    [0x000, 0x00C, 0x011, 0x012, 0x10B].all (fun n => decide ((base id).csrCheck n.toNat (wordOf (.csrr ⟨3, n⟩)) none = none)) =
      true ∧ (base id).me.drained = true ∧ (base id).me.worked = true ∧ (base id).me.matrixBusy = false := by decide +kernel
/-- A member undone, of the vector side and of the matrix side. -/
def undoneMember (w : IWord) : QEntry := ⟨true, w, 0x3FF8, 0, 0, 0, 0, 0, 0, 0, false, false, false, 0, wholeStop, 0, none, none, none⟩
theorem witness_CsrInstructions_wait : (base fun t => { t with queue := [undoneMember 0xA0000000] }).me.drained = false ∧
    (base fun t => { t with queue := [undoneMember 0xA0000000] }).me.worked = false ∧
    (base fun t => { t with queue := [undoneMember 0x64000000] }).me.matrixBusy = true := by decide +kernel
/-- A write of TENANT's world bit by a non-secure hart, and values against the rules of PEERBM, VQIMG and ACCWIN. -/
theorem witness_CsrValueTraps : ((base id).me.priv = .supervisor ∧ (base fun t => t.setX 4 0x10000).me.secure = false ∧
      ((base fun t => t.setX 4 0x10000).me.xr 4).getLsbD 16 = true) ∧
    (base id).ownRange [0, 1, 2, 4] (3 * 2 ^ 42) 2048 = false ∧ (0x6001 : Word).toNat % 4096 ≠ 0 ∧
    (fun (s : State) => s.ownRange [0, 1, 2, 4] 0x6000 2048 = true ∧ s.ownRange [0, 1, 4] 0x6000 2112 = true ∧
      s.me.secure = false ∧ s.touchesSecure 0x6000 2048 = true ∧ s.touchesSecure 0x6000 2112 = true)
      { base id with secure := [0] } ∧
    1536 < ((0x6000001 : Word).extractLsb' 0 11).toNat + ((0x6000001 : Word).extractLsb' 16 11).toNat := by decide +kernel
theorem witness_CsrPrivilegeTraps : csrListed 0xFFF = false ∧ (base fun t => { t with priv := .user }).me.priv = .user := by
  decide +kernel
/-- Back to this world with no image and with one that is not valid; to the other with work queued; and to this one with an image
of one member, with and without room in the queue. -/
def imaged (n : Nat) : State := ((base fun t => { (t.setCsr 0x104 0x10).setCsr 0x105 0x6000 with
    queue := List.replicate n (undoneMember 0xA0000000) }).writeGa 0x6000 8 257).writeGa 0x6040 8 0xA0000000
theorem witness_TretRestoresTheInterruptedState : ((base id).me.priv = .supervisor ∧ (base id).me.vrf = false ∧
      ((base id).me.csrv 0x104).getLsbD 3 = (base id).me.secure) ∧
    (fun (s : State) => s.me.vrf = true ∧ (s.me.csrv 0x104).getLsbD 3 = s.me.secure ∧ (s.withMe Hart.closeConvoy).reissued = none)
      ((base fun t => (t.setCsr 0x104 0x10).setCsr 0x105 0x6000).writeGa 0x6000 8 33) ∧
    (fun (s : State) => (s.me.csrv 0x104).getLsbD 3 ≠ s.me.secure ∧ s.me.secure = true ∧ s.me.worked = false)
      (base fun t => { t.setCsr 0x107 0x10000 with queue := [undoneMember 0xA0000000] }) ∧
    ((((imaged 0).withMe Hart.closeConvoy).reissued).map List.length = some 1 ∧
      (((imaged 32).withMe Hart.closeConvoy).reissued).map List.length = some 1) := by decide +kernel
theorem witness_PrivilegedInstructionsTrap : ((base fun t => t.setCsr 0x104 0x08).me.priv = .supervisor ∧
    ((base fun t => t.setCsr 0x104 0x08).me.csrv 0x104).getLsbD 3 = true ∧ (base fun t => t.setCsr 0x104 0x08).me.secure = false) ∧
    ((base fun t => t.setX 3 16).me.xr 3).toNat / 16 ≠ 0 ∧ ((base fun t => t.setX 3 15).me.xr 3).toNat / 16 = 0 ∧
    ((base fun t => t.setX 4 4095).me.xr 4).toNat % 4096 ≠ 0 ∧ ((base id).hart 7).run = .free ∧
    (fun (s : State) => (s.hart 7).run = .held ∧ ((s.hart 7).csrv 0x107).toNat % 2 ^ 16 ≠ (s.me.csrv 0x107).toNat % 2 ^ 16)
      ((base id).setHart 7 { (base fun t => t.setCsr 0x107 5).me with run := .held }) ∧
    (fun (s : State) => (s.hart 7).run = .held ∧ (s.hart 7).secure = true ∧ s.me.secure = false)
      ((base id).setHart 7 { (base fun t => t.setCsr 0x107 0x10000).me with run := .held }) := by decide +kernel
theorem witness_HintsAndFencesOnlyAdvance : (base id).me.drained = true ∧ (base id).me.tracked = [] ∧
    (base id).me.priv = .supervisor ∧ (base fun t => { t with engFault := true }).me.engFault = true ∧
    (base fun t => { t with collFault := true }).me.collFault = true := by decide +kernel
/-- A pending share that can be adopted, and one that lacks clusters. -/
theorem witness_SetvlGivesALengthWord : (base id).me.pending = none ∧ (base fun t => { t with pending := some 4 }).me.drained = true ∧
    (base fun t => { t with pending := some 4 }).me.worked = true ∧
    ((base fun t => { t with pending := some 4 }).adoptShare 0 32).isSome = true ∧
    (fun (s : State) => s.adoptShare 0 32 = none ∧ s.me.pending.isSome = true)
      ((base fun t => { t with map := 1, pending := some 2 }).setHart 1 { (base id).me with map := 0xFE }) := by
  refine ⟨by decide +kernel, by decide +kernel, by decide +kernel, ?_, by decide +kernel⟩
  have a : popCount 8 ((base fun t => { t with pending := some 4 }).freeClusters (coreOf 0)).toNat = 0 := by decide +kernel
  have b : popCount 8 (((base fun t => { t with pending := some 4 }).hart 0).map &&&
      ~~~ (base fun t => { t with pending := some 4 }).retired (coreOf 0)).toNat = 8 := by decide +kernel
  have p : ((base fun t => { t with pending := some 4 }).hart 0).pending = some 4 := by decide +kernel
  simp only [State.adoptShare, p, a, b]
  rfl
/-- Member 0 of a family of two whose sibling has merged, and member 1 beside its parent. -/
def parent : State := base fun t => { t with map := 0x55, family := some ⟨0, 2, 1, 0xFF, [(1, [])]⟩ }
def child : State := (base fun t => { t with map := 0xAA, family := some ⟨1, 2, 1, 0xFF, []⟩ }).setHart 1
  { parent.me with family := some ⟨0, 2, 1, 0xFF, []⟩ }
theorem witness_ForkAndMergeOfASingleHart : (fun (s : State) => s.me.drained = true ∧ s.me.worked = true ∧
      s.adoptShare 0 64 = some s ∧ s.me.k < 2) (base fun t => { t with map := 1 }) ∧ (base id).me.family = none ∧
    (base fun t => { t with map := 7 }).me.k < 4 ∧ (base id).me.matrix = none ∧
    (parent.me.family = some ⟨0, 2, 1, 0xFF, [(1, [])]⟩ ∧ parent.me.drained = true ∧ parent.me.worked = true) ∧
    child.me.family = some ⟨1, 2, 1, 0xFF, []⟩ ∧ child.me.region = none ∧ child.me.ctxs = [] ∧ child.me.tracked = [] ∧
    ((child.kin child.cur).find? fun h => (child.hart h).family.any fun x => x.index = 0) = some 1 ∧
    (child.hart 1).family = some ⟨0, 2, 1, 0xFF, []⟩ ∧ child.me.drained = true ∧ child.me.worked = true := by decide +kernel
/-- With as many clusters as ways and as many free slots as children. -/
theorem witness_ForkSplitsAHart : (fun (s : State) => s.me.drained = true ∧ s.me.worked = true ∧ s.adoptShare 0 64 = some s ∧
    s.me.region = none ∧ s.me.family = none ∧ s.me.matrix = none ∧ 4 ≤ s.me.k ∧ s.me.run = .running ∧
    ((s.freeSlots (coreOf s.cur)).take 3).length = 3) (((((base fun t => { t with map := 0xF }).setHart 1 (base id).me).setHart 2
      (base id).me).setHart 3 (base id).me).setHart 4 (base id).me) := by decide +kernel
theorem witness_EndFreesTheSlot : (fun (s : State) => s.me.drained = true ∧ s.me.worked = true ∧ s.me.family = none ∧
      s.me.region = none ∧ s.me.ctxsSettled = true ∧ s.me.matrix = none ∧ s.me.sealing = [] ∧ s.me.tracked = [] ∧
      s.me.inherited = [] ∧ s.me.nb = [] ∧ ∀ e ∈ s.me.unsealed, e.1 < 14) (base fun t => { t with unsealed := [(13, 2)] }) ∧
    (base fun t => t.setCtxSlot 7 { CtxSlot.empty with bound := true, issued := 1 }).me.ctxsSettled = false ∧
    child.me.ctxsSettled = true ∧ parent.me.ctxsSettled = true := by decide +kernel
theorem witness_ShareRecordsADemand : (3 ∉ [0, 1, 2, 4, 8] ∧ parent.me.family.isSome = true) ∧ (base id).me.family = none ∧
    (base id).me.region = none ∧ 8 ∈ [0, 1, 2, 4, 8] ∧ 8 ≤ (base id).me.k ∧ (base fun t => { t with map := 1 }).me.k < 8 ∧
    (base id).me.shrinking = false ∧ (base fun t => { t with limit := some 2 }).me.limit = some 2 := by
  decide +kernel
/-- A second page of 2^28 bytes at virtual 2^28, over the same memory, cached for hart 0; what its checks find there. -/
def paged (s : State) : State := { s with tlb := [⟨0, 0, 0x1000, 1, BitVec.ofNat 128 (leafEntry 0), 28⟩] }
def thePage : Page := ⟨BitVec.ofNat 128 (leafEntry 0), 28⟩
def party0 : Party := ⟨0, 0, 0x1000, 0, false⟩
/-- Die 0 is in service and nothing is set apart. -/
abbrev Open0 (s : State) : Prop :=
  (s.die 0).out = false ∧ s.zeroing = [] ∧ s.secure = [] ∧ s.chip = 0 ∧ s.strict = [] ∧ s.poison = []
theorem paged_checkByte (s : State) (need : Need) (va : Word) (e : Open0 s) (l : 2 ^ 28 ≤ va.toNat) (h : va.toNat < 2 ^ 29) :
    (paged s).checkByte party0 need false va = .ok thePage := by
  obtain ⟨e1, e2, e3, e4, e5, -⟩ := e
  have lk : (paged s).lookup 0 0 0x1000 va.toNat = some thePage := by
    have q : 1 = va.toNat / 268435456 := by omega
    simp [State.lookup, paged, thePage, ← q]
  have ga : thePage.ga va.toNat = va.toNat - 2 ^ 28 := by
    simp only [Page.ga, thePage]
    have : (BitVec.extractLsb' 64 52 (BitVec.ofNat 128 (leafEntry 0))).toNat = 0 := by decide
    rw [this]; omega
  have hl : va.toNat - 2 ^ 28 < 2 ^ 28 := by omega
  generalize hn : va.toNat - 2 ^ 28 = n at ga hl
  have h1 : gaHost n = false := Nat.testBit_lt_two_pow (by omega)
  have h2 : gaKind n = 0 := by simp only [gaKind]; omega
  have h3 : gaChip n = 0 := by simp only [gaChip]; omega
  have h4 : (paged s).canon n = n := by simp [State.canon, h1, h2]
  have h5 : gaDie n = 0 := by simp only [gaDie]; omega
  have f0 : thePage.fmt = 0 := by decide
  have f1 : ∀ n, thePage.grants n = true := by intro n; cases n <;> decide
  have f2 : thePage.rwin = false := by decide
  have f3 : thePage.sw = false := by decide
  have f4 : (paged s).strictForeign party0 thePage n = false := by simp [State.strictForeign, paged, e5]
  have wm : (paged s).walkMeets party0 va = none := by
    have q : 1 = va.toNat / 268435456 := by omega
    simp [State.walkMeets, paged, party0, ← q]
  have f5 : (paged s).mustWait n = false := by
    simp only [State.mustWait, State.homeDie, h4, h5]
    simp only [paged, e2, h1, h3, e4]
    simp only [State.die] at e1
    simp [e1]
  have big : va.toNat < 2 ^ 52 := by omega
  have pg : (paged s).pageOf party0 va = some thePage := by
    simp only [State.pageOf, if_pos big]; exact lk
  have lf : (paged s).locFault party0 need false thePage n = none := by
    simp only [State.locFault, h1, h2, h3, f1, f2, f3, f4]
    simp [paged, party0, e3, e4]
  simp only [State.checkByte, wm, pg, ga, lf, f5]
  rfl

theorem paged_eccByte (s : State) (va : Word) (locs : List Loc) (e : Open0 s) : (paged s).eccByte va locs = none := by
  simp [State.eccByte, State.poisoned, paged, e.2.2.2.2.2, List.findIdx?_eq_none_iff]
theorem paged_checkRange (s : State) (need : Need) (va : Word) (n : Nat) (e : Open0 s) (l : 2 ^ 28 ≤ va.toNat)
    (h : va.toNat + n ≤ 2 ^ 29) : (paged s).checkRange party0 need false va n =
      .ok ((List.range n).map fun i => ⟨(va.toNat + i) % 2 ^ 28, false⟩) := by
  rw [State.checkRange_page (by decide) (fun v a b => paged_checkByte s need v e a b) va n l h]
  congr 1
  apply List.map_congr_left
  intro i hi
  have hi := List.mem_range.mp hi
  have e : (va + BitVec.ofNat 64 i).toNat = va.toNat + i := by
    rw [BitVec.toNat_add, BitVec.toNat_ofNat]; omega
  have p : (BitVec.extractLsb' 64 52 (BitVec.ofNat 128 (leafEntry 0))).toNat = 0 := by decide
  have r : thePage.rwin = false := by decide
  simp only [State.locOf, Page.ga, r, e, Bool.false_and]
  simp only [thePage, p]
  rw [Nat.zero_mul, Nat.zero_add]
/-- A locket of such memory passes every check. -/
theorem paged_locketRange (s : State) (need : Need) (va : Word) (n : Nat) (e : Open0 s) (q : s.party s.cur = party0)
    (l : 2 ^ 28 ≤ va.toNat) (h : va.toNat + n ≤ 2 ^ 29) : (paged s).locketRange need va n =
      .ok ((List.range n).map fun i => ⟨(va.toNat + i) % 2 ^ 28, false⟩) := by
  have q : (paged s).party (paged s).cur = party0 := q
  rw [State.locketRange, q, paged_checkRange s need va n e l h]
  dsimp only
  rw [List.findIdx?_eq_none_iff.mpr]
  intro x m
  obtain ⟨i, -, rfl⟩ := List.mem_map.mp m
  have b : (va.toNat + i) % 2 ^ 28 < 2 ^ 28 := Nat.mod_lt _ (by decide)
  generalize (va.toNat + i) % 2 ^ 28 = n at b
  have h1 : gaHost n = false := Nat.testBit_lt_two_pow (by omega)
  have h2 : gaKind n = 0 := by simp only [gaKind]; omega
  have h3 : gaChip n = 0 := by simp only [gaChip]; omega
  simp [h1, h2, h3, paged, e.2.2.2.1]
/-- Hart 7 of the core is held, or runs, beside hart 0. -/
def beside (run : Run) : State := (base fun t => (t.setX 3 7).setX 4 0x10100000).setHart 7 { (base id).me with run := run }
theorem witness_HeldHartsAreSavedAndReleased : (fun (s : State) => coreOf s.cur * 8 + (s.me.xr 3).toNat % 8 = 7 ∧ 7 ≠ s.cur ∧
    s.me.priv = .supervisor ∧ s.me.run ≠ .held ∧ (s.me.xr 3).toNat / 16 = 0 ∧ (s.hart 7).run = .held ∧ s.foreign 7 = false ∧
    (s.me.xr 3).getLsbD 3 = false) (beside .held) ∧
    (((beside .held).withMe fun t => t.setX 3 15).me.xr 3).getLsbD 3 = true ∧ ((beside .held).hart 7).region = none := by
  decide +kernel
theorem witness_HeldHartsAreSaved : [Run.running, .held].all (fun r => decide (((paged (beside r)).hart 7).run = r ∧
      ((paged (beside r)).me.xr 4).toNat % 4096 = 0 ∧ (paged (beside r)).foreign 7 = false)) = true ∧
    ∀ r ∈ [Run.running, .held], ∃ locs : List Loc, (paged (beside r)).locketRange .wr ((paged (beside r)).me.xr 4)
      (locketSize ((paged (beside r)).hart 7).accRows) = .ok locs ∧ (paged (beside r)).eccByte ((paged (beside r)).me.xr 4) locs = none := by
  refine ⟨by decide +kernel, fun r m => ?_⟩
  have o : Open0 (beside r) := by revert r; decide +kernel
  have q : (beside r).party (beside r).cur = party0 := by revert r; decide +kernel
  have x : (paged (beside r)).me.xr 4 = 0x10100000 := by revert r; decide +kernel
  have n : locketSize ((paged (beside r)).hart 7).accRows = 0x35000 := by revert r; decide +kernel
  rw [x, n]
  exact ⟨_, paged_locketRange (beside r) .wr 0x10100000 0x35000 o q (by decide) (by decide), paged_eccByte _ _ _ o⟩
theorem witness_HeldHartsAreSaved_refused : (beside .held).locketRange .wr 0x10100000 1 = .error (.trap 0x08 0x10100000) := by
  decide +kernel
/-- Records sealed within the package; a load outstanding; and records to another device and to the host. -/
theorem witness_PhasesCompleteWhenSealed : (fun (s : State) => s.me.drained = true ∧ s.me.acquired = true ∧ s.me.tracked = [] ∧
      s.me.sealing = [] ∧ s.me.inherited = [] ∧ ∀ e ∈ s.me.unsealed, e.1 < 14) (base fun t => { t with unsealed := [(13, 2)] }) ∧
    (fun (s : State) => (((s.withMe Hart.closeConvoy).drainNb s.cur).me.acquired = false))
      (base fun t => { t with nb := [⟨1, 1, [], [], 0, false, [⟨3, 9, 5, 0, 8, false, false, none⟩], [], [], false, 0⟩] }) ∧
    [14, 15, 21].all (fun c => decide (((base fun t => { t with unsealed := [(c, 2)] }).me.unsealed = [(c, 2)]))) = true ∧
    5 ≠ (base id).chip ∧ (base id).peerFailed 5 = false := by decide +kernel
/-- Hart 0 with a page over its own scratchpad. -/
def spad (g : Hart → Hart) : State :=
  { base g with tlb := [⟨0, 0, 0x1000, 1, BitVec.ofNat 128 (leafEntry (2 * 2 ^ 42)), 12⟩] }
theorem witness_WaitsEnd_counters : ((base id).me.xr 0).toNat ≤ ((base id).me.ctr 7).retired.toNat ∧
    ((base id).me.ctxSlot 0).bound = false ∧ (fun (s : State) => ((s.me.ctxSlot 7).bound = true ∧
      ((s.me.xr 3).extractLsb' 0 63).setWidth 64 = (5 : Word) ∧ (5 : Word).toNat ≤ (s.me.ctxSlot 7).completed.toNat))
      (base fun t => (t.setX 3 5).setCtxSlot 7 { CtxSlot.empty with bound := true, completed := 5 }) ∧
    (fun (s : State) => ((s.me.ctxSlot 7).bound = true ∧ (s.me.ctxSlot 7).faulted = true ∧
      (s.me.ctxSlot 7).completed.toNat < 5)) (base fun t => t.setCtxSlot 7 { CtxSlot.empty with bound := true, faulted := true }) := by
  decide +kernel
theorem witness_WaitsEnd_clasp : [0, 1].all (fun e => (fun (s : State) => decide (s.checkOnce .rd false (s.me.xr 3) 16 =
      .ok ((gaRange (2 * 2 ^ 42) 16).map fun a => ⟨a, false⟩) ∧
    (∀ a ∈ gaRange (2 * 2 ^ 42) 16, s.inOwnSpad ⟨a, false⟩ = true ∧ s.poisoned a = false) ∧ (s.me.xr 3).toNat % 16 = 0 ∧
    (s.readAt (gaRange (2 * 2 ^ 42) 16)).testBit 96 = decide (e = 1) ∧
    0 ≤ (BitVec.ofNat 32 (s.readAt (gaRange (2 * 2 ^ 42) 16) / 2 ^ 64) - (s.me.xr 0).setWidth 32).toInt))
    ((spad fun t => t.setX 3 0x1000).writeGa (2 * 2 ^ 42 + 12) 4 e)) = true := by decide +kernel
theorem witness_WaitsEnd_word : (fun (s : State) => s.checkOnce .rd false (s.me.xr 3) 8 =
      .ok ((gaRange 0x5000 8).map fun a => ⟨a, false⟩) ∧
    (∀ a ∈ gaRange 0x5000 8, gaKind a ≠ 3 ∧ s.poisoned a = false ∧ s.farDev a = none) ∧ (s.me.xr 3).toNat % 8 = 0 ∧
    BitVec.ofNat 64 (s.readAt (gaRange 0x5000 8)) = s.me.xr 0 ∧ BitVec.ofNat 64 (s.readAt (gaRange 0x5000 8)) ≠ s.me.xr 4 ∧
    (BitVec.ofNat 64 (s.readAt (gaRange 0x5000 8))).toNat < (s.me.xr 4).toNat ∧ s.me.wait.bind (·.seen) = none)
      (base fun t => (t.setX 3 0x5000).setX 4 1) ∧
    (fun (s : State) => s.checkOnce .rd false (s.me.xr 3) 8 = .ok ((gaRange (5 * 2 ^ 49) 8).map fun a => ⟨a, false⟩) ∧
      (∀ a ∈ gaRange (5 * 2 ^ 49) 8, gaKind a ≠ 3 ∧ s.poisoned a = false ∧ s.farDev a = some 5) ∧ s.peerFailed 5 = false ∧
      s.farRuns (gaRange (5 * 2 ^ 49) 8) = [(5 * 2 ^ 49, 8)] ∧ s.me.asks = [] ∧ s.me.tracked = [] ∧ s.expired = false)
      (pageOver (5 * 2 ^ 49) fun t => t.setX 3 0x1000) := by
  decide +kernel
theorem witness_WaitsEnd_seen : (base fun t => { t with wait := some ⟨.waitwEq ⟨3, 4, 5⟩, 0, some 7, 0, 0⟩ }).me.wait =
    some ⟨.waitwEq ⟨3, 4, 5⟩, 0, some 7, 0, 0⟩ ∧ (pageOver (5 * 2 ^ 49) fun t => { t with
      asks := [⟨4, 9, 5, 5 * 2 ^ 49, 8, false, false, some (natBytes 8 7)⟩] }).me.asks.length = 1 := by decide +kernel
theorem witness_WaitsEnd_deadline : (fun (s : State) => (s.me.ctr 7).retired.toNat < (s.me.xr 3).toNat ∧ s.me.waitDeadline = 0)
      (base fun t => t.setX 3 1) ∧
    (fun (s : State) => s.me.waitDeadline ≠ 0 ∧ s.me.waitDeadline.toNat ≤ (s.die (slotDie s.cur)).ptime.toNat)
      ((base fun t => t.setCsr 0x013 4).setDie 0 { Die.reset with ptime := 4 }) ∧
    (fun (s : State) => (s.die (slotDie s.cur)).ptime.toNat < s.me.waitDeadline.toNat)
      ((base fun t => t.setCsr 0x013 4).setDie 0 { Die.reset with ptime := 3 }) := by decide +kernel
theorem witness_TimeWindowsAndCounters : ((base id).me.ctr 1).retired = ((base id).me.ctr 1).issued ∧
    ((base fun t => { t with cc := [(1, ⟨2, 1⟩)] }).me.ctr 1).retired ≠ ((base fun t => { t with cc := [(1, ⟨2, 1⟩)] }).me.ctr 1).issued ∧
    (base id).me.drained = true ∧ (base id).me.xr 0 = 0 := by decide +kernel
/-- A queue of depth 2 and items of 16 bytes of live region 1, its header at 0x5000, its ring at 0x6000, with head 1 and the tail
and flags given. -/
def queued (tail flags : Nat) : State :=
  { (base fun t => (t.setX 3 0x5000).setX 4 0x7000).writeGa 0x5000 32
      (1 + tail * 2 ^ 32 + 2 * 2 ^ 64 + 16 * 2 ^ 80 + 0x6000 * 2 ^ 128 + flags * 2 ^ 192) with
    headers := [0x5000]
    regions := [(1, { Region.empty with done := false, homeCore := some 0, queues := [⟨0, 0x6000, 2, 16, true, 0x5000⟩] })] }
def header (tail : Nat) (valid closed : Bool) : QHeader := ⟨1, tail, 2, 16, 0x6000, valid, closed⟩
/-- With items, full, empty, closed and empty, not valid: before and after the deadline. -/
theorem witness_QueueInstructionsMoveOneItem : (∀ x ∈ [(3, 1), (2, 1), (1, 1), (1, 3), (1, 0)], ∀ b ∈ [true, false],
      QueueAt (queued x.1 x.2) ⟨10, 3, 4⟩ b (gaRange 0x5000 64) ((gaRange 0x7000 16).map fun a => ⟨a, false⟩)
        (header x.1 (x.2 % 2 = 1) (x.2 = 3))) ∧
    (queued 3 1).deviceQueue 0x5000 (header 3 true false) = true ∧ (header 3 true false).occupancy = 2 ∧
    (queued 1 3).deviceQueue 0x5000 (header 1 true true) = true ∧ (header 1 true false).occupancy = 0 ∧
    [0, 1].all (fun i => (queued 3 1).ringPoisoned (header 3 true false) i = false ∧
      (queued 3 1).ringAway (header 3 true false) i = false) = true ∧
    (queued 2 1).me.drained = true ∧ (queued 2 1).me.tracked = [] ∧ (queued 2 1).me.sealing = [] ∧ (queued 2 1).me.asks = [] ∧
    (queued 2 1).me.inherited = [] ∧ (queued 2 1).expired = false ∧
    (((queued 3 1).withMe fun t => t.setCsr 0x013 4).setDie 0 { Die.reset with ptime := 4 }).expired = true := by
  unfold QueueAt; decide +kernel
theorem witness_QueueInstructions_unsent : (base fun t => { t with
    tracked := [⟨5, ⟨0, 0, 0x02, 8, 0, true, 9, 0, natBytes 8 7, none⟩, false, false, false⟩] }).me.tracked.any
      (fun x => !x.sent) = true := by decide +kernel
theorem witness_QueueInstructions_refused : (queued 3 1).checkOnce .both false 0x10000000 64 = .error (.trap 0x08 0x10000000) ∧
    (queued 3 1).checkOnce .both false 0x5000 64 = .ok ((gaRange 0x5000 64).map fun a => ⟨a, false⟩) ∧
    (qHeader ((queued 3 1).readAt ((gaRange 0x5000 64).take 32))).item = 16 ∧
    (queued 3 1).checkOnce .bulkRd false 0xFFFFFF8 16 = .error (.trap 0x08 0x10000000) ∧
    (queued 3 1).checkOnce .bulkRd false 0x7004 16 = .ok ((gaRange 0x7004 16).map fun a => ⟨a, false⟩) ∧
    (queued 3 1).checkOnce .both false 0x5010 64 = .ok ((gaRange 0x5010 64).map fun a => ⟨a, false⟩) ∧
    ((0x7004 : Word).toNat % 8 ≠ 0 ∧ (0x5010 : Word).toNat % 64 ≠ 0) := by decide +kernel
/-- A control block of one stage of one hart at 0x5000, all else inherited from region 1 of the launching hart. -/
def launching : State :=
  { ((((base fun t => { t.setX 3 0x5000 with region := some 1 }).writeGa 0x5060 1 1).writeGa 0x5180 8 0x4000).writeGa
      0x5188 4 0x10001) with
    nextRegion := 2
    regions := [(1, { Region.empty with
      done := false
      cores := 1
      own := 0x3F
      tot := ⟨8, 8, 1536, 8, 8, 0x1000000⟩
      dies := 1 })] }
theorem witness_LaunchGivesAStatus : launching.checkRange (launching.party launching.cur) .rcb false (launching.me.xr 3) 640 =
      .ok ((gaRange 0x5000 640).map fun a => ⟨a, false⟩) ∧ Unhindered launching ∧ launching.me.launching = none ∧
    launching.eccByte (launching.me.xr 3) ((gaRange 0x5000 640).map fun a => ⟨a, false⟩) = none := by
  unfold Unhindered; decide +kernel
/-- Its release done, and with a seal still to come. -/
theorem witness_LaunchGivesAStatus_release :
    ((launching.withMe fun t => { t with launching := some 2 }).me.launching = some 2 ∧
      ((launching.withMe fun t => { t with launching := some 2 }).release 0 2).2 = true) ∧
    ((launching.withMe fun t => { t with launching := some 2, sealing := [(5, 9)] }).release 0 2).2 = false := by
  decide +kernel
theorem witness_LaunchGivesAStatus_created : ∃ v g, v = launching.readAt (gaRange 0x5000 640) ∧
    g = rcbRegion v 0x5000 0x5068 (some 1) (launching.region 1) false ∧ launching.rcbOk v (launching.region 1) g = true ∧
    g.world = false ∧ launching.noDie g = false ∧ launching.overBudget v 1 (launching.region 1) g = false ∧ launching.rcbMeets v g = none ∧
    (launching.release 0 2).2 = true := ⟨_, _, rfl, rfl, by decide +kernel⟩
/-- A misaligned one, and one outside the page. -/
theorem witness_LaunchGivesAStatus_refused : ((0x5001 : Word).toNat % 64 ≠ 0) ∧ launching.checkRange (launching.party launching.cur)
    .rcb false 0x10000000 640 = .error (.trap 0x08 0x10000000) ∧
    (({ launching with live := 0xFE, regions := [] } : State).region 1).dies = 0 := by decide +kernel
/-! #### Vector instructions that run at their enqueue -/

/-- A length word in vl0, addresses in x10 and x11, and values in some rows. -/
def vec (ty vl : Nat) : State := base fun t => ((((((t.setX 28 (len ty vl)).setX 10 0x5000).setX 11 0).setV 2
  (row 8 [1, 2, 3, 4])).setV 4 (row 8 [5, 6, 7, 8])).setM 1 5)
/-- `Runs`, as it is decided. -/
abbrev RunsNow (s : State) (w : IWord) : Prop :=
  s.prompt = true ∧ s.me.k ≠ 0 ∧ s.me.laneLost = false ∧ s.me.lost = [] ∧
    (s.me.begins w = true ∨ convoyRoom s.me.openMembers w = true) ∧
    (s.me.entriesBefore (s.me.begins w)).length < queueSize ∧ s.me.drained = true ∧ s.portHeld s.cur = false ∧
    (isMatrixWord w = true → s.unitsFree = true) ∧ ∀ o ∈ s.me.nb, o.held = true ∨ o.rows = []
theorem runsNow_runs {s : State} {w : IWord} (h : RunsNow s w) : Runs s w := h
/-- Group, count and class of each family: a word runs at its enqueue. -/
theorem witness_Runs : [Instr.vadd ⟨1, 8, 2, 4, 0, 0, 1⟩, .vsubX ⟨0, 8, 11, 4, 0, 0, 1⟩, .vclz ⟨1, 8, 2, 0, 0, 0⟩,
    .vfadd ⟨1, 8, 2, 4, 0, 0, 1⟩, .vfmulX ⟨0, 8, 11, 4, 0, 0, 1⟩, .vfsqrt ⟨1, 8, 2, 0, 0, 0⟩, .vcvt ⟨1, 8, 2, 0, 0, 0, 10⟩,
    .vcvtC4 ⟨1, 8, 1, 2, 0, 0, 0⟩, .vmv ⟨1, 8, 2, 0, 0, 0⟩, .vbcast ⟨1, 8, 11, 0, 0, 0⟩, .vmerge ⟨1, 8, 2, 4, 0, 0, 1⟩,
    .viota ⟨1, 8, 0, 0, 0⟩, .vcbld ⟨1, 1, 10⟩, .vcmpEq ⟨1, 1, 2, 4, 0, 0⟩, .vcmpLtX ⟨1, 1, 11, 4, 0, 0⟩, .mand ⟨1, 1, 2, 3, 0⟩,
    .mnot ⟨1, 1, 2, 0⟩, .mset ⟨1, 1, 0⟩, .mpopc ⟨1, 3, 1, 0⟩, .vslup ⟨1, 8, 11, 2, 0, 0⟩, .vcompress ⟨1, 8, 2, 0, 1⟩,
    .vextract ⟨1, 3, 11, 2, 0⟩, .vrowrot ⟨1, 8, 11, 2, 0, 0, 0⟩, .vredsum ⟨1, 3, 2, 0, 0⟩, .vfsumo ⟨1, 3, 2, 0, 0⟩,
    .vlu ⟨1, 8, 10, 11, 0, 0, 0, 0, 0⟩, .vsx ⟨1, 8, 10, 4, 0, 0, 1, 0⟩, .vamoaAdd ⟨1, 8, 10, 4, 0, 0, 0, 1⟩].all
    (fun i => decide (RunsNow (vec 2 4) (wordOf i))) = true := by decide +kernel
/-- The least and the greatest count and type of each rule. -/
theorem witness_HasLength : [(0, 0), (0, 4096), (7, 512), (8, 2048), (11, 512), (12, 4096), (15, 8192)].all (fun p =>
    decide ((vec p.1 p.2).me.xr (28 + (0 : BitVec 2).setWidth 5) = BitVec.ofNat 64 ((BitVec.ofNat 4 p.1).toNat * 2 ^ 32 + p.2) ∧
      p.2 ≤ vlmaxOf (vec p.1 p.2).me.k (BitVec.ofNat 4 p.1))) = true ∧ (vec 8 4).me.rm.toNat < 5 ∧
    4 ≤ vlmaxOf (vec 8 4).me.k 0xF := by decide +kernel
theorem witness_ConversionsAndMoves_codebook : Plain (base fun t => t.setX 10 0xFFFFFE0) .rd
    ((base fun t => t.setX 10 0xFFFFFE0).me.xr 10) 32 (gaRange 0xFFFFFE0 32) ∧
    ((base fun t => t.setX 10 0xFFFFFE0).me.xr 10).toNat % 32 = 0 := by unfold Plain; decide +kernel

/-- A vector access whose elements are named passes its checks, and all of them are plain memory. -/
abbrev Passes (s : State) (plan : MemPlan) (els : List Elem) (n : Nat) : Prop :=
  (s.checkElems (s.party s.cur) plan els).2 = none ∧ (s.checkElems (s.party s.cur) plan els).1.length = n ∧
    ∀ q ∈ (s.checkElems (s.party s.cur) plan els).1, ∀ l ∈ q.locs, s.poisoned l.ga = false ∧
      s.farDev l.ga = none ∧ s.failedHome l.ga = none ∧ s.mustWait l.ga = false
/-- Elements of a strided or contiguous access, and what passes of them. -/
abbrev PassesForm (s : State) (f : VMemOps) (q : Queued) (form : QEntry → Nat → Nat → MemForm) (store : Bool) (n : Nat) : Prop :=
  (s.memElems (q.capture s.me s.me.pc) f (form (q.capture s.me s.me.pc)) store).2.1 = none ∧
    Passes s (s.memElems (q.capture s.me s.me.pc) f (form (q.capture s.me s.me.pc)) store).1
      (s.memElems (q.capture s.me s.me.pc) f (form (q.capture s.me s.me.pc)) store).2.2 n
theorem witness_VectorLoadsDeliverTheirElements :
    PassesForm (vec 2 4) ⟨1, 8, 10, 11, 0, 0, 0, 0, 0⟩ (vluQueued ⟨1, 8, 10, 11, 0, 0, 0, 0, 0⟩) (fun e _ => unitForm e) false 4 ∧
    PassesForm (vec 2 4) ⟨1, 8, 10, 11, 0, 0, 1, 7, 0⟩ (vlsQueued ⟨1, 8, 10, 11, 0, 0, 1, 7, 0⟩) (fun e _ => strideForm e) false 2 ∧
    PassesForm ((vec 2 4).withMe fun t => t.setX 11 1) ⟨1, 8, 10, 11, 0, 0, 0, 0, 0⟩ (vldQueued ⟨1, 8, 10, 11, 0, 0, 0, 0, 0⟩)
      spreadForm false 4 := by decide +kernel
theorem witness_VectorStoresWriteTheirBytes :
    PassesForm (vec 2 4) ⟨1, 2, 10, 11, 0, 0, 0, 0, 0⟩ (vsuQueued ⟨1, 2, 10, 11, 0, 0, 0, 0, 0⟩) (fun e _ => unitForm e) true 4 ∧
    PassesForm (vec 2 4) ⟨1, 2, 10, 11, 0, 0, 1, 7, 0⟩ (vssQueued ⟨1, 2, 10, 11, 0, 0, 1, 7, 0⟩) (fun e _ => strideForm e) true 2 ∧
    PassesForm ((vec 2 4).withMe fun t => t.setX 11 1) ⟨1, 2, 10, 11, 0, 0, 0, 0, 0⟩ (vsdQueued ⟨1, 2, 10, 11, 0, 0, 0, 0, 0⟩)
      spreadForm true 4 := by decide +kernel
/-- A hart with a handler and a trap image, near the end of its page, so that the third of four elements fails its check. -/
def faulty (g : Hart → Hart) : State := (vec 2 4).withMe fun t => g (((t.setCsr 0x100 0x8000).setCsr 0x105 0x6000).setX 10 0xFFFFFF8)
theorem witness_VectorFaults : (fun (s : State) => s.me.csrv 0x100 ≠ 0 ∧ s.me.vrf = false ∧ s.me.rep = none ∧
      s.imageWritable 0x6000 = true ∧ s.faultWaits s.cur = false ∧ (s.me.csrv 0x105).toNat = 0x6000) (faulty id) ∧
    [(vluQueued ⟨1, 8, 10, 11, 0, 0, 0, 0, 0⟩, false), (vsuQueued ⟨1, 8, 10, 11, 0, 0, 0, 0, 0⟩, true)].all (fun x =>
      (fun (m : MemPlan × Option (Byte × Word) × List Elem) => decide (m.2.1 = none ∧
        ((faulty id).checkElems ((faulty id).party 0) m.1 m.2.2).1.length = 2 ∧
        (((faulty id).checkElems ((faulty id).party 0) m.1 m.2.2).2.map fun y => (y.1.i, y.2)) = some (2, 0x08, 0x10000000)))
      ((faulty id).memElems (x.1.capture (faulty id).me (faulty id).me.pc) ⟨1, 8, 10, 11, 0, 0, 0, 0, 0⟩
        (fun _ => unitForm (x.1.capture (faulty id).me (faulty id).me.pc)) x.2)) = true := by decide +kernel
theorem witness_VectorFaults_atomic : (fun (s : State) =>
    ((s.checkElems (s.party s.cur) ⟨.both, true, none, 2, none, false, some (4, false)⟩ (s.idxElems
      ((vamoaAddQueued ⟨1, 8, 10, 4, 0, 0, 0, 1⟩).capture s.me s.me.pc) 0 4)).2.map fun y => (y.1.i, y.2)) = some (1, 0x08, 0x10000000))
      (faulty fun t => t.setV 4 (row 64 [0, 8, 0, 4])) := by decide +kernel
theorem witness_CodebookFaults : ((faulty id).me.xr 10).toNat % 32 ≠ 0 ∧
    (faulty fun t => t.setX 10 0x10000000).checkRange ((faulty id).party 0) .bulkRd false 0x10000000 32 =
      .error (.trap 0x08 0x10000000) := by decide +kernel
/-- The merge buffer lacks an entry. -/
theorem witness_MergeBuffer : (fun (s : State) => mergeEntries < s.mergeUsed (slotDie s.cur) + 4 ∧ s.me.nb.all (·.rows.isEmpty) = true)
    ((vec 2 4).withMe fun t => { t with nb := [⟨1, 1, [], [], 0, false, [], [], [], false, 32765⟩] }) := by decide +kernel
/-- Eight bytes of another device, which has been asked for none of them. -/
def farVec : State := pageOver (5 * 2 ^ 49) fun t => (t.setX 28 (len 2 2)).setX 10 0x1000
theorem witness_VectorLoads_far : (fun (p : MemPlan × Option (Byte × Word) × List Elem) => p.2.1 = none ∧
    (farVec.checkElems (farVec.party 0) p.1 p.2.2).2 = none ∧
    (farVec.gather 0 1 (((farVec.checkElems (farVec.party 0) p.1 p.2.2).1.filter farVec.awaits).flatMap fun p => locGas p.locs)).2 =
      false ∧ ∀ q ∈ (farVec.checkElems (farVec.party 0) p.1 p.2.2).1, ∀ l ∈ q.locs, farVec.poisoned l.ga = false)
    (farVec.memElems ((vluQueued ⟨1, 8, 10, 11, 0, 0, 0, 0, 0⟩).capture farVec.me farVec.me.pc) ⟨1, 8, 10, 11, 0, 0, 0, 0, 0⟩
      (fun _ => unitForm ((vluQueued ⟨1, 8, 10, 11, 0, 0, 0, 0, 0⟩).capture farVec.me farVec.me.pc)) false) := by decide +kernel
/-- Indices 0, 8, 0 and 4 in v4. -/
def indexed (ty : Nat) : State := (vec ty 4).withMe fun t => t.setV 4 (row 64 [0, 8, 0, 4])
theorem witness_VectorIndexed : offsetCheck (wordOf (.vlx ⟨1, 8, 10, 4, 0, 0, 0, 0⟩)) 4 [8] (indexed 2)
      ((vlxQueued ⟨1, 8, 10, 4, 0, 0, 0, 0⟩).capture (indexed 2).me (indexed 2).me.pc) = none ∧
    offsetCheck (wordOf (.vsx ⟨1, 8, 10, 4, 0, 0, 0, 0⟩)) 4 [] (indexed 2)
      ((vsxQueued ⟨1, 8, 10, 4, 0, 0, 0, 0⟩).capture (indexed 2).me (indexed 2).me.pc) = none ∧
    Passes (indexed 2) ⟨.rd, false, none, 2, none, false, none⟩
      ((indexed 2).idxElems ((vlxQueued ⟨1, 8, 10, 4, 0, 0, 0, 0⟩).capture (indexed 2).me (indexed 2).me.pc) 0 4) 4 ∧
    Passes (indexed 2) ⟨.wr, true, none, 2, none, false, none⟩
      ((indexed 2).idxElems ((vsxQueued ⟨1, 8, 10, 4, 0, 0, 0, 0⟩).capture (indexed 2).me (indexed 2).me.pc) 0 4) 4 := by
  decide +kernel
theorem witness_VectorAtomicsUpdateInOrder : [(2, vamoaAddQueued, false), (9, vamocFaddQueued, true)].all (fun p => decide
    (((p.2.1 ⟨1, 8, 10, 4, 0, 0, 0, 1⟩).check (indexed p.1)
      ((p.2.1 ⟨1, 8, 10, 4, 0, 0, 0, 1⟩).capture (indexed p.1).me (indexed p.1).me.pc)) = none ∧
    Passes (indexed p.1) ⟨.both, true, none, BitVec.ofNat 4 p.1, none, false, some (typeWidth (BitVec.ofNat 4 p.1) / 8, p.2.2)⟩
      ((indexed p.1).idxElems ((p.2.1 ⟨1, 8, 10, 4, 0, 0, 0, 1⟩).capture (indexed p.1).me (indexed p.1).me.pc) 0 4) 4)) = true := by
  decide +kernel

/-- Each check of the enqueue fails somewhere, and one instruction passes them all with 31 and with 32 before it undone. -/
def entry (done : Bool) : QEntry := ⟨true, 0xA0000000, 0x3FF8, 0, 0, 0, 0, 0, 0, 0, false, true, done, 0, wholeStop, 0, none, none, none⟩
theorem witness_EnqueueChecks : ∃ q, queuedOf (.vadd ⟨0, 8, 2, 4, 0, 0, 1⟩) = some q ∧
    [((vec 2 4).withMe fun t => { t with map := 0 }), ((vec 2 4).withMe fun t => { t with laneLost := true }),
      ((vec 2 4).withMe fun t => { t with convoyOpen := true, queue := [entry false, { entry false with first := false }] }),
      ((vec 2 4).withMe fun t => t.setX 28 (2 ^ 36)), vec 2 1025, vec 12 4].map
        (fun s => q.enqueueCheck s (q.capture s.me s.me.pc)) =
      [some (.trap 0x04 (q.word.setWidth 64)), some (.trap 0x19 0), some (.trap 0x02 (q.word.setWidth 64)),
        some (.trap 0x05 (q.word.setWidth 64)), some (.trap 0x04 (q.word.setWidth 64)), some (.trap 0x01 (q.word.setWidth 64))] :=
  ⟨_, rfl, by decide +kernel⟩
theorem witness_EnqueueAppends : ∃ q, queuedOf (.vadd ⟨1, 8, 2, 4, 0, 0, 1⟩) = some q ∧ ([31, 32].all fun n =>
    (fun (s : State) => decide (q.enqueueCheck s (q.capture s.me s.me.pc) = none ∧
      (s.me.entriesBefore (s.me.begins q.word)).length = n ∧ s.runsNow (q.capture s.me s.me.pc) = false))
      ((vec 2 4).withMe fun t => { t with queue := List.replicate n (entry false) })) = true :=
  ⟨_, rfl, by decide +kernel⟩

/-- A locket of a hart with one cluster at 0x100000, with nothing above its header, and a space for the hart in the pool. -/
def locket : State := { ((base fun t => { (t.setX 3 7).setX 4 0x10100000 with map := 1, convoyOpen := false }).writeGa 0x100000 8
  (1 + 0x35000 * 2 ^ 32)).writeGa 0x100010 8 0x10 with pool := [0x200000] }
def locketLoc (i : Nat) : Loc := ⟨(0x10100000 + i) % 2 ^ 28, false⟩
def locketAddr (i : Nat) : Nat := if i < 0x35000 then (locketLoc i).ga else 0
theorem readAt_zero {s : State} : ∀ {as : List Nat}, (∀ a ∈ as, s.readByte a = 0) → s.readAt as = 0
  | [], _ => rfl
  | a :: t, h => by
    rw [State.readAt, h a (by simp), readAt_zero fun b m => h b (by simp [m])]
    rfl
theorem get_above {l : List (Nat × Byte)} {b n : Nat} (h : ∀ e ∈ l, e.1 < b) (m : b ≤ n) : Sparse.get 0 l n = 0 := by
  induction l with
  | nil => rfl
  | cons e t ih =>
    rw [Sparse.get_cons, if_neg (by have := h e (by simp); omega)]
    exact ih fun x hx => h x (by simp [hx])
theorem locket_zero (off n : Nat) (l : 0x18 ≤ off) (h : off + n ≤ 0x35000) : (paged locket).getAt locketAddr off n = 0 := by
  refine readAt_zero fun a m => ?_
  obtain ⟨i, hi, rfl⟩ := List.mem_map.mp m
  have hi := List.mem_range.mp hi
  have e : locketAddr (off + i) = 0x100000 + (off + i) := by
    rw [locketAddr, if_pos (by omega)]
    simp only [locketLoc]
    omega
  have c : (paged locket).canon (0x100000 + (off + i)) = 0x100000 + (off + i) := by
    have h1 : gaHost (0x100000 + (off + i)) = false := Nat.testBit_lt_two_pow (by omega)
    have h2 : gaKind (0x100000 + (off + i)) = 0 := by simp only [gaKind]; omega
    simp [State.canon, h1, h2]
  have b : ∀ e ∈ (paged locket).mem, e.1 < 0x100018 := by decide +kernel
  rw [e, State.readByte, c, get_above b (by omega)]
theorem locket_valid : (paged locket).imageValid locketAddr 0 = true := by
  have w : ∀ o, 0x18 ≤ o → o + 8 ≤ 0x35000 → (paged locket).imgWord locketAddr o = 0 := fun o a b => by
    rw [State.imgWord, locket_zero o 8 a b]; rfl
  have v : (paged locket).imageReserved locketAddr = false := by
    rw [State.imageReserved, List.any_eq_false]
    intro i m
    have m := List.mem_range.mp m
    rcases Nat.lt_or_ge i 3 with q | q
    · have : ∀ i < 3, ¬ (match imageMask (8 * i) with
        | none => false
        | some m => decide ((paged locket).imgWord locketAddr (8 * i) &&& ~~~ m ≠ 0)) = true := by decide +kernel
      exact this i q
    · rw [w (8 * i) (by omega) (by omega)]
      split <;> simp
  have r : ∀ k, ((List.range 32).all fun r => decide ((paged locket).getAt locketAddr (0x4000 + 4096 * r) 4096 < 2 ^ (4096 * k))) = true := by
    intro k
    rw [List.all_eq_true]
    intro r m
    have m := List.mem_range.mp m
    rw [locket_zero _ _ (by omega) (by omega), decide_eq_true_eq]
    exact Nat.two_pow_pos _
  have k : (((paged locket).imgWord locketAddr 0x10).extractLsb' 4 4).toNat = 1 := by decide +kernel
  have d : decide (((paged locket).imgWord locketAddr 0).extractLsb' 0 16 = 1) = true := by decide +kernel
  have z : decide ((((paged locket).imgWord locketAddr 0).extractLsb' 32 32).toNat =
      locketSize ((paged locket).imgRows locketAddr)) = true := by decide +kernel
  have c : decide ((((paged locket).imgWord locketAddr 0x20).extractLsb' 11 14).toNat = (paged locket).chip) = true := by decide +kernel
  have u : [0x014, 0x105, 0x00B].all ((paged locket).imgRule locketAddr) = true := by decide +kernel
  have x : ((List.range 8).all fun i => !((paged locket).imgCtx locketAddr (8 + i)).bound ||
      decide (((paged locket).ctx ((paged locket).imgCtx locketAddr (8 + i)).key).die = 0 / 16)) = true := by decide +kernel
  simp only [-Nat.reducePow, -Nat.reduceMul, State.imageValid, k, v, d, z, c, u, r 1, x]
  rfl
theorem witness_LkldLoadsAHeldHart : ∃ (s u : State) (head locs : List Loc) (addr : Nat → Nat) (k : Nat),
    u = s.withMe Hart.closeConvoy ∧ (coreOf s.cur * 8 + (s.me.xr 3).toNat % 8 = 7 ∧ 7 ≠ s.cur ∧ s.me.priv = .supervisor ∧
      (s.me.xr 3).toNat / 16 = 0 ∧ (s.me.xr 4).toNat % 4096 = 0 ∧ (s.hart 7).run = .free ∧ s.foreign 7 = false) ∧
    u.locketRange .rd (s.me.xr 4) 0x35000 = .ok head ∧
    u.locketRange .rd (s.me.xr 4) (locketSize (u.imgRows (locAddr head))) = .ok locs ∧
    addr = locAddr locs ∧ u.eccByte (s.me.xr 4) locs = none ∧ u.imageValid addr 0 = true ∧
    u.imageSecure addr = false ∧ k = ((u.imgWord addr 0x10).extractLsb' 4 4).toNat ∧
    u.roomToLoad 0 k (u.imgRows addr) ((u.imgWord addr 0x10).getLsbD 0) = true := by
  have e : (paged locket).withMe Hart.closeConvoy = paged locket := by decide +kernel
  have o : Open0 locket := by decide +kernel
  have h : (paged locket).locketRange .rd 0x10100000 0x35000 = .ok ((List.range 0x35000).map locketLoc) :=
    paged_locketRange _ .rd 0x10100000 0x35000 o (by decide +kernel) (by decide) (by decide)
  have a : locAddr ((List.range 0x35000).map locketLoc) = locketAddr := locAddr_range locketLoc 0x35000
  have r : locketSize ((paged locket).imgRows locketAddr) = 0x35000 := by decide +kernel
  exact ⟨paged locket, paged locket, _, _, locketAddr, 1, e.symm, by decide +kernel, h, by rw [a, r]; exact h, a.symm,
    paged_eccByte _ _ _ o, locket_valid, by decide +kernel, by decide +kernel, by decide +kernel⟩
/-- An image without its format number is not valid. -/
theorem witness_LkldRefuses : (locket.writeGa 0x100000 8 0).imageValid (fun i => 0x100000 + i) 0 = false := by
  have h : decide (((locket.writeGa 0x100000 8 0).imgWord (fun i => 0x100000 + i) 0).extractLsb' 0 16 = 1) = false := by
    decide +kernel
  simp only [State.imageValid, h, Bool.false_and]
/-! #### Matrix mode, repeat frames, engines and collectives -/

/-- In matrix mode with MVL = 128, K = 128 in the active plane, and window rows 0 to 15. -/
def tile (ty vl : Nat) (g : Hart → Hart) : State := base fun t => g (((({ t with
  matrix := some ⟨1, 128, 0, ⟨128, 9, [], 0, 0⟩, ⟨0, 0, [], 0, 0⟩, []⟩ }.setCsr 0x014 (16 * 2 ^ 16)).setX 28 (len ty vl)).setX 10
    0x5000).setX 11 256)
theorem witness_MatrixModeInstructions : ((tile 9 1 id).me.matrix.isSome = true ∧ parent.me.family.isSome = true) ∧
    ((base id).me.matrix = none ∧ (base id).me.family = none ∧ (base id).me.accRows = 0) ∧
    [0, 128, 129].all (fun n => (fun (s : State) => decide (s.me.matrix = none ∧ s.me.family = none ∧ s.me.accRows ≠ 0 ∧
      s.tileBefore = false ∧ s.freeTq (coreOf s.cur) = [0, 1] ∧ s.me.xr 10 = BitVec.ofNat 64 n))
      (base fun t => (t.setCsr 0x014 (16 * 2 ^ 16)).setX 10 (BitVec.ofNat 64 n))) = true ∧
    (fun (s : State) => s.me.matrixIdle = true ∧ s.me.drained = true ∧ s.me.tile = [] ∧ s.prompt = true ∧
      ∃ m, s.me.matrix = some m ∧ m.tq < 2 ∧ m.mvl ≤ 128 ∧ m.active.k ≤ 128 ∧ m.shadow.k ≤ 128) (tile 9 1 id) :=
  ⟨by decide +kernel, by decide +kernel, by decide +kernel, by decide +kernel, by decide +kernel, by decide +kernel,
    by decide +kernel, ⟨1, 128, 0, ⟨128, 9, [], 0, 0⟩, ⟨0, 0, [], 0, 0⟩, []⟩, by decide +kernel⟩
/-- Matrix work is queued; the queue is full; and both tile queues are taken. -/
theorem witness_MatrixMode_busy : ((tile 9 1 fun t => { t with queue := [undoneMember 0x64000000] }).me.matrixIdle = false ∧
      queueSize ≤ (tile 9 1 fun t => { t with queue := List.replicate 32 (undoneMember 0xA0000000) }).me.queue.length) ∧
    (fun (s : State) => s.me.matrix = none ∧ s.me.family = none ∧ s.me.accRows ≠ 0 ∧ s.freeTq (coreOf s.cur) = [] ∧
      s.tickTime.expired = false)
      (((base fun t => t.setCsr 0x014 (16 * 2 ^ 16)).setHart 1 (tile 9 1 id).me).setHart 2
        { (tile 9 1 id).me with matrix := some ⟨0, 1, 0, ⟨0, 0, [], 0, 0⟩, ⟨0, 0, [], 0, 0⟩, []⟩ }) := by decide +kernel
theorem witness_MlsFillsTheShadowPlane : (fun (s : State) => s.baseLeaf (s.me.xr 10) = .ok ⟨BitVec.ofNat 128 (leafEntry 0), 28⟩ ∧
    s.me.xr 28 = BitVec.ofNat 64 ((9 : BitVec 4).toNat * 2 ^ 32 + 2) ∧
    Passes s ⟨.rd, false, some ⟨BitVec.ofNat 128 (leafEntry 0), 28⟩, 9, none, false, none⟩
      (tileElems (2 ^ 128 - 1) 2 0 0 2 (fun _ => false) fun k j => 8 * (((s.me.xr 10).toNat : Int) + k * (s.me.xr 11).toInt) +
        (j * memWidth ⟨BitVec.ofNat 128 (leafEntry 0), 28⟩ 9 : Nat)) 4) (tile 9 2 fun t => { t with
        matrix := some ⟨1, 2, 0, ⟨2, 9, [], 0, 0⟩, ⟨0, 0, [], 0, 0⟩, []⟩ }) := by decide +kernel
/-- The words of matrix mode run at their enqueue there, with rows at both ends of the window. -/
theorem witness_MatrixRuns : [Instr.mls ⟨1, 10, 11, 0⟩, .mstr ⟨1, 0, 12, 0, 3, 0, 1, 0⟩, .mop ⟨1, 2, 12, 4, 0, 1⟩,
    .mscan ⟨1, 12, 13, 1, 1, 0⟩, .mscanf ⟨1, 12, 13, 3⟩, .maccRd ⟨1, 8, 12, 0, 3, 0⟩, .maccWr ⟨1, 8, 12, 0, 3, 0⟩,
    .maccZr ⟨1, 12, 13⟩, .maccCp ⟨1, 12, 0, 13⟩, .maccScrd ⟨1, 8, 3, 0⟩, .maccScwr ⟨1, 8, 3, 0⟩].all
    (fun i => decide (RunsNow (tile 9 128 id) (wordOf i))) = true := by decide +kernel
/-- The base of an MLS beyond the page, and an element beyond it. -/
theorem witness_Mls_faults : [0x10000000, 0xFFFFFFC].all (fun a => (fun (s : State) =>
    (s.placingPlane ((mlsQueued ⟨1, 10, 11, 0⟩).fixes s ((mlsQueued ⟨1, 10, 11, 0⟩).capture s.me s.me.pc))).any fun p =>
      (p.bad.map (·.2)) = some (0x08, 0x10000000)) (tile 9 4 fun t => { (t.setX 10 a).setX 11 4 with
        matrix := some ⟨1, 2, 0, ⟨2, 9, [], 0, 0⟩, ⟨0, 0, [], 0, 0⟩, []⟩ })) = true := by decide +kernel
theorem witness_MatrixProductsAccumulate : (fun (s : State) => 128 ≤ vlmaxOf s.me.k 9 ∧ pairs 9 9 = true ∧
    (s.me.xr 12).toNat + 2 * 2 ^ 3 ≤ s.me.accRows ∧ (s.me.xr 13).toNat + 16 ≤ s.me.accRows) (tile 9 128 id) ∧
    (fun (s : State) => (s.me.xr 12).toNat + 8 ≤ s.me.accRows ∧ (s.me.xr 12).toNat + 2 * 4 ≤ s.me.accRows)
      (tile 9 128 fun t => t.setX 12 8) := by decide +kernel
theorem witness_AccumulatorMoves : (fun (s : State) => (s.me.xr 12).toNat + 2 ^ 3 ≤ s.me.accRows ∧
    ((s.me.xr 12).toNat + (s.me.xr 13).toNat ≤ s.me.accRows) ∧ ((s.me.xr 14).toNat + (s.me.xr 13).toNat ≤ s.me.accRows))
      (tile 9 128 fun t => ((t.setX 12 8).setX 13 8).setX 14 7) := by decide +kernel

/-- A frame of VADD and VSUB, stepped by 2, after a REP at 0x4000; the same with a scalar word in it; and one that cannot be
fetched. -/
def frameWords : List IWord := [0xA0821000, 0xA0931001]
theorem witness_RepeatFrames : (fun (s : State) => s.bufferTaken s.cur = false ∧ ∃ u, (s.withMe Hart.closeConvoy).fetchWords
        (s.me.pc + 4) 2 = .ok (u, frameWords) ∧ u.me.owes (frameWords.flatMap queuedRegs) = false ∧
      u.frameCheck frameWords 2 false = none ∧ (u.me.csrv 0x008).getLsbD 6 = false)
      (((base fun t => t.setX 28 (len 2 4)).writeGa 0x4004 4 0xA0821000).writeGa 0x4008 4 0xA0931001) ∧
    (fun (s : State) => ∃ u, (s.withMe Hart.closeConvoy).fetchWords (s.me.pc + 4) 1 = .ok (u, [0x00208001]) ∧
      (u.frameCheck [0x00208001] 2 false).isSome = true ∧ (u.me.csrv 0x008).getLsbD 6 = true)
      ((base fun t => t.setCsr 0x008 0x40).writeGa 0x4004 4 0x00208001) :=
  ⟨⟨by decide +kernel, _, by rfl, by decide +kernel, by decide +kernel, by decide +kernel⟩,
    ⟨_, by rfl, by decide +kernel, by decide +kernel⟩⟩
def repeating : RepFrame := ⟨true, frameWords, 2, 3, 2, 1, 0, 0x4000, []⟩
def replaying (r : RepFrame) : State := base fun t => { t.setX 28 (len 2 4) with rep := some r }
/-- Another hart of the core has the buffer; a word lies beyond the page; a captured register is owed. -/
theorem witness_RepeatFrames_wait : ((replaying repeating).setHart 1 (replaying repeating).me).bufferTaken 0 = true ∧
    (match (((base fun t => { t with pc := 0xFFFFFFC }).withMe Hart.closeConvoy).fetchWords 0x10000000 1) with
      | .error (_, .trap c v) => decide (c = 0x08 ∧ v = 0x10000000)
      | _ => false) = true ∧
    (base fun t => { t with queue := [undoneMember (wordOf (.mpopc ⟨1, 28, 1, 0⟩))] }).me.owes
      (frameWords.flatMap queuedRegs) = true := by decide +kernel
/-- The first and the last word of a replay, with room, and the checks of each; and a full queue. -/
theorem witness_Replay : [0, 1].all (fun p => (fun (s : State) (r : RepFrame) => decide ((s.hart 0).run = .running ∧
      r.captured = true ∧ (s.hart 0).owes (frameWords.flatMap queuedRegs) = false ∧
      ((s.asHart 0).me.entriesBefore (p = 0)).length < queueSize ∧ queueSize ≤
        ((s.withMe fun t => { t with queue := List.replicate 32 (undoneMember 0xA0000000) }).me.entriesBefore (p = 0)).length))
      (replaying { repeating with pos := p }) { repeating with pos := p }) = true := by decide +kernel
theorem witness_Replay_words : ∃ q q' : Queued, (repeating.words.map fun w => stepWord w (1 * 2)).filterMap steppedWord = [q, q'] ∧
    (q.ctr = 0 ∧ q'.ctr = 0 ∧ q.word.getLsbD 31 = true) ∧
    (fun (u : State) => firstFail ([q, q'].map fun x => x.replayCheck u (x.capture u.me u.me.pc)) = none ∧
      u.me.laneLost = false ∧ u.me.owes ([q, q'].flatMap Queued.captures) = false) ((replaying repeating).asHart 0) ∧
    (fun (u : State) => firstFail ([q, q'].map fun x => x.replayCheck u (x.capture u.me u.me.pc)) = some (0x01, 0))
      (((replaying repeating).withMe fun t => t.setX 28 (len 13 4)).asHart 0) :=
  ⟨_, _, by rfl, by decide +kernel, by decide +kernel, by decide +kernel⟩
/-- Clusters lost; and a word amid a replay, of a hart being stopped, that has waited for what it reads. -/
theorem witness_Replay_stopped : ((replaying repeating).withMe fun t => { t with laneLost := true }).me.laneLost = true ∧
    (fun (s : State) (r : RepFrame) => r.pos ≠ 0 ∧ (s.hart 0).run = .stopping [4] true ∧ (s.hart 0).rep = some r ∧ r.blocked = [28])
      ((replaying { repeating with pos := 1, blocked := [28] }).withMe fun t => { t with run := .stopping [4] true })
      { repeating with pos := 1, blocked := [28] } := by decide +kernel

/-- Engine slot 7 and collective slot 7 bound to contexts of die 8, with 255 commands outstanding on the first. -/
def bound (faulted : Bool) (g : Hart → Hart) : State :=
  ((base fun t => g ((t.setCtxSlot 7 { CtxSlot.empty with bound := true, faulted := faulted, key := 3, issued := 255 }).setCtxSlot 15
    { CtxSlot.empty with bound := true, faulted := faulted, key := 1024 + 5 })).setCtx 3
      { Ctx.empty with hart := some 0, slot := 7, faulted := faulted }).setCtx 1029
      { Ctx.empty with hart := some 0, slot := 7, faulted := faulted }
theorem witness_EngineInstructions : (fun (s : State) => (s.me.ctxSlot 7).bound = true ∧ (s.me.ctxSlot 7).faulted = false ∧
    ((s.me.ctxSlot 7).issued - (s.me.ctxSlot 7).completed).toNat < 256 ∧ s.bindCtx s.cur 7 = some s ∧
    (s.ctx 3).eng = [] ∧ (s.ctx 3).hart = some s.cur ∧ (s.ctx 3).slot = 7 ∧ 3 % 2048 < 1024 ∧
    (s.me.xr 12).extractLsb' 48 16 = 0 ∧ (s.me.xr 12).extractLsb' 32 16 ≠ 0 ∧ (s.me.xr 13).toNat % 8 = 0 ∧
    s.checkRange (s.party s.cur) .bulkRd false (s.me.xr 13) 32 = .ok ((gaRange 0x5000 32).map fun a => ⟨a, false⟩) ∧
    (∀ a ∈ gaRange 0x5000 32, gaKind a ≠ 3 ∧ s.poisoned a = false ∧ s.farDev a = none) ∧
    s.me.xr 0 = 0 ∧ (s.me.xr 0).extractLsb' 4 60 = 0 ∧ s.checkRange (s.party s.cur) .wr false (s.me.xr 13) 16 =
      .ok ((gaRange 0x5000 16).map fun a => ⟨a, false⟩)) (bound false fun t => (t.setX 12 (2 ^ 32)).setX 13 0x5000) := by
  decide +kernel
/-- The issue counts that wait; no context to bind; and a clasp word in scratchpad. -/
theorem witness_EngineInstructions_more : (256 : Nat) ≤ (((base fun t => t.setCtxSlot 7 { CtxSlot.empty with
      bound := true, issued := 256 }).me.ctxSlot 7).issued - 0).toNat ∧
    ({ base id with drained := [.iod 8, .iod 9] } : State).bindCtx 0 7 = none ∧
    (spad id).checkRange ((spad id).party 0) .wr false 0x1000 16 = .ok ((gaRange (2 * 2 ^ 42) 16).map fun a => ⟨a, false⟩) ∧
    (∀ a ∈ gaRange (2 * 2 ^ 42) 16, gaHost a = false ∧ gaKind a = 2) := by decide +kernel
theorem witness_EngineInstructions_traps : (fun (s : State) => (s.me.ctxSlot 7).bound = true ∧ (s.me.ctxSlot 7).faulted = true ∧
    (s.me.xr 12).extractLsb' 48 16 ≠ 0 ∧ (s.me.xr 0).extractLsb' 32 16 = 0 ∧ (s.me.xr 13).toNat % 8 ≠ 0 ∧
    s.me.priv = .supervisor ∧ (s.me.xr 0).getLsbD 0 = false ∧ (s.me.ctxSlot 0).bound = false)
    (bound true fun t => (t.setX 12 (2 ^ 63)).setX 13 0x5007) := by decide +kernel
/-- A faulted context with a command to complete. -/
theorem witness_EngineInstructions_eres : (fun (s : State) => (s.ctx 3).eng.head?.map (fun y => y.num) = some 9 ∧
    (s.ctx 3).eng.tail = [] ∧ (s.ctx 3).hart = some s.cur ∧ (s.ctx 3).slot = 7 ∧ (s.me.xr 4).getLsbD 0 = true)
    (((bound true fun t => t.setX 4 1)).setCtx 3 { Ctx.empty with
      hart := some 0
      slot := 7
      faulted := true
      eng := [⟨9, .fill 0x5000 7 64, 0, 0, false, 0, [], Xfer.none⟩] }) := by decide +kernel
/-- A group of one endpoint, this die, at handle 1 of a group table at 0x8000; an all-reduce of one S64 word. -/
def grouped : State := ((bound false fun t => (((t.setCsr 0x016 0x8000).setX 13 1).setX 10 0x5000).setX 12
    (BitVec.ofNat 64 (3 * 2 ^ 52 + 1))).writeGa 0x8040 64 (0x9000 + 2 ^ 64 + 2 ^ 192)).writeGa 0x9000 4 0
theorem witness_CollectivesAreIssued : (fun (s : State) (ge : GroupEntry) => ge = ⟨0x9000, 1, 0, 0, true⟩ ∧ s.members ge = [0] ∧
    65535 < ((2 ^ 16 : Word)).toNat ∧ (s.me.ctxSlot 15).bound = true ∧ (s.me.ctxSlot 15).faulted = false ∧
    ((s.me.ctxSlot 15).issued - (s.me.ctxSlot 15).completed).toNat < 256 ∧ s.bindCtx s.cur 15 = some s ∧
    s.collCheck (s.me.xr 10) (s.me.xr 12) (s.me.xr 13) ge (s.members ge) = none ∧
    (s.collCheck 0x10000000 (s.me.xr 12) (s.me.xr 13) ge (s.members ge)).map Prod.snd = some (.trap 0x08 0x10000000)) grouped
      (grouped.groupEntry (grouped.me.csrv 0x016).toNat (grouped.me.xr 13).toNat) := by decide +kernel
/-! #### Steps of the units, of waiting harts and of the scheduler -/

/-- VADD captured as the only member of hart 0's queue. -/
def pendingVadd : State := (vec 2 4).withMe fun t => { t with queue := [(vaddQueued ⟨1, 8, 2, 4, 0, 0, 1⟩).capture t 0x4000] }
/-- MSTR captured, in matrix mode. -/
def pendingMstr : State := (tile 9 1 id).withMe fun t => { t with queue := [(mstrQueued ⟨1, 2, 12, 0, 0, 0, 0, 0⟩).capture t 0x4000] }
/-- The first member of hart 0's queue as its next act begins, its checks made; and that act's end. -/
def begun (s : State) (q : Queued) (e : QEntry) : Option Placing :=
  e.placed.or (q.place ((s.asHart 0).withMe fun t => { t with qstalled := none }) e)
def acted (s : State) (q : Queued) (e : QEntry) : VOut :=
  q.act (((s.asHart 0).withMe fun t => { t with qstalled := none }).withMe (fun t => t.setEntry 0 fun x =>
    { x with placed := begun s q e })) { e with stop := (s.hart 0).actStop e, placed := begun s q e }
/-- The next act of the first member of hart 0's queue is performed. -/
def completes (s : State) (q : Queued) (e : QEntry) : Bool :=
  (begun s q e).all (fun p => !p.waits) && decide ((s.hart 0).lost = []) && match acted s q e with
  | .done w _ => decide (w.cur = 0 ∧ (w.hart 0).lost = [] ∧ (w.hart 0).tile = (s.hart 0).tile ∧
      (w.hart 0).queue = ((s.hart 0).setEntry 0 fun x => { x with placed := begun s q e }).queue)
  | _ => false
/-- VLU of the eight bytes of another device, which wait for their answer; VLU whose third element faults; and an atomic on the
other device, whose old values are to come. -/
def farLoad : State := farVec.withMe fun t => { t with queue := [(vluQueued ⟨1, 8, 10, 11, 0, 0, 0, 0, 0⟩).capture t 0x4000] }
def badLoad : State := (faulty id).withMe fun t => { t with queue := [(vluQueued ⟨1, 8, 10, 11, 0, 0, 0, 0, 0⟩).capture t 0x4000] }
def farAtomic : State := (farVec.withMe fun t => t.setV 4 (row 64 [0, 8])).withMe fun t => { t with
  queue := [(vamoaAddQueued ⟨1, 8, 10, 4, 0, 0, 0, 1⟩).capture t 0x4000] }
theorem witness_QueuedWork_outcomes :
    (match acted farLoad (vluQueued ⟨1, 8, 10, 11, 0, 0, 0, 0, 0⟩) (farLoad.me.queue.headD (QEntry.vacant)) with
      | .wait w _ => decide (w.cur = 0 ∧ (w.hart 0).lost = [])
      | _ => false) = true ∧
    (match acted badLoad (vluQueued ⟨1, 8, 10, 11, 0, 0, 0, 0, 0⟩) (badLoad.me.queue.headD (QEntry.vacant)) with
      | .fault w c va _ _ => decide (c = 0x08 ∧ va = 0x10000000 ∧ w.cur = 0 ∧ (w.hart 0).lost = [] ∧ (w.hart 0).rep = (badLoad.hart 0).rep ∧
          (w.hart 0).vrf = false ∧ (w.hart 0).csrv 0x100 ≠ 0 ∧ w.imageWritable ((w.hart 0).csrv 0x105).toNat = true)
      | _ => false) = true ∧ badLoad.faultWaits 0 = false ∧ (badLoad.hart 0).replayFirst 0 = false ∧
    (match acted farAtomic (vamoaAddQueued ⟨1, 8, 10, 4, 0, 0, 0, 1⟩) (farAtomic.me.queue.headD (QEntry.vacant)) with
      | .later w => decide (w.cur = 0 ∧ (w.hart 0).lost = [])
      | _ => false) = true := by decide +kernel
/-- Done convoys; and a matrix member that has passed its drain point, with room in the tile queue. -/
theorem witness_QueuedWork_convoys : (fun (t : Hart) => t.run = .running ∧ (leadConvoy t.queue).filter (fun e => !e.done) = [] ∧
      t.queue.drop (leadConvoy t.queue).length = [entry false]) (base fun t => { t with queue := [entry true, entry false] }).me ∧
    (fun (t : Hart) => (leadConvoy t.queue).filter (fun e => !e.done) = [] ∧ t.convoyOpen = false ∧ leadConvoy t.queue ≠ [] ∧
      t.queue.drop (leadConvoy t.queue).length = []) (base fun t => { t with queue := [entry true] }).me ∧
    (fun (t : Hart) => t.convoyOpen = false ∧ leadConvoy t.queue ≠ [] ∧
      (∀ e ∈ (leadConvoy t.queue).filter (fun e => !e.done), t.drainPoint (leadConvoy t.queue) e = true) ∧
      t.tile.length + ((leadConvoy t.queue).filter fun e => !e.done).length ≤ tileSize) pendingMstr.me := by decide +kernel
theorem witness_QueuedWork_member : ∃ q q', queuedWord (wordOf (.vadd ⟨1, 8, 2, 4, 0, 0, 1⟩)) = some q ∧
    queuedWord (wordOf (.mstr ⟨1, 2, 12, 0, 0, 0, 0, 0⟩)) = some q' ∧
    (pendingVadd.me.run = .running ∧ (pendingVadd.me.queue.map (·.word)) = [wordOf (.vadd ⟨1, 8, 2, 4, 0, 0, 1⟩)] ∧
      (pendingVadd.hart 0).groupMembers.filter (fun _ => true) = [0] ∧ ∀ n, n % [0].length = 0) ∧
    completes pendingVadd q (pendingVadd.me.queue.headD (entry true)) = true ∧
    completes pendingMstr q' (pendingMstr.me.queue.headD (entry true)) = true ∧
    pendingMstr.unitHart 0 0 = some 0 ∧ (pendingMstr.hart 0).unitWork 0 = some (false, 0) ∧
    (pendingMstr.me.actStop (pendingMstr.me.queue.headD (entry true)) = wholeStop ∨
      pendingMstr.me.actStop (pendingMstr.me.queue.headD (entry true)) ≠ wholeStop) :=
  ⟨_, _, by rfl, by rfl, ⟨by decide +kernel, by decide +kernel, by decide +kernel, fun n => Nat.mod_one n⟩, by decide +kernel,
    by decide +kernel, by decide +kernel, by decide +kernel,
    Decidable.em _⟩
/-- An MPOPC may write its scalar register; an MSCAN and a MACC move are served; and the same MSTR in the tile queue. -/
def tiled : State := pendingMstr.withMe fun t => { t with
  queue := []
  tile := t.queue.map fun e => { e with snap := some ⟨t.v, t.m⟩ } }
theorem witness_QueuedWork_units : ((((vec 2 4).withMe fun t => { t with
      queue := [(mpopcQueued ⟨1, 3, 1, 0⟩).capture t 0x4000] }).hart 0).groupMembers.filter (fun n => toScalar
        ((((vec 2 4).withMe fun t => { t with queue := [(mpopcQueued ⟨1, 3, 1, 0⟩).capture t 0x4000] }).hart 0).queue.getD n
          QEntry.vacant).word) = [0]) ∧
    (pendingMstr.withMe fun t => { t with queue := [(mscanQueued ⟨1, 12, 13, 0, 0, 0⟩).capture t 0x4000] }).unitHart 0 1 = some 0 ∧
    (pendingMstr.withMe fun t => { t with queue := [(maccZrQueued ⟨1, 12, 13⟩).capture t 0x4000] }).unitHart 0 2 = some 0 ∧
    tiled.unitHart 0 0 = some 0 ∧ (tiled.hart 0).unitWork 0 = some (true, 0) ∧
    (base id).unitHart 0 0 = none ∧ ((base id).hart 0).swapDue = none := by decide +kernel
theorem witness_QueuedWork_tile : ∃ q, queuedWord (wordOf (.mstr ⟨1, 2, 12, 0, 0, 0, 0, 0⟩)) = some q ∧
    completes tiled q (tiled.me.tile.headD (entry true)) = true := ⟨_, by rfl, by decide +kernel⟩
/-- MSWAP with nothing before it, in the queue and in the tile queue. -/
theorem witness_QueuedWork_swap : (fun (s : State) => (s.hart 0).swapDue = some (false, 0))
      (pendingMstr.withMe fun t => { t with queue := [undoneMember (wordOf .mswap)] }) ∧
    (fun (s : State) => (s.hart 0).swapDue = some (true, 0))
      (tiled.withMe fun t => { t with tile := [undoneMember (wordOf .mswap)] }) := by decide +kernel
/-- A load outstanding on counter 7, with group 63 of row 31 to land. -/
def outstanding : NbOp := ⟨7, 1, [⟨31, 0, 0, 1 <<< 63⟩], [⟨0x5000, 1, 0xFF⟩], 0, false, [], [], [], false, 0⟩
theorem witness_QueuedWork_landing : (fun (t : Hart) => t.nb.find? (fun o => o.brings 31 63) = some outstanding ∧
    outstanding.rows.find? (fun r => decide (r.row = 31) && r.groups.getLsbD 63) = some ⟨31, 0, 0, 1 <<< 63⟩ ∧
    outstanding.awaitsGroup 31 63 = false ∧
    t.nb.find? (fun o => decide (o.ctr = 7 ∧ o.num.toNat = 1) && o.ready) = some outstanding ∧ t.queue = [] ∧
    ∀ x ∈ t.nb, x.ctr = outstanding.ctr → x.num = outstanding.num)
    (base fun t => { t with nb := [outstanding] }).me := by decide +kernel
theorem witness_QueuedWork_buffer : (fun (s : State) => (s.hart 0).rep = some ⟨false, [], 1, 1, 2, 0, 0, 0x4000, []⟩ ∧
    (s.hart 0).run = .running ∧ (s.hart 0).pc = 0x4000 ∧ (s.hart 0).convoyOpen = false ∧ s.bufferTaken 0 = false)
    (base fun t => { t with rep := some ⟨false, [], 1, 1, 2, 0, 0, 0x4000, []⟩ }) := by decide +kernel
theorem witness_UnitsTrap_vector : (fun (s : State) => (leadConvoy (s.hart 0).queue)[1]? =
    some { entry false with first := false } ∧ (entry false).done = false ∧ (s.hart 0).run.lanesWork = true ∧ (s.hart 0).vrf = false ∧ (s.hart 0).csrv 0x100 ≠ 0 ∧
    s.imageWritable ((s.hart 0).csrv 0x105).toNat = true ∧ (s.hart 0).csrv 0x108 = 0 ∧ s.faultWaits 0 = false ∧
    (s.hart 0).replayFirst 1 = false)
    (base fun t => { (t.setCsr 0x100 0x8000).setCsr 0x105 0x6000 with
      queue := [entry true, { entry false with first := false }] }) ∧
    (base fun t => { t with nb := [{ outstanding with ctr := 0 }] }).faultWaits 0 = true ∧
    (base fun t => t.setCsr 0x104 0x10).me.vrf = true := by decide +kernel
theorem witness_UnitsTrap_async : (fun (t : Hart) => t.run = .running ∧ t.ie = true ∧ t.wait = none ∧ t.rep = none ∧
      t.engFault = true) (base fun t => { t.setCsr 0x104 1 with engFault := true, collFault := true }).me ∧
    (fun (t : Hart) => t.priv = .user ∧ t.engFault = false ∧ t.collFault = true)
      (base fun t => { t with priv := .user, collFault := true }).me ∧
    (fun (t : Hart) => t.run = .stopped 0x13 true ∧ t.region = none) (base fun t => { t with run := .stopped 0x13 true }).me := by
  decide +kernel
theorem witness_UnitsTrap_clusters : (fun (s : State) => (s.retired 0).getLsbD 7 = false ∧
      ∀ h ∈ coreSlots 0, (s.hart h).map.getLsbD 7 = false) (base fun t => { t with map := 0x7F }) ∧
    (fun (s : State) => (coreSlots 0).find? (fun h => (s.hart h).map.getLsbD 7) = some 7 ∧ (s.hart 7).run = .held)
      ((base fun t => { t with map := 0x7F }).setHart 7 { Hart.free with run := .held, map := 0x80 }) := by decide +kernel
theorem witness_UnitsTrap_pages : (fun (s : State) => (s.hart 0).run = .running ∧ (s.hart 0).stalled = some 0xFFFFFFF ∧
      s.lookup (s.party 0).die (s.party 0).tenant (s.party 0).ptroot 0xFFFFFFF = some ⟨BitVec.ofNat 128 (leafEntry 0), 28⟩ ∧
      (s.die (s.homeDie (Page.ga ⟨BitVec.ofNat 128 (leafEntry 0), 28⟩ 0xFFFFFFF))).out = true ∧ (s.hart 0).drained = true)
      ((base fun t => { t with stalled := some 0xFFFFFFF }).setDie 0 { Die.reset with out := true }) ∧
    (fun (s : State) => (s.hart 0).run ≠ .free ∧
      s.walkFrom 0xFFFFFFF 5 (s.party 0).ptroot.toNat = some ⟨BitVec.ofNat 128 (leafEntry 0), 28⟩ ∧
      ∀ a ∈ s.walkPath 0xFFFFFFF 5 (s.party 0).ptroot.toNat, s.unread a = none) (base id) := by decide +kernel

/-- Hart 0 waits at an instruction, with a deadline. -/
def waiting (i : Instr) (deadline : Word) : State := base fun t => { t with wait := some ⟨i, deadline, none, 0, 0⟩ }
/-- The PTIME of a die reads v, or later at its next observation. -/
def reads (s : State) (d : Nat) (v : Word) : State := s.setDie d { s.die d with ptime := v }
theorem reads_ptime (s : State) (d : Nat) (v : Word) : v.toNat ≤ ((reads s d v).tickTime.die d).ptime.toNat := by
  have h := (reads s d v).ptime_tickTime d
  simpa [reads, State.setDie, State.die] using h
theorem witness_WaitingInstructions : ∀ i : Instr, ((waiting i 4).hart 0).run = .running ∧
    ((waiting i 4).hart 0).wait = some ⟨i, 4, none, 0, 0⟩ := fun _ => ⟨rfl, rfl⟩
theorem die_cur (s : State) (c d : Nat) : ({ s with cur := c } : State).die d = s.die d := rfl
theorem witness_WaitingInstructions_deadline : (4 : Word) ≠ 0 ∧ ∀ u, u = { (reads (waiting .wfi 4) 0 4).tickTime with cur := 0 } →
    (4 : Word).toNat ≤ (u.die (slotDie 0)).ptime.toNat :=
  ⟨by decide, fun u h => by rw [h, die_cur, show slotDie 0 = 0 by decide]; exact reads_ptime _ 0 4⟩
theorem witness_WaitingInstructions_tile : 0 ∈ coreSlots 0 ∧
    ∀ k ∈ coreSlots 0, k ≠ 0 → ((waiting (.mmodeOn ⟨3⟩) 0).hart k).wait = none := by decide +kernel

/-- A choice from a list that is not empty. -/
theorem choose_some {n : Nat} {l : List Nat} (h : l ≠ []) : ∃ x ∈ l, choose n l = some x := by
  have p := Nat.mod_lt (Config.pick n) (List.length_pos_iff.mpr h)
  exact ⟨l[Config.pick n % l.length], List.getElem_mem p, List.getElem?_eq_getElem p⟩
theorem choose_one (n a : Nat) : choose n [a] = some a := by simp [choose, Nat.mod_one]
/-- A stage of one hart on die 0. -/
def theStage : Stage :=
  { Stage.empty with entry := 0x4000, hmin := 1, hmax := 1, dies := 1, vtype := 3, vlen := 64, closing := false, queued := 1 }
/-- A region of one stage with one hart queued, one core of die 0 in service, and one locket space. -/
def launched : State :=
  { State.reset with
    live := 1
    regions := [(1, { Region.empty with
      done := false
      cores := 1
      own := 0x3F
      tot := ⟨8, 8, 1536, 8, 8, 0x1000000⟩
      dies := 1
      stages := [theStage] })]
    pool := [0x200000]
    drained := (List.range 15).map fun c => SvcUnit.core 0 c }
def needs : Needs := launched.newNeeds 1 0
theorem launched_core : launched.findCore 1 0 needs = some 15 := by
  have d : ((List.range 8).map fun i => (((launched.region 1).stage 0).lastDie + 1 + i) % 8).filter (fun d =>
      needs.dies.getLsbD d && launched.liveDie d) = [0] := by decide +kernel
  have k : ((List.range 16).map (0 * 16 + ·)).filter (launched.qualifies 1 needs) = [15] := by decide +kernel
  have o : launched.occupied 1 = [] := by decide +kernel
  have c : 0 < (launched.region 1).cores := by decide +kernel
  unfold State.findCore
  simp only [d, o, List.findSome?_cons, k]
  simp [choose, c, Nat.mod_one]
theorem witness_InitialGrant : launched.schedules = true ∧ (launched.region 1).done = false ∧ (launched.region 1).opening = false ∧
    launched.queuedStages 1 = [0] ∧ ((launched.region 1).stage 0).queued = 1 ∧
    launched.domainStops 1 = false ∧ (∀ x ∈ (launched.region 1).stages, 0 < x.queued → launched.mayStart 1 x = true) ∧
    ∃ u, launched.grantNew 1 0 = some u := by
  refine ⟨by decide +kernel, by decide +kernel, by decide +kernel, by decide +kernel, by decide +kernel, by decide +kernel,
    by decide +kernel, ?_⟩
  obtain ⟨h, -, eh⟩ := choose_some (n := launched.fresh) (l := launched.freeSlots 15) (by decide +kernel)
  obtain ⟨f, -, ef⟩ := choose_some (n := launched.fresh) (l := launched.freeWindows 15 needs.rows) (by decide +kernel)
  have p : launched.spaces (launched.region 1).world needs.rows = [0x200000] := by decide +kernel
  have e := launched_core
  simp only [needs] at e ef p
  simp only [State.grantNew, e, p, eh, ef]
  exact ⟨_, rfl⟩
theorem witness_Scheduler_stops : (fun (t : Hart) => t.run = .running ∧ t.family = none ∧ t.pending = some 4 ∧ 4 < t.k)
      (base fun t => { t with pending := some 4 }).me ∧
    (fun (s : State) => s.me.run = .stopping [0, 1] false ∧ 0 ∈ [0, 1, 3, 4, 5] ∧ (∃ x ∈ [0, 1], x ≠ 0) ∧ s.unitBusy 0 0 = false)
      (base fun t => { t with run := .stopping [0, 1] false }) ∧
    (fun (t : Hart) => t.run = .stopping [4] true ∧ (∀ x ∈ [4], x = 4) ∧ t.space = some 0x200000 ∧ t.region = some 1 ∧ t.nb = [])
      (base fun t => { t with run := .stopping [4] true, space := some 0x200000, region := some 1 }).me ∧
    (base id).spaceWaits 0x200000 0 = false ∧
    (fun (s : State) => s.unitBusy 0 4 = true) ((replaying { repeating with pos := 1 }).withMe fun t => { t with
      run := .stopping [4] true }) := by decide +kernel
/-- Before the end of the grace and after it: PTIME goes no further than the largest reading. -/
theorem witness_Scheduler_grace : (fun (s : State) => ∀ u, u = s.tickTime → 3200000 ≤ ((u.die 0).ptime - 0).toNat)
      (reads (base fun t => { t with pending := some 4 }) 0 (BitVec.allOnes 64)) ∧
    (fun (s : State) => ∀ u, u = s.tickTime → ((u.die 0).ptime - BitVec.allOnes 64).toNat < 3200000)
      (reads (base fun t => { t with pending := some 4, graceAt := BitVec.allOnes 64 }) 0 (BitVec.allOnes 64)) := by
  have h : ∀ s d, ((reads s d (BitVec.allOnes 64)).tickTime.die d).ptime = BitVec.allOnes 64 := fun s d => by
    have l := reads_ptime s d (BitVec.allOnes 64)
    have r := ((reads s d (BitVec.allOnes 64)).tickTime.die d).ptime.isLt
    apply BitVec.eq_of_toNat_eq
    simp only [BitVec.toNat_allOnes] at l ⊢
    omega
  refine ⟨fun u e => ?_, fun u e => ?_⟩ <;> subst e <;> rw [h] <;> decide
/-- Hart 128, on die 1, waits in QPOP and has passed no boundary. -/
def idling : State := State.reset.setHart 128 { Hart.free with run := .running, wait := some ⟨.qpop ⟨3, 4, 5⟩, 0, none, 0, 0⟩ }
theorem witness_Scheduler_boundary : idling.schedules = true ∧ idling.liveDie 1 = true ∧ idling.liveDies.head? ≠ some 1 ∧
    Sparse.wf Hart.free idling.harts = true ∧ (∀ h, (idling.hart h).region = none) ∧ slotDie 128 = 1 ∧
    (idling.hart 128).run = .running ∧ (idling.hart 128).wait = some ⟨.qpop ⟨3, 4, 5⟩, 0, none, 0, 0⟩ ∧
    (1 ∈ idling.timedDies ∧ (idling.die 1).ptime.toNat < 2 ^ 63 ∧ (idling.die idling.timeDie).ptime.toNat < 2 ^ 63 ∧
      (idling.die 1).ptime.toNat ≤ (idling.die idling.timeDie).ptime.toNat + (idling.die 1).dieTerm ∧
      (idling.die idling.timeDie).ptime.toNat ≤ (idling.die 1).ptime.toNat + (idling.die 1).dieTerm) := by
  refine ⟨by decide +kernel, by decide +kernel, by decide +kernel, by decide +kernel, fun h => ?_, rfl, rfl, rfl, by decide +kernel⟩
  have e : idling.harts = [(128, { Hart.free with run := .running, wait := some ⟨.qpop ⟨3, 4, 5⟩, 0, none, 0, 0⟩ })] := rfl
  simp only [State.hart, e, Sparse.get]
  split <;> rfl
theorem witness_Division : ∀ c ∈ ([⟨0, 7, 24, 1, 0⟩, ⟨1, 7, 24, 8, 0⟩] : List Claim), c.demand ∈ [1, 2, 4, 8] := by decide

/-- A fill of 64 bytes at 0x5000 with no clasp word stands first on context 3. -/
def fillCmd (perf : Nat) : EngCmd := ⟨1, .fill 0x5000 7 64, 0, 0, false, perf, [], Xfer.none⟩
def filling (inFlight : Bool) (va : Word) (perf : Nat) : State :=
  (base fun t => t.setCtxSlot 7 { CtxSlot.empty with bound := true, key := 3, issued := 1 }).setCtx 3
    { Ctx.empty with
      hart := some 0
      slot := 7
      ptroot := 0x1000
      inFlight := inFlight
      eng := [{ fillCmd perf with op := .fill va 7 64 }] }
theorem witness_Segments_start : (filling false 0x5000 0).served 8 = some (3, 0) ∧ (base id).served 8 = none := by decide +kernel
theorem witness_Segments_perform : (fun (s : State) => (s.ctx 3).inFlight = true ∧ (s.ctx 3).faulted = false ∧
    (s.ctx 3).eng.length = 1 ∧ (s.ctx 3).hart = some 0 ∧ (s.hart 0).nb = [] ∧ (s.hart 0).drained = true ∧ (s.hart 0).vrf = false ∧
    s.segment (s.ctx 3) (fillCmd 0) = some (.ok ⟨[], (gaRange 0x5000 64).map fun a => ⟨a, false⟩, [],
      (List.replicate 8 [7, 0, 0, 0, 0, 0, 0, 0]).flatten⟩) ∧
    (((fillCmd 0).op.segment 0).map fun g => g.bytes) = some 64 ∧ (∀ a ∈ gaRange 0x5000 64, s.farDev a = none))
      (filling true 0x5000 0) := by decide +kernel
theorem witness_Segments_fault : (filling true 0x10000000 0).segmentFault 3 = some (0x08, 1, 0x10000000) ∧
    ((filling true 0x10000000 0).ctx 3).hart = some 0 ∧ ((filling true 0x5000 0).ctx 3).faulted = false ∧
    (base fun t => { t with sealing := [(2 ^ 14 + 8, 1)] }).me.sealing = [(2 ^ 14 + 8, 1)] := by decide +kernel
/-! #### Collective operations, records, links, time and the controller -/

/-- The root's command of an ordered BCAST among device 0 and device 1 in context 1024 of I/O die A, stamped. -/
def rootCmd (key : Option (Word × Nat × Nat)) : CollCmd := 
  ⟨5, 0x3804000000000008, [0, 1], 0, 0, 0x5000, 0, false, key, true, Xfer.none, none⟩
def rooted (key : Option (Word × Nat × Nat)) (park : Option (Word × Word)) : State :=
  ((base fun t => t.setCtxSlot 8 { CtxSlot.empty with bound := true, key := 1024, issued := 5 }).setCtx 1024
    { Ctx.empty with
      hart := some 0
      ptroot := 0x1000
      parkSince := park
      coll := [rootCmd key] }).setDie 8 { Die.reset with parklim := 0 }
def stamped : State := rooted (some (0#64, 0, 0)) none
def stampedCtx : Ctx :=
  { Ctx.empty with
    hart := some 0
    ptroot := 0x1000
    coll := [rootCmd (some (0#64, 0, 0))] }
theorem witness_Collective_apply : ∀ u : State, u = stamped.tickTime →
    (stamped.ctx 1024).faulted = false ∧ u.dueCmd 1024 = some (rootCmd (some (0#64, 0, 0))) ∧
    (rootCmd (some (0#64, 0, 0))).rank = collRoot (rootCmd (some (0#64, 0, 0))).word ∧
    (stamped.ctx 1024).coll = [rootCmd (some (0#64, 0, 0))] ∧ (stamped.ctx 1024).hart = some 0 ∧ 1024 ≤ 1024 % 2048 := by
  rintro u rfl
  refine ⟨by decide +kernel, ?_, by decide +kernel, by decide +kernel, by decide +kernel, by decide +kernel⟩
  have e : stamped.tickTime.ctxs = [(1024, stampedCtx)] := by
    rw [State.ctxs_tickTime]
    decide +kernel
  generalize stamped.tickTime = u at e ⊢
  have o : collOrdered 4036351166030807048#64 = true := by decide +kernel
  simp [State.dueCmd, State.pendingKeys, State.ctx, e, Sparse.get, stampedCtx, rootCmd, o, keyLe]
/-- Its operation stands at a parked member here, or at a device that has answered so; and at none. -/
def parkedBeside (s : State) : State := s.setCtx 1030 { Ctx.empty with
  hart := some 1
  stopped := true
  coll := [{ rootCmd none with num := 1, rank := 1 }] }
theorem witness_Collective_limit : (fun (s : State) => (s.ctx 1024).current = some (rootCmd none) ∧ (s.ctx 1024).hart = some 0 ∧
    (s.ctx 1024).faulted = false ∧ (s.ctx 1024).stopped = false ∧ Sparse.wf Ctx.empty s.ctxs = true ∧
    s.parkedOp 1024 (rootCmd none) = true ∧ (s.ctx 1024).parkSince = some (4, 0) ∧ s.mailbox.state ≠ .retained ∧
    s.mailbox.state ≠ .resuming) (parkedBeside (rooted none (some (4, 0)))) ∧
    (rooted none (some (4, 0))).parkedOp 1024 (rootCmd none) = false ∧
    ((rooted none none).ctx 1024).parkSince = none ∧ (rooted none none).farDevs [0, 1] ≠ [] ∧
    (rooted none none).failedOp (rootCmd none) = true ∧
    (rooted none none).failedOp { rootCmd none with group := [0] } = false ∧ 1024 ≤ 1024 % 2048 := by
  decide +kernel
theorem witness_Collective_limit_reached (s : State) :
    (0 : Word).toNat ≤ ((s.tickTime.die 8).ptime - 4).toNat := Nat.zero_le _
/-- A contribution of rank 1, of device 1, to an ALLREDUCE of one U32; and a record that brings it. -/
def given : CollMsg := ⟨[0, 1], 0, [1], 0, 0x0020000000000001, [1, 0, 0, 0], 0, 0, 1, 0⟩
def bringing (n : Nat) : Record := ⟨1, 8, 0x0A, 4, 3, false, 9, 0, [1, 0, 0, 0], some ⟨{ given with data := [] }, 0, n⟩⟩
theorem witness_Collective_colldata : (bringing 8).data.length < 8 ∧ (∀ x ∈ (base id).collIn, sameMsg (bringing 4) x = false) ∧
    ([1, 2] : List (BitVec 32)).all (fun e => endDev e != (base id).chip) = true ∧
    (∃ g ∈ (((base id).setCollOp ⟨[0, 1], 0, [given], [], none, 0⟩).collOp given.group given.index).given,
      g.ranks = given.ranks ∧ g.level = given.level) ∧
    given.group.any (fun e => endDev e == (base id).chip) = true ∧ ((base id).collOp given.group given.index).given = [] ∧
    ((base id).collOp given.group given.index).fate = none ∧ (base id).opCmds given.group given.index = [] ∧
    collOrdered given.word = false ∧ collNodes given.word = false ∧ (∀ c ∈ (base id).ctxs, c.2.coll = []) ∧
    (∃ g ∈ (((base id).setCollOp ⟨[0, 1], 0, [{ given with word := 1 }], [], none, 0⟩).collOp given.group given.index).given,
      g.word ≠ given.word) := by decide +kernel
/-- Another device's BCAST, at its member here; its buffer in the second page of 2^28 bytes. -/
def memberCmd : CollCmd := { rootCmd (some (0#64, 0, 0)) with group := [1, 0], rank := 1, buf := 0x10005000 }
def sent1 : CollMsg := ⟨[1, 0], 0, [0], 0, 0x3804000000000008, [7, 7, 7, 7, 7, 7, 7, 7], 0, 0, 1, 0⟩
theorem find_sent (n : Nat) : ((([⟨[1, 0], 0, [sent1], [], none, 0⟩] : List CollOp).find? fun o =>
    decide (o.group = [1, 0] ∧ o.index = 0)).getD ⟨[1, 0], 0, [], [], none, n⟩).given.find?
      (fun x => x.ranks.contains (collRoot memberCmd.word)) = some sent1 := by
  have e : ([⟨[1, 0], 0, [sent1], [], none, 0⟩] : List CollOp).find? (fun o => decide (o.group = [1, 0] ∧ o.index = 0)) =
    some ⟨[1, 0], 0, [sent1], [], none, 0⟩ := by decide +kernel
  rw [e]
  simp only [Option.getD_some]
  decide +kernel
def toApply : State :=
  (((rooted none none).setDie 0 { Die.reset with cycle := 1 }).setCtx 1024 { stampedCtx with coll := [memberCmd] }).setCollOp
    ⟨[1, 0], 0, [sent1], [], none, 0⟩
theorem paged_tickTime (s : State) : (paged s).tickTime = paged s.tickTime := rfl
/-- What a second page and the passing of time leave alone. -/
theorem paged_same (s : State) : (∀ k, (paged s).ctx k = s.ctx k) ∧ (paged s).collOps = s.collOps ∧
    (∀ a, (paged s).failedHome a = s.failedHome a) ∧ ∀ a, (paged s).poisoned a = s.poisoned a :=
  ⟨fun _ => rfl, rfl, fun _ => rfl, fun _ => rfl⟩
theorem tickTime_same (s : State) : (∀ k, s.tickTime.ctx k = s.ctx k) ∧ s.tickTime.collOps = s.collOps ∧
    (∀ a, s.tickTime.failedHome a = s.failedHome a) ∧ (∀ a, s.tickTime.poisoned a = s.poisoned a) ∧
    (∀ q k, s.tickTime.peerOf q k = s.peerOf q k) ∧ (∀ b q k, s.tickTime.usable b q k = s.usable b q k) ∧
    s.tickTime.epoch = s.epoch ∧ s.tickTime.drained = s.drained ∧ s.tickTime.mailbox = s.mailbox :=
  ⟨fun _ => rfl, rfl, fun _ => rfl, fun _ => rfl, fun _ _ => rfl, fun _ _ _ => rfl, rfl, rfl, rfl⟩
theorem out_tickTime (s : State) (d : Nat) : (s.tickTime.die d).out = (s.die d).out := by rw [State.die_tickTime]
theorem open_tickTime (s : State) (q : Open0 s) : Open0 s.tickTime := ⟨(out_tickTime s 0).trans q.1, q.2⟩
theorem witness_Collective_apply_member (u : State) (h : u = (paged toApply).tickTime) :
    memberCmd.rank ≠ collRoot memberCmd.word ∧ memberCmd.xfer = Xfer.none ∧
    (u.collOp [1, 0] 0).given.find? (fun x => x.ranks.contains (collRoot memberCmd.word)) = some sent1 ∧
    ∃ locs, u.segSide ((u.ctx 1024).party memberCmd.user) .bulkWr 1 (memberCmd.buf + 0) sent1.data.length = .ok locs ∧
      ∀ l ∈ locs, toApply.farDev l.ga = none := by
  have e : u = paged toApply.tickTime := h.trans (paged_tickTime _)
  have o : Open0 toApply.tickTime := open_tickTime _ (by decide +kernel)
  have p : (u.ctx 1024).party memberCmd.user = party0 := by
    rw [e, (paged_same _).1, (tickTime_same _).1]; decide +kernel
  have g : u.collOps = [⟨[1, 0], 0, [sent1], [], none, 0⟩] := by
    rw [e, (paged_same _).2.1, (tickTime_same _).2.1]; decide +kernel
  have r := paged_checkRange toApply.tickTime .bulkWr 0x10005000 8 o (by decide) (by decide)
  refine ⟨by decide +kernel, by decide +kernel, ?_, ?_⟩
  · simp only [State.collOp, g]; generalize u.fresh = n; exact find_sent n
  · refine ⟨(List.range 8).map fun i => ⟨0x5000 + i, false⟩, ?_, by decide +kernel⟩
    have r : u.checkRange party0 .bulkWr false (memberCmd.buf + 0) sent1.data.length =
        .ok ((List.range 8).map fun i => ⟨0x5000 + i, false⟩) := by
      rw [e]; exact r
    have f : ∀ a, u.failedHome a = toApply.failedHome a := fun a => by
      rw [e, (paged_same _).2.2.1, (tickTime_same _).2.2.1]
    have w : ∀ a, u.poisoned a = false := fun a => by
      have : toApply.poison = [] := by decide +kernel
      rw [e, (paged_same _).2.2.2, (tickTime_same _).2.2.2.1, State.poisoned, this]; rfl
    simp only [State.segSide, p, r, f, w]
    have a : (List.map (fun i => (⟨0x5000 + i, false⟩ : Loc)) (List.range 8)).findIdx?
        (fun l => (toApply.failedHome l.ga).isSome) = none := by decide +kernel
    have b : ∀ (q : Loc → Bool), (List.map (fun i => (⟨0x5000 + i, false⟩ : Loc)) (List.range 8)).findIdx?
        (fun l => false && q l) = none := fun q => by simp only [Bool.false_and]; decide +kernel
    rw [a]
    dsimp only
    rw [b]

/-- A record of hart 3 of device 1 for the last bytes of a word of this device's memory. -/
def rec1 (data : List Byte) : Record := ⟨1, 0, 2, data.length, 3, true, 9, 0x5FF8, data, none⟩
/-- ADD of 5 to the U32 there, with the old value returned. -/
def addFive : Record := rec1 (natBytes 8 (0x100 + 0x20) ++ natBytes 4 5)
theorem witness_Records : recordIsReg (rec1 (natBytes 8 7)) = false ∧
    (base id).homed (rec1 (natBytes 8 7)) 8 = true ∧ (∀ b ∈ gaRange 0x5FF8 8, (base id).poisoned b = false) ∧
    (base id).homed (rec1 (natBytes 16 7)) (16 / 2) = true ∧ (base id).pendSeals = [] ∧
    (∀ b ∈ gaRange 0x5FF8 8, (base id).mustWait b = false) ∧ (base id).poisonedAt 0x5FF8 8 = false ∧
    bytesNat (addFive.data.take 8) % 16 = 0 ∧ typeWidth (BitVec.ofNat 4 (bytesNat (addFive.data.take 8) / 16)) / 8 = 4 ∧
    (base id).homed addFive 4 = true ∧ (base id).headers.contains ((base id).canon 0x5FF8) = false ∧ recordOfHart addFive = true ∧ (bytesNat (addFive.data.take 8)).testBit 8 = true := by decide +kernel
theorem witness_Records_seals : (fun (r : Record) => r.addr.toNat % 2 ^ 32 ≤
      Sparse.get 0 ({ base id with sealCount := [(recordSource r, 2)] }).sealCount (recordSource r)) { rec1 [] with addr := 2 } ∧
    ¬ (({ rec1 [] with addr := 3 } : Record).addr.toNat % 2 ^ 32 ≤ Sparse.get 0 (base id).sealCount (recordSource (rec1 []))) ∧
    (rec1 []).srcDev ≠ (base id).chip ∧ (base id).homeDie (rec1 []).addr.toNat = 0 ∧
    (fun (s : State) => (s.perfacks.filter fun r => s.homeDie r.addr.toNat = 0).head? = some (rec1 []))
      { base id with perfacks := [rec1 []] } := by decide +kernel

/-- A frame of one record from device 1 to a device, with a SEQ and, or else for an onward hop. -/
def frameOf (dev : Nat) (relay : Bool) (seq : BitVec 24) (ackonly rst : Bool) : Frame :=
  ⟨none, fwdHeader dev 0 1 1 relay, 0x88B5, connHeader seq 0 false ackonly rst (if ackonly then 0 else 1), 0, [], true,
    if ackonly then [] else [rec1 (natBytes 8 7)]⟩
def frame1 (seq : BitVec 24) : Frame := frameOf 0 false seq false false
/-- The connection to device 1 after a frame of it has been heard. -/
def heard (c : Conn) : Conn := (((base id).setConn 1 c).hear 1).conn 1
theorem witness_Connections_receive : (fun (s : State) => s.asleep = false ∧ s.takesFrame 0 (frame1 0) = true ∧
      s.switched 0 = false ∧ s.malformed { frame1 0 with good := false } = true ∧
      s.malformed (frame1 0) = false ∧ s.malformed (frameOf 2 true 0 false false) = false ∧
      s.malformed (frameOf 2 false 0 false false) = false ∧ s.malformed (frameOf 0 false 0 true false) = false ∧
      s.malformed (frameOf 0 false 0 true true) = false) (base id) ∧
    (frame1 0).ddev = (base id).chip ∧ (frame1 0).sdev = 1 ∧ (frame1 0).cls ≠ 3 ∧ (frameOf 2 true 0 false false).relay = true ∧
    (frameOf 0 false 0 true true).rst = true ∧ (frameOf 0 false 0 true true).ackonly = true ∧
    (base id).takesFrame 36 (frame1 0) = false ∧
    (fun (s : State) => s.asleep = true) { base id with mailbox := { Mailbox.reset with state := .retained } } := by
  decide +kernel
theorem heard_conn (s : State) (c : Conn) : (s.setConn 1 c).hear 1 = ((s.setConn 1 c).tickTime).setConn 1 { c with
    heard := ((s.setConn 1 c).tickTime.die ((s.setConn 1 c).tickTime.connDie 1)).ptime
    pathAt := ((s.setConn 1 c).tickTime.die ((s.setConn 1 c).tickTime.connDie 1)).ptime } := by
  have k : (s.setConn 1 c).tickTime.conn 1 = c := by
    show Sparse.get Conn.reset (Sparse.set Conn.reset s.conns 1 c) 1 = c
    simp
  simp only [State.hear, k]
theorem witness_Connections_received (c : Conn) : (heard c).down = c.down ∧ (heard c).spilled = c.spilled ∧ (heard c).expect = c.expect ∧
    (heard c).got = c.got ∧ (heard c).early = c.early ∧ (heard c).readmit = c.readmit ∧ (heard c).rstSent = c.rstSent ∧
    (heard c).nextSeq = c.nextSeq := by
  have k : ∀ (s : State) (x : Conn), (s.setConn 1 x).conn 1 = x := fun s x => by simp [State.conn, State.setConn]
  rw [heard, heard_conn, k]
  exact ⟨rfl, rfl, rfl, rfl, rfl, rfl, rfl, rfl⟩
theorem witness_Connections_seq : (frame1 0).seq = Conn.reset.expect ∧ seqBefore (frame1 0xFFFFFF).seq Conn.reset.expect = true ∧
    32 ≤ { Conn.reset with ackDue := 31 }.ackDue + 1 := by decide +kernel
/-- Device 0 with a connection to device 1, by Ethernet switches. -/
def linked (c : Conn) : State := { (base id).setConn 1 c with peers := [0, 1], swmode := true }
/-- A record of the unordered class that waits. -/
def going : Outgoing := ⟨1, false, 0, rec1 [7]⟩
theorem witness_Connections_send : (fun (s : State) => 1 ≠ s.chip ∧ s.iodUp 8 = true ∧ s.asleep = false ∧
      (s.conn 1).down = false ∧ (s.conn 1).failed = false ∧ (s.conn 1).spilled = false ∧ (∀ x ∈ s.collOut, x.dest ≠ 1) ∧
      (s.conn 1).waiting = [going] ∧ frameful going.cls going.die 16 2048 (s.conn 1).waiting = [going] ∧
      (s.conn 1).unacked.length < 512 ∧ s.tickTime.way 8 1 going.cls (28 + recsBytes [going.rcd]) false false = some none ∧
      s.tickTime.way 8 1 going.cls 28 false true = some none ∧ s.tickTime.way 8 1 2 28 false false = some none)
      (linked { Conn.reset with waiting := [going] }) ∧
    (fun (c : Conn) => c.unacked = [(false, frame1 0)] ∧ (frame1 0).seq ∈ c.again)
      { Conn.reset with unacked := [(false, frame1 0)], again := [0] } ∧
    (fun (c : Conn) => c.rstWant = true ∧ c.down = true ∧ c.readmit = true ∧ c.rstGot = true)
      { Conn.reset with rstWant := true, down := true, readmit := true, rstGot := true } ∧
    (fun (s : State) => 0 < (s.conn 1).ackDue ∧ (s.conn 1).up = true ∧ (s.conn 1).unacked ≠ [] ∧ (s.conn 1).failed = false ∧
      (s.conn 1).spilled = false ∧ s.asleep = false ∧ ∀ e ∈ s.harts, e.2.owed 1 = false ∧ ∀ x ∈ e.2.sealing, x.1 ≠ 1)
      (linked { Conn.reset with up := true, ackDue := 1, unacked := [(false, frame1 0)], expiries := 7 }) ∧
    (fun (s : State) => (s.conn 1).readmit = true ∧ (s.conn 1).down = true ∧ 1 ∈ s.peers ∧ s.faces 1 = false)
      (linked { Conn.reset with readmit := true, down := true }) ∧
    (fun (s : State) => (s.conn 1).up = true ∧ (s.conn 1).spilled = true ∧ (s.conn 1).arrived = [])
      (linked { Conn.reset with up := true, spilled := true }) := by
  decide +kernel
/-- The retry timer, the silence of a peer and the keepalive at the end of their times: the largest reading. -/
theorem ptime_full (s : State) (d : Nat) (h : (s.die d).ptime = BitVec.allOnes 64) : s.tickTime.die d = s.die d := by
  have l := s.ptime_tickTime d
  have r := (s.tickTime.die d).ptime.isLt
  rw [h] at l
  have e : (s.tickTime.die d).ptime = (s.die d).ptime := by
    rw [h]
    apply BitVec.eq_of_toNat_eq
    simp only [BitVec.toNat_allOnes] at l ⊢
    omega
  rw [State.die_tickTime, e]
theorem witness_Connections_timers : ∀ (s u : State), s = reads (linked { Conn.reset with
    up := true, unacked := [(false, frame1 0)] }) ((linked Conn.reset).connDie 1) (BitVec.allOnes 64) → u = s.tickTime →
    16000 * (s.conn 1).retryUs ≤ ((u.die (s.connDie 1)).ptime - (s.conn 1).retryAt).toNat ∧
    32000000 ≤ ((u.die (s.connDie 1)).ptime - (s.conn 1).heard).toNat ∧
    8000000 ≤ ((u.die (s.connDie 1)).ptime - (s.conn 1).sentAt).toNat := by
  rintro s u rfl rfl
  rw [ptime_full _ _ (by decide +kernel)]
  decide +kernel
/-- Device 0 with a frame to relay to device 1, which port 0 faces in slot 0; PTIME is the largest reading, 1,000 units of a slot. -/
def relaying : State := reads { base id with
  relay := [(false, (frameOf 1 true 0 false false).hopped)]
  epoch := BitVec.allOnes 64 - 1000 } 8 (BitVec.allOnes 64)
theorem witness_Connections_relay (u : State) (h : u = relaying.tickTime) :
    (diePorts 8).find? (fun q => decide (u.peerOf q (slotShift q (u.slotOf q)) = 1) &&
      u.usable false q (slotShift q (u.slotOf q)) && u.canStart 8 (frameOf 1 true 0 false false).size) = some 0 ∧
    (frameOf 1 true 0 false false).hopped.ddev = 1 ∧ u.silent = false ∧ u.asleep = false ∧ u.swmode = false := by
  have p : ∀ q k, u.peerOf q k = relaying.peerOf q k := fun q k => by rw [h, (tickTime_same _).2.2.2.2.1]
  have w : ∀ q k, u.usable false q k = relaying.usable false q k := fun q k => by rw [h, (tickTime_same _).2.2.2.2.2.1]
  have o : ∀ q, u.slotOf q = relaying.slotOf q := fun q => by rw [h, State.slotOf, State.die_tickTime]; rfl
  have c : ∀ n, u.canStart 8 n = relaying.canStart 8 n := fun n => by
    have e : u.die 8 = relaying.die 8 := by rw [h]; exact ptime_full _ _ (by decide +kernel)
    have f : u.epoch = relaying.epoch := by rw [h, (tickTime_same _).2.2.2.2.2.2.1]
    simp only [State.canStart, e, f]
  refine ⟨?_, by decide +kernel, by rw [h]; decide +kernel, by rw [h]; decide +kernel, by rw [h]; decide +kernel⟩
  simp only [p, w, o, c]
  decide +kernel
theorem witness_Channels : (fun (h : Hold) => h.writer < 10 ∧ h.writer ≠ 0 ∧ h.good = true ∧
      (((base id).die 0).chan 7).accepting = true ∧ h.gen = (((base id).die 0).chan 7).gen ∧
      h.seq = Sparse.get 0 (((base id).die 0).chan 7).seqs h.writer) ⟨9, 0, false, true, [(true, rec1 [7])]⟩ ∧
    (((base id).setChan 0 7 { Chan.reset with accepting := false }).die 0).chan 7 = { Chan.reset with accepting := false } ∧
    (((base id).die 0).chan 7).at 0 = 1 ∧
    Chan.reset.again.find? (fun x => x.writer = 1) = none ∧
    ({ Chan.reset with again := [⟨1, 0, false, true, []⟩] } : Chan).again.find? (fun x => x.writer = 1) = some ⟨1, 0, false, true, []⟩ ∧
    (fun (s : State) => s.flying 0 7 9 = some (0, 7, ⟨9, 0, false, true, [(true, rec1 [7])]⟩))
      { base id with holdsOut := [(0, 7, ⟨9, 0, false, true, [(true, rec1 [7])]⟩)] } ∧ (base id).flying 0 7 9 = none ∧
    (128 ≤ ((0 : BitVec 8) - 1).toNat ∧ ((1 : BitVec 8) - 0).toNat < 128) ∧
    (base id).swmode = false ∧ 71 ∈ diePorts 9 ∧ (fun (k : Nat) => k = (base id).slotPair 71 ∧ Sparse.get 0 (base id).training k = 0 ∧
      k ∉ (base id).spent) (pairKey 71 36) := by decide +kernel
theorem witness_Registers : (base id).liveDie 7 = true ∧
    (fun (s : State) => 1 = ((1 : Word).extractLsb' 0 14).toNat ∧ 1 ∈ s.peers ∧ (s.conn 1).down = true)
      (linked { Conn.reset with down := true }) ∧
    (fun (s : State) => (s.hart 0).run ≠ .free ∧ (s.hart 0).priv = .supervisor ∧ (s.hart 0).secure = true)
      (base fun t => t.setCsr 0x107 0x10000) ∧ (base id).me.secure = false ∧
    (fun (s : State) => s.bar2Open (2 ^ 41 - 8) 8 = true ∧ s.bar2Waits (2 ^ 41 - 8) 8 = false ∧
      s.poisonedAt (s.bar2Ga (2 ^ 41 - 8)) 8 = false ∧ s.hasLink 8 = true ∧ s.posted = [] ∧ s.hasLink 9 = false ∧
      (∀ b ∈ gaRange (s.bar2Ga (2 ^ 41 - 8)) 8, s.poisoned b = false) ∧
      s.postedReady [⟨8, false, 0, 0, []⟩] ⟨8, false, 0, 0, []⟩ = false ∧ s.postedReady [] ⟨8, true, 0, 0, []⟩ = true)
      { base id with bootStep := 3 } ∧
    (fun (s : State) => ∃ p ∈ (s.flushPosted 8).posted, p.link = 8)
      { (base id).setDie 0 { Die.reset with out := true } with posted := [⟨8, false, 2, 0, [1]⟩] } := by decide +kernel

/-- A message of device 1, the parent; and the bytes of an announcement, with those of a reserved TYPE. -/
def time1 : TimeMsg := ⟨1, 127, 0, 1, 100, 5⟩
theorem witness_Time : (7 : Nat) ≠ (base id).timeDie ∧ ((base id).die 7).sync = false ∧ time1.src ≠ (base id).chip ∧
    (fun (s : State) => s.time.parent.toNat = time1.src ∧ s.time.parent.toNat ≠ s.chip ∧ s.time.src = false ∧ time1.seq = s.time.seq)
      { base id with time := { (base id).time with parent := 1 } } ∧
    (base id).oneHop 1 = true ∧ (base id).asleep = false ∧ (base id).time.terms = [] ∧ ((base id).conn 1).failed = false ∧
    ((base id).conn 1).down = false ∧
    (base id).time.heard = [] ∧ (base id).time.gmpri ≠ 255 ∧ (base id).chip < 2 ^ 14 ∧ time1.gmdev.toNat ≠ (base id).chip ∧
    ({ base id with time := { (base id).time with heard := [(127, 1, 5)] } } : State).time.heard = [(127, 1, 5)] ∧
    (fun (s : State) => s.parents = [(1, 7)] ∧ ∀ e ∈ s.time.terms, e.1 < 2 ^ 14)
      { base id with time := { (base id).time with terms := [(1, 7)] } } ∧
    (timeMessage 1 (4 :: List.replicate 31 0)).map (·.1) = some 4 ∧ timeMessage 1 (5 :: List.replicate 31 0) = none := by
  decide +kernel
/-- The times of the exchange, of holdover and of an announcement's age at their ends: the largest reading. -/
theorem witness_Time_ages (d : Nat) (s u : State) (h : (s.die d).ptime = BitVec.allOnes 64) (k : u = s.tickTime) :
    64000000 ≤ ((u.die d).ptime - 0).toNat ∧ ((u.die d).ptime - BitVec.allOnes 64).toNat < 160000 := by
  rw [k, ptime_full s d h, h]
  decide

/-- The controller has a command to perform. -/
def asked (c : Byte) (st : SuspState) : State :=
  { base id with
    bootStep := 6
    mailbox := { Mailbox.reset with cmd := c, state := st, args := [(1, 100), (2, 0x3000)] } }
theorem witness_Controller : [0x01, 0x02, 0x10, 0x11, 0x12, 0x20, 0x21, 0x30, 0x31].all (fun c => [SuspState.run, .armed,
      .retained].all fun st => (fun (m : Mailbox) => decide (m.cmd = c ∧ m.done = false ∧ m.nonsecure = false ∧ m.state = st ∧
        1 ≤ (asked c st).bootStep)) (asked c st).mailbox) = true ∧
    (asked 0x20 .run).iodUp (17 - 8) = true ∧
    (fun (g : Nat) => gaHost (g * 2 ^ 21) = false ∧ gaKind (g * 2 ^ 21) = 0 ∧ gaChip (g * 2 ^ 21) = (asked 0x31 .run).chip ∧
      (asked 0x31 .run).pagePopulated (g * 2 ^ 21) (2 ^ 21) = true ∧ Sparse.get 0 (asked 0x31 .run).granuleOwner g ≠ 5 + 1)
      (2 ^ 17 - 1) := by decide +kernel
theorem witness_Controller_suspend (u : State) (h : u = (reads (asked 0x10 .run) 8 (BitVec.allOnes 64)).tickTime) :
    ¬ ((u.die 8).ptime < (reads (asked 0x10 .run) 8 (BitVec.allOnes 64)).arg 0) ∧
    (reads (asked 0x10 .run) 8 (BitVec.allOnes 64)).timeDie = 8 ∧
    (u.die 8).ptime < ({ asked 0x10 .run with mailbox := { (asked 0x10 .run).mailbox with args := [(0, 0)] } }.arg 0) - 1 ∨
    (u.die 8).ptime = BitVec.allOnes 64 := by
  right
  rw [h, ptime_full _ _ (by decide +kernel)]
  decide +kernel
/-- Between ARMED and RUN; no hart runs. -/
def suspending (st : SuspState) (quiet : List Nat) (t : Word) : State :=
  reads { State.reset with mailbox := { Mailbox.reset with
    state := st, deadline := 100, quiet := quiet, resumeAt := some 200 } } 8 t
theorem witness_Controller_states : ∀ u : State,
    (u = (suspending .armed [] 100).tickTime → u.quiesceDue ≠ []) ∧
    (u = (suspending .quiesce [0] 16000000100).tickTime → (100 : Word).toNat + 16000000000 ≤ (u.die 8).ptime.toNat) ∧
    (u = (suspending .retained [] 200).tickTime → (200 : Word) ≤ (u.die 8).ptime) ∧
    (suspending .armed [] 100).timeDie = 8 := by
  intro u
  refine ⟨?_, ?_, ?_, by decide +kernel⟩
  · intro h e
    have m : 8 ∈ u.quiesceDue := by
      have l := reads_ptime { State.reset with mailbox := { Mailbox.reset with
        state := .armed, deadline := 100, quiet := [], resumeAt := some 200 } } 8 100
      have t8 : 8 ∈ u.timedDies := by
        have o : ∀ d, (u.die d).out = ((suspending .armed [] 100).die d).out := fun d => by rw [h, out_tickTime]
        have r : u.drained = (suspending .armed [] 100).drained := by rw [h, (tickTime_same _).2.2.2.2.2.2.2.1]
        simp only [State.timedDies, o, r]
        decide +kernel
      have b : u.mailbox = (suspending .armed [] 100).mailbox := by rw [h, (tickTime_same _).2.2.2.2.2.2.2.2]
      have c : (100 : Word) ≤ (u.die 8).ptime := by rw [h, BitVec.le_def]; exact l
      have b1 : u.mailbox.reached = [] := by rw [b]; rfl
      have b2 : u.mailbox.deadline = 100 := by rw [b]; rfl
      simp only [State.quiesceDue, List.mem_filter, b1, b2]
      exact ⟨t8, by simpa using c⟩
    rw [e] at m
    cases m
  · intro h
    rw [h]
    exact Nat.le_trans (by decide) (reads_ptime _ 8 16000000100)
  · intro h
    rw [h, BitVec.le_def]
    exact reads_ptime _ 8 _
theorem witness_Controller_quiet : (fun (s : State) => s.mailbox.state = .quiesce ∧ 1 ≠ s.chip ∧ 1 ∉ s.mailbox.quiet ∧
      s.chip ∉ s.mailbox.quiet) (suspending .quiesce [] 0) ∧ (suspending .quiesce [0] 0).suspendSet = [0] ∧
    (suspending .quiesce [0] 0).mailbox.quiet = [0] ∧ (suspending .saving [] 0).activeHarts = [] ∧
    (suspending .armed [] 0).harts = [] ∧ (suspending .armed [] 0).ctxs = [] ∧ (suspending .resuming [] 0).lockets = [] := by
  decide +kernel
theorem witness_Controller_service : ({ State.reset with bootStep := 7 } : State).bootStep = 7 ∧ State.reset.liveDie 0 = true ∧
    (fun (a : Nat) => gaHost a = false ∧ gaKind a ∈ [0, 1, 4] ∧ gaChip a = State.reset.chip ∧
      State.reset.pagePopulated a 1 = true ∧ State.reset.homeDie a = 7 ∧ State.reset.poisoned a = false ∧
      (State.reset.die 7).err0 = 0) (7 * 2 ^ 45 + 2 ^ 38 - 1) := by decide +kernel

/-- The example of the published standard: the hash of "abc". -/
theorem test_sha512 : sha512 [0x61, 0x62, 0x63] = 0xDDAF35A193617ABACC417349AE20413112E6FA4E89A97EA20A9EEEE64B55D39A#256 ++
    0x2192992A274FC1A836BA3C23A3FEEBBD454D4423643CE80E2A9AC94FA54CA49F#256 := by
  decide +kernel

/-- Hart 0's turn, with ADDI x5, x0, 7 at its pc. -/
theorem witness_StepRuns : ∃ (s' v : State), (State.reset.withFetchWord 32 0x02A00007).turn = some (s', .hart 0) ∧
    ({ s' with cur := 0 } : State).hartTask = .fetch ∧
    ({ s' with cur := 0 } : State).beforeFetch.fetched = .ok (v, 0x02A00007#32) ∧
    decode 0x02A00007#32 = .ok (.addi ⟨10, 0, 7⟩) ∧ wellFormed (.addi ⟨10, 0, 7⟩) = true :=
  ⟨_, _, rfl, by decide +kernel, rfl, by decide +kernel, by decide +kernel⟩
theorem witness_StepRuns_illformed : ∃ (s' v : State), (State.reset.withFetchWord 32 0).turn = some (s', .hart 0) ∧
    ({ s' with cur := 0 } : State).hartTask = .fetch ∧ ({ s' with cur := 0 } : State).beforeFetch.fetched = .ok (v, 0#32) ∧
    decode 0#32 = .error .reservedFunction := ⟨_, _, rfl, by decide +kernel, rfl, by decide +kernel⟩
theorem witness_StepRuns_turn : (State.reset.withFetchWord 32 0).next = some (.hart 0) ∧
    ({ State.reset.withFetchWord 32 0 with next := none } : State).agents = [.hart 0] ∧
    Plain (base id) .fetch (base id).me.pc 4 (gaRange 0x4000 4) := by
  unfold Plain
  decide +kernel
theorem witness_EveryStep : Memory.wf State.reset.mem = true ∧
    ∃ t, step { State.reset with inputs := [.boot], next := some .input } = .next t := ⟨by decide +kernel, _, rfl⟩
end Sys2Proof.Tests
end

section
/-!
# Memory stays in its canonical form

Every operation of the model that a step uses keeps memory in its canonical form. One lemma an operation, in the order of the
definitions: each follows its definition's branches and cites the lemmas of the operations that it uses. Memory itself changes only in
the operations for which the laws of the state have said it already (`State.writeByte_wf` and what is built on it); everything else
updates other fields.
-/
namespace Sys2Proof.Machine

/-- Memory of a state is in its canonical form (log entry 2). -/
def State.MemWf (s : State) : Prop := Memory.wf s.mem = true

/-- Memory of the next state, where there is one, is in its canonical form. -/
inductive Out.MemWf : Out → Prop
  | next {s : State} (hs : s.MemWf) : Out.MemWf (.next s)
  | fault (r : Fault) : Out.MemWf (.fault r)
  | refused (r : Refusal) : Out.MemWf (.refused r)

/-- Memory of the state that an act of a queued instruction leads to is in its canonical form. -/
inductive VOut.MemWf : VOut → Prop
  | done {s : State} {f : Flags} (hs : s.MemWf) : VOut.MemWf (.done s f)
  | fault {s : State} {c : Byte} {v : Word} {r : Nat} {f : Flags} (hs : s.MemWf) : VOut.MemWf (.fault s c v r f)
  | wait {s : State} {va : Word} (hs : s.MemWf) : VOut.MemWf (.wait s va)
  | later {s : State} (hs : s.MemWf) : VOut.MemWf (.later s)

/-- A condition on what an operation that may stop answers: one on its error, one on its value. -/
inductive Tried {ε α : Type} (p : ε → Prop) (q : α → Prop) : Except ε α → Prop
  | error {e : ε} (h : p e) : Tried p q (.error e)
  | ok {a : α} (h : q a) : Tried p q (.ok a)

/-- A condition on what is answered, where anything is. -/
inductive Given {α : Type} (p : α → Prop) : Option α → Prop
  | none : Given p .none
  | some {a : α} (h : p a) : Given p (.some a)

/-- Every act of a queued instruction keeps memory in its canonical form. -/
def Queued.MemWf (q : Queued) : Prop := ∀ {s : State} {e : QEntry}, s.MemWf → (q.act s e).MemWf

section
variable {s t : State}

namespace State.MemWf

/-- The form depends on memory alone. -/
theorem of_eq (e : t.mem = s.mem) (hs : s.MemWf) : t.MemWf := by unfold MemWf; rw [e]; exact hs

/-- `of_eq` with the state that is updated given first, for where it is known. -/
theorem update (hs : s.MemWf) (e : t.mem = s.mem) : t.MemWf := of_eq e hs

theorem ite {c : Prop} {_ : Decidable c} (hs : s.MemWf) (ht : t.MemWf) : (if c then s else t).MemWf := by
  split <;> assumption

theorem ite_fst {α : Type} {c : Prop} {_ : Decidable c} {p q : State × α} (hp : p.1.MemWf) (hq : q.1.MemWf) :
    (if c then p else q).1.MemWf := by
  split <;> assumption

theorem of_pair {α : Type} {p : State × α} {a : α} (hp : p.1.MemWf) (e : p = (t, a)) : t.MemWf := by
  subst e; exact hp

theorem foldl {α : Type} {f : State → α → State} {l : List α} (hs : s.MemWf)
    (keeps : ∀ {t a}, t.MemWf → (f t a).MemWf) : (l.foldl f s).MemWf :=
  Memory.wf_foldl (fun _ _ ht => keeps ht) l hs

theorem foldl_fst {α β : Type} {f : State × β → α → State × β} {l : List α} {p : State × β}
    (hp : p.1.MemWf) (keeps : ∀ {p a}, p.1.MemWf → (f p a).1.MemWf) : (l.foldl f p).1.MemWf := by
  induction l generalizing p with
  | nil => exact hp
  | cons a t ih => exact ih (keeps hp)

theorem map_getD {α : Type} {f : α → State} {o : Option α} (hs : s.MemWf) (hf : ∀ {a}, (f a).MemWf) :
    ((o.map f).getD s).MemWf := by
  cases o with
  | none => exact hs
  | some a => exact hf

theorem elim {α : Type} {f : α → State} {o : Option α} (hs : s.MemWf) (hf : ∀ {a}, (f a).MemWf) :
    (o.elim s f).MemWf := by
  cases o with
  | none => exact hs
  | some a => exact hf

end State.MemWf

theorem Out.MemWf.of_next {o : Out} (h : o.MemWf) (e : o = .next s) : s.MemWf := by subst e; cases h; assumption

theorem Out.MemWf.ite {c : Prop} {_ : Decidable c} {a b : Out} (ha : a.MemWf) (hb : b.MemWf) :
    Out.MemWf (if c then a else b) := by
  split <;> assumption

namespace VOut.MemWf

theorem ite {c : Prop} {_ : Decidable c} {a b : VOut} (ha : a.MemWf) (hb : b.MemWf) : (if c then a else b).MemWf := by
  split <;> assumption

variable {o : VOut} {c : Byte} {v : Word} {r : Nat} {f : Flags}

theorem of_done (h : o.MemWf) (e : o = .done s f) : s.MemWf := by subst e; cases h; assumption
theorem of_fault (h : o.MemWf) (e : o = .fault s c v r f) : s.MemWf := by subst e; cases h; assumption
theorem of_wait (h : o.MemWf) (e : o = .wait s v) : s.MemWf := by subst e; cases h; assumption
theorem of_later (h : o.MemWf) (e : o = .later s) : s.MemWf := by subst e; cases h; assumption

end VOut.MemWf

namespace Tried

variable {ε α : Type} {p : ε → Prop} {q : α → Prop} {r : Except ε α}

theorem ite {c : Prop} {_ : Decidable c} {r' : Except ε α} (h : Tried p q r) (h' : Tried p q r') :
    Tried p q (if c then r else r') := by
  split <;> assumption

theorem of_error {e : ε} (h : Tried p q r) (eq : r = .error e) : p e := by subst eq; cases h; assumption
theorem of_ok {a : α} (h : Tried p q r) (eq : r = .ok a) : q a := by subst eq; cases h; assumption

end Tried

namespace Given

variable {α : Type} {p : α → Prop} {o : Option α}

theorem ite {c : Prop} {_ : Decidable c} {o' : Option α} (h : Given p o) (h' : Given p o') :
    Given p (if c then o else o') := by
  split <;> assumption

theorem map {β : Type} {q : β → Prop} {f : α → β} (h : Given p o) (hf : ∀ {a}, p a → q (f a)) :
    Given q (o.map f) := by
  cases h with
  | none => exact .none
  | some ha => exact .some (hf ha)

theorem map_of_forall {β : Type} {q : β → Prop} {f : α → β} {o : Option α} (hf : ∀ {a}, q (f a)) :
    Given q (o.map f) := by
  cases o with
  | none => exact .none
  | some a => exact .some hf

theorem or {o' : Option α} (h : Given p o) (h' : Given p o') : Given p (o.or o') := by
  cases h with
  | none => exact h'
  | some ha => exact .some ha

theorem of_some {a : α} (h : Given p o) (e : o = .some a) : p a := by subst e; cases h; assumption

end Given

end

section
variable {s t : State}

/-! ### Machine/Ops -/

theorem State.MemWf.setHart {h t} (hs : s.MemWf) : (s.setHart h t).MemWf := by
  unfold State.setHart
  exact hs.update rfl

theorem State.MemWf.withMe {g} (hs : s.MemWf) : (s.withMe g).MemWf := by
  unfold State.withMe
  exact hs.setHart

theorem State.MemWf.raise {cause tval} (hs : s.MemWf) : (s.raise cause tval).MemWf := by
  unfold State.raise
  exact hs.withMe

theorem State.MemWf.writeByte {ga b} (hs : s.MemWf) : (s.writeByte ga b).MemWf :=
  State.writeByte_wf hs ga b

theorem State.MemWf.writeAt {l v} (hs : s.MemWf) : (s.writeAt l v).MemWf :=
  State.writeAt_wf hs l v

theorem State.MemWf.writeGa {ga n v} (hs : s.MemWf) : (s.writeGa ga n v).MemWf :=
  State.writeGa_wf hs ga n v

theorem State.MemWf.writeBytes {ga bs} (hs : s.MemWf) : (s.writeBytes ga bs).MemWf :=
  State.writeBytes_wf hs ga bs

theorem State.MemWf.setDie {d v} (hs : s.MemWf) : (s.setDie d v).MemWf := by
  unfold State.setDie
  exact hs.update rfl

theorem State.MemWf.tickCycle {d} (hs : s.MemWf) : (s.tickCycle d).MemWf := by
  unfold State.tickCycle
  exact hs.update rfl

theorem State.MemWf.passTime {e slew drift} (hs : s.MemWf) : (s.passTime e slew drift).MemWf := by
  unfold State.passTime
  exact hs.update rfl

theorem State.MemWf.tickTime (hs : s.MemWf) : s.tickTime.MemWf := by
  unfold State.tickTime
  exact hs.update rfl

theorem State.MemWf.logSite {unit site h} (hs : s.MemWf) : (s.logSite unit site h).MemWf := by
  unfold State.logSite
  exact .ite hs.setHart hs.tickTime.setHart

theorem State.MemWf.logError {unit h} (hs : s.MemWf) : (s.logError unit h).MemWf := by
  unfold State.logError
  exact .of_eq rfl hs.logSite

theorem State.MemWf.logElem {unit elem h} (hs : s.MemWf) : (s.logElem unit elem h).MemWf := by
  unfold State.logElem
  exact .of_eq rfl hs.logSite

theorem State.MemWf.halt {x1} (hs : s.MemWf) : (s.halt x1).MemWf := by
  unfold State.halt
  split
  · exact hs.raise
  · exact hs.logError.raise
  · exact hs.withMe

theorem State.MemWf.sendTo {dev die ord sec r} (hs : s.MemWf) : (s.sendTo dev die ord sec r).MemWf := by
  unfold State.sendTo
  exact .ite (hs.update rfl) (hs.update rfl)

theorem State.MemWf.newTag (hs : s.MemWf) : s.newTag.1.MemWf := by
  unfold State.newTag
  exact hs.update rfl

theorem State.MemWf.pumpFrom {sec before l} (hs : s.MemWf) : (s.pumpFrom sec before l).1.MemWf := by
  induction l generalizing s before with
  | nil => exact hs
  | cons x t ih =>
    unfold State.pumpFrom
    exact .ite_fst (ih hs) (ih hs.sendTo)

theorem State.MemWf.pump {h} (hs : s.MemWf) : (s.pump h).MemWf := by
  unfold State.pump
  exact hs.pumpFrom.setHart

theorem State.MemWf.sendTracked {h dev ord r} (hs : s.MemWf) : (s.sendTracked h dev ord r).MemWf := by
  unfold State.sendTracked
  exact hs.setHart.pump

theorem State.MemWf.sendLoose {h dev ord r} (hs : s.MemWf) : (s.sendLoose h dev ord r).MemWf := by
  unfold State.sendLoose
  exact hs.setHart.pump

theorem State.MemWf.untrack {h dev tags} (hs : s.MemWf) : (s.untrack h dev tags).MemWf := by
  unfold State.untrack
  exact .ite hs.setHart.pump hs

theorem State.MemWf.sendAsk {h own ga n upd} (hs : s.MemWf) : (s.sendAsk h own ga n upd).1.MemWf := by
  unfold State.sendAsk
  exact .ite hs.newTag.sendTo hs.newTag.sendTracked

theorem State.MemWf.gather {h own gas} (hs : s.MemWf) : (s.gather h own gas).1.MemWf := by
  unfold State.gather
  exact .foldl hs fun ht => .ite ht ht.sendAsk.setHart

theorem State.MemWf.dropFar {locs} (hs : s.MemWf) : (s.dropFar locs).MemWf := by
  unfold State.dropFar
  exact .ite hs.withMe hs

theorem State.MemWf.keepWindowsWith {far win locs} (hs : s.MemWf) : (s.keepWindowsWith far win locs).MemWf := by
  unfold State.keepWindowsWith
  exact .ite (hs.update rfl) hs

theorem State.MemWf.keepWindows {win locs} (hs : s.MemWf) : (s.keepWindows win locs).MemWf := by
  unfold State.keepWindows
  exact hs.keepWindowsWith

theorem State.MemWf.adoptShare {h w} (hs : s.MemWf) : Given State.MemWf (s.adoptShare h w) := by
  unfold State.adoptShare
  dsimp only
  split
  · exact .some hs
  · exact .ite .none (.some (hs.update rfl))

theorem State.MemWf.notice {h} (hs : s.MemWf) : (s.notice h).MemWf :=
  .of_eq (State.mem_notice s h) hs

theorem State.MemWf.noticeAll (hs : s.MemWf) : s.noticeAll.MemWf :=
  .of_eq (State.mem_noticeAll s) hs

theorem State.MemWf.performByte {b} (hs : s.MemWf) : (s.performByte b).MemWf :=
  State.performByte_wf hs b

theorem State.MemWf.performFrom {done l} (hs : s.MemWf) : (s.performFrom done l).MemWf :=
  State.performFrom_wf l hs done

theorem State.MemWf.performBytes {l} (hs : s.MemWf) : (s.performBytes l).MemWf :=
  State.performBytes_wf hs l

theorem State.MemWf.performOrdered {h before} (hs : s.MemWf) : (s.performOrdered h before).MemWf :=
  State.performOrdered_wf hs h before

theorem State.MemWf.nbFinish {h o} (hs : s.MemWf) : (s.nbFinish h o).MemWf :=
  State.nbFinish_wf hs h o

theorem State.MemWf.flushStores {h} (hs : s.MemWf) : (s.flushStores h).MemWf :=
  State.flushStores_wf hs h

theorem State.MemWf.drainNb {h} (hs : s.MemWf) : (s.drainNb h).MemWf :=
  State.drainNb_wf hs h

theorem State.MemWf.logDie {d unit ga} (hs : s.MemWf) : (s.logDie d unit ga).MemWf :=
  .of_eq (State.mem_logDie s d unit ga) hs

theorem State.MemWf.markPeer {h chip} (hs : s.MemWf) : (s.markPeer h chip).MemWf :=
  State.markPeer_wf hs h chip

theorem State.MemWf.park {i seen} (hs : s.MemWf) : (s.park i seen).MemWf := by
  unfold State.park
  exact hs.update rfl

theorem State.MemWf.waitEnds {d status} (hs : s.MemWf) : (s.waitEnds d status).MemWf := by
  unfold State.waitEnds
  exact hs.withMe

/-! ### Machine/Regs -/

theorem State.MemWf.setCtx {key c} (hs : s.MemWf) : (s.setCtx key c).MemWf := by
  unfold State.setCtx
  exact hs.update rfl

theorem State.MemWf.tlbInvalidate {d v} (hs : s.MemWf) : (s.tlbInvalidate d v).MemWf := by
  unfold State.tlbInvalidate
  exact hs.update rfl

theorem State.MemWf.peerUp {chip} (hs : s.MemWf) : (s.peerUp chip).MemWf := by
  unfold State.peerUp
  exact .ite (hs.update rfl) hs

theorem State.MemWf.mailWrite {i v msk nonsecure} (hs : s.MemWf) : (s.mailWrite i v msk nonsecure).MemWf := by
  unfold State.mailWrite
  exact .ite (.ite hs (.ite (hs.update rfl) (hs.update rfl))) (.ite (hs.update rfl) hs)

theorem State.MemWf.errWrite {d i v} (hs : s.MemWf) : (s.errWrite d i v).MemWf := by
  unfold State.errWrite
  dsimp only
  split
  · exact hs.setDie
  · exact hs.setDie
  · exact hs

theorem State.MemWf.regWrite {sup nonsecure d i v msk} (hs : s.MemWf) :
    (s.regWrite sup nonsecure d i v msk).MemWf := by
  unfold State.regWrite
  refine .ite ?die (.ite ?iod hs)
  case die => exact .ite (.ite hs hs.tlbInvalidate) (.ite hs.errWrite hs)
  case iod =>
    exact .ite hs.errWrite (.ite (.ite hs hs.peerUp) (.ite (.ite hs.setDie hs) (.ite hs.mailWrite hs)))

theorem State.MemWf.regStore {sup nonsecure ga n v} (hs : s.MemWf) : (s.regStore sup nonsecure ga n v).MemWf := by
  unfold State.regStore
  exact hs.regWrite

theorem State.MemWf.csrTick {n} (hs : s.MemWf) : (s.csrTick n).MemWf := by
  unfold State.csrTick
  exact .ite hs.tickCycle (.ite hs.tickTime hs)

theorem State.MemWf.csrAccess {i n w d v} (hs : s.MemWf) : (s.csrAccess i n w d v).MemWf := by
  unfold State.csrAccess
  split
  · exact hs.halt
  · extract_lets s₁ s₂
    have h₁ : s₁.MemWf := .ite hs.withMe hs
    have h₂ : s₂.MemWf := .ite h₁.drainNb h₁
    exact .ite h₂.park h₂.csrTick.withMe

/-! ### Machine/Region -/

theorem State.MemWf.setRegion {n r} (hs : s.MemWf) : (s.setRegion n r).MemWf := by
  unfold State.setRegion
  exact hs.update rfl

theorem State.MemWf.deviceRecord {op ga data} (hs : s.MemWf) : (s.deviceRecord op ga data).MemWf := by
  unfold State.deviceRecord
  exact hs.newTag.sendTo

theorem State.MemWf.completionOr {r v} (hs : s.MemWf) : (s.completionOr r v).MemWf := by
  unfold State.completionOr
  dsimp only
  split
  · exact hs
  · exact .ite hs.deviceRecord (.ite hs.setRegion (.ite hs.logDie hs.writeGa.noticeAll))

theorem State.MemWf.payOwed {r} (hs : s.MemWf) : (s.payOwed r).MemWf := by
  unfold State.payOwed
  exact .ite hs.setRegion.completionOr hs

theorem State.MemWf.syncRcb {r} (hs : s.MemWf) : (s.syncRcb r).MemWf := by
  unfold State.syncRcb
  split
  · exact hs
  · exact .ite hs hs.writeGa.writeGa

theorem State.MemWf.initQueue {ga depth item ring} (hs : s.MemWf) : (s.initQueue ga depth item ring).MemWf := by
  unfold State.initQueue
  exact .writeGa (.writeGa (hs.update rfl))

theorem State.MemWf.takeSpaces {l rows} (hs : s.MemWf) : (s.takeSpaces l rows).MemWf := by
  unfold State.takeSpaces
  exact .foldl hs fun ht => .of_eq rfl ht.writeGa

theorem State.MemWf.closeOutput {r i} (hs : s.MemWf) : (s.closeOutput r i).MemWf :=
  State.closeOutput_wf hs r i

theorem State.MemWf.closeQueues {r} (hs : s.MemWf) : (s.closeQueues r).MemWf :=
  State.closeQueues_wf hs r

theorem State.MemWf.closeAllQueues (hs : s.MemWf) : s.closeAllQueues.MemWf :=
  State.closeAllQueues_wf hs

theorem State.MemWf.zeroRange {ga n} (hs : s.MemWf) : (s.zeroRange ga n).MemWf :=
  State.zeroRange_wf hs ga n

theorem State.MemWf.zeroRows {core first n} (hs : s.MemWf) : (s.zeroRows core first n).MemWf := by
  unfold State.zeroRows
  exact hs.update rfl

theorem State.MemWf.dropCtxs {keep} (hs : s.MemWf) : (s.dropCtxs keep).MemWf := by
  unfold State.dropCtxs
  exact hs.update rfl

theorem State.MemWf.finishRegion {r} (hs : s.MemWf) : (s.finishRegion r).MemWf := by
  unfold State.finishRegion
  refine .dropCtxs (.foldl ?_ fun ht => ht.zeroRange)
  split
  · exact hs.completionOr.syncRcb.setRegion
  · exact hs.completionOr.syncRcb.setRegion.syncRcb

theorem State.MemWf.settleRegion {r} (hs : s.MemWf) : (s.settleRegion r).MemWf := by
  unfold State.settleRegion
  exact .ite hs.closeQueues.syncRcb.payOwed.finishRegion hs.closeQueues.syncRcb.payOwed

theorem State.MemWf.closeCounts {h} (hs : s.MemWf) : (s.closeCounts h).MemWf := by
  unfold State.closeCounts
  exact .foldl hs fun ht => ht.newTag.sendTo

theorem State.MemWf.freeSlot {h} (hs : s.MemWf) : (s.freeSlot h).MemWf := by
  unfold State.freeSlot
  exact .of_eq rfl (.ite hs.closeCounts hs.closeCounts.zeroRows)

theorem State.MemWf.releaseCore {r core} (hs : s.MemWf) : (s.releaseCore r core).MemWf := by
  unfold State.releaseCore
  exact .ite (.setRegion (.foldl hs (fun ht => ht.zeroRange))) hs

theorem State.MemWf.leave {h} (hs : s.MemWf) : (s.leave h).MemWf := by
  unfold State.leave
  dsimp only
  split
  · exact hs.freeSlot
  · exact hs.freeSlot.releaseCore.settleRegion

/-! ### Machine/Operands -/

theorem State.MemWf.peerLost {h c} (hs : s.MemWf) : (s.peerLost h c).MemWf := by
  unfold State.peerLost
  exact hs.markPeer.setHart

theorem State.MemWf.awaitAccess {locs va} (hs : s.MemWf) : (s.awaitAccess locs va).1.MemWf := by
  unfold State.awaitAccess
  exact hs.withMe

theorem State.MemWf.loadScalar {need va n} (hs : s.MemWf) :
    Tried (·.1.MemWf) (·.1.MemWf) (s.loadScalar need va n) := by
  unfold State.loadScalar
  split
  · exact .error hs
  · refine .ite (.error hs) ?_
    refine .ite (.ok hs) ?_
    split
    · exact .error hs.logError
    · split
      · exact .ok hs.peerLost
      · refine .ite (.error hs.gather.awaitAccess) ?_
        dsimp only
        split
        · exact .ok hs
        · exact .ok hs.keepWindowsWith

theorem State.MemWf.countLocal {h gas} (hs : s.MemWf) : (s.countLocal h gas).MemWf := by
  unfold State.countLocal
  exact .foldl hs fun ht => ht.setHart

theorem State.MemWf.sendFar {h ord trk bs} (hs : s.MemWf) : (s.sendFar h ord trk bs).1.MemWf := by
  unfold State.sendFar
  exact .foldl_fst hs fun ht => .ite_fst ht.peerLost (.ite ht.newTag.setHart.sendTracked ht.newTag.setHart.sendLoose)

theorem State.MemWf.storeBytes {h locs v} (hs : s.MemWf) : (s.storeBytes h locs v).MemWf := by
  unfold State.storeBytes
  exact .ite hs.countLocal.writeAt hs.countLocal.performBytes.sendFar

theorem State.MemWf.storeScalar {va n v} (hs : s.MemWf) : Tried (·.1.MemWf) State.MemWf (s.storeScalar va n v) := by
  unfold State.storeScalar
  split
  · exact .error hs
  · refine .ite (.error hs) ?_
    refine .ite (.ok hs.regStore) ?_
    split
    · exact .error hs.logError
    · exact .ok hs.storeBytes

theorem State.MemWf.updateScalar {va n op d c f} (hs : s.MemWf) :
    Tried (·.1.MemWf) (·.1.MemWf) (s.updateScalar va n op d c f) := by
  unfold State.updateScalar
  split
  · exact .error hs
  · refine .ite (.error hs) ?_
    refine .ite (.error hs) ?_
    split
    · exact .error hs.logError
    · split
      · exact .ok hs.storeBytes
      · refine .ite (.ok hs.peerLost) ?_
        split
        · exact .error hs.sendAsk.withMe.awaitAccess
        · refine .ite (.ok hs) ?_
          split
          · exact .error hs
          · exact .ok hs

/-! ### Machine/Scalar -/

theorem State.MemWf.op3 {f g} (hs : s.MemWf) : (s.op3 f g).MemWf := by
  unfold State.op3
  exact hs.withMe

theorem State.MemWf.op2 {d a g} (hs : s.MemWf) : (s.op2 d a g).MemWf := by
  unfold State.op2
  exact hs.withMe

theorem State.MemWf.branch {f c} (hs : s.MemWf) : (s.branch f c).MemWf := by
  unfold State.branch
  exact hs.withMe

theorem State.MemWf.inOrder {va} {k : State} (hs : s.MemWf) (hk : k.MemWf) : (s.inOrder va k).MemWf := by
  unfold State.inOrder
  exact .ite hs.halt hk

theorem State.MemWf.load {f n sg} (hs : s.MemWf) : (s.load f n sg).MemWf := by
  unfold State.load
  refine .inOrder hs ?_
  split
  · next eqn => exact (hs.loadScalar.of_error eqn).halt
  · next eqn => exact (hs.loadScalar.of_ok eqn).withMe

theorem State.MemWf.store {f n} (hs : s.MemWf) : (s.store f n).MemWf := by
  unfold State.store
  refine .inOrder hs ?_
  split
  · next eqn => exact (hs.storeScalar.of_error eqn).halt
  · next eqn => exact (hs.storeScalar.of_ok eqn).withMe

theorem State.MemWf.amoThen {f op g} {after : State → State} (hs : s.MemWf)
    (hafter : ∀ {t}, t.MemWf → (after t).MemWf) :
    (s.amoThen f op g after).MemWf := by
  unfold State.amoThen
  refine .inOrder hs ?_
  split
  · next eqn => exact (hs.updateScalar.of_error eqn).halt
  · next eqn => exact hafter ((hs.updateScalar.of_ok eqn).withMe)

theorem State.MemWf.amo {f op g} (hs : s.MemWf) : (s.amo f op g).MemWf := by
  unfold State.amo
  exact hs.amoThen fun ht => ht

theorem State.MemWf.execJalr {f} (hs : s.MemWf) : Out.MemWf (execJalr f s) := by
  unfold Machine.execJalr
  exact .next (.ite hs.raise hs.withMe)

theorem State.MemWf.execLdpc {f} (hs : s.MemWf) : Out.MemWf (execLdpc f s) := by
  unfold Machine.execLdpc
  refine .next (.inOrder hs ?_)
  split
  · next eqn => exact (hs.loadScalar.of_error eqn).halt
  · next eqn => exact (hs.loadScalar.of_ok eqn).withMe

theorem State.MemWf.execAmosOr {f} (hs : s.MemWf) : Out.MemWf (execAmosOr f s) := by
  unfold Machine.execAmosOr
  exact .next (hs.amoThen fun ht => ht.closeAllQueues)

theorem State.MemWf.execCsrr {f} (hs : s.MemWf) : Out.MemWf (execCsrr f s) := by
  unfold Machine.execCsrr
  exact .next hs.csrAccess

theorem State.MemWf.execCsrw {f} (hs : s.MemWf) : Out.MemWf (execCsrw f s) := by
  unfold Machine.execCsrw
  exact .next hs.csrAccess

theorem State.MemWf.execCsrs {f} (hs : s.MemWf) : Out.MemWf (execCsrs f s) := by
  unfold Machine.execCsrs
  exact .next hs.csrAccess

theorem State.MemWf.execCsrc {f} (hs : s.MemWf) : Out.MemWf (execCsrc f s) := by
  unfold Machine.execCsrc
  exact .next hs.csrAccess

/-! ### Machine/Queue -/

theorem State.MemWf.writeWords {ga ws} (hs : s.MemWf) : (s.writeWords ga ws).MemWf := by
  induction ws generalizing s ga with
  | nil => exact hs
  | cons w t ih => exact ih hs.writeGa

theorem State.MemWf.barCtxs {es} (hs : s.MemWf) : (s.barCtxs es).MemWf := by
  unfold State.barCtxs
  exact .ite (.foldl hs (fun ht => ht.setCtx)) hs

theorem State.MemWf.vectorFaultIn {pre n cause tval restart} (hs : s.MemWf) :
    (s.vectorFaultIn pre n cause tval restart).MemWf := by
  unfold State.vectorFaultIn
  exact .ite hs.withMe.withMe.withMe hs.withMe.withMe.writeWords.barCtxs.withMe

theorem State.MemWf.vectorFault {n cause tval restart} (hs : s.MemWf) :
    (s.vectorFault n cause tval restart).MemWf := by
  unfold State.vectorFault
  exact hs.vectorFaultIn

theorem State.MemWf.runEntry {n e stop} {q : Queued} (hs : s.MemWf) (hq : q.MemWf) :
    (s.runEntry n e stop q).MemWf := by
  unfold State.runEntry
  refine .ite hs.withMe ?_
  dsimp only
  split
  · next eqn => exact ((hq hs.withMe).of_done eqn).withMe
  · next eqn => exact .ite hs.withMe (((hq hs.withMe).of_fault eqn).withMe.vectorFault)
  · next eqn => exact ((hq hs.withMe).of_wait eqn).withMe
  · next eqn => exact ((hq hs.withMe).of_later eqn).withMe

theorem State.MemWf.enter {e run} {q : Queued} (hs : s.MemWf) (hq : q.MemWf) : (s.enter q e run).MemWf := by
  unfold State.enter
  exact .ite (hs.withMe.runEntry hq) hs.withMe

theorem State.MemWf.enqueue {q : Queued} (hs : s.MemWf) (hq : q.MemWf) : (s.enqueue q).MemWf := by
  unfold State.enqueue
  dsimp only
  split
  · exact hs.halt
  · exact .ite hs (hs.withMe.enter hq)

theorem State.MemWf.sweep {e g m d f} (hs : s.MemWf) : VOut.MemWf (s.sweep e g m d f) := by
  unfold State.sweep
  exact .done hs.withMe

/-! ### Machine/VMem -/

theorem State.MemWf.markFailed {ps} (hs : s.MemWf) : (s.markFailed ps).MemWf := by
  unfold State.markFailed
  exact .foldl hs fun ht => ht.peerLost

theorem State.MemWf.deliverLoad {e ctr d xs fl} (hs : s.MemWf) : VOut.MemWf (s.deliverLoad e ctr d xs fl) := by
  unfold State.deliverLoad
  exact .ite (.done hs.withMe) (.done hs.withMe)

theorem State.MemWf.faultAt {ps el c v restart fl} (hs : s.MemWf) : VOut.MemWf (s.faultAt ps el c v restart fl) := by
  unfold State.faultAt
  exact .fault (.ite hs.logElem hs)

theorem State.MemWf.askRuns {h gas} (hs : s.MemWf) : (s.askRuns h gas).1.MemWf := by
  unfold State.askRuns
  exact .foldl_fst hs fun ht => ht.sendAsk

theorem State.MemWf.deliverLate {e ctr d ps xs fl} (hs : s.MemWf) : VOut.MemWf (s.deliverLate e ctr d ps xs fl) := by
  unfold State.deliverLate
  exact .done hs.askRuns.withMe

theorem State.MemWf.loadElems {e ctr d} (hs : s.MemWf) : VOut.MemWf (s.loadElems e ctr d) := by
  unfold State.loadElems
  dsimp only
  split
  · exact .wait hs
  · refine .ite (.wait (.ite_fst hs.gather hs)) ?_
    split
    · exact hs.markFailed.keepWindows.dropFar.withMe.faultAt
    · exact .ite hs.markFailed.keepWindows.dropFar.deliverLate hs.markFailed.keepWindows.dropFar.deliverLoad

theorem State.MemWf.sendGroup {ord trk bs} (hs : s.MemWf) : (s.sendGroup ord trk bs).1.MemWf := by
  unfold State.sendGroup
  exact hs.countLocal.sendFar

theorem State.MemWf.sendElems {ord trk w x4} (hs : s.MemWf) : (s.sendElems ord trk w x4).1.MemWf := by
  unfold State.sendElems
  exact .foldl_fst hs fun ht => ht.sendGroup

theorem State.MemWf.storeElems {e ctr ord src} (hs : s.MemWf) : VOut.MemWf (s.storeElems e ctr ord src) := by
  unfold State.storeElems
  split
  · exact hs.faultAt
  · split
    · exact .wait hs
    · extract_lets enc fl last s₁ sent s₂ s₃
      have h₁ : s₁.MemWf := .ite hs.performOrdered hs
      have h₂ : s₂.MemWf := h₁.sendElems
      have h₃ : s₃.MemWf := .of_eq rfl h₂
      exact .ite (.done h₃.performBytes) (.done h₃.withMe)

theorem State.MemWf.atomicBlock {h row op ty ret fill args ps} {o : AmoOut} (ho : o.s.MemWf) :
    (State.atomicBlock h row op ty ret fill args o ps).s.MemWf := by
  unfold State.atomicBlock
  dsimp only
  split
  · exact ho.countLocal.writeAt.noticeAll
  · split
    · exact ho.peerLost
    · split
      · dsimp only
        exact .sendAsk ho.setHart
      · exact ho.setHart.newTag.sendTracked

theorem State.MemWf.atomicBlocks {h row op ty ret fill args} {l : List (List Placed)} {o : AmoOut} (ho : o.s.MemWf) :
    (l.foldl (State.atomicBlock h row op ty ret fill args) o).s.MemWf :=
  List.foldlRecOn (motive := fun (o : AmoOut) => o.s.MemWf) l _ ho fun _ ho _ _ => ho.atomicBlock

theorem vamo_memWf {f w types noHost dests code} : (vamo f w types noHost dests code).MemWf := by
  intro s e hs
  unfold vamo
  dsimp only
  split
  · exact hs.faultAt
  · exact .wait hs
  · exact .ite (.wait hs) (.ite (State.MemWf.deliverLoad (.atomicBlocks hs))
      (.ite (.later (.withMe (.of_eq rfl (.atomicBlocks hs)))) (.done (.withMe (.of_eq rfl (.atomicBlocks hs))))))

/-! ### Machine/Matrix -/

theorem State.MemWf.setAcc {a v} (hs : s.MemWf) : (s.setAcc a v).MemWf := by
  unfold State.setAcc
  exact hs.update rfl

/-- An instruction of the matrix unit keeps the form when its act in matrix mode does. -/
theorem matrixQueued_memWf {w len x1 x2 x3 bound types check} {act : Matrix → State → QEntry → VOut}
    (hact : ∀ {m s e}, s.MemWf → (act m s e).MemWf) :
    (matrixQueued w len x1 x2 x3 bound types check act).MemWf := by
  intro s e hs
  unfold matrixQueued
  dsimp only
  split
  · exact .fault hs
  · exact hact hs

theorem State.MemWf.withMatrix {g} (hs : s.MemWf) : (s.withMatrix g).MemWf := by
  unfold State.withMatrix
  exact hs.withMe

theorem State.MemWf.execMmodeOn {f} (hs : s.MemWf) : Out.MemWf (execMmodeOn f s) := by
  unfold Machine.execMmodeOn
  refine .next (.ite hs.raise ?_)
  refine .ite hs.withMe ?_
  split
  · exact hs.withMe
  · exact .ite hs.tickTime.withMe hs.tickTime.park

theorem State.MemWf.execMmodeOff (hs : s.MemWf) : Out.MemWf (execMmodeOff s) := by
  unfold Machine.execMmodeOff
  exact .next (.ite hs.withMe hs)

theorem State.MemWf.swapPlanes (hs : s.MemWf) : s.swapPlanes.MemWf := by
  unfold State.swapPlanes
  exact hs.withMatrix.withMe

theorem mswapQueued_memWf : mswapQueued.MemWf :=
  matrixQueued_memWf fun hs => .done hs.swapPlanes

theorem State.MemWf.execMswap (hs : s.MemWf) : Out.MemWf (execMswap s) := by
  unfold Machine.execMswap
  exact .next (.ite hs.raise (.ite hs (.ite hs.swapPlanes.withMe hs.withMe)))

theorem State.MemWf.execMstat {f} (hs : s.MemWf) : Out.MemWf (execMstat f s) := by
  unfold Machine.execMstat
  refine .next ?_
  split
  · exact hs.withMe
  · exact .ite hs.withMe hs

theorem mlsQueued_memWf {f} : (mlsQueued f).MemWf := by
  intro s e hs
  unfold mlsQueued matrixQueued
  dsimp only
  split
  · exact .fault hs
  · split
    · exact hs.faultAt
    · exact .wait hs
    · exact hs.withMatrix.faultAt
    · exact .ite (.wait hs.gather) (.done hs.markFailed.keepWindows.dropFar.withMatrix)

theorem mstrQueued_memWf {f} : (mstrQueued f).MemWf := by
  unfold mstrQueued
  refine matrixQueued_memWf fun hs => ?_
  exact .done (.foldl_fst hs fun ho => .ite_fst ho ho.setAcc)

theorem mopQueued_memWf {f} : (mopQueued f).MemWf := by
  unfold mopQueued
  refine matrixQueued_memWf fun hs => ?_
  exact .done (.foldl_fst hs fun ho => .ite_fst ho.setAcc ho)

theorem State.MemWf.setPair {base t j p} (hs : s.MemWf) : (s.setPair base t j p).MemWf := by
  unfold State.setPair
  exact hs.setAcc.setAcc

theorem mscanQueued_memWf {f} : (mscanQueued f).MemWf :=
  matrixQueued_memWf fun hs => .done (.foldl_fst hs fun ho =>
    .ite (.withMatrix (.foldl ho fun ht => ht.setPair)) (.foldl ho fun ht => ht.setPair))

theorem mscanfQueued_memWf {f} : (mscanfQueued f).MemWf := by
  unfold mscanfQueued
  refine matrixQueued_memWf fun hs => ?_
  exact .done (.foldl_fst hs fun ho => ho.setAcc)

theorem maccRdQueued_memWf {f} : (maccRdQueued f).MemWf :=
  matrixQueued_memWf fun hs => hs.sweep

theorem maccWrQueued_memWf {f} : (maccWrQueued f).MemWf := by
  unfold maccWrQueued
  refine matrixQueued_memWf fun hs => ?_
  exact .done (.foldl_fst hs fun ho => .ite_fst ho ho.setAcc)

theorem maccZrQueued_memWf {f} : (maccZrQueued f).MemWf :=
  matrixQueued_memWf fun hs => .done (.foldl hs fun ht => .ite ht ht.setAcc)

theorem maccCpQueued_memWf {f} : (maccCpQueued f).MemWf :=
  matrixQueued_memWf fun hs => .done (.foldl hs fun ht => .ite ht ht.setAcc)

theorem maccScrdQueued_memWf {f} : (maccScrdQueued f).MemWf :=
  matrixQueued_memWf fun hs => hs.sweep

theorem maccScwrQueued_memWf {f} : (maccScwrQueued f).MemWf := by
  unfold maccScwrQueued
  refine matrixQueued_memWf fun hs => ?_
  exact .done (.foldl_fst hs fun ho => ho.withMatrix)

/-! ### Machine/Locket -/

theorem State.MemWf.putAt {addr off n v} (hs : s.MemWf) : (s.putAt addr off n v).MemWf := by
  unfold State.putAt
  exact hs.writeAt

theorem State.MemWf.putAll {addr n l} (hs : s.MemWf) : (s.putAll addr n l).MemWf := by
  unfold State.putAll
  exact .foldl hs fun ht => ht.putAt

theorem State.MemWf.writeLocket {h addr held} (hs : s.MemWf) : (s.writeLocket h addr held).MemWf := by
  unfold State.writeLocket
  exact hs.putAt.putAll.putAll.putAll.putAll.putAll.putAll

theorem State.MemWf.setStopped {key b} (hs : s.MemWf) : (s.setStopped key b).MemWf := by
  unfold State.setStopped
  exact hs.setCtx

theorem State.MemWf.stopHart {h} (hs : s.MemWf) : (s.stopHart h).MemWf := by
  unfold State.stopHart
  exact hs.drainNb.setHart

/-! ### Machine/Sync -/

theorem State.MemWf.afterDrain {i} {k : State → State} (hs : s.MemWf) (hk : ∀ {t}, t.MemWf → (k t).MemWf) :
    (s.afterDrain i k).MemWf := by
  unfold State.afterDrain
  exact .ite (hk hs.withMe) hs.withMe.park

theorem State.MemWf.afterWork {i} {k : State → State} (hs : s.MemWf) (hk : ∀ {t}, t.MemWf → (k t).MemWf) :
    (s.afterWork i k).MemWf := by
  unfold State.afterWork
  exact hs.afterDrain fun ht => .ite (hk ht.drainNb) ht.drainNb.park

theorem State.MemWf.waitFor {i d status seen} (hs : s.MemWf) : (s.waitFor i d status seen).MemWf := by
  unfold State.waitFor
  split
  · exact hs.waitEnds
  · exact .ite hs.waitEnds hs.park.withMe

theorem State.MemWf.failSeal {h c} (hs : s.MemWf) : (s.failSeal h c).MemWf := by
  unfold State.failSeal
  exact hs.markPeer.setHart

theorem State.MemWf.sendSeal {h x} (hs : s.MemWf) : (State.sendSeal h s x).MemWf := by
  unfold State.sendSeal
  exact .ite hs.failSeal hs.newTag.setHart.sendTo

theorem State.MemWf.sendFlush {h link} (hs : s.MemWf) : (State.sendFlush h s link).MemWf := by
  unfold State.sendFlush
  exact hs.newTag.setHart

theorem State.MemWf.sendSeals {h scope} (hs : s.MemWf) : (s.sendSeals h scope).MemWf := by
  unfold State.sendSeals
  exact .foldl (.foldl hs.setHart (fun ht => ht.sendSeal)) (fun ht => ht.sendFlush)

theorem State.MemWf.release {h scope} (hs : s.MemWf) : (s.release h scope).1.MemWf := by
  unfold State.release
  exact .ite_fst hs.flushStores hs.flushStores.sendSeals

theorem State.MemWf.phase {i f rel acq} (hs : s.MemWf) : (s.phase i f rel acq).MemWf := by
  unfold State.phase
  refine hs.afterDrain fun ht => ?_
  extract_lets s₁ r s₂ s₃
  have hr : r.1.MemWf := .ite_fst ht.drainNb.release ht.drainNb
  have h₃ : s₃.MemWf := .ite (.of_eq rfl hr) hr
  exact .ite h₃.withMe hr.park

theorem State.MemWf.execPhaseRel {f} (hs : s.MemWf) : Out.MemWf (execPhaseRel f s) := by
  unfold Machine.execPhaseRel
  exact .next hs.phase

theorem State.MemWf.execPhaseAcq {f} (hs : s.MemWf) : Out.MemWf (execPhaseAcq f s) := by
  unfold Machine.execPhaseAcq
  exact .next hs.phase

theorem State.MemWf.execPhaseAr {f} (hs : s.MemWf) : Out.MemWf (execPhaseAr f s) := by
  unfold Machine.execPhaseAr
  exact .next hs.phase

theorem State.MemWf.execWaitc {f} (hs : s.MemWf) : Out.MemWf (execWaitc f s) := by
  unfold Machine.execWaitc
  exact .next hs.waitFor

theorem State.MemWf.acquireStatuses {k n} (hs : s.MemWf) : (s.acquireStatuses k n).MemWf := by
  unfold State.acquireStatuses
  exact .withMe (.ite hs hs.setCtx)

theorem State.MemWf.execWaitt {f} (hs : s.MemWf) : Out.MemWf (execWaitt f s) := by
  unfold Machine.execWaitt
  exact .next (.ite (.ite hs.waitEnds hs.raise) (.ite hs.acquireStatuses.waitEnds hs.waitFor))

theorem State.MemWf.watched {va n kind} (hs : s.MemWf) : Tried (·.1.MemWf) (fun _ => True) (s.watched va n kind) := by
  unfold State.watched
  split
  · exact .error hs
  · split
    · exact .error hs
    · refine .ite (.error hs) ?_
      split
      · exact .error hs.logError
      · exact .ok trivial

theorem State.MemWf.execWaitg {f} (hs : s.MemWf) : Out.MemWf (execWaitg f s) := by
  unfold Machine.execWaitg
  refine .next (.inOrder hs ?_)
  split
  · next eqn => exact (hs.watched.of_error eqn).halt
  · exact .ite hs.park.withMe hs.waitFor

theorem State.MemWf.waitWord {i f c} (hs : s.MemWf) : (s.waitWord i f c).MemWf := by
  unfold State.waitWord
  refine .inOrder hs ?_
  split
  · next eqn => exact (hs.watched.of_error eqn).halt
  · exact .ite (.ite hs.park.withMe hs.waitFor) (.ite hs.gather.park.withMe hs.withMe.waitFor)

theorem State.MemWf.execWaitwEq {f} (hs : s.MemWf) : Out.MemWf (execWaitwEq f s) := by
  unfold Machine.execWaitwEq
  exact .next hs.waitWord

theorem State.MemWf.execWaitwNe {f} (hs : s.MemWf) : Out.MemWf (execWaitwNe f s) := by
  unfold Machine.execWaitwNe
  exact .next hs.waitWord

theorem State.MemWf.execWaitwGen {f} (hs : s.MemWf) : Out.MemWf (execWaitwGen f s) := by
  unfold Machine.execWaitwGen
  exact .next hs.waitWord

theorem State.MemWf.execWaitwLtn {f} (hs : s.MemWf) : Out.MemWf (execWaitwLtn f s) := by
  unfold Machine.execWaitwLtn
  exact .next hs.waitWord

theorem State.MemWf.execTime {f} (hs : s.MemWf) : Out.MemWf (execTime f s) := by
  unfold Machine.execTime
  exact .next (.ite hs.withMe.tickTime.withMe hs.withMe.park)

theorem State.MemWf.flushRange {va n} (hs : s.MemWf) : (s.flushRange va n).MemWf := by
  unfold State.flushRange
  exact hs.update rfl

theorem State.MemWf.execWinfl {f} (hs : s.MemWf) : Out.MemWf (execWinfl f s) := by
  unfold Machine.execWinfl
  exact .next hs.flushRange.withMe

theorem State.MemWf.execCcset {f} (hs : s.MemWf) : Out.MemWf (execCcset f s) := by
  unfold Machine.execCcset
  exact .next (.ite hs.withMe hs.park)

theorem State.MemWf.peek {own locs} (hs : s.MemWf) : (s.peek own locs).1.MemWf := by
  unfold State.peek
  exact .ite_fst hs.gather hs

theorem State.MemWf.queueOperands {hva iva push} (hs : s.MemWf) :
    Tried (·.1.MemWf) (fun _ => True) (s.queueOperands hva iva push) := by
  unfold State.queueOperands
  split
  · exact .error hs
  · dsimp only
    split
    · next eqn => exact .error (hs.peek.of_pair eqn)
    · next eqn =>
      have hp := hs.peek.of_pair eqn
      split
      · exact .error hp
      · split
        · exact .error hp
        · refine .ite (.error hp) (.ite (.error hp) ?_)
          split
          · exact .error hp.logError
          · split
            · exact .error hp.logError
            · exact .ok trivial

theorem State.MemWf.pushItem {ga q v} (hs : s.MemWf) : (s.pushItem ga q v).MemWf := by
  unfold State.pushItem
  exact hs.writeGa.writeGa.closeAllQueues

theorem State.MemWf.queueLost {d ga} (hs : s.MemWf) : (s.queueLost d ga).MemWf := by
  unfold State.queueLost
  exact hs.peerLost.withMe.waitEnds

theorem State.MemWf.requeue {i} (hs : s.MemWf) : (s.requeue i).MemWf := by
  unfold State.requeue
  exact hs.withMe.park

theorem State.MemWf.farPop {i d ga q il} (hs : s.MemWf) : (s.farPop i d ga q il).MemWf := by
  unfold State.farPop
  split
  · refine .ite hs.queueLost ?_
    split
    · exact hs.park
    · refine .ite ?_ hs.requeue
      split
      · next eqn => exact (hs.peek.of_pair eqn).park
      · next eqn => exact (hs.peek.of_pair eqn).storeBytes.withMe.waitEnds
  · refine .ite hs.queueLost ?_
    refine .ite hs.withMe.waitEnds ?_
    refine .ite hs.withMe.waitFor ?_
    split
    · next eqn => exact (hs.peek.of_pair eqn).park
    · next eqn => exact (hs.peek.of_pair eqn).sendAsk.withMe.park

theorem State.MemWf.execQpop {f} (hs : s.MemWf) : Out.MemWf (execQpop f s) := by
  unfold Machine.execQpop
  refine .next ?_
  split
  · next eqn => exact (hs.queueOperands.of_error eqn).halt
  · extract_lets s₁
    have h₁ : s₁.MemWf := hs.withMe
    refine .ite h₁.farPop (.ite h₁.waitEnds (.ite (.ite h₁.park (.ite h₁.logError.halt ?_)) h₁.waitFor))
    exact h₁.storeBytes.writeGa.waitEnds.closeAllQueues

theorem State.MemWf.sendPush {ga bs} (hs : s.MemWf) : (s.sendPush ga bs).MemWf := by
  unfold State.sendPush
  exact .withMe (.sendAsk (.foldl hs fun ht => ht.newTag.withMe.sendTracked))

theorem State.MemWf.farPush {i d ga q v} (hs : s.MemWf) : (s.farPush i d ga q v).MemWf := by
  unfold State.farPush
  split
  · refine .ite hs.queueLost ?_
    split
    · exact hs.park
    · exact .ite hs.requeue hs.withMe.waitEnds
  · exact .ite hs.queueLost (.ite hs.withMe.waitEnds (.ite hs.withMe.waitFor hs.sendPush.park))

theorem State.MemWf.execQpush {f} (hs : s.MemWf) : Out.MemWf (execQpush f s) := by
  unfold Machine.execQpush
  refine .next ?_
  split
  · next eqn => exact (hs.queueOperands.of_error eqn).halt
  · refine .afterDrain hs fun ht => ?_
    extract_lets r
    have hr : r.1.MemWf := ht.release
    clear_value r
    split
    · next eqn =>
      refine .park (.of_pair ?_ eqn)
      exact .ite_fst ht (.ite_fst hr.peek hr)
    · next u _ eqn =>
      have hu : u.MemWf := by
        refine .of_pair ?_ eqn
        exact .ite_fst ht (.ite_fst hr.peek hr)
      exact .ite hu.farPush (.ite hu.waitEnds (.ite hu.waitEnds
        (.ite (.ite hu.park hu.pushItem.waitEnds) hu.withMe.waitFor)))

/-! ### Machine/Sched -/

theorem State.MemWf.settleOn {r core} (hs : s.MemWf) : (s.settleOn r core).MemWf := by
  unfold State.settleOn
  exact .ite hs.setRegion (.foldl hs.setRegion fun ht => ht.initQueue)

theorem State.MemWf.grantNew {r st} (hs : s.MemWf) : Given State.MemWf (s.grantNew r st) := by
  unfold State.grantNew
  extract_lets g u n
  split
  · split
    · extract_lets map s₁ s₂ s₃ s₄
      have hs₃ : s₃.MemWf := hs.settleOn.setRegion.takeSpaces
      have hs₄ : s₄.MemWf := hs₃.update rfl
      exact .some hs₄.setHart.syncRcb
    · exact .none
  · exact .none

theorem State.MemWf.sendStop {h park} (hs : s.MemWf) : (s.sendStop h park).MemWf := by
  unfold State.sendStop
  exact .ite (.foldl hs.setHart (fun ht => ht.setStopped)) hs

theorem State.MemWf.sendHold {h} (hs : s.MemWf) : (s.sendHold h).MemWf := by
  unfold State.sendHold
  exact .ite (.foldl hs.setHart (fun ht => ht.setStopped)) hs

theorem State.MemWf.preempt {h park} (hs : s.MemWf) : (s.preempt h park).MemWf := by
  unfold State.preempt
  exact .foldl hs fun ht => ht.sendStop

theorem State.MemWf.parkCtxs {h} (hs : s.MemWf) : (s.parkCtxs h).MemWf := by
  unfold State.parkCtxs
  exact .foldl hs fun ht => ht.setCtx

theorem State.MemWf.saveAway {h park} (hs : s.MemWf) : (s.saveAway h park).MemWf := by
  unfold State.saveAway
  dsimp only
  split
  · exact .syncRcb (.releaseCore (.setHart (.zeroRows (.of_eq rfl hs.stopHart.writeLocket.parkCtxs))))
  · exact hs.stopHart.setHart

theorem State.MemWf.stopCtxs {h coll} (hs : s.MemWf) : (s.stopCtxs h coll).MemWf := by
  unfold State.stopCtxs
  exact .foldl hs fun ht => ht.setCtx

theorem State.MemWf.ackStop {h part} (hs : s.MemWf) : (s.ackStop h part).MemWf := by
  unfold State.ackStop
  extract_lets +onlyGivenNames s₁ u
  have h₁ : s₁.MemWf := .ite hs.drainNb hs
  refine .ite h₁ ?_
  extract_lets rest s₂ v
  have h₂ : s₂.MemWf := .ite h₁.stopCtxs h₁
  split
  · exact .ite h₂.setHart.saveAway h₂.setHart
  · exact .ite h₂.setHart.stopHart.setHart h₂.setHart
  · exact h₂

theorem State.MemWf.loadRows {addr core first n} (hs : s.MemWf) : (s.loadRows addr core first n).MemWf := by
  unfold State.loadRows
  exact hs.update rfl

theorem State.MemWf.resumeCtxs {h} (hs : s.MemWf) : (s.resumeCtxs h).MemWf := by
  unfold State.resumeCtxs
  exact .foldl hs fun ht => .setCtx (.setHart (.foldl ht fun hu => hu.setCtx))

theorem State.MemWf.restoreOne {l h map parent first} (hs : s.MemWf) : (s.restoreOne l h map parent first).MemWf := by
  unfold State.restoreOne
  exact .of_eq rfl hs.setHart.loadRows.resumeCtxs

theorem State.MemWf.restore {l} (hs : s.MemWf) : Given State.MemWf (s.restore l) := by
  unfold State.restore
  refine .ite .none ?_
  split
  · exact .none
  · split
    · exact .none
    · exact .some (.syncRcb (.of_eq rfl (.foldl hs.settleOn fun ht => ht.restoreOne)))

theorem State.MemWf.without {l} (hs : s.MemWf) : (s.without l).MemWf := by
  unfold State.without
  exact .foldl hs fun ht => .foldl ht fun hu => .releaseCore (hu.update rfl)

theorem State.MemWf.makeRoom {r st n} (hs : s.MemWf) : (s.makeRoom r st n).MemWf := by
  unfold State.makeRoom
  dsimp only
  split
  · exact hs
  · exact .foldl hs fun ht => ht.preempt

theorem State.MemWf.grantQueued {r st} (hs : s.MemWf) : Given State.MemWf (s.grantQueued r st) := by
  unfold State.grantQueued
  exact .ite (hs.grantNew.map (fun ht => ht.setRegion)) .none

theorem State.MemWf.grantStage {r st n} (hs : s.MemWf) : (State.grantStage r st n s).MemWf := by
  induction n generalizing s with
  | zero => exact hs
  | succ n ih =>
    unfold State.grantStage
    split
    · exact hs
    · next eqn => exact ih (hs.grantQueued.of_some eqn)

theorem State.MemWf.serveOne {c} (hs : s.MemWf) : (s.serveOne c).MemWf := by
  unfold State.serveOne
  extract_lets u saved made
  clear_value saved
  have hmade : Given State.MemWf made := by
    unfold made
    split
    · exact hs.restore
    · exact .ite hs.grantNew .none
  clear_value made
  split
  · exact hmade.of_some rfl
  · exact .ite hs.makeRoom hs

theorem State.MemWf.serve {c} (hs : s.MemWf) : (s.serve c).MemWf := by
  unfold State.serve
  exact .ite hs.grantStage.makeRoom (.ite hs.grantStage.serveOne hs.grantStage)

theorem State.MemWf.dropQueued {r} (hs : s.MemWf) : (s.dropQueued r).MemWf := by
  unfold State.dropQueued
  exact .ite hs.setRegion.settleRegion hs

theorem State.MemWf.makeQueued {r} (hs : s.MemWf) : (s.makeQueued r).MemWf := by
  unfold State.makeQueued
  exact .ite (.foldl hs.dropQueued (fun ht => ht.grantStage)) hs.dropQueued

theorem State.MemWf.grantWaiting (hs : s.MemWf) : s.grantWaiting.MemWf := by
  unfold State.grantWaiting
  exact .ite (.foldl hs (fun ht => ht.makeQueued)) hs

theorem State.MemWf.divideCore {core} (hs : s.MemWf) : (s.divideCore core).MemWf := by
  unfold State.divideCore
  exact .foldl hs fun ht => .ite ht.setHart.preempt ht.setHart

theorem State.MemWf.parkIdle {h} (hs : s.MemWf) : (s.parkIdle h).MemWf := by
  unfold State.parkIdle
  dsimp only
  split
  · split
    · exact .ite hs.preempt hs.setHart
    · exact hs
  · exact hs

theorem State.MemWf.toBoundary {d} (hs : s.MemWf) : (s.toBoundary d).MemWf := by
  unfold State.toBoundary
  exact hs.passTime

theorem State.MemWf.execSchedulingInterval {die} (hs : s.MemWf) : Out.MemWf (execSchedulingInterval die s) := by
  unfold Machine.execSchedulingInterval
  refine .next (.ite hs ?_)
  extract_lets s₁ s₂ s₃ s₄ s₅
  have h₂ : s₂.MemWf := .foldl hs.toBoundary fun ht => ht.parkIdle
  have h₄ : s₄.MemWf := .foldl h₂.closeAllQueues fun ht => ht.dropQueued
  have h₅ : s₅.MemWf := .ite (.foldl h₄ fun ht => ht.serve) h₂
  exact .foldl h₅ fun ht => ht.divideCore

theorem State.MemWf.execInitialGrant {region} (hs : s.MemWf) : Out.MemWf (execInitialGrant region s) := by
  unfold Machine.execInitialGrant
  exact .next (.ite (.ite (.foldl hs.makeQueued (fun ht => ht.makeRoom)) hs.makeQueued) hs)

theorem State.MemWf.execShareGraceExpiry {h} (hs : s.MemWf) : Out.MemWf (execShareGraceExpiry h s) := by
  unfold Machine.execShareGraceExpiry
  exact .next (.ite hs.tickTime.setHart.preempt hs.tickTime)

theorem State.MemWf.execUnitStopAck {h part} (hs : s.MemWf) : Out.MemWf (execUnitStopAck h part s) := by
  unfold Machine.execUnitStopAck
  exact .next hs.ackStop

theorem State.MemWf.execShare {f} (hs : s.MemWf) : Out.MemWf (execShare f s) := by
  unfold Machine.execShare
  exact .next (.ite hs.withMe (.withMe (.ite hs.tickTime hs)))

/-! ### Machine/Engine -/

theorem State.MemWf.bindCtx {h k} (hs : s.MemWf) : Given State.MemWf (s.bindCtx h k) := by
  unfold State.bindCtx
  exact .ite (.some hs) (.ite .none (.map_of_forall (.setHart (hs.update rfl))))

theorem State.MemWf.withSlot {key g} (hs : s.MemWf) : (s.withSlot key g).MemWf := by
  unfold State.withSlot
  split
  · exact hs
  · exact hs.setHart

theorem State.MemWf.logCtx {key va} (hs : s.MemWf) : (s.logCtx key va).MemWf := by
  unfold State.logCtx
  exact hs.logDie

theorem State.MemWf.completeCtx {key n} (hs : s.MemWf) : (s.completeCtx key n).MemWf := by
  unfold State.completeCtx
  exact hs.setCtx.withSlot

theorem State.MemWf.completeEngine {key} (hs : s.MemWf) : (s.completeEngine key).MemWf := by
  unfold State.completeEngine
  dsimp only
  split
  · exact hs
  · exact hs.setCtx.completeCtx

theorem State.MemWf.completeEmpty {key} (hs : s.MemWf) : (s.completeEmpty key).MemWf := by
  unfold State.completeEmpty
  exact .foldl hs fun ht => .ite ht.completeEngine ht

theorem State.MemWf.faultCtx {key cause side reason issue va perf} (hs : s.MemWf) :
    (s.faultCtx key cause side reason issue va perf).MemWf := by
  unfold State.faultCtx
  dsimp only
  split
  · exact hs.setCtx.withSlot
  · exact hs.setCtx.withSlot.setHart

theorem State.MemWf.issue {i w d k} {put : State → CtxSlot → Word → State} (hs : s.MemWf)
    (hput : ∀ {t c n}, t.MemWf → (put t c n).MemWf) :
    (s.issue i w d k put).MemWf := by
  unfold State.issue
  refine .ite hs.raise ?_
  refine .ite hs.park ?_
  split
  · exact hs.raise
  · next eqn => exact (hput ((hs.bindCtx.of_some eqn).withMe)).withMe

theorem State.MemWf.issueEngine {i w d k op} (hs : s.MemWf) : (s.issueEngine i w d k op).MemWf := by
  unfold State.issueEngine
  exact hs.issue fun ht => ht.setCtx.completeEmpty

theorem State.MemWf.readBulk {va n} (hs : s.MemWf) : Tried (·.1.MemWf) (·.1.MemWf) (s.readBulk va n) := by
  unfold State.readBulk
  dsimp only
  split
  · exact .error hs
  · split
    · exact .error hs.logError
    · split
      · exact .ok hs.peerLost
      · exact .ite (.error hs.gather.awaitAccess) (.ok (.ite_fst hs hs.keepWindowsWith))

theorem State.MemWf.execCopy {f} (hs : s.MemWf) : Out.MemWf (execCopy f s) := by
  unfold Machine.execCopy
  exact .next hs.issueEngine

theorem State.MemWf.execCopy2 {f} (hs : s.MemWf) : Out.MemWf (execCopy2 f s) := by
  unfold Machine.execCopy2
  refine .next (.inOrder hs ?_)
  refine .ite hs.raise ?_
  split
  · next eqn => exact (hs.readBulk.of_error eqn).halt
  · next eqn => exact (hs.readBulk.of_ok eqn).issueEngine

theorem State.MemWf.execCopyx {f} (hs : s.MemWf) : Out.MemWf (execCopyx f s) := by
  unfold Machine.execCopyx
  exact .next (.ite hs.raise hs.issueEngine)

theorem State.MemWf.execFill {f} (hs : s.MemWf) : Out.MemWf (execFill f s) := by
  unfold Machine.execFill
  exact .next hs.issueEngine

theorem State.MemWf.execPref {f} (hs : s.MemWf) : Out.MemWf (execPref f s) := by
  unfold Machine.execPref
  exact .next hs.issueEngine

theorem State.MemWf.execEcfg {f} (hs : s.MemWf) : Out.MemWf (execEcfg f s) := by
  unfold Machine.execEcfg
  refine .next (.ite hs.raise ?_)
  refine .ite ?_ ?_
  · dsimp only
    split
    · exact hs.raise
    · next eqn => exact (hs.bindCtx.of_some eqn).withMe
  · split
    · exact hs.halt
    · split
      · exact hs.raise
      · refine .ite hs.raise ?_
        dsimp only
        split
        · exact hs.raise
        · next eqn => exact (hs.bindCtx.of_some eqn).withMe

theorem State.MemWf.execEres {f} (hs : s.MemWf) : Out.MemWf (execEres f s) := by
  unfold Machine.execEres
  exact .next (.ite hs.raise (.withMe (.ite hs.setCtx.withMe.completeEngine.completeEmpty hs.setCtx.withMe)))

theorem State.MemWf.xferAsk {key x gas} (hs : s.MemWf) : (s.xferAsk key x gas).1.MemWf := by
  unfold State.xferAsk
  exact .foldl_fst hs fun ht => .ite_fst ht ht.newTag.sendTo

theorem State.MemWf.countHost {key gas} (hs : s.MemWf) : (s.countHost key gas).MemWf := by
  unfold State.countHost
  split
  · exact hs
  · exact .ite hs.setHart hs

theorem State.MemWf.xferPut {key x bs} (hs : s.MemWf) : (s.xferPut key x bs).1.MemWf := by
  unfold State.xferPut
  exact .foldl_fst (.countHost (.of_eq rfl (.foldl hs (fun ht => ht.writeByte)))) (fun ht => ht.newTag.sendTo)

theorem State.MemWf.storesDone {key num kind} (hs : s.MemWf) : (s.storesDone key num kind).1.MemWf := by
  unfold State.storesDone
  split
  · exact hs
  · exact .foldl hs fun ht => ht.nbFinish

theorem State.MemWf.claspAdd {ga n} (hs : s.MemWf) : (s.claspAdd ga n).MemWf := by
  unfold State.claspAdd
  exact .ite hs (.ite hs.writeGa (.ite hs.writeGa hs.writeGa.writeGa))

theorem State.MemWf.sendClasp {key dev ga n} (hs : s.MemWf) : (s.sendClasp key dev ga n).1.MemWf := by
  unfold State.sendClasp
  exact hs.newTag.sendTo

theorem State.MemWf.setHead {key c flying} (hs : s.MemWf) : (s.setHead key c flying).MemWf := by
  unfold State.setHead
  exact hs.setCtx

theorem State.MemWf.endSegment {key c n} (hs : s.MemWf) : (s.endSegment key c n).MemWf := by
  unfold State.endSegment
  refine .ite (.ite hs.setHead.completeEngine.completeEmpty hs.setHead) ?_
  split
  · exact .ite hs.claspAdd.setHead.completeEngine.completeEmpty hs.claspAdd.setHead
  · exact hs.sendClasp.setHead

theorem State.MemWf.performSegment {key} (hs : s.MemWf) : (s.performSegment key).MemWf := by
  unfold State.performSegment
  extract_lets r s₁
  have h₁ : s₁.MemWf := hs.storesDone
  split
  · exact h₁
  · refine .ite h₁ (.ite h₁.endSegment ?_)
    split
    · exact h₁.completeEngine
    · exact h₁
    · extract_lets +onlyGivenNames a s₂ c
      have h₂ : s₂.MemWf := h₁.xferAsk
      refine .ite h₂.setHead ?_
      extract_lets wrote bytes w s₃ s₄ c'
      have h₃ : s₃.MemWf := h₂.xferPut
      have h₄ : s₄.MemWf := .of_eq rfl h₃
      exact .ite h₄.endSegment h₄.setHead

theorem State.MemWf.execSegmentStart {iod} (hs : s.MemWf) : Out.MemWf (execSegmentStart iod s) := by
  unfold Machine.execSegmentStart
  refine .next ?_
  split
  · exact hs
  · exact .setCtx (hs.update rfl)

theorem State.MemWf.execSegmentPerformed {ctx} (hs : s.MemWf) : Out.MemWf (execSegmentPerformed ctx s) := by
  unfold Machine.execSegmentPerformed
  exact .next (.ite hs.performSegment hs)

theorem State.MemWf.execEngineFault {ctx cause side va} (hs : s.MemWf) :
    Out.MemWf (execEngineFault ctx cause side va s) := by
  unfold Machine.execEngineFault
  exact .next (.ite (.faultCtx (.ite hs.logCtx hs)) hs)

/-! ### Machine/VMove -/

theorem vcbldQueued_memWf {f} : (vcbldQueued f).MemWf := by
  intro s e hs
  unfold vcbldQueued
  dsimp only
  split
  · exact hs.faultAt
  · split
    · exact .wait hs
    · refine .ite (.wait hs.gather) (.ite (.done (.withMe (.dropFar ?_))) (.done hs.keepWindowsWith.dropFar.withMe))
      split
      · exact hs.peerLost
      · exact hs

theorem State.MemWf.sweepMask {e active d f} (hs : s.MemWf) : VOut.MemWf (s.sweepMask e active d f) := by
  unfold State.sweepMask
  exact .done hs.withMe

theorem State.MemWf.scalarResult {d v fl} (hs : s.MemWf) : VOut.MemWf (s.scalarResult d v fl) := by
  unfold State.scalarResult
  exact .done hs.withMe

theorem vslupQueued_memWf {f} : (vslupQueued f).MemWf :=
  fun hs => .done hs.withMe

/-! ### Machine/Coll -/

theorem State.MemWf.collCheck {buf w h ge g} (hs : s.MemWf) : Given (·.1.MemWf) (s.collCheck buf w h ge g) := by
  unfold State.collCheck
  refine .ite (.some hs) ?_
  refine .ite (.some hs) ?_
  refine .ite (.some hs) ?_
  refine .ite (.some hs) ?_
  split
  · exact .some hs
  · split
    · exact .some hs
    · split
      · exact .some hs
      · exact .none

theorem State.MemWf.setCollOp {o} (hs : s.MemWf) : (s.setCollOp o).MemWf := by
  unfold State.setCollOp
  exact hs.update rfl

theorem State.MemWf.setCmd {key num f} (hs : s.MemWf) : (s.setCmd key num f).MemWf := by
  unfold State.setCmd
  exact hs.setCtx

theorem State.MemWf.sendColl {key ds m} (hs : s.MemWf) : (s.sendColl key ds m).MemWf := by
  unfold State.sendColl
  exact hs.update rfl

theorem State.MemWf.sendNode {o m} (hs : s.MemWf) : (s.sendNode o m).MemWf := by
  unfold State.sendNode
  exact hs.sendColl

theorem State.MemWf.formNodes {g i} (hs : s.MemWf) : (s.formNodes g i).MemWf := by
  unfold State.formNodes
  refine .foldl hs fun ht => .foldl ht fun hu => ?_
  dsimp only
  split
  · exact hu
  · exact hu.setCollOp.sendNode

theorem State.MemWf.failOp {g i} (hs : s.MemWf) : (s.failOp g i).MemWf := by
  unfold State.failOp
  exact .foldl hs.setCollOp fun ht => ht.faultCtx

theorem State.MemWf.abortOp {key m} (hs : s.MemWf) : (s.abortOp key m).MemWf := by
  unfold State.abortOp
  exact .ite hs (.failOp (.ite hs hs.faultCtx))

theorem State.MemWf.faultColl {key cause side reason va m} (hs : s.MemWf) :
    (s.faultColl key cause side reason va m).MemWf := by
  unfold State.faultColl
  exact .abortOp (.faultCtx (.ite hs.logCtx hs))

theorem State.MemWf.sendWord {key m} (hs : s.MemWf) : (s.sendWord key m).MemWf := by
  unfold State.sendWord
  exact hs.sendColl

theorem State.MemWf.faultWords {g i} (hs : s.MemWf) : (s.faultWords g i).MemWf := by
  unfold State.faultWords
  exact .foldl (.setCollOp (.foldl hs (fun ht => ht.sendWord))) (fun ht => .ite ht ht.faultCtx)

theorem State.MemWf.receiveKey {key m k} (hs : s.MemWf) : (s.receiveKey key m k).MemWf := by
  unfold State.receiveKey
  exact .ite hs.setCmd (.ite hs.tickTime.faultCtx hs.tickTime.setCmd)

theorem State.MemWf.receiveOrdered {msg} (hs : s.MemWf) : (s.receiveOrdered msg).MemWf := by
  unfold State.receiveOrdered
  exact .foldl hs fun ht => ht.receiveKey

theorem State.MemWf.sequence {msg} (hs : s.MemWf) : (s.sequence msg).1.MemWf := by
  unfold State.sequence
  exact hs.update rfl

theorem State.MemWf.give {msg send} (hs : s.MemWf) : (s.give msg send).MemWf := by
  unfold State.give
  extract_lets o s₁ s₂ s₃
  have h₂ : s₂.MemWf := .ite hs.setCollOp (.ite hs.setCollOp.sendNode hs.setCollOp.sendColl)
  have h₃ : s₃.MemWf := .ite h₂.formNodes h₂
  exact .ite h₃.receiveOrdered h₃

theorem State.MemWf.contribute {key m} (hs : s.MemWf) : (s.contribute key m).MemWf := by
  unfold State.contribute
  split
  · dsimp only
    split
    · exact .ite hs.setCmd.receiveKey hs.setCmd
    · exact hs.setCmd
  · extract_lets x r s₁ len
    have h₁ : s₁.MemWf := hs.storesDone
    split
    · exact h₁.faultColl
    · exact h₁
    · refine .ite h₁ ?_
      extract_lets a s₂
      have h₂ : s₂.MemWf := h₁.xferAsk
      exact .ite h₂.setCmd (.ite h₂.setCmd.give (.ite h₂.setCmd.sequence.give h₂.setCmd.sendColl))

theorem State.MemWf.finishCmd {key num f} (hs : s.MemWf) : (s.finishCmd key num f).MemWf := by
  unfold State.finishCmd
  dsimp only
  split
  · exact hs.setCmd.setCtx
  · exact hs.setCmd.setCtx.completeCtx

theorem State.MemWf.putResult {key m off bytes f} (hs : s.MemWf) : (s.putResult key m off bytes f).MemWf := by
  unfold State.putResult
  refine .ite hs.finishCmd ?_
  split
  · exact .ite hs hs.faultColl
  · exact hs
  · exact .ite hs (.ite hs.xferPut.finishCmd hs.xferPut.setCmd)

theorem State.MemWf.meetFate {key num} (hs : s.MemWf) : (s.meetFate key num).MemWf := by
  unfold State.meetFate
  refine .ite hs ?_
  split
  · exact hs
  · split
    · exact hs
    · exact hs.faultCtx

theorem State.MemWf.tryCmd {key num} (hs : s.MemWf) : (s.tryCmd key num).MemWf := by
  unfold State.tryCmd
  extract_lets s' cmd s''
  have hs'' : s''.MemWf := by
    unfold s''
    split
    · exact .ite hs.meetFate hs.meetFate.contribute
    · exact hs.meetFate
  split
  · exact hs''
  · refine .ite hs'' ?_
    dsimp only
    split
    · exact hs''
    · exact hs''.putResult

theorem State.MemWf.progressColl (hs : s.MemWf) : s.progressColl.MemWf := by
  unfold State.progressColl
  exact .foldl hs fun ht => .foldl ht fun hu => hu.tryCmd

theorem State.MemWf.execMulticastApply {ctx} (hs : s.MemWf) : Out.MemWf (execMulticastApply ctx s) := by
  unfold Machine.execMulticastApply
  refine .next (.ite hs.tickTime ?_)
  split
  · exact hs.tickTime
  · exact .ite hs.tickTime.finishCmd hs.tickTime.putResult

theorem State.MemWf.countColl {g die} (hs : s.MemWf) : (s.countColl g die).MemWf := by
  unfold State.countColl
  exact hs.update rfl

theorem State.MemWf.join {key m} (hs : s.MemWf) : (s.join key m).MemWf := by
  unfold State.join
  dsimp only
  split
  · exact hs.setCollOp.faultCtx
  · exact .ite hs.setCollOp.faultWords hs.setCollOp.progressColl

theorem State.MemWf.stampWrite (hs : s.MemWf) : s.stampWrite.1.MemWf := by
  unfold State.stampWrite
  exact .ite_fst hs.tickTime.withMe hs.tickTime

theorem State.MemWf.execColl {f} (hs : s.MemWf) : Out.MemWf (execColl f s) := by
  unfold Machine.execColl
  refine .next ?_
  split
  · next eqn => exact State.MemWf.halt (Given.of_some (p := (·.1.MemWf)) (.or (.map_of_forall hs) hs.collCheck) eqn)
  · exact hs.issue fun ht => .join (.setCtx (.countColl (.ite_fst ht.stampWrite ht)))

theorem State.MemWf.collAnswer {key r op} (hs : s.MemWf) : (s.collAnswer key r op).MemWf := by
  unfold State.collAnswer
  exact hs.sendTo

theorem State.MemWf.relayColl {dest r m} (hs : s.MemWf) : (s.relayColl dest r m).MemWf := by
  unfold State.relayColl
  split
  · exact hs.update rfl
  · exact .of_eq rfl (.ite (.formNodes (.setCollOp (hs.update rfl))) (hs.update rfl))

theorem State.MemWf.takeColl {r m} (hs : s.MemWf) : (s.takeColl r m).MemWf := by
  unfold State.takeColl
  refine .ite ?joined (.ite hs.faultWords (.ite hs (.ite hs.collAnswer (.ite hs.sequence.give ?given))))
  case joined =>
    split
    · exact hs.collAnswer
    · exact hs
  case given => exact .progressColl (.foldl hs.give fun ht => ht.setCtx)

theorem State.MemWf.collPart {dest r} (hs : s.MemWf) : (s.collPart dest r).MemWf := by
  unfold State.collPart
  split
  · exact hs
  · exact .ite (hs.update rfl) (.ite (.relayColl (hs.update rfl)) (.ite (.takeColl (hs.update rfl)) (hs.update rfl)))

theorem State.MemWf.execColldata {m} (hs : s.MemWf) : Out.MemWf (execColldata m s) := by
  unfold Machine.execColldata
  exact .next hs.collPart

theorem State.MemWf.pumpColl {dev} (hs : s.MemWf) : (s.pumpColl dev).MemWf := by
  unfold State.pumpColl
  exact .foldl (hs.update rfl) fun ht => .foldl (ht.update rfl) fun hu => hu.sendTo

theorem State.MemWf.parkFault {ctx m} (hs : s.MemWf) : (s.parkFault ctx m).MemWf := by
  unfold State.parkFault
  exact hs.faultCtx.failOp

theorem State.MemWf.parkExpires {ctx m t0} (hs : s.MemWf) : (s.parkExpires ctx m t0).MemWf := by
  unfold State.parkExpires
  exact .ite hs.tickTime.parkFault hs.tickTime

theorem State.MemWf.resendColl {l} (hs : s.MemWf) : (s.resendColl l).MemWf := by
  unfold State.resendColl
  exact hs.update rfl

theorem State.MemWf.parkedAt {ctx} (hs : s.MemWf) : (s.parkedAt ctx).MemWf := by
  unfold State.parkedAt
  dsimp only
  split
  · exact hs
  · refine .ite hs ?_
    split
    · exact hs.parkExpires
    · exact .ite hs.tickTime.parkFault hs.tickTime.setCtx

theorem State.MemWf.execParked {ctx} (hs : s.MemWf) : Out.MemWf (execParked ctx s) := by
  unfold Machine.execParked
  refine .next ?_
  split
  · exact hs
  · exact .ite hs.resendColl.parkedAt hs

theorem State.MemWf.takeParked {r} (hs : s.MemWf) : (s.takeParked r).MemWf := by
  unfold State.takeParked
  split
  · exact hs
  · exact .foldl hs.resendColl fun ht => ht.parkedAt

theorem State.MemWf.execParkLimitExpiry {ctx} (hs : s.MemWf) : Out.MemWf (execParkLimitExpiry ctx s) := by
  unfold Machine.execParkLimitExpiry
  refine .next ?_
  split
  · exact .ite hs.parkExpires hs
  · exact hs

theorem State.MemWf.abortedAt {ctx} (hs : s.MemWf) : (s.abortedAt ctx).MemWf := by
  unfold State.abortedAt
  split
  · exact .ite hs hs.faultColl
  · exact hs

theorem State.MemWf.execAborted {ctx} (hs : s.MemWf) : Out.MemWf (execAborted ctx s) := by
  unfold Machine.execAborted
  exact .next (.ite hs.abortedAt hs)

theorem State.MemWf.takeAborted {r} (hs : s.MemWf) : (s.takeAborted r).MemWf := by
  unfold State.takeAborted
  split
  · exact hs
  · exact .foldl hs fun ht => ht.abortedAt

theorem State.MemWf.abortPeer {chip} (hs : s.MemWf) : (s.abortPeer chip).MemWf := by
  unfold State.abortPeer
  exact .foldl hs fun ht => .ite ht.failOp ht

theorem State.MemWf.hostError {key} (hs : s.MemWf) : (s.hostError key).MemWf := by
  unfold State.hostError
  refine .ite hs ?_
  refine .ite hs.faultCtx ?_
  split
  · exact .ite hs.faultColl hs
  · exact hs

theorem State.MemWf.execHostCompletion {ctx ok} (hs : s.MemWf) : Out.MemWf (execHostCompletion ctx ok s) := by
  unfold Machine.execHostCompletion
  exact .next (.ite (.ite hs.setHart hs) (.ite hs hs.hostError))

theorem State.MemWf.execCompletionTimeout {ctx} (hs : s.MemWf) : Out.MemWf (execCompletionTimeout ctx s) := by
  unfold Machine.execCompletionTimeout
  exact .next (.ite hs hs.hostError)

/-! ### Machine/Launch -/

theorem State.MemWf.createRegion {v g} (hs : s.MemWf) : (s.createRegion v g).MemWf := by
  unfold State.createRegion
  refine .syncRcb ?_
  split
  · exact hs.update rfl
  · exact .syncRcb (hs.update rfl)

theorem State.MemWf.zeroCompl {h n} (hs : s.MemWf) : (s.zeroCompl h n).MemWf := by
  unfold State.zeroCompl
  split
  · exact hs
  · split
    · exact hs
    · exact hs.newTag.setHart.sendTracked

theorem State.MemWf.zeroOwnCompl {n} (hs : s.MemWf) : (s.zeroOwnCompl n).MemWf := by
  unfold State.zeroOwnCompl
  exact .elim hs hs.writeGa

theorem State.MemWf.openRegion {f n} (hs : s.MemWf) : (s.openRegion f n).MemWf := by
  unfold State.openRegion
  exact .ite hs.release.zeroOwnCompl.setRegion.withMe hs.release.park

theorem State.MemWf.execLaunch {f} (hs : s.MemWf) : Out.MemWf (execLaunch f s) := by
  unfold Machine.execLaunch
  refine .next ?_
  split
  · exact hs.openRegion
  · refine .inOrder hs ?_
    split
    · exact hs.halt
    · split
      · exact hs.logError.halt
      · dsimp only
        split
        · exact hs.halt
        · exact .ite hs.createRegion.zeroCompl.withMe.openRegion hs.withMe

/-! ### Machine/System -/

theorem State.MemWf.refuseWorld {w} (hs : s.MemWf) : (s.refuseWorld w).MemWf := by
  unfold State.refuseWorld
  exact hs.raise.withMe

theorem State.MemWf.execTret (hs : s.MemWf) : Out.MemWf (execTret s) := by
  unfold Machine.execTret
  refine .next (.ite hs.withMe.raise ?_)
  refine .ite hs.withMe.refuseWorld ?_
  refine .ite (.park (.ite hs.withMe hs.withMe.drainNb)) ?_
  refine .ite ?_ (.withMe (.ite hs.withMe hs.withMe.drainNb))
  split
  · exact .raise (.ite hs.withMe hs.withMe.drainNb)
  · exact .ite (.park (.ite hs.withMe hs.withMe.drainNb)) (.withMe (.ite hs.withMe hs.withMe.drainNb))

theorem State.MemWf.execIfence (hs : s.MemWf) : Out.MemWf (execIfence s) := by
  unfold Machine.execIfence
  exact .next (.ite hs.withMe.withMe hs.withMe.park)

theorem State.MemWf.execWfi (hs : s.MemWf) : Out.MemWf (execWfi s) := by
  unfold Machine.execWfi
  exact .next (.ite hs.raise (.ite (.withMe (hs.update rfl)) (.park (hs.update rfl))))

theorem State.MemWf.execSetvl {f} (hs : s.MemWf) : Out.MemWf (execSetvl f s) := by
  unfold Machine.execSetvl
  refine .next (.ite hs.withMe.withMe ?_)
  refine .afterWork hs.withMe fun ht => ?_
  split
  · exact ht.park
  · next eqn => exact (ht.adoptShare.of_some eqn).withMe

theorem State.MemWf.split {f} (hs : s.MemWf) : (s.split f).MemWf := by
  unfold State.split
  refine .ite hs.withMe ?_
  dsimp only
  split
  · exact .of_eq rfl (.takeSpaces (.foldl hs.withMe fun ht => ht.setHart))
  · exact .syncRcb (.of_eq rfl (.takeSpaces (.foldl hs.withMe fun ht => ht.setHart)))

theorem State.MemWf.execFork {f} (hs : s.MemWf) : Out.MemWf (execFork f s) := by
  unfold Machine.execFork
  refine .next (.afterWork hs fun ht => ?_)
  split
  · exact ht.park
  · next eqn => exact (ht.adoptShare.of_some eqn).split

theorem State.MemWf.freeCtx {k} (hs : s.MemWf) : (s.freeCtx k).MemWf := by
  unfold State.freeCtx
  exact hs.update rfl

theorem State.MemWf.dropBound {h} (hs : s.MemWf) : (s.dropBound h).MemWf := by
  unfold State.dropBound
  exact .foldl hs fun ht => ht.freeCtx

theorem State.MemWf.handBack {f} (hs : s.MemWf) : (s.handBack f).MemWf := by
  unfold State.handBack
  refine .leave (.dropBound ?_)
  split
  · exact .ite hs (.map_getD hs hs.completionOr)
  · exact .withMe (.setHart (.ite hs (.map_getD hs hs.completionOr)))

theorem State.MemWf.allStatuses (hs : s.MemWf) : s.allStatuses.MemWf := by
  unfold State.allStatuses
  exact .foldl hs fun ht => .ite ht.acquireStatuses ht

theorem State.MemWf.execMerge (hs : s.MemWf) : Out.MemWf (execMerge s) := by
  unfold Machine.execMerge
  refine .next (.afterWork hs fun ht => ?_)
  split
  · exact ht.withMe
  · exact .ite (.ite ht.allStatuses.handBack ht.park) (.ite ht.withMe ht.park)

theorem State.MemWf.closeStage {r st} (hs : s.MemWf) : (s.closeStage r st).MemWf := by
  unfold State.closeStage
  exact hs.setRegion

theorem State.MemWf.execEndHart_finish {close : State → State} (hs : s.MemWf)
    (hclose : ∀ {t}, t.MemWf → (close t).MemWf) :
    (execEndHart.finish close s).MemWf := by
  unfold Machine.execEndHart.finish
  refine .ite hs.park ?_
  refine .ite (.leave (.dropBound (hclose ?_))) hs.withMe.release.park
  split
  · exact hs.withMe.release
  · exact hs.withMe.release.completionOr

theorem State.MemWf.execEndHart (hs : s.MemWf) : Out.MemWf (execEndHart s) := by
  unfold Machine.execEndHart
  refine .next (.afterWork hs fun ht => .ite ht.park ?_)
  extract_lets u close
  have hu : u.MemWf := ht.allStatuses
  have hclose {u : State} (hu : u.MemWf) : (close u).MemWf := by
    unfold close
    split
    · exact hu
    · exact hu.closeStage
  clear_value u close
  split
  · exact .ite (.ite (hclose hu).handBack hu.park) (.ite (.execEndHart_finish hu.withMe hclose) hu.park)
  · exact hu.execEndHart_finish hclose

theorem State.MemWf.execLksv {f} (hs : s.MemWf) : Out.MemWf (execLksv f s) := by
  unfold Machine.execLksv
  refine .next ?_
  split
  · exact hs.halt
  · split
    · exact hs.halt
    · split
      · exact hs.logError.halt
      · split
        · exact hs.writeLocket.setHart.withMe
        · exact hs.sendHold.park
        · exact hs.park

theorem State.MemWf.parting {h} (hs : s.MemWf) : (s.parting h).MemWf := by
  unfold State.parting
  exact .ite (.foldl hs (fun ht => ht.setCtx)) hs.dropBound

theorem State.MemWf.settleFamily {h} (hs : s.MemWf) : (s.settleFamily h).MemWf := by
  unfold State.settleFamily
  exact .foldl hs fun ht => ht.setHart

theorem State.MemWf.loadSlot {h addr k} (hs : s.MemWf) : (s.loadSlot h addr k).MemWf := by
  unfold State.loadSlot
  extract_lets core u v s₁ s₂ s₃ s₄
  have h₁ : s₁.MemWf := hs.setHart.loadRows.settleFamily
  have h₂ : s₂.MemWf := .foldl h₁ fun ht => .ite ht.setCtx ht
  have h₃ : s₃.MemWf := h₂.takeSpaces
  have h₄ : s₄.MemWf := .of_eq rfl h₃
  exact .map_getD h₄ h₄.syncRcb

theorem State.MemWf.execLkld {f} (hs : s.MemWf) : Out.MemWf (execLkld f s) := by
  unfold Machine.execLkld
  extract_lets +onlyGivenNames v va h core s₁
  have h₁ : s₁.MemWf := hs.withMe
  refine .next ?_
  split
  · exact h₁.halt
  · split
    · exact h₁.halt
    · split
      · exact h₁.halt
      · extract_lets +onlyGivenNames addr
        split
        · exact h₁.logError.halt
        · refine .ite h₁.halt (.ite h₁.halt ?_)
          extract_lets k old s₂ s₃ s₄
          have h₂ : s₂.MemWf := .ite h₁ h₁.parting.freeSlot
          have h₄ : s₄.MemWf := .map_getD h₂.loadSlot h₂.loadSlot.releaseCore.settleRegion
          exact .ite h₄.withMe h₁.park

theorem State.MemWf.execHrel {f} (hs : s.MemWf) : Out.MemWf (execHrel f s) := by
  unfold Machine.execHrel
  refine .next ?_
  split
  · exact hs.halt
  · exact .ite hs.parting.withMe.leave hs.setHart.resumeCtxs.withMe

/-! ### Machine/Rep -/

theorem State.MemWf.fetchWord {va} (hs : s.MemWf) : Tried (·.1.MemWf) (·.1.MemWf) (s.fetchWord va) := by
  unfold State.fetchWord
  split
  · exact .error hs
  · refine .ite (.ok hs) ?_
    split
    · exact .error hs.logError
    · split
      · exact .ok (.of_eq rfl hs.peerLost)
      · exact .ite (.error hs.gather.withMe) (.ite (.ok (hs.update rfl)) (.ok hs.withMe.keepWindowsWith))

theorem State.MemWf.fetchWords {va n} (hs : s.MemWf) : Tried (·.1.MemWf) (·.1.MemWf) (s.fetchWords va n) := by
  induction n generalizing s va with
  | zero => exact .ok hs
  | succ n ih =>
    unfold State.fetchWords
    split
    · next eqn => exact .error (hs.fetchWord.of_error eqn)
    · next eqn =>
      have hw : State.MemWf _ := hs.fetchWord.of_ok eqn
      split
      · next eqn => exact .error ((ih hw).of_error eqn)
      · next eqn =>
        have hws := (ih hw).of_ok eqn
        exact .ok hws

/-- Every kind of queued instruction keeps the form, by the acts that the kinds share. -/
theorem queuedOf_memWf {i : Instr} {q : Queued} (h : queuedOf i = some q) : q.MemWf := by
  cases i with
  | vadd | vsub | vrsub | vmul | vmulh | vmacc | vmin | vmax | vand | vor | vxor | vsll | vsrl | vsra | vadds | vsubs
  | vaddX | vsubX | vrsubX | vmulX | vmulhX | vmaccX | vminX | vmaxX | vandX | vorX | vxorX | vsllX | vsrlX | vsraX
  | vaddsX | vsubsX | vclz | vctz | vpopc | vnot | vabs | vneg | vfadd | vfsub | vfmul | vfdiv | vfmin | vfmax | vfma
  | vfms | vfnma | vfnms | vfsgnj | vfsgnjn | vfsgnjx | vfaddX | vfsubX | vfmulX | vfdivX | vfminX | vfmaxX | vfmaX
  | vfmsX | vfnmaX | vfnmsX | vfsgnjX | vfsgnjnX | vfsgnjxX | vfsqrt | vfexp2 | vfabs | vfneg | vfclass | vfrint
  | vcvt | vcvtC4 | vmv | vbcast | vmerge | viota | vsldn | vgather | vcompress | vexpand | vinsert | vrowrot =>
    cases h; exact fun hs => hs.sweep
  | vcmpEq | vcmpNe | vcmpLt | vcmpLe | vcmpGt | vcmpGe | vcmpUnord | vcmpOrd | vcmpEqX | vcmpNeX | vcmpLtX | vcmpLeX
  | vcmpGtX | vcmpGeX | vcmpUnordX | vcmpOrdX | mand | mor | mxor | mandn | mnot | mmv | mset | mclr | msbf =>
    cases h; exact fun hs => hs.sweepMask
  | mpopc | mfirst | vextract | vredsum | vredmin | vredmax | vredand | vredor | vredxor | vfsumo | vfsumt | vfredmin
  | vfredmax =>
    cases h; exact fun hs => hs.scalarResult
  | vlu | vls | vld | vlx =>
    cases h; exact fun hs => hs.loadElems
  | vsu | vss | vsd | vsx =>
    cases h; exact fun hs => hs.storeElems
  | vamoaAdd | vamoaAnd | vamoaOr | vamoaXor | vamobMin | vamobMax | vamobSwap | vamobCas | vamocFadd | vamocFmin
  | vamocFmax =>
    cases h; exact vamo_memWf
  | vcbld => cases h; exact vcbldQueued_memWf
  | vslup => cases h; exact vslupQueued_memWf
  | mswap => cases h; exact mswapQueued_memWf
  | mls => cases h; exact mlsQueued_memWf
  | mstr => cases h; exact mstrQueued_memWf
  | mop => cases h; exact mopQueued_memWf
  | mscan => cases h; exact mscanQueued_memWf
  | mscanf => cases h; exact mscanfQueued_memWf
  | maccRd => cases h; exact maccRdQueued_memWf
  | maccWr => cases h; exact maccWrQueued_memWf
  | maccZr => cases h; exact maccZrQueued_memWf
  | maccCp => cases h; exact maccCpQueued_memWf
  | maccScrd => cases h; exact maccScrdQueued_memWf
  | maccScwr => cases h; exact maccScwrQueued_memWf
  | _ => cases h

theorem queuedWord_memWf {w : IWord} {q : Queued} (h : queuedWord w = some q) : q.MemWf := by
  unfold queuedWord at h
  split at h
  · cases h
  · split at h
    · exact queuedOf_memWf h
    · cases h

theorem steppedWord_memWf {w : IWord} {q : Queued} (h : steppedWord w = some q) : q.MemWf := by
  obtain ⟨p, hp, rfl⟩ := Option.map_eq_some_iff.mp h
  exact fun hs => queuedWord_memWf hp hs

theorem State.MemWf.logLost {x e} (hs : s.MemWf) : (s.logLost x e).MemWf := by
  unfold State.logLost
  exact .of_eq rfl hs.logSite

theorem State.MemWf.stepMember {n} (hs : s.MemWf) : (s.stepMember n).MemWf := by
  unfold State.stepMember
  refine .ite hs.withMe ?_
  split
  · exact .ite hs.withMe hs.withMe.vectorFault
  · exact .ite hs.withMe hs.withMe.logLost.vectorFault
  · next hq _ => exact (hs.withMe.runEntry (steppedWord_memWf hq)).withMe

theorem State.MemWf.groupStep {p} (hs : s.MemWf) : (s.groupStep p).MemWf := by
  unfold State.groupStep
  dsimp only
  split
  · exact hs
  · exact .stepMember (hs.update rfl)

theorem State.MemWf.stepTile {n} (hs : s.MemWf) : (s.stepTile n).MemWf := by
  unfold State.stepTile
  split
  · exact hs
  · dsimp only
    split
    · exact hs.withMe
    · exact .ite hs hs.logLost.vectorFaultIn
    · next hq _ =>
      split
      · next eqn => exact ((steppedWord_memWf hq hs).of_done eqn).withMe
      · exact hs

theorem State.MemWf.unitStep {unit} (hs : s.MemWf) : (s.unitStep unit).MemWf := by
  unfold State.unitStep
  split
  · exact hs
  · exact hs.stepTile
  · exact hs.stepMember

theorem State.MemWf.swapStep (hs : s.MemWf) : s.swapStep.MemWf := by
  unfold State.swapStep
  split
  · exact hs
  · exact hs.stepTile
  · exact hs.stepMember

theorem State.MemWf.asHart {h} (hs : s.MemWf) : (s.asHart h).MemWf := by
  unfold State.asHart
  exact hs.update rfl

theorem State.MemWf.captureFrame {r} (hs : s.MemWf) : (s.captureFrame r).MemWf := by
  unfold State.captureFrame
  split
  · next eqn => exact (hs.fetchWords.of_error eqn).withMe.halt
  · next eqn =>
    have hw : State.MemWf _ := hs.fetchWords.of_ok eqn
    refine .ite hw.withMe ?_
    dsimp only
    split
    · exact hw.raise
    · exact hw.withMe

theorem State.MemWf.execRep {f} (hs : s.MemWf) : Out.MemWf (execRep f s) := by
  unfold Machine.execRep
  exact .next (.ite hs.withMe.withMe hs.withMe.captureFrame)

theorem State.MemWf.failReplay {r c tval} (hs : s.MemWf) : (s.failReplay r c tval).MemWf := by
  unfold State.failReplay
  exact hs.withMe.raise

/-- The words of a repeat frame stand for queued instructions, each of which keeps the form. -/
theorem getElem_filterMap_steppedWord_memWf {ws : List IWord} {n : Nat} {q : Queued}
    (h : (ws.filterMap steppedWord)[n]? = some q) : q.MemWf := by
  obtain ⟨w, -, hw⟩ := List.mem_filterMap.mp (List.mem_of_getElem? h)
  exact steppedWord_memWf hw

theorem State.MemWf.replayWord {r} (hs : s.MemWf) : (s.replayWord r).MemWf := by
  unfold State.replayWord
  dsimp only
  split
  · exact hs.withMe
  · next hq =>
    refine .ite hs.withMe ?_
    split
    · exact hs.failReplay
    · exact .ite hs (hs.enter (getElem_filterMap_steppedWord_memWf hq)).withMe

theorem State.MemWf.execRepBufferAcquire {h} (hs : s.MemWf) : Out.MemWf (execRepBufferAcquire h s) := by
  unfold Machine.execRepBufferAcquire
  refine .next ?_
  split
  · exact hs
  · exact .ite hs.asHart.withMe.captureFrame hs

theorem State.MemWf.execReplayEnqueue {h} (hs : s.MemWf) : Out.MemWf (execReplayEnqueue h s) := by
  unfold Machine.execReplayEnqueue
  refine .next ?_
  split
  · exact hs
  · exact .ite hs.asHart.replayWord hs

/-! ### Machine/Delivery -/

theorem State.MemWf.execConvoyStart {h} (hs : s.MemWf) : Out.MemWf (execConvoyStart h s) := by
  unfold Machine.execConvoyStart
  exact .next (.ite hs.setHart hs)

theorem State.MemWf.execConvoyDrain {h} (hs : s.MemWf) : Out.MemWf (execConvoyDrain h s) := by
  unfold Machine.execConvoyDrain
  exact .next (.ite hs.setHart hs)

theorem State.MemWf.execGroupStart {h} (hs : s.MemWf) : Out.MemWf (execGroupStart h s) := by
  unfold Machine.execGroupStart
  exact .next (.ite hs.asHart.groupStep hs)

theorem State.MemWf.execVectorToScalarWrite {h} (hs : s.MemWf) : Out.MemWf (execVectorToScalarWrite h s) := by
  unfold Machine.execVectorToScalarWrite
  exact .next (.ite hs.asHart.groupStep hs)

theorem State.MemWf.execMswapEffect {h} (hs : s.MemWf) : Out.MemWf (execMswapEffect h s) := by
  unfold Machine.execMswapEffect
  exact .next hs.asHart.swapStep

theorem State.MemWf.serveUnit {core unit} (hs : s.MemWf) : (s.serveUnit core unit).MemWf := by
  unfold State.serveUnit
  split
  · exact hs
  · exact hs.asHart.unitStep

theorem State.MemWf.execLoadGroupLanding {h row grp} (hs : s.MemWf) :
    Out.MemWf (execLoadGroupLanding h row grp s) := by
  unfold Machine.execLoadGroupLanding
  refine .next ?_
  split
  · exact hs
  · split
    · exact hs
    · exact .ite hs hs.setHart

theorem State.MemWf.execNonblockingComplete {h ctr num} (hs : s.MemWf) :
    Out.MemWf (execNonblockingComplete h ctr num s) := by
  unfold Machine.execNonblockingComplete
  refine .next ?_
  split
  · exact hs
  · exact hs.nbFinish

theorem State.MemWf.loseLanes {h} (hs : s.MemWf) : (s.loseLanes h).MemWf := by
  unfold State.loseLanes
  exact hs.tickTime.setHart

theorem State.MemWf.dropImage {h was} (hs : s.MemWf) : (s.dropImage h was).MemWf := by
  unfold State.dropImage
  exact .ite hs hs.asHart.withMe

theorem State.MemWf.laneTrap {h} (hs : s.MemWf) : (s.laneTrap h).MemWf := by
  unfold State.laneTrap
  exact .ite hs.asHart hs.asHart.vectorFault.loseLanes.dropImage

theorem State.MemWf.execClusterRetire {core cluster} (hs : s.MemWf) :
    Out.MemWf (execClusterRetire core cluster s) := by
  unfold Machine.execClusterRetire
  refine .next (.ite ?_ hs)
  dsimp only
  split
  · exact hs.update rfl
  · exact .ite (.laneTrap (.setHart (hs.update rfl))) (.loseLanes (hs.update rfl))

theorem State.MemWf.recordError {h log} (hs : s.MemWf) : (s.recordError h log).MemWf := by
  unfold State.recordError
  exact .setHart (.ite hs hs.tickTime)

theorem State.MemWf.eccTrap {h pos e tval log} (hs : s.MemWf) : (s.eccTrap h pos e tval log).MemWf := by
  unfold State.eccTrap
  extract_lets was s₁ s₂
  have h₁ : s₁.MemWf := hs.recordError.asHart.withMe
  have h₂ : s₂.MemWf := .ite h₁.vectorFault h₁.vectorFaultIn
  exact .ite h₂.loseLanes.dropImage h₂

theorem State.MemWf.execVectorTrap {h pos cause tval log} (hs : s.MemWf) :
    Out.MemWf (execVectorTrap h pos cause tval log s) := by
  unfold Machine.execVectorTrap
  refine .next ?_
  split
  · exact hs
  · exact .ite hs (.ite hs.eccTrap (.ite hs.setHart.laneTrap (.ite hs.asHart.stepMember hs)))

theorem State.MemWf.execAsyncTrap {h} (hs : s.MemWf) : Out.MemWf (execAsyncTrap h s) := by
  unfold Machine.execAsyncTrap
  refine .next ?_
  split
  · exact hs
  · exact hs.setHart

theorem State.MemWf.saveLocket {h} (hs : s.MemWf) : (s.saveLocket h).MemWf := by
  unfold State.saveLocket
  dsimp only
  split
  · exact hs.stopHart
  · exact hs.stopHart.writeLocket

theorem State.MemWf.failCtxs {keys} (hs : s.MemWf) : (s.failCtxs keys).MemWf := by
  unfold State.failCtxs
  exact .foldl hs fun ht => .foldl ht fun hu => hu.abortOp

theorem State.MemWf.closeRegion {r} (hs : s.MemWf) : (s.closeRegion r).MemWf := by
  unfold State.closeRegion
  exact hs.setRegion

theorem State.MemWf.dropLockets {r} (hs : s.MemWf) : (s.dropLockets r).MemWf := by
  unfold State.dropLockets
  exact hs.update rfl

theorem State.MemWf.stopDomain {r} (hs : s.MemWf) : (s.stopDomain r).MemWf := by
  unfold State.stopDomain
  extract_lets +onlyGivenNames ds s₁ l s₂ s₃
  have h₁ : s₁.MemWf := .foldl hs fun ht => ht.closeRegion
  have h₃ : s₃.MemWf := .foldl (.foldl h₁ fun ht => ht.sendHold) fun ht => ht.drainNb
  refine .ite h₃ ?_
  extract_lets s₄ s₅ first s₆ s₇
  have h₅ : s₅.MemWf := .foldl h₃.failCtxs fun ht => ht.saveLocket
  have h₆ : s₆.MemWf := .foldl h₅ fun ht => ht.completionOr.dropLockets
  have h₇ : s₇.MemWf := .foldl h₆ fun ht => ht.freeSlot.releaseCore
  exact .foldl h₇ fun ht => ht.settleRegion

theorem State.MemWf.execStoppedHartSave {h} (hs : s.MemWf) : Out.MemWf (execStoppedHartSave h s) := by
  unfold Machine.execStoppedHartSave
  refine .next ?_
  split
  · split
    · exact .ite hs.drainNb.stopHart.setHart hs.drainNb
    · exact hs.stopDomain
  · exact hs

theorem State.MemWf.execPageWalkComplete {h va} (hs : s.MemWf) : Out.MemWf (execPageWalkComplete h va s) := by
  unfold Machine.execPageWalkComplete
  refine .next (.ite hs ?_)
  split
  · exact hs
  · exact hs.update rfl

/-! ### Machine/Waits -/

theorem State.MemWf.retryWait {i} (hs : s.MemWf) : Out.MemWf (retryWait i s) := by
  unfold Machine.retryWait
  split
  · exact hs.execWaitc
  · exact hs.execWaitt
  · exact hs.execWaitg
  · exact hs.execWaitwEq
  · exact hs.execWaitwNe
  · exact hs.execWaitwGen
  · exact hs.execWaitwLtn
  · exact hs.execQpop
  · exact hs.execQpush
  · exact hs.execWfi
  · exact hs.execMmodeOn
  · exact .next hs

theorem State.MemWf.retryWord {i} (hs : s.MemWf) : Out.MemWf (retryWord i s) := by
  unfold Machine.retryWord
  split
  · exact hs.execWaitwEq
  · exact hs.execWaitwNe
  · exact hs.execWaitwGen
  · exact hs.execWaitwLtn
  · exact .next hs

theorem State.MemWf.retryRelease {i} (hs : s.MemWf) : Out.MemWf (retryRelease i s) := by
  unfold Machine.retryRelease
  split
  · exact hs.execPhaseRel
  · exact hs.execPhaseAr
  · exact hs.execEndHart
  · exact .next hs

theorem State.MemWf.retrySetvl {i} (hs : s.MemWf) : Out.MemWf (retrySetvl i s) := by
  unfold Machine.retrySetvl
  split
  · exact hs.execSetvl
  · exact .next hs

theorem State.MemWf.retryFork {i} (hs : s.MemWf) : Out.MemWf (retryFork i s) := by
  unfold Machine.retryFork
  split
  · exact hs.execFork
  · exact .next hs

theorem State.MemWf.retryMerge {i} (hs : s.MemWf) : Out.MemWf (retryMerge i s) := by
  unfold Machine.retryMerge
  split
  · exact hs.execMerge
  · exact .next hs

theorem State.MemWf.retryEnd {i} (hs : s.MemWf) : Out.MemWf (retryEnd i s) := by
  unfold Machine.retryEnd
  split
  · exact hs.execEndHart
  · exact .next hs

theorem State.MemWf.retryTile {i} (hs : s.MemWf) : Out.MemWf (retryTile i s) := by
  unfold Machine.retryTile
  split
  · exact hs.execMmodeOn
  · exact .next hs

theorem State.MemWf.retryDrain {i} (hs : s.MemWf) : Out.MemWf (retryDrain i s) := by
  unfold Machine.retryDrain
  split
  · exact hs.execTime
  · exact hs.execIfence
  · exact hs.execPhaseRel
  · exact hs.execPhaseAcq
  · exact hs.execPhaseAr
  · exact hs.execQpush
  · exact hs.execCcset
  · exact hs.execSetvl
  · exact hs.execFork
  · exact hs.execMerge
  · exact hs.execEndHart
  · exact hs.execLksv
  · exact hs.execLkld
  · exact hs.execCopy
  · exact hs.execCopy2
  · exact hs.execCopyx
  · exact hs.execFill
  · exact hs.execPref
  · exact hs.execColl
  · exact hs.execCsrr
  · exact hs.execCsrw
  · exact hs.execCsrs
  · exact hs.execCsrc
  · exact hs.execTret
  · exact hs.execLaunch
  · exact .next hs

theorem State.MemWf.retry {h} {f : Instr → State → Out} (hs : s.MemWf) (hf : ∀ {i t}, t.MemWf → Out.MemWf (f i t)) :
    Out.MemWf (s.retry h f) := by
  unfold State.retry
  split
  · exact .next hs
  · exact .ite (hf hs.asHart) (.next hs)

theorem State.MemWf.execWaitReturn {h} (hs : s.MemWf) : Out.MemWf (execWaitReturn h s) := by
  unfold Machine.execWaitReturn
  exact hs.retry fun ht => ht.retryWait

theorem State.MemWf.execWdeadlineExpiry {h} (hs : s.MemWf) : Out.MemWf (execWdeadlineExpiry h s) := by
  unfold Machine.execWdeadlineExpiry
  exact State.MemWf.retry (.ite hs.tickTime hs) fun ht => .ite ht.retryWait (.next ht)

theorem State.MemWf.execWaitwPoll {h} (hs : s.MemWf) : Out.MemWf (execWaitwPoll h s) := by
  unfold Machine.execWaitwPoll
  exact hs.retry fun ht => ht.retryWord

theorem State.MemWf.execSealSend {h} (hs : s.MemWf) : Out.MemWf (execSealSend h s) := by
  unfold Machine.execSealSend
  exact hs.retry fun ht => ht.retryRelease

theorem State.MemWf.execDrainedResume {h} (hs : s.MemWf) : Out.MemWf (execDrainedResume h s) := by
  unfold Machine.execDrainedResume
  exact hs.retry fun ht => ht.retryDrain

theorem State.MemWf.execShareAdoption {h} (hs : s.MemWf) : Out.MemWf (execShareAdoption h s) := by
  unfold Machine.execShareAdoption
  exact hs.retry fun ht => ht.retrySetvl

theorem State.MemWf.execForkSplit {h} (hs : s.MemWf) : Out.MemWf (execForkSplit h s) := by
  unfold Machine.execForkSplit
  exact hs.retry fun ht => ht.retryFork

theorem State.MemWf.execMergeComplete {h} (hs : s.MemWf) : Out.MemWf (execMergeComplete h s) := by
  unfold Machine.execMergeComplete
  exact hs.retry fun ht => ht.retryMerge

theorem State.MemWf.execEndComplete {h} (hs : s.MemWf) : Out.MemWf (execEndComplete h s) := by
  unfold Machine.execEndComplete
  exact hs.retry fun ht => ht.retryEnd

theorem State.MemWf.execTileQueueGrant {core} (hs : s.MemWf) : Out.MemWf (execTileQueueGrant core s) := by
  unfold Machine.execTileQueueGrant
  dsimp only
  split
  · exact .next hs
  · exact hs.retry fun ht => ht.retryTile

/-! ### Machine/Fabric -/

theorem State.MemWf.recordWrite {a bs} (hs : s.MemWf) : (s.recordWrite a bs).MemWf := by
  unfold State.recordWrite
  exact .of_eq rfl hs.writeBytes

theorem State.MemWf.answer {r op data} (hs : s.MemWf) : (s.answer r op data).MemWf := by
  unfold State.answer
  exact hs.sendTo

theorem State.MemWf.ackSeals (hs : s.MemWf) : s.ackSeals.MemWf := by
  unfold State.ackSeals
  exact .of_eq rfl (.foldl hs fun ht => .of_eq rfl ht.answer)

theorem State.MemWf.performedRecord {r} (hs : s.MemWf) : (s.performedRecord r).MemWf := by
  unfold State.performedRecord
  exact .ackSeals (hs.update rfl)

theorem State.MemWf.serveRead {r} (hs : s.MemWf) : (s.serveRead r).MemWf := by
  unfold State.serveRead
  exact .ite hs (.ite hs.answer (.ite hs.logDie hs.answer))

theorem State.MemWf.serveWrite {r} (hs : s.MemWf) : (s.serveWrite r).MemWf := by
  unfold State.serveWrite
  exact .ite hs (.ite hs.regStore.performedRecord (.ite hs.logDie hs.recordWrite.performedRecord))

theorem State.MemWf.serveWriteb {r} (hs : s.MemWf) : (s.serveWriteb r).MemWf := by
  unfold State.serveWriteb
  exact .ite hs (.ite hs.logDie hs.performBytes.performedRecord)

theorem State.MemWf.pushPart {r bs} (hs : s.MemWf) : (s.pushPart r bs).MemWf := by
  unfold State.pushPart
  exact hs.update rfl

theorem State.MemWf.pushHere {r bs} (hs : s.MemWf) : (s.pushHere r bs).MemWf := by
  unfold State.pushHere
  exact .ite (.answer (hs.update rfl)) (.ite (.answer (hs.update rfl)) (.answer (.pushItem (hs.update rfl))))

theorem State.MemWf.serveAtomic {r skip} (hs : s.MemWf) : (s.serveAtomic r skip).MemWf := by
  unfold State.serveAtomic
  extract_lets +onlyGivenNames a cw op ty b
  refine .ite hs (.ite hs.logDie (.ite hs.pushPart.performedRecord (.ite hs.pushHere.performedRecord
    (.ite hs.claspAdd.performedRecord ?_))))
  extract_lets m args v s₁ s₂
  have h₁ : s₁.MemWf := hs.writeGa.performedRecord
  have h₂ : s₂.MemWf := .ite h₁.closeAllQueues h₁
  exact .ite h₂.answer h₂

theorem State.MemWf.mapHarts {p} {f : State → ℕ → State} (hs : s.MemWf) (hf : ∀ {t a}, t.MemWf → (f t a).MemWf) :
    (s.mapHarts p f).MemWf := by
  unfold State.mapHarts
  exact .foldl hs hf

theorem State.MemWf.mapXfers {f} (hs : s.MemWf) : (s.mapXfers f).MemWf := by
  unfold State.mapXfers
  exact .foldl hs fun ht => ht.setCtx

theorem State.MemWf.takeAnswer {r} (hs : s.MemWf) : (s.takeAnswer r).MemWf := by
  unfold State.takeAnswer
  exact (hs.mapHarts (fun ht => ht.setHart.untrack)).mapXfers

theorem State.MemWf.takeSeal {r} (hs : s.MemWf) : (s.takeSeal r).MemWf := by
  unfold State.takeSeal
  exact .ackSeals (hs.update rfl)

theorem State.MemWf.takeSealAck {r} (hs : s.MemWf) : (s.takeSealAck r).MemWf := by
  unfold State.takeSealAck
  exact hs.mapHarts fun ht => ht.setHart

theorem State.MemWf.takePerfack {r} (hs : s.MemWf) : (s.takePerfack r).MemWf := by
  unfold State.takePerfack
  exact (hs.mapHarts (fun ht => ht.setHart.untrack)).mapXfers

theorem State.MemWf.atHome {ord r} {f : State → Record → State} (hs : s.MemWf)
    (hf : ∀ {t a}, t.MemWf → (f t a).MemWf) :
    (s.atHome ord r f).MemWf := by
  unfold State.atHome
  exact .ite (hs.update rfl) ((hf hs).noticeAll)

theorem State.MemWf.serveSingle {r} (hs : s.MemWf) : (s.serveSingle r).MemWf := by
  unfold State.serveSingle
  exact hs.serveAtomic

theorem State.MemWf.serveMany {r} (hs : s.MemWf) : (s.serveMany r).MemWf := by
  unfold State.serveMany
  exact hs.serveAtomic

theorem State.MemWf.deliver {ord r} (hs : s.MemWf) : (s.deliver ord r).MemWf := by
  unfold State.deliver
  split
  · exact hs.atHome fun ht => ht.serveRead
  · exact hs.atHome fun ht => ht.serveWrite
  · exact hs.atHome fun ht => ht.serveWriteb
  · exact hs.atHome fun ht => ht.serveSingle
  · exact hs.atHome fun ht => ht.serveMany
  · exact hs.takeAnswer
  · exact hs.takeAnswer
  · exact hs.takeSeal
  · exact hs.takeSealAck
  · exact hs.collPart
  · exact hs.takeParked
  · exact hs.takePerfack
  · exact hs.takeAborted
  · exact hs

theorem State.MemWf.serveHeld (hs : s.MemWf) : s.serveHeld.MemWf := by
  unfold State.serveHeld
  exact .ite hs (.foldl (hs.update rfl) fun ht => ht.deliver)

theorem State.MemWf.execRead {r} (hs : s.MemWf) : Out.MemWf (execRead r s) := by
  unfold Machine.execRead
  exact .next (hs.atHome fun ht => ht.serveRead)

theorem State.MemWf.execWrite {r} (hs : s.MemWf) : Out.MemWf (execWrite r s) := by
  unfold Machine.execWrite
  exact .next (hs.atHome fun ht => ht.serveWrite)

theorem State.MemWf.execWriteb {r} (hs : s.MemWf) : Out.MemWf (execWriteb r s) := by
  unfold Machine.execWriteb
  exact .next (hs.atHome fun ht => ht.serveWriteb)

theorem State.MemWf.execAtomic {r} (hs : s.MemWf) : Out.MemWf (execAtomic r s) := by
  unfold Machine.execAtomic
  exact .next (hs.atHome fun ht => ht.serveSingle)

theorem State.MemWf.execCombined {r} (hs : s.MemWf) : Out.MemWf (execCombined r s) := by
  unfold Machine.execCombined
  exact .next (hs.atHome fun ht => ht.serveMany)

theorem State.MemWf.execSeal {r} (hs : s.MemWf) : Out.MemWf (execSeal r s) := by
  unfold Machine.execSeal
  exact .next hs.takeSeal

theorem State.MemWf.execSealack {r} (hs : s.MemWf) : Out.MemWf (execSealack r s) := by
  unfold Machine.execSealack
  exact .next hs.takeSealAck

theorem State.MemWf.execPerfack {r} (hs : s.MemWf) : Out.MemWf (execPerfack r s) := by
  unfold Machine.execPerfack
  exact .next hs.takePerfack

theorem State.MemWf.execPerfackSendTimer {die} (hs : s.MemWf) : Out.MemWf (execPerfackSendTimer die s) := by
  unfold Machine.execPerfackSendTimer
  refine .next ?_
  split
  · exact hs
  · exact .of_eq rfl hs.sendTo

theorem State.MemWf.setConn {p c} (hs : s.MemWf) : (s.setConn p c).MemWf := by
  unfold State.setConn
  exact hs.update rfl

theorem State.MemWf.setChan {d c x} (hs : s.MemWf) : (s.setChan d c x).MemWf := by
  unfold State.setChan
  exact hs.setDie

theorem State.MemWf.execBeadArrival {die ch writer} (hs : s.MemWf) : Out.MemWf (execBeadArrival die ch writer s) := by
  unfold Machine.execBeadArrival
  refine .next (.ite ?_ hs)
  dsimp only
  split
  · exact hs.update rfl
  · exact .ite hs.setChan (hs.update rfl)

theorem State.MemWf.resend {die ch x crc} (hs : s.MemWf) : (s.resend die ch x crc).MemWf := by
  unfold State.resend
  exact hs.update rfl

theorem State.MemWf.execHoldReceive {die ch hold} (hs : s.MemWf) : Out.MemWf (execHoldReceive die ch hold s) := by
  unfold Machine.execHoldReceive
  refine .next (.ite hs ?_)
  split
  · exact hs
  · refine .ite hs.resend (.ite hs (.ite hs.resend (.ite (.ite (hs.update rfl) hs.resend) ?_)))
    exact .foldl (hs.update rfl) fun ht => ht.deliver

theorem State.MemWf.execBeadTimeout {die ch} (hs : s.MemWf) : Out.MemWf (execBeadTimeout die ch s) := by
  unfold Machine.execBeadTimeout
  exact .next (.ite hs.setChan hs)

theorem State.MemWf.execBeadRegenerate {die ch} (hs : s.MemWf) : Out.MemWf (execBeadRegenerate die ch s) := by
  unfold Machine.execBeadRegenerate
  exact .next (.ite hs.setChan hs)

theorem State.MemWf.setScore {port shift v} (hs : s.MemWf) : (s.setScore port shift v).MemWf := by
  unfold State.setScore
  exact .ite (hs.update rfl) (hs.update rfl)

theorem State.MemWf.meter {key f} (hs : s.MemWf) : (s.meter key f).MemWf := by
  unfold State.meter
  exact hs.update rfl

theorem State.MemWf.saveConn {p} (hs : s.MemWf) : (s.saveConn p).MemWf := by
  unfold State.saveConn
  exact .ite hs hs.writeBytes

theorem State.MemWf.spillConn {p} (hs : s.MemWf) : (s.spillConn p).MemWf := by
  unfold State.spillConn
  dsimp only
  split
  · exact hs
  · exact .saveConn (hs.update rfl)

theorem State.MemWf.emitFrame {p w f} (hs : s.MemWf) : (s.emitFrame p w f).MemWf := by
  unfold State.emitFrame
  extract_lets c now c' s' s''
  have hs' : s'.MemWf := .ite hs.setConn hs.setConn.spillConn
  have hs'' : s''.MemWf := by
    unfold s''
    split
    · exact hs'
    · exact hs'.meter
  exact .of_eq rfl hs''

theorem State.MemWf.restarted {p} (hs : s.MemWf) : (s.restarted p).MemWf := by
  unfold State.restarted
  exact .ite (hs.update rfl) hs

theorem State.MemWf.sendRst {p w} (hs : s.MemWf) : (s.sendRst p w).MemWf := by
  unfold State.sendRst
  exact hs.setConn.emitFrame.restarted

theorem State.MemWf.sendAck {p w} (hs : s.MemWf) : (s.sendAck p w).MemWf := by
  unfold State.sendAck
  exact hs.emitFrame

theorem State.MemWf.sendAgain {p w x} (hs : s.MemWf) : (s.sendAgain p w x).MemWf := by
  unfold State.sendAgain
  refine .emitFrame ?_
  split
  · exact hs.setConn
  · exact hs.setConn.meter

theorem State.MemWf.sendNew {p w out cls die sec} (hs : s.MemWf) : (s.sendNew p w out cls die sec).MemWf := by
  unfold State.sendNew
  exact hs.setConn.emitFrame

theorem State.MemWf.execFrameTransmit {iod peer} (hs : s.MemWf) : Out.MemWf (execFrameTransmit iod peer s) := by
  unfold Machine.execFrameTransmit
  refine .next (.ite hs.tickTime.pumpColl ?_)
  refine .ite ?_ ?_
  · split
    · exact hs.tickTime.pumpColl
    · exact .sendRst (.of_eq rfl hs.tickTime.pumpColl)
  · refine .ite hs.tickTime.pumpColl ?_
    split
    · exact .sendAgain (.of_eq rfl hs.tickTime.pumpColl)
    · refine .ite ?_ ?_
      · split
        · exact hs.tickTime.pumpColl
        · exact .sendNew (.of_eq rfl hs.tickTime.pumpColl)
      · refine .ite ?_ hs.tickTime.pumpColl
        split
        · exact hs.tickTime.pumpColl
        · exact .sendAck (.of_eq rfl hs.tickTime.pumpColl)

theorem State.MemWf.countFrame {p} (hs : s.MemWf) : (s.countFrame p).MemWf := by
  unfold State.countFrame
  exact hs.setConn

theorem State.MemWf.loseHart {p h} (hs : s.MemWf) : (s.loseHart p h).MemWf := by
  unfold State.loseHart
  exact .ite (.failSeal (.ite hs.peerLost.setHart.pump hs)) (.ite hs.peerLost.setHart.pump hs)

theorem State.MemWf.losePeer {p} (hs : s.MemWf) : (s.losePeer p).MemWf := by
  unfold State.losePeer
  exact (hs.mapHarts (fun ht => ht.loseHart)).mapXfers

theorem State.MemWf.failPeer {p} (hs : s.MemWf) : (s.failPeer p).MemWf := by
  unfold State.failPeer
  exact hs.setConn.losePeer

theorem State.MemWf.hear {p} (hs : s.MemWf) : (s.hear p).MemWf := by
  unfold State.hear
  exact hs.tickTime.setConn

theorem State.MemWf.hearPath {f} (hs : s.MemWf) : (s.hearPath f).MemWf := by
  unfold State.hearPath
  split
  · exact hs
  · exact .foldl hs.tickTime fun ht => ht.setConn

theorem State.MemWf.takeRst {p} (hs : s.MemWf) : (s.takeRst p).MemWf := by
  unfold State.takeRst
  exact .ite (.ite hs.setConn.restarted hs) (.ite hs.setConn hs.losePeer.setConn)

theorem State.MemWf.receiveFrame {f} (hs : s.MemWf) : (s.receiveFrame f).MemWf := by
  unfold State.receiveFrame
  refine .ite hs.setConn (.ite hs.takeRst (.ite hs (.ite hs.setConn (.ite hs.setConn.countFrame ?_))))
  exact .foldl (.foldl hs.setConn.countFrame fun ht => ht.deliver) fun ht => ht.deliver

theorem State.MemWf.discardFrame {iod} (hs : s.MemWf) : (s.discardFrame iod).MemWf := by
  unfold State.discardFrame
  exact hs.setDie

theorem State.MemWf.meterIn {iod port good} (hs : s.MemWf) : (s.meterIn iod port good).MemWf := by
  unfold State.meterIn
  exact .ite hs hs.meter

theorem State.MemWf.relayFrame {iod port f} (hs : s.MemWf) : (s.relayFrame iod port f).MemWf := by
  unfold State.relayFrame
  exact .ite hs.discardFrame (.ite (hs.update rfl) hs)

theorem State.MemWf.execRelayForward {iod} (hs : s.MemWf) : Out.MemWf (execRelayForward iod s) := by
  unfold Machine.execRelayForward
  refine .next ?_
  split
  · exact hs.tickTime
  · exact .ite (hs.update rfl) hs.tickTime

theorem State.MemWf.execRetryTimerExpiry {peer} (hs : s.MemWf) : Out.MemWf (execRetryTimerExpiry peer s) := by
  unfold Machine.execRetryTimerExpiry
  exact .next (.ite hs.tickTime (.ite hs.tickTime.setConn.failPeer hs.tickTime.setConn))

theorem State.MemWf.execAckTimer {peer} (hs : s.MemWf) : Out.MemWf (execAckTimer peer s) := by
  unfold Machine.execAckTimer
  exact .next (.ite hs.setConn hs)

theorem State.MemWf.execKeepaliveTimer {peer} (hs : s.MemWf) : Out.MemWf (execKeepaliveTimer peer s) := by
  unfold Machine.execKeepaliveTimer
  exact .next (.ite hs.tickTime.setConn hs.tickTime)

theorem State.MemWf.markDown {p} (hs : s.MemWf) : (s.markDown p).MemWf := by
  unfold State.markDown
  exact .abortPeer (.of_eq rfl hs.failPeer)

theorem State.MemWf.execPeerMarkDown {peer} (hs : s.MemWf) : Out.MemWf (execPeerMarkDown peer s) := by
  unfold Machine.execPeerMarkDown
  exact .next (.ite hs.tickTime.markDown hs.tickTime)

theorem State.MemWf.execRst {peer} (hs : s.MemWf) : Out.MemWf (execRst peer s) := by
  unfold Machine.execRst
  exact .next (.ite hs.setConn hs)

theorem State.MemWf.execConnectionStateFill {peer} (hs : s.MemWf) : Out.MemWf (execConnectionStateFill peer s) := by
  unfold Machine.execConnectionStateFill
  exact .next (.ite (.foldl hs.setDie.setConn.spillConn (fun ht => ht.receiveFrame)) hs)

theorem State.MemWf.updateHealth {port shift} (hs : s.MemWf) : (s.updateHealth port shift).MemWf := by
  unfold State.updateHealth
  dsimp only
  refine .ite ?_ hs
  exact .ite (.of_eq rfl hs.setScore) (.of_eq rfl hs.setScore)

theorem State.MemWf.trainPair {port shift} (hs : s.MemWf) : (s.trainPair port shift).MemWf := by
  unfold State.trainPair
  dsimp only
  refine .ite hs (.ite (hs.update rfl) (.ite (.ite (.setConn ?_) ?_) (.ite (.setScore ?_) ?_)))
  · exact .of_eq rfl (s := State.setScore _ _ _ _) (.setScore (hs.update rfl))
  · exact .of_eq rfl (s := State.setScore _ _ _ _) (.setScore (hs.update rfl))
  · exact .of_eq rfl hs
  · exact .of_eq rfl hs

theorem State.MemWf.execSlotBegin {iod} (hs : s.MemWf) : Out.MemWf (execSlotBegin iod s) := by
  unfold Machine.execSlotBegin
  refine .next (.ite hs ?_)
  extract_lets s₁ old n ports s₂ s₃ s₄
  have h₂ : s₂.MemWf := .foldl hs.tickTime fun ht => ht.updateHealth
  have h₄ : s₄.MemWf := .foldl (.of_eq rfl h₂) fun ht => ht.trainPair
  exact .of_eq rfl h₄

theorem State.MemWf.execLockTimeout {iod port shift} (hs : s.MemWf) :
    Out.MemWf (execLockTimeout iod port shift s) := by
  unfold Machine.execLockTimeout
  exact .next (.ite (hs.update rfl) hs)

/-! ### Machine/HostLink -/

theorem State.MemWf.execTlbinv {die val} (hs : s.MemWf) : Out.MemWf (execTlbinv die val s) := by
  unfold Machine.execTlbinv
  exact .next (.ite hs.tlbInvalidate hs)

theorem State.MemWf.execPeerup {iod val} (hs : s.MemWf) : Out.MemWf (execPeerup iod val s) := by
  unfold Machine.execPeerup
  exact .next (.ite hs.peerUp hs)

theorem State.MemWf.execParklim {iod h val} (hs : s.MemWf) : Out.MemWf (execParklim iod h val s) := by
  unfold Machine.execParklim
  exact .next (.ite hs.setDie hs)

theorem State.MemWf.execRegisterWrite {die off width val} (hs : s.MemWf) :
    Out.MemWf (execRegisterWrite die off width val s) := by
  unfold Machine.execRegisterWrite
  exact .next (.ite hs.regStore hs)

theorem State.MemWf.performPosted {p} (hs : s.MemWf) : (s.performPosted p).MemWf := by
  unfold State.performPosted
  exact .ite (.ite hs.regStore hs) (.ite (.ite hs.logDie hs.recordWrite) hs)

theorem State.MemWf.execHostPostedWrite {bar off data} (hs : s.MemWf) :
    Out.MemWf (execHostPostedWrite bar off data s) := by
  unfold Machine.execHostPostedWrite
  exact .next (.ite hs (.ite hs.performPosted (hs.update rfl)))

theorem State.MemWf.flushPosted {link} (hs : s.MemWf) : (s.flushPosted link).MemWf := by
  unfold State.flushPosted
  exact .foldl (hs.update rfl) fun ht => .ite ht.performPosted (ht.update rfl)

theorem State.MemWf.hostAnswer {l} (hs : s.MemWf) : (s.hostAnswer l).MemWf := by
  unfold State.hostAnswer
  exact hs.update rfl

theorem State.MemWf.performRead {bar off width} (hs : s.MemWf) : (s.performRead bar off width).MemWf := by
  unfold State.performRead
  exact .ite (.ite hs.hostAnswer hs.hostAnswer) (.ite (.ite hs.logDie.hostAnswer hs.hostAnswer) hs.hostAnswer)

theorem State.MemWf.execHostRead {bar off width} (hs : s.MemWf) : Out.MemWf (execHostRead bar off width s) := by
  unfold Machine.execHostRead
  exact .next (.ite hs (.ite hs.flushPosted.performRead (.of_eq rfl hs.flushPosted)))

theorem State.MemWf.hostMove (hs : s.MemWf) : s.hostMove.MemWf := by
  unfold State.hostMove
  split
  · exact hs
  · dsimp only
    split
    · exact .performPosted (.of_eq rfl hs)
    · split
      · exact hs.update rfl
      · exact .performRead (.of_eq rfl hs)

theorem State.MemWf.hostTimeout {link} (hs : s.MemWf) : (s.hostTimeout link).MemWf := by
  unfold State.hostTimeout
  exact hs.update rfl

/-! ### Machine/PodTime -/

theorem State.MemWf.execDieTimeExchange {die t1 t2 t3 t4} (hs : s.MemWf) :
    Out.MemWf (execDieTimeExchange die t1 t2 t3 t4 s) := by
  unfold Machine.execDieTimeExchange
  exact .next (.ite hs.tickTime.setDie hs.tickTime)

theorem State.MemWf.execDieSyncTimeout {die} (hs : s.MemWf) : Out.MemWf (execDieSyncTimeout die s) := by
  unfold Machine.execDieSyncTimeout
  exact .next (.ite hs.tickTime.setDie hs.tickTime)

theorem State.MemWf.execDieTermGrowth {die} (hs : s.MemWf) : Out.MemWf (execDieTermGrowth die s) := by
  unfold Machine.execDieTermGrowth
  exact .next (.ite hs.tickTime.setDie hs.tickTime)

theorem State.MemWf.sendTime {ty dest m} (hs : s.MemWf) : (s.sendTime ty dest m).MemWf := by
  unfold State.sendTime
  exact hs.update rfl

theorem State.MemWf.execTimeExchangeTimer {child} (hs : s.MemWf) : Out.MemWf (execTimeExchangeTimer child s) := by
  unfold Machine.execTimeExchangeTimer
  exact .next (.ite hs hs.tickTime.sendTime.sendTime)

theorem State.MemWf.execSync {m} (hs : s.MemWf) : Out.MemWf (execSync m s) := by
  unfold Machine.execSync
  exact .next (.ite (hs.update rfl) hs)

theorem State.MemWf.execFollow {m} (hs : s.MemWf) : Out.MemWf (execFollow m s) := by
  unfold Machine.execFollow
  exact .next (.ite (.sendTime (hs.update rfl)) hs)

theorem State.MemWf.execDreq {m} (hs : s.MemWf) : Out.MemWf (execDreq m s) := by
  unfold Machine.execDreq
  exact .next (.ite hs hs.tickTime.sendTime)

theorem State.MemWf.execDresp {m} (hs : s.MemWf) : Out.MemWf (execDresp m s) := by
  unfold Machine.execDresp
  exact .next (.ite (hs.update rfl) hs)

theorem State.MemWf.chooseParent (hs : s.MemWf) : s.chooseParent.MemWf := by
  unfold State.chooseParent
  refine .ite (hs.update rfl) ?_
  split
  · exact hs
  · exact .ite hs (hs.update rfl)

theorem State.MemWf.electGrandmaster (hs : s.MemWf) : s.electGrandmaster.MemWf := by
  unfold State.electGrandmaster
  split
  · exact .chooseParent (hs.update rfl)
  · exact .chooseParent (hs.update rfl)

theorem State.MemWf.execAnnounce {m} (hs : s.MemWf) : Out.MemWf (execAnnounce m s) := by
  unfold Machine.execAnnounce
  exact .next (.ite hs (.electGrandmaster (hs.update rfl)))

theorem State.MemWf.execAnnounceTimer (hs : s.MemWf) : Out.MemWf (execAnnounceTimer s) := by
  unfold Machine.execAnnounceTimer
  exact .next (.ite hs (.foldl hs fun ht => ht.sendTime))

theorem State.MemWf.execAnnounceAgeExpiry (hs : s.MemWf) : Out.MemWf (execAnnounceAgeExpiry s) := by
  unfold Machine.execAnnounceAgeExpiry
  exact .next (.electGrandmaster (hs.update rfl))

theorem State.MemWf.execExternalPtpMessage {ptp} (hs : s.MemWf) : Out.MemWf (execExternalPtpMessage ptp s) := by
  unfold Machine.execExternalPtpMessage
  exact .next (.ite (hs.update rfl) hs)

theorem State.MemWf.execHoldoverEntry (hs : s.MemWf) : Out.MemWf (execHoldoverEntry s) := by
  unfold Machine.execHoldoverEntry
  exact .next (.ite hs.tickTime (hs.update rfl))

theorem State.MemWf.execHoldoverSyncLoss (hs : s.MemWf) : Out.MemWf (execHoldoverSyncLoss s) := by
  unfold Machine.execHoldoverSyncLoss
  exact .next (.ite (hs.update rfl) hs.tickTime)

theorem State.MemWf.execPackageTermGrowth (hs : s.MemWf) : Out.MemWf (execPackageTermGrowth s) := by
  unfold Machine.execPackageTermGrowth
  exact .next (.ite (hs.update rfl) hs.tickTime)

theorem State.MemWf.takeTime {ty m} (hs : s.MemWf) : Out.MemWf (s.takeTime ty m) := by
  unfold State.takeTime
  dsimp only
  split
  · exact State.MemWf.execSync (hs.update rfl)
  · exact State.MemWf.execFollow (hs.update rfl)
  · exact State.MemWf.execDreq (hs.update rfl)
  · exact State.MemWf.execDresp (hs.update rfl)
  · exact State.MemWf.execAnnounce (hs.update rfl)

theorem State.MemWf.execFrameReceive {iod pf} (hs : s.MemWf) : Out.MemWf (execFrameReceive iod pf s) := by
  unfold Machine.execFrameReceive
  refine .ite (.next hs) ?_
  refine .ite (.next hs.meterIn.hearPath) ?_
  refine .ite (.next hs.meterIn.hearPath.discardFrame) ?_
  refine .ite (.next hs.meterIn.hearPath.relayFrame) ?_
  refine .ite ?_ (.next (.ite hs.meterIn.hearPath hs.meterIn.hearPath.hear.receiveFrame))
  split
  · exact .next hs.meterIn.hearPath
  · exact hs.meterIn.hearPath.takeTime

/-! ### Machine/Service -/

theorem State.MemWf.perform {code} {f : State → State × BitVec 4} (hs : s.MemWf) (hf : ∀ {t}, t.MemWf → (f t).1.MemWf) :
    (s.perform code f).MemWf := by
  unfold State.perform
  exact .ite (.of_eq rfl (.ite_fst hs (hf hs))) hs

/-- The mailbox and the step of bring-up change; the new values stay variables here, so that nothing evaluates the digests that
LOADFW and REJOIN put there. -/
theorem State.MemWf.withMailbox {m n} (hs : s.MemWf) : State.MemWf { s with mailbox := m, bootStep := n } :=
  hs.update rfl

theorem State.MemWf.execLoadfw (hs : s.MemWf) : Out.MemWf (execLoadfw s) := by
  unfold Machine.execLoadfw
  exact .next (.perform hs fun ht => .ite_fst ht.withMailbox ht)

theorem State.MemWf.execAttest (hs : s.MemWf) : Out.MemWf (execAttest s) := by
  unfold Machine.execAttest
  exact .next (hs.perform fun ht => ht.writeBytes)

theorem State.MemWf.quiesceDie {d} (hs : s.MemWf) : (s.quiesceDie d).MemWf := by
  unfold State.quiesceDie
  exact .foldl (.foldl (hs.update rfl) (fun ht => ht.preempt)) (fun ht => ht.setStopped)

theorem State.MemWf.quiesce {late ds} (hs : s.MemWf) : (s.quiesce late ds).MemWf := by
  unfold State.quiesce
  exact .foldl (hs.update rfl) fun ht => ht.quiesceDie

theorem State.MemWf.execSuspend (hs : s.MemWf) : Out.MemWf (execSuspend s) := by
  unfold Machine.execSuspend
  exact .next (hs.perform fun ht => .ite_fst (.ite (.quiesce (ht.update rfl)) (ht.update rfl)) ht)

theorem State.MemWf.execCancel (hs : s.MemWf) : Out.MemWf (execCancel s) := by
  unfold Machine.execCancel
  exact .next (hs.perform fun ht => .ite_fst (ht.update rfl) ht)

theorem State.MemWf.execResume (hs : s.MemWf) : Out.MemWf (execResume s) := by
  unfold Machine.execResume
  exact .next (hs.perform fun ht => .ite_fst (ht.update rfl) ht)

theorem State.MemWf.execSuspendDeadline (hs : s.MemWf) : Out.MemWf (execSuspendDeadline s) := by
  unfold Machine.execSuspendDeadline
  exact .next (.ite hs.tickTime.quiesce (.ite hs.tickTime.quiesce hs.tickTime))

theorem State.MemWf.settleQuiet (hs : s.MemWf) : s.settleQuiet.MemWf := by
  unfold State.settleQuiet
  exact .ite (hs.update rfl) hs

theorem State.MemWf.execQuiet {dev} (hs : s.MemWf) : Out.MemWf (execQuiet dev s) := by
  unfold Machine.execQuiet
  exact .next (.ite (.settleQuiet (hs.update rfl)) hs)

theorem State.MemWf.execSavingTimeout (hs : s.MemWf) : Out.MemWf (execSavingTimeout s) := by
  unfold Machine.execSavingTimeout
  exact .next (.ite (.of_eq rfl (.foldl hs.tickTime (fun ht => ht.markDown))) hs.tickTime)

theorem State.MemWf.turnTimers (hs : s.MemWf) : s.turnTimers.MemWf := by
  unfold State.turnTimers
  exact hs.update rfl

theorem State.MemWf.saveConns (hs : s.MemWf) : s.saveConns.MemWf := by
  unfold State.saveConns
  exact .foldl hs fun ht => ht.saveConn

theorem State.MemWf.execSavingComplete (hs : s.MemWf) : Out.MemWf (execSavingComplete s) := by
  unfold Machine.execSavingComplete
  exact .next (.ite (.of_eq rfl hs.saveConns.turnTimers) hs)

theorem State.MemWf.execResumeDeadline (hs : s.MemWf) : Out.MemWf (execResumeDeadline s) := by
  unfold Machine.execResumeDeadline
  exact .next (.ite (hs.update rfl) hs.tickTime)

theorem State.MemWf.relockTo {now ds} (hs : s.MemWf) : (s.relockTo now ds).MemWf := by
  unfold State.relockTo
  exact .foldl hs fun ht => ht.setDie

theorem State.MemWf.relock {ds} (hs : s.MemWf) : (s.relock ds).MemWf := by
  unfold State.relock
  exact hs.tickTime.relockTo

theorem State.MemWf.execResumeComplete (hs : s.MemWf) : Out.MemWf (execResumeComplete s) := by
  unfold Machine.execResumeComplete
  exact .next (.ite (.of_eq rfl (.foldl hs.relock.turnTimers (fun ht => ht.setStopped))) hs)

theorem State.MemWf.clearCores {cores} (hs : s.MemWf) : (s.clearCores cores).MemWf := by
  unfold State.clearCores
  exact .foldl hs fun ht => ht.preempt

theorem State.MemWf.takeOut {u} (hs : s.MemWf) : (s.takeOut u).MemWf := by
  unfold State.takeOut
  exact .ite hs (hs.update rfl)

theorem State.MemWf.handOver {d} (hs : s.MemWf) : (s.handOver d).MemWf := by
  unfold State.handOver
  exact .ite hs.takeOut (.of_eq rfl (.takeOut (.setDie (.foldl hs fun ht => ht.setDie))))

theorem State.MemWf.execDrain {u} (hs : s.MemWf) : Out.MemWf (execDrain u s) := by
  unfold Machine.execDrain
  refine .next ?_
  refine .perform hs ?_
  intro t ht
  split
  · refine .ite_fst ht (.ite_fst ht ?_)
    dsimp only
    exact ht.takeOut.clearCores
  · extract_lets cores
    clear_value cores
    refine .ite_fst ht (.ite_fst ht ?_)
    exact ht.setDie.clearCores
  · exact .ite_fst ht.takeOut ht
  · exact .ite_fst ht.takeOut ht
  · exact .ite_fst ht (.ite_fst ht.handOver ht)

theorem State.MemWf.resetDie {d} (hs : s.MemWf) : (s.resetDie d).MemWf := by
  unfold State.resetDie
  exact hs.setDie

theorem State.MemWf.execRejoin {u} (hs : s.MemWf) : Out.MemWf (execRejoin u s) := by
  unfold Machine.execRejoin
  refine .next (.perform hs fun ht => ?_)
  extract_lets out s' v
  have hv : v.MemWf := .of_eq rfl ht
  clear_value out v
  split
  · exact hv.update rfl
  · exact .ite hv.resetDie.relock hv
  · exact hv.update rfl
  · exact hv
  · exact .ite_fst hv (.relockTo (.withMailbox hv.resetDie))

theorem State.MemWf.execDrainedDieAccessTimeout {h} (hs : s.MemWf) : Out.MemWf (execDrainedDieAccessTimeout h s) := by
  unfold Machine.execDrainedDieAccessTimeout
  refine .next (.ite hs.hostTimeout ?_)
  refine .ite ?_ ?_
  · split
    · exact hs
    · refine .ite hs ?_
      split
      · exact hs.faultCtx
      · exact hs.faultColl
      · exact hs
  · refine .ite hs ?_
    split
    · exact hs.asHart.withMe.raise
    · exact .ite hs.asHart.withMe.raise hs
    · refine .ite hs ?_
      split
      · exact hs
      · exact .ite hs hs.asHart.vectorFault
    · exact hs

theorem State.MemWf.clearSecure (hs : s.MemWf) : s.clearSecure.MemWf := by
  unfold State.clearSecure
  exact .foldl hs fun ht => ht.preempt

theorem State.MemWf.execTenant {tenant strict cores chans plain} (hs : s.MemWf) :
    Out.MemWf (execTenant tenant strict cores chans plain s) := by
  unfold Machine.execTenant
  exact .next (hs.perform fun ht => .clearSecure (ht.update rfl))

/-- The owners of granules change, and what is being zeroed. -/
theorem State.MemWf.withOwners {o z} (hs : s.MemWf) : State.MemWf { s with granuleOwner := o, zeroing := z } :=
  hs.update rfl

/-- A command that two conditions refuse. The conditions stay variables here: those of OWNER look at bit 63 of an address, which
nothing should evaluate. -/
theorem State.MemWf.perform_guarded {code x y z} {c d : State → Prop} {_ : ∀ s, Decidable (c s)}
    {_ : ∀ s, Decidable (d s)} {g : State → State} (hs : s.MemWf) (hg : ∀ {t}, t.MemWf → (g t).MemWf) :
    (s.perform code fun s => if c s then (s, x) else if d s then (s, y) else (g s, z)).MemWf :=
  hs.perform fun ht => .ite_fst ht (.ite_fst ht (hg ht))

theorem State.MemWf.execOwner {granule tenant} (hs : s.MemWf) : Out.MemWf (execOwner granule tenant s) := by
  unfold Machine.execOwner
  refine .next (.perform_guarded hs fun ht => ?_)
  exact ht.zeroRange.withOwners

theorem State.MemWf.execZeroingComplete {granule} (hs : s.MemWf) : Out.MemWf (execZeroingComplete granule s) := by
  unfold Machine.execZeroingComplete
  exact .next (hs.update rfl)

theorem State.MemWf.launchSteward (hs : s.MemWf) : s.launchSteward.MemWf := by
  unfold State.launchSteward
  refine .zeroOwnCompl (.createRegion ?_)
  exact .of_eq (by dsimp only) hs.writeGa

theorem State.MemWf.trainLinks (hs : s.MemWf) : s.trainLinks.MemWf := by
  unfold State.trainLinks
  exact hs.update rfl

theorem State.MemWf.execBoot (hs : s.MemWf) : Out.MemWf (execBoot s) := by
  unfold Machine.execBoot
  refine .next ?_
  split
  · exact hs
  · exact .electGrandmaster (.of_eq (by dsimp only) hs.relock)
  · exact .of_eq (by dsimp only) hs.trainLinks
  · exact .launchSteward (.of_eq (by dsimp only) hs)
  · exact .of_eq (by dsimp only) hs
  · exact .of_eq (by dsimp only) hs

theorem State.MemWf.execClockRateChange {die mhz} (hs : s.MemWf) : Out.MemWf (execClockRateChange die mhz s) := by
  unfold Machine.execClockRateChange
  exact .next (.ite hs.setDie hs)

theorem State.MemWf.execThermalThrottle {mhz} (hs : s.MemWf) : Out.MemWf (execThermalThrottle mhz s) := by
  unfold Machine.execThermalThrottle
  exact .next (.ite (.foldl hs (fun ht => ht.setDie)) hs)

theorem State.MemWf.execHbmScrub {die line bad} (hs : s.MemWf) : Out.MemWf (execHbmScrub die line bad s) := by
  unfold Machine.execHbmScrub
  exact .next (.ite hs (.ite hs.setDie (.ite hs (.logDie (hs.update rfl)))))

/-! ### Machine/Agents -/

theorem State.MemWf.beforeFetch (hs : s.MemWf) : s.beforeFetch.MemWf := by
  unfold State.beforeFetch
  exact hs.withMe

theorem State.MemWf.fetched (hs : s.MemWf) : Tried State.MemWf (·.1.MemWf) s.fetched := by
  unfold State.fetched
  split
  · next eqn => exact .ok ((hs.fetchWord.of_ok eqn).withMe)
  · next eqn => exact .error ((hs.fetchWord.of_error eqn).halt)
  · next eqn => exact .ite (.error hs.withMe) (.error ((hs.fetchWord.of_error eqn).halt))

theorem State.MemWf.turn (hs : s.MemWf) : Given (·.1.MemWf) s.turn := by
  unfold State.turn
  split
  · exact .some (hs.update rfl)
  · refine .map_of_forall fun {a} => ?_
    dsimp only
    split
    · exact hs.update rfl
    · exact hs.update rfl

theorem State.MemWf.nonblockingMove {h} (hs : s.MemWf) : Out.MemWf (s.nonblockingMove h) := by
  unfold State.nonblockingMove
  extract_lets l s₁
  have h₁ : s₁.MemWf := .of_eq rfl hs
  split
  · exact .next h₁
  · split
    · exact .ite h₁.execNonblockingComplete h₁.execLoadGroupLanding
    · exact h₁.execNonblockingComplete

theorem State.MemWf.engineMove {d} (hs : s.MemWf) : Out.MemWf (s.engineMove d) := by
  unfold State.engineMove
  dsimp only
  split
  · exact .next hs
  · next eqn =>
    have hf := List.mem_of_getElem? eqn
    simp only [List.mem_append, List.mem_map] at hf
    obtain (⟨k, -, rfl⟩ | ⟨c, -, rfl⟩) | hf := hf
    · dsimp only
      split
      · exact State.MemWf.execEngineFault (hs.update rfl)
      · exact State.MemWf.execSegmentPerformed (hs.update rfl)
    · exact .next (.tryCmd (hs.update rfl))
    · split at hf
      · cases List.mem_singleton.mp hf
        exact State.MemWf.execSegmentStart (hs.update rfl)
      · cases hf

theorem State.MemWf.settleAsks {h} (hs : s.MemWf) : (s.settleAsks h).MemWf := by
  unfold State.settleAsks
  exact .ite hs.setHart hs

theorem State.MemWf.beforeRetry (hs : s.MemWf) : s.beforeRetry.MemWf := by
  unfold State.beforeRetry
  exact .withMe (.ite hs.tickTime hs)

theorem State.MemWf.issues {w} (hs : s.MemWf) : (s.issues w).MemWf := by
  unfold State.issues
  exact hs.update rfl

theorem State.MemWf.runWord {w} {run : Instr → State → Out} (hs : s.MemWf)
    (hrun : ∀ {i t}, t.MemWf → Out.MemWf (run i t)) :
    Out.MemWf (State.runWord run s w) := by
  unfold State.runWord
  split
  · exact .next hs.raise
  · exact .ite (hrun hs) (.next hs.raise)

theorem State.MemWf.fetchRun {run : Instr → State → Out} (hs : s.MemWf)
    (hrun : ∀ {i t}, t.MemWf → Out.MemWf (run i t)) :
    Out.MemWf (State.fetchRun run s) := by
  unfold State.fetchRun
  refine .ite (.next hs) ?_
  split
  · next eqn => exact .next (hs.fetched.of_error eqn)
  · next eqn => exact .ite (.next hs) ((hs.fetched.of_ok eqn).issues.runWord hrun)

theorem State.MemWf.vectorMove {x1} (hs : s.MemWf) : (s.vectorMove x1).MemWf := by
  unfold State.vectorMove
  split
  · exact hs.withMe
  · exact hs.groupStep
  · exact hs.serveUnit
  · exact hs.swapStep

theorem State.MemWf.hartMove {run : Instr → State → Out} (hs : s.MemWf)
    (hrun : ∀ {i t}, t.MemWf → Out.MemWf (run i t)) : Out.MemWf (State.hartMove run s) := by
  unfold State.hartMove
  extract_lets s₁
  have h₁ : s₁.MemWf := .of_eq rfl hs
  split
  · exact .next h₁
  · exact h₁.execUnitStopAck
  · exact h₁.beforeFetch.fetchRun hrun
  · exact h₁.withMe.execStoppedHartSave
  · exact .next h₁.vectorMove
  · exact .next h₁.laneTrap
  · exact h₁.execRepBufferAcquire
  · exact h₁.execReplayEnqueue
  · exact h₁.execAsyncTrap
  · exact hrun h₁.beforeRetry
  · exact h₁.beforeFetch.fetchRun hrun

theorem State.MemWf.move {x2} {run : Instr → State → Out} (hs : s.MemWf)
    (hrun : ∀ {i t}, t.MemWf → Out.MemWf (run i t)) :
    Out.MemWf (State.move run s x2) := by
  unfold State.move
  split
  · split
    · exact .next hs
    · exact hrun (hs.update rfl)
  · exact .next hs.hostMove
  · exact hs.asHart.settleAsks.hartMove hrun
  · exact hs.nonblockingMove
  · exact hs.engineMove

theorem State.MemWf.noteStops (hs : s.MemWf) : s.noteStops.MemWf := by
  unfold State.noteStops
  exact hs.update rfl

theorem State.MemWf.afterStep (hs : s.MemWf) : s.afterStep.MemWf := by
  unfold State.afterStep
  exact .grantWaiting (.foldl hs.serveHeld.noticeAll.noteStops fun ht => ht.settleRegion)

theorem Out.MemWf.after {o : Out} {f : State → State} (ho : o.MemWf) (hf : ∀ {t : State}, t.MemWf → (f t).MemWf) :
    (o.after f).MemWf := by
  cases ho with
  | next hs => exact .next (hf hs)
  | fault r => exact .fault r
  | refused r => exact .refused r

/-! ### Machine/Dispatch -/

/-- Every instruction and every event of the device keeps the form. -/
theorem State.MemWf.exec {i} (hs : s.MemWf) : Out.MemWf (exec i s) := by
  have hq {q : Queued} : queuedOf i = some q → q.MemWf := queuedOf_memWf
  cases i with
  | vlu | vls | vld | vsu | vss | vsd | vlx | vsx | vamoaAdd | vamoaAnd | vamoaOr | vamoaXor | vamobMin | vamobMax
  | vamobSwap | vamobCas | vamocFadd | vamocFmin | vamocFmax | mls | mstr | mop | mscan | mscanf | maccRd | maccWr
  | maccZr | maccCp | maccScrd | maccScwr | vadd | vsub | vrsub | vmul | vmulh | vmacc | vmin | vmax | vand | vor
  | vxor | vsll | vsrl | vsra | vadds | vsubs | vaddX | vsubX | vrsubX | vmulX | vmulhX | vmaccX | vminX | vmaxX
  | vandX | vorX | vxorX | vsllX | vsrlX | vsraX | vaddsX | vsubsX | vclz | vctz | vpopc | vnot | vabs | vneg | vmv
  | vbcast | vmerge | viota | vcbld | vcmpEq | vcmpNe | vcmpLt | vcmpLe | vcmpGt | vcmpGe | vcmpUnord | vcmpOrd
  | vcmpEqX | vcmpNeX | vcmpLtX | vcmpLeX | vcmpGtX | vcmpGeX | vcmpUnordX | vcmpOrdX | mand | mor | mxor | mandn
  | mnot | mmv | mset | mclr | msbf | mpopc | mfirst | vslup | vsldn | vgather | vcompress | vexpand | vextract
  | vinsert | vrowrot | vredsum | vredmin | vredmax | vredand | vredor | vredxor | vfsumo | vfsumt | vfredmin
  | vfredmax | vfadd | vfsub | vfmul | vfdiv | vfmin | vfmax | vfma | vfms | vfnma | vfnms | vfsgnj | vfsgnjn
  | vfsgnjx | vfaddX | vfsubX | vfmulX | vfdivX | vfminX | vfmaxX | vfmaX | vfmsX | vfnmaX | vfnmsX | vfsgnjX
  | vfsgnjnX | vfsgnjxX | vfsqrt | vfexp2 | vfabs | vfneg | vfclass | vfrint | vcvt | vcvtC4 =>
    exact .next (hs.enqueue (hq rfl))
  | add | sub | and | or | xor | sll | srl | sra | slt | sltn | mul | mulh | mulhn | div | divn | rem | remn | min
  | max | minn | maxn | rol | ror | addw | subw => exact .next hs.op3
  | clz | ctz | popc | addi | andi | ori | xori | slti | sltni | slli | srli | srai => exact .next hs.op2
  | amosAdd | amosAnd | amosXor | amosMin | amosMax | amosMinn | amosMaxn | amosSwap | amosCas => exact .next hs.amo
  | lui | auipc | jal | ccrd | ecnt | svc | yield => exact .next hs.withMe
  | ldb | ldh | ldw | ldd | ldbs | ldhs | ldws => exact .next hs.load
  | beq | bne | blt | bge | bltn | bgen => exact .next hs.branch
  | stb | sth | stw | std => exact .next hs.store
  | brk | udf => exact .next hs.raise
  | rowSlot | scanUnitStep | accumulatePathRow => exact .next hs.serveUnit
  | readresp | atomresp => exact .next hs.takeAnswer
  | jalr => exact hs.execJalr
  | amosOr => exact hs.execAmosOr
  | ldpc => exact hs.execLdpc
  | csrr => exact hs.execCsrr
  | csrw => exact hs.execCsrw
  | csrs => exact hs.execCsrs
  | csrc => exact hs.execCsrc
  | lksv => exact hs.execLksv
  | lkld => exact hs.execLkld
  | hrel => exact hs.execHrel
  | setvl => exact hs.execSetvl
  | fork => exact hs.execFork
  | launch => exact hs.execLaunch
  | share => exact hs.execShare
  | phaseRel => exact hs.execPhaseRel
  | phaseAcq => exact hs.execPhaseAcq
  | phaseAr => exact hs.execPhaseAr
  | waitc => exact hs.execWaitc
  | waitt => exact hs.execWaitt
  | waitg => exact hs.execWaitg
  | waitwEq => exact hs.execWaitwEq
  | waitwNe => exact hs.execWaitwNe
  | waitwGen => exact hs.execWaitwGen
  | waitwLtn => exact hs.execWaitwLtn
  | time => exact hs.execTime
  | winfl => exact hs.execWinfl
  | qpop => exact hs.execQpop
  | qpush => exact hs.execQpush
  | ccset => exact hs.execCcset
  | copy => exact hs.execCopy
  | copy2 => exact hs.execCopy2
  | copyx => exact hs.execCopyx
  | fill => exact hs.execFill
  | mmodeOn => exact hs.execMmodeOn
  | mstat => exact hs.execMstat
  | pref => exact hs.execPref
  | ecfg => exact hs.execEcfg
  | eres => exact hs.execEres
  | coll => exact hs.execColl
  | rep => exact hs.execRep
  | tret => exact hs.execTret
  | ifence => exact hs.execIfence
  | wfi => exact hs.execWfi
  | merge => exact hs.execMerge
  | endHart => exact hs.execEndHart
  | mmodeOff => exact hs.execMmodeOff
  | mswap => exact hs.execMswap
  | convoyStart => exact hs.execConvoyStart
  | groupStart => exact hs.execGroupStart
  | loadGroupLanding => exact hs.execLoadGroupLanding
  | convoyDrain => exact hs.execConvoyDrain
  | vectorToScalarWrite => exact hs.execVectorToScalarWrite
  | nonblockingComplete => exact hs.execNonblockingComplete
  | vectorTrap => exact hs.execVectorTrap
  | asyncTrap => exact hs.execAsyncTrap
  | stoppedHartSave => exact hs.execStoppedHartSave
  | shareAdoption => exact hs.execShareAdoption
  | forkSplit => exact hs.execForkSplit
  | mergeComplete => exact hs.execMergeComplete
  | endComplete => exact hs.execEndComplete
  | drainedResume => exact hs.execDrainedResume
  | sealSend => exact hs.execSealSend
  | waitReturn => exact hs.execWaitReturn
  | wdeadlineExpiry => exact hs.execWdeadlineExpiry
  | waitwPoll => exact hs.execWaitwPoll
  | tileQueueGrant => exact hs.execTileQueueGrant
  | repBufferAcquire => exact hs.execRepBufferAcquire
  | replayEnqueue => exact hs.execReplayEnqueue
  | mswapEffect => exact hs.execMswapEffect
  | pageWalkComplete => exact hs.execPageWalkComplete
  | schedulingInterval => exact hs.execSchedulingInterval
  | initialGrant => exact hs.execInitialGrant
  | shareGraceExpiry => exact hs.execShareGraceExpiry
  | unitStopAck => exact hs.execUnitStopAck
  | segmentStart => exact hs.execSegmentStart
  | segmentPerformed => exact hs.execSegmentPerformed
  | engineFault => exact hs.execEngineFault
  | multicastApply => exact hs.execMulticastApply
  | parkLimitExpiry => exact hs.execParkLimitExpiry
  | read => exact hs.execRead
  | write => exact hs.execWrite
  | writeb => exact hs.execWriteb
  | atomic => exact hs.execAtomic
  | combined => exact hs.execCombined
  | sealack => exact hs.execSealack
  | colldata => exact hs.execColldata
  | parked => exact hs.execParked
  | perfack => exact hs.execPerfack
  | aborted => exact hs.execAborted
  | frameReceive => exact hs.execFrameReceive
  | relayForward => exact hs.execRelayForward
  | frameTransmit => exact hs.execFrameTransmit
  | retryTimerExpiry => exact hs.execRetryTimerExpiry
  | ackTimer => exact hs.execAckTimer
  | keepaliveTimer => exact hs.execKeepaliveTimer
  | peerMarkDown => exact hs.execPeerMarkDown
  | rst => exact hs.execRst
  | slotBegin => exact hs.execSlotBegin
  | lockTimeout => exact hs.execLockTimeout
  | beadArrival => exact hs.execBeadArrival
  | holdReceive => exact hs.execHoldReceive
  | beadTimeout => exact hs.execBeadTimeout
  | beadRegenerate => exact hs.execBeadRegenerate
  | tlbinv => exact hs.execTlbinv
  | peerup => exact hs.execPeerup
  | parklim => exact hs.execParklim
  | registerWrite => exact hs.execRegisterWrite
  | hostPostedWrite => exact hs.execHostPostedWrite
  | hostRead => exact hs.execHostRead
  | hostCompletion => exact hs.execHostCompletion
  | dieTimeExchange => exact hs.execDieTimeExchange
  | dieSyncTimeout => exact hs.execDieSyncTimeout
  | timeExchangeTimer => exact hs.execTimeExchangeTimer
  | sync => exact hs.execSync
  | follow => exact hs.execFollow
  | dreq => exact hs.execDreq
  | dresp => exact hs.execDresp
  | announce => exact hs.execAnnounce
  | announceTimer => exact hs.execAnnounceTimer
  | externalPtpMessage => exact hs.execExternalPtpMessage
  | holdoverEntry => exact hs.execHoldoverEntry
  | holdoverSyncLoss => exact hs.execHoldoverSyncLoss
  | packageTermGrowth => exact hs.execPackageTermGrowth
  | loadfw => exact hs.execLoadfw
  | attest => exact hs.execAttest
  | suspend => exact hs.execSuspend
  | cancel => exact hs.execCancel
  | resume => exact hs.execResume
  | drain => exact hs.execDrain
  | rejoin => exact hs.execRejoin
  | tenant => exact hs.execTenant
  | owner => exact hs.execOwner
  | zeroingComplete => exact hs.execZeroingComplete
  | suspendDeadline => exact hs.execSuspendDeadline
  | quiet => exact hs.execQuiet
  | savingTimeout => exact hs.execSavingTimeout
  | savingComplete => exact hs.execSavingComplete
  | resumeDeadline => exact hs.execResumeDeadline
  | resumeComplete => exact hs.execResumeComplete
  | drainedDieAccessTimeout => exact hs.execDrainedDieAccessTimeout
  | boot => exact hs.execBoot
  | clockRateChange => exact hs.execClockRateChange
  | thermalThrottle => exact hs.execThermalThrottle
  | hbmScrub => exact hs.execHbmScrub
  | clusterRetire => exact hs.execClusterRetire
  | completionTimeout => exact hs.execCompletionTimeout
  | perfackSendTimer => exact hs.execPerfackSendTimer
  | connectionStateFill => exact hs.execConnectionStateFill
  | announceAgeExpiry => exact hs.execAnnounceAgeExpiry
  | dieTermGrowth => exact hs.execDieTermGrowth
  -- SEAL alone is left; its name is a word of Lean's
  | _ => exact hs.execSeal

/-! ### Machine/Step -/

/-- One step: the move of the agent whose turn it is, and what follows every step. -/
theorem State.MemWf.step (hs : s.MemWf) : Out.MemWf (step s) := by
  unfold Machine.step
  split
  · exact .fault _
  · next eqn => exact .after (State.MemWf.move (hs.turn.of_some eqn) fun ht => ht.exec) fun ht => ht.afterStep

end

end Sys2Proof.Machine

/-! ### The obligation -/

/-- Settles O60: whichever agent moves, its move and what follows every step keep the form. -/
theorem everyStepKeepsMemoryCanonical : Obligations.EveryStepKeepsMemoryCanonical := by
  unfold Obligations.EveryStepKeepsMemoryCanonical
  intro s t hs hstep
  exact (Sys2Proof.Machine.State.MemWf.step hs).of_next hstep
end

section
/-!
SUPPORT. Proofs of the statements of 01_machine on reset and on the control registers.
-/

namespace Sys2Proof.Machine

/-! ### Reset (01_machine R24, R26; 20_faults R375) -/

/-- The control registers whose reset value is 0 read it in every slot. -/
theorem State.csrValue_reset (h : Nat) {n : Nat} (hn : n ∈ [0x000, 0x001, 0x002, 0x003, 0x004, 0x006, 0x007, 0x008, 0x00B, 0x00C,
    0x012, 0x013, 0x101, 0x102, 0x103, 0x104, 0x108, 0x109, 0x10A]) :
    State.csrValue { State.reset with cur := h } n = 0 := by
  fin_cases hn <;> rfl

/-- Every die has the park limit of R375, the I/O dies, which reset lists for their clock, as well. -/
theorem State.parklim_reset (d : Nat) : (State.reset.die d).parklim = 0x12A05F2000 := by
  show (Sparse.get Die.reset State.reset.dies d).parklim = _
  simp only [State.reset, Sparse.get_cons, Sparse.get_nil]
  split
  · rfl
  · split <;> rfl

/-! ### Control registers: the checks of an access (04_scalar R114) -/

/-- An access whose check fails takes the trap that it names, and does nothing else. -/
theorem State.traps_csrAccess {s : State} {i : Instr} {n : Nat} {w : IWord} {d : BitVec 5} {g : Option (Word → Word)} {c : Byte}
    {v : Word} (h : s.csrCheck n w (g.map fun f => f (s.csrValue n)) = some (.trap c v)) :
    Traps (.next (s.csrAccess i n w d g)) s c v := by
  rw [State.csrAccess, h]
  exact traps_raise s c v

/-- An access of a register that is not listed, or that the hart's privilege may not reach or write, traps ILLEGAL. -/
theorem State.csrCheck_unprivileged {s : State} {n : Nat} {w : IWord} {v : Option Word}
    (h : csrListed n = false ∨ s.me.priv = .user ∧ (0x100 ≤ n ∨ v.isSome = true ∧ csrRwS n = true)) :
    s.csrCheck n w v = some (.trap 0x01 (w.setWidth 64)) := by
  unfold State.csrCheck
  refine if_pos ?_
  rcases h with hl | ⟨hu, hn | ⟨hv, hn⟩⟩
  · simp [hl]
  · simp [hu, hn]
  · simp [hu, hv, hn]

/-- At supervisor privilege the checks of a write of a listed register look at the value alone. -/
theorem State.csrCheck_supervisor {s : State} {n : Nat} {w : IWord} {v : Word} (hp : s.me.priv = .supervisor)
    (hl : csrListed n = true) :
    s.csrCheck n w (some v) =
      if n = 0x107 && !s.me.secure && v.getLsbD 16 then some (.trap 0x0D (w.setWidth 64))
      else if csrReadOnly n then none
      else if !s.csrRule n (v &&& csrMask n) then some (.trap 0x01 (w.setWidth 64))
      else if !s.me.secure && s.csrSecureRule n (v &&& csrMask n) then some (.trap 0x0D (w.setWidth 64))
      else none := by
  unfold State.csrCheck
  simp only [hp, hl]
  rfl

/-- The checks of a write of PEERBM, VQIMG or ACCWIN are the rule of its value, then the granules that it would touch. -/
theorem State.csrCheck_ruled {s : State} {n : Nat} {w : IWord} {v : Word} (hp : s.me.priv = .supervisor)
    (hn : n ∈ [0x00B, 0x105, 0x014]) :
    s.csrCheck n w (some v) =
      if s.csrRule n (v &&& csrMask n) = false then some (.trap 0x01 (w.setWidth 64))
      else if s.me.secure = false ∧ s.csrSecureRule n (v &&& csrMask n) = true then some (.trap 0x0D (w.setWidth 64))
      else none := by
  have ⟨hl, hro, ht⟩ : csrListed n = true ∧ csrReadOnly n = false ∧ n ≠ 0x107 := by fin_cases hn <;> decide
  rw [State.csrCheck_supervisor hp hl]
  simp [ht, hro]

/-- A write against the rule of its register traps ILLEGAL. -/
theorem State.csrCheck_of_rule {s : State} {n : Nat} {w : IWord} {v : Word} (hp : s.me.priv = .supervisor)
    (hn : n ∈ [0x00B, 0x105, 0x014]) (hr : s.csrRule n (v &&& csrMask n) = false) :
    s.csrCheck n w (some v) = some (.trap 0x01 (w.setWidth 64)) := by
  rw [State.csrCheck_ruled hp hn, if_pos hr]

/-- A non-secure hart's write of an address that touches a secure granule traps WORLD. -/
theorem State.csrCheck_of_secureRule {s : State} {n : Nat} {w : IWord} {v : Word} (hp : s.me.priv = .supervisor)
    (hn : n ∈ [0x00B, 0x105, 0x014]) (hr : s.csrRule n (v &&& csrMask n) = true) (hs : s.me.secure = false)
    (hg : s.csrSecureRule n (v &&& csrMask n) = true) :
    s.csrCheck n w (some v) = some (.trap 0x0D (w.setWidth 64)) := by
  rw [State.csrCheck_ruled hp hn, if_neg (by simp [hr]), if_pos ⟨hs, hg⟩]

/-- A write of TENANT by a non-secure hart that would set the world bit traps WORLD. -/
theorem State.csrCheck_tenant {s : State} {w : IWord} {v : Word} (hp : s.me.priv = .supervisor) (hs : s.me.secure = false)
    (hv : v.getLsbD 16 = true) : s.csrCheck 0x107 w (some v) = some (.trap 0x0D (w.setWidth 64)) := by
  rw [State.csrCheck_supervisor hp rfl]
  simp [hs, hv]

/-- The three instructions that write a control register. -/
theorem State.exec_csrWrite {s : State} {i : Instr} {f : CsrOps} {w : Word} (hn : csrW1c f.csr.toNat = false)
    (hi : i = .csrw f ∧ w = s.me.xr f.a ∨ i = .csrs f ∧ w = s.csrValue f.csr.toNat ||| s.me.xr f.a ∨
      i = .csrc f ∧ w = s.csrValue f.csr.toNat &&& ~~~ s.me.xr f.a) :
    ∃ g : Word → Word, g (s.csrValue f.csr.toNat) = w ∧
      exec i s = .next (s.csrAccess i f.csr.toNat (wordOf i) f.d (some g)) := by
  rcases hi with ⟨rfl, rfl⟩ | ⟨rfl, rfl⟩ | ⟨rfl, rfl⟩
  · exact ⟨_, rfl, rfl⟩
  · exact ⟨fun old => csrSetBits f.csr.toNat old (s.me.xr f.a), by simp [csrSetBits, hn], rfl⟩
  · exact ⟨fun old => csrClearBits f.csr.toNat old (s.me.xr f.a), by simp [csrClearBits, hn], rfl⟩

/-- Clearing bits takes away the number that they stood for. -/
theorem and_not_eq_sub_and {n : Nat} (w m : BitVec n) : w &&& ~~~ m = w - (w &&& m) := by
  have parts : (w &&& ~~~ m) + (w &&& m) = w := by
    rw [BitVec.add_eq_or_of_and_eq_zero]
    · ext i; simp only [BitVec.getElem_or, BitVec.getElem_and, BitVec.getElem_not]; cases w[i] <;> cases m[i] <;> rfl
    · ext i; simp only [BitVec.getElem_zero, BitVec.getElem_and, BitVec.getElem_not]; cases w[i] <;> cases m[i] <;> rfl
  exact eq_sub_of_add_eq parts

/-- Of PEERBM an address's bits above the lowest six are kept. -/
theorem csrMask_peerbm (w : Word) : w &&& csrMask 0x00B = w - BitVec.ofNat 64 (w.toNat % 64) := by
  have low : BitVec.ofNat 64 (w.toNat % 64) = w &&& 0x3F#64 := by
    apply BitVec.eq_of_toNat_eq
    rw [BitVec.toNat_and, BitVec.toNat_ofNat, show (0x3F#64).toNat = 2 ^ 6 - 1 from rfl, Nat.and_two_pow_sub_one_eq_mod]
    omega
  rw [low]
  exact and_not_eq_sub_and w 0x3F#64

end Sys2Proof.Machine

open Sys2Proof Sys2Proof.Machine

/-- Settles O56: each value is the one that the reset state lists. -/
theorem resetLeavesTheStatedValues : Obligations.ResetLeavesTheStatedValues := by
  unfold Obligations.ResetLeavesTheStatedValues
  exact ⟨Memory.wf_reset, fun _ => rfl, fun h _ hn => State.csrValue_reset h hn, fun _ => rfl, State.parklim_reset, rfl⟩

/-- Settles O9: an access takes the trap of the first check of R114 that fails. -/
theorem csrPrivilegeTraps : Obligations.CsrPrivilegeTraps := by
  unfold Obligations.CsrPrivilegeTraps
  refine ⟨fun f s h => ?_, fun c hc f s h => ?_, fun f s i n w v hn hp hi => ?_⟩
  · exact State.traps_csrAccess (State.csrCheck_unprivileged (h.imp_right fun hu => ⟨hu.1, .inl hu.2⟩))
  · have denied (v : Word) : s.csrCheck f.csr.toNat (wordOf (c f)) (some v) = some (.trap 0x01 ((wordOf (c f)).setWidth 64)) :=
      State.csrCheck_unprivileged (h.imp_right fun hu => ⟨hu.1, hu.2.imp_right fun hm => ⟨rfl, by simpa [csrRwS] using hm⟩⟩)
    simp only [List.mem_cons, List.not_mem_nil, or_false] at hc
    rcases hc with rfl | rfl | rfl <;> exact State.traps_csrAccess (denied _)
  · have taken {c : Byte} (hw : csrW1c n = false)
        (h : s.csrCheck n (wordOf i) (some w) = some (.trap c ((wordOf i).setWidth 64))) :
        Traps (exec i s) s c ((wordOf i).setWidth 64) := by
      subst hn
      obtain ⟨g, hg, hx⟩ := State.exec_csrWrite hw hi
      rw [hx]
      exact State.traps_csrAccess (g := some g) (by rw [Option.map_some, hg]; exact h)
    refine ⟨?tenant, ?peerbm, ?vqimg, ?accwin⟩
    case tenant =>
      rintro rfl hs hv
      exact taken rfl (State.csrCheck_tenant hp hs hv)
    case peerbm =>
      rintro rfl hv hz
      rw [← csrMask_peerbm] at hv
      refine ⟨fun ho => taken rfl (State.csrCheck_of_rule hp (by decide) ?_),
        fun ho hs hg => taken rfl (State.csrCheck_of_secureRule hp (by decide) ?_ hs ?_)⟩
      all_goals simp only [← hv]
      · simpa [State.csrRule, ho] using hz
      · simp [State.csrRule, ho]
      · simpa [State.csrSecureRule, hg] using hz
    case vqimg =>
      rintro rfl
      have hm : w &&& csrMask 0x105 = w := BitVec.and_allOnes
      refine ⟨fun ho => taken rfl (State.csrCheck_of_rule hp (by decide) ?_),
        fun hz ho hs hg => taken rfl (State.csrCheck_of_secureRule hp (by decide) ?_ hs ?_)⟩
      all_goals rw [hm]
      · rcases ho with hz | ho
        · simp [State.csrRule, hz]
        · simp [State.csrRule, ho]
      · simp [State.csrRule, hz, ho]
      · simp [State.csrSecureRule, hg]
    case accwin =>
      rintro rfl hs
      refine taken rfl (State.csrCheck_of_rule hp (by decide) ?_)
      have first : (w &&& csrMask 0x014).extractLsb' 0 11 = w.extractLsb' 0 11 :=
        BitVec.extractLsb'_and.trans BitVec.and_allOnes
      have rows : (w &&& csrMask 0x014).extractLsb' 16 11 = w.extractLsb' 16 11 :=
        BitVec.extractLsb'_and.trans BitVec.and_allOnes
      simp only [State.csrRule, first, rows, decide_eq_false_iff_not, not_le]
      exact hs
end

section
/-!
SUPPORT. Proof of the statement on waiting instructions tried again (Machine/Waits).
-/

namespace Sys2Proof.Machine

/-! ### Trying a waiting instruction again -/

variable {s : State} {h : Nat} {w : Wait} {i : Instr}

/-- A running hart that waits tries its instruction again as that hart. -/
theorem State.retry_of_wait (hr : (s.hart h).run = .running) (hw : (s.hart h).wait = some w) (f : Instr → State → Out) :
    s.retry h f = f w.instr { s with cur := h } := by
  simp [State.retry, State.runs, State.asHart, hr, hw]

/-- The waits of R180 and WFI are what they do at their issue, which always gives a next state. -/
theorem retryWait_eq_exec (hi : i = .wfi ∨ (∃ f, i = .waitc f) ∨ (∃ f, i = .waitt f) ∨ (∃ f, i = .waitg f) ∨
      (∃ f, i = .waitwEq f) ∨ (∃ f, i = .waitwNe f) ∨ (∃ f, i = .waitwGen f) ∨ (∃ f, i = .waitwLtn f) ∨ (∃ f, i = .qpop f) ∨
      (∃ f, i = .qpush f) ∨ ∃ f, i = .mmodeOn f) (s : State) :
    retryWait i s = exec i s ∧ ∃ t, exec i s = .next t := by
  rcases hi with rfl | ⟨f, rfl⟩ | ⟨f, rfl⟩ | ⟨f, rfl⟩ | ⟨f, rfl⟩ | ⟨f, rfl⟩ | ⟨f, rfl⟩ | ⟨f, rfl⟩ | ⟨f, rfl⟩ | ⟨f, rfl⟩ |
    ⟨f, rfl⟩ <;> exact ⟨rfl, _, rfl⟩

/-- The waits on words are what they do at their issue. -/
theorem retryWord_eq_exec (hi : (∃ f, i = .waitwEq f) ∨ (∃ f, i = .waitwNe f) ∨ (∃ f, i = .waitwGen f) ∨ ∃ f, i = .waitwLtn f)
    (s : State) : retryWord i s = exec i s ∧ ∃ t, exec i s = .next t := by
  rcases hi with ⟨f, rfl⟩ | ⟨f, rfl⟩ | ⟨f, rfl⟩ | ⟨f, rfl⟩ <;> exact ⟨rfl, _, rfl⟩

/-- The releases are what they do at their issue. -/
theorem retryRelease_eq_exec {f : PhaseOps} (hi : i = .phaseRel f ∨ i = .phaseAr f) (s : State) :
    retryRelease i s = exec i s ∧ ∃ t, exec i s = .next t := by
  rcases hi with rfl | rfl <;> exact ⟨rfl, _, rfl⟩

/-- The instructions that wait for work of their own hart are what they do at their issue. -/
theorem retryDrain_eq_exec (hi : i = .ifence ∨ i = .tret ∨ (∃ f, i = .time f) ∨ (∃ f, i = .phaseAcq f) ∨ (∃ f, i = .ccset f) ∨
      (∃ f, i = .lksv f) ∨ (∃ f, i = .lkld f) ∨ (∃ f, i = .copy f) ∨ (∃ f, i = .copy2 f) ∨ (∃ f, i = .copyx f) ∨
      (∃ f, i = .fill f) ∨ (∃ f, i = .pref f) ∨ (∃ f, i = .coll f) ∨ (∃ f, i = .launch f) ∨ (∃ f, i = .csrr f) ∨
      (∃ f, i = .csrw f) ∨ (∃ f, i = .csrs f) ∨ ∃ f, i = .csrc f) (s : State) :
    retryDrain i s = exec i s ∧ ∃ t, exec i s = .next t := by
  rcases hi with rfl | rfl | ⟨f, rfl⟩ | ⟨f, rfl⟩ | ⟨f, rfl⟩ | ⟨f, rfl⟩ | ⟨f, rfl⟩ | ⟨f, rfl⟩ | ⟨f, rfl⟩ | ⟨f, rfl⟩ | ⟨f, rfl⟩ |
    ⟨f, rfl⟩ | ⟨f, rfl⟩ | ⟨f, rfl⟩ | ⟨f, rfl⟩ | ⟨f, rfl⟩ | ⟨f, rfl⟩ | ⟨f, rfl⟩ <;> exact ⟨rfl, _, rfl⟩

/-- A step that tries the waiting instruction again does what that instruction does as its hart. -/
theorem State.retry_answers {o : Out} {f : Instr → State → Out} (hr : (s.hart h).run = .running)
    (hw : (s.hart h).wait = some w) (hi : w.instr = i) (ho : o = s.retry h f)
    (hf : f i { s with cur := h } = exec i { s with cur := h } ∧ ∃ t, exec i { s with cur := h } = .next t) :
    ∃ t, o = .next t ∧ exec i { s with cur := h } = .next t := by
  obtain ⟨he, t, ht⟩ := hf
  exact ⟨t, by rw [ho, State.retry_of_wait hr hw, hi, he, ht], ht⟩

/-! ### A deadline that has passed -/

theorem State.expired_iff (s : State) :
    s.expired = true ↔ s.me.waitDeadline ≠ 0 ∧ s.me.waitDeadline.toNat ≤ (s.die (slotDie s.cur)).ptime.toNat := by
  simp [State.expired, BitVec.le_def]

/-- With a deadline in its wait, time passes and a wait that it has reached is tried again. -/
theorem execWdeadlineExpiry_of_expired (hr : (s.hart h).run = .running) (hw : (s.hart h).wait = some w) (hd : w.deadline ≠ 0)
    (he : w.deadline.toNat ≤ (s.tickTime.die (slotDie h)).ptime.toNat) :
    execWdeadlineExpiry h s = retryWait w.instr { s.tickTime with cur := h } := by
  have expired : State.expired { s.tickTime with cur := h } = true := by
    have hdl : State.me { s.tickTime with cur := h } = s.hart h := rfl
    rw [State.expired_iff, hdl, Hart.waitDeadline, hw]
    exact ⟨hd, he⟩
  unfold execWdeadlineExpiry
  simp only [hw, Option.any_some, hd, ne_eq, not_false_eq_true, decide_true, if_true]
  exact (State.retry_of_wait (s := s.tickTime) hr hw _).trans (if_pos expired)

/-! ### The grant of a tile queue -/

theorem nodup_coreSlots (core : Nat) : (coreSlots core).Nodup :=
  List.Nodup.map (fun _ _ e => Nat.add_left_cancel e) List.nodup_range

/-- Of a list without repetition a condition that one member meets alone selects that one. -/
theorem filter_eq_singleton {α : Type} [DecidableEq α] {l : List α} {p : α → Bool} {a : α} (hl : l.Nodup) (ha : a ∈ l)
    (hp : p a = true) (ho : ∀ b ∈ l, b ≠ a → p b = false) : l.filter p = [a] := by
  have same : l.filter p = l.filter (· == a) := List.filter_congr fun b hb => by
    by_cases e : b = a
    · simp [e, hp]
    · simp [e, ho b hb e]
  rw [same, List.filter_beq, List.count_eq_one_of_mem hl ha, List.replicate_one]

/-- The one hart of a core that waits is the one that a freed tile queue goes to. -/
theorem execTileQueueGrant_of_only {core : Nat} (hr : (s.hart h).run = .running) (hw : (s.hart h).wait = some w)
    (ht : w.forTile = true) (hc : h ∈ coreSlots core) (ho : ∀ k ∈ coreSlots core, k ≠ h → (s.hart k).wait = none) :
    execTileQueueGrant core s = s.retry h retryTile := by
  have only : (coreSlots core).filter (fun h => s.runs h && (s.hart h).wait.any Wait.forTile) = [h] :=
    filter_eq_singleton (nodup_coreSlots core) hc (by simp [State.runs, hr, hw, ht]) fun k hk n => by simp [ho k hk n]
  unfold execTileQueueGrant
  rw [only]
  rfl

end Sys2Proof.Machine

open Sys2Proof Sys2Proof.Machine

/-- Settles O46: each of the steps is the waiting instruction's own execution as its hart. -/
theorem waitingInstructionsAreTriedAgain : Obligations.WaitingInstructionsAreTriedAgain := by
  unfold Obligations.WaitingInstructionsAreTriedAgain
  intro h s w hr hw
  refine ⟨?setvl, ?fork, ?merge, ?endHart, ?release, ?drain, ?wait, ?word, ?tile⟩
  case setvl => exact fun f hi => State.retry_answers hr hw hi rfl ⟨rfl, _, rfl⟩
  case fork => exact fun f hi => State.retry_answers hr hw hi rfl ⟨rfl, _, rfl⟩
  case merge => exact fun hi => State.retry_answers hr hw hi rfl ⟨rfl, _, rfl⟩
  case endHart =>
    intro hi
    obtain ⟨t, complete, ended⟩ := State.retry_answers (o := exec (.endComplete h) s) hr hw hi rfl ⟨rfl, _, rfl⟩
    obtain ⟨t', sealed, ended'⟩ := State.retry_answers (o := exec (.sealSend h) s) hr hw hi rfl ⟨rfl, _, rfl⟩
    exact ⟨t, complete, ended, sealed.trans (ended'.symm.trans ended)⟩
  case release => exact fun f hi => State.retry_answers hr hw rfl rfl (retryRelease_eq_exec hi _)
  case drain => exact fun i hi e => State.retry_answers hr hw e rfl (retryDrain_eq_exec hi _)
  case wait =>
    rintro i hi rfl
    refine ⟨State.retry_answers hr hw rfl rfl (retryWait_eq_exec hi _), ?_⟩
    rintro u hd rfl he
    obtain ⟨same, t, ht⟩ := retryWait_eq_exec hi { s.tickTime with cur := h }
    exact ⟨t, (execWdeadlineExpiry_of_expired hr hw hd he).trans (same.trans ht), ht⟩
  case word => exact fun i hi e => State.retry_answers hr hw e rfl (retryWord_eq_exec hi _)
  case tile =>
    intro f core hi hc ho
    exact State.retry_answers hr hw hi (execTileQueueGrant_of_only hr hw (by rw [Wait.forTile, hi]) hc ho) ⟨rfl, _, rfl⟩
end

section
/-!
SUPPORT. Proof of the statement on the enqueue of a queued instruction (Machine/Queue).
-/

namespace Sys2Proof.Machine

/-! ### The queued instructions -/

variable {i : Instr} {q : Queued}

/-- Every queued instruction but MSWAP is its enqueue. -/
theorem exec_of_queuedOf (h : queuedOf i = some q) (hm : i ≠ .mswap) (s : State) : exec i s = .next (s.enqueue q) := by
  cases i with
  | mswap => exact absurd rfl hm
  | _ => cases h <;> rfl

/-- Beside what every enqueue captures, at most a codebook is captured: that of an MLS. -/
theorem queuedOf_fixes (h : queuedOf i = some q) (s : State) (e : QEntry) :
    q.fixes s e = { e with book := (q.fixes s e).book } := by
  cases i with
  | mls => cases h; rfl
  | _ => cases h <;> rfl

/-! ### The checks of an enqueue (01_machine R13, R26; 20_faults R365) -/

/-- The checks in their order, each under the condition on which it fails; those of the instruction itself come last. -/
theorem Queued.enqueueCheck_eq (q : Queued) (s : State) (e : QEntry) : q.enqueueCheck s e =
    if s.me.k = 0 then some (.trap 0x04 (q.word.setWidth 64))
    else if s.me.laneLost = true then some (.trap 0x19 ((s.retired (coreOf s.cur)).setWidth 64))
    else if e.first = false ∧ convoyRoom s.me.openMembers q.word = false then some (.trap 0x02 (q.word.setWidth 64))
    else if q.len.isSome = true ∧ e.lw.extractLsb' 36 28 ≠ 0 then some (.trap 0x05 (q.word.setWidth 64))
    else if q.len.isSome = true ∧ q.bound s.me e.ty < e.vl then some (.trap 0x04 (q.word.setWidth 64))
    else if (q.len.isSome = true ∧ q.types e.ty = false) ∨ (q.rm = true ∧ 5 ≤ e.rm.toNat) then
      some (.trap 0x01 (q.word.setWidth 64))
    else q.check s e := by
  have types : q.typeCheck e = true ↔
      ¬ ((q.len.isSome = true ∧ q.types e.ty = false) ∨ (q.rm = true ∧ 5 ≤ e.rm.toNat)) := by
    unfold Queued.typeCheck
    cases q.len <;> cases q.rm <;> simp
  have room : (!e.first && !convoyRoom s.me.openMembers q.word) = true ↔
      e.first = false ∧ convoyRoom s.me.openMembers q.word = false := by simp
  unfold Queued.enqueueCheck Queued.lengthCheck
  simp only [types, room, gt_iff_lt]
  cases q.len with
  | none =>
    simp only [Option.isSome_none, Bool.false_eq_true, false_and, false_or, if_false]
    split_ifs <;> rfl
  | some l =>
    simp only [Option.isSome_some, true_and]
    split_ifs <;> rfl

/-- An enqueue whose check fails stops there. -/
theorem State.enqueue_of_stop {s : State} {x : Stop} (h : q.enqueueCheck s (q.fixes s (q.capture s.me s.me.pc)) = some x) :
    s.enqueue q = s.halt x := by
  rw [State.enqueue, h]

/-! ### An entry appended (01_machine R13, R25; 12_operand_delivery R270, R272) -/

/-- A word that passes its checks waits while the entries that keep their places fill the queue. -/
theorem State.enqueue_of_full {s : State} {e : QEntry} (he : e = q.fixes s (q.capture s.me s.me.pc))
    (hc : q.enqueueCheck s e = none) (hl : queueSize ≤ (s.me.entriesBefore e.first).length) : s.enqueue q = s := by
  subst he
  rw [State.enqueue, hc]
  exact if_pos hl

/-- A word that passes its checks and finds room, but does not run at once, is admitted. -/
theorem State.enqueue_of_room {s : State} {e : QEntry} (he : e = q.fixes s (q.capture s.me s.me.pc))
    (hc : q.enqueueCheck s e = none) (hl : (s.me.entriesBefore e.first).length < queueSize) (hr : s.runsNow e = false) :
    s.enqueue q = (s.withMe Hart.advance).withMe fun t => admitted t q e := by
  subst he
  rw [State.enqueue, hc]
  refine (if_neg (Nat.not_le.mpr hl)).trans ?_
  rw [hr, State.enter_wait]

/-- The counters of a hart with a member admitted. -/
theorem ctr_admitted (t : Hart) (q : Queued) (e : QEntry) (n : Nat) :
    (admitted t q e).ctr n = if n = q.ctr ∧ q.ctr ≠ 0 then ⟨e.issue, (t.ctr n).retired⟩ else t.ctr n := by
  let u : Hart := { t with queue := (if e.first && t.drained then [] else t.queue) ++ [e], convoyOpen := true }
  show Hart.ctr (if q.ctr = 0 then u else u.setCtr q.ctr ⟨e.issue, (t.ctr q.ctr).retired⟩) n = _
  by_cases h : q.ctr = 0
  · rw [if_pos h, if_neg fun c => c.2 h]
    rfl
  · rw [if_neg h, Hart.ctr_setCtr]
    by_cases hn : n = q.ctr
    · rw [if_pos hn, if_pos ⟨hn, h⟩, hn]
    · rw [if_neg hn, if_neg fun c => hn c.1]
      rfl

end Sys2Proof.Machine

open Sys2Proof Sys2Proof.Machine

/-- Settles O34: the enqueue takes the first check that fails, and appends the captured entry when none does. -/
theorem enqueueChecksThenAppends : Obligations.EnqueueChecksThenAppends := by
  unfold Obligations.EnqueueChecksThenAppends
  constructor
  · intro i q s e hq hm he
    have hrm : e.rm = s.me.rm := by rw [he, queuedOf_fixes hq]; rfl
    have hfirst : e.first = s.me.begins q.word := by rw [he, queuedOf_fixes hq]; rfl
    have check := Queued.enqueueCheck_eq q s e
    rw [hrm, hfirst] at check
    have traps {c : Byte} {v : Word} (h : q.enqueueCheck s e = some (.trap c v)) : Traps (exec i s) s c v := by
      rw [exec_of_queuedOf hq hm, State.enqueue_of_stop (he ▸ h)]
      exact traps_raise s c v
    split_ifs at check ⊢ with lanes lost room reserved count types
    · exact traps check
    · exact traps check
    · exact traps check
    · exact traps check
    · exact traps check
    · exact fun _ => traps check
    · exact fun h => absurd h types
  · intro i q s e hq hm he hc
    have hfirst : e.first = s.me.begins q.word := by rw [he, queuedOf_fixes hq]; rfl
    rw [exec_of_queuedOf hq hm, ← hfirst]
    refine ⟨fun hl => by rw [State.enqueue_of_full he hc hl], fun hl hr => ?_⟩
    have hme : (s.enqueue q).me = admitted s.me.advance q e := by
      rw [State.enqueue_of_room he hc hl hr, State.me_withMe, State.me_withMe]
    have hissue : q.ctr ≠ 0 → e.issue = (s.me.ctr q.ctr).issued + 1 := fun h => by
      rw [he, queuedOf_fixes hq]; exact if_neg h
    refine ⟨_, rfl, ?_, ?_, ?_, ?_, ?_, fun n => ?_⟩
    · rw [State.enqueue_of_room he hc hl hr]; exact (onlyMe_withMe _ _).trans (onlyMe_withMe _ _)
    · rw [hme, admitted_eq]
      simp only [Bool.and_eq_true]
      rfl
    · rw [he, queuedOf_fixes hq]; rfl
    · rw [he, queuedOf_fixes hq]; rfl
    · rw [he, queuedOf_fixes hq]; rfl
    · rw [hme, ctr_admitted]
      split
      · next h => rw [hissue h.2, ← h.1]; rfl
      · rfl
end

section
/-!
SUPPORT. Proof of the statement on the split of a hart (Machine/System, FORK).
-/

namespace Sys2Proof.Machine

/-! ### The executing hart's slot stays the same as its outstanding operations complete -/

theorem State.cur_foldl {α : Type} {f : State → α → State} (hf : ∀ s a, (f s a).cur = s.cur) (l : List α) (s : State) :
    (l.foldl f s).cur = s.cur := by
  induction l generalizing s with
  | nil => rfl
  | cons a l ih => exact (ih (f s a)).trans (hf s a)
@[simp] theorem State.cur_notice (s : State) (h : Nat) : (s.notice h).cur = s.cur := by unfold State.notice; split <;> rfl
@[simp] theorem State.cur_noticeAll (s : State) : s.noticeAll.cur = s.cur := State.cur_foldl State.cur_notice _ s
theorem State.cur_performFrom (s : State) (done : List Nat) (l : List PendByte) : (s.performFrom done l).cur = s.cur := by
  induction l generalizing s done with
  | nil => rfl
  | cons b l ih =>
    unfold State.performFrom
    split
    · exact (ih _ _).trans (State.cur_noticeAll s)
    · exact ih _ _
@[simp] theorem State.cur_performBytes (s : State) (l : List PendByte) : (s.performBytes l).cur = s.cur :=
  State.cur_performFrom s [] l
@[simp] theorem State.cur_performOrdered (s : State) (h : Nat) (p : NbOp → Bool) : (s.performOrdered h p).cur = s.cur :=
  State.cur_performBytes s _
@[simp] theorem State.cur_nbFinish (s : State) (h : Nat) (o : NbOp) : (s.nbFinish h o).cur = s.cur := by
  unfold State.nbFinish
  split <;> split <;> simp
@[simp] theorem State.cur_drainNb (s : State) (h : Nat) : (s.drainNb h).cur = s.cur :=
  State.cur_foldl (fun s o => (State.cur_noticeAll _).trans (State.cur_nbFinish s h o)) _ s
theorem State.cur_adoptShare {u v : State} {h w : Nat} (ha : u.adoptShare h w = some v) : v.cur = u.cur := by
  unfold State.adoptShare at ha
  dsimp only at ha
  split at ha
  · cases ha; rfl
  · split at ha
    · cases ha
    · cases ha; rfl

/-! ### Reaching the split (04_scalar R119) -/

/-- A hart that has finished its work goes on with what follows. -/
theorem State.afterWork_of_worked {s u : State} {i : Instr} {k : State → State} (hu : u = (s.withMe Hart.closeConvoy).drainNb s.cur)
    (hd : s.me.drained = true) (hw : u.me.worked = true) : s.afterWork i k = k u := by
  have hd' : (s.withMe Hart.closeConvoy).me.drained = true := by rw [State.me_withMe]; exact hd
  subst hu
  exact (if_pos hd').trans (if_pos hw)

/-- A FORK whose hart has finished its work and can adopt its pending share splits the hart that it then is. -/
theorem exec_fork_of_adopted {f : ForkOps} {s u v : State} (hu : u = (s.withMe Hart.closeConvoy).drainNb s.cur)
    (hd : s.me.drained = true) (hw : u.me.worked = true) (ha : u.adoptShare s.cur 64 = some v) :
    exec (.fork f) s = .next (v.split f) := by
  have hcur : u.cur = s.cur := by rw [hu, State.cur_drainNb]; rfl
  show Host.Outcome.next _ = _
  rw [State.afterWork_of_worked hu hd hw, hcur, ha]

/-! ### The harts of a family -/

/-- Several slots' harts replaced. -/
def State.setHarts (s : State) (l : List (Nat × Hart)) : State := l.foldl (fun s c => s.setHart c.1 c.2) s

theorem State.setHarts_eq (s : State) (l : List (Nat × Hart)) : s.setHarts l = { s with harts := (s.setHarts l).harts } := by
  unfold State.setHarts
  induction l generalizing s with
  | nil => rfl
  | cons c l ih => exact ih (s.setHart c.1 c.2)
theorem State.hart_setHarts_other {s : State} {l : List (Nat × Hart)} {h : Nat} (hl : h ∉ l.map (·.1)) :
    (s.setHarts l).hart h = s.hart h := by
  unfold State.setHarts
  induction l generalizing s with
  | nil => rfl
  | cons c l ih =>
    simp only [List.map_cons, List.mem_cons, not_or] at hl
    rw [List.foldl_cons, ih hl.2, State.hart_setHart, if_neg hl.1]
theorem State.hart_setHarts_mem {s : State} {l : List (Nat × Hart)} {c : Nat × Hart} (hd : (l.map (·.1)).Nodup) (hc : c ∈ l) :
    (s.setHarts l).hart c.1 = c.2 := by
  induction l generalizing s with
  | nil => cases hc
  | cons b l ih =>
    obtain ⟨hb, hd⟩ := List.nodup_cons.mp hd
    rcases List.mem_cons.mp hc with rfl | hc
    · exact (State.hart_setHarts_other hb).trans (State.hart_setHart_same s c.1 c.2)
    · exact ih hd hc

theorem nodup_freeSlots (s : State) (core : Nat) : (s.freeSlots core).Nodup := (nodup_coreSlots core).filter _
theorem run_of_mem_freeSlots {s : State} {core h : Nat} (hm : h ∈ s.freeSlots core) : (s.hart h).run = .free := by
  simpa using (List.mem_filter.mp hm).2

/-- The children of a split, each with its slot. -/
def Hart.children (t : Hart) (d : BitVec 5) (n id : Nat) (slots spaces : List Nat) : List (Nat × Hart) :=
  slots.mapIdx fun j h => (h, t.child d n (j + 1) id spaces[j]?)
/-- The package with the harts of a split in their slots. -/
def State.forked (v : State) (d : BitVec 5) (n : Nat) (slots spaces : List Nat) : State :=
  (v.withMe fun t => t.childZero d n v.fresh).setHarts (v.me.children d n v.fresh slots spaces)

section
variable {v : State} {d : BitVec 5} {n : Nat} {slots spaces : List Nat}

theorem Hart.map_fst_children (t : Hart) (id : Nat) : (t.children d n id slots spaces).map (·.1) = slots := by
  apply List.ext_getElem <;> simp [Hart.children]
theorem State.forked_eq : v.forked d n slots spaces = { v with harts := (v.forked d n slots spaces).harts } :=
  (State.setHarts_eq _ _).trans rfl
theorem State.hart_forked_other {h : Nat} (hc : h ≠ v.cur) (hs : h ∉ slots) : (v.forked d n slots spaces).hart h = v.hart h := by
  rw [State.forked, State.hart_setHarts_other (by rw [Hart.map_fst_children]; exact hs), State.hart_withMe, if_neg hc]
theorem State.hart_forked_parent (hs : v.cur ∉ slots) :
    (v.forked d n slots spaces).hart v.cur = v.me.childZero d n v.fresh := by
  rw [State.forked, State.hart_setHarts_other (by rw [Hart.map_fst_children]; exact hs), State.hart_withMe, if_pos rfl]
theorem State.hart_forked_child (hd : slots.Nodup) {j h : Nat} (hj : slots[j]? = some h) :
    (v.forked d n slots spaces).hart h = v.me.child d n (j + 1) v.fresh spaces[j]? := by
  have hm : (h, v.me.child d n (j + 1) v.fresh spaces[j]?) ∈ v.me.children d n v.fresh slots spaces := by
    obtain ⟨hl, rfl⟩ := List.getElem?_eq_some_iff.mp hj
    exact List.mem_iff_getElem.mpr ⟨j, by simpa [Hart.children] using hl, by simp [Hart.children]⟩
  exact State.hart_setHarts_mem (by rw [Hart.map_fst_children]; exact hd) hm

end

/-! ### Rows of a child (01_machine R18) -/

theorem rowElem_lt (w r i : Nat) : rowElem w r i < 2 ^ w := Nat.mod_lt _ (Nat.two_pow_pos w)

/-- A number of w-bit digits is below the power of its length. -/
theorem foldr_digits_lt {α : Type} (w : Nat) (g : α → Nat) (l : List α) (hg : ∀ a ∈ l, g a < 2 ^ w) :
    l.foldr (fun a v => g a + 2 ^ w * v) 0 < 2 ^ (w * l.length) := by
  induction l with
  | nil => simp
  | cons a l ih =>
    have ha := hg a List.mem_cons_self
    have hl := ih fun b hb => hg b (List.mem_cons_of_mem a hb)
    rw [List.foldr_cons, List.length_cons, Nat.mul_succ, Nat.add_comm (w * _), Nat.pow_add]
    calc _ < 2 ^ w + 2 ^ w * l.foldr (fun a v => g a + 2 ^ w * v) 0 := Nat.add_lt_add_right ha _
      _ = 2 ^ w * (l.foldr (fun a v => g a + 2 ^ w * v) 0 + 1) := by ring
      _ ≤ _ := Nat.mul_le_mul_left _ hl

/-- Each w-bit digit is read back as the element of its place. -/
theorem rowElem_foldr_digits {α : Type} (w : Nat) (g : α → Nat) (l : List α) (hg : ∀ a ∈ l, g a < 2 ^ w) (i : Nat)
    (hi : i < l.length) : rowElem w (l.foldr (fun a v => g a + 2 ^ w * v) 0) i = g l[i] := by
  induction l generalizing i with
  | nil => cases hi
  | cons a l ih =>
    have ha := hg a List.mem_cons_self
    rw [List.foldr_cons]
    cases i with
    | zero =>
      rw [rowElem, Nat.mul_zero, Nat.pow_zero, Nat.div_one, Nat.add_mul_mod_self_left, Nat.mod_eq_of_lt ha, List.getElem_cons_zero]
    | succ i =>
      rw [rowElem, Nat.mul_succ, Nat.add_comm (w * i), Nat.pow_add, ← Nat.div_div_eq_div_mul,
        Nat.add_mul_div_left _ _ (Nat.two_pow_pos w), Nat.div_eq_of_lt ha, Nat.zero_add, List.getElem_cons_succ]
      exact ih (fun b hb => hg b (List.mem_cons_of_mem a hb)) i (Nat.lt_of_succ_lt_succ hi)

/-- Group i of child j's row is group j + n i of the parent's. -/
theorem rowElem_childRow {k n j i : Nat} {r : Row} (hk : k ≤ 8) (hi : i < 8 * k / n) :
    rowElem 512 (childRow k n j r).toNat i = rowElem 512 r.toNat (j + n * i) := by
  have digits : ∀ a ∈ List.range (8 * k / n), rowElem 512 r.toNat (j + n * a) < 2 ^ 512 :=
    fun _ _ => rowElem_lt 512 _ _
  have fits : 512 * (List.range (8 * k / n)).length ≤ 32768 := by
    have := Nat.div_le_self (8 * k) n
    rw [List.length_range]
    omega
  have whole := (foldr_digits_lt 512 _ _ digits).trans_le (Nat.pow_le_pow_right Nat.two_pos fits)
  rw [childRow, BitVec.toNat_ofNat, Nat.mod_eq_of_lt whole, rowElem_foldr_digits 512 _ _ digits i (by simpa using hi),
    List.getElem_range]

/-- A row of a register file of which every row was given. -/
theorem Hart.vr_of_mapRows {t : Hart} {g : Nat → Row} (h : t.v = mapRows g) {r : Nat} (hr : r < 32) : t.vr r = g r := by
  rw [Hart.vr, h, mapRows, Sparse.get_foldl_set, Nat.mod_eq_of_lt hr, if_pos (List.mem_range.mpr hr)]

/-! ### What a member of the family is -/

/-- c has the place, the clusters and the row groups of child j of the n that p splits into. -/
def Hart.HasShare (p c : Hart) (n j : Nat) : Prop :=
  (c.family.map fun g => (g.index, g.ways)) = some (j, n) ∧ c.map = childMap p.map n j ∧
    ∀ r i, r < 32 → i < 8 * p.k / n → rowElem 512 (c.vr r).toNat i = rowElem 512 (p.vr r).toNat (j + n * i)

theorem Hart.hasShare_of_rows {p c : Hart} {n j : Nat} (hf : (c.family.map fun g => (g.index, g.ways)) = some (j, n))
    (hm : c.map = childMap p.map n j) (hv : c.v = mapRows fun r => childRow p.k n j (p.vr r)) : p.HasShare c n j := by
  refine ⟨hf, hm, fun r i hr hi => ?_⟩
  rw [Hart.vr_of_mapRows hv hr]
  exact rowElem_childRow (popCount_le _ _) hi
theorem Hart.result_family (t : Hart) (d : BitVec 5) (v : Word) : (t.result d v).family = t.family := by rw [Hart.result_eq]
theorem Hart.result_map (t : Hart) (d : BitVec 5) (v : Word) : (t.result d v).map = t.map := by rw [Hart.result_eq]
theorem Hart.result_v (t : Hart) (d : BitVec 5) (v : Word) : (t.result d v).v = t.v := by rw [Hart.result_eq]
theorem Hart.hasShare_childZero (t : Hart) (d : BitVec 5) (n id : Nat) : t.HasShare (t.childZero d n id) n 0 :=
  Hart.hasShare_of_rows (congrArg _ (Hart.result_family _ d 0)) (Hart.result_map _ d 0) (Hart.result_v _ d 0)
theorem Hart.hasShare_child (t : Hart) (d : BitVec 5) (n j id : Nat) (space : Option Nat) :
    t.HasShare (t.child d n j id space) n j :=
  Hart.hasShare_of_rows (congrArg _ (Hart.result_family _ d _)) (Hart.result_map _ d _) (Hart.result_v _ d _)

/-- Of the parent only what its new share and its result are has changed. -/
theorem Hart.childZero_eq (t : Hart) (d : BitVec 5) (n id : Nat) : t.childZero d n id =
    { t with
      x := (t.childZero d n id).x
      v := (t.childZero d n id).v
      map := childMap t.map n 0
      family := (t.childZero d n id).family
      pc := t.pc + 4
      wait := none } := by
  rw [Hart.childZero, Hart.result_eq]
theorem Hart.regSet_childZero (t : Hart) (d : BitVec 5) (n id : Nat) : RegSet t (t.childZero d n id) d 0 :=
  fun r => Hart.xr_result _ d r 0
theorem Hart.regSet_child (t : Hart) (d : BitVec 5) (n j id : Nat) (space : Option Nat) :
    RegSet t (t.child d n j id space) d (BitVec.ofNat 64 j) :=
  fun r => Hart.xr_result _ d r _
/-- A child has the control registers that R119 lists, and its own locket space in VQIMG. -/
theorem Hart.csrv_child (t : Hart) (d : BitVec 5) (n j id : Nat) (space : Option Nat) (c : Nat) :
    (t.child d n j id space).csrv c =
      if c ∈ childCsrs then t.csrv c else if c = 0x105 then BitVec.ofNat 64 (space.getD 0) else 0 := by
  rw [Hart.child, Hart.csrv_result]
  show Sparse.get 0 (Sparse.set 0 _ 0x105 _) c = _
  rw [Sparse.get_set, Sparse.get_foldl_set]
  by_cases hc : c = 0x105
  · subst hc
    rfl
  · rw [if_neg hc, if_neg hc]
    rfl

/-! ### What the split does to memory (14_regions R286, R295) -/

theorem State.memOnly_trans {s t u : State} (h : t = { s with mem := t.mem }) (k : u = { t with mem := u.mem }) :
    u = { s with mem := u.mem } := by rw [k, h]
/-- What is written depends on memory and on the names of locations alone. -/
theorem State.mem_writeAt_congr (as : List Nat) (n : Nat) {s t : State} (hm : s.mem = t.mem) (hc : s.canon = t.canon) :
    (s.writeAt as n).mem = (t.writeAt as n).mem := by
  induction as generalizing s t n with
  | nil => exact hm
  | cons a as ih =>
    refine ih (n / 256) ?_ hc
    show Sparse.set 0 s.mem (s.canon a) _ = Sparse.set 0 t.mem (t.canon a) _
    rw [hm, hc]
theorem State.canon_writeGa (s : State) (a n x : Nat) : (s.writeGa a n x).canon = s.canon :=
  funext fun c => State.canon_writeAt s _ _ c

theorem State.takeSpaces_eq (s : State) (l : List Nat) (rows : Nat) :
    s.takeSpaces l rows = { s with mem := (s.takeSpaces l rows).mem, pool := (s.takeSpaces l rows).pool } := by
  unfold State.takeSpaces
  induction l generalizing s with
  | nil => rfl
  | cons a l ih =>
    have one : s.writeGa a (4096 + locketSize rows) 0 = { s with mem := (s.writeGa a (4096 + locketSize rows) 0).mem } :=
      State.writeAt_eq _ _ _
    rw [List.foldl_cons, ih, one]
theorem State.mem_takeSpaces_congr (l : List Nat) (rows : Nat) {s t : State} (hm : s.mem = t.mem) (hc : s.canon = t.canon) :
    (s.takeSpaces l rows).mem = (t.takeSpaces l rows).mem := by
  unfold State.takeSpaces
  induction l generalizing s t with
  | nil => exact hm
  | cons a l ih =>
    refine ih (State.mem_writeAt_congr _ _ hm hc) ?_
    exact (State.canon_writeGa s _ _ _).trans (hc.trans (State.canon_writeGa t _ _ _).symm)

theorem State.syncRcb_eq (s : State) (r : Nat) : s.syncRcb r = { s with mem := (s.syncRcb r).mem } := by
  unfold State.syncRcb
  split
  · rfl
  · split
    · rfl
    · exact State.memOnly_trans (State.writeAt_eq _ _ _) (State.writeAt_eq _ _ _)
/-- The counts of a live region's RCB are written where it has one whose home can take them. -/
theorem State.mem_syncRcb (s : State) (r : Nat) : (s.syncRcb r).mem =
    ((if (s.region r).done then none else (s.region r).counts.filter fun a => !s.mustWait a).elim s.mem fun a =>
      ((s.writeGa a 4 (s.childCount r)).writeGa (a + 4) 2 (s.liveCount r)).mem) := by
  unfold State.syncRcb
  by_cases hd : (s.region r).done = true
  · simp [hd]
  · cases hc : (s.region r).counts with
    | none => simp [hd]
    | some a => cases hw : s.mustWait a <;> simp [hd, hw, Option.filter]

/-! ### The split as a whole -/

/-- The package with the harts of a split in their slots and the locket spaces of the children zeroed. -/
def State.spaced (v : State) (d : BitVec 5) (n : Nat) (slots spaces : List Nat) : State :=
  { (v.forked d n slots spaces).takeSpaces spaces 0 with fresh := (v.forked d n slots spaces).fresh + 1 }

section
variable {v : State} {d : BitVec 5} {n : Nat} {slots spaces : List Nat}

theorem State.spaced_eq : v.spaced d n slots spaces = { v with
    harts := (v.forked d n slots spaces).harts
    mem := (v.spaced d n slots spaces).mem
    pool := (v.spaced d n slots spaces).pool
    fresh := (v.spaced d n slots spaces).fresh } := by
  unfold State.spaced
  rw [State.takeSpaces_eq, State.forked_eq]
theorem State.mem_spaced : (v.spaced d n slots spaces).mem = (v.takeSpaces spaces 0).mem :=
  State.mem_takeSpaces_congr spaces 0 (by rw [State.forked_eq]) (by rw [State.forked_eq]; rfl)

/-- What is not memory stays as the counts of an RCB, where there is one, are written. -/
theorem State.elim_syncRcb_eq (s : State) (o : Option Nat) :
    o.elim s s.syncRcb = { s with mem := (o.elim s s.syncRcb).mem } := by
  cases o with
  | none => rfl
  | some r => exact State.syncRcb_eq s r

/-- A hart that may split does: its family is in its slots, and the counts of its region's RCB follow. -/
theorem State.split_eq {f : ForkOps} (hn : n = if f.four = 1 then 4 else 2) (hf : v.me.family = none) (hm : v.me.matrix = none)
    (hk : n ≤ v.me.k) (hs : slots = (v.freeSlots (coreOf v.cur)).take (n - 1)) (hl : slots.length = n - 1)
    (hp : spaces = (v.spaces v.me.secure 0).take (n - 1))
    (hb : ∀ r, v.me.region = some r → n - 1 ≤ v.remaining 1 r ∧ (n - 1) * (locketSize 0 + 4096) ≤ v.remaining 5 r ∧
      spaces.length = n - 1) :
    v.split f = v.me.region.elim (v.spaced f.d n slots spaces) (v.spaced f.d n slots spaces).syncRcb := by
  unfold State.split
  dsimp only
  rw [← hn, ← hs, ← hp]
  refine (if_neg ?_).trans ?_
  · simp only [hf, hm, hl]
    cases hr : v.me.region with
    | none => simpa using hk
    | some r =>
      obtain ⟨harts, hbm, left⟩ := hb r hr
      have left : n - 1 ≤ (v.spaces v.me.secure 0).length := by
        rw [hp, List.length_take] at left
        exact min_eq_left_iff.mp left
      simpa [harts, hbm, left] using hk
  · cases v.me.region <;> rfl

/-- Of memory the split changes the locket spaces, and the counts of its region's RCB where that is live and can take them. -/
theorem State.mem_of_split {t : State} (h : t = v.me.region.elim (v.spaced d n slots spaces) (v.spaced d n slots spaces).syncRcb) :
    t.mem = (v.me.region.bind fun r => if (v.region r).done then none
        else ((v.region r).counts.filter fun a => !v.mustWait a).map fun a => (r, a)).elim (v.takeSpaces spaces 0).mem
      fun c => (((v.takeSpaces spaces 0).writeGa c.2 4 (t.childCount c.1)).writeGa (c.2 + 4) 2 (t.liveCount c.1)).mem := by
  have canon : (v.spaced d n slots spaces).canon = (v.takeSpaces spaces 0).canon := by
    rw [State.spaced_eq, State.takeSpaces_eq]
    rfl
  cases hr : v.me.region with
  | none =>
    rw [h, hr]
    exact State.mem_spaced
  | some r =>
    rw [hr] at h
    have frame : t = { v.spaced d n slots spaces with mem := t.mem } := by rw [h]; exact State.syncRcb_eq _ r
    have region : (v.spaced d n slots spaces).region r = v.region r := (congrArg (State.region · r) State.spaced_eq :)
    have waits (a : Nat) : (v.spaced d n slots spaces).mustWait a = v.mustWait a :=
      (congrArg (State.mustWait · a) State.spaced_eq :)
    have children : t.childCount r = (v.spaced d n slots spaces).childCount r := (congrArg (State.childCount · r) frame :)
    have live : t.liveCount r = (v.spaced d n slots spaces).liveCount r := (congrArg (State.liveCount · r) frame :)
    have written (a x y : Nat) : (((v.spaced d n slots spaces).writeGa a 4 x).writeGa (a + 4) 2 y).mem =
        (((v.takeSpaces spaces 0).writeGa a 4 x).writeGa (a + 4) 2 y).mem :=
      State.mem_writeAt_congr _ _ (State.mem_writeAt_congr _ _ State.mem_spaced canon)
        ((State.canon_writeGa _ _ _ _).trans (canon.trans (State.canon_writeGa _ _ _ _).symm))
    have mem : t.mem = ((v.spaced d n slots spaces).syncRcb r).mem := by rw [h]; rfl
    rw [mem, State.mem_syncRcb, region]
    simp only [waits, written, Option.bind_some, State.mem_spaced]
    by_cases hd : (v.region r).done = true
    · simp [hd]
    · cases (v.region r).counts.filter fun a => !v.mustWait a <;> simp [hd, children, live]

end

end Sys2Proof.Machine

open Sys2Proof Sys2Proof.Machine

/-- Settles O16: the split replaces the harts of the family, zeroes the spaces and writes the counts, and nothing else. -/
theorem forkSplitsAHart : Obligations.ForkSplitsAHart := by
  unfold Obligations.ForkSplitsAHart
  intro f s u v n slots spaces hn hu hd hw ha hf hm hk hrun hs hl hp hb
  have hcur : v.cur = s.cur := by rw [State.cur_adoptShare ha, hu, State.cur_drainNb]; rfl
  rw [← hcur] at hs ⊢
  have hsplit := State.split_eq hn hf hm hk hs hl hp hb
  have hown : v.cur ∉ slots := fun h => hrun (run_of_mem_freeSlots (List.mem_of_mem_take (hs ▸ h)))
  have hdis : slots.Nodup := hs ▸ (nodup_freeSlots v _).sublist (List.take_sublist _ _)
  refine ⟨v.split f, exec_fork_of_adopted hu hd hw ha, ?_⟩
  have frame := State.elim_syncRcb_eq (v.spaced f.d n slots spaces) v.me.region
  rw [← hsplit] at frame
  have cur : (v.split f).cur = v.cur := (congrArg State.cur frame :).trans (congrArg State.cur State.spaced_eq :)
  have harts (h : Nat) : (v.split f).hart h = (v.forked f.d n slots spaces).hart h :=
    (congrArg (State.hart · h) frame :).trans (congrArg (State.hart · h) State.spaced_eq :)
  have parent : (v.split f).me = v.me.childZero f.d n v.fresh := by
    rw [State.me, cur, harts, State.hart_forked_parent hown]
  have child {j h : Nat} (hj : slots[j]? = some h) :
      (v.split f).hart h = v.me.child f.d n (j + 1) v.fresh spaces[j]? := by
    rw [harts, State.hart_forked_child hdis hj]
  refine ⟨?mem, ?others, ?me, ?result, ?shares, ?children⟩
  case mem =>
    rw [State.mem_of_split hsplit]
    split <;> next eqn => rw [eqn]; rfl
  case others => exact fun h hc hm => by rw [harts, State.hart_forked_other hc hm]
  case me => rw [parent]; exact Hart.childZero_eq _ _ _ _
  case result => rw [parent]; exact Hart.regSet_childZero _ _ _ _
  case shares =>
    intro j h hj hh
    cases j with
    | zero =>
      obtain rfl : v.cur = h := Option.some.inj hh
      rw [harts, State.hart_forked_parent hown]
      exact Hart.hasShare_childZero _ _ _ _
    | succ j =>
      rw [child hh]
      exact Hart.hasShare_child _ _ _ _ _ _
  case children =>
    intro j h hj hh
    rw [child hh]
    refine ⟨?_, ?_, ?_, Hart.regSet_child _ _ _ _ _ _, ?_, ?_, ?_, fun c => ?csr⟩
    case csr => rw [Hart.csrv_child, List.getD_eq_getElem?_getD]
    all_goals rw [Hart.child, Hart.result_eq]
end

section
/-!
SUPPORT. Proof of the statement on reductions to a scalar register (Machine/VMove, VRED).
-/

namespace Sys2Proof.Machine

/-! ### A vector-to-scalar result (05_vector R155) -/

/-- A member of no counter is admitted by taking its place in the queue. -/
theorem admitted_of_blocking {q : Queued} (h : q.ctr = 0) (t : Hart) (e : QEntry) : admitted t q e =
    { t with queue := (if e.first && t.drained then [] else t.queue) ++ [e], convoyOpen := true } := if_pos h
/-- What a write leaves in the scalar registers depends on them alone. -/
theorem Hart.x_setX_congr {t u : Hart} (h : t.x = u.x) (d : BitVec 5) (v : Word) : (t.setX d v).x = (u.setX d v).x := by
  unfold Hart.setX
  split
  · exact h
  · exact congrArg (Sparse.set 0 · d.toNat v) h

/-- A drained queue, kept or dropped, with a member behind it that is done is drained. -/
theorem Hart.drained_append {t u : Hart} {e : QEntry} {first : Bool} (hd : t.drained = true) (he : e.done = true)
    (hq : u.queue = (if first then [] else t.queue) ++ [e]) : u.drained = true := by
  rw [Hart.drained_iff, hq]
  intro x hx
  rcases List.mem_append.mp hx with h | h
  · cases first with
    | true => cases h
    | false => exact (Hart.drained_iff t).mp hd x h
  · rw [List.mem_singleton.mp h, he]

/-- A queued instruction whose action is a scalar result writes it and accrues its flags. -/
theorem setsScalar_enqueue {s : State} {q : Queued} {l : BitVec 2} {d : BitVec 5} {vl : Nat} {ty : BitVec 4} {v : Word}
    {fl : Flags} (hr : Runs s q.word) (hl : q.len = some l) (hv : HasLength s l vl ty) (hb : q.bound = shareBound)
    (ht : q.types ty = true) (hm : q.rm = false ∨ s.me.rm.toNat < 5) (h0 : q.ctr = 0)
    (hk : q.check s (q.capture s.me s.me.pc) = none) (hx : ∀ e, q.fixes s e = e) (hp : ∀ u e, q.place u e = none)
    (hc : classOf q.word ≠ .matrix)
    (ha : ∀ u, u.me.v = s.me.v → u.me.m = s.me.m → (q.capture s.me s.me.pc).ty = ty →
      (q.capture s.me s.me.pc).vl = vl → q.act u (q.capture s.me s.me.pc) = u.scalarResult d v fl) :
    SetsScalar (.next (s.enqueue q)) s d v fl := by
  obtain ⟨hcheck, hvl, hty⟩ := enqueueCheck_none s q l vl ty hr hl hv hb ht hm hk
  generalize he : q.capture s.me s.me.pc = e at *
  have flags : e.flags = 0 := by rw [← he]; rfl
  have word : classOf e.word ≠ .matrix := by rw [← he]; exact hc
  obtain ⟨u, only, hu, enq⟩ := enqueue_runs s q e he.symm (hx e) (fun u => hp u e) hcheck hr
    (fun u => u.withMe fun t => t.setX d v) (fun _ => fl) fun u _ hu => by
      rw [admitted_of_blocking h0] at hu
      refine ⟨ha u (by rw [hu]; rfl) (by rw [hu]; rfl) hty hvl, ?_⟩
      rw [State.me_withMe, Hart.setX_eq, hu, admitted_of_blocking h0]
  rw [admitted_of_blocking h0] at hu
  have x : (u.me.setX d v).x = (s.me.setX d v).x := Hart.x_setX_congr (by rw [hu]; rfl) d v
  have csr : ((u.me.setX d v).accrue fl).csr = (s.me.accrue fl).csr := by rw [Hart.setX_eq, hu]; rfl
  have me : (s.enqueue q).me = { s.me with
      x := (s.me.setX d v).x
      csr := (s.me.accrue fl).csr
      pc := s.me.pc + 4
      wait := none
      convoyOpen := true
      queue := (if e.first then [] else s.me.queue) ++ [{ e with started := true, done := true }] } := by
    rw [enq, State.me_withMe, State.me_withMe, complete_eq _ _ _ flags word, csr, Hart.setX_eq, x, hu]
    rfl
  refine ⟨_, rfl, ⟨?only, ?drained, ?rest⟩, ?rows, ?masks, fun r => ?reg, ?raised⟩
  case only => rw [enq]; exact only.trans ((onlyMe_withMe _ _).trans (onlyMe_withMe _ _))
  case drained =>
    obtain ⟨-, -, -, -, -, -, drained, -⟩ := hr
    exact Hart.drained_append drained rfl (congrArg Hart.queue me)
  case rest => rw [me]
  case rows => rw [me]
  case masks => rw [me]
  case reg => rw [me]; exact Hart.xr_setX s.me d r v
  case raised => rw [me]; exact (accrued_accrue s.me fl _ fun _ => Iff.rfl).congr fun _ => rfl

/-! ### The elements that a reduction takes (05_vector R132, R154) -/

/-- A count within VLMAX is at most the number of mask bits. -/
theorem HasLength.vl_le {s : State} {l : BitVec 2} {vl : Nat} {ty : BitVec 4} (hv : HasLength s l vl ty) : vl ≤ 8192 :=
  hv.2.trans (vlmax_le s.me ty)

theorem setPositions_eq_filter (mask n i : Nat) : setPositions mask n i = (List.range' i n).filter mask.testBit := by
  induction n generalizing i with
  | zero => rfl
  | succ n ih => rw [setPositions, ih, List.range'_succ, List.filter_cons]

/-- The set bits of an instruction's mask below VL are the places of its active elements. -/
theorem Hart.setPositions_maskOf (t : Hart) (m : BitVec 2) {vl : Nat} (hv : vl ≤ 8192) :
    setPositions (t.maskOf m) vl 0 = (List.range vl).filter fun i => t.gates m i := by
  rw [setPositions_eq_filter, ← List.range_eq_range']
  exact List.filter_congr fun i hi => mask_testBit t m i ((List.mem_range.mp hi).trans_le hv)

/-- The active elements below VL of row b at a type, in index order. -/
def Hart.actives (t : Hart) (ty : BitVec 4) (vl : Nat) (m : BitVec 2) (b : BitVec 5) : List Nat :=
  ((List.range vl).filter fun i => t.gates m i).map fun i => t.element ty b 0 i

theorem Hart.lt_of_mem_actives {t : Hart} {ty : BitVec 4} {vl : Nat} {m : BitVec 2} {b : BitVec 5} {x : Nat}
    (h : x ∈ t.actives ty vl m b) : x < 2 ^ typeWidth ty := by
  obtain ⟨i, -, rfl⟩ := List.mem_map.mp h
  exact rowElem_lt _ _ _
theorem Hart.activeElems_eq_actives (t : Hart) {e : QEntry} (he : e.vl ≤ 8192) (m : BitVec 2) (b : BitVec 5) :
    t.activeElems e m b = t.actives e.ty e.vl m b := by
  rw [Hart.activeElems, Hart.setPositions_maskOf t m he]
  rfl

/-- The leaves of the tree over the active elements below VL, zeros where there is none (02_numbers R60). -/
def Hart.leaves (t : Hart) (ty : BitVec 4) (vl : Nat) (m : BitVec 2) (b : BitVec 5) : List Nat :=
  (List.range (2 ^ treeLevels vl)).map fun i => if i < vl ∧ t.gates m i = true then t.element ty b 0 i else 0

theorem vfsumtQueued_act (f : VRedOps) (u : State) {e : QEntry} (he : e.vl ≤ 8192) :
    (vfsumtQueued f).act u e =
      (let r := sumTree (fmtOf e.ty) e.rm (treeLevels e.vl) (u.me.leaves e.ty e.vl f.m f.b, 0)
      u.scalarResult f.d (extendElem e.ty r.1) r.2) := by
  have leaf (i : Nat) : (if i < e.vl ∧ u.me.gates f.m i = true then u.me.element e.ty f.b 0 i else 0) =
      if i < e.vl ∧ (u.me.maskOf f.m).testBit i then u.me.elem e f.b 0 i else 0 :=
    if_congr (and_congr_right fun hi => by rw [mask_testBit u.me f.m i (hi.trans_le he)]) rfl rfl
  unfold Hart.leaves
  simp only [leaf]
  rfl

section
variable {t u : Hart} (hv : u.v = t.v) (hm : u.m = t.m)
include hv in
theorem Hart.element_congr : u.element = t.element := by
  unfold Hart.element Hart.vr
  rw [hv]
include hm in
theorem Hart.gates_congr : u.gates = t.gates := by
  unfold Hart.gates Hart.mr
  rw [hm]
include hv hm in
theorem Hart.actives_congr : u.actives = t.actives := by
  unfold Hart.actives
  rw [Hart.element_congr hv, Hart.gates_congr hm]
include hv hm in
theorem Hart.leaves_congr : u.leaves = t.leaves := by
  unfold Hart.leaves
  rw [Hart.element_congr hv, Hart.gates_congr hm]
end

/-! ### Reductions as vector-to-scalar instructions (05_vector R154) -/

theorem major_wordOf {i : Instr} {m : BitVec 6} (h : (encodeFields i).map Fields.maj = some m) :
    (wordOf i).extractLsb' 25 6 = m := by
  obtain ⟨x, hx, rfl⟩ := Option.map_eq_some_iff.mp h
  rw [wordOf, encode, hx]
  exact major_join x
theorem classOf_of_vred {w : IWord} (h : w.extractLsb' 25 6 = 28#6) : classOf w = .cross := by
  unfold classOf
  rw [h]
  rfl

section
variable {i : Instr} {f : VRedOps} {s : State} {vl : Nat} {ty : BitVec 4} {types : BitVec 4 → Bool} {rm : Bool}

/-- An instruction of major VRED whose action is a scalar result, on a hart of the same rows and masks, writes that result. -/
theorem setsScalar_vred {act : State → QEntry → VOut} {v : Word} {fl : Flags}
    (hq : queuedOf i = some (plainQueued (wordOf i) f.l types rm act)) (hi : (encodeFields i).map Fields.maj = some 28#6)
    (hr : Runs s (wordOf i)) (hv : HasLength s f.l vl ty) (ht : types ty = true) (hm : rm = false ∨ s.me.rm.toNat < 5)
    (ha : ∀ u e, u.me.v = s.me.v → u.me.m = s.me.m → e.ty = ty → e.vl = vl → e.rm = s.me.rm →
      act u e = u.scalarResult f.d v fl) :
    SetsScalar (exec i s) s f.d v fl := by
  have hc : classOf (wordOf i) ≠ .matrix := by rw [classOf_of_vred (major_wordOf hi)]; decide
  have hs : i ≠ .mswap := by rintro rfl; cases hq
  rw [exec_of_queuedOf hq hs]
  exact setsScalar_enqueue hr rfl hv rfl ht hm rfl rfl (fun _ => rfl) (fun _ _ => rfl) hc
    fun u rows masks ty vl => ha u _ rows masks ty vl rfl

/-- One that combines the list of active elements writes what the combination gives of them. -/
theorem setsScalar_combine {g : BitVec 4 → BitVec 3 → List Nat → Nat × Flags} {r : Nat × Flags}
    (hq : queuedOf i = some (plainQueued (wordOf i) f.l types rm fun u e =>
      u.scalarResult f.d (extendElem e.ty (g e.ty e.rm (u.me.activeElems e f.m f.b)).1)
        (g e.ty e.rm (u.me.activeElems e f.m f.b)).2))
    (hi : (encodeFields i).map Fields.maj = some 28#6) (hr : Runs s (wordOf i)) (hv : HasLength s f.l vl ty)
    (ht : types ty = true) (hm : rm = false ∨ s.me.rm.toNat < 5) (hg : g ty s.me.rm (s.me.actives ty vl f.m f.b) = r) :
    SetsScalar (exec i s) s f.d (extendElem ty r.1) r.2 := by
  refine setsScalar_vred hq hi hr hv ht hm fun u e rows masks ety evl erm => ?_
  rw [Hart.activeElems_eq_actives u.me (evl ▸ hv.vl_le), Hart.actives_congr rows masks, ety, evl, erm, hg]

/-- An integer reduction raises no flag. -/
theorem setsScalar_reduceOp {op : BitVec 4 → List Nat → Nat} {n : Nat}
    (hq : queuedOf i = some (reduceOp f (wordOf i) isInt false op)) (hi : (encodeFields i).map Fields.maj = some 28#6)
    (hr : Runs s (wordOf i)) (hv : HasLength s f.l vl ty) (ht : ty.toNat < 8)
    (hn : op ty (s.me.actives ty vl f.m f.b) = n) : SetsScalar (exec i s) s f.d (extendElem ty n) 0 :=
  setsScalar_combine (g := fun ty _ xs => (op ty xs, 0)) (r := (n, 0)) hq hi hr hv (decide_eq_true ht) (.inl rfl)
    (congrArg (·, 0) hn)
end

/-! ### Values of integer patterns (02_numbers R36) -/

theorem intValue_emod (sg : Bool) (w x : Nat) : intValue sg w x % 2 ^ w = (x % 2 ^ w : Nat) := by
  have self : ((x % 2 ^ w : Nat) : Int) % 2 ^ w = (x % 2 ^ w : Nat) := by push_cast; exact Int.emod_emod _ _
  unfold intValue toSigned
  dsimp only
  split_ifs
  · exact self
  · rw [Int.sub_emod_right, self]
  · exact self

/-- A pattern's value lies in its type's range. -/
theorem intValue_range (sg : Bool) {w : Nat} (hw : 0 < w) (x : Nat) :
    intMin sg w ≤ intValue sg w x ∧ intValue sg w x ≤ intMax sg w := by
  have below : x % 2 ^ w < 2 ^ w := Nat.mod_lt x (Nat.two_pow_pos w)
  obtain ⟨n, rfl⟩ : ∃ n, w = n + 1 := ⟨w - 1, by omega⟩
  unfold intMin intMax intValue toSigned
  generalize x % 2 ^ (n + 1) = y at *
  rw [pow_succ] at below
  simp only [Nat.add_sub_cancel, pow_succ]
  split_ifs <;> zify at * <;> omega

theorem wrapTo_cast (w : Nat) (v : Int) : (wrapTo w v : Int) = v % 2 ^ w :=
  Int.toNat_of_nonneg (Int.emod_nonneg v (by positivity))
theorem wrapTo_lt (w : Nat) (v : Int) : wrapTo w v < 2 ^ w := by
  zify
  rw [wrapTo_cast]
  exact Int.emod_lt_of_pos v (by positivity)

/-- The pattern of a pattern's value is the pattern. -/
theorem wrapTo_intValue (sg : Bool) {w x : Nat} (h : x < 2 ^ w) : wrapTo w (intValue sg w x) = x := by
  zify
  rw [wrapTo_cast, intValue_emod, Nat.mod_eq_of_lt h]

/-- The value of the pattern of a value in a type's range is the value: both lie in the range and agree modulo its length. -/
theorem intValue_wrapTo {sg : Bool} {w : Nat} (hw : 0 < w) {v : Int} (lo : intMin sg w ≤ v) (hi : v ≤ intMax sg w) :
    intValue sg w (wrapTo w v) = v := by
  obtain ⟨lo', hi'⟩ := intValue_range sg hw (wrapTo w v)
  have modulo : intValue sg w (wrapTo w v) % 2 ^ w = v % 2 ^ w := by
    rw [intValue_emod, Nat.mod_eq_of_lt (wrapTo_lt w v), wrapTo_cast]
  have length : intMax sg w - intMin sg w < 2 ^ w := by
    obtain ⟨n, rfl⟩ : ∃ n, w = n + 1 := ⟨w - 1, by omega⟩
    unfold intMin intMax
    rw [Nat.add_sub_cancel, pow_succ]
    split_ifs <;> omega
  refine sub_eq_zero.mp (Int.eq_zero_of_abs_lt_dvd (Int.ModEq.dvd modulo.symm) ?_)
  rw [abs_lt]
  constructor <;> omega

/-! ### The smallest and the largest of a list (05_vector R154) -/

section
variable {sg : Bool} {w : Nat}

theorem intMin_le_intMax (hw : 0 < w) : intMin sg w ≤ intMax sg w :=
  (intValue_range sg hw 0).1.trans (intValue_range sg hw 0).2

/-- A fold that chooses between patterns is the pattern of the fold of their values. -/
theorem foldl_choice {op : Nat → Nat → Nat} {g : Int → Int → Int}
    (value : ∀ a b, intValue sg w (op a b) = g (intValue sg w a) (intValue sg w b))
    (choice : ∀ a b, op a b = a ∨ op a b = b) {xs : List Nat} (hx : ∀ x ∈ xs, x < 2 ^ w) {a : Nat} (ha : a < 2 ^ w) :
    xs.foldl op a = wrapTo w ((xs.map (intValue sg w)).foldl g (intValue sg w a)) := by
  induction xs generalizing a with
  | nil => exact (wrapTo_intValue sg ha).symm
  | cons x xs ih =>
    have next : op a x < 2 ^ w := by
      rcases choice a x with h | h <;> rw [h]
      · exact ha
      · exact hx x List.mem_cons_self
    rw [List.foldl_cons, ih (fun y hy => hx y (List.mem_cons_of_mem x hy)) next, value]
    rfl

theorem intValue_opMin (a b c : Nat) :
    intValue sg w (opMin sg w a b c) = min (intValue sg w a) (intValue sg w b) := by
  rw [opMin, apply_ite (intValue sg w), min_def_lt]
theorem intValue_opMax (a b c : Nat) :
    intValue sg w (opMax sg w a b c) = max (intValue sg w a) (intValue sg w b) := by
  rw [opMax, apply_ite (intValue sg w), max_def_lt]

variable {xs : List Nat} (hw : 0 < w) (hx : ∀ x ∈ xs, x < 2 ^ w)
include hw hx

theorem foldl_opMin : xs.foldl (fun a b => opMin sg w a b 0) (wrapTo w (intMax sg w)) =
    wrapTo w ((xs.map (intValue sg w)).foldl min (intMax sg w)) := by
  rw [foldl_choice (fun a b => intValue_opMin a b 0) (fun _ _ => ite_eq_or_eq _ _ _) hx (wrapTo_lt w _),
    intValue_wrapTo hw (intMin_le_intMax hw) le_rfl]
theorem foldl_opMax : xs.foldl (fun a b => opMax sg w a b 0) (wrapTo w (intMin sg w)) =
    wrapTo w ((xs.map (intValue sg w)).foldl max (intMin sg w)) := by
  rw [foldl_choice (fun a b => intValue_opMax a b 0) (fun _ _ => (ite_eq_or_eq _ _ _).symm) hx (wrapTo_lt w _),
    intValue_wrapTo hw le_rfl (intMin_le_intMax hw)]

end

end Sys2Proof.Machine

open Sys2Proof Sys2Proof.Machine

/-- Settles O30: each reduction is a scalar result of the list of active elements, or of the tree's leaves. -/
theorem reductionsWriteAScalar : Obligations.ReductionsWriteAScalar := by
  unfold Obligations.ReductionsWriteAScalar
  intro f s vl ty xs hv hxs
  obtain rfl : xs = s.me.actives ty vl f.m f.b := hxs
  have below (x) (hx : x ∈ s.me.actives ty vl f.m f.b) : x < 2 ^ typeWidth ty := Hart.lt_of_mem_actives hx
  simp only [List.forall_mem_cons, List.not_mem_nil, false_implies, implies_true, and_true]
  constructor
  · refine ⟨fun ht hr => ?sum, fun ht hr => ?min, fun ht hr => ?max, fun ht hr => ?and, fun ht hr => ?or,
      fun ht hr => ?xor⟩
    case min => exact setsScalar_reduceOp rfl rfl hr hv ht (foldl_opMin (typeWidth_pos ty) below)
    case max => exact setsScalar_reduceOp rfl rfl hr hv ht (foldl_opMax (typeWidth_pos ty) below)
    all_goals exact setsScalar_reduceOp rfl rfl hr hv ht rfl
  · have arith (lo : 8 ≤ ty.toNat) (hi : ty.toNat < 12) : isArith ty = true := by simp [isArith, lo, hi]
    refine ⟨fun lo hi hm hr => ?ordered, fun lo hi hm hr => ?tree, fun lo hi hm hr => ?min, fun lo hi hm hr => ?max⟩
    case ordered =>
      exact setsScalar_combine (g := fun ty rm xs => sumOrdered (fmtOf ty) rm xs) rfl rfl hr hv (arith lo hi) (.inr hm) rfl
    case tree =>
      refine setsScalar_vred rfl rfl hr hv (arith lo hi) (.inr hm) fun u e rows masks ety evl erm => ?_
      refine (vfsumtQueued_act f u (evl ▸ hv.vl_le)).trans ?_
      rw [Hart.leaves_congr rows masks, ety, evl, erm]
      rfl
    case min =>
      exact setsScalar_combine (g := fun ty _ xs => minMaxAll (fmtOf ty) false xs) rfl rfl hr hv (arith lo hi) (.inr hm) rfl
    case max =>
      exact setsScalar_combine (g := fun ty _ xs => minMaxAll (fmtOf ty) true xs) rfl rfl hr hv (arith lo hi) (.inr hm) rfl
end

section
/-!
SUPPORT. Proofs of the statements on the encoding (03_encoding R69-R85): a counterexample to the agreement of encoder and decoder, and
the words written out from the tables.
-/

namespace Sys2Proof

/-- A VCVT of source type code 15, which is no well-formed instruction, has the word of VCVT.C4 with codebook 0 (R80): the code is
VCVT.C4's function value. -/
theorem encode_vcvt_15 (c : BitVec 1) (d b : BitVec 5) (l g m : BitVec 2) :
    encode (.vcvt ⟨c, d, b, l, g, m, 15⟩) = encode (.vcvtC4 ⟨c, d, 0, b, l, g, m⟩) := by
  simp only [encode, encodeFields]
  rfl

end Sys2Proof

open Sys2Proof

/-- Refutes O58: the encoder gives two instructions the one word 0x2A00000F, which decodes to one of them only. -/
theorem not_encodeAndDecodeAgree : ¬ Obligations.EncodeAndDecodeAgree := by
  unfold Obligations.EncodeAndDecodeAgree
  intro agree
  have word : encode (.vcvt ⟨0, 0, 0, 0, 0, 0, 15⟩) = some 0x2A00000F#32 := by rfl
  have cvt := (agree _ _).mp word
  have cvtC4 := (agree _ _).mp ((encode_vcvt_15 0 0 0 0 0 0).symm.trans word)
  cases cvt.symm.trans cvtC4

/-- Settles O57: each word is cut into its fields and looked up in the table of its major. -/
theorem specWordsDecode : Obligations.SpecWordsDecode := by
  unfold Obligations.SpecWordsDecode
  exact ⟨rfl, rfl, rfl, rfl, rfl, rfl, rfl, rfl, rfl, rfl, rfl, rfl, rfl, rfl, rfl, rfl⟩
end

section
/-!
SUPPORT. A counterexample to the statement on queued work (Machine/Delivery): a group of an outstanding row that lands whole restores
storage that an uncorrectable error had taken (21_service R379).
-/

namespace Sys2Proof.Machine

/-- A group that lands whole is good again: it is not, or no longer, among the lost storage (21_service R379). -/
theorem Hart.not_mem_lost_landGroup (t : Hart) {r : NbRow} {g : Nat} (hr : r.row < 32) (hg : g < 64)
    (whole : r.bits &&& groupBits g = groupBits g) : 64 * r.row + g ∉ (t.landGroup r g).lost := by
  have site : (64 * r.row + g) / 64 = r.row % 32 ∧ (64 * r.row + g) % 64 = g := by omega
  show 64 * r.row + g ∉ (t.rewritten r.row (r.bits &&& groupBits g)).lost
  rw [Hart.rewritten]
  split
  · next empty => simp [List.isEmpty_iff.mp empty]
  · simp [site, whole]

/-- The landing of a group of which the operation awaits nothing more. -/
theorem exec_loadGroupLanding {h row grp : Nat} {s : State} {o : NbOp} {r : NbRow}
    (ho : (s.hart h).nb.find? (fun o => o.brings row grp) = some o)
    (hr : o.rows.find? (fun r => decide (r.row = row) && r.groups.getLsbD grp) = some r) (ha : o.awaitsGroup row grp = false) :
    ∃ nb, exec (.loadGroupLanding h row grp) s = .next (s.setHart h ({ s.hart h with nb := nb }.landGroup r grp)) := by
  show ∃ nb, execLoadGroupLanding h row grp s = _
  simp only [execLoadGroupLanding, ho, hr, ha, Bool.false_eq_true, if_false]
  exact ⟨_, rfl⟩

/-- A load outstanding on counter 1 that brings all of group 0 of row 0. -/
def wholeGroupLoad : NbOp := nbPlain 1 1 [⟨0, 0, groupBits 0, 1⟩] [] 0 false
/-- A package whose hart 0 has lost group 0 of row 0 to an uncorrectable error and loads it again. -/
def reloading : State := State.reset.setHart 0 { Hart.free with lost := [0], nb := [wholeGroupLoad] }

end Sys2Proof.Machine

open Sys2Proof Sys2Proof.Machine

/-- Refutes O44: a group that lands whole is taken off the hart's lost storage, which the statement has unchanged. -/
theorem not_queuedWorkIsPerformed : ¬ Obligations.QueuedWorkIsPerformed := by
  unfold Obligations.QueuedWorkIsPerformed
  intro claim
  obtain ⟨-, -, -, -, landing, -⟩ := claim
  have hart : reloading.hart 0 = { Hart.free with lost := [0], nb := [wholeGroupLoad] } := State.hart_setHart_same _ _ _
  have brought : (reloading.hart 0).nb.find? (fun o => o.brings 0 0) = some wholeGroupLoad := by rw [hart]; rfl
  have claimed := landing 0 0 0 reloading wholeGroupLoad ⟨0, 0, groupBits 0, 1⟩ (by decide) (by decide) brought rfl
  rw [if_neg (by decide)] at claimed
  obtain ⟨t, runs, -, -, frame, -⟩ := claimed
  obtain ⟨nb, lands⟩ := exec_loadGroupLanding brought (r := ⟨0, 0, groupBits 0, 1⟩) rfl rfl
  obtain rfl : _ = t := Host.Outcome.next.inj (lands.symm.trans runs)
  have good : 0 ∉ _ := Hart.not_mem_lost_landGroup { reloading.hart 0 with nb := nb } (r := ⟨0, 0, groupBits 0, 1⟩) (g := 0)
    (by decide) (by decide) (BitVec.and_self)
  rw [State.hart_setHart_same] at frame
  rw [frame, hart] at good
  exact good (List.mem_singleton_self 0)
end

section
/-!
SUPPORT. Proof of the statement on repeat frames (Machine/Rep).
-/

namespace Sys2Proof.Machine

variable {t u w : State} {r : RepFrame}

/-! ### Stops of a hart that has just got a frame -/

/-- A hart with another frame, or none. -/
def Hart.withRep (t : Hart) (x : Option RepFrame) : Hart := { t with rep := x }

/-- A trap leaves no frame behind, so one that the hart has just got makes no difference to it. -/
theorem TrapEntered.of_rep {x : Option RepFrame} (only : OnlyMe w u) (hme : u.me = w.me.withRep x)
    {c : Byte} {b : Bool} {p v : Word} (h : TrapEntered u t c b p v) : TrapEntered w t c b p v := by
  obtain ⟨others, me, epc, cause, tval, status, kept⟩ := h
  rw [hme] at me status kept
  exact ⟨only.trans others, me, epc, cause, tval, status, kept⟩

/-- The record of an error in a hart changes the hart alone, but for the time that has passed, and its frame takes no part in it. -/
theorem State.logSite_eq_withMe (s : State) (unit : Nat) (site : BitVec 32) : ∃ (u : State) (k : Hart → Hart),
    s.logSite unit site s.cur = u.withMe k ∧
    (∀ x, (s.withMe fun t => t.withRep x).logSite unit site s.cur = (u.withMe fun t => t.withRep x).withMe k) ∧
    u.me = s.me ∧ (∀ t, (k t).pc = t.pc) ∧ ∀ t x, k (t.withRep x) = (k t).withRep x := by
  have same (x) : ((s.withMe fun t => t.withRep x).hart s.cur).csrv 0x108 = s.me.csrv 0x108 := by
    rw [State.hart_withMe, if_pos rfl]
    rfl
  by_cases valid : (s.me.csrv 0x108).getLsbD 0 = true
  · refine ⟨s, fun t => t.setCsr 0x108 (t.csrv 0x108 ||| 2), if_pos valid, fun x => ?_, rfl, fun _ => rfl, fun _ _ => rfl⟩
    rw [State.logSite, if_pos (by rw [same]; exact valid)]
    rfl
  · refine ⟨s.tickTime, fun t => (t.setCsr 0x108 (errorWord (s.tickTime.synced (slotDie s.cur)) unit site)).setCsr 0x109
      (s.tickTime.die (slotDie s.cur)).ptime, if_neg valid, fun x => ?_, rfl, fun _ => rfl, fun _ _ => rfl⟩
    rw [State.logSite, if_neg (by rw [same]; exact valid)]
    rfl

/-- A hart that has got another frame has the same error recorded, at the same pc. -/
theorem State.logError_withRep (s : State) (unit : Nat) (x : Option RepFrame) :
    OnlyMe (s.logError unit s.cur) ((s.withMe fun t => t.withRep x).logError unit s.cur) ∧
      ((s.withMe fun t => t.withRep x).logError unit s.cur).me = (s.logError unit s.cur).me.withRep x ∧
      (s.logError unit s.cur).me.pc = s.me.pc := by
  obtain ⟨u, k, plain, held, me, pc, comm⟩ := s.logSite_eq_withMe unit (Config.errorSite s.fresh)
  have plain : s.logError unit s.cur = { u.withMe k with fresh := s.fresh + 2 } := by rw [← plain]; rfl
  have held : (s.withMe fun t => t.withRep x).logError unit s.cur =
      { (u.withMe fun t => t.withRep x).withMe k with fresh := s.fresh + 2 } := by rw [← held x]; rfl
  rw [plain, held]
  refine ⟨⟨rfl, fun h n => ?_⟩, ?_, ?_⟩
  · have n : h ≠ u.cur := n
    show ((u.withMe fun t => t.withRep x).withMe k).hart h = (u.withMe k).hart h
    simp only [State.hart_withMe, State.cur_withMe, if_neg n]
  · show ((u.withMe fun t => t.withRep x).withMe k).me = (u.withMe k).me.withRep x
    simp only [State.me_withMe, comm]
  · show (u.withMe k).me.pc = s.me.pc
    rw [State.me_withMe, pc, me]

/-- A hart that has just got a frame takes a trap as without it. -/
theorem State.trapEntered_raise_withRep {x : Option RepFrame} (only : OnlyMe w u) (hme : u.me = w.me.withRep x) (c : Byte) (v : Word) :
    TrapEntered w (u.raise c v) c false w.me.pc v := by
  have trap := trapEntered_raise u c v
  rw [hme] at trap
  exact trap.of_rep only hme

/-- The turn of a REP at the sequencer buffer. -/
theorem State.frameTurn_captureFrame (s : State) (r : RepFrame) : FrameTurn (.next (s.captureFrame r)) s r := by
  unfold FrameTurn State.captureFrame
  cases s.fetchWords (r.pc + 4) r.n with
  | error e =>
    obtain ⟨u, ⟨c, v⟩ | ⟨a, v⟩ | va⟩ := e
    · exact ⟨_, rfl, State.trapEntered_raise_withRep (onlyMe_withMe _ _) (State.me_withMe u fun t => t.withRep (some r)) c v⟩
    · obtain ⟨only, me, pc⟩ := u.logError_withRep (errorUnit a) (some r)
      refine ⟨_, rfl, ?_⟩
      rw [← pc]
      exact State.trapEntered_raise_withRep only me causeEcc v
    · let held := u.withMe fun t => t.withRep (some r)
      refine ⟨held.withMe fun t => { t with stalled := some va }, rfl, (onlyMe_withMe _ _).trans (onlyMe_withMe _ _), ?_⟩
      rw [State.me_withMe, State.me_withMe]
      rfl
  | ok fetched =>
    obtain ⟨u, ws⟩ := fetched
    dsimp only
    split
    · exact ⟨_, rfl, onlyMe_withMe _ _, State.me_withMe _ _⟩
    · intro j hj
      have hj : u.me.firstReplay = j := hj.symm
      rw [hj]
      cases u.frameCheck ws r.s (decide (0 < j)) with
      | some fail => exact traps_raise u fail.1 (u.frameTval fail.1 (ws.getD fail.2 0) fail.2)
      | none =>
        refine ⟨_, rfl, onlyMe_withMe _ _, ?_, fun n hn => ?_, ?_⟩
        · rw [State.me_withMe]
          exact (Hart.csrv_setCsr u.me 0x008 0x008 0).trans (if_pos rfl)
        · rw [State.me_withMe]
          exact (Hart.csrv_setCsr u.me 0x008 n 0).trans (if_neg (List.ne_of_not_mem_cons hn))
        · rw [State.me_withMe]
          rfl

/-! ### REP and its turn at the sequencer buffer (03_encoding R90; 12_operand_delivery R278) -/

/-- Who has the sequencer buffer of a hart's core does not depend on that hart. -/
theorem State.bufferTaken_withMe (s : State) (g : Hart → Hart) : (s.withMe g).bufferTaken s.cur = s.bufferTaken s.cur := by
  unfold State.bufferTaken
  congr 1
  funext k
  by_cases hk : k = s.cur
  · simp [hk]
  · rw [State.hart_withMe_other s g hk]

/-- REP closes its convoy and waits for the buffer or takes its turn. -/
theorem exec_rep {f : RepOps} {s : State}
    (hr : r = ⟨false, [], f.n.toNat + 1, f.k.toNat + 1, f.s.toNat, 0, 0, s.me.pc, []⟩) :
    exec (.rep f) s = .next (if s.bufferTaken s.cur then (s.withMe Hart.closeConvoy).withMe fun t => t.withRep (some r)
      else (s.withMe Hart.closeConvoy).captureFrame r) := by
  have pc : (s.withMe Hart.closeConvoy).me.pc = s.me.pc := by rw [State.me_withMe]; rfl
  show execRep f s = _
  simp only [execRep, State.cur_withMe, State.bufferTaken_withMe, pc, hr]
  rfl

/-- A waiting REP of a running hart takes its turn at the freed buffer. -/
theorem exec_repBufferAcquire {h : Nat} {s : State} (hrun : (s.hart h).run = .running) (hr : (s.hart h).rep = some r)
    (free : s.bufferTaken h = false) (waits : r.captured = false) : exec (.repBufferAcquire h) s =
      .next (((s.setHart h { s.hart h with stalled := none }).asHart h).captureFrame r) := by
  show execRepBufferAcquire h s = _
  unfold execRepBufferAcquire
  split
  · next hx => cases hx.symm.trans hr
  · next x hx =>
    obtain rfl : x = r := Option.some.inj (hx.symm.trans hr)
    exact congrArg _ (if_pos (by simp [State.runs, hrun, free, waits]))

/-- Where no REP of a running hart waits for a buffer that is free, nothing takes it. -/
theorem exec_repBufferAcquire_idle {h : Nat} {s : State} (idle : (s.hart h).run ≠ .running ∨ (s.hart h).rep = none ∨
    s.bufferTaken h = true ∨ ∃ r, (s.hart h).rep = some r ∧ r.captured = true) : exec (.repBufferAcquire h) s = .next s := by
  show execRepBufferAcquire h s = _
  unfold execRepBufferAcquire
  cases hr : (s.hart h).rep with
  | none => rfl
  | some r =>
    refine congrArg _ (if_neg fun acquires => ?_)
    simp only [State.runs, Bool.and_eq_true, Bool.not_eq_true', decide_eq_true_eq] at acquires
    obtain ⟨⟨running, waits⟩, free⟩ := acquires
    rcases idle with n | n | n | ⟨x, hx, n⟩
    · exact n running
    · cases hr.symm.trans n
    · cases free.symm.trans n
    · obtain rfl : x = r := Option.some.inj (hx.symm.trans hr)
      cases waits.symm.trans n

/-! ### Replays (03_encoding R89, R90; 05_vector R156) -/

theorem firstFail_singleton (o : Option Byte) : firstFail [o] = o.map fun c => (c, 0) := by
  cases o <;> rfl

/-- The check that the next word of a replay fails, and the place of the word that fails it. -/
def State.replayStop (u : State) (r : RepFrame) (qs : List Queued) (q : Queued) : Option (Byte × Nat) :=
  if r.pos = 0 ∧ r.replay = 0 ∨ r.pos ≠ 0 ∧ r.blocked = [] then none
  else if u.me.laneLost then some (0x19, if r.pos = 0 then 0 else r.pos)
  else if r.pos = 0 then firstFail (qs.map fun x => x.replayCheck u (x.capture u.me u.me.pc))
  else (q.replayCheck u (q.capture u.me u.me.pc)).map fun c => (c, r.pos)

/-- The first word of a replay is checked with all that follow it, but for replay 0; a later one if it has waited. -/
theorem State.replayStop_eq (u : State) (r : RepFrame) (qs : List Queued) (q : Queued) : u.replayStop r qs q =
    if r.pos = 0 then (if r.replay = 0 then none else if u.me.laneLost then some (causeLaneoff, 0)
      else firstFail (qs.map fun q => q.replayCheck u (q.capture u.me u.me.pc)))
    else if r.blocked.isEmpty then none else (if u.me.laneLost then some (causeLaneoff, 0)
      else firstFail ([q].map fun q => q.replayCheck u (q.capture u.me u.me.pc))).map fun x => (x.1, r.pos) := by
  unfold State.replayStop
  by_cases first : r.pos = 0
  · simp only [first, true_and, ne_eq, not_true_eq_false, false_and, or_false, if_true]
    rfl
  · simp only [first, false_and, ne_eq, not_false_eq_true, true_and, false_or, if_false, List.isEmpty_iff, List.map_cons,
      List.map_nil, firstFail_singleton]
    split_ifs
    · rfl
    · rfl
    · cases q.replayCheck u (q.capture u.me u.me.pc) <;> rfl

/-- The next word of a replay of a captured frame: what it reads is looked at first, then the checks that are due, then the room in
the queue. -/
theorem State.replayWord_eq {u : State} {ws : List IWord} {qs : List Queued} {q : Queued} {rs : List (BitVec 5)} {e : QEntry}
    (hw : ws = r.words.map (fun w => stepWord w (r.replay * r.s))) (hq : qs = ws.filterMap steppedWord)
    (word : qs[r.pos]? = some q) (reads : rs = if r.pos = 0 then qs.flatMap Queued.captures else q.captures)
    (he : e = q.fixes u (q.capture u.me (r.pc + BitVec.ofNat 64 (4 * (r.pos + 1))))) :
    u.replayWord r = if u.me.owes rs then u.withMe fun t => t.withRep (some { r with blocked := rs })
      else (u.replayStop r qs q).elim (if queueSize ≤ (u.me.entriesBefore e.first).length then u
          else (u.withMe fun t => admitted t q e).withMe fun t => t.nextWord r)
        fun x => u.failReplay r x.1 (u.frameTrap x.1 (ws.getD x.2 0) x.2) := by
  unfold State.replayWord
  simp only [← hw, ← hq, word, ← State.replayStop_eq, Option.map_some, Option.getD_some, ← reads, ← he]
  cases u.replayStop r qs q <;> rfl

/-- REPLAY_ENQUEUE of a captured frame, of a hart that runs or, amid a replay, is being stopped. -/
theorem exec_replayEnqueue {h : Nat} {s : State} (hr : (s.hart h).rep = some r) (captured : r.captured = true)
    (goes : (s.hart h).run = .running ∨ r.pos ≠ 0 ∧ ∃ units park, (s.hart h).run = .stopping units park ∨
      (s.hart h).run = .holding units) : exec (.replayEnqueue h) s = .next ((s.asHart h).replayWord r) := by
  show execReplayEnqueue h s = _
  have replays : (s.hart h).replays r = true := by
    unfold Hart.replays
    rcases goes with run | ⟨mid, units, park, run | run⟩ <;> simp [*]
  simp only [execReplayEnqueue, hr, replays]
  rfl

/-- A hart with a word of a replay enqueued, and its frame at what comes next. -/
theorem Hart.nextWord_admitted (t : Hart) (q : Queued) (e : QEntry) (r : RepFrame) : (admitted t q e).nextWord r =
    { t with
      queue := t.entriesBefore e.first ++ [e]
      convoyOpen := true
      cc := ((admitted t q e).nextWord r).cc
      rep := if r.pos + 1 < r.n then some { r with pos := r.pos + 1, blocked := [] }
        else if r.replay + 1 < r.k then some { r with replay := r.replay + 1, pos := 0, blocked := [] } else none
      pc := if r.pos + 1 < r.n ∨ r.replay + 1 < r.k then t.pc else r.pc + BitVec.ofNat 64 (4 * (r.n + 1)) } := by
  unfold Hart.nextWord
  by_cases mid : r.pos + 1 < r.n
  · rw [if_pos mid, if_pos mid, if_pos (.inl mid), admitted_eq]; rfl
  · by_cases more : r.replay + 1 < r.k
    · rw [if_neg mid, if_neg mid, if_pos more, if_pos more, if_pos (.inr more), admitted_eq]; rfl
    · rw [if_neg mid, if_neg mid, if_neg more, if_neg more, if_neg (by simp [mid, more]), admitted_eq]; rfl

theorem Hart.ctr_nextWord (t : Hart) (r : RepFrame) (n : Nat) : (t.nextWord r).ctr n = t.ctr n := by
  unfold Hart.nextWord
  split_ifs <;> rfl

end Sys2Proof.Machine

open Sys2Proof Sys2Proof.Machine

/-- Settles O41: REP, the step at its freed buffer and the replay of its words each do what their cases say. -/
theorem repeatFramesReplayTheirWords : Obligations.RepeatFramesReplayTheirWords := by
  unfold Obligations.RepeatFramesReplayTheirWords
  refine ⟨fun f s r hr => ?rep, fun h s => ⟨exec_repBufferAcquire_idle, fun r run hr free waits => ?buffer⟩, ?replay⟩
  case rep =>
    rw [exec_rep hr]
    split
    · exact ⟨_, rfl, (onlyMe_withMe _ _).trans (onlyMe_withMe _ _), by rw [State.me_withMe, State.me_withMe]; rfl⟩
    · exact State.frameTurn_captureFrame _ r
  case buffer =>
    rw [exec_repBufferAcquire run hr free waits]
    exact ⟨⟨_, rfl⟩, State.frameTurn_captureFrame _ r⟩
  case replay =>
    intro h s u r ws qs q bad hr captured goes hu hw hq word hbad
    obtain rfl : bad = u.replayStop r qs q := hbad
    generalize reads : (if r.pos = 0 then qs.flatMap Queued.captures else q.captures) = rs
    rw [exec_replayEnqueue hr captured goes, ← hu, State.replayWord_eq hw hq word reads.symm rfl]
    by_cases owed : u.me.owes rs = true
    · rw [if_pos owed, if_pos owed]
      rfl
    · rw [if_neg owed, if_neg owed]
      cases u.replayStop r qs q with
      | some fail => exact traps_raise _ fail.1 (u.frameTrap fail.1 (ws.getD fail.2 0) fail.2)
      | none =>
        rintro e rfl
        dsimp only [Option.elim]
        split
        · rfl
        · refine ⟨_, rfl, (onlyMe_withMe _ _).trans (onlyMe_withMe _ _), fun n => ?_, ?_⟩
          · rw [State.me_withMe, State.me_withMe, Hart.ctr_nextWord, ctr_admitted]
            simp only [and_comm]
          · rw [State.me_withMe, State.me_withMe]
            exact Hart.nextWord_admitted _ _ _ _
end

section
/-!
SUPPORT. Proof of the statement on the step (Machine/Agents): a turn at which a hart fetches, what follows a step that leaves nothing
due, whose turn it is, and the word fetched from memory.
-/

namespace Sys2Proof.Machine

/-! ### The turn of a hart that fetches -/

section
variable {s s' u f v : State} {h : Nat} {w : IWord}

/-- A hart's turn is its move, with what follows every step. -/
theorem step_of_turn (ht : s.turn = some (s', .hart h)) :
    step s = (State.hartMove exec ((s'.asHart h).settleAsks h)).after State.afterStep := by
  rw [step, ht]
  rfl

/-- A hart whose task is a fetch fetches and runs the word. -/
theorem State.hartMove_fetch {run : Instr → State → Out} (hu : u.hartTask = .fetch) :
    State.hartMove run u = (State.beforeFetch { u with fresh := u.fresh + 1 }).fetchRun run := by
  rw [State.hartMove, hu]

theorem State.fetchRun_heldUp {run : Instr → State → Out} (held : f.me.heldUp = true) : f.fetchRun run = .next f := by
  rw [State.fetchRun, if_pos held]

theorem State.fetchRun_fetched {run : Instr → State → Out} (free : f.me.heldUp = false) (hf : f.fetched = .ok (v, w)) :
    f.fetchRun run = if v.me.owes (wordRegs w) then .next f else (v.issues w).runWord run w := by
  rw [State.fetchRun, if_neg (by simp [free]), hf]

theorem State.runWord_decoded {run : Instr → State → Out} {i : Instr} (hd : decode w = .ok i) (hi : wellFormed i = true) :
    s.runWord run w = run i s := by
  rw [State.runWord, hd]
  exact if_pos hi

theorem State.runWord_illegal {run : Instr → State → Out} (hd : ∀ i, decode w = .ok i → wellFormed i = false) :
    s.runWord run w = .next (s.raise causeIllegal (tvalWord w)) := by
  rw [State.runWord]
  split
  · rfl
  · next i hi => rw [if_neg (by simp [hd i hi])]

/-- A hart is at the same address when its word has issued. -/
theorem State.pc_issues (s : State) (w : IWord) : (s.issues w).me.pc = s.me.pc := by
  simp only [State.issues, State.me, State.hart, State.withMe, State.setHart, Sparse.get_set_same, State.setDie_cur]
  rfl

/-- A word that does not decode traps at its address with the word. -/
theorem trapEntered_issues_raise (s : State) (w : IWord) :
    TrapEntered (s.issues w) ((s.issues w).raise causeIllegal (tvalWord w)) 0x01 false s.me.pc (w.setWidth 64) := by
  have entered := trapEntered_raise (s.issues w) causeIllegal (tvalWord w)
  rwa [State.pc_issues] at entered

end

/-! ### What follows a step that leaves nothing due -/

theorem Sparse.le_and_get_of_mem {α : Type} {d : α} {l : List (Nat × α)} {e : Nat × α} :
    ∀ {b : Nat}, Sparse.above b l = true → e ∈ l → b ≤ e.1 ∧ Sparse.get d l e.1 = e.2 := by
  induction l with
  | nil => intro b _ h; cases h
  | cons x t ih =>
    obtain ⟨k, w⟩ := x
    intro b h mem
    simp only [Sparse.above, Bool.and_eq_true, decide_eq_true_eq] at h
    obtain ⟨bk, above⟩ := h
    obtain rfl | mem := List.mem_cons.mp mem
    · exact ⟨bk, by simp [Sparse.get_cons]⟩
    · obtain ⟨ke, get⟩ := ih above mem
      exact ⟨by omega, by rw [Sparse.get_cons, if_neg (by omega), get]⟩

/-- An entry that a write at a key takes from a list is the one that the key read as. -/
theorem Sparse.mem_insert_of_mem {α : Type} (d : α) {l : List (Nat × α)} {e : Nat × α} (n : Nat) (v : α) (h : e ∈ l) :
    e ∈ Sparse.insert l n v ∨ e = (n, Sparse.get d l n) ∧ (n, v) ∈ Sparse.insert l n v := by
  induction l with
  | nil => cases h
  | cons x t ih =>
    obtain ⟨k, w⟩ := x
    simp only [Sparse.insert, Sparse.get_cons]
    split
    · exact .inl (List.mem_cons_of_mem _ h)
    · split
      · next same =>
        subst same
        obtain rfl | h := List.mem_cons.mp h
        · exact .inr ⟨rfl, List.mem_cons_self⟩
        · exact .inl (List.mem_cons_of_mem _ h)
      · next later =>
        obtain rfl | h := List.mem_cons.mp h
        · exact .inl List.mem_cons_self
        · exact (ih h).imp (List.mem_cons_of_mem _) fun ⟨eq, mem⟩ => ⟨eq, List.mem_cons_of_mem _ mem⟩

/-- Homes have evaluated conditions: of the harts only what a WAITW has seen may have changed. -/
structure State.Noticed (s t : State) : Prop where
  frame : t = { s with harts := t.harts }
  hart : ∀ h, t.hart h = { s.hart h with wait := (t.hart h).wait }
  wait : ∀ h, (t.hart h).wait.map (fun x => { x with seen := none }) = (s.hart h).wait.map fun x => { x with seen := none }
  slots : ∀ r, s.slotHarts r ≠ [] → t.slotHarts r ≠ []

theorem State.Noticed.refl (s : State) : s.Noticed s := ⟨rfl, fun _ => rfl, fun _ => rfl, fun _ => id⟩

theorem State.Noticed.trans {s t u : State} (a : s.Noticed t) (b : t.Noticed u) : s.Noticed u where
  frame := by rw [b.frame, a.frame]
  hart h := by rw [b.hart h, a.hart h]
  wait h := (b.wait h).trans (a.wait h)
  slots r := b.slots r ∘ a.slots r

theorem State.slotHarts_ne_nil {s : State} {r : Nat} :
    s.slotHarts r ≠ [] ↔ ∃ e ∈ s.harts, e.2.run ≠ .free ∧ e.2.region = some r := by
  simp [State.slotHarts]

theorem State.wait_of_watchedNow {s : State} {h : Nat} {w : Word} (seen : s.watchedNow h = some w) :
    (s.hart h).wait ≠ none := by
  intro none
  simp [State.watchedNow, none] at seen

theorem State.noticed_notice (s : State) (h : Nat) : s.Noticed (s.notice h) := by
  rw [State.notice]
  split
  · exact .refl s
  · next w seen =>
    obtain ⟨x, hx⟩ := Option.ne_none_iff_exists'.mp (State.wait_of_watchedNow seen)
    refine ⟨rfl, fun k => ?_, fun k => ?_, fun r => ?_⟩
    · rw [State.hart_setHart]
      split
      · next same => rw [same]
      · rfl
    · rw [State.hart_setHart]
      split
      · next same => simp [same, hx]
      · rfl
    · have inUse : { s.hart h with wait := (s.hart h).wait.map fun x => { x with seen := some w } } ≠ Hart.free :=
        fun free => by simpa [hx, Hart.free] using congrArg Hart.wait free
      simp only [State.slotHarts_ne_nil, State.setHart, Sparse.set, if_neg inUse]
      rintro ⟨e, mem, run, region⟩
      obtain mem | ⟨rfl, mem⟩ := Sparse.mem_insert_of_mem Hart.free h _ mem
      · exact ⟨e, mem, run, region⟩
      · exact ⟨_, mem, run, region⟩

theorem State.noticed_noticeAll (s : State) : s.Noticed s.noticeAll := by
  rw [State.noticeAll]
  generalize (s.harts.filter fun e => e.2.wait.isSome).map (·.1) = l
  induction l generalizing s with
  | nil => exact .refl s
  | cons h l ih => exact (s.noticed_notice h).trans (ih (s.notice h))

/-- A region of which a step leaves nothing due: no completion word, no end and no queued grant. -/
def State.Settled (s : State) (r : Nat) (g : Region) : Prop :=
  g.done = true ∨ g.opening = true ∨ (g.owed = 0 ∧ s.liveCount r ≠ 0 ∧ ∀ x ∈ g.stages, x.queued = 0)

theorem State.Settled.noticed {s t : State} {r : Nat} {g : Region} (h : s.Settled r g) (n : s.Noticed t) : t.Settled r g := by
  refine h.imp_right (Or.imp_right fun ⟨owed, live, grants⟩ => ⟨owed, ?_, grants⟩)
  have same : t.waiting r = s.waiting r := by rw [n.frame]; rfl
  simp only [State.liveCount, ne_eq, Nat.add_eq_zero_iff, List.length_eq_zero_iff, same] at live ⊢
  exact fun ⟨slots, waits⟩ => live ⟨by_contra fun some => n.slots r some slots, waits⟩

section
variable {s : State} (settled : ∀ g ∈ s.regions, s.Settled g.1 g.2)
include settled

theorem State.duePays_of_settled : s.duePays = [] := by
  rw [State.duePays, List.map_eq_nil_iff, List.filter_eq_nil_iff]
  intro g hg
  obtain done | opening | ⟨owed, live, -⟩ := settled g hg
  · simp [done]
  · simp [opening]
  · simp [owed, live]

theorem State.granting_of_settled (wf : Sparse.wf Region.empty s.regions = true) {r : Nat} (hr : r ∈ s.liveRegions) :
    s.granting r = false := by
  obtain ⟨g, mem, rfl⟩ := List.mem_map.mp hr
  obtain ⟨mem, -⟩ := List.mem_filter.mp mem
  have region : s.region g.1 = g.2 := (Sparse.le_and_get_of_mem (Bool.and_eq_true_iff.mp wf).1 mem).2
  rw [State.granting, region]
  obtain done | opening | ⟨-, -, grants⟩ := settled g mem
  · simp [done]
  · simp [opening]
  · have none : s.queuedStages g.1 = [] := by
      rw [State.queuedStages, List.filter_eq_nil_iff, region]
      intro i hi
      have := grants (g.2.stages[i]'(List.mem_range.mp hi)) (List.getElem_mem _)
      simp [Region.stage, this, List.getD_eq_getElem?_getD, List.getElem?_eq_getElem (List.mem_range.mp hi)]
    simp [none]

theorem State.grantWaiting_of_settled (wf : Sparse.wf Region.empty s.regions = true) : s.grantWaiting = s := by
  have none : s.liveRegions.filter s.granting = [] :=
    List.filter_eq_nil_iff.mpr fun r hr => by simp [State.granting_of_settled settled wf hr]
  rw [State.grantWaiting, none]
  split <;> rfl

/-- After a step that leaves nothing due, homes evaluate the conditions of the words waited for, and stops are noted. -/
theorem State.afterStep_of_settled (held : s.held = []) (wf : Sparse.wf Region.empty s.regions = true) :
    s.afterStep = s.noticeAll.noteStops := by
  have n := s.noticed_noticeAll
  have regions : s.noticeAll.regions = s.regions := by rw [n.frame]
  have noticed : ∀ g ∈ s.noticeAll.regions, s.noticeAll.Settled g.1 g.2 := fun g hg => (settled g (regions ▸ hg)).noticed n
  have after : ∀ g ∈ s.noticeAll.noteStops.regions, s.noticeAll.noteStops.Settled g.1 g.2 := noticed
  have served : s.serveHeld = s := by rw [State.serveHeld, held]; rfl
  rw [State.afterStep, served]
  simp only [State.duePays_of_settled after, List.foldl_nil]
  exact State.grantWaiting_of_settled after (regions.symm ▸ wf)

end

/-! ### Whose turn it is -/

/-- The head of a list after insertions in an order: it was there or is inserted, and none of those comes before it. -/
theorem head_foldl_insertBy {α : Type} {before : α → α → Bool} (total : ∀ a b, before a b = false → before b a = true)
    (trans : ∀ a b c, before a b = true → before b c = true → before a c = true) (l : List α) :
    ∀ (m : α) (rest : List α), ∃ n tail, l.foldl (fun l k => insertBy before k l) (m :: rest) = n :: tail ∧
      (n = m ∨ n ∈ l) ∧ before n m = true ∧ ∀ j ∈ l, before n j = true := by
  have refl (a) : before a a = true := by
    cases h : before a a
    · exact (h.symm.trans (total a a h))
    · rfl
  induction l with
  | nil => exact fun m rest => ⟨m, rest, rfl, .inl rfl, refl m, by simp⟩
  | cons k l ih =>
    intro m rest
    rw [List.foldl_cons, insertBy]
    split
    · next first =>
      obtain ⟨n, tail, eq, mem, nk, all⟩ := ih k (m :: rest)
      refine ⟨n, tail, eq, .inr (List.mem_cons.mpr mem), trans n k m nk first, ?_⟩
      simpa [nk] using all
    · next later =>
      obtain ⟨n, tail, eq, mem, nm, all⟩ := ih m (insertBy before k rest)
      refine ⟨n, tail, eq, mem.imp_right (List.mem_cons_of_mem k), nm, ?_⟩
      simpa [trans n m k nm (total k m (by simpa using later))] using all

/-- Two harts of a core are always in an order of issue. -/
theorem State.issuesBefore_total (s : State) (a b : Nat) (h : s.issuesBefore a b = false) : s.issuesBefore b a = true := by
  revert h
  simp only [State.issuesBefore, Bool.or_eq_true, Bool.or_eq_false_iff, Bool.and_eq_true, Bool.and_eq_false_iff, decide_eq_true_eq,
    decide_eq_false_iff_not]
  omega
theorem State.issuesBefore_trans (s : State) (a b c : Nat) (h : s.issuesBefore a b = true) (h' : s.issuesBefore b c = true) :
    s.issuesBefore a c = true := by
  revert h h'
  simp only [State.issuesBefore, Bool.or_eq_true, Bool.and_eq_true, decide_eq_true_eq]
  omega

theorem State.issuer_of_none {s : State} {h : Nat} (none : ∀ j ∈ coreSlots (coreOf h), s.runnable j = false) : s.issuer h = h := by
  have empty : (coreSlots (coreOf h)).filter s.runnable = [] := by simpa using none
  simp only [State.issuer, empty]
  rfl

/-- Where a hart of the core can issue, the issuer is such a hart and no other comes before it. -/
theorem State.issuer_spec {s : State} {h j : Nat} (hj : j ∈ coreSlots (coreOf h)) (run : s.runnable j = true) :
    s.issuer h ∈ coreSlots (coreOf h) ∧ s.runnable (s.issuer h) = true ∧ s.issuesBefore (s.issuer h) j = true := by
  have mem : j ∈ (coreSlots (coreOf h)).filter s.runnable := List.mem_filter.mpr ⟨hj, run⟩
  rw [State.issuer]
  generalize hl : (coreSlots (coreOf h)).filter s.runnable = l at mem
  cases l with
  | nil => cases mem
  | cons m l =>
    obtain ⟨n, tail, eq, isIn, first, all⟩ := head_foldl_insertBy s.issuesBefore_total s.issuesBefore_trans l m []
    have : ((m :: l).foldl (fun l k => insertBy s.issuesBefore k l) []).head?.getD h = n := by
      rw [List.foldl_cons, insertBy, eq]
      rfl
    rw [this]
    obtain ⟨slot, runs⟩ := List.mem_filter.mp (hl ▸ List.mem_cons.mpr isIn)
    refine ⟨slot, runs, ?_⟩
    obtain rfl | mem := List.mem_cons.mp mem
    · exact first
    · exact all j mem

theorem State.turn_next {s : State} {a : Agent} (h : s.next = some a) : s.turn = some ({ s with next := none }, a) := by
  rw [State.turn, h]

/-- The turn of the only agent, a hart. -/
theorem State.turn_hart {s : State} {h : Nat} (none : s.next = none) (only : s.agents = [.hart h]) :
    s.turn = some ({ s with fresh := s.fresh + 1 }, .hart
      (if ({ s with fresh := s.fresh + 1 }.asHart h).hartTask = .fetch ∧ (s.hart h).stalled = Option.none
        then State.issuer { s with fresh := s.fresh + 1 } h else h)) := by
  simp only [State.turn, none, only, List.length_singleton, Nat.mod_one, List.getElem?_cons_zero, Option.map_some,
    Option.isNone_iff_eq_none]
  rfl

/-! ### Two writes of one key -/

section
variable {α : Type} (l : List (Nat × α)) (n : Nat) (v w : α)

theorem Sparse.erase_erase : Sparse.erase (Sparse.erase l n) n = Sparse.erase l n := by
  induction l with
  | nil => rfl
  | cons e t ih =>
    obtain ⟨k, x⟩ := e
    simp only [Sparse.erase]
    split
    · exact ih
    · next other => rw [Sparse.erase, if_neg other, ih]

theorem Sparse.erase_insert : Sparse.erase (Sparse.insert l n v) n = Sparse.erase l n := by
  induction l with
  | nil => simp [Sparse.erase, Sparse.insert]
  | cons e t ih =>
    obtain ⟨k, x⟩ := e
    simp only [Sparse.insert]
    split
    · simp [Sparse.erase]
    · split
      · simp [Sparse.erase, *]
      · simp [Sparse.erase, *]

theorem Sparse.insert_insert : Sparse.insert (Sparse.insert l n v) n w = Sparse.insert l n w := by
  induction l with
  | nil => simp [Sparse.insert]
  | cons e t ih =>
    obtain ⟨k, x⟩ := e
    simp only [Sparse.insert]
    split
    · simp [Sparse.insert]
    · split
      · simp [Sparse.insert]
      · next below other => rw [Sparse.insert, if_neg below, if_neg other, ih]

/-- The second of two writes of one key counts, unless it brings back an entry that the first has removed. -/
theorem Sparse.set_set [DecidableEq α] {d : α} (h : v = d → w = d) :
    Sparse.set d (Sparse.set d l n v) n w = Sparse.set d l n w := by
  by_cases hw : w = d
  · by_cases hv : v = d <;> simp [Sparse.set, hv, hw, Sparse.erase_erase, Sparse.erase_insert]
  · simp [Sparse.set, hw, mt h hw, Sparse.insert_insert]

end

/-- Two changes of the executing hart in a row are one, where the second leaves an empty slot empty. -/
theorem State.withMe_withMe (s : State) (g k : Hart → Hart) (h : g s.me = Hart.free → k Hart.free = Hart.free) :
    (s.withMe g).withMe k = s.withMe fun t => k (g t) := by
  rw [State.withMe, State.me_withMe]
  simp only [State.withMe, State.setHart]
  rw [Sparse.set_set]
  intro free
  rw [free, h free]

/-! ### Fetching from memory -/

section
variable {s : State} {as : List Nat} {far : Nat → Option Byte} {win : Nat}

theorem State.eccByte_of_clean {va : Word} {locs : List Loc} (clean : ∀ l ∈ locs, s.poisoned l.ga = false) :
    s.eccByte va locs = none := by
  rw [State.eccByte, Option.map_eq_none_iff, List.findIdx?_eq_none_iff]
  exact clean

theorem State.failedHome_of_near {a : Nat} (near : s.farDev a = none) : s.failedHome a = none := by
  revert near
  simp only [State.farDev, State.failedHome]
  split
  · simp
  · next home =>
    rw [if_neg (by simpa using fun h n => absurd (by simp [h, n]) home)]
    simp

theorem State.farRuns_of_near {gas : List Nat} (near : ∀ a ∈ gas, s.farDev a = none) : s.farRuns gas = [] := by
  induction gas with
  | nil => rfl
  | cons a gas ih =>
    rw [State.farRuns, List.foldr_cons, ← State.farRuns, ih fun a h => near a (List.mem_cons_of_mem _ h),
      near a List.mem_cons_self]
    rfl

/-- Nothing is asked of other devices for addresses at home. -/
theorem State.gather_of_near {h own : Nat} {gas : List Nat} (near : ∀ a ∈ gas, s.farDev a = none) :
    s.gather h own gas = (s, true) := by
  rw [State.gather, State.farRuns_of_near near]
  rfl

/-- Bytes outside windows. -/
def homeBytes (as : List Nat) : List Loc := as.map fun a => ⟨a, false⟩

theorem State.needed_homeBytes : s.needed win (homeBytes as) = as := by
  simp [State.needed, homeBytes, List.filter_map, Function.comp_def, List.flatMap_map]

theorem State.keepWindowsWith_homeBytes : s.keepWindowsWith far win (homeBytes as) = s := by
  simp [State.keepWindowsWith, homeBytes]

theorem State.loadAtWith_homeBytes (near : ∀ a ∈ as, s.farDev a = none) :
    s.loadAtWith far win (homeBytes as) = s.readAt as := by
  induction as with
  | nil => rfl
  | cons a as ih =>
    rw [homeBytes, List.map_cons, ← homeBytes, State.loadAtWith, State.readAt, ih fun a h => near a (List.mem_cons_of_mem _ h)]
    simp [State.loadByteWith, near a List.mem_cons_self]

theorem askFailed_nil (l : List Ask) : askFailed l [] = none := by
  simp [askFailed]

theorem State.farOf_homeBytes (near : ∀ a ∈ as, s.farDev a = none) : s.farOf (locGas (homeBytes as)) = [] := by
  simpa [State.farOf, locGas, homeBytes] using near

/-- Checked ranges are not empty but for those of no bytes. -/
theorem State.checkRange_ne_nil {p : Party} {need : Need} {vec : Bool} {va : Word} {n : Nat} :
    s.checkRange p need vec va (n + 1) ≠ .ok [] := by
  rw [State.checkRange]
  split
  · simp
  · cases s.checkFrom .. <;> simp [Except.map]

theorem State.readAt_withMe (g : Hart → Hart) : (s.withMe g).readAt as = s.readAt as := by
  induction as with
  | nil => rfl
  | cons a as ih => rw [State.readAt, ih, State.readAt]; rfl

/-- A word in memory at home is fetched at once. -/
theorem State.fetchWord_plain {va : Word} (plain : Plain s .fetch va 4 as) (first : s.me.fetching = none) :
    s.fetchWord va = .ok (s.withMe fun t => t.dropAsks 2, BitVec.ofNat 32 (s.readAt as)) := by
  obtain ⟨-, range, mem⟩ := plain
  have near : ∀ a ∈ as, s.farDev a = none := fun a h => (mem a h).2.2
  have noReg : (homeBytes as).any Loc.isReg = false := by
    simpa [homeBytes, Loc.isReg] using fun a h hn => (mem a h).1.resolve_left (by simp [hn])
  have clean : s.eccByte va (homeBytes as) = none := State.eccByte_of_clean fun l hl => by
    obtain ⟨a, h, rfl⟩ := List.mem_map.mp hl
    exact (mem a h).2.1
  have up : s.failedHome ((homeBytes as).headD ⟨0, false⟩).ga = none := by
    cases as with
    | nil => exact (State.checkRange_ne_nil range).elim
    | cons a as => exact State.failedHome_of_near (near a List.mem_cons_self)
  have range : s.checkRange (s.party s.cur) .fetch false va 4 = .ok (homeBytes as) := range
  have near' : ∀ a ∈ as, (s.withMe fun t => t.dropAsks 2).farDev a = none := near
  simp only [State.fetchWord, State.fetchRange, first, range, noReg, clean, up, State.needed_homeBytes, State.gather_of_near near,
    State.farOf_homeBytes near', askFailed_nil, State.keepWindowsWith_homeBytes, State.loadAtWith_homeBytes near',
    State.readAt_withMe, Option.isSome_none, Bool.false_eq_true, false_and, if_false, Bool.not_true]

/-- What a hart drops on a fetch at once are its requests for fetches. -/
theorem State.fetched_plain (plain : Plain s .fetch s.me.pc 4 as) (first : s.me.fetching = none) :
    s.fetched = .ok (s.withMe fun t => { t with entering := false, asks := t.asks.filter fun a => a.own ≠ 2 },
      BitVec.ofNat 32 (s.readAt as)) := by
  simp only [State.fetched, State.fetchWord_plain plain first]
  rw [State.withMe_withMe _ _ _ fun _ => rfl]
  congr 2
  rw [State.withMe, State.withMe]
  simp [Hart.dropAsks, first]

end

end Sys2Proof.Machine
open Sys2Proof Sys2Proof.Machine

/-- Settles O59: a fetching hart's turn branch by branch, the condition that homes evaluate as the one thing that follows a step,
the head of an insertion in the order of issue, and a fetch whose bytes all lie at home. -/
theorem stepRunsTheDecodedInstruction : Obligations.StepRunsTheDecodedInstruction := by
  unfold Obligations.StepRunsTheDecodedInstruction
  refine ⟨?turn, ?after, ?whose, fun s as plain first => State.fetched_plain plain first⟩
  case turn =>
    intro s s' u f v h w turn hu task hf
    have stepped : step s = (f.fetchRun exec).after State.afterStep := by
      rw [step_of_turn turn, ← hu, State.hartMove_fetch task, ← hf]
    refine ⟨fun held => ?_, fun free fetched => ?_⟩
    · rw [stepped, State.fetchRun_heldUp held]
      rfl
    · rw [stepped, State.fetchRun_fetched free fetched]
      refine ⟨fun owed => ?_, fun i paid hi wf => ?_, fun paid bad => ?_⟩
      · rw [if_pos owed]
        rfl
      · rw [if_neg (by simp [paid]), State.runWord_decoded hi wf]
      · rw [if_neg (by simp [paid]), State.runWord_illegal bad]
        exact ⟨_, rfl, trapEntered_issues_raise v w⟩
  case after =>
    intro t held settled wf
    have n := t.noticed_noticeAll
    rw [State.afterStep_of_settled settled held wf]
    exact ⟨congrArg (fun u => { u with stops := t.noticeAll.noteStops.stops }) n.frame,
      fun h => ⟨n.hart h, n.wait h⟩⟩
  case whose =>
    rintro s u h rfl
    exact ⟨fun a => State.turn_next, State.turn_hart, State.issuer_of_none, fun j => State.issuer_spec⟩
end

section
/-!
SUPPORT. Proofs of the statements on scalar registers, branches and jumps (Machine/Scalar; 04_scalar R99-R104).
-/

namespace Sys2Proof.Machine

/-! ### The words that OP gives (R100, R101) -/

section
variable (a b : Word)

theorem shiftRightArith_eq_ofInt (n : Nat) : a.sshiftRight n = BitVec.ofInt 64 (a.toInt / 2 ^ n) := by
  rw [← BitVec.ofInt_toInt (x := a.sshiftRight n), BitVec.toInt_sshiftRight, Int.shiftRight_eq_div_pow]
  norm_cast
theorem boolWord_slt : boolWord (a.slt b) = if a.toInt < b.toInt then 1 else 0 := by
  simp [boolWord, BitVec.slt]
theorem boolWord_ult : boolWord (a.ult b) = if a.toNat < b.toNat then 1 else 0 := by
  simp [boolWord, BitVec.ult]
theorem mulHigh_toNat : mulHigh a.toNat b.toNat = BitVec.ofNat 64 (a.toNat * b.toNat / 2 ^ 64) := by
  rw [mulHigh, ← BitVec.ofInt_natCast]
  norm_cast
theorem divSigned_eq : divSigned a b = if b = 0 then BitVec.allOnes 64 else BitVec.ofInt 64 (a.toInt.tdiv b.toInt) := by
  have quotient : a.sdiv b = BitVec.ofInt 64 (a.toInt.tdiv b.toInt) :=
    BitVec.eq_of_toInt_eq (by rw [BitVec.toInt_sdiv, BitVec.toInt_ofInt])
  rw [divSigned, quotient]
theorem divUnsigned_eq : divUnsigned a b = if b = 0 then BitVec.allOnes 64 else BitVec.ofNat 64 (a.toNat / b.toNat) := by
  rw [divUnsigned, ← BitVec.toNat_udiv, BitVec.ofNat_toNat, BitVec.setWidth_eq]
theorem remSigned_eq : remSigned a b = if b = 0 then a else BitVec.ofInt 64 (a.toInt.tmod b.toInt) := by
  rw [remSigned, ← BitVec.toInt_srem, BitVec.ofInt_toInt]
theorem remUnsigned_eq : remUnsigned a b = if b = 0 then a else BitVec.ofNat 64 (a.toNat % b.toNat) := by
  rw [remUnsigned, ← BitVec.toNat_umod, BitVec.ofNat_toNat, BitVec.setWidth_eq]
theorem ite_slt_eq_min : (if a.slt b then a else b) = BitVec.ofInt 64 (min a.toInt b.toInt) := by
  cases less : a.slt b <;> simp only [BitVec.slt, decide_eq_true_eq, decide_eq_false_iff_not, not_lt] at less
  · rw [if_neg (by decide), min_eq_right less, BitVec.ofInt_toInt]
  · rw [if_pos rfl, min_eq_left less.le, BitVec.ofInt_toInt]
theorem ite_slt_eq_max : (if a.slt b then b else a) = BitVec.ofInt 64 (max a.toInt b.toInt) := by
  cases less : a.slt b <;> simp only [BitVec.slt, decide_eq_true_eq, decide_eq_false_iff_not, not_lt] at less
  · rw [if_neg (by decide), max_eq_left less, BitVec.ofInt_toInt]
  · rw [if_pos rfl, max_eq_right less.le, BitVec.ofInt_toInt]
theorem ite_ult_eq_min : (if a.ult b then a else b) = BitVec.ofNat 64 (min a.toNat b.toNat) := by
  cases less : a.ult b <;> simp only [BitVec.ult, decide_eq_true_eq, decide_eq_false_iff_not, not_lt] at less
  · rw [if_neg (by decide), min_eq_right less, BitVec.ofNat_toNat, BitVec.setWidth_eq]
  · rw [if_pos rfl, min_eq_left less.le, BitVec.ofNat_toNat, BitVec.setWidth_eq]
theorem ite_ult_eq_max : (if a.ult b then b else a) = BitVec.ofNat 64 (max a.toNat b.toNat) := by
  cases less : a.ult b <;> simp only [BitVec.ult, decide_eq_true_eq, decide_eq_false_iff_not, not_lt] at less
  · rw [if_neg (by decide), max_eq_left less, BitVec.ofNat_toNat, BitVec.setWidth_eq]
  · rw [if_pos rfl, max_eq_right less.le, BitVec.ofNat_toNat, BitVec.setWidth_eq]
theorem rotateLeft_shiftAmount :
    a.rotateLeft (shiftAmount b) = (a <<< (b.toNat % 64)) ||| (a >>> (64 - b.toNat % 64)) := by
  rw [BitVec.rotateLeft_def, shiftAmount, Nat.mod_mod]
theorem rotateRight_shiftAmount :
    a.rotateRight (shiftAmount b) = (a >>> (b.toNat % 64)) ||| (a <<< (64 - b.toNat % 64)) := by
  rw [BitVec.rotateRight_def, shiftAmount, Nat.mod_mod]
theorem sext32_add : sext32 (a + b) = (BitVec.ofNat 32 (a.toNat + b.toNat)).signExtend 64 := by
  rw [sext32]
  congr 1
  apply BitVec.eq_of_toNat_eq
  simp
theorem sext32_sub : sext32 (a - b) = (a.setWidth 32 - b.setWidth 32).signExtend 64 := by
  rw [sext32]
  congr 1
  apply BitVec.eq_of_toNat_eq
  simp only [BitVec.toNat_setWidth, BitVec.toNat_sub]
  omega

end

/-! ### Counting bits (R100) -/

theorem popCount_eq (w x : Nat) : popCount w x = ((List.range w).filter fun i => x.testBit i).length := by
  induction w generalizing x with
  | zero => rfl
  | succ w ih =>
    rw [popCount, ih, List.range_succ_eq_map, List.filter_cons, List.filter_map, Nat.testBit_zero]
    have rest : ((fun i => x.testBit i) ∘ Nat.succ) = fun i => (x / 2).testBit i := by
      funext i
      exact Nat.testBit_succ x i
    rw [rest]
    obtain bit | bit := Nat.mod_two_eq_zero_or_one x <;> simp [bit, Nat.add_comm]

/-- The zeros before the first one of the bits from i on. -/
theorem trailingFrom_eq (n x i : Nat) :
    trailingFrom n x i = i + (((List.range n).map (i + ·)).takeWhile fun j => !x.testBit j).length := by
  induction n generalizing i with
  | zero => rfl
  | succ n ih =>
    rw [trailingFrom, List.range_succ_eq_map, List.map_cons, List.takeWhile_cons, Nat.add_zero]
    by_cases bit : x.testBit i = true
    · simp [bit]
    · have shift : (List.range n).map ((i + ·) ∘ Nat.succ) = (List.range n).map (i + 1 + ·) :=
        List.map_congr_left fun j _ => by simp only [Function.comp_apply]; omega
      rw [if_neg bit, ih, List.map_map, shift]
      simp [bit]
      omega

theorem trailingZeros_eq (w x : Nat) : trailingZeros w x = ((List.range w).takeWhile fun i => !x.testBit i).length := by
  rw [trailingZeros, trailingFrom_eq]
  simp

/-- The zeros above the highest one among the low w bits. -/
theorem leadingZeros_eq (w x : Nat) :
    leadingZeros w x = ((List.range w).reverse.takeWhile fun i => !x.testBit i).length := by
  induction w with
  | zero => simp [leadingZeros, Nat.mod_one]
  | succ w ih =>
    rw [List.range_succ, List.reverse_append, List.reverse_singleton, List.singleton_append, List.takeWhile_cons]
    have split : x % 2 ^ (w + 1) = x % 2 ^ w + if x.testBit w then 2 ^ w else 0 := by
      rw [Nat.mod_pow_succ, Nat.testBit_eq_decide_div_mod_eq]
      obtain bit | bit := Nat.mod_two_eq_zero_or_one (x / 2 ^ w) <;> simp [bit]
    have low : x % 2 ^ w < 2 ^ w := Nat.mod_lt _ (Nat.two_pow_pos w)
    cases bit : x.testBit w with
    | true =>
      have top : (x % 2 ^ (w + 1)).log2 = w := by
        rw [split, bit, if_pos rfl]
        exact (Nat.log2_eq_iff (by omega)).mpr ⟨by omega, by rw [Nat.pow_succ]; omega⟩
      rw [leadingZeros, top]
      simp [split, bit]
    | false =>
      simp only [bit, Bool.false_eq_true, if_false, Nat.add_zero] at split
      simp only [Bool.not_false, if_true, List.length_cons, ← ih, leadingZeros, split]
      split
      · rfl
      · next some =>
        have := (Nat.log2_lt some).mpr low
        omega

/-! ### Immediates and offsets (R71, R102, R103) -/

theorem sext_shiftLeft {n : Nat} (b : BitVec n) (k : Nat) : sext b <<< k = BitVec.ofInt 64 (b.toInt * 2 ^ k) := by
  rw [BitVec.shiftLeft_eq_mul_twoPow, BitVec.ofInt_mul]
  congr 1
  apply BitVec.eq_of_toNat_eq
  rw [BitVec.toNat_twoPow, ← BitVec.toNat_ofNat, ← BitVec.ofInt_natCast]
  norm_cast
theorem sextWords_eq {n : Nat} (b : BitVec n) : sextWords b = BitVec.ofInt 64 (4 * b.toInt) := by
  rw [Int.mul_comm]
  exact sext_shiftLeft b 2

/-! ### Instructions that write rd alone -/

/-- The same of a result that the executing hart gives. -/
theorem writes_result_me (s : State) (d : BitVec 5) (g : Hart → Word) :
    Writes (.next (s.withMe fun t => t.result d (g t))) s d (g s.me) :=
  writes_result s d (g s.me)
theorem writes_op3 {g k : Word → Word → Word} (e : ∀ a b, g a b = k a b) (s : State) (f : Rrr) :
    Writes (.next (s.op3 f g)) s f.d (k (s.me.xr f.a) (s.me.xr f.b)) := by
  rw [← e]
  exact writes_result_me s f.d fun t => g (t.xr f.a) (t.xr f.b)
theorem writes_op2 {g k : Word → Word} (e : ∀ a, g a = k a) (s : State) (d a : BitVec 5) :
    Writes (.next (s.op2 d a g)) s d (k (s.me.xr a)) := by
  rw [← e]
  exact writes_result_me s d fun t => g (t.xr a)


/-! ### Branches and jumps (R103, R104) -/

/-- A branch changes the pc alone. -/
theorem branch_next {i : Instr} {s : State} {f : BrOff} {c k : Word → Word → Bool} (run : exec i s = .next (s.branch f c))
    (e : ∀ a b, c a b = k a b) : ∃ t, exec i s = .next t ∧ OnlyMe s t ∧ t.me = { s.me with
      pc := s.me.pc + (if k (s.me.xr f.a) (s.me.xr f.b) then BitVec.ofInt 64 (4 * f.off.toInt) else 4) } := by
  refine ⟨_, run, onlyMe_withMe _ _, (State.me_withMe _ _).trans ?_⟩
  rw [e, sextWords_eq]
  split <;> rfl
/-- A jump links in rd and goes to its target. -/
theorem jumps_next (s : State) (d : BitVec 5) (target : Word) :
    ∃ t, Host.Outcome.next (s.withMe fun t => { t.setX d (t.pc + 4) with pc := target }) = (.next t : Out) ∧ OnlyMe s t ∧
      OnlyRegs s.me t.me ∧ t.me.pc = target ∧ RegSet s.me t.me d (s.me.pc + 4) := by
  refine ⟨_, rfl, onlyMe_withMe _ _, ?_, ?_, ?_⟩ <;> rw [State.me_withMe]
  · rw [OnlyRegs, Hart.setX_eq]
  · exact fun r => Hart.xr_setX s.me d r _

end Sys2Proof.Machine

open Sys2Proof Sys2Proof.Machine

/-- Settles O1: each operation is a result of its two registers or of its one. -/
theorem registerOperationsWriteOnlyRd : Obligations.RegisterOperationsWriteOnlyRd := by
  unfold Obligations.RegisterOperationsWriteOnlyRd
  simp only [List.forall_mem_cons]
  have same {g : Word → Word → Word} (f : Rrr) (s : State) := writes_op3 (g := g) (fun _ _ => rfl) s f
  have count {f : Word → Nat} {g : Word → Nat} (e : ∀ a, f a = g a) (x : Rr) (s : State) :=
    writes_op2 (fun a => congrArg (BitVec.ofNat 64) (e a)) s x.d x.a
  exact ⟨⟨same, same, same, same, same, same, same, fun f s => writes_op3 (fun a b => shiftRightArith_eq_ofInt a _) s f,
    fun f s => writes_op3 boolWord_slt s f, fun f s => writes_op3 boolWord_ult s f, same, same,
    fun f s => writes_op3 mulHigh_toNat s f, fun f s => writes_op3 divSigned_eq s f, fun f s => writes_op3 divUnsigned_eq s f,
    fun f s => writes_op3 remSigned_eq s f, fun f s => writes_op3 remUnsigned_eq s f, fun f s => writes_op3 ite_slt_eq_min s f,
    fun f s => writes_op3 ite_slt_eq_max s f, fun f s => writes_op3 ite_ult_eq_min s f, fun f s => writes_op3 ite_ult_eq_max s f,
    fun f s => writes_op3 rotateLeft_shiftAmount s f, fun f s => writes_op3 rotateRight_shiftAmount s f,
    fun f s => writes_op3 sext32_add s f, fun f s => writes_op3 sext32_sub s f, List.forall_mem_nil _⟩,
    count fun a => leadingZeros_eq 64 a.toNat, count fun a => trailingZeros_eq 64 a.toNat,
    count fun a => popCount_eq 64 a.toNat, List.forall_mem_nil _⟩

/-- Settles O2: each operation is a result of its register and its immediate. -/
theorem immediateOperationsWriteOnlyRd : Obligations.ImmediateOperationsWriteOnlyRd := by
  unfold Obligations.ImmediateOperationsWriteOnlyRd
  simp only [List.forall_mem_cons]
  have same {g : Word → Word} (s : State) (d a : BitVec 5) := writes_op2 (g := g) (fun _ => rfl) s d a
  refine ⟨fun f s => same s f.d f.a, ⟨fun f s => same s f.d f.a, fun f s => same s f.d f.a, fun f s => same s f.d f.a,
      fun f s => writes_op2 (fun a => boolWord_slt a _) s f.d f.a, fun f s => writes_op2 (fun a => boolWord_ult a _) s f.d f.a,
      List.forall_mem_nil _⟩,
    ⟨fun f s => same s f.d f.a, fun f s => same s f.d f.a,
      fun f s => writes_op2 (fun a => shiftRightArith_eq_ofInt a _) s f.d f.a, List.forall_mem_nil _⟩, fun f s => ?lui, fun f s => ?auipc⟩
  case lui =>
    have value : sext f.imm <<< 12 = BitVec.ofInt 64 (f.imm.toInt * 4096) := sext_shiftLeft f.imm 12
    rw [← value]
    exact writes_result s f.d _
  case auipc =>
    have value : sext f.imm <<< 12 = BitVec.ofInt 64 (f.imm.toInt * 4096) := sext_shiftLeft f.imm 12
    rw [← value]
    exact writes_result_me s f.d fun t => t.pc + (sext f.imm <<< 12)

/-- Settles O3: a branch by its condition, a jump by its target, which JALR checks. -/
theorem branchesAndJumpsGoToTheirTarget : Obligations.BranchesAndJumpsGoToTheirTarget := by
  unfold Obligations.BranchesAndJumpsGoToTheirTarget
  simp only [List.forall_mem_cons]
  refine ⟨⟨fun f s => branch_next rfl fun a b => beq_eq_decide a b,
    fun f s => branch_next (k := fun a b => decide (a ≠ b)) rfl fun a b => ?bne,
    fun f s => branch_next (k := fun a b => decide (a.toInt < b.toInt)) rfl fun _ _ => rfl,
    fun f s => branch_next (k := fun a b => decide (b.toInt ≤ a.toInt)) rfl fun a b => ?bge,
    fun f s => branch_next (k := fun a b => decide (a.toNat < b.toNat)) rfl fun _ _ => rfl,
    fun f s => branch_next (k := fun a b => decide (b.toNat ≤ a.toNat)) rfl fun a b => ?bgen, List.forall_mem_nil _⟩,
    fun f s => ?jal, fun f s => ?jalr⟩
  case bne => rw [bne, beq_eq_decide, ← decide_not]
  case bge => rw [BitVec.slt, ← decide_not, decide_eq_decide, not_lt]
  case bgen => rw [BitVec.ult, ← decide_not, decide_eq_decide, not_lt]
  case jal =>
    rw [← sextWords_eq]
    exact jumps_next s f.d _
  case jalr =>
    have imm : BitVec.ofInt 64 f.imm.toInt = sext f.imm := rfl
    have run : exec (.jalr f) s = .next (if (s.me.xr f.a + sext f.imm).toNat % 4 ≠ 0
        then s.raise causeAlign (s.me.xr f.a + sext f.imm)
        else s.withMe fun t => { t.setX f.d (t.pc + 4) with pc := s.me.xr f.a + sext f.imm }) := rfl
    rw [run, imm]
    by_cases aligned : (s.me.xr f.a + sext f.imm).toNat % 4 = 0
    · rw [if_pos aligned, if_neg (not_not.mpr aligned)]
      exact jumps_next s f.d _
    · rw [if_neg aligned, if_pos aligned]
      exact traps_raise s _ _
end

section
/-!
SUPPORT. What the operations that the control instructions share leave unchanged: a wait, the closing of the convoy, the completion
of outstanding operations and the passing of time; and the proofs of the statements on SVC, BRK, UDF, YIELD, IFENCE, WFI and SETVL,
and on the traps of the privileged instructions (Machine/System; 04_scalar R116, R118, R125-R131).
-/

namespace Sys2Proof.Machine

/-! ### Waiting -/

/-- A hart with its wait, numbered n if it begins now, for an instruction. -/
def Hart.waitsAt (t : Hart) (i : Instr) (seen : Option Word) (n : Nat) : Hart :=
  { t with wait := some ⟨i, t.waitDeadline, seen, (t.wait.map (·.age)).getD 0, (t.wait.map (·.since)).getD n⟩ }

section
variable (s : State) (i : Instr) (seen : Option Word)

@[simp] theorem State.cur_park : (s.park i seen).cur = s.cur := rfl
@[simp] theorem State.mem_park : (s.park i seen).mem = s.mem := rfl
theorem State.hart_park (k : Nat) :
    (s.park i seen).hart k = if k = s.cur then s.me.waitsAt i seen s.fresh else s.hart k :=
  State.hart_withMe s (fun t => t.waitsAt i seen s.fresh) k
theorem State.me_park : (s.park i seen).me = { s.me with wait := (s.park i seen).me.wait } := by
  rw [State.me, State.hart_park, if_pos (State.cur_park s i seen)]
  rfl
theorem State.instr_park : ((s.park i seen).me.wait.map fun w => w.instr) = some i := by
  rw [State.me, State.hart_park, if_pos (State.cur_park s i seen)]
  rfl
theorem State.hart_park_other {k : Nat} (n : k ≠ s.cur) : (s.park i seen).hart k = s.hart k := by
  rw [State.hart_park, if_neg n]
/-- A wait changes the executing hart alone, beside the number of the next free value. -/
theorem onlyMe_park : OnlyMe { s with fresh := (s.park i seen).fresh } (s.park i seen) :=
  ⟨rfl, fun _ n => State.hart_park_other s i seen n⟩
theorem waits_park : Waits (.next (s.park i seen)) s i :=
  ⟨_, rfl, onlyMe_park s i seen, State.me_park s i seen, State.instr_park s i seen⟩
theorem State.pc_park : (s.park i seen).me.pc = s.me.pc := by rw [State.me_park]

end

/-! ### The convoy closed -/

theorem State.withMe_congr {s : State} {g k : Hart → Hart} (h : g s.me = k s.me) : s.withMe g = s.withMe k :=
  congrArg (s.setHart s.cur) h

section
variable {s t u w : State}

theorem State.me_closeConvoy (s : State) : (s.withMe Hart.closeConvoy).me = s.me.closeConvoy := State.me_withMe _ _
theorem State.hart_closeConvoy (s : State) (h : Nat) : (s.withMe Hart.closeConvoy).hart h =
    { s.hart h with convoyOpen := ((s.withMe Hart.closeConvoy).hart h).convoyOpen } := by
  rw [State.hart_withMe]
  split
  · next own => rw [own]; rfl
  · rfl
theorem State.closeConvoy_closeConvoy (s : State) :
    (s.withMe Hart.closeConvoy).withMe Hart.closeConvoy = s.withMe Hart.closeConvoy :=
  State.withMe_withMe s _ _ fun _ => rfl

/-- A trap leaves no convoy open, so one that has just been closed makes no difference to it. -/
theorem TrapEntered.of_closed {c : Byte} {b : Bool} {p v : Word} (only : OnlyMe w u) (hme : u.me = w.me.closeConvoy)
    (h : TrapEntered u t c b p v) : TrapEntered w t c b p v := by
  obtain ⟨others, me, epc, cause, tval, status, kept⟩ := h
  rw [hme] at me status kept
  exact ⟨only.trans others, me, epc, cause, tval, status, kept⟩
theorem trapEntered_raise_closed (s : State) (c : Byte) (v : Word) :
    TrapEntered s ((s.withMe Hart.closeConvoy).raise c v) c false s.me.pc v := by
  have entered := trapEntered_raise (s.withMe Hart.closeConvoy) c v
  rw [State.me_closeConvoy] at entered
  exact entered.of_closed (onlyMe_withMe _ _) (State.me_closeConvoy s)

end

/-! ### Instructions that wait for their hart's work -/

/-- What an instruction that waits for the vector queue and the non-blocking operations comes to. -/
theorem State.afterWork_eq (s : State) (i : Instr) (k : State → State) : s.afterWork i k =
    if s.me.drained = true then
      if ((s.withMe Hart.closeConvoy).drainNb s.cur).me.worked = true then k ((s.withMe Hart.closeConvoy).drainNb s.cur)
      else ((s.withMe Hart.closeConvoy).drainNb s.cur).park i none
    else (s.withMe Hart.closeConvoy).park i none := by
  have drained : (s.withMe Hart.closeConvoy).me.drained = s.me.drained := by rw [State.me_closeConvoy]; rfl
  rw [State.afterWork, State.afterDrain, drained]
  rfl

/-! ### Outstanding operations that complete (06_memory_isa R169-R172) -/

/-- Operations of a hart have completed: of it only rows, flags, counters, the operations themselves and queued members that awaited
them may differ. -/
structure Hart.Landed (t u : Hart) : Prop where
  frame : u = { t with
    v := u.v
    away := u.away
    nb := u.nb
    lost := u.lost
    queue := u.queue
    csr := u.csr
    cc := u.cc
    wait := u.wait }
  csrs : CsrsKept t u [0x000, 0x012]

theorem Hart.Landed.trans {t u w : Hart} (a : t.Landed u) (b : u.Landed w) : t.Landed w where
  frame := by rw [b.frame, a.frame]
  csrs n hn := (b.csrs n hn).trans (a.csrs n hn)
theorem Hart.landed_landRow (t : Hart) (r : NbRow) : t.Landed (t.landRow r) := by
  unfold Hart.landRow Hart.rewritten Hart.setV
  split
  · exact ⟨rfl, fun _ _ => rfl⟩
  · exact ⟨rfl, fun _ _ => rfl⟩
theorem Hart.landed_foldl (rows : List NbRow) (t : Hart) : t.Landed (rows.foldl Hart.landRow t) := by
  induction rows generalizing t with
  | nil => exact ⟨rfl, fun _ _ => rfl⟩
  | cons r rows ih => exact (t.landed_landRow r).trans (ih _)
theorem Hart.landed_accrue (t : Hart) (f : Flags) : t.Landed (t.accrue f) where
  frame := rfl
  csrs n hn := by
    simp only [List.mem_cons, List.not_mem_nil, or_false, not_or] at hn
    simp [Hart.accrue, hn]

/-- Operations of one hart have completed: memory and that hart have changed, and what the waits of others have seen. -/
structure State.Landed (h : Nat) (s t : State) : Prop where
  frame : t = { s with mem := t.mem, harts := t.harts }
  own : (s.hart h).Landed (t.hart h)
  other : ∀ k, k ≠ h → t.hart k = { s.hart k with wait := (t.hart k).wait }
  wait : ∀ k, (t.hart k).wait.map (fun x => { x with seen := none }) = (s.hart k).wait.map fun x => { x with seen := none }

section
variable {h : Nat} {s t u : State}

theorem State.Landed.refl (h : Nat) (s : State) : s.Landed h s := ⟨rfl, ⟨rfl, fun _ _ => rfl⟩, fun _ _ => rfl, fun _ => rfl⟩
theorem State.Landed.trans (a : s.Landed h t) (b : t.Landed h u) : s.Landed h u where
  frame := by rw [b.frame, a.frame]
  own := a.own.trans b.own
  other k n := by rw [b.other k n, a.other k n]
  wait k := (b.wait k).trans (a.wait k)
theorem State.Landed.foldl {α : Type} {f : State → α → State} (each : ∀ (s : State) a, s.Landed h (f s a)) (l : List α) (s : State) :
    s.Landed h (l.foldl f s) := by
  induction l generalizing s with
  | nil => exact .refl h s
  | cons a l ih => exact (each s a).trans (ih _)
theorem State.Landed.cur (a : s.Landed h t) : t.cur = s.cur := by rw [a.frame]

theorem State.Noticed.landed (n : s.Noticed t) (h : Nat) : s.Landed h t where
  frame := by rw [n.frame]
  own := ⟨by rw [n.hart h], fun c _ => by rw [n.hart h]; rfl⟩
  other k _ := n.hart k
  wait := n.wait
theorem State.landed_writeByte (h : Nat) (s : State) (a : Nat) (b : Byte) : s.Landed h (s.writeByte a b) :=
  ⟨rfl, ⟨rfl, fun _ _ => rfl⟩, fun _ _ => rfl, fun _ => rfl⟩
theorem State.landed_performFrom (h : Nat) (l : List PendByte) (s : State) (done : List Nat) : s.Landed h (s.performFrom done l) := by
  induction l generalizing s done with
  | nil => exact .refl h s
  | cons b l ih =>
    unfold State.performFrom
    split
    · exact ((s.noticed_noticeAll.landed h).trans (State.landed_writeByte h _ _ _)).trans (ih _ _)
    · exact (State.landed_writeByte h _ _ _).trans (ih _ _)
theorem State.landed_performBytes (h : Nat) (s : State) (l : List PendByte) : s.Landed h (s.performBytes l) :=
  State.landed_performFrom h l s []
theorem State.landed_setHart {x : Hart} (l : (s.hart h).Landed x) (w : x.wait = (s.hart h).wait) : s.Landed h (s.setHart h x) where
  frame := rfl
  own := by rw [State.hart_setHart_same]; exact l
  other k n := by rw [State.hart_setHart, if_neg n]
  wait k := by
    rw [State.hart_setHart]
    split
    · next same => rw [same, w]
    · rfl
theorem State.landed_performOrdered (h : Nat) (s : State) (p : NbOp → Bool) : s.Landed h (s.performOrdered h p) :=
  (State.landed_performBytes h s _).trans (State.landed_setHart ⟨rfl, fun _ _ => rfl⟩ rfl)
theorem Hart.wait_landRow (t : Hart) (r : NbRow) : (t.landRow r).wait = t.wait := by
  unfold Hart.landRow Hart.rewritten Hart.setV
  split <;> rfl
theorem Hart.wait_foldl_landRow (rows : List NbRow) (t : Hart) : (rows.foldl Hart.landRow t).wait = t.wait := by
  induction rows generalizing t with
  | nil => rfl
  | cons r rows ih => exact (ih _).trans (t.wait_landRow r)
theorem State.landed_nbFinish (h : Nat) (s : State) (o : NbOp) : s.Landed h (s.nbFinish h o) := by
  have performed : s.Landed h ((if o.ord then s.performOrdered h (· = o) else s).performBytes o.bytes) := by
    refine State.Landed.trans ?_ (State.landed_performBytes h _ _)
    split
    · exact State.landed_performOrdered h s _
    · exact .refl h s
  have taken (t : Hart) (l : List NbOp) : t.Landed { t with nb := l } := ⟨rfl, fun _ _ => rfl⟩
  unfold State.nbFinish
  dsimp only
  split
  · refine performed.trans (State.landed_setHart (((taken _ _).trans (Hart.landed_foldl _ _)).trans ⟨rfl, fun _ _ => rfl⟩) ?_)
    exact Hart.wait_foldl_landRow _ _
  · refine performed.trans (State.landed_setHart
      ((((taken _ _).trans (Hart.landed_foldl _ _)).trans (Hart.landed_accrue _ _)).trans ⟨rfl, fun _ _ => rfl⟩) ?_)
    exact Hart.wait_foldl_landRow _ _
theorem State.landed_drainNb (s : State) (h : Nat) : s.Landed h (s.drainNb h) :=
  .foldl (fun s o => (State.landed_nbFinish h s o).trans (State.Noticed.landed (State.noticed_noticeAll _) h)) _ s
theorem State.landed_flushStores (s : State) (h : Nat) : s.Landed h (s.flushStores h) :=
  (State.landed_performBytes h s _).trans (State.landed_setHart ⟨rfl, fun _ _ => rfl⟩ rfl)

end

/-- The executing hart of a package whose hart has closed its convoy and completed what it could is at the same address. -/
theorem State.pc_drainNb (s : State) : ((s.withMe Hart.closeConvoy).drainNb s.cur).me.pc = s.me.pc := by
  have landed := State.landed_drainNb (s.withMe Hart.closeConvoy) s.cur
  have own := landed.own.frame
  rw [State.me, landed.cur]
  show (((s.withMe Hart.closeConvoy).drainNb s.cur).hart s.cur).pc = _
  rw [own, State.hart_closeConvoy]
  rfl

/-! ### Traps of privileged instructions (04_scalar R128, R129, R131) -/

theorem Hart.setCsr_setCsr_eq (t : Hart) (n m : Nat) (v w : Word) :
    (t.setCsr n v).setCsr m w = { t with csr := ((t.setCsr n v).setCsr m w).csr } := rfl
theorem State.onlyMe_refuseWorld (s : State) (w : Word) : OnlyMe s (s.refuseWorld w) := by
  unfold State.refuseWorld
  exact (trapEntered_raise s causeWorld w).1.trans (onlyMe_withMe _ _)
theorem State.me_refuseWorld (s : State) (w : Word) : (s.refuseWorld w).me =
    ((s.raise causeWorld w).me.setCsr 0x101 (s.me.csrv 0x101)).setCsr 0x104 (s.me.csrv 0x104) := State.me_withMe _ _

theorem toNat_append_add {m n : Nat} (x : BitVec m) (y : BitVec n) : (x ++ y).toNat = x.toNat * 2 ^ n + y.toNat := by
  rw [BitVec.toNat_append, ← Nat.shiftLeft_add_eq_or_of_lt y.isLt, Nat.shiftLeft_eq]

/-- The word of UDF. -/
theorem word_udf (f : UdfOps) : tvalWord (joinWord (udfFields f)) = BitVec.ofNat 64 (0x7E000000 + f.u.toNat * 2 ^ 31 + f.v.toNat) := by
  have high := f.u.isLt
  have low := f.v.isLt
  have joined : (joinWord (udfFields f)).toNat = f.u.toNat * 2 ^ 31 + 0x7E000000 + f.v.toNat := by
    unfold joinWord udfFields
    rw [toNat_append_add, toNat_append_add, toNat_append_add, toNat_append_add, toNat_append_add]
    simp only [BitVec.extractLsb'_toNat, Nat.shiftRight_eq_div_pow]
    show ((((f.u.toNat * 2 ^ 6 + 63) * 2 ^ 5 + _) * 2 ^ 5 + _) * 2 ^ 5 + _) * 2 ^ 10 + _ = _
    generalize f.v.toNat = v at *
    generalize f.u.toNat = u at *
    omega
  apply BitVec.eq_of_toNat_eq
  rw [tvalWord, BitVec.toNat_setWidth, joined, BitVec.toNat_ofNat, Nat.add_comm (f.u.toNat * _)]

/-- The checks that LKSV, LKLD and HREL share, each under the condition on which it fails. -/
theorem State.heldCheck_eq (s : State) (w : IWord) (v : Word) (locket : Option Word) (ok : Run → Bool) :
    s.heldCheck w v locket ok =
      if s.me.priv = .user ∨ v.toNat / 16 ≠ 0 then some (.trap 0x01 (w.setWidth 64))
      else if (locket.getD 0).toNat % 4096 ≠ 0 then some (.trap 0x06 (locket.getD 0))
      else if ok (s.hart (s.target v)).run = false then some (.trap 0x01 (w.setWidth 64))
      else if s.foreign (s.target v) = true then some (.trap 0x0D (w.setWidth 64))
      else none := by
  have reserved : v.extractLsb' 4 60 = 0 ↔ v.toNat / 16 = 0 := by
    rw [← BitVec.toNat_inj, BitVec.extractLsb'_toNat, Nat.shiftRight_eq_div_pow]
    have := v.isLt
    show _ = 0 ↔ _
    omega
  unfold State.heldCheck
  simp only [Bool.or_eq_true, decide_eq_true_eq, ne_eq, reserved, Bool.not_eq_true']
  refine if_congr Iff.rfl rfl ?_
  cases locket with
  | none => rfl
  | some a =>
    by_cases aligned : a.toNat % 4096 = 0
    · simp only [Option.bind_some, Option.getD_some, aligned, not_true_eq_false, if_false]
      rfl
    · simp only [Option.bind_some, Option.getD_some, aligned, not_false_eq_true, if_true]
      rfl

/-- Another tenant's hart, or one of the secure world for a hart that is not. -/
theorem State.foreign_iff {s : State} {h : Nat} (run : (s.hart h).run ≠ .free) : s.foreign h = true ↔
    ((s.hart h).csrv 0x107).toNat % 2 ^ 16 ≠ (s.me.csrv 0x107).toNat % 2 ^ 16 ∨ (s.hart h).secure = true ∧ s.me.secure = false := by
  unfold State.foreign
  simp [run, ← BitVec.toNat_inj, BitVec.extractLsb'_toNat]

/-- The closing of the convoy takes no part in those checks. -/
theorem State.heldCheck_closeConvoy (s : State) (w : IWord) (v : Word) (locket : Option Word) (ok : Run → Bool) :
    (s.withMe Hart.closeConvoy).heldCheck w v locket ok = s.heldCheck w v locket ok := by
  have me : (s.withMe Hart.closeConvoy).me = s.me.closeConvoy := State.me_closeConvoy s
  have target : (s.withMe Hart.closeConvoy).target v = s.target v := rfl
  have hart := State.hart_closeConvoy s (s.target v)
  unfold State.heldCheck State.foreign
  rw [target, me]
  dsimp only
  rw [hart]
  rfl

/-- A failed check of a held hart traps, whether or not the convoy has been closed. -/
theorem traps_halt_closed (s : State) (c : Byte) (v : Word) :
    Traps (.next ((s.withMe Hart.closeConvoy).halt (.trap c v))) s c v :=
  ⟨_, rfl, trapEntered_raise_closed s c v⟩

/-! ### The length word (04_scalar R116) -/

/-- What SETVL does once its hart has adopted its share. -/
def State.setLength (f : SetvlOps) (s : State) : State := s.withMe fun t =>
  { t.result f.d (BitVec.ofNat 64 (f.ty.toNat * 2 ^ 32 + min (t.xr f.a).toNat (vlmaxOf t.k f.ty))) with laneLost := false }
/-- What SETVL does once its hart's work is done. -/
def State.adoptLength (f : SetvlOps) (s : State) : State :=
  match s.adoptShare s.cur (typeWidth f.ty) with
  | none => s.park (.setvl f) none
  | some s => s.setLength f

theorem exec_setvl (f : SetvlOps) (s : State) : exec (.setvl f) s = .next (if s.me.pending.isNone then
    (s.withMe Hart.closeConvoy).setLength f else (s.withMe Hart.closeConvoy).afterWork (.setvl f) (State.adoptLength f)) := by
  show execSetvl f s = _
  rw [execSetvl, State.me_closeConvoy]
  rfl
theorem State.onlyMe_setLength (f : SetvlOps) (s : State) : OnlyMe s (s.setLength f) := onlyMe_withMe s _
theorem State.me_setLength (f : SetvlOps) (s : State) : (s.setLength f).me =
    { s.me with x := (s.setLength f).me.x, pc := s.me.pc + 4, wait := none, laneLost := false } := by
  rw [State.setLength, State.me_withMe, Hart.result_eq]
theorem State.regSet_setLength (f : SetvlOps) (s : State) : RegSet s.me (s.setLength f).me f.d
    (BitVec.ofNat 64 (f.ty.toNat * 2 ^ 32 + min (s.me.xr f.a).toNat (s.me.k * 4096 / typeWidth f.ty))) := by
  rw [State.setLength, State.me_withMe]
  exact regSet_result s.me f.d _

end Sys2Proof.Machine

open Sys2Proof Sys2Proof.Machine

/-- Settles O10: each is a trap, of which SVC's is at the next word. -/
theorem trapInstructionsEnterTheHandler : Obligations.TrapInstructionsEnterTheHandler := by
  unfold Obligations.TrapInstructionsEnterTheHandler
  refine fun s => ⟨?svc, traps_raise s causeBrk _, fun f => ?udf⟩
  case svc =>
    have run : exec .svc s = .next (s.withMe fun t => t.enterTrap causeSvc false 0x1A000001 (s.me.pc + 4)) :=
      congrArg Host.Outcome.next (State.withMe_congr rfl)
    exact ⟨_, run, trapEntered_enterTrap s causeSvc false _ _⟩
  case udf =>
    rw [← word_udf]
    exact traps_raise s causeIllegal _

/-- Settles O12: each takes the trap of the first check that fails. -/
theorem privilegedInstructionsTrap : Obligations.PrivilegedInstructionsTrap := by
  unfold Obligations.PrivilegedInstructionsTrap
  refine ⟨fun s => ⟨fun user => ?tret, fun sup world plain => ?world, fun user => ?wfi⟩, ?held⟩
  case tret =>
    have user : (s.withMe Hart.closeConvoy).me.priv = .user := by rw [State.me_closeConvoy]; exact user
    exact ⟨_, congrArg Host.Outcome.next (if_pos user), trapEntered_raise_closed s causeIllegal _⟩
  case world =>
    have sup : (s.withMe Hart.closeConvoy).me.priv ≠ .user := by rw [State.me_closeConvoy]; simp [Hart.closeConvoy, sup]
    have refused : ((s.me.csrv 0x104).getLsbD 3 && !(s.withMe Hart.closeConvoy).me.secure) = true := by
      rw [State.me_closeConvoy, world]
      exact (congrArg (!·) plain :)
    have run : exec .tret s = .next ((s.withMe Hart.closeConvoy).refuseWorld 0x1A000002) :=
      congrArg Host.Outcome.next ((if_neg sup).trans (if_pos refused))
    refine ⟨_, _, run, trapEntered_raise_closed s causeWorld _,
      (onlyMe_withMe s _).trans (State.onlyMe_refuseWorld _ _), ?_, fun n => ?_⟩ <;> rw [State.me_refuseWorld]
    · exact Hart.setCsr_setCsr_eq _ _ _ _ _
    · rw [Hart.csrv_setCsr, Hart.csrv_setCsr, State.me_closeConvoy]
      by_cases epc : n = 0x101
      · subst epc; exact (if_neg (by decide)).trans (if_pos rfl)
      · by_cases status : n = 0x104
        · subst status; exact if_pos rfl
        · rw [if_neg status, if_neg epc, if_neg (by simp [epc, status])]
  case wfi =>
    exact ⟨_, congrArg Host.Outcome.next (if_pos user), trapEntered_raise s causeIllegal _⟩
  case held =>
    intro s i a va h stands hi hh
    have checked : ∃ ok : Run → Bool, ok (s.hart h).run = stands ∧
        ∀ c v, s.heldCheck (wordOf i) (s.me.xr a) va ok = some (.trap c v) → Traps (exec i s) s c v := by
      obtain ⟨f, rfl, rfl, rfl, rfl⟩ | ⟨f, rfl, rfl, rfl, rfl⟩ | ⟨f, rfl, rfl, rfl, rfl⟩ := hi
      · refine ⟨fun r => decide (r = .held), rfl, fun c v fails => ?_⟩
        have run : exec (.hrel f) s = .next (s.raise c v) := by
          show execHrel f s = _
          simp only [execHrel, fails]
          rfl
        exact run ▸ traps_raise s c v
      · refine ⟨fun r => r.savable && decide (h ≠ s.cur), rfl, fun c v fails => ?_⟩
        have run : exec (.lksv f) s = .next (s.raise c v) := by
          show execLksv f s = _
          have target : h = s.target (s.me.xr f.a) := hh
          rw [target] at fails
          simp only [execLksv, fails]
          rfl
        exact run ▸ traps_raise s c v
      · refine ⟨fun r => r = .free || r = .held, by simp, fun c v fails => ?_⟩
        have run : exec (.lkld f) s = .next ((s.withMe Hart.closeConvoy).halt (.trap c v)) := by
          show execLkld f s = _
          rw [← State.heldCheck_closeConvoy] at fails
          simp only [execLkld, fails]
        exact run ▸ traps_halt_closed s c v
    obtain ⟨ok, rfl, traps⟩ := checked
    subst hh
    have check := s.heldCheck_eq (wordOf i) (s.me.xr a) va ok
    have target : s.target (s.me.xr a) = coreOf s.cur * 8 + (s.me.xr a).toNat % 8 := rfl
    rw [target] at check
    split_ifs at check ⊢ with denied odd absent foreign
    · exact traps _ _ check
    · exact traps _ _ check
    · exact traps _ _ check
    · exact fun _ _ => traps _ _ check
    · exact fun run other => absurd ((State.foreign_iff run).mpr other) foreign

/-- Settles O13: each goes on where it need not wait. -/
theorem hintsAndFencesOnlyAdvance : Obligations.HintsAndFencesOnlyAdvance := by
  unfold Obligations.HintsAndFencesOnlyAdvance
  refine fun s => ⟨⟨_, rfl, onlyMe_withMe _ _, State.me_withMe _ _⟩, ?ifence, fun sup pending => ?wfi⟩
  case ifence =>
    have run : exec .ifence s = .next (if s.me.drained && s.me.tracked.isEmpty
        then (s.withMe Hart.closeConvoy).withMe Hart.advance else (s.withMe Hart.closeConvoy).park .ifence none) := by
      show execIfence s = _
      rw [execIfence, State.me_closeConvoy]
      rfl
    have only := (onlyMe_withMe s Hart.closeConvoy)
    split
    · next quiet =>
      refine ⟨_, run.trans (congrArg _ (if_pos (by simp [quiet]))), only.trans (onlyMe_withMe _ _), ?_⟩
      rw [State.me_withMe, State.me_closeConvoy]
      rfl
    · next busy =>
      refine ⟨_, run.trans (congrArg _ (if_neg (by simpa using busy))), rfl, fun h n => ?_, ?_, State.instr_park _ _ _⟩
      · rw [State.hart_park_other (s.withMe Hart.closeConvoy) _ _ n, State.hart_withMe_other s _ n]
      · rw [State.me_park, State.me_closeConvoy]
        rfl
  case wfi =>
    have awake : (s.tickTime.me.engFault || s.tickTime.me.collFault || s.tickTime.expired || Config.early s.tickTime.fresh) = true := by
      have me : s.tickTime.me = s.me := rfl
      rw [me]
      rcases pending with eng | coll
      · simp [eng]
      · simp [coll]
    have run : exec .wfi s = .next (State.withMe { s.tickTime with fresh := s.tickTime.fresh + 1 } Hart.advance) :=
      congrArg Host.Outcome.next ((if_neg (by simp [sup])).trans (if_pos awake))
    exact ⟨_, run, rfl, fun h n => State.hart_withMe_other _ _ n, State.me_withMe _ _⟩

/-- Settles O14: SETVL gives its length word at once, or after the work that the adoption of a pending share waits for. -/
theorem setvlGivesALengthWord : Obligations.SetvlGivesALengthWord := by
  unfold Obligations.SetvlGivesALengthWord
  rintro f s u rfl
  refine ⟨fun none => ?alone, fun v pending drained worked adopts => ?adopted, fun pending waits => ?waits⟩
  case alone =>
    have run := (exec_setvl f s).trans (congrArg Host.Outcome.next (if_pos (by rw [none]; rfl)))
    have me := State.me_setLength f (s.withMe Hart.closeConvoy)
    have rd := State.regSet_setLength f (s.withMe Hart.closeConvoy)
    rw [State.me_closeConvoy] at rd
    refine ⟨_, run, (onlyMe_withMe s _).trans (State.onlyMe_setLength f _), me.trans ?_, rd⟩
    rw [State.me_closeConvoy]
    rfl
  case adopted =>
    have cur : ((s.withMe Hart.closeConvoy).drainNb s.cur).cur = s.cur := State.cur_drainNb _ _
    have run : exec (.setvl f) s = .next (v.setLength f) := by
      rw [exec_setvl, if_neg (by simpa [Option.isSome_iff_ne_none] using pending),
        State.afterWork_of_worked rfl (by rw [State.me_closeConvoy]; exact drained) (by rw [State.closeConvoy_closeConvoy]; exact worked),
        State.closeConvoy_closeConvoy]
      show Host.Outcome.next (State.adoptLength f ((s.withMe Hart.closeConvoy).drainNb s.cur)) = _
      rw [State.adoptLength, cur, adopts]
    exact ⟨_, run, State.onlyMe_setLength f v, State.me_setLength f v, State.regSet_setLength f v⟩
  case waits =>
    have cur : ((s.withMe Hart.closeConvoy).drainNb s.cur).cur = s.cur := State.cur_drainNb _ _
    have run := exec_setvl f s
    rw [if_neg (by simpa [Option.isSome_iff_ne_none] using pending), State.afterWork_eq, State.closeConvoy_closeConvoy,
      State.me_closeConvoy, show (s.withMe Hart.closeConvoy).cur = s.cur from rfl] at run
    split_ifs at run with drained worked
    · have none : ((s.withMe Hart.closeConvoy).drainNb s.cur).adoptShare s.cur (typeWidth f.ty) = none := by
        obtain idle | busy | none := waits
        · exact absurd drained (by rw [show s.me.closeConvoy.drained = s.me.drained from rfl, idle]; decide)
        · exact absurd worked (by simp [busy])
        · exact none
      have adopt : ((s.withMe Hart.closeConvoy).drainNb s.cur).adoptLength f =
          ((s.withMe Hart.closeConvoy).drainNb s.cur).park (.setvl f) .none := by rw [State.adoptLength, cur, none]
      exact ⟨_, run.trans (congrArg _ adopt), (State.pc_park _ _ _).trans (State.pc_drainNb s), State.instr_park _ _ _⟩
    · exact ⟨_, run, (State.pc_park _ _ _).trans (State.pc_drainNb s), State.instr_park _ _ _⟩
    · exact ⟨_, run, (State.pc_park _ _ _).trans (by rw [State.me_closeConvoy]; rfl), State.instr_park _ _ _⟩
end

section
/-!
SUPPORT. Scalar memory accesses: what a load, a store and an atomic come to, by what their bytes are (04_scalar R105-R112), and
the obligations about them (O4 to O7).
-/

namespace Sys2Proof.Machine

/-! ### Ranges of addresses -/

theorem gaRange_succ (ga n : Nat) : gaRange ga (n + 1) = ga :: gaRange (ga + 1) n := by
  simp [gaRange, List.range_succ_eq_map, Function.comp_def, Nat.add_left_comm, Nat.add_comm]
theorem mem_gaRange {a ga n : Nat} : a ∈ gaRange ga n ↔ ga ≤ a ∧ a < ga + n := by
  simp only [gaRange, List.mem_map, List.mem_range]
  exact ⟨fun ⟨i, h, e⟩ => by omega, fun h => ⟨a - ga, by omega⟩⟩
theorem length_gaRange (ga n : Nat) : (gaRange ga n).length = n := by simp [gaRange]

section
variable {s : State} {p : Party} {need : Need} {vec : Bool} {locs : List Loc}

theorem State.length_checkFrom (n : Nat) : ∀ (va : Word) (pg : Page) (b : Nat) (locs : List Loc),
    s.checkFrom p need vec n va pg b = .ok locs → locs.length = n := by
  induction n with
  | zero => rintro _ _ _ _ ⟨⟩; rfl
  | succ n ih =>
    have consed {x : Except Stop (List Loc)} {l : Loc} {locs : List Loc} (h : x.map (l :: ·) = .ok locs)
        (len : ∀ ls, x = .ok ls → ls.length = n) : locs.length = n + 1 := by
      cases x with
      | error e => cases h
      | ok ls => cases h; exact congrArg (· + 1) (len ls rfl)
    intro va pg b locs h
    rw [State.checkFrom] at h
    split at h
    · exact consed h fun ls => ih _ _ _ ls
    · split at h
      · cases h
      · exact consed h fun ls => ih _ _ _ ls
/-- A checked range has a location for each byte. -/
theorem State.length_checkRange {va : Word} {n : Nat} (h : s.checkRange p need vec va n = .ok locs) : locs.length = n := by
  cases n with
  | zero => cases h; rfl
  | succ n =>
    rw [State.checkRange] at h
    split at h
    · cases h
    · next pg _ =>
      cases found : s.checkFrom p need vec n (va + 1) pg (va.toNat / 2 ^ pg.log) with
      | error e => rw [found] at h; cases h
      | ok ls => rw [found] at h; cases h; exact congrArg (· + 1) (State.length_checkFrom n _ _ _ ls found)
end

/-! ### Numbers of bytes -/

/-- The number that a pattern stands for. -/
theorem toSigned_eq_toInt (w x : Nat) (pos : 0 < w) : toSigned w x = (BitVec.ofNat w x).toInt := by
  obtain ⟨k, rfl⟩ : ∃ k, w = k + 1 := ⟨w - 1, by omega⟩
  rw [BitVec.toInt_eq_toNat_cond, toSigned, BitVec.toNat_ofNat, Nat.add_sub_cancel]
  have double : 2 ^ (k + 1) = 2 * 2 ^ k := Nat.pow_succ'
  split_ifs <;> simp <;> omega
theorem signExtend_ofNat (w v : Nat) (pos : 0 < w) : (BitVec.ofNat w v).signExtend 64 = BitVec.ofInt 64 (toSigned w v) := by
  rw [BitVec.signExtend, toSigned_eq_toInt w v pos]
theorem extendBytes_eq (sg : Bool) (n v : Nat) (pos : 0 < n) :
    extendBytes sg n v = if sg then (BitVec.ofNat (8 * n) v).signExtend 64 else BitVec.ofNat 64 v := by
  rw [signExtend_ofNat (8 * n) v (by omega)]
  rfl

/-! ### Memory access in order (04_scalar R108) -/

theorem State.inOrder_free {s : State} {va : Word} {k : State} (free : Unhindered s) : s.inOrder va k = k := by
  rw [State.inOrder, free.1, free.2]
  rfl
theorem State.inOrder_held {s : State} {va : Word} {k : State} (held : s.me.vectorMemory = true ∨ s.portHeld s.cur = true) :
    s.inOrder va k = s.withMe fun t => { t with stalled := some va } := if_pos (by simpa using held)
/-- An access that is held up is that and nothing more. -/
theorem held_inOrder {o : Out} {s : State} {va : Word} {k : State} (run : o = .next (s.inOrder va k))
    (held : s.me.vectorMemory = true ∨ s.portHeld s.cur = true) :
    ∃ t, o = .next t ∧ OnlyMe s t ∧ t.me = { s.me with stalled := some va } :=
  ⟨_, run.trans (congrArg _ (State.inOrder_held held)), onlyMe_withMe s _, State.me_withMe s _⟩

/-! ### What a checked range is -/

section
variable {s : State} {need : Need} {va : Word} {n : Nat} {as : List Nat} {locs : List Loc}

theorem State.accessRange_first (first : s.me.access = none) :
    s.accessRange need va n = s.checkRange (s.party s.cur) need false va n := by rw [State.accessRange, first]
theorem State.accessRange_again (again : s.me.access = some locs) : s.accessRange need va n = .ok locs := by
  rw [State.accessRange, again]
theorem noReg_of {locs : List Loc} (h : ∀ l ∈ locs, l.isReg = false) : locs.any Loc.isReg = false := by
  simpa using h
theorem isReg_eq_false {l : Loc} : l.isReg = false ↔ gaHost l.ga = true ∨ gaKind l.ga ≠ 3 := by
  cases h : gaHost l.ga <;> simp [Loc.isReg, h]
theorem isReg_eq_true {l : Loc} : l.isReg = true ↔ gaHost l.ga = false ∧ gaKind l.ga = 3 := by
  simp [Loc.isReg]
/-- What `Plain` says of its bytes, as a list of locations. -/
theorem Plain.memory (plain : Plain s need va n as) :
    s.checkRange (s.party s.cur) need false va n = .ok (homeBytes as) ∧
      ∀ l ∈ homeBytes as, l.isReg = false ∧ s.poisoned l.ga = false ∧ s.farDev l.ga = none := by
  obtain ⟨-, range, mem⟩ := plain
  refine ⟨range, fun l h => ?_⟩
  obtain ⟨a, isIn, rfl⟩ := List.mem_map.mp h
  obtain ⟨kind, clean, near⟩ := mem a isIn
  exact ⟨isReg_eq_false.mpr kind, clean, near⟩

/-! ### Loads -/

/-- What a load comes to once its operand has been read. -/
def loaded (d : BitVec 5) (out : Nat → Word) : Except (State × Stop) (State × Nat) → State
  | .error (s, e) => s.halt e
  | .ok (s, v) => s.withMe fun t => t.result d (out v)

variable (again : s.accessRange need va n = .ok locs)
include again

theorem State.loadScalar_unaligned (reg : locs.any Loc.isReg = true) (odd : va.toNat % n ≠ 0) :
    s.loadScalar need va n = .error (s, .trap causeAlign va) := by
  simp [State.loadScalar, again, reg, odd]
theorem State.loadScalar_reg (reg : locs.any Loc.isReg = true) (even : va.toNat % n = 0)
    (own : gaChip (locs.headD ⟨0, false⟩).ga = s.chip) :
    s.loadScalar need va n = .ok (s, s.regLoad s.me.secure (locs.headD ⟨0, false⟩).ga n) := by
  simp only [State.loadScalar, again, reg, even, own, ne_eq, not_true_eq_false, and_false, and_self, if_false, if_true]
/-- Bytes that are memory, or registers of another device read once. -/
theorem State.loadScalar_poisoned {v : Word} (mem : locs.any Loc.isReg = false) (bad : s.eccByte va locs = some v) :
    s.loadScalar need va n = .error (s.logError (errorUnit (locs.headD ⟨0, false⟩).ga) s.cur, .trap causeEcc v) := by
  simp [State.loadScalar, again, mem, bad]
/-- Bytes here or with the host. -/
theorem State.loadScalar_near (mem : ∀ l ∈ locs, l.isReg = false ∧ s.poisoned l.ga = false ∧ s.farDev l.ga = none) :
    s.loadScalar need va n = .ok (s.keepWindowsWith (askByte s.me.asks) s.winKey locs,
      s.loadAtWith (askByte s.me.asks) s.winKey locs) := by
  have noReg : locs.any Loc.isReg = false := noReg_of fun l h => (mem l h).1
  have clean : s.eccByte va locs = none := State.eccByte_of_clean fun l h => (mem l h).2.1
  have up : (if s.me.access.isSome then none else locs.findSome? fun l => s.failedHome l.ga) = none := by
    split
    · rfl
    · exact List.findSome?_eq_none_iff.mpr fun l h => State.failedHome_of_near (mem l h).2.2
  have near : ∀ a ∈ s.needed s.winKey locs, s.farDev a = none := by
    intro a h
    obtain ⟨l, isIn, e⟩ := List.mem_flatMap.mp h
    have l_near := (mem l (List.mem_of_mem_filter isIn)).2.2
    rw [if_neg (by simp [l_near]), List.mem_singleton] at e
    exact e ▸ l_near
  have farOf : s.farOf (locGas locs) = [] := by
    refine List.filter_eq_nil_iff.mpr fun a h => ?_
    obtain ⟨l, isIn, rfl⟩ := List.mem_map.mp h
    simp [(mem l isIn).2.2]
  simp only [State.loadScalar, again, noReg, clean, up, State.gather_of_near near, farOf, askFailed_nil, Bool.false_eq_true,
    false_and, if_false, Bool.not_true]
/-- Bytes of another device. -/
theorem State.loadScalar_far (noTrap : locs.any Loc.isReg = true → va.toNat % n = 0 ∧ gaChip (locs.headD ⟨0, false⟩).ga ≠ s.chip)
    (clean : ∀ l ∈ locs, s.poisoned l.ga = false)
    (up : s.me.access = none → ∀ l ∈ locs, s.failedHome l.ga = none) :
    s.loadScalar need va n =
      if (s.gather s.cur 0 (s.needed s.winKey locs)).2 = true then
        if (askFailed s.me.asks (s.farOf (locGas locs))).isSome = true then .ok (s, s.me.vfill.toNat % 2 ^ (8 * n))
        else .ok (s.keepWindowsWith (askByte s.me.asks) s.winKey locs, s.loadAtWith (askByte s.me.asks) s.winKey locs)
      else .error ((s.gather s.cur 0 (s.needed s.winKey locs)).1.awaitAccess locs va) := by
  have clean : s.eccByte va locs = none := State.eccByte_of_clean clean
  have up : (if s.me.access.isSome then none else locs.findSome? fun l => s.failedHome l.ga) = none := by
    split
    · rfl
    · next first => exact List.findSome?_eq_none_iff.mpr fun l h => up (by simpa using first) l h
  have aligned : ¬(locs.any Loc.isReg = true ∧ va.toNat % n ≠ 0) := fun h => h.2 (noTrap h.1).1
  have other : ¬(locs.any Loc.isReg = true ∧ gaChip (locs.headD ⟨0, false⟩).ga = s.chip) := fun h => (noTrap h.1).2 h.2
  simp only [State.loadScalar, again, if_neg aligned, if_neg other, clean, up]
  cases (s.gather s.cur 0 (s.needed s.winKey locs)).2
  · rfl
  · cases askFailed s.me.asks (s.farOf (locGas locs)) <;> rfl

end

/-! ### Runs of another device's addresses (18_fabric R336) -/

section
variable {s : State} {ga n : Nat}

theorem State.head_farRuns {a : Nat} {gas : List Nat} (far : (s.farDev a).isSome = true) :
    ∃ m rest, s.farRuns (a :: gas) = (a, m) :: rest := by
  rw [State.farRuns, List.foldr_cons, if_neg (by simpa using Option.isSome_iff_ne_none.mp far)]
  split
  · split
    · exact ⟨_, _, rfl⟩
    · exact ⟨_, _, rfl⟩
  · exact ⟨_, _, rfl⟩
/-- A range that is one run goes on in the next address, on the same page of 2^42. -/
theorem State.farRuns_tail (far : ∀ a ∈ gaRange ga (n + 2), (s.farDev a).isSome = true)
    (run : s.farRuns (gaRange ga (n + 2)) = [(ga, n + 2)]) :
    (ga + 1) % 2 ^ 42 ≠ 0 ∧ s.farRuns (gaRange (ga + 1) (n + 1)) = [(ga + 1, n + 1)] := by
  rw [gaRange_succ] at run far
  have here := far ga List.mem_cons_self
  have next : (s.farDev (ga + 1)).isSome = true := far (ga + 1) (List.mem_cons_of_mem _ (by rw [mem_gaRange]; omega))
  obtain ⟨m, rest, tail⟩ : ∃ m rest, s.farRuns (gaRange (ga + 1) (n + 1)) = (ga + 1, m) :: rest := by
    rw [gaRange_succ]; exact State.head_farRuns next
  rw [State.farRuns, List.foldr_cons, ← State.farRuns, if_neg (by simpa using Option.isSome_iff_ne_none.mp here), tail] at run
  dsimp only at run
  split at run
  · next merged =>
    rw [List.cons.injEq, Prod.mk.injEq] at run
    obtain ⟨⟨-, len⟩, rfl⟩ := run
    exact ⟨merged.2.2, by rw [tail, show m = n + 1 by omega]⟩
  · simp at run
/-- The addresses of one run lie on one page of 2^42. -/
theorem State.page_of_run (far : ∀ a ∈ gaRange ga n, (s.farDev a).isSome = true) (run : s.farRuns (gaRange ga n) = [(ga, n)]) :
    ∀ a ∈ gaRange ga n, a / 2 ^ 42 = ga / 2 ^ 42 := by
  induction n generalizing ga with
  | zero => exact fun a h => absurd (mem_gaRange.mp h) (by omega)
  | succ n ih =>
    intro a h
    cases n with
    | zero => rw [show a = ga by have := mem_gaRange.mp h; omega]
    | succ n =>
      obtain ⟨page, tail⟩ := State.farRuns_tail far run
      rw [gaRange_succ] at h far
      obtain rfl | h := List.mem_cons.mp h
      · rfl
      · rw [ih (fun b hb => far b (List.mem_cons_of_mem _ hb)) tail a h]
        omega
theorem State.farDev_eq_some {a dev : Nat} : s.farDev a = some dev ↔ gaHost a = false ∧ gaChip a ≠ s.chip ∧ gaChip a = dev := by
  unfold State.farDev
  split
  · next h => simp only [Bool.and_eq_true, Bool.not_eq_true', decide_eq_true_eq] at h; simp [h.1, h.2]
  · next h => simp only [Bool.and_eq_true, Bool.not_eq_true', decide_eq_true_eq] at h; simpa using fun a b => absurd ⟨a, b⟩ h
theorem State.failedHome_of_up {a : Nat} (up : s.peerFailed (gaChip a) = false) : s.failedHome a = none := by
  simp [State.failedHome, up]
theorem gaChip_of_page {a b : Nat} (page : a / 2 ^ 42 = b / 2 ^ 42) : gaChip a = gaChip b := by
  unfold gaChip; omega
theorem gaDie_ofNat (a : Nat) : gaDie (BitVec.ofNat 64 a).toNat = gaDie a := by
  rw [BitVec.toNat_ofNat]; unfold gaDie; omega
end

/-! ### Records sent (18_fabric R329) -/

/-- Hart h has sent a tracked record that nothing holds back. -/
structure State.Ships (h dev die : Nat) (ord : Bool) (r : Record) (s t : State) : Prop where
  frame : t = { s with harts := t.harts, outbox := t.outbox, conns := t.conns }
  others : ∀ k, k ≠ h → t.hart k = s.hart k
  own : t.hart h = { s.hart h with tracked := [⟨dev, r, ord, true, false⟩] }
  sent : Sent s t dev die r
  failed : ∀ c, t.peerFailed c = s.peerFailed c

section
variable {s : State} {h dev die : Nat} {ord sec : Bool} {r : Record}

theorem State.sendTo_eq : s.sendTo dev die ord sec r =
    { s with outbox := (s.sendTo dev die ord sec r).outbox, conns := (s.sendTo dev die ord sec r).conns } := by
  unfold State.sendTo
  split <;> rfl
theorem State.sent_sendTo : Sent s (s.sendTo dev die ord sec r) dev die r := by
  refine ⟨⟨recordClass ord r, sec, die, r⟩, rfl, rfl, ?_⟩
  unfold State.sendTo
  dsimp only
  split
  · rfl
  · simp [State.conn, Sparse.modify]
theorem State.peerFailed_sendTo (c : Nat) : (s.sendTo dev die ord sec r).peerFailed c = s.peerFailed c := by
  unfold State.sendTo State.peerFailed
  dsimp only
  split
  · rfl
  · rw [Sparse.modify, Sparse.get_set]
    split
    · next same => rw [same]
    · rfl
theorem State.pumpFrom_one : s.pumpFrom sec [] [⟨dev, r, ord, false, false⟩] =
    (s.sendTo dev (gaDie r.addr.toNat % 10) ord sec r, [⟨dev, r, ord, true, false⟩]) := rfl
theorem State.pump_one (one : (s.hart h).tracked = [⟨dev, r, ord, false, false⟩]) : s.pump h =
    (s.sendTo dev (gaDie r.addr.toNat % 10) ord (s.hart h).secure r).setHart h
      { s.hart h with tracked := [⟨dev, r, ord, true, false⟩] } := by
  rw [State.pump, one, State.pumpFrom_one]
  dsimp only
  rw [State.sendTo_eq]
  rfl
theorem State.ships_sendTracked (none : (s.hart h).tracked = []) (home : gaDie r.addr.toNat % 10 = die) :
    State.Ships h dev die ord r s (s.sendTracked h dev ord r) := by
  let u : State := s.setHart h { s.hart h with tracked := [⟨dev, r, ord, false, false⟩] }
  have mine : u.hart h = { s.hart h with tracked := [⟨dev, r, ord, false, false⟩] } := State.hart_setHart_same ..
  let v : State := u.sendTo dev (gaDie r.addr.toNat % 10) ord (u.hart h).secure r
  have sent : s.sendTracked h dev ord r = v.setHart h { u.hart h with tracked := [⟨dev, r, ord, true, false⟩] } := by
    have eq : (s.setHart h { s.hart h with tracked := (s.hart h).tracked ++ [⟨dev, r, ord, false, false⟩] }) = u := by
      rw [none]; rfl
    rw [State.sendTracked, eq]
    exact State.pump_one (congrArg Hart.tracked mine)
  have harts (k : Nat) : v.hart k = u.hart k := by
    show (u.sendTo ..).hart k = _
    rw [State.sendTo_eq]; rfl
  rw [sent]
  refine ⟨?_, fun k n => ?_, ?_, ?_, fun c => State.peerFailed_sendTo c⟩
  · show ({ u.sendTo dev (gaDie r.addr.toNat % 10) ord (u.hart h).secure r with harts := _ } : State) = _
    rw [State.sendTo_eq]
    rfl
  · rw [State.hart_setHart, if_neg n, harts, State.hart_setHart, if_neg n]
  · rw [State.hart_setHart_same, mine]
  · obtain ⟨o, rcd, die', there⟩ : Sent u v dev (gaDie r.addr.toNat % 10) r := State.sent_sendTo
    exact ⟨o, rcd, die'.trans home, there⟩
end

/-! ### Loads from another device (09_address R243) -/

section
variable {s : State} {need : Need} {va : Word} {ga n : Nat} {gas : List Nat}

/-- The request that a READ of n bytes begins. -/
def State.ask (s : State) (ga n : Nat) : Ask := ⟨0, s.newTag.2, gaChip ga, ga, n, false, false, none⟩
/-- The record of a READ of n bytes. -/
def State.readRecord (s : State) (ga n : Nat) : Record := s.hartRecord s.cur 0x01 ga n false s.newTag.2 []

theorem State.gather_asks (run : s.farRuns gas = [(ga, n)]) (none : s.me.asks = []) (idle : s.me.tracked = [])
    (up : s.peerFailed (gaChip ga) = false) :
    ∃ u, State.Ships s.cur (gaChip ga) (gaDie ga % 10) false (s.readRecord ga n) s.newTag.1 u ∧
      s.gather s.cur 0 gas = (u.setHart s.cur { u.hart s.cur with asks := [s.ask ga n] }, false) := by
  have ships : State.Ships s.cur (gaChip ga) (gaDie ga % 10) false (s.readRecord ga n) s.newTag.1
      (s.newTag.1.sendTracked s.cur (gaChip ga) false (s.readRecord ga n)) :=
    State.ships_sendTracked idle (congrArg (· % 10) (gaDie_ofNat ga))
  refine ⟨_, ships, ?_⟩
  have asked : s.sendAsk s.cur 0 ga n .none =
      (s.newTag.1.sendTracked s.cur (gaChip ga) false (s.readRecord ga n), s.ask ga n) := by
    have failed := (ships.failed (gaChip ga)).trans up
    rw [State.readRecord] at failed
    simpa [State.sendAsk, State.ask, State.readRecord] using failed
  have asks : ((s.newTag.1.sendTracked s.cur (gaChip ga) false (s.readRecord ga n)).hart s.cur).asks = [] := by
    rw [ships.own]; exact none
  have none : (s.hart s.cur).asks = [] := none
  simp [State.gather, run, asked, none, askOf, asks, State.ask, Ask.settled]
/-- The state in which the hart waits for what it has asked. -/
def State.waitsAccess (s : State) (asks : List Ask) (locs : List Loc) (va : Word) : State :=
  ((s.withMe fun t => { t with asks := asks }).awaitAccess locs va).1.halt (.wait va)
theorem State.onlyMe_waitsAccess (s : State) (asks : List Ask) (locs : List Loc) (va : Word) :
    OnlyMe s (s.waitsAccess asks locs va) :=
  (onlyMe_withMe s fun t => { t with asks := asks }).trans ((onlyMe_withMe _ fun t => { t with access := some locs }).trans
    (onlyMe_withMe _ fun t => { t with stalled := some va }))
theorem State.me_waitsAccess (s : State) (asks : List Ask) (locs : List Loc) (va : Word) : (s.waitsAccess asks locs va).me =
    { s.me with asks := asks, access := some locs, stalled := some va } := by
  show (State.withMe (State.withMe (s.withMe fun t => { t with asks := asks }) fun t => { t with access := some locs })
    fun t => { t with stalled := some va }).me = _
  rw [State.me_withMe, State.me_withMe, State.me_withMe]
theorem State.Ships.cur {h dev die : Nat} {ord : Bool} {r : Record} {t : State} (ships : State.Ships h dev die ord r s t) :
    t.cur = s.cur := by rw [ships.frame]
theorem State.gather_answered {tag : BitVec 32} {dev : Nat} {failed : Bool} {ans : Option (List Byte)}
    (run : s.farRuns gas = [(ga, n)]) (asked : s.me.asks = [⟨0, tag, dev, ga, n, false, failed, ans⟩])
    (settled : (failed || ans.isSome) = true) : s.gather s.cur 0 gas = (s, true) := by
  have asked : (s.hart s.cur).asks = _ := asked
  simp [State.gather, run, asked, askOf, Ask.settled, settled]

theorem askByte_answered {tag : BitVec 32} {dev i : Nat} {failed : Bool} {bs : List Byte} (h : i < n) :
    askByte [⟨0, tag, dev, ga, n, false, failed, some bs⟩] (ga + i) = bs[i]? := by
  simp [askByte, h]
theorem askFailed_answered {tag : BitVec 32} {dev : Nat} {ans : Option (List Byte)} :
    askFailed [⟨0, tag, dev, ga, n, false, false, ans⟩] gas = none := by
  simp [askFailed]
theorem askFailed_failed {tag : BitVec 32} {dev : Nat} {ans : Option (List Byte)} (first : ga ∈ gas) (pos : 0 < n) :
    askFailed [⟨0, tag, dev, ga, n, false, true, ans⟩] gas = some dev := by
  have inside : (gas.any fun g => decide (ga ≤ g ∧ g < ga + n)) = true :=
    List.any_eq_true.mpr ⟨ga, first, by simpa using pos⟩
  rw [askFailed, List.find?_cons_of_pos (by simpa using inside)]
  rfl
theorem State.farOf_far (far : ∀ a ∈ gas, (s.farDev a).isSome = true) : s.farOf (locGas (homeBytes gas)) = gas := by
  rw [State.farOf, locGas, homeBytes, List.map_map]
  exact (List.filter_eq_self.mpr (by simpa using far)).trans (List.map_id' gas)
/-- What answers give for bytes that are all another device's. -/
theorem State.loadAtWith_far {far : Nat → Option Byte} {win : Nat} (away : ∀ a ∈ gas, (s.farDev a).isSome = true) :
    s.loadAtWith far win (homeBytes gas) = bytesNat (gas.map fun a => (far a).getD 0) := by
  induction gas with
  | nil => rfl
  | cons a as ih =>
    have here := away a List.mem_cons_self
    rw [homeBytes, List.map_cons, ← homeBytes, State.loadAtWith, ih fun a h => away a (List.mem_cons_of_mem _ h)]
    simp [State.loadByteWith, bytesNat, Option.isSome_iff_ne_none.mp here]
theorem bytesNat_answered {tag : BitVec 32} {dev : Nat} {bs : List Byte} (len : bs.length = n) :
    (gaRange ga n).map (fun a => (askByte [⟨0, tag, dev, ga, n, false, false, some bs⟩] a).getD 0) = bs := by
  refine List.ext_getElem (by simp [gaRange, len]) fun i h h' => ?_
  have here : (gaRange ga n)[i]'(by simpa using h) = ga + i := by simp [gaRange]
  rw [List.getElem_map, here, askByte_answered (len ▸ h'), List.getElem?_eq_getElem h', Option.getD_some]
end

/-! ### The load instructions -/

/-- A load instruction with its need, its address, its size, its extension and its destination. -/
def Loads (s : State) (i : Instr) (need : Need) (va : Word) (n : Nat) (sg : Bool) (d : BitVec 5) : Prop :=
  (∃ f : LoadOff, need = .rd ∧ va = s.me.xr f.a + BitVec.ofInt 64 f.off.toInt ∧ d = f.d ∧
    (i, n, sg) ∈ [(Instr.ldb f, 1, false), (.ldh f, 2, false), (.ldw f, 4, false), (.ldd f, 8, false),
      (.ldbs f, 1, true), (.ldhs f, 2, true), (.ldws f, 4, true)]) ∨
  ∃ f : ROff20, need = .literal ∧ d = f.d ∧ i = .ldpc f ∧ n = 8 ∧ sg = false ∧
    va = s.me.pc - BitVec.ofNat 64 (s.me.pc.toNat % 8) + BitVec.ofInt 64 (8 * f.off.toInt)

/-- An address with its lowest bits cleared. -/
theorem and_not_low (a : Word) (k : Nat) (small : k ≤ 64) :
    a &&& ~~~ BitVec.ofNat 64 (2 ^ k - 1) = a - BitVec.ofNat 64 (a.toNat % 2 ^ k) := by
  have low : a &&& BitVec.ofNat 64 (2 ^ k - 1) = BitVec.ofNat 64 (a.toNat % 2 ^ k) := by
    have top : 2 ^ k ≤ 2 ^ 64 := Nat.pow_le_pow_right (by decide) small
    have pos : 0 < 2 ^ k := Nat.two_pow_pos k
    have rest := Nat.mod_lt a.toNat pos
    apply BitVec.eq_of_toNat_eq
    rw [BitVec.toNat_and, BitVec.toNat_ofNat, BitVec.toNat_ofNat, Nat.mod_eq_of_lt (by omega), Nat.and_two_pow_sub_one_eq_mod,
      Nat.mod_eq_of_lt (rest.trans_le top)]
  rw [← low]
  generalize BitVec.ofNat 64 (2 ^ k - 1) = m
  have apart : (a &&& ~~~ m) &&& (a &&& m) = 0#64 := by
    ext i h
    simp only [BitVec.getElem_and, BitVec.getElem_not]
    cases m[i] <;> simp
  rw [eq_sub_iff_add_eq, BitVec.add_eq_or_of_and_eq_zero _ _ apart]
  ext i h
  simp only [BitVec.getElem_or, BitVec.getElem_and, BitVec.getElem_not]
  cases m[i] <;> simp
theorem exec_load {s : State} {i : Instr} {need : Need} {va : Word} {n : Nat} {sg : Bool} {d : BitVec 5}
    (load : Loads s i need va n sg d) :
    exec i s = .next (s.inOrder va (loaded d (extendBytes sg n) (s.loadScalar need va n))) := by
  obtain ⟨f, rfl, rfl, rfl, h⟩ | ⟨f, rfl, rfl, rfl, rfl, rfl, rfl⟩ := load
  · simp only [List.mem_cons, Prod.mk.injEq, List.not_mem_nil, or_false] at h
    obtain ⟨rfl, rfl, rfl⟩ | ⟨rfl, rfl, rfl⟩ | ⟨rfl, rfl, rfl⟩ | ⟨rfl, rfl, rfl⟩ | ⟨rfl, rfl, rfl⟩ | ⟨rfl, rfl, rfl⟩ |
      ⟨rfl, rfl, rfl⟩ := h <;> rfl
  · have address : (s.me.pc &&& ~~~ 7#64) + (sext f.off <<< 3) =
        s.me.pc - BitVec.ofNat 64 (s.me.pc.toNat % 8) + BitVec.ofInt 64 (8 * f.off.toInt) := by
      rw [show ~~~ 7#64 = ~~~ BitVec.ofNat 64 (2 ^ 3 - 1) from rfl, and_not_low _ 3 (by decide), sext_shiftLeft, Int.mul_comm]
      rfl
    show execLdpc f s = _
    rw [execLdpc, address]
    rfl
theorem Loads.size {s : State} {i : Instr} {need : Need} {va : Word} {n : Nat} {sg : Bool} {d : BitVec 5}
    (load : Loads s i need va n sg d) : 0 < n := by
  obtain ⟨f, -, -, -, h⟩ | ⟨f, -, -, -, rfl, -⟩ := load
  · simp only [List.mem_cons, Prod.mk.injEq, List.not_mem_nil, or_false] at h
    omega
  · decide

section
variable {s : State} {far : Nat → Option Byte} {win : Nat} {locs : List Loc} {ga n : Nat}

theorem State.keepWindowsWith_eq : s.keepWindowsWith far win locs =
    { s with windows := (s.keepWindowsWith far win locs).windows, fresh := (s.keepWindowsWith far win locs).fresh } := by
  unfold State.keepWindowsWith
  split <;> rfl
theorem State.loadAtWith_near (near : ∀ l ∈ locs, s.farDev l.ga = none) : s.loadAtWith far win locs = s.loadAt win locs := by
  induction locs with
  | nil => rfl
  | cons l locs ih =>
    have here := near l List.mem_cons_self
    have rest := ih fun l h => near l (List.mem_cons_of_mem _ h)
    rw [State.loadAt] at rest ⊢
    rw [State.loadAtWith, rest, State.loadAtWith, State.loadByteWith, State.loadByteWith, here]
    rfl
theorem headD_homeBytes (pos : 0 < n) : (homeBytes (gaRange ga n)).headD ⟨0, false⟩ = ⟨ga, false⟩ := by
  obtain ⟨m, rfl⟩ : ∃ m, n = m + 1 := ⟨n - 1, by omega⟩
  rw [gaRange_succ]
  rfl
theorem first_mem_gaRange (pos : 0 < n) : ga ∈ gaRange ga n := by rw [mem_gaRange]; omega
end

section
variable {s : State} {i : Instr} {need : Need} {va : Word} {n : Nat} {sg : Bool} {d : BitVec 5}

/-- What a load whose operand is read comes to. -/
theorem exec_load_of_ok {t : State} {v : Nat} (load : Loads s i need va n sg d) (free : Unhindered s)
    (read : s.loadScalar need va n = .ok (t, v)) : exec i s = .next (t.withMe fun x => x.result d (extendBytes sg n v)) := by
  rw [exec_load load, State.inOrder_free free, read]
  rfl
/-- What a load whose operand is not read comes to. -/
theorem exec_load_of_error {t : State} {e : Stop} (load : Loads s i need va n sg d) (free : Unhindered s)
    (read : s.loadScalar need va n = .error (t, e)) : exec i s = .next (t.halt e) := by
  rw [exec_load load, State.inOrder_free free, read]
  rfl
end
end Sys2Proof.Machine
open Sys2Proof Sys2Proof.Machine

/-- Settles O4, by what the load's bytes are. -/
theorem loadsReadMemory : Obligations.LoadsReadMemory := by
  unfold Obligations.LoadsReadMemory
  intro s i need va n sg d out load eq
  have load : Loads s i need va n sg d := load
  have pos := load.size
  obtain rfl : out = extendBytes sg n := eq.trans (funext fun v => (extendBytes_eq sg n v pos).symm)
  refine ⟨held_inOrder (exec_load load), fun free => ⟨fun as plain => ?plain, fun locs first range mem => ?window,
    fun ga first device chip kind even range => ?register, fun ga dev locs home even lay run away => ⟨?asks, fun again => ⟨?answer, ?failed⟩⟩⟩⟩
  case plain =>
    obtain ⟨range, mem⟩ := plain.memory
    have near : ∀ a ∈ as, s.farDev a = none := fun a h => (plain.2.2 a h).2.2
    have read := State.loadScalar_near ((State.accessRange_first plain.1).trans range) mem
    rw [State.keepWindowsWith_homeBytes, State.loadAtWith_homeBytes near] at read
    rw [exec_load_of_ok load free read]
    exact writes_result s d _
  case window =>
    have read := State.loadScalar_near ((State.accessRange_first first).trans range) mem
    rw [State.loadAtWith_near fun l h => (mem l h).2.2] at read
    have kept : (s.keepWindowsWith (askByte s.me.asks) s.winKey locs).me = s.me := by rw [State.keepWindowsWith_eq]; rfl
    obtain ⟨t, run, only, regs, pc, rd⟩ := writes_result (s.keepWindowsWith (askByte s.me.asks) s.winKey locs) d
      (extendBytes sg n (s.loadAt s.winKey locs))
    rw [kept] at regs pc rd
    refine ⟨t, (exec_load_of_ok load free read).trans run, ⟨?_, fun h other => ?_⟩, regs, pc, rd⟩
    · rw [only.1, State.keepWindowsWith_eq]
      rfl
    · rw [only.2 h (by rw [State.keepWindowsWith_eq]; exact other), State.keepWindowsWith_eq]
      rfl
  case register =>
    have again : s.accessRange need va n = .ok (homeBytes (gaRange ga n)) := (State.accessRange_first first).trans range
    have reg : (homeBytes (gaRange ga n)).any Loc.isReg = true :=
      List.any_eq_true.mpr ⟨⟨ga, false⟩, List.mem_map.mpr ⟨ga, first_mem_gaRange pos, rfl⟩, isReg_eq_true.mpr ⟨device, kind⟩⟩
    have read := State.loadScalar_reg again reg even (by rw [headD_homeBytes pos]; exact chip)
    rw [headD_homeBytes pos] at read
    rw [exec_load_of_ok load free read]
    exact writes_result s d _
  all_goals
    obtain ⟨device, other, rfl⟩ := State.farDev_eq_some.mp home
    have far : ∀ a ∈ gaRange ga n, (s.farDev a).isSome = true := fun a h => (away a h).1
    have clean : ∀ l ∈ homeBytes (gaRange ga n), s.poisoned l.ga = false := fun l h => by
      obtain ⟨a, isIn, rfl⟩ := List.mem_map.mp h
      exact (away a isIn).2
    have noTrap : (homeBytes (gaRange ga n)).any Loc.isReg = true →
        va.toNat % n = 0 ∧ gaChip ((homeBytes (gaRange ga n)).headD ⟨0, false⟩).ga ≠ s.chip :=
      fun _ => ⟨even, by rw [headD_homeBytes pos]; exact other⟩
    obtain rfl : locs = homeBytes (gaRange ga n) := lay
  case asks =>
    intro first range up none idle
    have free_home : ∀ l ∈ homeBytes (gaRange ga n), s.failedHome l.ga = .none := fun l h => by
      obtain ⟨a, isIn, rfl⟩ := List.mem_map.mp h
      exact State.failedHome_of_up (by rw [gaChip_of_page (State.page_of_run far run a isIn)]; exact up)
    have read := State.loadScalar_far ((State.accessRange_first first).trans range) noTrap clean fun _ => free_home
    obtain ⟨u, ships, asked⟩ := State.gather_asks run none idle up
    have cur : u.cur = s.cur := ships.cur
    rw [State.needed_homeBytes, asked, if_neg (by simp)] at read
    have run : exec i s = .next (u.waitsAccess [s.ask ga n] (homeBytes (gaRange ga n)) va) := by
      rw [State.waitsAccess, State.withMe, State.me, cur]
      exact exec_load_of_error load free read
    have only := State.onlyMe_waitsAccess u [s.ask ga n] (homeBytes (gaRange ga n)) va
    have own : u.me = { s.me with tracked := [⟨gaChip ga, s.readRecord ga n, false, true, false⟩] } := by
      rw [State.me, cur]; exact ships.own
    have me := State.me_waitsAccess u [s.ask ga n] (homeBytes (gaRange ga n)) va
    rw [own] at me
    refine ⟨_, s.readRecord ga n, run, ?_, fun h n => ?_, ?_, rfl, rfl, rfl, ⟨s.ask ga n, by rw [me], rfl, rfl⟩, ?_⟩
    · rw [only.mem, ships.frame]; rfl
    · rw [only.2 h (by rw [cur]; exact n)]; exact ships.others h n
    · rw [only.1]; exact ships.sent
    · rw [me]
  case answer =>
    intro tag bs len asked
    have read := State.loadScalar_far (need := need) (State.accessRange_again again) noTrap clean (by simp [again])
    rw [State.needed_homeBytes, State.gather_answered run asked rfl, asked, askFailed_answered, State.keepWindowsWith_homeBytes,
      State.loadAtWith_far far, bytesNat_answered len] at read
    rw [exec_load_of_ok load free read]
    exact writes_result s d _
  case failed =>
    intro tag asked
    have read := State.loadScalar_far (need := need) (State.accessRange_again again) noTrap clean (by simp [again])
    rw [State.needed_homeBytes, State.gather_answered run asked rfl, asked, State.farOf_far far,
      askFailed_failed (first_mem_gaRange pos) pos] at read
    rw [exec_load_of_ok load free read]
    exact writes_result s d _
end

section
/-!
SUPPORT. Scalar stores and atomics (04_scalar R105-R112) and the faults of scalar accesses (O5 to O7).
-/

namespace Sys2Proof.Machine

/-! ### Records counted for a release (06_memory_isa R177) -/

/-- Hart h has had records counted for its next release, and nothing else has changed. -/
structure State.Counted (h : Nat) (s t : State) : Prop where
  frame : t = { s with harts := t.harts }
  others : ∀ k, k ≠ h → t.hart k = s.hart k
  own : t.hart h = { s.hart h with unsealed := (t.hart h).unsealed }

section
variable {s t u : State} {h : Nat}

theorem State.Counted.refl : State.Counted h s s := ⟨rfl, fun _ _ => rfl, rfl⟩
theorem State.Counted.trans (a : State.Counted h s t) (b : State.Counted h t u) : State.Counted h s u where
  frame := by rw [b.frame, a.frame]
  others k n := (b.others k n).trans (a.others k n)
  own := by rw [b.own, a.own]
theorem State.counted_countSent (d : Nat) : State.Counted h s (s.setHart h ((s.hart h).countSent d)) where
  frame := rfl
  others k n := by rw [State.hart_setHart, if_neg n]
  own := by rw [State.hart_setHart_same]; rfl
theorem State.counted_countLocal (gas : List Nat) : State.Counted h s (s.countLocal h gas) := by
  unfold State.countLocal
  induction ((gas.filter fun a => (s.farDev a).isNone).map (s.destination h)).dedup generalizing s with
  | nil => exact .refl
  | cons d l ih => exact (State.counted_countSent d).trans ih
end

/-! ### Stores of bytes -/

section
variable {s : State} {as : List Nat} {ga n v : Nat}

theorem locGas_homeBytes : locGas (homeBytes as) = as := by
  rw [locGas, homeBytes, List.map_map]
  exact List.map_id' as
/-- Bytes here or with the host are written at once. -/
theorem State.storeBytes_near (near : ∀ a ∈ as, s.farDev a = none) (h v : Nat) :
    s.storeBytes h (homeBytes as) v = (s.countLocal h (as.take 1)).writeAt as v := by
  have all : (homeBytes as).filter (fun l => (s.farDev l.ga).isNone) = homeBytes as := by
    refine List.filter_eq_self.mpr fun l isIn => ?_
    obtain ⟨a, here, rfl⟩ := List.mem_map.mp isIn
    simp [near a here]
  rw [State.storeBytes, all, locGas_homeBytes]
  exact if_pos rfl
/-- What a store does to the state: its bytes are written, and its records counted. -/
theorem State.stored_storeBytes (near : ∀ a ∈ as, s.farDev a = none) (h v : Nat) :
    StoredAt s (s.storeBytes h (homeBytes as) v) as v ∧
      (s.storeBytes h (homeBytes as) v) = { s with
        mem := (s.storeBytes h (homeBytes as) v).mem
        harts := (s.storeBytes h (homeBytes as) v).harts } ∧
      (∀ k, k ≠ h → (s.storeBytes h (homeBytes as) v).hart k = s.hart k) ∧
      (s.storeBytes h (homeBytes as) v).hart h =
        { s.hart h with unsealed := ((s.storeBytes h (homeBytes as) v).hart h).unsealed } := by
  rw [State.storeBytes_near near]
  have counted : State.Counted h s (s.countLocal h (as.take 1)) := State.counted_countLocal _
  obtain ⟨frame, others, own⟩ := counted
  have canon : (s.countLocal h (as.take 1)).canon = s.canon := by rw [frame]; rfl
  have mem : (s.countLocal h (as.take 1)).mem = s.mem := by rw [frame]
  have stored := State.storedAt_writeAt as (s.countLocal h (as.take 1)) v
  refine ⟨⟨fun i hi last => stored.1 i hi (by rw [canon]; exact last), fun a apart => ?_⟩, ?_, fun k n => ?_, ?_⟩
  · rw [stored.2 a (by rw [canon]; exact apart), State.readByte, State.readByte, canon, mem]
  · rw [State.writeAt_eq, frame]
  · rw [State.hart_writeAt, others k n]
  · rw [State.hart_writeAt]
    exact own
/-- The bytes of a number beyond those that are stored make no difference. -/
theorem StoredAt.of_mod {t : State} (stored : StoredAt s t as (v % 2 ^ (8 * n))) (len : as.length ≤ n) : StoredAt s t as v := by
  refine ⟨fun i hi last => (stored.1 i hi last).trans ?_, stored.2⟩
  apply BitVec.eq_of_toNat_eq
  have split : 2 ^ (8 * n) = 256 ^ i * (256 * 256 ^ (n - i - 1)) := by
    rw [← Nat.pow_succ', ← pow_add, show i + (n - i - 1).succ = n by omega, show (256 : Nat) = 2 ^ 8 from rfl, ← pow_mul]
  rw [BitVec.toNat_ofNat, BitVec.toNat_ofNat, split, Nat.mod_mul_right_div_self]
  exact Nat.mod_mod_of_dvd _ (dvd_mul_right 256 _)
end

/-! ### Stores to another device (18_fabric R336) -/

theorem insertBy_last {a : Nat} : ∀ {l : List Nat}, (∀ b ∈ l, b < a) → insertBy (fun a b => decide (a < b)) a l = l ++ [a]
  | [], _ => rfl
  | b :: l, above => by
    have later : ¬ a < b := by have := above b List.mem_cons_self; omega
    rw [insertBy, if_neg (by simpa using later), insertBy_last fun c h => above c (List.mem_cons_of_mem _ h)]
    rfl
theorem foldl_insertBy_gaRange (n : Nat) : ∀ (ga : Nat) (l : List Nat), (∀ b ∈ l, b < ga) →
    (gaRange ga n).foldl (fun l a => insertBy (fun a b => decide (a < b)) a l) l = l ++ gaRange ga n := by
  induction n with
  | zero => intro ga l _; simp [gaRange]
  | succ n ih =>
    intro ga l below
    rw [gaRange_succ, List.foldl_cons, insertBy_last below, ih (ga + 1) (l ++ [ga]), List.append_assoc]
    · rfl
    · intro b h
      obtain h | h := List.mem_append.mp h
      · have := below b h; omega
      · rw [List.mem_singleton.mp h]; omega
/-- A range on one page is one span. -/
theorem spans_gaRange {ga n : Nat} (pos : 0 < n) (short : n ≤ 256) (page : ∀ a ∈ gaRange ga n, a / 2 ^ 42 = ga / 2 ^ 42) :
    spans (gaRange ga n) = [(ga, n)] := by
  rw [spans, foldl_insertBy_gaRange n ga [] (by simp), List.nil_append]
  induction n generalizing ga with
  | zero => omega
  | succ n ih =>
    rw [gaRange_succ] at page ⊢
    cases n with
    | zero => rfl
    | succ n =>
      have next : (ga + 1) / 2 ^ 42 = ga / 2 ^ 42 := page (ga + 1) (List.mem_cons_of_mem _ (first_mem_gaRange (by omega)))
      rw [List.foldr_cons, ih (by omega) (by omega) fun a h => (page a (List.mem_cons_of_mem _ h)).trans next.symm]
      dsimp only
      rw [if_neg (by omega), if_pos ⟨next.symm, .inl ⟨rfl, by omega⟩⟩]
      simp only [List.cons.injEq, Prod.mk.injEq, and_true, true_and]
      omega

/-- The bytes of a store to another device. -/
def farBytes (ga n v : Nat) : List PendByte := (List.range n).map fun i => ⟨ga + i, BitVec.ofNat 8 (v / 256 ^ i), 0xFF⟩

section
variable {s : State} {ga n : Nat} (v : Nat)

theorem zipWith_farBytes : (gaRange ga n).zipWith (fun a b => (⟨a, b, 0xFF⟩ : PendByte)) (natBytes n v) = farBytes ga n v := by
  rw [gaRange, natBytes, List.zipWith_map, List.zipWith_self]
  rfl
theorem addr_farBytes : (farBytes ga n v).map (·.addr) = gaRange ga n := by
  rw [farBytes, List.map_map]
  rfl
theorem find_farBytes {i : Nat} (h : i < n) :
    (farBytes ga n v).find? (fun b => decide (b.addr = ga + i)) = some ⟨ga + i, BitVec.ofNat 8 (v / 256 ^ i), 0xFF⟩ := by
  rw [List.find?_eq_some_iff_getElem]
  refine ⟨by simp, i, by simpa [farBytes] using h, by simp [farBytes], fun j below => ?_⟩
  simp [farBytes]
  omega
theorem mine_farBytes : (gaRange ga n).map (fun a => ((farBytes ga n v).find? fun b => decide (b.addr = a)).getD ⟨a, 0, 0⟩) =
    farBytes ga n v := by
  rw [gaRange, List.map_map, farBytes]
  refine List.map_congr_left fun i h => ?_
  show ((farBytes ga n v).find? fun b => decide (b.addr = ga + i)).getD _ = _
  rw [find_farBytes v (List.mem_range.mp h)]
  rfl

/-- The record of a tracked WRITE of n bytes. -/
def State.writeRecord (s : State) (ga n v : Nat) : Record := s.hartRecord s.cur 0x02 ga n true s.newTag.2 (natBytes n v)
/-- The executing hart with a record for a device counted. -/
def State.tagCounted (s : State) (c : Nat) : State := s.newTag.1.setHart s.cur (s.me.countSent (16 + c))

theorem State.sendFar_one (pos : 0 < n) (short : n ≤ 128) (far : ∀ a ∈ gaRange ga n, (s.farDev a).isSome = true)
    (page : ∀ a ∈ gaRange ga n, a / 2 ^ 42 = ga / 2 ^ 42) (up : s.peerFailed (gaChip ga) = false) :
    (s.sendFar s.cur false true (farBytes ga n v)).1 =
      (s.tagCounted (gaChip ga)).sendTracked s.cur (gaChip ga) false (s.writeRecord ga n v) := by
  have all : (farBytes ga n v).filter (fun b => (s.farDev b.addr).isSome) = farBytes ga n v := by
    refine List.filter_eq_self.mpr fun b isIn => far b.addr ?_
    rw [← addr_farBytes v]
    exact List.mem_map_of_mem isIn
  have one : spans ((farBytes ga n v).map (·.addr)) = [(ga, n)] := by
    rw [addr_farBytes]; exact spans_gaRange pos (by omega) page
  have whole : cutSpan (farBytes ga n v) (ga, n) = [(ga, n)] := if_pos (by simp [spanFits, short])
  have masks : ((farBytes ga n v).map (·.msk)).all (· = 0xFF) = true := by simp [farBytes]
  have vals : (farBytes ga n v).map (·.val) = natBytes n v := by rw [farBytes, List.map_map]; rfl
  rw [State.sendFar, all, one]
  simp only [List.flatMap_cons, List.flatMap_nil, List.append_nil, whole, List.foldl_cons, List.foldl_nil, mine_farBytes, masks, vals,
    up, Bool.false_eq_true, if_false, if_true]
  rfl
/-- Bytes of another device are sent to it in one record. -/
theorem State.storeBytes_far (pos : 0 < n) (short : n ≤ 128) (far : ∀ a ∈ gaRange ga n, (s.farDev a).isSome = true)
    (page : ∀ a ∈ gaRange ga n, a / 2 ^ 42 = ga / 2 ^ 42) (up : s.peerFailed (gaChip ga) = false) :
    s.storeBytes s.cur (homeBytes (gaRange ga n)) v =
      (s.tagCounted (gaChip ga)).sendTracked s.cur (gaChip ga) false (s.writeRecord ga n v) := by
  have none : (homeBytes (gaRange ga n)).filter (fun l => (s.farDev l.ga).isNone) = [] := by
    refine List.filter_eq_nil_iff.mpr fun l isIn => ?_
    obtain ⟨a, here, rfl⟩ := List.mem_map.mp isIn
    simpa using Option.isSome_iff_ne_none.mp (far a here)
  have len : (homeBytes (gaRange ga n)).length = n := by simp [homeBytes, length_gaRange]
  have noNear : (farBytes ga n v).filter (fun b => (s.farDev b.addr).isNone) = [] := by
    refine List.filter_eq_nil_iff.mpr fun b isIn => ?_
    have there := far b.addr (by rw [← addr_farBytes v]; exact List.mem_map_of_mem isIn)
    simpa using Option.isSome_iff_ne_none.mp there
  have still : s.countLocal s.cur [] = s := rfl
  rw [State.storeBytes, none, len, locGas_homeBytes, zipWith_farBytes]
  rw [if_neg (by simp; omega)]
  dsimp only
  rw [show locGas [] = [] from rfl, still, noNear]
  exact State.sendFar_one v pos short far page up
end

/-! ### The store instructions -/

/-- What a store comes to once its bytes have been written. -/
def stored : Except (State × Stop) State → State
  | .error (s, e) => s.halt e
  | .ok s => s.withMe Hart.advance
/-- A store instruction with its address, its size and the register that it stores. -/
def Stores (s : State) (i : Instr) (va : Word) (n : Nat) (b : BitVec 5) : Prop :=
  ∃ f : StoreOff, va = s.me.xr f.a + BitVec.ofInt 64 f.off.toInt ∧ b = f.b ∧
    (i, n) ∈ [(Instr.stb f, 1), (.sth f, 2), (.stw f, 4), (.std f, 8)]

section
variable {s : State} {i : Instr} {va : Word} {n v : Nat} {b : BitVec 5} {locs : List Loc}

theorem exec_store (store : Stores s i va n b) :
    exec i s = .next (s.inOrder va (stored (s.storeScalar va n ((s.me.xr b).toNat % 2 ^ (8 * n))))) := by
  obtain ⟨f, rfl, rfl, h⟩ := store
  simp only [List.mem_cons, Prod.mk.injEq, List.not_mem_nil, or_false] at h
  obtain ⟨rfl, rfl⟩ | ⟨rfl, rfl⟩ | ⟨rfl, rfl⟩ | ⟨rfl, rfl⟩ := h <;> rfl
theorem Stores.size (store : Stores s i va n b) : 0 < n ∧ n ≤ 8 := by
  obtain ⟨f, -, -, h⟩ := store
  simp only [List.mem_cons, Prod.mk.injEq, List.not_mem_nil, or_false] at h
  omega
/-- What a store that is performed comes to. -/
theorem exec_store_of_ok {t : State} (store : Stores s i va n b) (free : Unhindered s)
    (done : s.storeScalar va n ((s.me.xr b).toNat % 2 ^ (8 * n)) = .ok t) : exec i s = .next (t.withMe Hart.advance) := by
  rw [exec_store store, State.inOrder_free free, done]
  rfl
/-- What a store that is not performed comes to. -/
theorem exec_store_of_error {t : State} {e : Stop} (store : Stores s i va n b) (free : Unhindered s)
    (refused : s.storeScalar va n ((s.me.xr b).toNat % 2 ^ (8 * n)) = .error (t, e)) : exec i s = .next (t.halt e) := by
  rw [exec_store store, State.inOrder_free free, refused]
  rfl

variable (range : s.checkRange (s.party s.cur) .wr false va n = .ok locs)
include range

theorem State.storeScalar_unaligned (reg : locs.any Loc.isReg = true) (odd : va.toNat % n ≠ 0) :
    s.storeScalar va n v = .error (s, .trap causeAlign va) := by
  simp [State.storeScalar, range, reg, odd]
theorem State.storeScalar_reg (reg : locs.any Loc.isReg = true) (even : va.toNat % n = 0)
    (own : gaChip (locs.headD ⟨0, false⟩).ga = s.chip) : s.storeScalar va n v =
      .ok (s.regStore (s.me.secure && s.me.priv = .supervisor) (!s.me.secure) (locs.headD ⟨0, false⟩).ga n v) := by
  simp only [State.storeScalar, range, reg, even, own, ne_eq, not_true_eq_false, and_false, and_self, if_false, if_true]
theorem State.storeScalar_poisoned {w : Word} (mem : locs.any Loc.isReg = false) (bad : s.eccByte va locs = some w) :
    s.storeScalar va n v = .error (s.logError (errorUnit (locs.headD ⟨0, false⟩).ga) s.cur, .trap causeEcc w) := by
  simp [State.storeScalar, range, mem, bad]
theorem State.storeScalar_bytes
    (noTrap : locs.any Loc.isReg = true → va.toNat % n = 0 ∧ gaChip (locs.headD ⟨0, false⟩).ga ≠ s.chip)
    (clean : ∀ l ∈ locs, s.poisoned l.ga = false) : s.storeScalar va n v = .ok (s.storeBytes s.cur locs v) := by
  have clean : s.eccByte va locs = none := State.eccByte_of_clean clean
  have aligned : ¬(locs.any Loc.isReg = true ∧ va.toNat % n ≠ 0) := fun h => h.2 (noTrap h.1).1
  have other : ¬(locs.any Loc.isReg = true ∧ gaChip (locs.headD ⟨0, false⟩).ga = s.chip) := fun h => (noTrap h.1).2 h.2
  simp only [State.storeScalar, range, if_neg aligned, if_neg other, clean]
end

end Sys2Proof.Machine
open Sys2Proof Sys2Proof.Machine

/-- Settles O5, by what the store's bytes are. -/
theorem storesWriteOnlyTheirBytes : Obligations.StoresWriteOnlyTheirBytes := by
  unfold Obligations.StoresWriteOnlyTheirBytes
  intro p isIn f s va address
  have store : Stores s (p.1 f) va p.2 f.b := by
    refine ⟨f, address, rfl, ?_⟩
    simp only [List.mem_cons, List.not_mem_nil, or_false] at isIn
    obtain rfl | rfl | rfl | rfl := isIn <;> simp
  obtain ⟨i, n⟩ := p
  obtain ⟨pos, short⟩ := store.size
  refine ⟨held_inOrder (exec_store store), fun free => ⟨fun as plain => ?plain, fun ga device chip kind even range => ?register,
    fun ga dev home up even range away run idle => ?far⟩⟩
  case plain =>
    obtain ⟨range, mem⟩ := plain.memory
    have near : ∀ a ∈ as, s.farDev a = none := fun a h => (plain.2.2 a h).2.2
    have len : as.length = n := by simpa [homeBytes] using State.length_checkRange range
    have noReg := noReg_of fun l h => (mem l h).1
    have done := State.storeScalar_bytes range (v := (s.me.xr f.b).toNat % 2 ^ (8 * n)) (by simp [noReg]) fun l h => (mem l h).2.1
    have effect := State.stored_storeBytes near s.cur ((s.me.xr f.b).toNat % 2 ^ (8 * n))
    generalize s.storeBytes s.cur (homeBytes as) ((s.me.xr f.b).toNat % 2 ^ (8 * n)) = t at done effect
    obtain ⟨bytes, frame, others, own⟩ := effect
    have cur : t.cur = s.cur := by rw [frame]
    have me : t.me = { s.me with unsealed := t.me.unsealed } := by rw [State.me, cur]; exact own
    refine ⟨_, exec_store_of_ok store free done, (bytes.of_mod len.le).of_mem fun a => rfl, ?_, fun h other => ?_, ?_⟩
    · rw [State.withMe, State.setHart, frame]
    · rw [State.hart_withMe_other _ _ (by rw [cur]; exact other), others h other]
    · rw [State.me_withMe, me]
      rfl
  case register =>
    have reg : (homeBytes (gaRange ga n)).any Loc.isReg = true :=
      List.any_eq_true.mpr ⟨⟨ga, false⟩, List.mem_map.mpr ⟨ga, first_mem_gaRange pos, rfl⟩, isReg_eq_true.mpr ⟨device, kind⟩⟩
    have done := State.storeScalar_reg (v := (s.me.xr f.b).toNat % 2 ^ (8 * n)) range reg even
      (by rw [← homeBytes, headD_homeBytes pos]; exact chip)
    rw [← homeBytes, headD_homeBytes pos] at done
    exact ⟨_, rfl, exec_store_of_ok store free done⟩
  case far =>
    obtain ⟨device, other, rfl⟩ := State.farDev_eq_some.mp home
    have far : ∀ a ∈ gaRange ga n, (s.farDev a).isSome = true := fun a h => (away a h).1
    have clean : ∀ l ∈ homeBytes (gaRange ga n), s.poisoned l.ga = false := fun l h => by
      obtain ⟨a, isIn, rfl⟩ := List.mem_map.mp h
      exact (away a isIn).2
    have done := State.storeScalar_bytes (v := (s.me.xr f.b).toNat % 2 ^ (8 * n)) range
      (fun _ => ⟨even, by rw [← homeBytes, headD_homeBytes pos]; exact other⟩) clean
    rw [← homeBytes, State.storeBytes_far _ pos (by omega) far (State.page_of_run far run) up] at done
    have ships : State.Ships s.cur (gaChip ga) (gaDie ga % 10) false _ (s.tagCounted (gaChip ga)) _ :=
      State.ships_sendTracked (r := s.writeRecord ga n ((s.me.xr f.b).toNat % 2 ^ (8 * n)))
        (by rw [State.tagCounted, State.hart_setHart_same]; exact idle) (congrArg (· % 10) (gaDie_ofNat ga))
    generalize (s.tagCounted (gaChip ga)).sendTracked s.cur (gaChip ga) false _ = u at done ships
    have cur : u.cur = s.cur := ships.cur
    have me := ships.own
    rw [State.tagCounted, State.hart_setHart_same, ← cur] at me
    refine ⟨_, _, exec_store_of_ok store free done, ?_, fun h n => ?_, ships.sent, rfl, rfl, rfl, rfl, ?_, ?_⟩
    · show u.mem = _
      rw [ships.frame]
      rfl
    · rw [State.hart_withMe_other _ _ (by rw [cur]; exact n), ships.others h n, State.tagCounted, State.hart_setHart, if_neg n]
      rfl
    · rw [State.me_withMe, State.me, me]
      show Sparse.get 0 (Sparse.modify 0 s.me.unsealed (16 + gaChip ga) (· + 1)) _ = _
      rw [Sparse.modify, Sparse.get_set, if_pos rfl]
    · rw [State.me_withMe, State.me, me]
      rfl
end

section
/-!
SUPPORT. Scalar atomics and the faults of scalar accesses (04_scalar R106-R112; O6 and O7).
-/

namespace Sys2Proof.Machine

/-! ### What an update comes to -/

/-- What an atomic comes to once its word has been updated. -/
def updated (d : BitVec 5) (out : Nat → Word) (after : State → State) : Except (State × Stop) (State × Nat) → State
  | .error (s, e) => s.halt e
  | .ok (s, v) => after (s.withMe fun t => t.result d (out v))

section
variable {s : State} {va : Word} {n op d c : Nat} {g : Nat → Nat} {locs : List Loc}
variable (again : s.accessRange .both va n = .ok locs)
include again

theorem State.updateScalar_reg (reg : locs.any Loc.isReg = true) :
    s.updateScalar va n op d c g = .error (s, .trap causePerm va) := by
  simp [State.updateScalar, again, reg]
theorem State.updateScalar_unaligned (mem : locs.any Loc.isReg = false) (odd : va.toNat % n ≠ 0) :
    s.updateScalar va n op d c g = .error (s, .trap causeAlign va) := by
  simp [State.updateScalar, again, mem, odd]
theorem State.updateScalar_poisoned {v : Word} (mem : locs.any Loc.isReg = false) (even : va.toNat % n = 0)
    (bad : s.eccByte va locs = some v) : s.updateScalar va n op d c g =
      .error (s.logError (errorUnit (locs.headD ⟨0, false⟩).ga) s.cur, .trap causeEcc v) := by
  simp [State.updateScalar, again, mem, even, bad]
/-- A word here or with the host. -/
theorem State.updateScalar_near (mem : locs.any Loc.isReg = false) (even : va.toNat % n = 0)
    (clean : ∀ l ∈ locs, s.poisoned l.ga = false) (near : s.farDev (locs.headD ⟨0, false⟩).ga = none) :
    s.updateScalar va n op d c g =
      .ok (s.storeBytes s.cur locs (g (s.readAt (locGas locs))), s.readAt (locGas locs)) := by
  have clean : s.eccByte va locs = none := State.eccByte_of_clean clean
  simp only [State.updateScalar, again, mem, even, clean, near, Bool.false_eq_true, if_false, ne_eq, not_true_eq_false]
/-- A word of another device that is asked for its update. -/
theorem State.updateScalar_asks {dev ga : Nat} (mem : locs.any Loc.isReg = false) (even : va.toNat % n = 0)
    (clean : ∀ l ∈ locs, s.poisoned l.ga = false) (head : (locs.headD ⟨0, false⟩).ga = ga) (away : s.farDev ga = some dev)
    (up : s.peerFailed dev = false) (none : s.me.asks = []) {u : State} {k : Ask}
    (asked : s.sendAsk s.cur 0 ga n
      (some (0x04, atomicWord op (if n = 8 then 3 else 2) true ++ natBytes n d ++ (if op = 9 then natBytes n c else []))) = (u, k)) :
    s.updateScalar va n op d c g =
      .error ((u.withMe fun t => { t.countSent (16 + dev) with asks := t.asks ++ [k] }).awaitAccess locs va) := by
  have clean : s.eccByte va locs = .none := State.eccByte_of_clean clean
  simp only [State.updateScalar, again, mem, even, clean, head, away, up, none, asked, askOf, List.find?_nil, Bool.and_false,
    Bool.false_eq_true, if_false, ne_eq, not_true_eq_false]
/-- A word of another device that has answered, or has failed. -/
theorem State.updateScalar_answered {dev ga v : Nat} {tag : BitVec 32} {failed : Bool} {ans : Option (List Byte)}
    (mem : locs.any Loc.isReg = false) (even : va.toNat % n = 0) (clean : ∀ l ∈ locs, s.poisoned l.ga = false)
    (head : (locs.headD ⟨0, false⟩).ga = ga) (away : s.farDev ga = some dev) (access : s.me.access = some locs)
    (asked : s.me.asks = [⟨0, tag, dev, ga, n, true, failed, ans⟩])
    (answer : failed = false ∧ (∃ bs, ans = some bs ∧ v = bytesNat bs % 2 ^ (8 * n)) ∨
      failed = true ∧ v = s.me.vfill.toNat % 2 ^ (8 * n)) : s.updateScalar va n op d c g = .ok (s, v) := by
  have clean : s.eccByte va locs = none := State.eccByte_of_clean clean
  have found : askOf [⟨0, tag, dev, ga, n, true, failed, ans⟩] 0 ga n true = some ⟨0, tag, dev, ga, n, true, failed, ans⟩ :=
    List.find?_cons_of_pos (by simp)
  simp only [State.updateScalar, again, mem, even, clean, head, away, access, asked, found, Option.isNone_some, Bool.false_and,
    Bool.false_eq_true, if_false, ne_eq, not_true_eq_false]
  obtain ⟨rfl, bs, rfl, rfl⟩ | ⟨rfl, rfl⟩ := answer
  · rfl
  · rfl
end

/-- The state in which the hart waits for the update that it has asked of a device. -/
def State.asksUpdate (s : State) (c : Nat) (k : Ask) (locs : List Loc) (va : Word) : State :=
  ((s.withMe fun t => { t.countSent (16 + c) with asks := t.asks ++ [k] }).awaitAccess locs va).1.halt (.wait va)
theorem State.onlyMe_asksUpdate (s : State) (c : Nat) (k : Ask) (locs : List Loc) (va : Word) : OnlyMe s (s.asksUpdate c k locs va) :=
  (onlyMe_withMe s fun t => { t.countSent (16 + c) with asks := t.asks ++ [k] }).trans
    ((onlyMe_withMe _ fun t => { t with access := some locs }).trans (onlyMe_withMe _ fun t => { t with stalled := some va }))
theorem State.me_asksUpdate (s : State) (c : Nat) (k : Ask) (locs : List Loc) (va : Word) : (s.asksUpdate c k locs va).me =
    { s.me.countSent (16 + c) with asks := s.me.asks ++ [k], access := some locs, stalled := some va } := by
  show (State.withMe (State.withMe (s.withMe fun t => { t.countSent (16 + c) with asks := t.asks ++ [k] })
    fun t => { t with access := some locs }) fun t => { t with stalled := some va }).me = _
  rw [State.me_withMe, State.me_withMe, State.me_withMe]

/-! ### The atomic instructions -/

/-- The scalar atomics: each with its code (R110), its new value from the width, the memory value, rs2 and rd, and what the home's
device does upon the update. -/
def scalarAtomics : List ((AmoOps → Instr) × Nat × (Nat → Nat → Nat → Nat → Nat) × (State → State)) :=
  [(Instr.amosAdd, 0, fun w m b _ => (m + b) % 2 ^ w, id), (Instr.amosAnd, 1, fun _ m b _ => m &&& b, id),
    (Instr.amosOr, 2, fun _ m b _ => m ||| b, State.closeAllQueues), (Instr.amosXor, 3, fun _ m b _ => m ^^^ b, id),
    (Instr.amosMin, 4, fun w m b _ => if (BitVec.ofNat w b).toInt < (BitVec.ofNat w m).toInt then b else m, id),
    (Instr.amosMax, 5, fun w m b _ => if (BitVec.ofNat w m).toInt < (BitVec.ofNat w b).toInt then b else m, id),
    (Instr.amosMinn, 6, fun _ m b _ => min m b, id), (Instr.amosMaxn, 7, fun _ m b _ => max m b, id),
    (Instr.amosSwap, 8, fun _ _ b _ => b, id), (Instr.amosCas, 9, fun _ m b c => if m = c then b else m, id)]

section
variable {s : State} {f : AmoOps} {w b c : Nat}

/-- An atomic of w bits, with its operands and its new value. -/
def State.amoOf (s : State) (f : AmoOps) (w op b c : Nat) (g : Nat → Nat → Nat → Nat → Nat) (after : State → State) : State :=
  s.inOrder (s.me.xr f.a) (updated f.d (extendBytes (w = 32) (w / 8)) after
    (s.updateScalar (s.me.xr f.a) (w / 8) op b c fun m => g w m b c))

theorem State.amoOf_congr {op : Nat} {g k : Nat → Nat → Nat → Nat → Nat} {after : State → State} (same : ∀ m, g w m b c = k w m b c) :
    s.amoOf f w op b c g after = s.amoOf f w op b c k after := by
  rw [State.amoOf, State.amoOf, funext same]

variable (hw : w = if f.wide = 1 then 64 else 32) (hb : b = (s.me.xr f.b).toNat % 2 ^ w) (hc : c = (s.me.xr f.d).toNat % 2 ^ w)
include hw hb hc

theorem State.amoThen_eq (op : Nat) (g : Nat → Nat → Nat → Nat → Nat) (after : State → State) :
    s.amoThen f op g after = s.amoOf f w op b c g after := by
  subst hb hc
  obtain wide | narrow : f.wide = 1 ∨ f.wide = 0 := by
    have := f.wide.isLt
    rcases (show f.wide.toNat = 1 ∨ f.wide.toNat = 0 by omega) with h | h
    · exact .inl (BitVec.eq_of_toNat_eq h)
    · exact .inr (BitVec.eq_of_toNat_eq h)
  · rw [if_pos wide] at hw
    subst hw
    rw [State.amoThen, wide]
    rfl
  · rw [if_neg (by rw [narrow]; decide)] at hw
    subst hw
    rw [State.amoThen, narrow]
    rfl
theorem exec_atomic {p : (AmoOps → Instr) × Nat × (Nat → Nat → Nat → Nat → Nat) × (State → State)} (isIn : p ∈ scalarAtomics) :
    exec (p.1 f) s = .next (s.amoOf f w p.2.1 b c p.2.2.1 p.2.2.2) := by
  have pos : 0 < w := by rw [hw]; split <;> decide
  have run (op : Nat) (g k : Nat → Nat → Nat → Nat → Nat) (after : State → State) (same : ∀ m, g w m b c = k w m b c) :
      Host.Outcome.next (s.amoThen f op g after) = (.next (s.amoOf f w op b c k after) : Out) := by
    rw [State.amoThen_eq hw hb hc, State.amoOf_congr same]
  simp only [scalarAtomics, List.mem_cons, List.not_mem_nil, or_false] at isIn
  obtain rfl | rfl | rfl | rfl | rfl | rfl | rfl | rfl | rfl | rfl := isIn
  case inr.inr.inr.inr.inl | inr.inr.inr.inr.inr.inl =>
    exact run _ _ _ id fun m => by rw [toSigned_eq_toInt _ _ pos, toSigned_eq_toInt _ _ pos]
  all_goals exact run _ _ _ _ fun m => rfl
end

theorem bytesNat_lt (bs : List Byte) : bytesNat bs < 2 ^ (8 * bs.length) := by
  induction bs with
  | nil => decide
  | cons b bs ih =>
    have low := b.isLt
    have step : 2 ^ (8 * (b :: bs).length) = 256 * 2 ^ (8 * bs.length) := by
      rw [List.length_cons, Nat.mul_add, pow_add, Nat.mul_comm]
      rfl
    have unfold : bytesNat (b :: bs) = b.toNat + 256 * bytesNat bs := rfl
    omega
/-! ### Faults of scalar accesses (04_scalar R106, R107, R111; 21_service R379) -/

/-- What stops a scalar access, of an atomic or not: a check of its range, register space, its alignment, or a poisoned line. -/
structure FaultsAsChecked (s : State) (i : Instr) (need : Need) (va : Word) (n : Nat) (amo : Bool) : Prop where
  check : ∀ e, s.checkRange (s.party s.cur) need false va n = .error e → exec i s = .next (s.halt e)
  perm : ∀ locs, s.checkRange (s.party s.cur) need false va n = .ok locs → locs.any Loc.isReg = true → amo = true →
    exec i s = .next (s.halt (.trap causePerm va))
  align : ∀ locs, s.checkRange (s.party s.cur) need false va n = .ok locs → locs.any Loc.isReg = true → amo = false →
    va.toNat % n ≠ 0 → exec i s = .next (s.halt (.trap causeAlign va))
  amoAlign : ∀ locs, s.checkRange (s.party s.cur) need false va n = .ok locs → locs.any Loc.isReg = false → amo = true →
    va.toNat % n ≠ 0 → exec i s = .next (s.halt (.trap causeAlign va))
  ecc : ∀ locs, s.checkRange (s.party s.cur) need false va n = .ok locs → ∀ v, locs.any Loc.isReg = false →
    (amo = true → va.toNat % n = 0) → s.eccByte va locs = some v →
    exec i s = .next ((s.logError (errorUnit (locs.headD ⟨0, false⟩).ga) s.cur).halt (.trap causeEcc v))

section
variable {s : State} {i : Instr} {need : Need} {va : Word} {n : Nat} {locs : List Loc}

theorem State.updateScalar_refused {op d c : Nat} {g : Nat → Nat} {e : Stop} (range : s.accessRange .both va n = .error e) :
    s.updateScalar va n op d c g = .error (s, e) := by
  rw [State.updateScalar, range]
theorem Loads.faults {sg : Bool} {d : BitVec 5} (load : Loads s i need va n sg d) (free : Unhindered s) (first : s.me.access = none) :
    FaultsAsChecked s i need va n false where
  check e fails := exec_load_of_error load free (by simp [State.loadScalar, State.accessRange_first first, fails])
  perm _ _ _ atomic := by cases atomic
  align _ range reg _ odd :=
    exec_load_of_error load free (State.loadScalar_unaligned ((State.accessRange_first first).trans range) reg odd)
  amoAlign _ _ _ atomic := by cases atomic
  ecc _ range _ mem _ bad :=
    exec_load_of_error load free (State.loadScalar_poisoned ((State.accessRange_first first).trans range) mem bad)
theorem Stores.faults {b : BitVec 5} (store : Stores s i va n b) (free : Unhindered s) : FaultsAsChecked s i .wr va n false where
  check e fails := exec_store_of_error store free (by simp [State.storeScalar, fails])
  perm _ _ _ atomic := by cases atomic
  align _ range reg _ odd := exec_store_of_error store free (State.storeScalar_unaligned range reg odd)
  amoAlign _ _ _ atomic := by cases atomic
  ecc _ range _ mem _ bad := exec_store_of_error store free (State.storeScalar_poisoned range mem bad)
theorem atomic_faults {f : AmoOps} (isIn : i ∈ [Instr.amosAdd f, .amosAnd f, .amosOr f, .amosXor f, .amosMin f, .amosMax f,
    .amosMinn f, .amosMaxn f, .amosSwap f, .amosCas f]) (free : Unhindered s) (first : s.me.access = none) :
    FaultsAsChecked s i .both (s.me.xr f.a) (if f.wide = 1 then 8 else 4) true := by
  obtain ⟨p, listed, rfl⟩ : ∃ p ∈ scalarAtomics, p.1 f = i := by
    have : i ∈ scalarAtomics.map fun p => p.1 f := isIn
    simpa using this
  have refused {t : State} {e : Stop} (stop : ∀ op b c g,
      s.updateScalar (s.me.xr f.a) (if f.wide = 1 then 8 else 4) op b c g = .error (t, e)) : exec (p.1 f) s = .next (t.halt e) := by
    have run := exec_atomic (s := s) (f := f) rfl rfl rfl listed
    have size : (if f.wide = 1 then 64 else 32) / 8 = if f.wide = 1 then 8 else 4 := by split <;> rfl
    rw [State.amoOf, State.inOrder_free free, size, stop] at run
    exact run
  have again {locs : List Loc} := (State.accessRange_first (need := .both) (va := s.me.xr f.a) (n := if f.wide = 1 then 8 else 4) first).trans
    (c := .ok locs)
  exact {
    check := fun e fails => refused fun _ _ _ _ => State.updateScalar_refused ((State.accessRange_first first).trans fails)
    perm := fun _ range reg _ => refused fun _ _ _ _ => State.updateScalar_reg (again range) reg
    align := fun _ _ _ plain => by cases plain
    amoAlign := fun _ range mem _ odd => refused fun _ _ _ _ => State.updateScalar_unaligned (again range) mem odd
    ecc := fun _ range _ mem even bad =>
      refused fun _ _ _ _ => State.updateScalar_poisoned (again range) mem (even rfl) bad }

theorem trapEntered_ecc (s : State) (unit : Nat) (v : Word) :
    TrapEntered (s.logError unit s.cur) ((s.logError unit s.cur).raise causeEcc v) 0x18 false s.me.pc v := by
  rw [← (s.logError_withRep unit none).2.2]
  exact trapEntered_raise _ causeEcc v
theorem anyReg_iff : locs.any Loc.isReg = true ↔ ∃ l ∈ locs, gaHost l.ga = false ∧ gaKind l.ga = 3 := by
  simp only [List.any_eq_true, isReg_eq_true]
theorem noReg_iff : locs.any Loc.isReg = false ↔ ∀ l ∈ locs, gaHost l.ga = true ∨ gaKind l.ga ≠ 3 := by
  simp only [List.any_eq_false, Bool.not_eq_true, isReg_eq_false]
end

/-- The record of an ATOMIC. -/
def State.atomicRecord (s : State) (ga : Nat) (data : List Byte) : Record :=
  s.hartRecord s.cur 0x04 ga data.length false s.newTag.2 data
theorem State.sendAsk_update {s : State} (ga n : Nat) (data : List Byte) : ∃ k,
    s.sendAsk s.cur 0 ga n (some (0x04, data)) = (s.newTag.1.sendTracked s.cur (gaChip ga) false (s.atomicRecord ga data), k) := by
  simp [State.sendAsk, State.atomicRecord]

end Sys2Proof.Machine
open Sys2Proof Sys2Proof.Machine

/-- Settles O6: the update of a word here, and the ATOMIC of one on another device. -/
theorem atomicsUpdateOneWord : Obligations.AtomicsUpdateOneWord := by
  unfold Obligations.AtomicsUpdateOneWord
  intro p isIn f s w b c out hw hb hc hout free even
  have run := exec_atomic hw hb hc (p := p) isIn
  rw [State.amoOf, State.inOrder_free free] at run
  obtain ⟨instr, op, g, after⟩ := p
  have size : w = 8 * (w / 8) ∧ 0 < w / 8 := by rw [hw]; split <;> decide
  obtain rfl : out = extendBytes (w = 32) (w / 8) := by
    rw [hout]
    funext m
    rw [extendBytes_eq _ _ _ size.2, ← size.1]
    by_cases narrow : w = 32
    · rw [if_pos narrow, if_pos (by simpa using narrow), narrow]
    · rw [if_neg narrow, if_neg (by simpa using narrow)]
  refine ⟨fun as plain => ?plain, fun ga dev locs home lay mem => ?far⟩
  case plain =>
    obtain ⟨range, mem⟩ := plain.memory
    have near : ∀ a ∈ as, s.farDev a = none := fun a h => (plain.2.2 a h).2.2
    have len : as.length = w / 8 := by simpa [homeBytes] using State.length_checkRange range
    have head : s.farDev ((homeBytes as).headD ⟨0, false⟩).ga = none := by
      cases as with
      | nil => exact absurd len (by simp; omega)
      | cons a as => exact near a List.mem_cons_self
    rw [State.updateScalar_near ((State.accessRange_first plain.1).trans range) (noReg_of fun l h => (mem l h).1) even
      (fun l h => (mem l h).2.1) head, locGas_homeBytes] at run
    have effect := State.stored_storeBytes near s.cur (g w (s.readAt as) b c)
    generalize s.storeBytes s.cur (homeBytes as) (g w (s.readAt as) b c) = t at run effect
    obtain ⟨bytes, frame, others, own⟩ := effect
    have cur : t.cur = s.cur := by rw [frame]
    have me : t.me = { s.me with unsealed := t.me.unsealed } := by rw [State.me, cur]; exact own
    refine ⟨t.withMe fun x => x.result f.d (extendBytes (w = 32) (w / 8) (s.readAt as)), run, bytes.of_mem fun a => rfl, ?_,
      fun h other => ?_, ?_, ?_⟩
    · rw [State.withMe, State.setHart, frame]
    · rw [State.hart_withMe_other _ _ (by rw [cur]; exact other), others h other]
    · rw [State.me_withMe, Hart.result_eq, me]
    · rw [State.me_withMe]
      have rd := regSet_result t.me f.d (extendBytes (w = 32) (w / 8) (s.readAt as))
      rw [me] at rd ⊢
      exact rd
  case far =>
    obtain ⟨device, other, rfl⟩ := State.farDev_eq_some.mp home
    obtain rfl : locs = homeBytes (gaRange ga (w / 8)) := lay
    have noReg : (homeBytes (gaRange ga (w / 8))).any Loc.isReg = false := noReg_of fun l h => by
      obtain ⟨a, isIn, rfl⟩ := List.mem_map.mp h
      exact isReg_eq_false.mpr (.inr (mem a isIn).1)
    have clean : ∀ l ∈ homeBytes (gaRange ga (w / 8)), s.poisoned l.ga = false := fun l h => by
      obtain ⟨a, isIn, rfl⟩ := List.mem_map.mp h
      exact (mem a isIn).2
    have head := congrArg Loc.ga (headD_homeBytes (ga := ga) size.2)
    refine ⟨fun first range up none idle => ?asks, fun tag failed ans v access asked answer => ?answered⟩
    case answered =>
      have answer : failed = false ∧ (∃ bs, ans = some bs ∧ v = bytesNat bs % 2 ^ (8 * (w / 8))) ∨
          failed = true ∧ v = s.me.vfill.toNat % 2 ^ (8 * (w / 8)) := by
        rw [← size.1]
        refine answer.imp_left fun ⟨up, bs, came, len, val⟩ => ⟨up, bs, came, ?_⟩
        rw [val, Nat.mod_eq_of_lt]
        have bound := bytesNat_lt bs
        rwa [len, ← size.1] at bound
      rw [State.updateScalar_answered (State.accessRange_again access) noReg even clean head home access asked answer] at run
      obtain ⟨t, eq, writes⟩ := writes_result s f.d (extendBytes (w = 32) (w / 8) v)
      obtain rfl := Host.Outcome.next.inj eq
      exact ⟨_, run, writes⟩
    case asks =>
      obtain ⟨data, eq⟩ : ∃ data, data = atomicWord op (if w / 8 = 8 then 3 else 2) true ++ natBytes (w / 8) b ++
        (if op = 9 then natBytes (w / 8) c else []) := ⟨_, rfl⟩
      obtain ⟨k, asked⟩ := State.sendAsk_update (s := s) ga (w / 8) data
      rw [State.updateScalar_asks ((State.accessRange_first first).trans range) noReg even clean head home up none (eq ▸ asked), ← eq] at run
      have ships := State.ships_sendTracked (s := s.newTag.1) (h := s.cur) (dev := gaChip ga) (ord := false)
        (r := s.atomicRecord ga data) idle (congrArg (· % 10) (gaDie_ofNat ga))
      generalize s.newTag.1.sendTracked s.cur (gaChip ga) false (s.atomicRecord ga data) = u at run ships
      have cur : u.cur = s.cur := ships.cur
      have own : u.me = { s.me with tracked := (u.hart s.cur).tracked } := by
        rw [State.me, cur, ships.own]
        rfl
      have run : exec (instr f) s = .next
          (u.asksUpdate (gaChip ga) k (homeBytes (gaRange ga (w / 8))) (s.me.xr f.a)) := run
      have only := State.onlyMe_asksUpdate u (gaChip ga) k (homeBytes (gaRange ga (w / 8))) (s.me.xr f.a)
      have me := State.me_asksUpdate u (gaChip ga) k (homeBytes (gaRange ga (w / 8))) (s.me.xr f.a)
      rw [own] at me
      refine ⟨_, s.atomicRecord ga data, run, ?_, fun h n => ?_, ?_, ?_, ?_, ?_, rfl, rfl, eq.trans ?_⟩
      · rw [only.mem, ships.frame]; rfl
      · rw [only.2 h (by rw [cur]; exact n)]; exact ships.others h n
      · rw [me]; rfl
      · rw [me]; rfl
      · rw [me]
      · rw [only.1]; exact ships.sent
      · rw [atomicWord]
        by_cases wide : w = 64
        · rw [if_pos wide, if_pos (by rw [wide])]; rfl
        · rw [if_neg wide, if_neg (by omega)]; rfl

/-- Settles O7: the first check that fails is the one that the access takes. -/
theorem scalarAccessFaultsTrap : Obligations.ScalarAccessFaultsTrap := by
  unfold Obligations.ScalarAccessFaultsTrap
  intro s i need va n amo free first access
  have stops : FaultsAsChecked s i need va n amo := by
    obtain ⟨f, rfl, rfl, rfl, isIn⟩ | ⟨f, rfl, rfl, rfl, rfl, rfl⟩ | ⟨f, rfl, rfl, rfl, isIn⟩ | ⟨f, rfl, rfl, rfl, rfl, isIn⟩ := access
    · have load : ∃ sg, Loads s i .rd (s.me.xr f.a + BitVec.ofInt 64 f.off.toInt) n sg f.d := by
        simp only [List.mem_cons, Prod.mk.injEq, List.not_mem_nil, or_false] at isIn
        obtain ⟨rfl, rfl⟩ | ⟨rfl, rfl⟩ | ⟨rfl, rfl⟩ | ⟨rfl, rfl⟩ | ⟨rfl, rfl⟩ | ⟨rfl, rfl⟩ | ⟨rfl, rfl⟩ := isIn
        case inr.inr.inr.inr.inl | inr.inr.inr.inr.inr.inl | inr.inr.inr.inr.inr.inr =>
          exact ⟨true, .inl ⟨f, rfl, rfl, rfl, by simp⟩⟩
        all_goals exact ⟨false, .inl ⟨f, rfl, rfl, rfl, by simp⟩⟩
      obtain ⟨sg, load⟩ := load
      exact load.faults free first
    · exact Loads.faults (.inr ⟨f, rfl, rfl, rfl, rfl, rfl, rfl⟩) free first
    · exact Stores.faults ⟨f, rfl, rfl, isIn⟩ free
    · exact atomic_faults isIn free first
  refine ⟨fun c v fails => ?_, fun a v fails => ?_, fun locs range => ⟨fun reg atomic => ?_, fun reg plain odd => ?_,
    fun mem atomic odd => ?_, fun v mem even bad => ?_⟩⟩
  · exact stops.check _ fails ▸ traps_raise s c v
  · exact ⟨_, stops.check _ fails, trapEntered_ecc s _ v⟩
  · exact stops.perm locs range (anyReg_iff.mpr reg) atomic ▸ traps_raise s causePerm va
  · exact stops.align locs range (anyReg_iff.mpr reg) plain odd ▸ traps_raise s causeAlign va
  · exact stops.amoAlign locs range (noReg_iff.mpr mem) atomic odd ▸ traps_raise s causeAlign va
  · exact ⟨_, stops.ecc locs range v (noReg_iff.mpr mem) even bad, trapEntered_ecc s _ v⟩
end

section
/-!
SUPPORT. Control registers (01_machine R24-R27; 04_scalar R113-R115): what a CSR instruction comes to, and what it stores (O8).
-/

namespace Sys2Proof.Machine

section
variable {s : State} {i : Instr} {n : Nat} {w : IWord} {d : BitVec 5} {new : Option (Word → Word)}

/-- The state in which a CSR instruction has closed its convoy and completed the non-blocking operations that it must. -/
def State.csrReady (s : State) (n : Nat) (writes : Bool) : State :=
  if writes = true ∧ n ∈ [0x106, 0x107, 0x10B] then (s.withMe Hart.closeConvoy).drainNb s.cur
  else if n = 0 ∨ n = 0x012 then s.withMe Hart.closeConvoy else s
/-- What a hart has stored of a CSR instruction. -/
def Hart.csrStored (t : Hart) (n : Nat) (old : Word) : Option (Word → Word) → Hart
  | none => t
  | some g => t.csrStore n (g old)

theorem State.csrAccess_allowed (allowed : s.csrCheck n w (new.map fun g => g (s.csrValue n)) = none) :
    s.csrAccess i n w d new =
      if (s.csrReady n new.isSome).me.csrHeld n new.isSome = true then (s.csrReady n new.isSome).park i none
      else ((s.csrReady n new.isSome).csrTick n).withMe fun t =>
        (t.csrStored n (((s.csrReady n new.isSome).csrTick n).csrValue n) new).result d
          (((s.csrReady n new.isSome).csrTick n).csrValue n) := by
  have ready : (if (new.isSome && (n = 0x106 || n = 0x107 || n = 0x10B)) = true then
      (if csrCloses n new.isSome = true then s.withMe Hart.closeConvoy else s).drainNb
        (if csrCloses n new.isSome = true then s.withMe Hart.closeConvoy else s).cur
      else if csrCloses n new.isSome = true then s.withMe Hart.closeConvoy else s) = s.csrReady n new.isSome := by
    unfold State.csrReady
    by_cases drains : new.isSome = true ∧ n ∈ [0x106, 0x107, 0x10B]
    · have closes : csrCloses n new.isSome = true := by
        obtain ⟨writes, isIn⟩ := drains
        simp only [List.mem_cons, List.not_mem_nil, or_false] at isIn
        obtain rfl | rfl | rfl := isIn <;> simp [csrCloses, writes]
      rw [if_pos drains, if_pos closes, if_pos (by simpa [or_assoc] using drains)]
      rfl
    · have closes : csrCloses n new.isSome = true ↔ n = 0 ∨ n = 0x012 := by
        simp only [List.mem_cons, List.not_mem_nil, or_false] at drains
        simp only [csrCloses, Bool.or_eq_true, decide_eq_true_eq, Bool.and_eq_true]
        tauto
      rw [if_neg drains, if_neg (by simpa [or_assoc] using drains), if_congr closes rfl rfl]
  rw [State.csrAccess, allowed]
  dsimp only
  rw [ready]
  cases new <;> rfl
theorem Hart.csrHeld_iff (t : Hart) : t.csrHeld n new.isSome = true ↔
    (n = 0 ∨ n = 0x012) ∧ (t.drained = false ∨ t.tile ≠ []) ∨
      new.isSome = true ∧ (n ∈ [0x106, 0x107, 0x10B] ∧ t.worked = false ∨ n = 0x014 ∧ t.matrixBusy = true) := by
  unfold Hart.csrHeld
  by_cases flags : n = 0 ∨ n = 0x012
  · rw [if_pos (by simpa using flags)]
    have plain : n ∉ [0x106, 0x107, 0x10B] ∧ n ≠ 0x014 := by obtain rfl | rfl := flags <;> decide
    simp [flags, plain]
  · rw [if_neg (by simpa using flags)]
    by_cases space : new.isSome = true ∧ n ∈ [0x106, 0x107, 0x10B]
    · have window : n ≠ 0x014 := by
        rintro rfl
        exact absurd space.2 (by decide)
      rw [if_pos (by simpa [or_assoc] using space)]
      simp [flags, space.1, space.2, window]
    · rw [if_neg (by simpa [or_assoc] using space)]
      simp only [flags, Bool.and_eq_true, decide_eq_true_eq]
      tauto

/-! ### What is stored -/

theorem Hart.csrStore_eq (t : Hart) (n : Nat) (v : Word) : t.csrStore n v = { t with csr := (t.csrStore n v).csr } := by
  unfold Hart.csrStore
  split_ifs <;> rfl
theorem Hart.csrStored_eq (t : Hart) (n : Nat) (old : Word) (new : Option (Word → Word)) :
    t.csrStored n old new = { t with csr := (t.csrStored n old new).csr } := by
  cases new with
  | none => rfl
  | some g => exact t.csrStore_eq n (g old)
theorem Hart.csrStore_readOnly (t : Hart) {v : Word} (readOnly : csrReadOnly n = true) : t.csrStore n v = t := if_pos readOnly
/-- The control registers after a write of one. -/
theorem Hart.csrv_csrStore (t : Hart) (v : Word) (writable : csrReadOnly n = false) (m : Nat) : (t.csrStore n v).csrv m =
    if n = 0x108 ∧ v.getLsbD 0 = true ∧ m = 0x109 then 0
    else if n = 0 ∧ m = 0x012 then t.csrv 0x012 ||| (v &&& 0x1F)
    else if m = n then csrWritten n (t.csrv n) v else t.csrv m := by
  unfold Hart.csrStore
  rw [if_neg (by simp [writable])]
  by_cases clears : n = 0x108 ∧ v.getLsbD 0 = true
  · obtain ⟨rfl, bit⟩ := clears
    simp only [bit, decide_true, Bool.and_self, if_true, Hart.csrv_setCsr, true_and, Nat.reduceEqDiff, false_and, if_false]
  · rw [if_neg (by simpa using clears), if_neg fun h : n = 0x108 ∧ v.getLsbD 0 = true ∧ m = 0x109 => clears ⟨h.1, h.2.1⟩]
    by_cases flags : n = 0
    · subst flags
      rw [if_pos rfl, Hart.csrv_setCsr, Hart.csrv_setCsr, Hart.csrv_setCsr, if_neg (show ¬(0x012 = 0) by decide)]
      simp only [true_and]
    · simp only [flags, if_false, false_and, Hart.csrv_setCsr]

end

end Sys2Proof.Machine
open Sys2Proof Sys2Proof.Machine

/-- Settles O8: the wait, or the read and what the write leaves. -/
theorem csrInstructionsReadAndWrite : Obligations.CsrInstructionsReadAndWrite := by
  unfold Obligations.CsrInstructionsReadAndWrite
  rintro s u v i n d new instr allowed ready rfl
  obtain rfl : u = s.csrReady n new.isSome := ready
  have run : exec i s = .next (s.csrAccess i n (wordOf i) d new) := by
    obtain ⟨f, rfl, rfl, rfl, rfl⟩ | ⟨f, rfl, rfl, ⟨rfl, rfl⟩ | ⟨rfl, rfl⟩ | ⟨rfl, rfl⟩⟩ := instr <;> rfl
  rw [State.csrAccess_allowed allowed] at run
  generalize s.csrReady n new.isSome = u at run ⊢
  have held := u.me.csrHeld_iff (n := n) (new := new)
  split
  · next waits =>
    rw [if_pos (held.mpr waits)] at run
    exact run ▸ waits_park u i none
  · next free =>
    rw [if_neg (mt held.mp free)] at run
    generalize u.csrTick n = v at run ⊢
    refine ⟨_, run, onlyMe_withMe v _, ?_, ?_, ?_, ?_⟩
    all_goals rw [State.me_withMe]
    case refine_1 =>
      have same : (v.me.csrStored n (v.csrValue n) new).x = v.me.x := by
        cases new with
        | none => rfl
        | some g => rw [Hart.csrStored, Hart.csrStore_eq]
      intro r
      rw [Hart.xr_result, Hart.xr, same, Hart.xr]
    case refine_2 => rw [Hart.result_eq, Hart.csrStored_eq]
    case refine_3 =>
      rw [Hart.result_eq]
      rintro (rfl | readOnly)
      · rfl
      · cases new with
        | none => rfl
        | some g => rw [Hart.csrStored, Hart.csrStore_readOnly _ readOnly]
    case refine_4 =>
      rintro g rfl writable
      have left (m : Nat) : ((v.me.csrStored n (v.csrValue n) (some g)).result d (v.csrValue n)).csrv m =
          (v.me.csrStore n (g (v.csrValue n))).csrv m := by rw [Hart.result_eq]; rfl
      have kept := Hart.csrv_csrStore v.me (g (v.csrValue n)) writable
      simp only [CsrsKept, left]
      refine ⟨fun m out => ?_, ?_, ?_, fun plain => ?_⟩
      · split_ifs at out with log flags
        all_goals simp only [List.mem_cons, List.not_mem_nil, or_false, not_or] at out
        · rw [kept, if_neg (by tauto), if_neg (by omega), if_neg (by omega)]
        · rw [kept, if_neg (by tauto), if_neg (by tauto), if_neg (by omega)]
        · rw [kept, if_neg (by tauto), if_neg (by tauto), if_neg out]
      · rintro rfl
        have value : v.csrValue 0x108 = v.me.csrv 0x108 := rfl
        rw [kept, kept, csrWritten, if_pos (show csrW1c 0x108 = true from rfl)]
        simp
      · rintro rfl
        rw [kept, if_neg (fun h => absurd h.1 (by decide)), if_pos ⟨rfl, rfl⟩]
      · rw [kept, if_neg (by tauto), if_neg (by omega), if_pos rfl, csrWritten]
        simp [plain]
end

section
/-!
SUPPORT. The return from a trap (04_scalar R129, R131; 20_faults R356, R363; O11).
-/

namespace Sys2Proof.Machine

/-! ### Leaving a trap -/

section
variable (t : Hart)

theorem Hart.leaveTrap_eq : t.leaveTrap = { t with
    csr := t.leaveTrap.csr
    convoyOpen := false
    wait := none
    pc := t.leaveTrap.pc
    priv := t.leaveTrap.priv } := rfl
theorem Hart.csrv_leaveTrap (n : Nat) : t.leaveTrap.csrv n =
    if n = 0x107 then (t.csrv 0x107 &&& 0xFFFF) ||| (if (t.csrv 0x104).getLsbD 3 then 0x10000 else 0)
    else if n = 0x104 then (t.csrv 0x104 &&& 0x1E) ||| (if (t.csrv 0x104).getLsbD 1 then 1 else 0) else t.csrv n := by
  show Hart.csrv ((t.setCsr 0x104 _).setCsr 0x107 _) n = _
  rw [Hart.csrv_setCsr, Hart.csrv_setCsr]
/-- Where a hart that leaves a trap goes on, and with what rights. -/
theorem Hart.pc_leaveTrap : t.leaveTrap.pc = t.csrv 0x101 - BitVec.ofNat 64 ((t.csrv 0x101).toNat % 4) :=
  and_not_low _ 2 (by decide)
theorem Hart.status_leaveTrap (i : Nat) (pos : 1 ≤ i) (top : i ≤ 4) :
    (t.leaveTrap.csrv 0x104).getLsbD i = (t.csrv 0x104).getLsbD i := by
  rw [Hart.csrv_leaveTrap, if_neg (by decide), if_pos rfl, BitVec.getLsbD_or, BitVec.getLsbD_and]
  interval_cases i <;> cases (t.csrv 0x104).getLsbD 1 <;> simp
theorem Hart.ie_leaveTrap : t.leaveTrap.ie = (t.csrv 0x104).getLsbD 1 := by
  rw [Hart.ie, Hart.csrv_leaveTrap, if_neg (by decide), if_pos rfl, BitVec.getLsbD_or, BitVec.getLsbD_and]
  cases (t.csrv 0x104).getLsbD 1 <;> simp
theorem Hart.secure_leaveTrap : t.leaveTrap.secure = (t.csrv 0x104).getLsbD 3 := by
  rw [Hart.secure, Hart.csrv_leaveTrap, if_pos rfl, BitVec.getLsbD_or, BitVec.getLsbD_and]
  cases (t.csrv 0x104).getLsbD 3 <;> simp
theorem Hart.tenant_leaveTrap (i : Nat) (below : i < 16) : (t.leaveTrap.csrv 0x107).getLsbD i = (t.csrv 0x107).getLsbD i := by
  rw [Hart.csrv_leaveTrap, if_pos rfl, BitVec.getLsbD_or, BitVec.getLsbD_and]
  interval_cases i <;> cases (t.csrv 0x104).getLsbD 3 <;> simp
theorem Hart.csrsKept_leaveTrap : CsrsKept t t.leaveTrap [0x104, 0x107] := by
  intro n out
  simp only [List.mem_cons, List.not_mem_nil, or_false, not_or] at out
  rw [Hart.csrv_leaveTrap, if_neg out.2, if_neg out.1]

end

/-! ### TRET -/

/-- Taking up the flags of members that had begun leaves the queue as it is. -/
theorem Hart.csr_takeFlags (t : Hart) (es : List QEntry) : (t.takeFlags es).1.csr = t.csr := by
  unfold Hart.takeFlags
  split <;> rfl
theorem Hart.csr_dropDrained (t : Hart) : t.dropDrained.csr = t.csr := by
  unfold Hart.dropDrained
  split <;> rfl
/-- The hart that TRET makes of one with VRF set, with the entries of its image. -/
def Hart.reissue (t : Hart) (es : List QEntry) : Hart :=
  { (((t.takeFlags es).1.setCsr 0x104 ((t.takeFlags es).1.csrv 0x104 &&& ~~~ 0x10#64)).leaveTrap) with
    queue := (t.takeFlags es).1.queue ++ (t.takeFlags es).2 }

theorem Hart.reissue_eq (t : Hart) (es : List QEntry) : t.reissue es = { (t.takeFlags es).1 with
    csr := (t.reissue es).csr
    convoyOpen := false
    wait := none
    queue := (t.takeFlags es).1.queue ++ (t.takeFlags es).2
    pc := (t.reissue es).pc
    priv := (t.reissue es).priv } := by
  obtain ⟨w, hw⟩ : ∃ w, w = ((t.takeFlags es).1.setCsr 0x104 ((t.takeFlags es).1.csrv 0x104 &&& ~~~ 0x10#64)).leaveTrap := ⟨_, rfl⟩
  have left : w = { (t.takeFlags es).1 with csr := w.csr, convoyOpen := false, wait := none, pc := w.pc, priv := w.priv } := by
    rw [hw]
    exact Hart.leaveTrap_eq _
  rw [Hart.reissue, ← hw]
  conv_lhs => rw [left]

section
variable {s u : State} (sup : s.me.priv = .supervisor) (may : (s.me.csrv 0x104).getLsbD 3 = true → s.me.secure = true)
  (ready : u = if (s.me.csrv 0x104).getLsbD 3 = s.me.secure then s.withMe Hart.closeConvoy
    else (s.withMe Hart.closeConvoy).drainNb s.cur)
include sup may ready

theorem exec_tret : exec .tret s = .next
    (if (s.me.csrv 0x104).getLsbD 3 ≠ s.me.secure ∧ u.me.worked = false then u.park .tret none
    else if u.me.vrf = true then u.reissued.elim (u.raise causeIllegal (u.me.csrv 0x105)) fun es =>
      if queueSize < u.me.dropDrained.queue.length + es.length then u.park .tret none
      else u.withMe fun t => t.dropDrained.reissue es
    else u.withMe Hart.leaveTrap) := by
  have closed : (s.withMe Hart.closeConvoy).me = s.me.closeConvoy := State.me_closeConvoy s
  have secure : (s.withMe Hart.closeConvoy).me.secure = s.me.secure := by rw [closed]; rfl
  have sup : (s.withMe Hart.closeConvoy).me.priv ≠ .user := by rw [closed]; simp [Hart.closeConvoy, sup]
  have may : ¬((s.me.csrv 0x104).getLsbD 3 && !(s.withMe Hart.closeConvoy).me.secure) = true := by
    rw [secure]; simpa using may
  have same : u.me.secure = s.me.secure := by
    rw [ready]
    split
    · exact secure
    · have landed := State.landed_drainNb (s.withMe Hart.closeConvoy) s.cur
      have kept := landed.own.csrs 0x107 (by decide)
      rw [State.me, landed.cur]
      exact (congrArg (·.getLsbD 16) kept).trans secure
  show execTret s = _
  rw [execTret]
  dsimp only
  rw [if_neg sup, if_neg may, secure]
  have ready : u = if (s.me.csrv 0x104).getLsbD 3 = s.me.secure then s.withMe Hart.closeConvoy
    else (s.withMe Hart.closeConvoy).drainNb (s.withMe Hart.closeConvoy).cur := ready
  rw [← ready, same]
  by_cases waits : (s.me.csrv 0x104).getLsbD 3 ≠ s.me.secure ∧ u.me.worked = false
  · rw [if_pos waits, if_pos (by simpa using waits)]
  · rw [if_neg waits, if_neg (by simpa using waits)]
    cases u.reissued <;> rfl
end

/-! ### What TRET restores -/

/-- The hart goes on as TSTATUS and EPC say, with VRF clear. -/
structure Hart.Restored (t u : Hart) : Prop where
  pc : u.pc = t.csrv 0x101 - BitVec.ofNat 64 ((t.csrv 0x101).toNat % 4)
  priv : u.priv = if (t.csrv 0x104).getLsbD 2 then .supervisor else .user
  ie : u.ie = (t.csrv 0x104).getLsbD 1
  secure : u.secure = (t.csrv 0x104).getLsbD 3
  vrf : u.vrf = false
  status : ∀ i, 1 ≤ i → i ≤ 3 → (u.csrv 0x104).getLsbD i = (t.csrv 0x104).getLsbD i
  tenant : ∀ i, i < 16 → (u.csrv 0x107).getLsbD i = (t.csrv 0x107).getLsbD i
  csrs : CsrsKept t u [0x104, 0x107]

/-- A hart leaves a trap as another one would, where they have the same control registers but for VRF. -/
theorem Hart.restored_leaveTrap {t y : Hart} (kept : ∀ n, n ≠ 0x104 → y.csrv n = t.csrv n)
    (status : ∀ i, i ≤ 3 → (y.csrv 0x104).getLsbD i = (t.csrv 0x104).getLsbD i) (clear : y.vrf = false) : t.Restored y.leaveTrap where
  pc := by rw [Hart.pc_leaveTrap, kept 0x101 (by decide)]
  priv := by
    show (if (y.csrv 0x104).getLsbD 2 then Priv.supervisor else .user) = _
    rw [status 2 (by decide)]
  ie := by rw [Hart.ie_leaveTrap, status 1 (by decide)]
  secure := by rw [Hart.secure_leaveTrap, status 3 (by decide)]
  vrf := (y.status_leaveTrap 4 (by decide) (by decide)).trans clear
  status i pos top := (y.status_leaveTrap i pos (by omega)).trans (status i top)
  tenant i below := (y.tenant_leaveTrap i below).trans (by rw [kept 0x107 (by decide)])
  csrs n out := (y.csrsKept_leaveTrap n out).trans (kept n fun h => out (by simp [h]))
theorem Hart.restored_reissue (t : Hart) (es : List QEntry) : t.Restored (t.dropDrained.reissue es) := by
  let p := (t.dropDrained.takeFlags es).1
  have csr : p.csr = t.csr := (Hart.csr_takeFlags _ es).trans t.csr_dropDrained
  have csrv (n : Nat) : p.csrv n = t.csrv n := by rw [Hart.csrv, csr]; rfl
  have left : t.Restored (p.setCsr 0x104 (p.csrv 0x104 &&& ~~~ 0x10#64)).leaveTrap := by
    refine Hart.restored_leaveTrap (fun n other => ?_) (fun i top => ?_) ?_
    · rw [Hart.csrv_setCsr, if_neg other, csrv]
    · rw [Hart.csrv_setCsr, if_pos rfl, csrv, BitVec.getLsbD_and]
      interval_cases i <;> simp
    · rw [Hart.vrf, Hart.csrv_setCsr, if_pos rfl, BitVec.getLsbD_and]
      simp
  obtain ⟨pc, priv, ie, secure, vrf, status, tenant, csrs⟩ := left
  exact ⟨pc, priv, ie, secure, vrf, status, tenant, csrs⟩

end Sys2Proof.Machine
open Sys2Proof Sys2Proof.Machine

/-- Settles O11: the wait, the trap of an image that is none, the return alone, and the return with the reissue. -/
theorem tretRestoresTheInterruptedState : Obligations.TretRestoresTheInterruptedState := by
  unfold Obligations.TretRestoresTheInterruptedState
  rintro s u q sup may ready rfl
  have run := exec_tret sup may ready
  split
  · next waits =>
    have parks : exec .tret s = .next (u.park .tret none) := by
      obtain work | ⟨vrf, es, image, full⟩ := waits
      · rw [run, if_pos work]
      · rw [run, if_pos vrf, image]
        split
        · rfl
        · exact congrArg Host.Outcome.next (if_pos full)
    exact parks ▸ waits_park u .tret none
  · next ready =>
    rw [if_neg fun h => ready (.inl h)] at run
    split
    · next bad =>
      rw [if_pos bad.1, bad.2] at run
      exact run ▸ traps_raise u causeIllegal _
    · next good =>
      by_cases vrf : u.me.vrf = true
      · obtain ⟨es, image⟩ := Option.ne_none_iff_exists'.mp fun h => good ⟨vrf, h⟩
        have room : ¬ queueSize < u.me.dropDrained.queue.length + es.length := fun full => ready (.inr ⟨vrf, es, image, full⟩)
        rw [if_pos vrf, image] at run
        have run : exec .tret s = .next (u.withMe fun t => t.dropDrained.reissue es) :=
          run.trans (congrArg Host.Outcome.next (if_neg room))
        obtain ⟨pc, priv, ie, secure, clear, status, tenant, csrs⟩ := u.me.restored_reissue es
        refine ⟨_, run, onlyMe_withMe u _, ?_⟩
        rw [State.me_withMe]
        refine ⟨pc, priv, ie, secure, clear, status, tenant, csrs, fun no => absurd vrf (by simp [no]), fun es' _ image' => ?_⟩
        obtain rfl : es' = es := Option.some.inj (image'.symm.trans image)
        exact Hart.reissue_eq _ es'
      · rw [if_neg vrf] at run
        obtain ⟨pc, priv, ie, secure, clear, status, tenant, csrs⟩ :=
          Hart.restored_leaveTrap (t := u.me) (fun _ _ => rfl) (fun _ _ => rfl) (by simpa using vrf)
        refine ⟨_, run, onlyMe_withMe u _, ?_⟩
        rw [State.me_withMe]
        exact ⟨pc, priv, ie, secure, clear, status, tenant, csrs, fun _ => u.me.leaveTrap_eq, fun _ yes => absurd yes vrf⟩
end

section
/-!
SUPPORT. SHARE (04_scalar R117; 01_machine R19; O18).
-/

namespace Sys2Proof.Machine

section
variable {s : State} {n p : Nat}

/-- The largest amount that a hart may share. -/
def State.shareTop (s : State) : Nat :=
  match s.me.region with
  | none => 8
  | some r => ((s.region r).stage s.me.stage).clusters
/-- SHARE refuses an amount. -/
def State.shareRefused (s : State) (n : Nat) : Bool := !([0, 1, 2, 4, 8].contains n) || decide (s.shareTop < n) || s.me.family.isSome
/-- A reduction begins with a SHARE. -/
def State.shareBegins (s : State) (n p : Nat) : Bool := decide (n ≤ s.me.k ∧ p < s.me.k) && !s.me.shrinking
/-- The region of a hart has room for a larger share, in a state u. -/
def Hart.shareRoom (t : Hart) (u : State) (n : Nat) : Bool :=
  match t.region with
  | none => true
  | some r => decide (n - t.k ≤ u.remaining 0 r + (t.pending.getD 0 - t.k))
/-- What SHARE makes of a hart whose demand it has recorded, in the state u in which time has passed. -/
def Hart.share (t : Hart) (u : State) (core n p : Nat) (begins : Bool) : Hart :=
  if n ≤ t.k then
    { t with
      pending := if p = t.k then none else some p
      graceAt := if begins then (u.die (slotDie u.cur)).ptime else t.graceAt }
  else if t.reduced then t
  else if t.shareRoom u n && decide (n - t.k ≤ u.spare core + (t.pending.getD 0 - t.k)) then
    { t with pending := some n, reduced := false }
  else t

theorem State.shareRefused_iff : s.shareRefused n = true ↔ n ∉ [0, 1, 2, 4, 8] ∨ s.shareTop < n ∨ s.me.family.isSome = true := by
  simp only [State.shareRefused, Bool.or_eq_true, Bool.not_eq_true', decide_eq_true_eq, or_assoc, List.contains_eq_mem,
    decide_eq_false_iff_not]
theorem Hart.shareRoom_iff (t : Hart) (u : State) : t.shareRoom u n = true ↔
    ∀ r, t.region = some r → n - t.k ≤ u.remaining 0 r + (t.pending.getD 0 - t.k) := by
  unfold Hart.shareRoom
  split
  · next none => simp [none]
  · next r some => simp [some]
theorem exec_share_refused {f : Rr} (refused : s.shareRefused (s.me.xr f.a).toNat = true) :
    exec (.share f) s = .next (s.withMe fun t => t.result f.d (BitVec.allOnes 64)) :=
  congrArg Host.Outcome.next (if_pos refused)
/-- A SHARE of an amount that the hart may have. -/
theorem exec_share {f : Rr} (allowed : s.shareRefused n = false) (amount : n = (s.me.xr f.a).toNat)
    (least : p = min n (s.me.limit.getD n)) : ∃ u x, u = (if s.shareBegins n p then s.tickTime else s) ∧
      x = Hart.share { s.me with demand := n } u (coreOf s.cur) n p (s.shareBegins n p) ∧
      exec (.share f) s = .next (u.withMe fun _ => x.result f.d x.vshare) := by
  subst least amount
  refine ⟨_, _, rfl, rfl, ?_⟩
  have may : ¬ s.shareRefused (s.me.xr f.a).toNat = true := by simp [allowed]
  show execShare f s = _
  rw [execShare]
  exact congrArg Host.Outcome.next (if_neg may)

section
variable {t : Hart} {u : State} {core : Nat} {begins : Bool}

theorem Hart.share_frame : t.share u core n p begins = { t with
    pending := (t.share u core n p begins).pending
    graceAt := (t.share u core n p begins).graceAt
    reduced := (t.share u core n p begins).reduced } := by
  unfold Hart.share
  split_ifs <;> rfl
theorem Hart.pending_share_own (own : n ≤ t.k) : (t.share u core n p begins).pending = if p = t.k then none else some p := by
  rw [Hart.share, if_pos own]
theorem Hart.graceAt_share (own : n ≤ t.k) : (t.share u core n p true).graceAt = (u.die (slotDie u.cur)).ptime := by
  rw [Hart.share, if_pos own, if_pos rfl]
theorem Hart.pending_share_more (more : t.k < n) : (t.share u core n p begins).pending =
    if t.reduced = false ∧ n - t.k ≤ u.spare core + (t.pending.getD 0 - t.k) ∧
        ∀ r, t.region = some r → n - t.k ≤ u.remaining 0 r + (t.pending.getD 0 - t.k)
    then some n else t.pending := by
  rw [Hart.share, if_neg (by omega)]
  by_cases reduced : t.reduced = true
  · rw [if_pos reduced, if_neg (by simp [reduced])]
  · have room : (t.shareRoom u n && decide (n - t.k ≤ u.spare core + (t.pending.getD 0 - t.k))) = true ↔
        t.reduced = false ∧ n - t.k ≤ u.spare core + (t.pending.getD 0 - t.k) ∧
          ∀ r, t.region = some r → n - t.k ≤ u.remaining 0 r + (t.pending.getD 0 - t.k) := by
      rw [Bool.and_eq_true, Hart.shareRoom_iff, decide_eq_true_eq]
      simp only [Bool.not_eq_true] at reduced
      tauto
    rw [if_neg reduced]
    by_cases fits : (t.shareRoom u n && decide (n - t.k ≤ u.spare core + (t.pending.getD 0 - t.k))) = true
    · rw [if_pos fits, if_pos (room.mp fits)]
    · rw [if_neg fits, if_neg (mt room.mpr fits)]
end

end
end Sys2Proof.Machine
open Sys2Proof Sys2Proof.Machine

/-- Settles O18: the refusal, or the hart with its demand recorded and what it then has pending. -/
theorem shareRecordsADemand : Obligations.ShareRecordsADemand := by
  unfold Obligations.ShareRecordsADemand
  rintro f s n top p amount rfl least
  refine ⟨fun refused => ?refused, fun listed within alone => ?recorded⟩
  case refused =>
    rw [amount] at refused
    rw [exec_share_refused (State.shareRefused_iff.mpr refused)]
    exact writes_result s f.d _
  case recorded =>
    have allowed : s.shareRefused n = false := by
      rw [← Bool.not_eq_true, State.shareRefused_iff]
      rintro (unlisted | above | family)
      · exact unlisted listed
      · exact absurd within (Nat.not_le.mpr above)
      · simp [alone] at family
    obtain ⟨u, x, begun, share, run⟩ := exec_share allowed amount least
    have begins : s.shareBegins n p = true ↔ n ≤ s.me.k ∧ p < s.me.k ∧ s.me.shrinking = false := by
      simp [State.shareBegins, and_assoc]
    rw [if_congr begins rfl rfl] at begun
    have cur : u.cur = s.cur := by rw [begun]; split <;> rfl
    have frame := share.trans Hart.share_frame
    rw [← share] at frame
    rw [begun] at run
    refine ⟨_, run, onlyMe_withMe _ _, ?_⟩
    rw [State.me_withMe]
    refine ⟨?_, ?_, fun own less new => ?_, fun own => ?_, fun more => ?_⟩
    · have rd := regSet_result x f.d x.vshare
      rw [Hart.result_eq] at rd ⊢
      intro r
      refine (rd r).trans ?_
      rw [frame]
      rfl
    · rw [Hart.result_eq, frame]
    · rw [Hart.result_eq]
      have start : s.shareBegins n p = true := begins.mpr ⟨own, less, new⟩
      rw [start] at share
      rw [if_pos ⟨own, less, new⟩] at begun
      show x.graceAt = _
      rw [share]
      exact (Hart.graceAt_share (t := { s.me with demand := n }) own).trans (by rw [begun]; rfl)
    · rw [Hart.result_eq]
      show x.pending = _
      rw [share]
      exact Hart.pending_share_own own
    · rw [Hart.result_eq]
      show x.pending = _
      rw [if_neg fun h => absurd h.1 (by omega)] at begun
      rw [share, begun]
      exact Hart.pending_share_more more
end

section
/-!
SUPPORT. Harts that leave: what a freed slot, the end of a region and a completion word change of the harts (14_regions R294,
R295), the members of a FORK family (04_scalar R119, R120) and END (R122): O15 and O17.
-/

namespace Sys2Proof.Machine

/-! ### Steps that leave the harts alone -/

/-- Of the harts only what a wait has seen may have changed. -/
structure State.WaitsSeen (s t : State) : Prop where
  cur : t.cur = s.cur
  hart : ∀ h, t.hart h = { s.hart h with wait := (t.hart h).wait }
  idle : ∀ h, (s.hart h).wait = none → (t.hart h).wait = none

section
variable {s t u : State}

theorem State.WaitsSeen.refl (s : State) : s.WaitsSeen s := ⟨rfl, fun _ => rfl, fun _ => id⟩
theorem State.WaitsSeen.trans (a : s.WaitsSeen t) (b : t.WaitsSeen u) : s.WaitsSeen u where
  cur := b.cur.trans a.cur
  hart h := by rw [b.hart h, a.hart h]
  idle h := b.idle h ∘ a.idle h
theorem State.WaitsSeen.of_harts (cur : t.cur = s.cur) (harts : t.harts = s.harts) : s.WaitsSeen t := by
  have same (h : Nat) : t.hart h = s.hart h := by rw [State.hart, State.hart, harts]
  exact ⟨cur, fun h => by rw [same], fun h none => by rw [same]; exact none⟩
theorem State.WaitsSeen.foldl {α : Type} {f : State → α → State} (each : ∀ (s : State) a, s.WaitsSeen (f s a)) (l : List α)
    (s : State) : s.WaitsSeen (l.foldl f s) := by
  induction l generalizing s with
  | nil => exact .refl s
  | cons a l ih => exact (each s a).trans (ih _)
theorem State.Noticed.seen (n : s.Noticed t) : s.WaitsSeen t where
  cur := by rw [n.frame]
  hart := n.hart
  idle h none := by
    have same := n.wait h
    rw [none] at same
    simpa using same
/-- A hart that waits for nothing is as it was. -/
theorem State.WaitsSeen.hart_idle (a : s.WaitsSeen t) {h : Nat} (idle : (s.hart h).wait = none) : t.hart h = s.hart h := by
  rw [a.hart h, a.idle h idle, ← idle]

variable (s)

theorem State.seen_setRegion (r : Nat) (g : Region) : s.WaitsSeen (s.setRegion r g) := .of_harts rfl rfl
theorem State.seen_writeGa (ga n v : Nat) : s.WaitsSeen (s.writeGa ga n v) :=
  .of_harts (by rw [State.writeGa, State.writeAt_eq]) (State.harts_writeAt s _ v)
theorem State.seen_newTag : s.WaitsSeen s.newTag.1 := .of_harts rfl rfl
theorem State.seen_sendTo (dev die : Nat) (ord sec : Bool) (r : Record) : s.WaitsSeen (s.sendTo dev die ord sec r) :=
  .of_harts (by rw [State.sendTo_eq]) (by rw [State.sendTo_eq])
theorem State.seen_logDie (d unit ga : Nat) : s.WaitsSeen (s.logDie d unit ga) := by
  have log (u : State) (x : Die) : u.WaitsSeen (u.setDie d x) := .of_harts rfl rfl
  have tick (n : Nat) : s.WaitsSeen { s with fresh := n }.tickTime := .of_harts rfl rfl
  unfold State.logDie
  dsimp only
  split
  · exact log _ _
  · exact (tick _).trans (log _ _)
theorem State.seen_completionOr (r : Nat) (v : Word) : s.WaitsSeen (s.completionOr r v) := by
  unfold State.completionOr
  dsimp only
  split
  · exact .refl s
  · split_ifs
    · exact s.seen_newTag.trans (State.seen_sendTo _ _ _ _ _ _)
    · exact s.seen_setRegion _ _
    · exact s.seen_logDie _ _ _
    · exact (s.seen_writeGa _ _ _).trans (State.noticed_noticeAll _).seen
theorem State.seen_payOwed (r : Nat) : s.WaitsSeen (s.payOwed r) := by
  unfold State.payOwed
  dsimp only
  split
  · exact (s.seen_setRegion _ _).trans (State.seen_completionOr _ _ _)
  · exact .refl s
theorem State.seen_syncRcb (r : Nat) : s.WaitsSeen (s.syncRcb r) := by
  unfold State.syncRcb
  split
  · exact .refl s
  · split
    · exact .refl s
    · exact (s.seen_writeGa _ _ _).trans (State.seen_writeGa _ _ _ _)
theorem State.seen_closeQueues (r : Nat) : s.WaitsSeen (s.closeQueues r) := by
  refine .foldl (fun s i => ?_) _ s
  unfold State.closeOutput
  split
  · split
    · exact .refl s
    · exact .of_harts rfl rfl
  · exact .refl s
theorem State.seen_zeroRanges {α : Type} (at' : State → α → Nat) (n : Nat) (l : List α) :
    s.WaitsSeen (l.foldl (fun s a => s.zeroRange (at' s a) n) s) :=
  .foldl (fun s a => show s.WaitsSeen (s.zeroRange (at' s a) n) from .of_harts rfl rfl) l s
theorem State.seen_finishRegion (r : Nat) : s.WaitsSeen (s.finishRegion r) := by
  have parent (s : State) (p : Option Nat) : s.WaitsSeen (match p with
      | none => s
      | some p => s.syncRcb p) := by
    cases p with
    | none => exact .refl s
    | some p => exact s.seen_syncRcb p
  unfold State.finishRegion
  refine .trans (t := List.foldl _ _ _) ?_ (.of_harts rfl rfl)
  refine .trans ?_ (State.seen_zeroRanges _ _ _ _)
  exact (((s.seen_completionOr _ _).trans (State.seen_syncRcb _ _)).trans (State.seen_setRegion _ _ _)).trans (parent _ _)
theorem State.seen_settleRegion (r : Nat) : s.WaitsSeen (s.settleRegion r) := by
  have settled : s.WaitsSeen (((s.closeQueues r).syncRcb r).payOwed r) :=
    ((s.seen_closeQueues r).trans (State.seen_syncRcb _ r)).trans (State.seen_payOwed _ r)
  unfold State.settleRegion
  dsimp only
  split
  · exact settled.trans (State.seen_finishRegion _ r)
  · exact settled
theorem State.seen_releaseCore (r core : Nat) : s.WaitsSeen (s.releaseCore r core) := by
  unfold State.releaseCore
  dsimp only
  split
  · exact (State.seen_zeroRanges s _ _ _).trans (State.seen_setRegion _ _ _)
  · exact .refl s
theorem State.seen_dropBound (h : Nat) : s.WaitsSeen (s.dropBound h) :=
  .foldl (fun s k => show s.WaitsSeen (s.freeCtx k) from .of_harts rfl rfl) _ s
end

/-! ### A slot that is freed -/

section
variable (s : State) (h : Nat)

/-- Only records have been put on their way. -/
def State.Posted (s t : State) : Prop := t = { s with fresh := t.fresh, outbox := t.outbox, conns := t.conns }
theorem State.posted_closeCounts : s.Posted (s.closeCounts h) := by
  have step (s : State) (dev : Nat) (sec : Bool) (r : Record) : s.Posted (s.newTag.1.sendTo dev 0 false sec r) := by
    rw [State.Posted, State.sendTo_eq]
    rfl
  have trans {s t u : State} (a : s.Posted t) (b : t.Posted u) : s.Posted u := by
    rw [State.Posted] at a b ⊢
    rw [b, a]
  unfold State.closeCounts
  generalize (s.hart h).owedSeals h = l
  induction l generalizing s with
  | nil => rfl
  | cons x l ih => exact trans (step s _ _ _) (ih _)
theorem State.freeSlot_eq : s.freeSlot h = { s with
    harts := (s.setHart h Hart.free).harts
    acc := (s.freeSlot h).acc
    pool := (s.freeSlot h).pool
    fresh := (s.freeSlot h).fresh
    outbox := (s.freeSlot h).outbox
    conns := (s.freeSlot h).conns } := by
  have closed : s.closeCounts h = { s with fresh := _, outbox := _, conns := _ } := s.posted_closeCounts h
  unfold State.freeSlot
  dsimp only
  split
  · rw [closed]; rfl
  · rw [closed]; rfl
theorem State.hart_freeSlot (k : Nat) : (s.freeSlot h).hart k = if k = h then Hart.free else s.hart k :=
  (congrArg (State.hart · k) (s.freeSlot_eq h)).trans (State.hart_setHart s h k Hart.free)
theorem State.seen_leave : (s.setHart h Hart.free).WaitsSeen (s.leave h) := by
  have freed : (s.setHart h Hart.free).WaitsSeen (s.freeSlot h) := .of_harts (by rw [State.freeSlot_eq]; rfl) (by rw [State.freeSlot_eq])
  unfold State.leave
  dsimp only
  split
  · exact freed
  · exact (freed.trans (State.seen_releaseCore _ _ _)).trans (State.seen_settleRegion _ _)
/-- The slot that a hart has left. -/
theorem State.hart_leave : (s.leave h).hart h = Hart.free := by
  have gone := (State.seen_leave s h).hart_idle (h := h) (by rw [State.hart_setHart_same]; rfl)
  rw [gone, State.hart_setHart_same]
theorem State.hart_leave_other {k : Nat} (n : k ≠ h) : (s.leave h).hart k = { s.hart k with wait := ((s.leave h).hart k).wait } := by
  have kept := (State.seen_leave s h).hart k
  rwa [State.hart_setHart, if_neg n] at kept
/-- A hart of no region leaves its slot and nothing else. -/
theorem State.leave_unregioned (none : (s.hart h).region = none) : s.leave h = s.freeSlot h := by
  rw [State.leave, none]
end

/-! ### FORK that splits nothing -/

theorem State.split_refused {v : State} {f : ForkOps} {n : Nat} (ways : n = if f.four = 1 then 4 else 2)
    (short : v.me.k < n ∨ v.me.family.isSome = true ∨ v.me.matrix.isSome = true ∨
      (v.freeSlots (coreOf v.cur)).length < n - 1 ∨
      ∃ r, v.me.region = some r ∧ (v.remaining 1 r < n - 1 ∨ v.remaining 5 r < (n - 1) * (locketSize 0 + 4096) ∨
        (v.spaces v.me.secure 0).length < n - 1)) :
    v.split f = v.withMe fun t => t.result f.d (BitVec.allOnes 64) := by
  subst ways
  unfold State.split
  dsimp only
  generalize (if f.four = 1 then 4 else 2) = n at short
  refine if_pos ?_
  simp only [Bool.or_eq_true, decide_eq_true_eq, List.length_take, Bool.not_eq_true']
  obtain few | family | matrix | slots | ⟨r, region, budget⟩ := short
  · exact .inl (.inl (.inr few))
  · exact .inl (.inl (.inl (.inl family)))
  · exact .inl (.inl (.inl (.inr matrix)))
  · exact .inl (.inr (by omega))
  · refine .inr ?_
    rw [region]
    simp only [Bool.and_eq_false_iff, decide_eq_false_iff_not, Nat.not_le]
    tauto

/-! ### MERGE -/

/-- Element i of a row reassembled from n children's rows (R120). -/
theorem rowElem_parentRow {k n i : Nat} {child : Nat → Row} (share : k ≤ 8) (h : i < 8 * k) :
    rowElem 512 (parentRow k n child).toNat i = rowElem 512 (child (i % n)).toNat (i / n) := by
  have small (g : Nat) : rowElem 512 (child (g % n)).toNat (g / n) < 2 ^ 512 := Nat.mod_lt _ (by positivity)
  have bound := foldr_digits_lt 512 (fun g => rowElem 512 (child (g % n)).toNat (g / n)) (List.range (8 * k)) fun a _ => small a
  have fits : 2 ^ (512 * (List.range (8 * k)).length) ≤ (2 ^ 32768 : Nat) :=
    Nat.pow_le_pow_right (by decide) (by rw [List.length_range]; omega)
  have digit := rowElem_foldr_digits 512 (fun g => rowElem 512 (child (g % n)).toNat (g / n)) (List.range (8 * k))
    (fun a _ => small a) i (by simpa using h)
  rw [parentRow, BitVec.toNat_ofNat, Nat.mod_eq_of_lt (bound.trans_le fits), digit, List.getElem_range]
/-- The row of a child, child 0's being the parent's own. -/
def Hart.familyRow (t : Hart) (g : Family) (j r : Nat) : Row :=
  if j = 0 then t.vr r else Sparse.get 0 (((g.handed.find? fun e => e.1 = j).map (·.2)).getD []) r
theorem Hart.v_reassemble (t : Hart) (g : Family) : (t.reassemble g).v =
    mapRows fun r => parentRow (popCount 8 g.parentMap.toNat) g.ways fun j => t.familyRow g j r := by
  unfold Hart.reassemble Hart.familyRow
  dsimp only
theorem Hart.reassemble_eq (t : Hart) (g : Family) : t.reassemble g = { t with
    v := (t.reassemble g).v
    map := g.parentMap
    family := none } := by
  rw [Hart.v_reassemble]
  rfl
theorem Hart.vr_reassemble (t : Hart) (g : Family) {r i : Nat} (row : r < 32) (h : i < 8 * popCount 8 g.parentMap.toNat) :
    rowElem 512 ((t.reassemble g).vr r).toNat i = if i % g.ways = 0 then rowElem 512 (t.vr r).toNat (i / g.ways)
      else rowElem 512 (Sparse.get 0 ((g.handed.find? fun e : Nat × List (Nat × Row) => e.1 = i % g.ways).elim [] Prod.snd) r).toNat
        (i / g.ways) := by
  rw [Hart.vr_of_mapRows (t.v_reassemble g) row, rowElem_parentRow (popCount_le _ _) h, Hart.familyRow]
  split
  · rfl
  · cases g.handed.find? fun e : Nat × List (Nat × Row) => e.1 = i % g.ways
    · rw [Option.map_none, Option.getD_none, Option.elim_none]
    · rw [Option.map_some, Option.getD_some, Option.elim_some]

section
variable {s u : State} (hu : u = (s.withMe Hart.closeConvoy).drainNb s.cur) (hd : s.me.drained = true) (hw : u.me.worked = true)
include hu hd hw

/-- A MERGE of a hart that has finished its work. -/
theorem exec_merge : exec .merge s = .next (u.me.family.elim (u.withMe Hart.advance) fun g =>
    if g.index ≠ 0 then (if u.me.ctxsSettled && u.me.tracked.isEmpty then u.allStatuses.handBack g else u.park .merge none)
    else if g.handed.length + 1 = g.ways then u.withMe fun t => (t.reassemble g).advance else u.park .merge none) := by
  show Host.Outcome.next _ = _
  rw [State.afterWork_of_worked hu hd hw]
  cases u.me.family <;> rfl
end


/-! ### A child that is handed back -/

/-- Child 0, from slot z, once child j of slot h has handed back its rows, flags and counts. -/
def Hart.takesBack (z t : Hart) (h j : Nat) : Hart :=
  { (((z.setCsr 0x000 (z.csrv 0x000 ||| (t.csrv 0x000 &&& 0x1F))).setCsr 0x012 (z.csrv 0x012 ||| t.csrv 0x012)).inherit t h) with
    family := z.family.map fun (g : Family) => { g with handed := g.handed ++ [(j, t.v)] } }
theorem Hart.takesBack_eq (z t : Hart) (h j : Nat) : z.takesBack t h j =
    { z.inherit t h with csr := (z.takesBack t h j).csr, family := (z.takesBack t h j).family } := by
  unfold Hart.takesBack
  rfl
theorem Hart.csrv_takesBack (z t : Hart) (h j n : Nat) : (z.takesBack t h j).csrv n =
    if n = 0x012 then z.csrv 0x012 ||| t.csrv 0x012
    else if n = 0x000 then z.csrv 0x000 ||| (t.csrv 0x000 &&& 0x1F) else z.csrv n := by
  show Hart.csrv ((z.setCsr 0x000 _).setCsr 0x012 _) n = _
  rw [Hart.csrv_setCsr, Hart.csrv_setCsr]

section
variable {s u : State}

/-- With no context slots there is nothing to acquire. -/
theorem State.allStatuses_unbound (none : u.me.ctxs = []) : u.allStatuses = u := by
  have unbound (k : Nat) : (u.me.ctxSlot k).bound = false := by rw [Hart.ctxSlot, none]; rfl
  unfold State.allStatuses
  generalize (List.range 8).map (· + 8) = l
  induction l with
  | nil => rfl
  | cons k l ih => rw [List.foldl_cons, if_neg (by simp [unbound k]), ih]
/-- The package once the executing hart has handed what it has to child 0 in slot z. -/
def State.handsBack (u : State) (z j : Nat) : State :=
  (u.setHart z ((u.hart z).takesBack u.me u.cur j)).withMe fun t => { t with unsealed := [], inherited := [] }
theorem State.hart_handsBack {z : Nat} (j : Nat) (other : z ≠ u.cur) (h : Nat) : (u.handsBack z j).hart h =
    if h = u.cur then { u.me with unsealed := [], inherited := [] }
    else if h = z then (u.hart z).takesBack u.me u.cur j else u.hart h := by
  have mine : (u.setHart z ((u.hart z).takesBack u.me u.cur j)).me = u.me :=
    (State.hart_setHart u z u.cur _).trans (if_neg (Ne.symm other))
  unfold State.handsBack
  rw [State.hart_withMe, mine, State.hart_setHart]
  rfl
/-- A child of no region without contexts hands back its rows, flags and counts and leaves its slot. -/
theorem State.handBack_plain {g : Family} {z : Nat} (region : u.me.region = none) (ctxs : u.me.ctxs = [])
    (zero : ((u.kin u.cur).find? fun h => (u.hart h).family.any fun x => x.index = 0) = some z) (other : z ≠ u.cur) :
    u.handBack g = (u.handsBack z g.index).freeSlot u.cur := by
  have faults : u.me.faultBits = 0 := by rw [Hart.faultBits, ctxs]; rfl
  have me : (u.handsBack z g.index).hart u.cur = { u.me with unsealed := [], inherited := [] } := by
    rw [State.hart_handsBack _ other, if_pos rfl]
  have keys : ((u.handsBack z g.index).hart u.cur).boundKeys = [] := by
    rw [me, Hart.boundKeys]
    show List.map _ (u.me.ctxs.filter _) = _
    rw [ctxs]
    rfl
  have bound : (u.handsBack z g.index).dropBound u.cur = u.handsBack z g.index := by rw [State.dropBound, keys]; rfl
  have left : ((u.handsBack z g.index).dropBound u.cur).leave u.cur = (u.handsBack z g.index).freeSlot u.cur := by
    rw [bound, State.leave_unregioned _ _ (by rw [me]; exact region)]
  unfold State.handBack
  dsimp only
  rw [if_pos faults, zero]
  exact left
end

end Sys2Proof.Machine
open Sys2Proof Sys2Proof.Machine

/-- Settles O15: what a FORK that is refused, and each form of MERGE, comes to. -/
theorem forkAndMergeOfASingleHart : Obligations.ForkAndMergeOfASingleHart := by
  unfold Obligations.ForkAndMergeOfASingleHart
  refine ⟨fun f s u v n ways hu hd hw adopts short => ?fork, fun s u hu hd hw => ?merge⟩
  case fork =>
    have cur : v.cur = s.cur := (State.cur_adoptShare adopts).trans (by rw [hu]; exact State.cur_drainNb _ _)
    rw [← cur] at short
    have run := exec_fork_of_adopted (f := f) hu hd hw adopts
    rw [State.split_refused ways short] at run
    refine ⟨_, run, onlyMe_withMe v _, ?_, ?_⟩
    · rw [State.me_withMe, Hart.result_eq]
    · rw [State.me_withMe]
      exact regSet_result _ _ _
  case merge =>
    have run := exec_merge hu hd hw
    refine ⟨fun none => ?single, fun g family index all => ?whole, fun g family waits => ?waits,
      fun g c z family index region ctxs sent zero zfam => ?child⟩
    case single =>
      rw [none, Option.elim_none] at run
      exact ⟨_, run, onlyMe_withMe u _, by rw [State.me_withMe]; rfl⟩
    case whole =>
      rw [family, Option.elim_some, if_neg (by simp [index]), if_pos all] at run
      refine ⟨_, run, onlyMe_withMe u _, ?_, fun r i row inRow => ?_⟩
      · rw [State.me_withMe, Hart.reassemble_eq]
        rfl
      · have same (t : Hart) : t.advance.vr r = t.vr r := rfl
        rw [State.me_withMe, same, Hart.vr_reassemble _ _ row inRow]
    case waits =>
      have parks : exec .merge s = .next (u.park .merge Option.none) := by
        rw [run, family, Option.elim_some]
        by_cases index : g.index = 0
        · rw [if_pos index] at waits
          rw [if_neg (by simp [index]), if_neg waits]
        · rw [if_neg index] at waits
          rw [if_pos index, if_neg]
          simp only [Bool.and_eq_true, List.isEmpty_iff]
          rintro ⟨settled, sent⟩
          obtain no | no := waits
          · simp [settled] at no
          · exact no sent
      exact ⟨_, parks, State.pc_park u _ _, State.instr_park u _ _⟩
    case child =>
      have settled : u.me.ctxsSettled = true := by rw [Hart.ctxsSettled, ctxs]; rfl
      have other : z ≠ u.cur := by
        rintro rfl
        have first := List.find?_some zero
        have family : (u.hart u.cur).family = some g := family
        rw [family] at first
        exact index (by simpa using first)
      rw [family, Option.elim_some, if_pos index, if_pos (by simp [settled, sent]), State.allStatuses_unbound ctxs,
        State.handBack_plain region ctxs zero other] at run
      have freed := (u.handsBack z g.index).freeSlot_eq u.cur
      have harts (h : Nat) : ((u.handsBack z g.index).freeSlot u.cur).hart h =
          if h = u.cur then Hart.free else if h = z then (u.hart z).takesBack u.me u.cur g.index else u.hart h := by
        rw [State.hart_freeSlot, State.hart_handsBack _ other]
        split <;> rfl
      have zhart := harts z
      rw [if_neg other, if_pos rfl] at zhart
      refine ⟨_, run, ?_, ?_, fun h n m => ?_, ?_, ?_, ?_, fun n out => ?_, ?_⟩
      · rw [freed]; rfl
      · rw [State.me, show ((u.handsBack z g.index).freeSlot u.cur).cur = u.cur by rw [freed]; rfl, harts, if_pos rfl]
      · rw [harts, if_neg m, if_neg n]
      · rw [zhart]
        exact (congrArg (Option.map _) zfam).trans rfl
      · rw [zhart, Hart.csrv_takesBack]; rfl
      · rw [zhart, Hart.csrv_takesBack]; rfl
      · simp only [List.mem_cons, List.not_mem_nil, or_false, not_or] at out
        rw [zhart, Hart.csrv_takesBack, if_neg out.2, if_neg out.1]
      · rw [zhart]
        exact Hart.takesBack_eq _ _ _ _
end

section
/-!
SUPPORT. END (04_scalar R122): the release at its end, and the slot that it frees (O17).
-/

namespace Sys2Proof.Machine

/-! ### Statuses acquired (05_vector R205) -/

/-- Of the executing hart only control registers, and of the package only contexts, may have changed. -/
structure State.Acquired (s t : State) : Prop where
  frame : t = { s with harts := t.harts, ctxs := t.ctxs }
  others : ∀ h, h ≠ s.cur → t.hart h = s.hart h
  own : t.me = { s.me with csr := t.me.csr }

section
variable {s t u : State}

theorem State.Acquired.refl (s : State) : s.Acquired s := ⟨rfl, fun _ _ => rfl, rfl⟩
theorem State.Acquired.cur (a : s.Acquired t) : t.cur = s.cur := by rw [a.frame]
theorem State.Acquired.trans (a : s.Acquired t) (b : t.Acquired u) : s.Acquired u where
  frame := by rw [b.frame, a.frame]
  others h n := (b.others h (by rw [a.cur]; exact n)).trans (a.others h n)
  own := by rw [b.own, a.own]
theorem State.acquired_acquireStatuses (s : State) (k : Nat) (n : Word) : s.Acquired (s.acquireStatuses k n) := by
  have wrote (s : State) (g : Hart → Word) : s.Acquired (s.withMe fun t => t.setCsr 0x012 (g t)) :=
    ⟨rfl, fun h n => State.hart_withMe_other s _ n, by rw [State.me_withMe]; rfl⟩
  have ctx (s : State) (key : Nat) (c : Ctx) : s.Acquired (s.setCtx key c) := ⟨rfl, fun _ _ => rfl, rfl⟩
  unfold State.acquireStatuses
  dsimp only
  split
  · exact wrote s fun t => _
  · exact (ctx _ _ _).trans (wrote _ fun t => _)
theorem State.acquired_allStatuses (s : State) : s.Acquired s.allStatuses := by
  unfold State.allStatuses
  generalize (List.range 8).map (· + 8) = l
  induction l generalizing s with
  | nil => exact .refl s
  | cons k l ih =>
    rw [List.foldl_cons]
    refine State.Acquired.trans ?_ (ih _)
    split
    · exact s.acquired_acquireStatuses _ _
    · exact .refl s
end

/-! ### A release of what has gone no further than this package (06_memory_isa R177) -/

section
variable {s : State} {h : Nat}

/-- With no seal and no flushing read due, only the counts of a hart are cleared. -/
theorem State.sendSeals_home (near : ∀ e ∈ (s.hart h).unsealed, e.1 < 14) (none : (s.hart h).inherited = []) :
    s.sendSeals h 3 = s.setHart h { s.hart h with unsealed := [], inherited := [] } := by
  have all (l : List (Nat × Nat)) : l.filter (fun e => covers 3 (slotDie h) e.1) = l := by simp [covers]
  have few : (s.hart h).unsealed.filter (fun e => decide (16 ≤ e.1)) = [] := List.filter_eq_nil_iff.mpr fun e isIn => by
    have := near e isIn
    simp
    omega
  have links (d : Nat) (high : 14 ≤ d) : ((s.hart h).unsealed.any fun e => decide (e.1 = d)) = false :=
    List.any_eq_false.mpr fun e isIn => by
      have := near e isIn
      simp
      omega
  have kept : (s.hart h).unsealed.filter (fun e => !covers 3 (slotDie h) e.1) = [] := by simp [covers]
  unfold State.sendSeals
  simp only [none, all, kept, Hart.owedSeals, few, List.filter_nil, List.map_nil, List.append_nil, List.foldl_nil,
    links 14 (by decide), links 15 (by decide), List.filter_cons, Bool.false_eq_true, if_false]
/-- The state in which a hart's stores are performed and its counts are cleared. -/
def State.cleared (s : State) (h : Nat) : State :=
  (s.flushStores h).setHart h { (s.flushStores h).hart h with unsealed := [], inherited := [] }
/-- A release that has nothing to wait for. -/
theorem State.release_home (near : ∀ e ∈ (s.hart h).unsealed, e.1 < 14) (none : (s.hart h).inherited = [])
    (quiet : (s.hart h).sealing = []) (sent : ∀ x ∈ (s.hart h).tracked, x.sent = true) : s.release h 3 = (s.cleared h, true) := by
  have own := (s.landed_flushStores h).own.frame
  have tracked : ((s.flushStores h).hart h).tracked.any (fun x => !x.sent) = false := by
    rw [own]
    exact List.any_eq_false.mpr fun x isIn => by simp [sent x isIn]
  have seals : (s.flushStores h).sendSeals h 3 = s.cleared h :=
    State.sendSeals_home (s := s.flushStores h) (h := h) (by rw [own]; exact near) (by rw [own]; exact none)
  have sealing : ((s.cleared h).hart h).sealing = [] := by
    rw [State.cleared, State.hart_setHart_same, own]
    exact quiet
  unfold State.release
  dsimp only
  rw [if_neg (by simp [tracked]), seals]
  exact Prod.ext rfl (List.isEmpty_iff.mpr sealing)
theorem State.cur_cleared : (s.cleared h).cur = s.cur := (s.landed_flushStores h).cur
theorem State.region_cleared : ((s.cleared h).hart h).region = (s.hart h).region := by
  rw [State.cleared, State.hart_setHart_same, (s.landed_flushStores h).own.frame]
theorem State.hart_cleared {k : Nat} (n : k ≠ h) : (s.cleared h).hart k = { s.hart k with wait := ((s.cleared h).hart k).wait } := by
  have other := (s.landed_flushStores h).other k n
  rwa [State.cleared, State.hart_setHart, if_neg n]
theorem State.mem_flushStores (none : (s.hart h).nb = []) : (s.flushStores h).mem = s.mem := by
  unfold State.flushStores
  rw [none]
  rfl
theorem State.mem_cleared (none : (s.hart h).nb = []) : (s.cleared h).mem = s.mem := State.mem_flushStores none
end

/-! ### END -/

/-- The stage of the executing hart's region is closed, where it has a region. -/
def State.closeOwn (s : State) : State :=
  match s.me.region with
  | none => s
  | some r => s.closeStage r s.me.stage
theorem State.seen_closeOwn (s : State) : s.WaitsSeen s.closeOwn := by
  unfold State.closeOwn
  split
  · exact .refl s
  · exact .of_harts rfl rfl
theorem State.closeOwn_unregioned {s : State} (none : s.me.region = none) : s.closeOwn = s := by rw [State.closeOwn, none]
theorem State.mem_dropBound (s : State) (h : Nat) : (s.dropBound h).mem = s.mem := by
  unfold State.dropBound
  induction (s.hart h).boundKeys generalizing s with
  | nil => rfl
  | cons k l ih => exact (ih (s.freeCtx k)).trans rfl
theorem State.mem_leave_unregioned {s : State} {h : Nat} (none : (s.hart h).region = none) : (s.leave h).mem = s.mem := by
  rw [State.leave_unregioned _ _ none, State.freeSlot_eq]

/-- The executing hart leaves matrix mode. -/
def State.leaveMatrix (s : State) : State := s.withMe fun t => { t with matrix := none }
theorem State.me_leaveMatrix (s : State) : s.leaveMatrix.hart s.cur = { s.me with matrix := none } := State.me_withMe s _
/-- The state in which a hart has left matrix mode and its release is complete. -/
def State.released (s : State) : State := s.leaveMatrix.cleared s.cur
/-- The completion word of the executing hart's region has its bits. -/
def State.reported (s : State) : State :=
  match s.me.region with
  | none => s
  | some n => s.completionOr n s.me.endBits
theorem State.seen_reported (s : State) : s.WaitsSeen s.reported := by
  unfold State.reported
  split
  · exact .refl s
  · exact s.seen_completionOr _ _
theorem State.reported_unregioned {s : State} (none : s.me.region = none) : s.reported = s := by rw [State.reported, none]

section
variable {s : State}

/-- END of a hart whose release has nothing to wait for. -/
theorem finish_eq (near : ∀ e ∈ s.me.unsealed, e.1 < 14) (none : s.me.inherited = []) (quiet : s.me.sealing = [])
    (sent : ∀ x ∈ s.me.tracked, x.sent = true) (idle : s.me.matrix.isSome = true → s.me.matrixIdle = true) (close : State → State) :
    execEndHart.finish close s =
      ((close s.released.reported).dropBound (close s.released.reported).cur).leave (close s.released.reported).cur := by
  have mine := s.me_leaveMatrix
  have release : s.leaveMatrix.release s.leaveMatrix.cur 3 = (s.released, true) :=
    State.release_home (s := s.leaveMatrix) (h := s.cur) (by rw [mine]; exact near)
      (by rw [mine]; exact none) (by rw [mine]; exact quiet) (by rw [mine]; exact sent)
  unfold State.leaveMatrix at release
  unfold execEndHart.finish
  rw [if_neg (by simpa using idle)]
  dsimp only
  rw [release, if_pos rfl]
  dsimp only
  generalize s.released = w
  unfold State.reported
  cases w.me.region <;> rfl
theorem State.cur_released : s.released.cur = s.cur := State.cur_cleared
theorem State.region_released : s.released.me.region = s.me.region := by
  rw [State.me, State.cur_released, State.released, State.region_cleared, State.me_leaveMatrix]
theorem State.hart_released {h : Nat} (n : h ≠ s.cur) : s.released.hart h = { s.hart h with wait := (s.released.hart h).wait } := by
  have other : s.leaveMatrix.hart h = s.hart h := State.hart_withMe_other s _ n
  have kept := State.hart_cleared (s := s.leaveMatrix) n
  rwa [other] at kept
theorem State.mem_released (none : s.me.nb = []) : s.released.mem = s.mem := by
  have mem : s.leaveMatrix.mem = s.mem := rfl
  rw [State.released, State.mem_cleared (by rw [State.me_leaveMatrix]; exact none), mem]
end

section
variable {s u : State} (hu : u = (s.withMe Hart.closeConvoy).drainNb s.cur) (hd : s.me.drained = true) (hw : u.me.worked = true)
include hu hd hw

/-- What END of a hart whose work is done comes to. -/
theorem exec_endHart : exec .endHart s = .next (if u.me.ctxsSettled = true then
    u.allStatuses.me.family.elim (execEndHart.finish State.closeOwn u.allStatuses) fun g =>
      if g.index ≠ 0 then (if u.allStatuses.me.tracked.isEmpty then u.allStatuses.closeOwn.handBack g else u.allStatuses.park .endHart none)
      else if g.handed.length + 1 = g.ways then execEndHart.finish State.closeOwn (u.allStatuses.withMe fun t => t.reassemble g)
      else u.allStatuses.park .endHart none
    else u.park .endHart none) := by
  show Host.Outcome.next _ = _
  rw [State.afterWork_of_worked hu hd hw]
  by_cases settled : u.me.ctxsSettled = true
  · rw [if_pos settled, if_neg (by simp [settled])]
    dsimp only
    generalize u.allStatuses = w
    cases w.me.family with
    | none => exact congrArg (fun c => (Host.Outcome.next (execEndHart.finish c w) : Out)) (funext fun s => rfl)
    | some g =>
      dsimp only [Option.elim_some]
      by_cases child : g.index ≠ 0
      · rw [if_pos child, if_pos child]
        by_cases sent : w.me.tracked.isEmpty = true
        · rw [if_pos sent, if_pos sent]
          exact congrArg (fun t : State => (Host.Outcome.next (t.handBack g) : Out)) rfl
        · rw [if_neg sent, if_neg sent]
      · rw [if_neg child, if_neg child]
        by_cases all : g.handed.length + 1 = g.ways
        · rw [if_pos all, if_pos all]
          exact congrArg (fun c => (Host.Outcome.next (execEndHart.finish c (w.withMe fun t => t.reassemble g)) : Out)) (funext fun s => rfl)
        · rw [if_neg all, if_neg all]
  · rw [if_neg settled, if_pos (by simp [settled])]
end

/-- A hart that drops its contexts and leaves holds a free slot. -/
theorem State.me_left (s : State) : ((s.dropBound s.cur).leave s.cur).me = Hart.free := by
  have cur : ((s.dropBound s.cur).leave s.cur).cur = s.cur := (State.seen_leave _ _).cur.trans (s.seen_dropBound _).cur
  rw [State.me, cur, State.hart_leave]
/-- A child that hands its rows back leaves its slot. -/
theorem State.me_handBack (s : State) (g : Family) : (s.handBack g).me = Hart.free := by
  unfold State.handBack
  exact State.me_left _

section
variable {s : State} (near : ∀ e ∈ s.me.unsealed, e.1 < 14) (none : s.me.inherited = []) (quiet : s.me.sealing = [])
  (sent : ∀ x ∈ s.me.tracked, x.sent = true) (idle : s.me.matrix.isSome = true → s.me.matrixIdle = true)
include near none quiet sent idle

theorem me_finish (close : State → State) : (execEndHart.finish close s).me = Hart.free := by
  rw [finish_eq near none quiet sent idle]
  exact State.me_left _
theorem hart_finish {h : Nat} (other : h ≠ s.cur) : (execEndHart.finish State.closeOwn s).hart h =
    { s.hart h with wait := ((execEndHart.finish State.closeOwn s).hart h).wait } := by
  rw [finish_eq near none quiet sent idle]
  have closed := (State.seen_reported s.released).trans (State.seen_closeOwn _)
  have dropped := closed.trans (State.seen_dropBound _ s.released.reported.closeOwn.cur)
  have away : h ≠ s.released.reported.closeOwn.cur := by rw [closed.cur, State.cur_released]; exact other
  rw [State.hart_leave_other _ _ away, dropped.hart h, State.hart_released other]
theorem mem_finish (region : s.me.region = Option.none) (nb : s.me.nb = []) :
    (execEndHart.finish State.closeOwn s).mem = s.mem := by
  have released : s.released.me.region = Option.none := by rw [State.region_released, region]
  have dropped := (State.seen_dropBound s.released s.released.cur).hart s.released.cur
  rw [finish_eq near none quiet sent idle, State.reported_unregioned released, State.closeOwn_unregioned released,
    State.mem_leave_unregioned (by rw [dropped]; exact released), State.mem_dropBound, State.mem_released nb]
end

/-- The executing hart with its siblings' rows, where it is child 0 of a family. -/
def State.reassembled (s : State) : State :=
  match s.me.family with
  | none => s
  | some g => s.withMe fun t => t.reassemble g
theorem State.reassembled_alone {s : State} (alone : s.me.family = none) : s.reassembled = s := by rw [State.reassembled, alone]
theorem State.reassembled_member {s : State} {g : Family} (member : s.me.family = some g) :
    s.reassembled = s.withMe fun t => t.reassemble g := by rw [State.reassembled, member]
/-- Of the executing hart only rows, share and family change, and of the package nothing else. -/
theorem State.me_reassembled (s : State) : s.reassembled.me = { s.me with
    v := s.reassembled.me.v
    map := s.reassembled.me.map
    family := s.reassembled.me.family } := by
  unfold State.reassembled
  cases s.me.family with
  | none => rfl
  | some g =>
    dsimp only
    rw [State.me_withMe, Hart.reassemble_eq]
theorem State.cur_reassembled (s : State) : s.reassembled.cur = s.cur := by
  unfold State.reassembled
  split <;> rfl
theorem State.mem_reassembled (s : State) : s.reassembled.mem = s.mem := by
  unfold State.reassembled
  split <;> rfl
theorem State.hart_reassembled (s : State) {h : Nat} (other : h ≠ s.cur) : s.reassembled.hart h = s.hart h := by
  unfold State.reassembled
  split
  · rfl
  · exact State.hart_withMe_other s _ other

end Sys2Proof.Machine

open Sys2Proof Sys2Proof.Machine

/-- Settles O17: the slot is freed last, and what the release, the region and the contexts do reaches no other hart but its wait. -/
theorem endFreesTheSlot : Obligations.EndFreesTheSlot := by
  unfold Obligations.EndFreesTheSlot
  intro s u hu hd hw
  have run := exec_endHart hu hd hw
  have got := u.acquired_allStatuses
  refine ⟨fun waits => ?waits, fun g settled family child sent => ?child,
    fun settled family idle near none quiet sent => ?whole⟩
  case waits =>
    rw [if_neg (by simp [waits])] at run
    exact ⟨_, run, State.pc_park u _ _, State.instr_park u _ _⟩
  case child =>
    have same : u.allStatuses.me.family = some g := by rw [got.own]; exact family
    have performed : u.allStatuses.me.tracked.isEmpty = true := by rw [got.own]; exact List.isEmpty_iff.mpr sent
    rw [if_pos settled, same, Option.elim_some, if_pos child, if_pos performed] at run
    exact ⟨_, run, State.me_handBack _ g⟩
  case whole =>
    obtain ⟨w, hw⟩ : ∃ w, w = u.allStatuses.reassembled := ⟨_, rfl⟩
    have own : w.me = { u.me with csr := w.me.csr, v := w.me.v, map := w.me.map, family := w.me.family } := by
      rw [hw, State.me_reassembled, got.own]
    have cur : w.cur = u.cur := by rw [hw, State.cur_reassembled, got.cur]
    have ended : exec .endHart s = .next (execEndHart.finish State.closeOwn w) := by
      rw [run, if_pos settled, hw]
      cases is : u.allStatuses.me.family with
      | none => rw [Option.elim_none, State.reassembled_alone is]
      | some g =>
        obtain ⟨index, all⟩ := family g (by rw [got.own] at is; exact is)
        rw [Option.elim_some, if_neg (by simp [index]), if_pos all, State.reassembled_member is]
    generalize w.me.csr = c, w.me.v = v, w.me.map = m, w.me.family = f at own
    have near' : ∀ e ∈ w.me.unsealed, e.1 < 14 := by rw [own]; exact near
    have none' : w.me.inherited = [] := by rw [own]; exact none
    have quiet' : w.me.sealing = [] := by rw [own]; exact quiet
    have sent' : ∀ x ∈ w.me.tracked, x.sent = true := by rw [own]; exact sent
    have idle' : w.me.matrix.isSome = true → w.me.matrixIdle = true := by rw [own]; exact idle
    refine ⟨_, ended, me_finish near' none' quiet' sent' idle' _, fun h other => ?_, fun region nb => ?_⟩
    · have same : w.hart h = u.hart h := by
        rw [hw, State.hart_reassembled _ (by rw [got.cur]; exact other), got.others h other]
      rw [← same]
      exact hart_finish near' none' quiet' sent' idle' (by rw [cur]; exact other)
    · rw [mem_finish near' none' quiet' sent' idle' (by rw [own]; exact region) (by rw [own]; exact nb), hw,
        State.mem_reassembled, got.frame]
end

section
/-!
SUPPORT. HREL and LKSV (04_scalar R128, 20_faults R376): a held hart goes on or is discarded, and a hart's image in a locket (O19).
-/

namespace Sys2Proof.Machine

/-! ### Writes within a locket (20_faults R370) -/

/-- Memory alone changed, and of it only what the first `n` bytes of a locket name. -/
structure State.WroteWithin (addr : Nat → Nat) (n : Nat) (s t : State) : Prop where
  frame : t = { s with mem := t.mem }
  kept : ∀ a, (∀ i, i < n → s.canon (addr i) ≠ s.canon a) → t.readByte a = s.readByte a

section
variable {addr : Nat → Nat} {n : Nat} {s t u : State}

theorem State.WroteWithin.trans (a : s.WroteWithin addr n t) (b : t.WroteWithin addr n u) : s.WroteWithin addr n u where
  frame := by rw [b.frame, a.frame]
  kept c away := (b.kept c fun i lt => by rw [a.frame]; exact away i lt).trans (a.kept c away)
theorem State.wroteWithin_putAt {off m : Nat} (fits : off + m ≤ n) (v : Nat) (s : State) : s.WroteWithin addr n (s.putAt addr off m v) where
  frame := State.writeAt_eq _ _ _
  kept c away := State.readByte_writeAt_other _ _ _ _ fun b isIn => by
    obtain ⟨i, lt, rfl⟩ := List.mem_map.mp isIn
    exact away _ (by have := List.mem_range.mp lt; omega)
theorem State.wroteWithin_putAll {m : Nat} {l : List (Nat × Nat)} (fits : ∀ e ∈ l, e.1 + m ≤ n) (s : State) :
    s.WroteWithin addr n (s.putAll addr m l) := by
  unfold State.putAll
  induction l generalizing s with
  | nil => exact ⟨rfl, fun _ _ => rfl⟩
  | cons e l ih =>
    exact (State.wroteWithin_putAt (fits e List.mem_cons_self) _ s).trans
      (ih (fun x isIn => fits x (List.mem_cons_of_mem _ isIn)) _)
end

/-- Doublewords at consecutive offsets end where their number says. -/
theorem wordsAt_within {off m : Nat} {l : List Word} (fits : off + 8 * l.length ≤ m) : ∀ e ∈ wordsAt off l, e.1 + 8 ≤ m := by
  intro e isIn
  unfold wordsAt at isIn
  obtain ⟨i, lt, rfl⟩ := List.mem_mapIdx.mp isIn
  dsimp only
  omega
/-- Entries that an image has places for stand in those places. -/
theorem placesFor_within {α : Type} {k m w : Nat} {at' : Nat → Nat} {l : List (Nat × α)} (val : α → Nat)
    (fits : ∀ i, i < k → at' i + w ≤ m) : ∀ e ∈ (placesFor k l).map (fun e => (at' e.1, val e.2)), e.1 + w ≤ m := by
  intro e isIn
  obtain ⟨x, isX, rfl⟩ := List.mem_map.mp isIn
  exact fits _ (by simpa using (List.mem_filter.mp isX).2)
theorem length_imageWords {l : List QEntry} (few : l.length ≤ 32) : (imageWords l).length = 264 := by
  have each (l : List QEntry) : (l.map QEntry.image).flatten.length = 8 * l.length := by
    induction l with
    | nil => rfl
    | cons e l ih =>
      rw [List.map_cons, List.flatten_cons, List.length_append, ih, List.length_cons]
      have : e.image.length = 8 := rfl
      omega
  have all : (imageWords l).length = 8 + 8 * l.length + 8 * (32 - l.length) := by
    simp [imageWords, each]
    omega
  omega

/-- A hart's image is written within its locket. -/
theorem State.wroteWithin_writeLocket (s : State) (h : Nat) (addr : Nat → Nat) (held : Bool) :
    s.WroteWithin addr (locketSize (s.hart h).accRows) (s.writeLocket h addr held) := by
  have size : locketSize (s.hart h).accRows = 0x35000 + 512 * (s.hart h).accRows := rfl
  unfold State.writeLocket
  dsimp only
  refine (((((State.wroteWithin_putAt (by omega) _ s).trans (State.wroteWithin_putAll ?words _)).trans
    (State.wroteWithin_putAll ?books _)).trans (State.wroteWithin_putAll ?masks _)).trans (State.wroteWithin_putAll ?rows _)).trans
    ((State.wroteWithin_putAll ?planes _).trans (State.wroteWithin_putAll ?acc _))
  case words =>
    simp only [List.forall_mem_append, and_assoc]
    refine ⟨wordsAt_within (show _ + 8 * 7 ≤ _ by omega), placesFor_within (at' := fun i => 0x100 + 8 * i) _ fun i lt => by omega,
      ?csrs, ?counters, ?contexts, ?away, ?matrix, ?queue⟩
    case csrs =>
      intro e isIn
      obtain ⟨c, isC, rfl⟩ := List.mem_map.mp isIn
      have low : ∀ c ∈ savedCsrs, csrOffset c + 8 ≤ 0x400 := by decide
      have := low c isC
      dsimp only
      omega
    case counters =>
      intro e isIn
      obtain ⟨x, isX, isE⟩ := List.mem_flatMap.mp isIn
      have lt : x.1 < 8 := by simpa using (List.mem_filter.mp isX).2
      simp only [List.mem_cons, List.not_mem_nil, or_false] at isE
      obtain rfl | rfl := isE <;> dsimp only <;> omega
    case contexts =>
      intro e isIn
      obtain ⟨x, isX, isE⟩ := List.mem_flatMap.mp isIn
      have lt : x.1 < 16 := by simpa using (List.mem_filter.mp isX).2
      exact wordsAt_within (l := x.2.record) (show _ + 8 * 4 ≤ _ by omega) e isE
    case away =>
      intro e isIn
      obtain ⟨r, isR, rfl⟩ := List.mem_map.mp isIn
      have := List.mem_range.mp isR
      dsimp only
      omega
    case matrix =>
      cases (s.hart h).matrix with
      | none => simp
      | some m =>
        refine List.forall_mem_cons.mpr ⟨?_, placesFor_within (at' := fun i => 0x24000 + 8 * i) _ fun i lt => by omega⟩
        dsimp only
        omega
    case queue =>
      split
      · simp
      · exact wordsAt_within (by rw [length_imageWords (by simp [queueSize])]; omega)
  case books =>
    refine List.forall_mem_append.mpr ⟨placesFor_within (at' := fun i => 0x400 + 32 * i) _ fun i lt => by omega, ?_⟩
    cases (s.hart h).matrix with
    | none => simp
    | some m =>
      simp only [List.forall_mem_cons]
      refine ⟨?_, ?_, by simp⟩ <;> omega
  case masks => exact placesFor_within (at' := fun i => 0x1000 + 1024 * (i - 1)) _ fun i lt => by omega
  case rows => exact placesFor_within (at' := fun i => 0x4000 + 4096 * i) (fun v : Row => v.toNat % _) fun i lt => by omega
  case planes =>
    cases (s.hart h).matrix with
    | none => simp
    | some m =>
      exact List.forall_mem_append.mpr ⟨placesFor_within (at' := fun i => 0x25000 + 2 * i) _ fun i lt => by omega,
        placesFor_within (at' := fun i => 0x2D000 + 2 * i) _ fun i lt => by omega⟩
  case acc =>
    intro e isIn
    obtain ⟨a, lt, rfl⟩ := List.mem_map.mp isIn
    have := List.mem_range.mp lt
    dsimp only
    omega

/-! ### The bytes of a locket -/

section
variable {s : State} {need : Need} {va : Word} {n : Nat} {locs : List Loc}

theorem State.length_locketRange (range : s.locketRange need va n = .ok locs) : locs.length = n := by
  unfold State.locketRange at range
  split at range
  · cases range
  · next checked =>
    split at range
    · cases range
    · cases range
      exact State.length_checkRange checked
theorem locAddr_mem {i : Nat} (lt : i < locs.length) : ∃ l ∈ locs, locAddr locs i = l.ga :=
  ⟨locs[i], List.getElem_mem lt, by simp [locAddr, locGas, lt]⟩
end

/-! ### A held hart's contexts (20_faults R376) -/

section
variable (s : State) (h : Nat)

/-- Of a hart its context slots and their fault notices, and of the package contexts, may have changed. -/
structure State.Recontexted (s t : State) (h : Nat) : Prop where
  frame : t = { s with harts := t.harts, ctxs := t.ctxs }
  others : ∀ k, k ≠ h → t.hart k = s.hart k
  own : t.hart h = { s.hart h with
    ctxs := (t.hart h).ctxs
    engFault := (t.hart h).engFault
    collFault := (t.hart h).collFault }

variable {s h} in
theorem State.Recontexted.trans {t u : State} (a : s.Recontexted t h) (b : t.Recontexted u h) : s.Recontexted u h where
  frame := by rw [b.frame, a.frame]
  others k n := (b.others k n).trans (a.others k n)
  own := by rw [b.own, a.own]
theorem State.foldl_ctxs {α : Type} (f : State → α → State) (each : ∀ s a, f s a = { s with ctxs := (f s a).ctxs }) (l : List α)
    (s : State) : l.foldl f s = { s with ctxs := (l.foldl f s).ctxs } := by
  induction l generalizing s with
  | nil => rfl
  | cons a l ih =>
    rw [List.foldl_cons, ih (f s a), each]
theorem State.recontexted_set {s : State} {h : Nat} {t : Hart} {c d : List (Nat × Ctx)} (same : t = { s.hart h with
    ctxs := t.ctxs
    engFault := t.engFault
    collFault := t.collFault }) : s.Recontexted { State.setHart { s with ctxs := c } h t with ctxs := d } h where
  frame := rfl
  others k n := (State.hart_setHart s h k t).trans (if_neg n)
  own := by
    rw [show State.hart { State.setHart { s with ctxs := c } h t with ctxs := d } h = t from State.hart_setHart_same s h t]
    exact same
theorem State.recontexted_resumeCtxs : s.Recontexted (s.resumeCtxs h) h := by
  unfold State.resumeCtxs
  generalize (s.hart h).ctxs.filter _ = l
  induction l generalizing s with
  | nil => exact ⟨rfl, fun _ _ => rfl, rfl⟩
  | cons e l ih =>
    rw [List.foldl_cons]
    refine State.Recontexted.trans ?_ (ih _)
    dsimp only
    generalize (s.ctx e.2.key).coll.flatMap _ = others
    rw [State.foldl_ctxs (fun s k => s.setCtx k { s.ctx k with parkSince := none }) (fun _ _ => rfl) others s]
    generalize (others.foldl _ s).ctxs = c
    refine State.recontexted_set ?_
    generalize s.hart h = t
    split_ifs <;> rfl
theorem State.dropBound_eq : s.dropBound h = { s with ctxs := (s.dropBound h).ctxs, collOps := (s.dropBound h).collOps } := by
  unfold State.dropBound
  induction (s.hart h).boundKeys generalizing s with
  | nil => rfl
  | cons k l ih =>
    rw [List.foldl_cons, ih (s.freeCtx k)]
    rfl
/-- What a discarded hart leaves behind is in contexts and the operations that they have joined. -/
theorem State.parting_eq : s.parting h = { s with ctxs := (s.parting h).ctxs, collOps := (s.parting h).collOps } := by
  unfold State.parting
  split
  · rw [State.foldl_ctxs (fun s k => s.setCtx k { s.ctx k with hart := none, stopped := true }) fun _ _ => rfl]
  · exact s.dropBound_eq h
theorem State.parting_kept : (s.parting h).harts = s.harts ∧ (s.parting h).mem = s.mem ∧ (s.parting h).cur = s.cur := by
  rw [State.parting_eq]
  exact ⟨rfl, rfl, rfl⟩
theorem State.hart_parting (k : Nat) : (s.parting h).hart k = s.hart k := by
  rw [State.hart, State.hart, (s.parting_kept h).1]
end

theorem State.cur_setHart (s : State) (h : Nat) (t : Hart) : (s.setHart h t).cur = s.cur := rfl
theorem State.me_setHart_other {s : State} {h : Nat} (n : s.cur ≠ h) (t : Hart) : (s.setHart h t).me = s.me :=
  (State.hart_setHart s h s.cur t).trans (if_neg n)

/-! ### The stop of a hart that is to be held (R128) -/

/-- A stop changes the hart's run state and its contexts. -/
theorem State.sendHold_eq {s : State} {h : Nat} (running : (s.hart h).run = .running) : s.sendHold h =
    { s.setHart h { s.hart h with run := .holding (s.hart h).stopUnits } with ctxs := (s.sendHold h).ctxs } := by
  unfold State.sendHold
  dsimp only
  rw [if_pos running]
  exact State.foldl_ctxs (fun s k => s.setStopped k true) (fun _ _ => rfl) _ _

end Sys2Proof.Machine

open Sys2Proof Sys2Proof.Machine

/-- Settles O19. HREL: neither a hart's contexts nor its slot's release reaches another hart but its wait. LKSV: every place of an
image lies in the locket. -/
theorem heldHartsAreSavedAndReleased : Obligations.HeldHartsAreSavedAndReleased := by
  unfold Obligations.HeldHartsAreSavedAndReleased
  refine ⟨fun f s h hh awake sup low held own => ?hrel, fun f s h hh other sup low aligned runs own => ?lksv⟩
  case hrel =>
    have target : s.target (s.me.xr f.a) = h := hh.symm
    have other : s.cur ≠ h := by rintro rfl; exact awake held
    have check : s.heldCheck (wordOf (.hrel f)) (s.me.xr f.a) none (fun r => r = .held) = none := by
      rw [State.heldCheck_eq, target, if_neg (by simp [sup, low]), if_neg (by simp), if_neg (by simp [held]), if_neg (by simp [own])]
    by_cases bit : (s.me.xr f.a).getLsbD 3 = true
    · have run : exec (.hrel f) s = .next (((s.parting h).withMe Hart.advance).leave h) := by
        show execHrel f s = _
        unfold execHrel
        dsimp only
        rw [check, target]
        dsimp only
        rw [if_pos bit]
      have mine : ((s.parting h).withMe Hart.advance).hart s.cur = s.me.advance := by
        rw [← (s.parting_kept h).2.2]
        exact (State.me_withMe _ _).trans (congrArg Hart.advance (by rw [State.me, (s.parting_kept h).2.2, State.hart_parting]; rfl))
      have rest {k : Nat} (n : k ≠ s.cur) : ((s.parting h).withMe Hart.advance).hart k = s.hart k := by
        rw [State.hart_withMe_other _ _ (by rw [(s.parting_kept h).2.2]; exact n), State.hart_parting]
      obtain ⟨w, hw⟩ : ∃ w, w = (s.parting h).withMe Hart.advance := ⟨_, rfl⟩
      have cur : w.cur = s.cur := by rw [hw]; exact (s.parting_kept h).2.2
      have mem : w.mem = s.mem := by rw [hw]; exact (s.parting_kept h).2.1
      rw [← hw] at run mine rest
      have left : (w.leave h).me = s.me.advance := by
        have idle := (State.seen_leave w h).hart_idle (h := s.cur) (by rw [State.hart_setHart, if_neg other, mine]; rfl)
        rw [State.me, (State.seen_leave w h).cur, show (w.setHart h Hart.free).cur = s.cur from cur, idle, State.hart_setHart,
          if_neg other, mine]
      refine ⟨_, run, left, fun k n m => ?_, fun no => absurd bit (by rw [no]; decide), fun _ => ⟨State.hart_leave w h, fun none => ?_⟩⟩
      · rw [State.hart_leave_other w h n, rest m]
      · rw [State.mem_leave_unregioned (by rw [rest (Ne.symm other)]; exact none), mem]
    · have run : exec (.hrel f) s =
          .next (((s.setHart h { s.hart h with run := .running, saved := false }).resumeCtxs h).withMe Hart.advance) := by
        show execHrel f s = _
        unfold execHrel
        dsimp only
        rw [check, target]
        dsimp only
        rw [if_neg bit]
      obtain ⟨w, hw⟩ : ∃ w, w = (s.setHart h { s.hart h with run := .running, saved := false }).resumeCtxs h := ⟨_, rfl⟩
      have kept := State.recontexted_resumeCtxs (s.setHart h { s.hart h with run := .running, saved := false }) h
      rw [← hw] at run kept
      have cur : w.cur = s.cur := by rw [kept.frame]; rfl
      have rest {k : Nat} (n : k ≠ h) : w.hart k = s.hart k := by rw [kept.others k n, State.hart_setHart, if_neg n]
      have mine : w.me = s.me := by rw [State.me, cur, rest other]; rfl
      have advanced {k : Nat} (n : k ≠ s.cur) : (w.withMe Hart.advance).hart k = w.hart k :=
        State.hart_withMe_other w _ (by rw [cur]; exact n)
      refine ⟨_, run, ?_, fun k n m => ?_, fun _ => ⟨?_, ?_⟩, fun yes => absurd yes bit⟩
      · rw [State.me_withMe, mine]
        rfl
      · rw [advanced m, rest n]
      · show w.mem = _
        rw [kept.frame]
        rfl
      · rw [advanced (Ne.symm other), kept.own, State.hart_setHart_same]
  case lksv =>
    have target : s.target (s.me.xr f.a) = h := hh.symm
    have check : s.heldCheck (wordOf (.lksv f)) (s.me.xr f.a) (some (s.me.xr f.b)) (fun r => r.savable && decide (h ≠ s.cur)) = none := by
      rw [State.heldCheck_eq, target, if_neg (by simp [sup, low]), if_neg (by simp [aligned]), if_neg, if_neg (by simp [own])]
      obtain run | run := runs <;> simp [run, Run.savable, other]
    have run : exec (.lksv f) s = _ := show execLksv f s = _ from rfl
    unfold execLksv at run
    dsimp only at run
    rw [target, check] at run
    dsimp only at run
    cases range : s.locketRange .wr (s.me.xr f.b) (locketSize (s.hart h).accRows) with
    | error e =>
      rw [range] at run
      cases e with
      | trap c v => exact ⟨_, run, trapEntered_raise s c v⟩
      | poison a v => exact ⟨_, run, trapEntered_ecc s _ v⟩
      | wait va => exact ⟨_, run, onlyMe_withMe s fun t => { t with stalled := some va }, State.me_withMe s _⟩
    | ok locs =>
      intro clean
      rw [range] at run
      dsimp only at run
      rw [clean] at run
      dsimp only at run
      have length := State.length_locketRange range
      obtain held | running := runs.symm
      · have wrote := s.wroteWithin_writeLocket h (locAddr locs) true
        obtain ⟨w, hw⟩ : ∃ w, w = s.writeLocket h (locAddr locs) true := ⟨_, rfl⟩
        rw [held] at run
        dsimp only at run
        rw [← hw] at run wrote ⊢
        have harts (k : Nat) : w.hart k = s.hart k := by rw [wrote.frame]; rfl
        have cur : w.cur = s.cur := by rw [wrote.frame]
        have saved {k : Nat} (n : k ≠ s.cur) : ((w.setHart h { w.hart h with saved := true }).withMe Hart.advance).hart k =
            if k = h then { s.hart h with saved := true } else s.hart k := by
          rw [State.hart_withMe_other _ _ (by rw [State.cur_setHart, cur]; exact n), State.hart_setHart, harts, harts]
        refine ⟨_, run, fun k n m => ?_, fun _ => ⟨?_, ?_, rfl, fun a away => ?_⟩, fun no => absurd (held.symm.trans no) (by decide)⟩
        · rw [saved m, if_neg n]
        · rw [saved other, if_pos rfl]
        · rw [State.me_withMe, State.me_setHart_other (by rw [cur]; exact Ne.symm other), State.me, cur, harts]
          rfl
        · refine wrote.kept a fun i lt => ?_
          obtain ⟨l, isL, at'⟩ := locAddr_mem (locs := locs) (i := i) (by rw [length]; exact lt)
          rw [at']
          exact away l isL
      · obtain ⟨w, hw⟩ : ∃ w, w = s.sendHold h := ⟨_, rfl⟩
        have stop := State.sendHold_eq running
        rw [running] at run
        dsimp only at run
        rw [← hw] at run stop
        have cur : w.cur = s.cur := by rw [stop]; rfl
        have harts (k : Nat) : w.hart k = if k = h then { s.hart h with run := .holding (s.hart h).stopUnits } else s.hart k := by
          rw [stop]
          exact State.hart_setHart s h k { s.hart h with run := .holding (s.hart h).stopUnits }
        have mine : w.me = s.me := by rw [State.me, cur, harts, if_neg (Ne.symm other)]; rfl
        refine ⟨_, run, fun k n m => ?_, fun no => absurd (running.symm.trans no) (by decide), fun _ => ⟨?_, ?_, ?_, State.instr_park _ _ _⟩⟩
        · rw [State.hart_park_other _ _ _ (by rw [cur]; exact m), harts, if_neg n]
        · show w.mem = _
          rw [stop]
          rfl
        · rw [State.hart_park_other _ _ _ (by rw [cur]; exact other), harts, if_pos rfl]
        · rw [State.me_park, mine]
end

section
/-!
SUPPORT. LKLD (04_scalar R128, 20_faults R376): what of an image a loaded hart holds, and what else its loading changes (O35).
-/

namespace Sys2Proof.Machine

/-! ### An image is read from memory alone -/

section
variable {s t : State}

theorem State.readAt_congr (mem : s.mem = t.mem) (canon : s.canon = t.canon) (as : List Nat) : s.readAt as = t.readAt as := by
  have byte (a : Nat) : s.readByte a = t.readByte a := by rw [State.readByte, State.readByte, mem, canon]
  induction as with
  | nil => rfl
  | cons a as ih => rw [State.readAt, State.readAt, ih, byte]
theorem State.getAt_congr (mem : s.mem = t.mem) (canon : s.canon = t.canon) (addr : Nat → Nat) : s.getAt addr = t.getAt addr :=
  funext fun _ => funext fun _ => State.readAt_congr mem canon _
theorem State.imgWord_congr {addr : Nat → Nat} (same : s.getAt addr = t.getAt addr) : s.imgWord addr = t.imgWord addr :=
  funext fun _ => by rw [State.imgWord, State.imgWord, same]
theorem State.imgRows_congr {addr : Nat → Nat} (same : s.getAt addr = t.getAt addr) : s.imgRows addr = t.imgRows addr := by
  rw [State.imgRows, State.imgRows, State.imgWord_congr same]
theorem State.imgCtx_congr {addr : Nat → Nat} (same : s.getAt addr = t.getAt addr) : s.imgCtx addr = t.imgCtx addr :=
  funext fun _ => by rw [State.imgCtx, State.imgCtx, State.imgWord_congr same]
end

/-! ### The hart of an image -/

section
variable (s : State) (addr : Nat → Nat)

theorem State.get_imgList {α : Type} [DecidableEq α] {d : α} {keys : List Nat} (off size n : Nat) (f : Nat → α) {k : Nat} (key : k ∈ keys) :
    Sparse.get d (s.imgList addr d keys off size n f) k = f (s.getAt addr (off + size * k) n) := by
  rw [State.imgList, Sparse.get_foldl_set d (fun k => f (s.getAt addr (off + size * k) n)), if_pos key]

variable (keep : Hart) (map : BitVec 8) (tq : Nat)

/-- The registers of a loaded hart, each from its place in the image (R370). -/
theorem Hart.registers_loadLocket {t : Hart} (loaded : t = s.loadLocket addr keep map tq) :
    t.x = s.imgList addr 0 ((List.range 31).map (· + 1)) 0x100 8 8 (BitVec.ofNat 64) ∧
    t.v = s.imgList addr 0 (List.range 32) 0x4000 4096 4096 (BitVec.ofNat 32768) ∧
    t.m = s.imgList addr 0 ((List.range 7).map (· + 1)) 0xC00 1024 1024 (BitVec.ofNat 8192) ∧
    t.cb = s.imgList addr 0 (List.range 8) 0x400 32 32 (BitVec.ofNat 256) := by
  refine ⟨?_, ?_, ?_, ?_⟩ <;> (rw [loaded, State.loadLocket])

variable {s addr keep map tq} {t : Hart} (loaded : t = s.loadLocket addr keep map tq)
include loaded

theorem Hart.xr_loadLocket {r : BitVec 5} (n : r ≠ 0) : t.xr r = s.imgWord addr (0x100 + 8 * r.toNat) := by
  have key : r.toNat ∈ (List.range 31).map (· + 1) := by
    have low : r.toNat ≠ 0 := fun z => n (BitVec.eq_of_toNat_eq z)
    have := r.isLt
    exact List.mem_map.mpr ⟨r.toNat - 1, List.mem_range.mpr (by omega), by omega⟩
  obtain ⟨x, -, -, -⟩ := Hart.registers_loadLocket s addr keep map tq loaded
  rw [Hart.xr, if_neg n, x, State.get_imgList _ _ _ _ _ _ key, State.imgWord]
theorem Hart.vr_loadLocket {n : Nat} (low : n < 32) : t.vr n = BitVec.ofNat 32768 (s.getAt addr (0x4000 + 4096 * n) 4096) := by
  obtain ⟨-, v, -, -⟩ := Hart.registers_loadLocket s addr keep map tq loaded
  rw [Hart.vr, Nat.mod_eq_of_lt low, v, State.get_imgList _ _ _ _ _ _ (List.mem_range.mpr low)]
omit loaded in
theorem mem_from_one {n : Nat} (pos : 0 < n) (low : n < 8) : n ∈ (List.range 7).map (· + 1) :=
  List.mem_map.mpr ⟨n - 1, List.mem_range.mpr (by omega), by omega⟩
theorem Hart.mr_loadLocket {n : Nat} (pos : 0 < n) (low : n < 8) : t.mr n = BitVec.ofNat 8192 (s.getAt addr (0xC00 + 1024 * n) 1024) := by
  obtain ⟨-, -, m, -⟩ := Hart.registers_loadLocket s addr keep map tq loaded
  rw [Hart.mr, if_neg (by omega), m, State.get_imgList _ _ _ _ _ _ (mem_from_one pos low)]
theorem Hart.cbr_loadLocket {n : Nat} (low : n < 8) : t.cbr n = BitVec.ofNat 256 (s.getAt addr (0x400 + 32 * n) 32) := by
  obtain ⟨-, -, -, cb⟩ := Hart.registers_loadLocket s addr keep map tq loaded
  rw [Hart.cbr, cb, State.get_imgList _ _ _ _ _ _ (List.mem_range.mpr low)]
theorem Hart.ctr_loadLocket {n : Nat} (pos : 0 < n) (low : n < 8) :
    t.ctr n = ⟨s.imgWord addr (0x500 + 16 * n), s.imgWord addr (0x508 + 16 * n)⟩ := by
  rw [Hart.ctr, loaded, State.loadLocket]
  dsimp only
  rw [Sparse.get_foldl_set (⟨0, 0⟩ : Ctr) fun n => ⟨s.imgWord addr (0x500 + 16 * n), s.imgWord addr (0x508 + 16 * n)⟩,
    if_pos (mem_from_one pos low)]
theorem Hart.csrv_loadLocket {n : Nat} (restored : n ∈ restoredCsrs) : t.csrv n = s.imgWord addr (csrOffset n) &&& csrBits n := by
  rw [Hart.csrv, loaded, State.loadLocket]
  dsimp only
  rw [Sparse.get_foldl_set 0 fun n => s.imgWord addr (csrOffset n) &&& csrBits n, if_pos restored]
theorem Hart.ctxSlot_loadLocket {n : Nat} (low : n < 16) : t.ctxSlot n = s.imgCtx addr n := by
  rw [Hart.ctxSlot, loaded, State.loadLocket]
  dsimp only
  rw [Sparse.get_foldl_set CtxSlot.empty (s.imgCtx addr), if_pos (List.mem_range.mpr low)]
/-- The window's row count is not one of the bits that ACCWIN lacks. -/
theorem Hart.accRows_loadLocket : t.accRows = s.imgRows addr := by
  have bits : ∀ i < 11, (csrBits 0x014).getLsbD (16 + i) = true := by decide
  have field (w : Word) : (w &&& csrBits 0x014).extractLsb' 16 11 = w.extractLsb' 16 11 := by
    apply BitVec.eq_of_getLsbD_eq
    intro i lt
    rw [BitVec.getLsbD_extractLsb', BitVec.getLsbD_extractLsb', BitVec.getLsbD_and, bits i lt, Bool.and_true]
  rw [Hart.accRows, Hart.csrv_loadLocket loaded (by decide), field, State.imgRows]
end

/-! ### A family's clusters -/

section
variable (s : State) (h : Nat)

theorem State.settleFamily_kept : s.settleFamily h = { s with harts := (s.settleFamily h).harts } ∧
    ∀ j, (s.settleFamily h).hart j = { s.hart j with family := ((s.settleFamily h).hart j).family } := by
  unfold State.settleFamily
  dsimp only
  generalize (s.kin h).foldl (fun m k => m ||| (s.hart k).map) _ = m
  generalize s.kin h = kin
  induction kin generalizing s with
  | nil => exact ⟨rfl, fun _ => rfl⟩
  | cons k kin ih =>
    obtain ⟨frame, harts⟩ := ih (s.setHart k { s.hart k with family := (s.hart k).family.map fun g => { g with parentMap := m } })
    rw [List.foldl_cons]
    refine ⟨by rw [frame]; rfl, fun j => ?_⟩
    rw [harts j, State.hart_setHart]
    by_cases is : j = k
    · rw [is, if_pos rfl]
    · rw [if_neg is]
theorem State.hart_settleFamily_alone (alone : (s.hart h).family = none) (j : Nat) : (s.settleFamily h).hart j = s.hart j := by
  have kin : s.kin h = [h] := by rw [State.kin, alone]
  unfold State.settleFamily
  rw [kin, List.foldl_cons, List.foldl_nil, State.hart_setHart]
  split
  · next is => rw [alone, is, Option.map_none, ← alone]
  · rfl
end

/-! ### The slot loaded -/

/-- The hart of an image on clusters and a tile queue of a core, with what no image holds. -/
def State.imgHart (s : State) (h : Nat) (addr : Nat → Nat) (k : Nat) : Hart :=
  s.loadLocket addr
    { Hart.free with
      priv := if Config.savedUser s.fresh then .user else .supervisor
      region := s.me.region
      stage := s.me.stage
      demand := (s.me.region.map fun r => ((s.region r).stage s.me.stage).clusters).getD 0
      granted := s.grants
      graceAt := (s.die (slotDie h)).ptime
      saved := true
      family := s.imgFamily addr h
      space := (s.spaces s.me.secure (s.imgRows addr)).head? }
    (pickClusters s.fresh k (s.freeClusters (coreOf h))) ((s.freeTq (coreOf h)).headD 0)
/-- Contexts bound again to the slots that name them. -/
def State.bindSlots (s : State) (h : Nat) (l : List (Nat × CtxSlot)) : State :=
  l.foldl (fun (s : State) (e : Nat × CtxSlot) =>
    if e.2.bound then s.setCtx e.2.key { s.ctx e.2.key with hart := some h, slot := e.1 % 8, stopped := true }
    else s) s
/-- The package with a loaded hart in its slot, before the counts of its region's RCB follow. -/
def State.seated (s : State) (h : Nat) (addr : Nat → Nat) (k : Nat) : State :=
  let t := s.imgHart h addr k
  let u := (((s.setHart h t).loadRows addr (coreOf h) t.accFirst t.accRows).settleFamily h).bindSlots h t.ctxs
  { u.takeSpaces t.space.toList t.accRows with fresh := u.fresh + 1, grants := u.grants + 1 }

theorem State.bindSlots_eq (s : State) (h : Nat) (l : List (Nat × CtxSlot)) :
    s.bindSlots h l = { s with ctxs := (s.bindSlots h l).ctxs } :=
  State.foldl_ctxs _ (fun s e => by split <;> rfl) l s

/-- Only what the loading of a slot changes has changed. -/
def State.Seats (s t : State) : Prop := t = { s with
  harts := t.harts
  acc := t.acc
  ctxs := t.ctxs
  mem := t.mem
  pool := t.pool
  fresh := t.fresh
  grants := t.grants }
theorem State.Seats.trans {s t u : State} (a : s.Seats t) (b : t.Seats u) : s.Seats u := by
  rw [State.Seats] at a b ⊢
  rw [b, a]

section
variable (v : State) (h : Nat) (addr : Nat → Nat) (k : Nat)

theorem State.region_imgHart : (v.imgHart h addr k).region = v.me.region := by rw [State.imgHart, State.loadLocket]
theorem State.loadSlot_eq : v.loadSlot h addr k = v.me.region.elim (v.seated h addr k) (v.seated h addr k).syncRcb := by
  have run : v.loadSlot h addr k = ((v.imgHart h addr k).region.map (v.seated h addr k).syncRcb).getD (v.seated h addr k) := by
    unfold State.loadSlot State.seated State.imgHart State.bindSlots
    rfl
  rw [run, State.region_imgHart]
  cases v.me.region <;> rfl

/-- The harts with the loaded one among them, whose family knows its clusters. -/
def State.settled : State :=
  ((v.setHart h (v.imgHart h addr k)).loadRows addr (coreOf h) (v.imgHart h addr k).accFirst (v.imgHart h addr k).accRows).settleFamily h
theorem State.settled_eq : v.settled h addr k = { v with
    harts := (v.settled h addr k).harts
    acc := (v.settled h addr k).acc } := by
  unfold State.settled
  rw [(State.settleFamily_kept _ h).1]
  rfl
theorem State.hart_settled (j : Nat) : (v.settled h addr k).hart j =
    { (if j = h then v.imgHart h addr k else v.hart j) with family := ((v.settled h addr k).hart j).family } := by
  have kept := (State.settleFamily_kept ((v.setHart h (v.imgHart h addr k)).loadRows addr (coreOf h)
    (v.imgHart h addr k).accFirst (v.imgHart h addr k).accRows) h).2 j
  rw [← State.hart_setHart]
  exact kept
theorem State.hart_settled_alone (alone : (v.imgHart h addr k).family = none) {j : Nat} (other : j ≠ h) :
    (v.settled h addr k).hart j = v.hart j := by
  unfold State.settled
  rw [State.hart_settleFamily_alone _ h (by rw [State.loadRows]; exact (congrArg Hart.family (State.hart_setHart_same v h _)).trans alone)]
  exact (State.hart_setHart v h j (v.imgHart h addr k)).trans (if_neg other)

theorem State.seats_seated : v.Seats (v.seated h addr k) := by
  have settled : v.Seats (v.settled h addr k) := by rw [State.Seats, State.settled_eq]
  have bound : (v.settled h addr k).Seats ((v.settled h addr k).bindSlots h (v.imgHart h addr k).ctxs) := by
    rw [State.Seats, State.bindSlots_eq]
  have taken (s : State) (l : List Nat) (n : Nat) : s.Seats (s.takeSpaces l n) := by rw [State.Seats, State.takeSpaces_eq]
  exact ((settled.trans bound).trans (taken _ _ _)).trans rfl
theorem State.hart_seated (j : Nat) : (v.seated h addr k).hart j = (v.settled h addr k).hart j := by
  have taken : (v.seated h addr k).harts = (((v.settled h addr k).bindSlots h (v.imgHart h addr k).ctxs).takeSpaces
      (v.imgHart h addr k).space.toList (v.imgHart h addr k).accRows).harts := rfl
  rw [State.hart, taken, State.takeSpaces_eq, State.bindSlots_eq, State.hart]
theorem State.hart_loadSlot (j : Nat) : (v.loadSlot h addr k).hart j = (v.settled h addr k).hart j := by
  rw [← State.hart_seated, State.loadSlot_eq, State.elim_syncRcb_eq]
  rfl
/-- The new locket space is zeroed, and of memory no more. -/
theorem State.mem_seated : (v.seated h addr k).mem =
    (v.takeSpaces (v.spaces v.me.secure (v.imgRows addr)).head?.toList (v.imgRows addr)).mem := by
  have space : (v.imgHart h addr k).space = (v.spaces v.me.secure (v.imgRows addr)).head? := by rw [State.imgHart, State.loadLocket]
  have rows : (v.imgHart h addr k).accRows = v.imgRows addr := Hart.accRows_loadLocket rfl
  have seated : (v.seated h addr k).mem = (((v.settled h addr k).bindSlots h (v.imgHart h addr k).ctxs).takeSpaces
      (v.imgHart h addr k).space.toList (v.imgHart h addr k).accRows).mem := rfl
  rw [seated, space, rows]
  refine State.mem_takeSpaces_congr _ _ ?_ ?_
  · rw [State.bindSlots_eq, State.settled_eq]
  · rw [State.bindSlots_eq, State.settled_eq]
    rfl
end

/-- The counts of the RCB of a loaded hart's region, where it has one whose home can take them. -/
theorem State.mem_elim_syncRcb {v w t : State} {l : List Nat} {rows : Nat} {o : Option Nat} (seats : v.Seats w)
    (mem : w.mem = (v.takeSpaces l rows).mem) (synced : t = o.elim w w.syncRcb) :
    t.mem = (o.bind fun r => if (v.region r).done then none else (v.region r).counts.map fun a => (r, a)).elim (v.takeSpaces l rows).mem
      fun c => if v.mustWait c.2 then (v.takeSpaces l rows).mem else
        (((v.takeSpaces l rows).writeGa c.2 4 (t.childCount c.1)).writeGa (c.2 + 4) 2 (t.liveCount c.1)).mem := by
  have canon : w.canon = (v.takeSpaces l rows).canon := by
    rw [State.Seats] at seats
    rw [seats, State.takeSpaces_eq]
    rfl
  cases o with
  | none =>
    rw [synced]
    exact mem
  | some r =>
    have frame : t = { w with mem := t.mem } := by rw [synced]; exact State.syncRcb_eq _ r
    have region : w.region r = v.region r := by rw [seats]; rfl
    have waits (a : Nat) : w.mustWait a = v.mustWait a := by rw [seats]; rfl
    have children : t.childCount r = w.childCount r := by rw [frame]; rfl
    have live : t.liveCount r = w.liveCount r := by rw [frame]; rfl
    have written (a x y : Nat) : ((w.writeGa a 4 x).writeGa (a + 4) 2 y).mem =
        (((v.takeSpaces l rows).writeGa a 4 x).writeGa (a + 4) 2 y).mem :=
      State.mem_writeAt_congr _ _ (State.mem_writeAt_congr _ _ mem canon)
        ((State.canon_writeGa _ _ _ _).trans (canon.trans (State.canon_writeGa _ _ _ _).symm))
    have sync : t.mem = (w.syncRcb r).mem := by rw [synced]; rfl
    rw [sync, State.mem_syncRcb, region]
    simp only [waits, written, Option.bind_some, mem]
    by_cases ended : (v.region r).done = true
    · simp [ended]
    · cases (v.region r).counts with
      | none => simp [ended]
      | some a => cases free : v.mustWait a <;> simp [ended, free, Option.filter, children, live]

/-- A discarded hart's contexts, and a freed slot, leave what an image is read from. -/
theorem State.discarded_kept (u : State) (h : Nat) : ((u.parting h).freeSlot h).mem = u.mem ∧ ((u.parting h).freeSlot h).canon = u.canon ∧
    ((u.parting h).freeSlot h).cur = u.cur := by
  rw [State.freeSlot_eq, State.parting_eq]
  exact ⟨rfl, rfl, rfl⟩

end Sys2Proof.Machine

open Sys2Proof Sys2Proof.Machine

/-- Settles O35: the loaded hart is the image's, and beside its slot the loading changes what its family and its region count. -/
theorem lkldLoadsAHeldHart : Obligations.LkldLoadsAHeldHart := by
  unfold Obligations.LkldLoadsAHeldHart
  intro f s u v h core k head locs addr hcore hh other hu sup low aligned runs own hv first range haddr clean hk
  have target : s.target (s.me.xr f.a) = h := by rw [hh, hcore]; rfl
  have check : u.heldCheck (wordOf (.lkld f)) (s.me.xr f.a) (some (s.me.xr f.b)) (fun r => r = .free || r = .held) = none := by
    rw [hu, State.heldCheck_closeConvoy, State.heldCheck_eq, target, if_neg (by simp [sup, low]), if_neg (by simp [aligned]), if_neg,
      if_neg (by simp [own])]
    obtain run | run := runs <;> simp [run]
  have hart : u.hart h = s.hart h := by rw [hu, State.hart_withMe_other s _ other]
  have secure : u.me.secure = s.me.secure := by rw [hu, State.me_closeConvoy]; rfl
  have run : exec (.lkld f) s = .next (if u.imageValid addr core = false then u.halt (.trap causeIllegal (s.me.xr f.b))
      else if s.me.secure = false ∧ u.imageSecure addr = true then u.halt (.trap causeWorld (tvalWord (wordOf (.lkld f))))
      else if v.roomToLoad core k (u.imgRows addr) ((u.imgWord addr 0x10).getLsbD 0) = true then
        ((((s.hart h).region.map fun q => ((v.loadSlot h addr k).releaseCore q core).settleRegion q).getD (v.loadSlot h addr k)).withMe
          Hart.advance)
      else u.park (.lkld f) none) := by
    show execLkld f s = _
    unfold execLkld
    dsimp only
    rw [target, ← hcore, ← hu, check]
    dsimp only
    rw [first]
    dsimp only
    rw [range]
    dsimp only
    rw [← haddr, clean, ← hk, hart, ← hv, secure]
    dsimp only
    refine congrArg Host.Outcome.next (if_congr (by simp) rfl (if_congr (by simp) rfl (if_congr Iff.rfl ?_ rfl)))
    rfl
  have entered (c : Byte) (x : Word) : TrapEntered s (u.halt (.trap c x)) c false s.me.pc x := by
    rw [hu]
    exact trapEntered_raise_closed s c x
  refine ⟨fun bad => ?invalid, fun good sec plain => ?world, fun good allowed => ?valid⟩
  case invalid =>
    rw [if_pos bad] at run
    exact ⟨_, run, entered _ _⟩
  case world =>
    rw [if_neg (by simp [good]), if_pos ⟨plain, sec⟩] at run
    exact ⟨_, run, entered _ _⟩
  case valid =>
    rw [if_neg (by simp [good]), if_neg fun both => by simp [allowed both.2] at both] at run
    refine ⟨fun full => ?waits, fun room => ⟨v.loadSlot h addr k, ?loads⟩⟩
    case waits =>
      rw [if_neg (by rw [full]; exact Bool.false_ne_true)] at run
      rw [run]
      exact waits_park u _ _
    case loads =>
      rw [if_pos room] at run
      have kept : v.mem = u.mem ∧ v.canon = u.canon := by
        rw [hv]
        split
        · exact ⟨rfl, rfl⟩
        · exact ⟨(u.discarded_kept h).1, (u.discarded_kept h).2.1⟩
      have image : v.getAt addr = u.getAt addr := State.getAt_congr kept.1 kept.2 addr
      have word : v.imgWord addr = u.imgWord addr := State.imgWord_congr image
      have rows : v.imgRows addr = u.imgRows addr := State.imgRows_congr image
      have slots : v.imgCtx addr = u.imgCtx addr := State.imgCtx_congr image
      have coreOfh : coreOf h = core := by rw [hh, coreOf]; omega
      obtain ⟨t, ht⟩ : ∃ t, t = v.imgHart h addr k := ⟨_, rfl⟩
      have harts (j : Nat) : (v.loadSlot h addr k).hart j =
          { (if j = h then t else v.hart j) with family := ((v.loadSlot h addr k).hart j).family } := by
        rw [State.hart_loadSlot, ht]
        exact State.hart_settled v h addr k j
      have mine := harts h
      rw [if_pos rfl] at mine
      have loaded := ht
      rw [State.imgHart, coreOfh] at loaded
      have mem := State.mem_elim_syncRcb (v.seats_seated h addr k) (v.mem_seated h addr k) (v.loadSlot_eq h addr k)
      rw [← rows]
      refine ⟨run, ?mem, fun j n => ⟨?other, fun alone => ?alone⟩, ?held, ?saved, ?pc, ?map, fun r n => ?x, fun n lt => ?row,
        fun n pos lt => ⟨?m, ?cc⟩, fun n lt => ?cb, fun n isIn => ?csr, fun n lt => ?ctx⟩
      case mem =>
        rw [mem]
        cases v.me.region.bind fun r => if (v.region r).done then none else (v.region r).counts.map fun a => (r, a) with
        | none => rfl
        | some c => rfl
      case other =>
        have same := harts j
        rwa [if_neg n] at same
      case alone =>
        have family : (v.imgHart h addr k).family = none := by
          rw [State.imgHart, State.loadLocket]
          dsimp only
          rw [State.imgFamily, if_neg (by rw [word, alone]; exact Bool.false_ne_true)]
        rw [State.hart_loadSlot]
        exact State.hart_settled_alone v h addr k family n
      case held => rw [mine, loaded, State.loadLocket]
      case saved => rw [mine, loaded, State.loadLocket]
      case pc => rw [mine, loaded, State.loadLocket, ← word]
      case map => rw [mine, loaded, State.loadLocket]
      case x => rw [mine, ← word]; exact Hart.xr_loadLocket loaded n
      case row => rw [mine, ← image]; exact Hart.vr_loadLocket loaded lt
      case m => rw [mine, ← image]; exact Hart.mr_loadLocket loaded pos lt
      case cc => rw [mine, ← word]; exact Hart.ctr_loadLocket loaded pos lt
      case cb => rw [mine, ← image]; exact Hart.cbr_loadLocket loaded lt
      case csr => rw [mine, ← word]; exact Hart.csrv_loadLocket loaded isIn
      case ctx => rw [mine, ← slots]; exact Hart.ctxSlot_loadLocket loaded lt
end

section
/-!
SUPPORT. LAUNCH (04_scalar R123, R124; 14_regions R292, R293): the checks of a control block, the region that it creates, and the
release behind it (O24).
-/

namespace Sys2Proof.Machine

/-! ### What a release changes (06_memory_isa R177, R178) -/

/-- Stores of hart h have been performed, seals sent and failed peers recorded: no location, region or other hart's registers have
changed. -/
structure State.Releases (h : Nat) (s t : State) : Prop where
  frame : t = { s with
    mem := t.mem
    harts := t.harts
    dies := t.dies
    podTime := t.podTime
    time := t.time
    fresh := t.fresh
    outbox := t.outbox
    conns := t.conns }
  out : ∀ d, (t.die d).out = (s.die d).out
  own : t.hart h = { s.hart h with
    v := (t.hart h).v
    away := (t.hart h).away
    nb := (t.hart h).nb
    lost := (t.hart h).lost
    queue := (t.hart h).queue
    csr := (t.hart h).csr
    cc := (t.hart h).cc
    wait := (t.hart h).wait
    unsealed := (t.hart h).unsealed
    inherited := (t.hart h).inherited
    sealing := (t.hart h).sealing
    sealFailed := (t.hart h).sealFailed }
  others : ∀ k, k ≠ h → t.hart k = { s.hart k with wait := (t.hart k).wait }

section
variable {h : Nat} {s t u : State}

theorem State.Releases.refl (h : Nat) (s : State) : s.Releases h s := ⟨rfl, fun _ => rfl, rfl, fun _ _ => rfl⟩
theorem State.Releases.trans (a : s.Releases h t) (b : t.Releases h u) : s.Releases h u where
  frame := by rw [b.frame, a.frame]
  out d := (b.out d).trans (a.out d)
  own := by rw [b.own, a.own]
  others k n := by rw [b.others k n, a.others k n]
theorem State.Releases.foldl {α : Type} {f : State → α → State} (each : ∀ (s : State) a, s.Releases h (f s a)) (l : List α) (s : State) :
    s.Releases h (l.foldl f s) := by
  induction l generalizing s with
  | nil => exact .refl h s
  | cons a l ih => exact (each s a).trans (ih _)
theorem State.Landed.releases (a : State.Landed h s t) : s.Releases h t where
  frame := by rw [a.frame]
  out d := by rw [a.frame]; rfl
  own := by rw [a.own.frame]
  others := a.other
/-- Where the harts stay and the dies' service too, what has changed is a release's. -/
theorem State.Releases.of_harts (frame : t = { s with
    mem := t.mem
    dies := t.dies
    podTime := t.podTime
    time := t.time
    fresh := t.fresh
    outbox := t.outbox
    conns := t.conns }) (out : ∀ d, (t.die d).out = (s.die d).out) : s.Releases h t := by
  have harts : t.harts = s.harts := by rw [frame]
  have same (k : Nat) : t.hart k = s.hart k := by rw [State.hart, State.hart, harts]
  exact ⟨by rw [frame], out, by rw [same], fun k _ => by rw [same]⟩
/-- The counts and seals of hart h are its own. -/
theorem State.releases_setHart {x : Hart} (same : x = { s.hart h with
    unsealed := x.unsealed
    inherited := x.inherited
    sealing := x.sealing
    sealFailed := x.sealFailed }) : s.Releases h (s.setHart h x) where
  frame := rfl
  out _ := rfl
  own := by
    rw [State.hart_setHart_same]
    exact same.trans (by rw [same])
  others k n := by rw [State.hart_setHart, if_neg n]

theorem State.releases_sendTo (dev die : Nat) (ord sec : Bool) (r : Record) : s.Releases h (s.sendTo dev die ord sec r) := by
  rw [State.sendTo_eq]
  exact .of_harts rfl fun _ => rfl
theorem State.releases_newTag : s.Releases h s.newTag.1 := .of_harts rfl fun _ => rfl
theorem State.releases_logDie (d unit ga : Nat) : s.Releases h (s.logDie d unit ga) := by
  have log (u : State) (x : Die) (same : x.out = (u.die d).out) : u.Releases h (u.setDie d x) :=
    .of_harts rfl fun k => by
      rw [State.die_setDie]
      split
      · next is => rw [same, is]
      · rfl
  have tick (n : Nat) : s.Releases h { s with fresh := n }.tickTime :=
    .of_harts rfl fun k => by rw [State.die_tickTime]; rfl
  unfold State.logDie
  dsimp only
  split
  · exact log s _ rfl
  · exact (tick _).trans (log _ _ rfl)
theorem State.releases_markPeer (k c : Nat) : s.Releases h (s.markPeer k c) := by
  unfold State.markPeer
  dsimp only
  split_ifs
  · exact .refl h s
  · exact State.releases_logDie _ _ _
  · exact (State.landed_writeByte h s _ _).releases
theorem State.releases_sendSeal (x : Nat × Nat × Nat) : s.Releases h (State.sendSeal h s x) := by
  unfold State.sendSeal
  split
  · exact (State.releases_markPeer h x.1).trans (State.releases_setHart rfl)
  · exact (State.releases_newTag.trans (State.releases_setHart rfl)).trans (State.releases_sendTo _ _ _ _ _)
theorem State.releases_sendFlush (link : Nat) : s.Releases h (State.sendFlush h s link) :=
  State.releases_newTag.trans (State.releases_setHart rfl)
theorem State.releases_sendSeals (scope : Nat) : s.Releases h (s.sendSeals h scope) :=
  ((State.releases_setHart rfl).trans (.foldl (fun _ x => State.releases_sendSeal x) _ _)).trans
    (.foldl (fun _ d => State.releases_sendFlush (d - 6)) _ _)
theorem State.releases_release (s : State) (h scope : Nat) : s.Releases h (s.release h scope).1 := by
  have flushed := (s.landed_flushStores h).releases
  unfold State.release
  dsimp only
  split
  · exact flushed
  · exact flushed.trans (State.releases_sendSeals scope)

theorem State.Releases.cur (a : s.Releases h t) : t.cur = s.cur := by rw [a.frame]
theorem State.Releases.region (a : s.Releases h t) (r : Nat) : t.region r = s.region r := by rw [a.frame]; rfl
theorem State.Releases.farDev (a : s.Releases h t) : t.farDev = s.farDev := by rw [a.frame]; rfl
theorem State.Releases.canon (a : s.Releases h t) : t.canon = s.canon := by rw [a.frame]; rfl
theorem State.Releases.mustWait (a : s.Releases h t) : t.mustWait = s.mustWait := by
  have home : t.homeDie = s.homeDie := funext fun x => by rw [State.homeDie, State.homeDie, a.canon]
  have chip : t.chip = s.chip := by rw [a.frame]
  have zeroing : t.zeroing = s.zeroing := by rw [a.frame]
  have out (d : Nat) : (Sparse.get Die.reset t.dies d).out = (Sparse.get Die.reset s.dies d).out := a.out d
  funext x
  rw [State.mustWait, State.mustWait, home, chip, zeroing, a.canon, out]
end

/-! ### A word zeroed -/

theorem State.readByte_writeAt_zero {as : List Nat} {b : Nat} (isIn : b ∈ as) (s : State) : (s.writeAt as 0).readByte b = 0 := by
  induction as generalizing s b with
  | nil => cases isIn
  | cons a as ih =>
    have step : s.writeAt (a :: as) 0 = (s.writeByte a 0).writeAt as 0 := rfl
    rw [step]
    by_cases again : ∃ c ∈ as, s.canon c = s.canon b
    · obtain ⟨c, isC, same⟩ := again
      have zero := ih isC (s.writeByte a 0)
      have names (x : Nat) : (s.writeByte a 0).canon x = s.canon x := rfl
      rw [State.readByte, State.canon_writeAt, names] at zero ⊢
      rwa [← same]
    · have is : b = a := (List.mem_cons.mp isIn).resolve_right fun other => again ⟨b, other, rfl⟩
      rw [State.readByte_writeAt_other as (s.writeByte a 0) 0 b fun c isC same => again ⟨c, isC, same⟩, State.readByte_writeByte,
        if_pos (by rw [is])]

section
variable (s : State) (n : Nat)

theorem State.zeroOwnCompl_eq : s.zeroOwnCompl n = { s with mem := (s.zeroOwnCompl n).mem } := by
  unfold State.zeroOwnCompl
  cases (s.region n).compl.filter fun a => (s.farDev a).isNone with
  | none => rfl
  | some a => exact State.writeAt_eq _ _ _
theorem State.readByte_zeroOwnCompl {x b : Nat} (compl : (s.region n).compl = some x) (here : s.farDev x = none) (isIn : b ∈ gaRange x 8) :
    (s.zeroOwnCompl n).readByte b = 0 := by
  rw [State.zeroOwnCompl, compl, Option.filter_some, if_pos (by rw [here]; rfl)]
  exact State.readByte_writeAt_zero isIn s
theorem State.readByte_zeroOwnCompl_other {a : Nat} (away : ∀ x, (s.region n).compl = some x → s.farDev x = none →
    ∀ b ∈ gaRange x 8, s.canon b ≠ s.canon a) : (s.zeroOwnCompl n).readByte a = s.readByte a := by
  unfold State.zeroOwnCompl
  cases some? : (s.region n).compl.filter fun a => (s.farDev a).isNone with
  | none => rfl
  | some x =>
    obtain ⟨compl, here⟩ := Option.filter_eq_some_iff.mp some?
    exact State.readByte_writeAt_other _ s 0 a (away x compl (Option.isNone_iff_eq_none.mp here))
end

/-! ### The release behind a LAUNCH (R124) -/

theorem State.region_setRegion (s : State) (n : Nat) (g : Region) (r : Nat) : (s.setRegion n g).region r = if r = n then g else s.region r :=
  Sparse.get_set Region.empty s.regions n g r

/-- The state in which a LAUNCH has completed: the word at COMPL is zero and the region open. -/
def State.opened (s : State) (n : Nat) : State := (s.zeroOwnCompl n).setRegion n { (s.zeroOwnCompl n).region n with opening := false }
theorem State.openRegion_eq (s : State) (f : Rr) (n : Nat) : s.openRegion f n =
    if (s.release s.cur 2).2 = true ∧ ((s.region n).compl.all fun a => !s.mustWait a) = true then
      ((s.release s.cur 2).1.opened n).withMe fun t => { t.result f.d 0 with launching := none }
    else (s.release s.cur 2).1.park (.launch f) none := by
  have released := s.releases_release s.cur 2
  unfold State.openRegion
  dsimp only
  rw [released.region, released.mustWait]
  rfl

theorem State.hart_opened (s : State) (n h : Nat) : (s.opened n).hart h = s.hart h := by
  have harts : (s.opened n).harts = s.harts := by
    show (s.zeroOwnCompl n).harts = s.harts
    rw [State.zeroOwnCompl_eq]
  rw [State.hart, State.hart, harts]
theorem State.cur_opened (s : State) (n : Nat) : (s.opened n).cur = s.cur := by
  show (s.zeroOwnCompl n).cur = s.cur
  rw [State.zeroOwnCompl_eq]
theorem State.region_opened (s : State) (n r : Nat) : (s.opened n).region r = if r = n then { s.region n with opening := false } else s.region r := by
  have same : (s.zeroOwnCompl n).region = s.region := by rw [State.zeroOwnCompl_eq]; rfl
  rw [State.opened, State.region_setRegion, same]

theorem exec_launch_opening {f : Rr} {s : State} {n : Nat} (launching : s.me.launching = some n) :
    exec (.launch f) s = .next (s.openRegion f n) := by
  show execLaunch f s = _
  unfold execLaunch
  dsimp only
  rw [launching]

/-! ### The checks of a control block (R292) -/

/-- The state in which a LAUNCH has created its region and is yet to complete its release. -/
def State.launched (s : State) (v : Nat) (g : Region) : State :=
  ((s.createRegion v g).zeroCompl s.cur s.nextRegion).withMe fun t => { t with launching := some s.nextRegion }

section
variable {f : Rr} {s : State} (idle : s.me.launching = none) (free : Unhindered s)
include idle free

theorem exec_launch_refused {e : Stop} (fails : s.checkRange (s.party s.cur) .rcb false (s.me.xr f.a) 640 = .error e) :
    exec (.launch f) s = .next (s.halt e) := by
  show execLaunch f s = _
  unfold execLaunch
  dsimp only
  rw [idle]
  dsimp only
  rw [State.inOrder_free free, fails]
theorem exec_launch_checked {locs : List Loc} {v pn : Nat} {g : Region} {placed sw : Bool}
    (range : s.checkRange (s.party s.cur) .rcb false (s.me.xr f.a) 640 = .ok locs) (clean : s.eccByte (s.me.xr f.a) locs = none)
    (hv : v = s.readAt (locGas locs)) (hpn : pn = s.me.region.getD s.nextRegion)
    (hg : g = rcbRegion v ((locGas locs).getD 0 0) ((locGas locs).getD 0x68 0) s.me.region (s.region pn) false)
    (hplaced : placed = decide ((s.me.xr f.a).toNat % 64 = 0 ∧
      ∀ l ∈ locs, gaHost l.ga = false ∧ gaChip l.ga = s.chip ∧ gaKind l.ga ≠ 3))
    (hsw : sw = ((List.range 640).any fun i => (s.pageOf (s.party s.cur) (s.me.xr f.a + BitVec.ofNat 64 i)).any Page.sw))
    (meets : placed = true → s.rcbMeets v g = none) :
    exec (.launch f) s = .next (if s.launchStatus v pn (s.region pn) g placed s.me.secure sw = 0 then (s.launched v g).openRegion f s.nextRegion
      else s.withMe fun t => t.result f.d (BitVec.ofNat 64 (s.launchStatus v pn (s.region pn) g placed s.me.secure sw))) := by
  have there : (decide ((s.me.xr f.a).toNat % 64 = 0) && locs.all fun l =>
      !gaHost l.ga && decide (gaChip l.ga = s.chip) && decide (gaKind l.ga ≠ 3)) = placed := by
    rw [hplaced, Bool.eq_iff_iff]
    simp only [Bool.and_eq_true, decide_eq_true_eq, List.all_eq_true, Bool.not_eq_true', and_assoc]
  have readable : (if placed = true then s.rcbMeets v g else none) = none := by
    split
    · next is => exact meets is
    · rfl
  show execLaunch f s = _
  unfold execLaunch
  dsimp only
  rw [idle]
  dsimp only
  rw [State.inOrder_free free, range]
  dsimp only
  rw [clean]
  dsimp only
  rw [← hv, ← hpn, ← hg, there, readable, ← hsw]
  rfl
end

/-- The first condition that holds gives the status. -/
theorem State.launchStatus_eq (s : State) (v pn : Nat) (p g : Region) (placed sec sw : Bool) : s.launchStatus v pn p g placed sec sw =
    if placed = false ∨ s.rcbOk v p g = false then 4
    else if sec = false ∧ (g.world = true ∨ sw = true) then 3
    else if s.noDie g = true then 1
    else if s.overBudget v pn p g = true then 2
    else 0 := by
  unfold State.launchStatus
  simp only [Bool.or_eq_true, Bool.and_eq_true, Bool.not_eq_true']

/-! ### The region created (R293) -/

theorem gaRange_within {x b m k n : Nat} (isIn : b ∈ gaRange (x + m) k) (fits : m + k ≤ n) : b ∈ gaRange x n := by
  obtain ⟨i, lt, rfl⟩ := List.mem_map.mp isIn
  exact List.mem_map.mpr ⟨m + i, List.mem_range.mpr (by have := List.mem_range.mp lt; omega), by omega⟩
/-- The counts of an RCB take six bytes. -/
theorem State.readByte_syncRcb {s : State} {r a : Nat}
    (away : ∀ x, (s.region r).counts = some x → ∀ b ∈ gaRange x 6, s.canon b ≠ s.canon a) : (s.syncRcb r).readByte a = s.readByte a := by
  have write (s : State) {x m k n v : Nat} (away : ∀ b ∈ gaRange x n, s.canon b ≠ s.canon a) (fits : m + k ≤ n) :
      (s.writeGa (x + m) k v).readByte a = s.readByte a :=
    State.readByte_writeAt_other _ _ _ _ fun b isIn => away b (gaRange_within isIn fits)
  unfold State.syncRcb
  split
  · rfl
  · next x some? =>
    have counts : (s.region r).counts = some x := by
      by_cases ended : (s.region r).done = true
      · rw [if_pos ended] at some?
        cases some?
      · rwa [if_neg ended] at some?
    split
    · rfl
    · have first := write s (m := 0) (k := 4) (v := s.childCount r) (away x counts) (by omega)
      rw [← first]
      exact write _ (fun b isIn => by rw [State.canon_writeGa]; exact away x counts b isIn) (by omega)

section
variable (s : State) (v : Nat) (g : Region)

/-- The new region with its queues and completion word placed. -/
def State.newRegion : Region :=
  { g with
    queues := s.placeQueues g
    compl := if BitVec.ofNat 64 (rcbField v 0x38 0 64) = 0 then none
      else (s.childPage g (BitVec.ofNat 64 (rcbField v 0x38 0 64))).map fun p => p.ga (BitVec.ofNat 64 (rcbField v 0x38 0 64)).toNat }
/-- The package with one region more. -/
def State.enrolled : State := { s.setRegion s.nextRegion (s.newRegion v g) with nextRegion := s.nextRegion + 1 }
theorem State.createRegion_eq : s.createRegion v g =
    (g.parent.elim (s.enrolled v g) (s.enrolled v g).syncRcb).syncRcb s.nextRegion := by
  unfold State.createRegion State.enrolled State.newRegion
  dsimp only
  cases g.parent <;> rfl
theorem State.region_enrolled (r : Nat) : (s.enrolled v g).region r = if r = s.nextRegion then s.newRegion v g else s.region r :=
  State.region_setRegion s _ _ r
theorem State.createRegion_frame : s.createRegion v g = { s.enrolled v g with mem := (s.createRegion v g).mem } := by
  rw [State.createRegion_eq]
  exact State.memOnly_trans (State.elim_syncRcb_eq _ _) (State.syncRcb_eq _ _)
/-- A byte that is neither in the counts of the parent's block nor in those of the new one stays. -/
theorem State.readByte_createRegion {a : Nat}
    (away : ∀ r x, g.parent = some r → (s.region r).counts = some x → ∀ b ∈ gaRange x 6, s.canon b ≠ s.canon a)
    (apart : ∀ x, g.counts = some x → ∀ b ∈ gaRange x 6, s.canon b ≠ s.canon a) : (s.createRegion v g).readByte a = s.readByte a := by
  have fresh : ∀ x, ((s.enrolled v g).region s.nextRegion).counts = some x → ∀ b ∈ gaRange x 6, s.canon b ≠ s.canon a := by
    intro x
    rw [State.region_enrolled, if_pos rfl]
    exact apart x
  rw [State.createRegion_eq]
  cases parent : g.parent with
  | none => exact State.readByte_syncRcb fresh
  | some p =>
    have frame := State.syncRcb_eq (s.enrolled v g) p
    rw [Option.elim_some, State.readByte_syncRcb (by rw [frame]; exact fresh)]
    refine State.readByte_syncRcb fun x => ?_
    rw [State.region_enrolled]
    split
    · exact apart x
    · exact away p x parent
end

/-! ### The completion word on another device (R293) -/

/-- Hart h has sent records. -/
structure State.Wrote (h : Nat) (s t : State) : Prop where
  frame : t = { s with harts := t.harts, fresh := t.fresh, outbox := t.outbox, conns := t.conns }
  own : t.hart h = { s.hart h with unsealed := (t.hart h).unsealed, tracked := (t.hart h).tracked }
  others : ∀ k, k ≠ h → t.hart k = s.hart k

section
variable {h : Nat} {s t u : State}

theorem State.Wrote.trans (a : s.Wrote h t) (b : t.Wrote h u) : s.Wrote h u where
  frame := by rw [b.frame, a.frame]
  own := by rw [b.own, a.own]
  others k n := (b.others k n).trans (a.others k n)
theorem State.wrote_setHart {x : Hart} (same : x = { s.hart h with unsealed := x.unsealed, tracked := x.tracked }) :
    s.Wrote h (s.setHart h x) where
  frame := rfl
  own := by
    rw [State.hart_setHart_same]
    exact same.trans (by rw [same])
  others k n := by rw [State.hart_setHart, if_neg n]
theorem State.pumpFrom_eq (sec : Bool) (before l : List Tracked) : (s.pumpFrom sec before l).1 =
    { s with outbox := (s.pumpFrom sec before l).1.outbox, conns := (s.pumpFrom sec before l).1.conns } := by
  induction l generalizing s before with
  | nil => rfl
  | cons x l ih =>
    unfold State.pumpFrom
    split
    · exact ih _
    · rw [ih, State.sendTo_eq]
theorem State.wrote_pump : s.Wrote h (s.pump h) := by
  have sent : s.Wrote h (s.pumpFrom (s.hart h).secure [] (s.hart h).tracked).1 := by
    rw [State.pumpFrom_eq]
    exact ⟨rfl, rfl, fun _ _ => rfl⟩
  exact sent.trans (State.wrote_setHart rfl)
theorem State.wrote_zeroCompl (n : Nat) : s.Wrote h (s.zeroCompl h n) := by
  unfold State.zeroCompl
  split
  · exact ⟨rfl, rfl, fun _ _ => rfl⟩
  · split
    · exact ⟨rfl, rfl, fun _ _ => rfl⟩
    · have tagged : s.Wrote h s.newTag.1 := ⟨rfl, rfl, fun _ _ => rfl⟩
      exact ((tagged.trans (State.wrote_setHart rfl)).trans (State.wrote_setHart rfl)).trans State.wrote_pump
end

end Sys2Proof.Machine

open Sys2Proof Sys2Proof.Machine

/-- Settles O24: the checks and the creation are one step, and what is left of a LAUNCH is a release. -/
theorem launchGivesAStatus : Obligations.LaunchGivesAStatus := by
  unfold Obligations.LaunchGivesAStatus
  refine ⟨fun f s n w launching hw => ?release, fun f s idle free => ⟨fun c v fails => ?check,
    fun locs v pn st g placed sw range clean hv hpn hg hplaced hsw meets hst => ?status⟩⟩
  case release =>
    have released := s.releases_release s.cur 2
    rw [← hw] at released
    have run := exec_launch_opening (f := f) launching
    rw [State.openRegion_eq, ← hw] at run
    have own := released.own
    have mine : w.1.me = w.1.hart s.cur := by rw [State.me, released.cur]
    rw [← mine] at own
    have pc : w.1.me.pc = s.me.pc := by rw [own]; rfl
    have x : w.1.me.x = s.me.x := by rw [own]; rfl
    have still : w.1.me.launching = some n := by rw [own]; exact launching
    split
    · next done =>
      rw [if_pos done] at run
      have me : (w.1.opened n).me = w.1.me := by rw [State.me, State.cur_opened, State.hart_opened]; rfl
      refine ⟨_, run, ?_, ?_, ?_, fun h other => ?_, ?_, fun r other => ?_, fun x compl here b isIn => ?_, fun a away => ?_⟩
      · rw [State.me_withMe, me, ← pc]
        show (w.1.me.setX f.d 0).pc + 4 = _
        rw [Hart.setX_pc]
      · rw [State.me_withMe]
      · intro r
        have result := regSet_result w.1.me f.d 0 r
        rw [show w.1.me.xr r = s.me.xr r by rw [Hart.xr, Hart.xr, x]] at result
        rw [State.me_withMe, me]
        exact result
      · rw [State.hart_withMe_other _ _ (by rw [State.cur_opened, released.cur]; exact other), State.hart_opened]
        exact released.others h other
      · show (w.1.opened n).region n = _
        rw [State.region_opened, if_pos rfl, released.region]
      · show (w.1.opened n).region r = _
        rw [State.region_opened, if_neg other, released.region]
      · exact State.readByte_zeroOwnCompl w.1 n (by rw [released.region]; exact compl) (by rw [released.farDev]; exact here) isIn
      · refine State.readByte_zeroOwnCompl_other w.1 n fun x compl here b isIn => ?_
        rw [released.canon]
        exact away x (by rw [← released.region]; exact compl) (by rw [← released.farDev]; exact here) b isIn
    · next waits =>
      rw [if_neg waits] at run
      refine ⟨_, run, ?_, ?_, ?_, State.instr_park _ _ _⟩
      · rw [State.pc_park, pc]
      · rw [State.me_park, x]
      · rw [State.me_park, still]
  case check =>
    rw [exec_launch_refused idle free fails]
    exact traps_raise s c v
  case status =>
    have run := exec_launch_checked (f := f) idle free range clean hv hpn hg hplaced hsw meets
    rw [State.launchStatus_eq, ← hst] at run
    refine ⟨fun fails => ?_, fun none => ⟨s.launched v g, ?_⟩⟩
    · rw [run, if_neg fails]
      exact writes_result s _ _
    · rw [if_pos none] at run
      have created := s.createRegion_frame v g
      have wrote := State.wrote_zeroCompl (s := s.createRegion v g) (h := s.cur) s.nextRegion
      obtain ⟨w, hw⟩ : ∃ w, w = (s.createRegion v g).zeroCompl s.cur s.nextRegion := ⟨_, rfl⟩
      rw [← hw] at wrote
      have launched : s.launched v g = w.withMe fun t => { t with launching := some s.nextRegion } := by rw [hw]; rfl
      have cur : w.cur = s.cur := by rw [wrote.frame, created]; rfl
      have hart (h : Nat) : (s.createRegion v g).hart h = s.hart h := by rw [created]; rfl
      have me : w.me = { s.me with unsealed := w.me.unsealed, tracked := w.me.tracked } := by
        have own := wrote.own
        rw [hart] at own
        rw [State.me, cur]
        exact own
      have region (r : Nat) : (s.launched v g).region r = if r = s.nextRegion then s.newRegion v g else s.region r := by
        have same : (s.launched v g).region r = w.region r := by rw [launched]; rfl
        rw [same, wrote.frame, created]
        exact s.region_enrolled v g r
      have mine : (s.launched v g).me = { w.me with launching := some s.nextRegion } := by rw [launched, State.me_withMe]
      have new := region s.nextRegion
      rw [if_pos rfl] at new
      have parent : g.parent = s.me.region := by rw [hg]; rfl
      have counts : g.counts = some ((locGas locs).getD 0x68 0) := by rw [hg]; rfl
      refine ⟨run.trans (exec_launch_opening (by rw [mine])).symm, by rw [mine], ?_, by rw [mine, me], by rw [mine, me], fun h other => ?_,
        fun r other => by rw [region, if_neg other], by rw [new]; rfl, by rw [hg]; rfl, ?_, fun a away apart => ?_⟩
      · rw [launched]
        show w.nextRegion = _
        rw [wrote.frame, created]
        rfl
      · rw [launched, State.hart_withMe_other w _ (by rw [cur]; exact other), wrote.others h other, hart]
      · rw [new]
        exact List.length_map _
      · have bytes : (s.launched v g).readByte a = (s.createRegion v g).readByte a := by
          rw [launched]
          show w.readByte a = _
          rw [wrote.frame]
          rfl
        rw [bytes]
        refine s.readByte_createRegion v g (fun r x is => away r x (by rw [← parent]; exact is)) fun x is => ?_
        rw [counts] at is
        cases is
        exact apart
end

section
/-!
SUPPORT. Vector traps, lost clusters, asynchronous traps, stopped harts, late accesses and page walks (04_scalar R130; 20_faults
R355-R366), as the units' steps make them (O45).
-/

namespace Sys2Proof.Machine

/-! ### What a vector trap leaves of a hart (20_faults R358, R362, R364) -/

theorem Hart.holdNb_foldl (es : List QEntry) (t : Hart) : es.foldl Hart.holdNb t =
    { t with nb := (es.foldl Hart.holdNb t).nb, away := (es.foldl Hart.holdNb t).away } := by
  have one (t : Hart) (e : QEntry) : t.holdNb e = { t with nb := (t.holdNb e).nb, away := (t.holdNb e).away } := by
    unfold Hart.holdNb
    split <;> rfl
  induction es generalizing t with
  | nil => rfl
  | cons e es ih => rw [List.foldl_cons, ih (t.holdNb e), one t e]
theorem Hart.markReplay_eq (t : Hart) : t.markReplay = { t with csr := t.markReplay.csr } := by
  unfold Hart.markReplay
  split
  · split <;> rfl
  · rfl
theorem Hart.csrv_markReplay (t : Hart) {n : Nat} (other : n ≠ 0x008) : t.markReplay.csrv n = t.csrv n := by
  unfold Hart.markReplay
  split
  · split
    · rw [Hart.csrv_setCsr, if_neg other]
    · rfl
  · rfl

/-- The entries of a queue with the faulted one marked (R362). -/
def markedQueue (q : List QEntry) (n r : Nat) : List QEntry :=
  q.mapIdx fun i e => if i = n then { e with started := true, restart := r } else e
/-- What a fault of entry n leaves in the image: its convoy and what follows, without a replay that is not fully enqueued. -/
def Hart.faultImage (t : Hart) (n r : Nat) : List QEntry :=
  ((markedQueue t.queue n r).take ((markedQueue t.queue n r).length - t.partReplay)).drop (fromConvoy (markedQueue t.queue n r) n)
/-- The flags that members part-way have raised. -/
def queueFlags (q : List QEntry) : Flags := (q.filter fun e => !e.done).foldl (fun f e => f ||| e.flags) 0
/-- A hart whose convoy's requests to other devices are dropped. -/
def Hart.dropConvoy (t : Hart) : Hart := { t.dropAsks 1 with qstalled := none, laneDue := false }
/-- A hart that cannot write its image stops (R362). -/
def Hart.stopFault (t : Hart) (es : List QEntry) (fl : Flags) (cause : Byte) : Hart :=
  { t.markReplay with queue := es, pflags := fl, run := .stopped cause true, rep := none }
/-- The convoy's positions as the control registers name them (R361). -/
def Hart.convoyPositions (t : Hart) (lead : List QEntry) (n : Nat) : Hart :=
  let ms := lead.filter fun e => classOf e.word ≠ .none
  let pos := ((lead.take n).filter fun e => classOf e.word ≠ .none).length
  let t := ((t.setCsr 0x002 (cposWord (ms.take 4))).setCsr 0x003 (cposWord (ms.drop 4))).setCsr 0x004 (cfaultWord ms pos 0)
  match ms.find? fun e => decide (classOf e.word = .matrix) && e.started && !e.done with
  | some e => t.setCsr 0x007 (BitVec.ofNat 64 e.restart)
  | none => t
/-- A hart that has written its image enters its handler with VRF set. -/
def Hart.enterFault (t : Hart) (fl : Flags) (cause : Byte) (tval : Word) : Hart :=
  let t := t.markReplay.enterTrap cause false tval t.pc
  { t.setCsr 0x104 (t.csrv 0x104 ||| 0x10) with queue := [], pflags := fl }

/-- A trap of entry n of a hart whose convoy's requests are dropped. -/
def State.takeFault (s : State) (n r : Nat) (cause : Byte) (tval : Word) : State :=
  let es := s.me.faultImage n r
  let fl := queueFlags (markedQueue s.me.queue n r)
  let c := fromConvoy (markedQueue s.me.queue n r) n
  let u := s.withMe fun t => es.foldl Hart.holdNb t
  let img := (s.me.csrv 0x105).toNat
  if s.me.vrf || !u.imageWritable img then u.withMe fun t => t.stopFault es fl cause
  else ((u.writeWords img (imageWords es)).barCtxs es).withMe fun t =>
    (t.convoyPositions (leadConvoy ((markedQueue s.me.queue n r).drop c)) (n - c)).enterFault fl cause tval
theorem State.vectorFault_eq (s : State) (n r : Nat) (cause : Byte) (tval : Word) :
    s.vectorFault n cause tval r = (s.withMe Hart.dropConvoy).takeFault n r cause tval := by
  have same : (s.withMe fun t => { t.dropAsks 1 with
      tile := if ([] : List QEntry).isEmpty then t.tile else []
      qstalled := none
      laneDue := false }) = s.withMe Hart.dropConvoy := rfl
  unfold State.vectorFault State.vectorFaultIn
  rw [same]
  generalize s.withMe Hart.dropConvoy = w
  simp only [List.isEmpty_nil, if_true, List.nil_append, Nat.sub_self]
  rfl

/-- Control registers alone differ. -/
def Hart.Recsr (t u : Hart) : Prop := u = { t with csr := u.csr }
theorem Hart.recsr_setCsr (t : Hart) (n : Nat) (v : Word) : t.Recsr (t.setCsr n v) := rfl
theorem Hart.Recsr.trans {t u w : Hart} (a : t.Recsr u) (b : u.Recsr w) : t.Recsr w := by
  rw [Hart.Recsr] at a b ⊢
  rw [b, a]
theorem Hart.recsr_convoyPositions (t : Hart) (lead : List QEntry) (n : Nat) : t.Recsr (t.convoyPositions lead n) := by
  have three (a b c : Word) : t.Recsr (((t.setCsr 0x002 a).setCsr 0x003 b).setCsr 0x004 c) :=
    ((t.recsr_setCsr _ _).trans (Hart.recsr_setCsr _ _ _)).trans (Hart.recsr_setCsr _ _ _)
  unfold Hart.convoyPositions
  dsimp only
  split
  · exact (three _ _ _).trans (Hart.recsr_setCsr _ _ _)
  · exact three _ _ _
theorem Hart.csrv_convoyPositions (t : Hart) (lead : List QEntry) (n : Nat) {c : Nat} (other : c ∉ [0x002, 0x003, 0x004, 0x007]) :
    (t.convoyPositions lead n).csrv c = t.csrv c := by
  simp only [List.mem_cons, List.not_mem_nil, or_false, not_or] at other
  obtain ⟨n2, n3, n4, n7⟩ := other
  unfold Hart.convoyPositions
  dsimp only
  split <;> simp [Hart.csrv_setCsr, n2, n3, n4, n7]

section
variable (t : Hart) (fl : Flags) (cause : Byte) (tval : Word)

/-- Registers stay as the handler is entered; the queue is empty. -/
theorem Hart.enterFault_kept : (t.enterFault fl cause tval).x = t.x ∧ (t.enterFault fl cause tval).v = t.v ∧
    (t.enterFault fl cause tval).m = t.m ∧ (t.enterFault fl cause tval).queue = [] := by
  have replay := t.markReplay_eq
  unfold Hart.enterFault Hart.enterTrap Hart.setCsr
  dsimp only
  generalize t.markReplay = u at replay
  refine ⟨?_, ?_, ?_, rfl⟩
  · rw [replay]
  · rw [replay]
  · rw [replay]
/-- The handler is entered, where there is one. -/
theorem Hart.enterFault_enters (handler : t.csrv 0x100 ≠ 0) : (t.enterFault fl cause tval).pc = t.csrv 0x100 ∧
    (t.enterFault fl cause tval).priv = .supervisor ∧ (t.enterFault fl cause tval).run = t.run := by
  have pc : (t.enterFault fl cause tval).pc = t.markReplay.csrv 0x100 := rfl
  have run : (t.enterFault fl cause tval).run =
      if t.markReplay.csrv 0x100 = 0 then .stopped cause false else t.markReplay.run := rfl
  have same : t.markReplay.csrv 0x100 = t.csrv 0x100 := Hart.csrv_markReplay t (by decide)
  have priv : (t.enterFault fl cause tval).priv = .supervisor := rfl
  refine ⟨pc.trans same, priv, ?_⟩
  rw [run, same, if_neg handler, t.markReplay_eq]
theorem Hart.csrv_enterFault (n : Nat) : (t.enterFault fl cause tval).csrv n =
    if n = 0x104 then t.markReplay.entryStatus ||| 0x10 else if n = 0x103 then tval else if n = 0x102 then cause.setWidth 64
      else if n = 0x101 then t.pc else t.markReplay.csrv n := by
  have set : (t.enterFault fl cause tval).csrv n = ((t.markReplay.enterTrap cause false tval t.pc).setCsr 0x104
      ((t.markReplay.enterTrap cause false tval t.pc).csrv 0x104 ||| 0x10)).csrv n := rfl
  rw [set, Hart.csrv_setCsr, Hart.csrv_enterTrap, Hart.csrv_enterTrap]
  by_cases is : n = 0x104
  · rw [if_pos is, if_pos rfl, if_pos is]
  · rw [if_neg is, if_neg is, if_neg is]
    simp
/-- Of TSTATUS at the entry, VRF is set and IE is clear. -/
theorem Hart.status_enterFault : (t.enterFault fl cause tval).vrf = true ∧ (t.enterFault fl cause tval).ie = false := by
  rw [Hart.vrf, Hart.ie, Hart.csrv_enterFault, if_pos rfl, Hart.entryStatus_eq]
  split <;> split <;> split <;> split <;> decide
end

/-! ### Where the image goes -/

theorem State.writeWords_eq (s : State) (ga : Nat) (l : List Word) : s.writeWords ga l = { s with mem := (s.writeWords ga l).mem } := by
  induction l generalizing s ga with
  | nil => rfl
  | cons w l ih =>
    rw [State.writeWords, ih, show s.writeGa ga 8 w.toNat = { s with mem := (s.writeGa ga 8 w.toNat).mem } from State.writeAt_eq _ _ _]
theorem State.mem_writeWords_congr {s t : State} (mem : s.mem = t.mem) (canon : s.canon = t.canon) (ga : Nat) (l : List Word) :
    (s.writeWords ga l).mem = (t.writeWords ga l).mem := by
  induction l generalizing s t ga with
  | nil => exact mem
  | cons w l ih =>
    exact ih (State.mem_writeAt_congr _ _ mem canon) ((State.canon_writeGa s _ _ _).trans (canon.trans (State.canon_writeGa t _ _ _).symm)) _
theorem State.barCtxs_eq (s : State) (es : List QEntry) : s.barCtxs es = { s with ctxs := (s.barCtxs es).ctxs } := by
  unfold State.barCtxs
  split
  · exact State.foldl_ctxs (fun (s : State) (c : Nat × CtxSlot) => s.setCtx c.2.key { s.ctx c.2.key with barrier := c.2.issued })
      (fun _ _ => rfl) _ s
  · rfl

/-! ### The trap of an entry -/

section
variable (s : State) (n r : Nat) (cause : Byte) (tval : Word)

/-- The hart in whose image an entry faulted, its non-blocking members held for their reissue. -/
def Hart.holding (t : Hart) (n r : Nat) : Hart := (t.faultImage n r).foldl Hart.holdNb t
theorem Hart.holding_eq (t : Hart) : t.holding n r = { t with nb := (t.holding n r).nb, away := (t.holding n r).away } :=
  Hart.holdNb_foldl _ t
end

section
variable (s : State) (n r : Nat) (cause : Byte) (tval : Word)

theorem State.takeFault_stops (no : (s.me.vrf || !s.imageWritable (s.me.csrv 0x105).toNat) = true) :
    s.takeFault n r cause tval = (s.withMe fun t => t.holding n r).withMe fun t =>
      t.stopFault (s.me.faultImage n r) (queueFlags (markedQueue s.me.queue n r)) cause := by
  have writable (g : Hart → Hart) : (s.withMe g).imageWritable = s.imageWritable := rfl
  unfold State.takeFault
  dsimp only
  rw [writable, if_pos no]
  rfl
theorem State.takeFault_enters (can : ¬ (s.me.vrf || !s.imageWritable (s.me.csrv 0x105).toNat) = true) :
    s.takeFault n r cause tval =
      (((s.withMe fun t => t.holding n r).writeWords (s.me.csrv 0x105).toNat (imageWords (s.me.faultImage n r))).barCtxs
        (s.me.faultImage n r)).withMe fun t =>
          (t.convoyPositions (leadConvoy ((markedQueue s.me.queue n r).drop (fromConvoy (markedQueue s.me.queue n r) n)))
            (n - fromConvoy (markedQueue s.me.queue n r) n)).enterFault (queueFlags (markedQueue s.me.queue n r)) cause tval := by
  have writable (g : Hart → Hart) : (s.withMe g).imageWritable = s.imageWritable := rfl
  unfold State.takeFault
  dsimp only
  rw [writable, if_neg can]
  rfl

/-- The executing hart's requests of its convoy are dropped and its non-blocking members held. -/
structure State.FaultHeld (s t : State) : Prop where
  frame : t = { s with harts := t.harts }
  others : ∀ k, k ≠ s.cur → t.hart k = s.hart k
  own : t.me = { s.me with
    asks := t.me.asks
    access := t.me.access
    fetching := t.me.fetching
    qstalled := t.me.qstalled
    laneDue := t.me.laneDue
    nb := t.me.nb
    away := t.me.away }

/-- A trap of an entry of the vector queue, by whether the hart's image can be written. -/
theorem State.vectorFault_cases : ∃ u, s.FaultHeld u ∧ s.vectorFault n cause tval r =
    if (s.me.vrf || !s.imageWritable (s.me.csrv 0x105).toNat) = true then
      u.withMe fun t => t.stopFault (s.me.faultImage n r) (queueFlags (markedQueue s.me.queue n r)) cause
    else ((u.writeWords (s.me.csrv 0x105).toNat (imageWords (s.me.faultImage n r))).barCtxs (s.me.faultImage n r)).withMe fun t =>
      (t.convoyPositions (leadConvoy ((markedQueue s.me.queue n r).drop (fromConvoy (markedQueue s.me.queue n r) n)))
        (n - fromConvoy (markedQueue s.me.queue n r) n)).enterFault (queueFlags (markedQueue s.me.queue n r)) cause tval := by
  have drop : (s.withMe Hart.dropConvoy).me = s.me.dropConvoy := State.me_withMe s _
  have image : s.me.dropConvoy.faultImage n r = s.me.faultImage n r := rfl
  have held : ((s.withMe Hart.dropConvoy).withMe fun t => t.holding n r).me = s.me.dropConvoy.holding n r := by
    rw [State.me_withMe, drop]
  have writable : (s.withMe Hart.dropConvoy).imageWritable = s.imageWritable := rfl
  have vrf : s.me.dropConvoy.vrf = s.me.vrf := rfl
  have img : s.me.dropConvoy.csrv 0x105 = s.me.csrv 0x105 := rfl
  have queue : s.me.dropConvoy.queue = s.me.queue := rfl
  refine ⟨(s.withMe Hart.dropConvoy).withMe fun t => t.holding n r, ⟨rfl, fun k other => ?_, ?_⟩, ?_⟩
  · rw [State.hart_withMe_other (s.withMe Hart.dropConvoy) _ other, State.hart_withMe_other s _ other]
  · rw [held, Hart.holding_eq]
    rfl
  · rw [State.vectorFault_eq]
    split
    · next no =>
      rw [State.takeFault_stops _ n r cause tval (by rw [drop, writable, vrf, img]; exact no), drop, image, queue]
    · next can =>
      rw [State.takeFault_enters _ n r cause tval (by rw [drop, writable, vrf, img]; exact can), drop, image, queue, img]

/-- What a trap of an entry leaves, whether the hart stops or enters its handler. -/
structure State.VectorTrapped (s t : State) : Prop where
  frame : t = { s with harts := t.harts, mem := t.mem, ctxs := t.ctxs }
  others : ∀ k, k ≠ s.cur → t.hart k = s.hart k
  x : t.me.x = s.me.x
  v : t.me.v = s.me.v
  m : t.me.m = s.me.m
  csrs : ∀ c, c ∉ [0x002, 0x003, 0x004, 0x007, 0x008, 0x101, 0x102, 0x103, 0x104] → t.me.csrv c = s.me.csrv c

variable {s n r cause tval}

theorem State.FaultHeld.csrv {u : State} (held : s.FaultHeld u) (c : Nat) : u.me.csrv c = s.me.csrv c := by rw [held.own]; rfl
theorem State.imaged_eq (u : State) (ga : Nat) (l : List Word) (es : List QEntry) : (u.writeWords ga l).barCtxs es =
    { u with mem := (u.writeWords ga l).mem, ctxs := ((u.writeWords ga l).barCtxs es).ctxs } := by
  rw [State.barCtxs_eq, State.writeWords_eq]
theorem State.vectorTrapped : s.VectorTrapped (s.vectorFault n cause tval r) := by
  obtain ⟨u, held, run⟩ := s.vectorFault_cases n r cause tval
  have cur : u.cur = s.cur := by rw [held.frame]
  rw [run]
  split
  · have replay := u.me.markReplay_eq
    have me := State.me_withMe u fun t => t.stopFault (s.me.faultImage n r) (queueFlags (markedQueue s.me.queue n r)) cause
    refine ⟨?_, fun k other => ?_, ?_, ?_, ?_, fun c other => ?_⟩
    · rw [held.frame]
      rfl
    · rw [State.hart_withMe_other u _ (by rw [cur]; exact other), held.others k other]
    · rw [me, Hart.stopFault, replay, held.own]
    · rw [me, Hart.stopFault, replay, held.own]
    · rw [me, Hart.stopFault, replay, held.own]
    · rw [me, ← held.csrv]
      exact Hart.csrv_markReplay u.me fun is => other (by rw [is]; decide)
  · generalize (leadConvoy _) = lead, n - _ = d, queueFlags _ = fl
    have frame := u.imaged_eq (s.me.csrv 0x105).toNat (imageWords (s.me.faultImage n r)) (s.me.faultImage n r)
    generalize (u.writeWords _ _).barCtxs _ = w at frame
    have mine : w.me = u.me := by rw [frame]; rfl
    have me := State.me_withMe w fun t => (t.convoyPositions lead d).enterFault fl cause tval
    have place := u.me.recsr_convoyPositions lead d
    obtain ⟨x, v, m, -⟩ := (u.me.convoyPositions lead d).enterFault_kept fl cause tval
    rw [mine] at me
    refine ⟨?_, fun k other => ?_, ?_, ?_, ?_, fun c other => ?_⟩
    · rw [frame, held.frame]
      rfl
    · have wcur : w.cur = s.cur := by rw [frame]; exact cur
      rw [State.hart_withMe_other w _ (by rw [wcur]; exact other), frame]
      exact held.others k other
    · rw [me, x, place, held.own]
    · rw [me, v, place, held.own]
    · rw [me, m, place, held.own]
    · have away {k : Nat} (isIn : k ∈ [0x002, 0x003, 0x004, 0x007, 0x008, 0x101, 0x102, 0x103, 0x104]) : c ≠ k :=
        fun is => other (is ▸ isIn)
      rw [me, Hart.csrv_enterFault, if_neg (away (by decide)), if_neg (away (by decide)), if_neg (away (by decide)),
        if_neg (away (by decide)), Hart.csrv_markReplay _ (away (by decide)), Hart.csrv_convoyPositions, held.csrv]
      simp [away]
theorem State.vectorFault_stops (set : s.me.vrf = true) :
    (s.vectorFault n cause tval r).me.run = .stopped cause true ∧ (s.vectorFault n cause tval r).mem = s.mem := by
  obtain ⟨u, held, run⟩ := s.vectorFault_cases n r cause tval
  rw [run, if_pos (by simp [set])]
  refine ⟨?_, ?_⟩
  · rw [State.me_withMe]
    rfl
  · show u.mem = s.mem
    rw [held.frame]
theorem State.vectorFault_enters (clear : s.me.vrf = false) (writable : s.imageWritable (s.me.csrv 0x105).toNat = true)
    (handler : s.me.csrv 0x100 ≠ 0) {t : State} (ht : t = s.vectorFault n cause tval r) :
    t.mem = (s.writeWords (s.me.csrv 0x105).toNat (imageWords (s.me.faultImage n r))).mem ∧ t.me.pc = s.me.csrv 0x100 ∧
      t.me.priv = .supervisor ∧ t.me.run = s.me.run ∧ t.me.csrv 0x101 = s.me.pc ∧ t.me.csrv 0x102 = cause.setWidth 64 ∧
      t.me.csrv 0x103 = tval ∧ t.me.vrf = true ∧ t.me.ie = false ∧ t.me.queue = [] := by
  obtain ⟨u, held, run⟩ := s.vectorFault_cases n r cause tval
  rw [run, if_neg (by simp [clear, writable])] at ht
  revert ht
  generalize (leadConvoy _) = lead, n - _ = d, queueFlags _ = fl
  have frame := u.imaged_eq (s.me.csrv 0x105).toNat (imageWords (s.me.faultImage n r)) (s.me.faultImage n r)
  generalize (u.writeWords _ _).barCtxs _ = w at frame
  intro ht
  have mine : w.me = u.me := by rw [frame]; rfl
  have me := State.me_withMe w fun t => (t.convoyPositions lead d).enterFault fl cause tval
  have place := u.me.recsr_convoyPositions lead d
  have tvec : (u.me.convoyPositions lead d).csrv 0x100 = s.me.csrv 0x100 := by
    rw [Hart.csrv_convoyPositions _ _ _ (by decide), held.csrv]
  obtain ⟨-, -, -, queue⟩ := (u.me.convoyPositions lead d).enterFault_kept fl cause tval
  obtain ⟨pc, priv, runs⟩ := (u.me.convoyPositions lead d).enterFault_enters fl cause tval (by rw [tvec]; exact handler)
  obtain ⟨vrf, ie⟩ := (u.me.convoyPositions lead d).status_enterFault fl cause tval
  have csrs := (u.me.convoyPositions lead d).csrv_enterFault fl cause tval
  rw [mine, ← ht] at me
  rw [← me] at queue pc priv runs vrf ie csrs
  refine ⟨?_, pc.trans tvec, priv, ?_, ?_, csrs 0x102, csrs 0x103, vrf, ie, queue⟩
  · rw [ht]
    show w.mem = _
    rw [frame]
    exact State.mem_writeWords_congr (by rw [held.frame]) (by rw [held.frame]; rfl) _ _
  · rw [runs, place, held.own]
  · have epc : t.me.csrv 0x101 = (u.me.convoyPositions lead d).pc := csrs 0x101
    rw [epc, place, held.own]
end

/-! ### The leading convoy -/

section
variable {q : List QEntry} {n : Nat} {e : QEntry}

/-- A member of the leading convoy is that entry of the queue, and no convoy begins between the two. -/
theorem leadConvoy_member (member : (leadConvoy q)[n]? = some e) :
    q[n]? = some e ∧ ∀ i x, 0 < i → i ≤ n → q[i]? = some x → x.first = false := by
  cases q with
  | nil => cases member
  | cons a l =>
    have whole : leadConvoy (a :: l) = a :: l.takeWhile fun x => !x.first := rfl
    obtain ⟨rest, split⟩ := (List.takeWhile_prefix fun x : QEntry => !x.first : _ <+: l)
    rw [whole] at member
    have low : n < (l.takeWhile fun x => !x.first).length + 1 := by
      have := (List.getElem?_eq_some_iff.mp member).1
      simpa using this
    have within {i : Nat} (lt : i < (l.takeWhile fun x => !x.first).length) : l[i]? = (l.takeWhile fun x => !x.first)[i]? := by
      conv_lhs => rw [← split]
      exact List.getElem?_append_left lt
    refine ⟨?_, fun i x pos le at' => ?_⟩
    · cases n with
      | zero => exact member
      | succ n =>
        rw [List.getElem?_cons_succ] at member ⊢
        rw [within (by omega), member]
    · obtain ⟨i, rfl⟩ : ∃ j, i = j + 1 := ⟨i - 1, by omega⟩
      rw [List.getElem?_cons_succ, within (by omega)] at at'
      have := List.all_takeWhile (p := fun x : QEntry => !x.first) (l := l)
      simpa using List.all_eq_true.mp this x (List.mem_of_getElem? at')
theorem fromConvoy_zero (none : ∀ i x, 0 < i → i ≤ n → q[i]? = some x → x.first = false) : fromConvoy q n = 0 := by
  have all (l : List Nat) (low : ∀ i ∈ l, i ≤ n) :
      l.foldl (fun b i => if (q[i]?.map (·.first)).getD false then i else b) 0 = 0 := by
    induction l with
    | nil => rfl
    | cons i l ih =>
      have first : (if (q[i]?.map (·.first)).getD false then i else 0) = 0 := by
        split
        · next begins =>
          by_contra pos
          cases at' : q[i]? with
          | none => simp [at'] at begins
          | some x =>
            have no := none i x (by omega) (low i List.mem_cons_self) at'
            simp [at', no] at begins
        · rfl
      rw [List.foldl_cons, first]
      exact ih fun j isIn => low j (List.mem_cons_of_mem _ isIn)
  exact all _ fun i isIn => by have := List.mem_range.mp isIn; omega
end

/-- What the image holds where a member of the leading convoy faults at its own position. -/
theorem Hart.faultImage_lead {t : Hart} {n : Nat} {e : QEntry} (member : (leadConvoy t.queue)[n]? = some e) :
    t.faultImage n e.restart = (t.queue.take (t.queue.length - t.partReplay)).mapIdx fun i x =>
      if i = n then { x with started := true } else x := by
  obtain ⟨at', none⟩ := leadConvoy_member member
  have marked : markedQueue t.queue n e.restart = t.queue.mapIdx fun i x => if i = n then { x with started := true } else x := by
    unfold markedQueue
    apply List.ext_getElem?
    intro i
    rw [List.getElem?_mapIdx, List.getElem?_mapIdx]
    by_cases is : i = n
    · rw [is, at']
      simp
    · cases t.queue[i]? <;> simp [is]
  have convoy : fromConvoy (markedQueue t.queue n e.restart) n = 0 := by
    refine fromConvoy_zero fun i x pos le at' => ?_
    unfold markedQueue at at'
    rw [List.getElem?_mapIdx] at at'
    obtain ⟨y, isY, rfl⟩ := Option.map_eq_some_iff.mp at'
    have no := none i y pos le isY
    split
    · exact no
    · exact no
  unfold Hart.faultImage
  rw [convoy, List.drop_zero, marked, List.length_mapIdx]
  apply List.ext_getElem?
  intro i
  rw [List.getElem?_take, List.getElem?_mapIdx, List.getElem?_mapIdx, List.getElem?_take]
  split <;> rfl

/-! ### A lost cluster (20_faults R365) -/

section
variable (s : State) (h : Nat)

/-- Time has passed, and hart h has lost lanes and with them what its trap left in VRF. -/
structure State.LanesLost (s t : State) (h : Nat) : Prop where
  frame : t = { s with harts := t.harts, cur := t.cur, dies := t.dies, podTime := t.podTime, time := t.time, fresh := t.fresh }
  others : ∀ k, k ≠ h → t.hart k = s.hart k
  own : t.hart h = { s.hart h with
    csr := (t.hart h).csr
    graceAt := (t.hart h).graceAt
    pending := (t.hart h).pending
    reduced := (t.hart h).reduced
    limit := (t.hart h).limit
    laneLost := true }
  pending : (t.hart h).pending.isSome = true
  csrs : ∀ c, c ≠ 0x104 → (t.hart h).csrv c = (s.hart h).csrv c
  ie : (t.hart h).ie = (s.hart h).ie

theorem State.hart_loseLanes : (s.loseLanes h).hart h =
    { (s.hart h).setShare (s.tickTime.surviving h) true (s.tickTime.die (slotDie h)).ptime with laneLost := true } :=
  State.hart_setHart_same _ h _
theorem State.csr_loseLanes : ((s.loseLanes h).hart h).csr = (s.hart h).csr := by rw [State.hart_loseLanes, Hart.setShare]
theorem State.lanesLost_loseLanes : s.LanesLost (s.loseLanes h) h := by
  have csr := s.csr_loseLanes h
  refine ⟨rfl, fun k n => (State.hart_setHart _ h k _).trans (if_neg n), ?_, ?_, fun c _ => ?_, ?_⟩
  · rw [State.hart_loseLanes, Hart.setShare]
  · rw [State.hart_loseLanes, Hart.setShare]
    simp
  · rw [Hart.csrv, csr, Hart.csrv]
  · rw [Hart.ie, Hart.csrv, csr, Hart.ie, Hart.csrv]
variable {s h} in
theorem State.LanesLost.dropImage {t : State} (lost : s.LanesLost t h) (was : Bool) : s.LanesLost (t.dropImage h was) h ∧
    (((t.dropImage h was).hart h).vrf = (was && (t.hart h).vrf)) := by
  cases was with
  | true => exact ⟨lost, rfl⟩
  | false =>
    have drop : t.dropImage h false = (t.asHart h).withMe fun t => t.setCsr 0x104 (t.csrv 0x104 &&& ~~~ 0x10#64) :=
      if_neg Bool.false_ne_true
    have own : (t.dropImage h false).hart h = (t.hart h).setCsr 0x104 ((t.hart h).csrv 0x104 &&& ~~~ 0x10#64) := by
      rw [drop]
      exact State.me_withMe (t.asHart h) _
    have keeps : (t.hart h).Recsr ((t.dropImage h false).hart h) := by rw [own]; exact Hart.recsr_setCsr _ _ _
    have status : ((t.dropImage h false).hart h).csrv 0x104 = (t.hart h).csrv 0x104 &&& ~~~ 0x10#64 := by
      rw [own, Hart.csrv_setCsr, if_pos rfl]
    refine ⟨⟨?_, fun k n => ?_, ?_, ?_, fun c n => ?_, ?_⟩, ?_⟩
    · have frame : t.dropImage h false = { t with harts := (t.dropImage h false).harts, cur := h } := by rw [drop]; rfl
      rw [frame, lost.frame]
    · rw [drop, State.hart_withMe_other (t.asHart h) _ n]
      exact lost.others k n
    · rw [keeps, lost.own]
    · rw [keeps]
      exact lost.pending
    · rw [own, Hart.csrv_setCsr, if_neg n, lost.csrs c n]
    · rw [Hart.ie, status, ← lost.ie, Hart.ie]
      simp
    · rw [Hart.vrf, status]
      simp
end

/-! ### An error that a unit reports (21_service R378) -/

/-- An error has been recorded of hart h, and storage of it may be lost. -/
structure State.Recorded (s t : State) (h : Nat) : Prop where
  frame : t = { s with harts := t.harts, cur := h, dies := t.dies, podTime := t.podTime, time := t.time, fresh := t.fresh }
  out : ∀ d, (t.die d).out = (s.die d).out
  others : ∀ k, k ≠ h → t.hart k = s.hart k
  own : t.me = { s.hart h with csr := t.me.csr, lost := t.me.lost }
  csrs : ∀ c, c ∉ [0x108, 0x109] → t.me.csrv c = (s.hart h).csrv c

theorem State.synced_tickTime (s : State) (d : Nat) : s.tickTime.synced d = s.synced d := by
  have term : s.tickTime.termOf d = s.termOf d := by
    rw [State.termOf, State.termOf, State.timeDie_tickTime, State.die_tickTime]
  rw [State.synced, State.synced, term, State.die_tickTime]
  rfl

/-- The state in which an error is recorded and the storage that it took is lost. -/
def State.erred (s : State) (h : Nat) (e : QEntry) (log : Word) : State :=
  ((s.recordError h log).asHart h).withMe fun t => t.loseStorage e log
section
variable (s : State) (h : Nat) (e : QEntry) (log : Word)

theorem State.recordError_again (set : ((s.hart h).csrv 0x108).getLsbD 0 = true) :
    s.recordError h log = s.setHart h ((s.hart h).setCsr 0x108 ((s.hart h).csrv 0x108 ||| 2)) := by
  unfold State.recordError
  dsimp only
  rw [if_pos set, if_pos set]
theorem State.recordError_first (clear : ((s.hart h).csrv 0x108).getLsbD 0 = false) : s.recordError h log =
    s.tickTime.setHart h (((s.hart h).setCsr 0x108 (((if (log.extractLsb' 3 4).toNat ∈ [8, 9] then log &&& ~~~ 0x7F80000000 else log) &&&
      0xFFFFFFFFF8) ||| (if s.synced (slotDie h) then 5 else 1))).setCsr 0x109 (s.tickTime.die (slotDie h)).ptime) := by
  unfold State.recordError
  dsimp only
  rw [if_neg (by rw [clear]; exact Bool.false_ne_true), State.hart_tickTime, if_neg (by rw [clear]; exact Bool.false_ne_true),
    State.synced_tickTime]
  simp
variable {s h log} in
/-- Storage that is lost is no control register. -/
theorem State.recorded_loseStorage {w : State} {x : Hart} (frame : w = { s with
      dies := w.dies
      podTime := w.podTime
      time := w.time
      fresh := w.fresh }) (out : ∀ d, (w.die d).out = (s.die d).out) (own : (s.hart h).Recsr x)
    (csrs : ∀ c, c ∉ [0x108, 0x109] → x.csrv c = (s.hart h).csrv c) :
    s.Recorded (((w.setHart h x).asHart h).withMe fun t => t.loseStorage e log) h := by
  have me : (((w.setHart h x).asHart h).withMe fun t => t.loseStorage e log).me = x.loseStorage e log :=
    (State.me_withMe _ _).trans (congrArg (·.loseStorage e log) (State.hart_setHart_same w h x))
  have lost : x.loseStorage e log = { x with lost := (x.loseStorage e log).lost } := rfl
  refine ⟨?_, fun d => out d, fun k n => ?_, ?_, fun c n => ?_⟩
  · rw [frame]
    rfl
  · rw [State.hart_withMe_other ((w.setHart h x).asHart h) _ n, frame]
    exact (State.hart_setHart s h k x).trans (if_neg n)
  · rw [me, lost, own]
  · rw [me, lost, ← csrs c n]
    rfl
theorem State.recorded_erred : s.Recorded (s.erred h e log) h := by
  unfold State.erred
  by_cases set : ((s.hart h).csrv 0x108).getLsbD 0 = true
  · rw [State.recordError_again s h log set]
    refine State.recorded_loseStorage e rfl (fun _ => rfl) (Hart.recsr_setCsr _ _ _) fun c n => ?_
    rw [Hart.csrv_setCsr, if_neg fun is => n (by rw [is]; decide)]
  · rw [State.recordError_first s h log (Bool.not_eq_true _ ▸ set)]
    refine State.recorded_loseStorage e s.tickTime_eq (fun d => by rw [State.die_tickTime])
      ((Hart.recsr_setCsr _ _ _).trans (Hart.recsr_setCsr _ _ _)) fun c n => ?_
    rw [Hart.csrv_setCsr, if_neg fun is => n (by rw [is]; decide), Hart.csrv_setCsr, if_neg fun is => n (by rw [is]; decide)]
theorem State.errlog_erred (none : (s.hart h).csrv 0x108 = 0) :
    (s.erred h e log).me.csrv 0x109 = (s.tickTime.die (slotDie h)).ptime ∧
      (s.erred h e log).me.csrv 0x108 = ((if (log.extractLsb' 3 4).toNat ∈ [8, 9] then log &&& ~~~ 0x7F80000000 else log) &&&
        0xFFFFFFFFF8) ||| (if s.synced (slotDie h) then 5 else 1) := by
  have clear : ((s.hart h).csrv 0x108).getLsbD 0 = false := by rw [none]; rfl
  have csr (c : Nat) : (s.erred h e log).me.csrv c = ((s.recordError h log).hart h).csrv c := by
    rw [State.erred, State.me_withMe]
    rfl
  rw [csr, csr, State.recordError_first s h log clear, State.hart_setHart_same, Hart.csrv_setCsr, if_pos rfl, Hart.csrv_setCsr,
    if_neg (by decide), Hart.csrv_setCsr, if_pos rfl]
  exact ⟨rfl, rfl⟩
end

/-- A trap after which hart h may have lost lanes. -/
structure State.Relaned (s t : State) (h : Nat) : Prop where
  mem : t.mem = s.mem
  others : ∀ k, k ≠ h → t.hart k = s.hart k
  own : t.hart h = { s.hart h with
    csr := (t.hart h).csr
    graceAt := (t.hart h).graceAt
    pending := (t.hart h).pending
    reduced := (t.hart h).reduced
    limit := (t.hart h).limit
    laneLost := (t.hart h).laneLost }
  csrs : ∀ c, c ≠ 0x104 → (t.hart h).csrv c = (s.hart h).csrv c
  ie : (t.hart h).ie = (s.hart h).ie
theorem State.LanesLost.relaned {s t : State} {h : Nat} (lost : s.LanesLost t h) : s.Relaned t h where
  mem := by rw [lost.frame]
  others := lost.others
  own := by
    have own := lost.own
    have lanes : (t.hart h).laneLost = true := by rw [own]
    rw [← lanes] at own
    exact own
  csrs := lost.csrs
  ie := lost.ie

/-- VECTOR_TRAP of an uncorrectable error, of a member of the leading convoy. -/
theorem exec_vectorTrap_ecc {s : State} {h pos : Nat} {e : QEntry} {tval log : Word} (low : pos < queueSize)
    (member : (leadConvoy (s.hart h).queue)[pos]? = some e) (todo : e.done = false) (works : (s.hart h).run.lanesWork = true) :
    exec (.vectorTrap h pos 0x18 tval log) s = .next (if s.faultWaits h = true ∨ (s.hart h).replayFirst pos = true then s
      else if log.getLsbD 39 then
        (((s.erred h e log).vectorFault pos causeEcc tval e.restart).loseLanes h).dropImage h (s.hart h).vrf
      else (s.erred h e log).vectorFault pos causeEcc tval e.restart) := by
  have at' : (s.hart h).memberAt pos = some e := (if_pos low).trans member
  show execVectorTrap h pos 0x18 tval log s = _
  unfold execVectorTrap
  rw [at']
  dsimp only
  rw [works, todo]
  by_cases held : s.faultWaits h = true ∨ (s.hart h).replayFirst pos = true
  · rw [if_pos held, if_pos (by simpa [low] using held)]
  · rw [if_neg held, if_neg (by simpa [low] using held), if_pos (show (0x18 : Byte) = causeEcc from rfl)]
    unfold State.eccTrap
    dsimp only
    rw [if_pos low]
    rfl

/-! ### Asynchronous traps (R357) and clusters that are retired (21_service R380) -/

/-- What a trap's entry leaves of a hart beside its control registers. -/
theorem Hart.enterTrap_kept (t : Hart) (c : Byte) (b : Bool) (v p : Word) : (t.enterTrap c b v p).pc = t.csrv 0x100 ∧
    (t.enterTrap c b v p).priv = .supervisor ∧ (t.enterTrap c b v p).x = t.x ∧ (t.enterTrap c b v p).v = t.v ∧
    (t.enterTrap c b v p).engFault = t.engFault ∧ (t.enterTrap c b v p).collFault = t.collFault ∧
    (t.enterTrap c b v p).ie = false := by
  have ie : (t.enterTrap c b v p).ie = false := by
    rw [Hart.ie, Hart.csrv_enterTrap, if_pos rfl, Hart.entryStatus_eq]
    split <;> split <;> split <;> split <;> decide
  refine ⟨?_, ?_, ?_, ?_, ?_, ?_, ie⟩ <;> (unfold Hart.enterTrap Hart.setCsr; dsimp only)

/-- A hart that may take an asynchronous trap takes ENGFAULT before COLLFAULT (R130, R357). -/
theorem Hart.asyncEntry_eq {t : Hart} (run : t.run = .running) (able : t.priv = .user ∨ t.ie = true) (awake : t.wait = none)
    (norep : t.rep = none) (asks : ∀ a ∈ t.asks, a.own ≠ 0) : t.asyncEntry =
      if t.engFault then some ({ t with engFault := false }.enterTrap causeEngfault true (t.asyncTval false) t.pc)
      else if t.collFault then some ({ t with collFault := false }.enterTrap causeCollfault true (t.asyncTval true) t.pc)
      else none := by
  have free : (t.asks.any fun a => decide (a.own = 0)) = false := List.any_eq_false.mpr fun a isIn => by simpa using asks a isIn
  unfold Hart.asyncEntry
  rw [free, awake, norep, run]
  exact if_pos (by simpa using able)

/-- A cluster's bit in LANEOFF set. -/
def State.retireBit (s : State) (core cluster : Nat) : State :=
  { s with laneOff := Sparse.modify 0 s.laneOff core (· ||| (1#8 <<< cluster)) }
theorem State.retired_retireBit (s : State) (core cluster c : Nat) :
    (s.retireBit core cluster).retired c = if c = core then s.retired c ||| (1 <<< cluster) else s.retired c := by
  rw [State.retired, State.retireBit, Sparse.modify, Sparse.get_set]
  split
  · next is => rw [is]; rfl
  · rfl
theorem exec_clusterRetire {s : State} {core cluster : Nat} (inCore : core < 128) (inMap : cluster < 8)
    (whole : (s.retired core).getLsbD cluster = false) : exec (.clusterRetire core cluster) s = .next
      (((coreSlots core).find? fun h => (s.hart h).map.getLsbD cluster).elim (s.retireBit core cluster) fun h =>
        if (s.hart h).run.lanesWork then ((s.retireBit core cluster).setHart h { s.hart h with laneDue := true }).laneTrap h
        else (s.retireBit core cluster).loseLanes h) := by
  show execClusterRetire core cluster s = _
  unfold execClusterRetire
  rw [if_pos ⟨inMap, inCore, by rw [whole]; rfl⟩]
  cases owner : (coreSlots core).find? fun h => (s.hart h).map.getLsbD cluster with
  | none =>
    have same : ((coreSlots core).find? fun h => ((s.retireBit core cluster).hart h).map.getLsbD cluster) = none := owner
    unfold State.retireBit at same
    dsimp only
    rw [same]
    rfl
  | some h =>
    have same : ((coreSlots core).find? fun h => ((s.retireBit core cluster).hart h).map.getLsbD cluster) = some h := owner
    unfold State.retireBit at same
    dsimp only
    rw [same]
    rfl
/-- The entry at which a LANEOFF trap is taken: the first that is not done. -/
def Hart.laneEntry (t : Hart) : Nat := (t.queue.findIdx? fun e => !e.done).getD 0
/-- Where that entry restarts. -/
def Hart.laneRestart (t : Hart) : Nat := (t.queue[t.laneEntry]?.map (·.restart)).getD 0
/-- A due LANEOFF trap waits with the faults of its hart, or is taken. -/
theorem State.laneTrap_eq (s : State) (h : Nat) (due : (s.hart h).laneDue = true) : s.laneTrap h =
    if s.faultWaits h = true then s.asHart h
    else (((s.asHart h).vectorFault (s.hart h).laneEntry causeLaneoff ((s.retired (coreOf h)).setWidth 64)
      (s.hart h).laneRestart).loseLanes h).dropImage h (s.hart h).vrf := by
  have mine : (s.asHart h).me = s.hart h := rfl
  have waits : (s.asHart h).faultWaits h = s.faultWaits h := rfl
  unfold State.laneTrap
  dsimp only
  rw [mine, due, waits]
  rfl

/-- A LANEOFF trap that is taken: the hart has lost lanes, and its handler finds the retired clusters in TVAL and VRF clear. -/
theorem State.laneTrap_taken {u : State} {h : Nat} (due : (u.hart h).laneDue = true) (free : ¬ u.faultWaits h = true) :
    (u.laneTrap h).laneOff = u.laneOff ∧ (∀ k, k ≠ h → (u.laneTrap h).hart k = u.hart k) ∧
    ((u.laneTrap h).hart h).laneLost = true ∧ ((u.laneTrap h).hart h).pending.isSome = true ∧
    ((u.hart h).vrf = false → (u.hart h).csrv 0x100 ≠ 0 → u.imageWritable ((u.hart h).csrv 0x105).toNat = true →
      ((u.laneTrap h).hart h).pc = (u.hart h).csrv 0x100 ∧ ((u.laneTrap h).hart h).csrv 0x102 = 0x19 ∧
      ((u.laneTrap h).hart h).vrf = false ∧ ((u.laneTrap h).hart h).csrv 0x103 = (u.retired (coreOf h)).setWidth 64) := by
  have trap := u.laneTrap_eq h due
  rw [if_neg free] at trap
  revert trap
  generalize (u.hart h).laneEntry = n, (u.hart h).laneRestart = r
  have trapped := State.vectorTrapped (s := u.asHart h) (n := n) (r := r) (cause := causeLaneoff)
    (tval := (u.retired (coreOf h)).setWidth 64)
  obtain ⟨v, hv⟩ : ∃ v, v = (u.asHart h).vectorFault n causeLaneoff ((u.retired (coreOf h)).setWidth 64) r := ⟨_, rfl⟩
  rw [← hv] at trapped ⊢
  have vcur : v.cur = h := by rw [trapped.frame]; rfl
  have vme : v.hart h = v.me := by rw [State.me, vcur]
  obtain ⟨lost, vrf⟩ := (v.lanesLost_loseLanes h).dropImage (u.hart h).vrf
  intro trap
  rw [← trap] at lost vrf
  refine ⟨?_, fun k n => ?_, ?_, lost.pending, fun clear handler can => ?_⟩
  · rw [lost.frame, trapped.frame]
    rfl
  · rw [lost.others k n, trapped.others k n]
    rfl
  · rw [lost.own]
  · obtain ⟨-, pc, -, -, -, code, value, -⟩ := State.vectorFault_enters (s := u.asHart h) clear can handler hv
    refine ⟨?_, ?_, ?_, ?_⟩
    · rw [lost.own, vme]
      exact pc
    · rw [lost.csrs _ (by decide), vme, code]
      rfl
    · rw [vrf, clear, Bool.false_and]
    · rw [lost.csrs _ (by decide), vme, value]

/-- What an uncorrectable error's trap leaves, with its lanes lost where the cluster is being retired. -/
theorem State.relaned_retired {v : State} {h : Nat} (cur : v.cur = h) (retired was : Bool) :
    v.Relaned (if retired then (v.loseLanes h).dropImage h was else v) h ∧
    ((if retired then (v.loseLanes h).dropImage h was else v).hart h).vrf = (if retired then was && v.me.vrf else v.me.vrf) ∧
    (retired = true → ((if retired then (v.loseLanes h).dropImage h was else v).hart h).laneLost = true) := by
  have me : v.hart h = v.me := by rw [State.me, cur]
  cases retired with
  | false => exact ⟨⟨rfl, fun _ _ => rfl, rfl, fun _ _ => rfl, rfl⟩, congrArg Hart.vrf me, fun no => by cases no⟩
  | true =>
    obtain ⟨drop, vrf⟩ := (v.lanesLost_loseLanes h).dropImage was
    have kept : ((v.loseLanes h).hart h).vrf = v.me.vrf := by
      rw [Hart.vrf, Hart.csrv, State.csr_loseLanes, me, Hart.vrf, Hart.csrv]
    rw [if_pos rfl, if_pos rfl]
    exact ⟨drop.relaned, by rw [vrf, kept], fun _ => by rw [drop.own]⟩

end Sys2Proof.Machine

open Sys2Proof Sys2Proof.Machine

/-- Settles O45: a trap of a queued member is `vectorFault_cases`, with a record before it or lanes lost after it. -/
theorem unitsTrapAndStopHarts : Obligations.UnitsTrapAndStopHarts := by
  unfold Obligations.UnitsTrapAndStopHarts
  refine ⟨?vector, fun h s run able awake norep asks fault => ?async, fun h s u c b run region hu => ?stopped, ?retire,
    fun h s va low run nowait stalled => ?late, fun h s va pg live low walk read => ?walk⟩
  case vector =>
    intro h pos s e es tval log low member todo works hes
    have run := exec_vectorTrap_ecc (tval := tval) (log := log) low member todo works
    split
    · next held => rw [run, if_pos held]
    · next free =>
      rw [if_neg free] at run
      have err := s.recorded_erred h e log
      have errlog := s.errlog_erred h e log
      obtain ⟨w, hw⟩ : ∃ w, w = s.erred h e log := ⟨_, rfl⟩
      rw [← hw] at run err errlog
      have cur : w.cur = h := by rw [err.frame]
      have trapped := State.vectorTrapped (s := w) (n := pos) (r := e.restart) (cause := causeEcc) (tval := tval)
      have vrf : w.me.vrf = (s.hart h).vrf := by rw [Hart.vrf, err.csrs 0x104 (by decide), Hart.vrf]
      have tvec := err.csrs 0x100 (by decide)
      have img := err.csrs 0x105 (by decide)
      have canon : w.canon = s.canon := by rw [err.frame]; rfl
      have writable : w.imageWritable = s.imageWritable := by
        have poisoned : w.poisoned = s.poisoned := by rw [err.frame]; rfl
        funext ga
        simp only [State.imageWritable, err.out, poisoned, State.homeDie, canon]
      have entries : w.me.faultImage pos e.restart = es := by
        have queue : w.me.queue = (s.hart h).queue := by rw [err.own]
        have replay : w.me.partReplay = (s.hart h).partReplay := by rw [err.own]; rfl
        rw [Hart.faultImage_lead (by rw [queue]; exact member), queue, replay, ← hes]
      have stops := State.vectorFault_stops (s := w) (n := pos) (r := e.restart) (cause := causeEcc) (tval := tval)
      obtain ⟨v, hv⟩ : ∃ v, v = w.vectorFault pos causeEcc tval e.restart := ⟨_, rfl⟩
      have enters := State.vectorFault_enters (s := w) (n := pos) (r := e.restart) (cause := causeEcc) (tval := tval) (t := v)
      rw [← hv] at run trapped stops
      have vcur : v.cur = h := by rw [trapped.frame]; exact cur
      have vme : v.hart h = v.me := by rw [State.me, vcur]
      obtain ⟨lane, restart, lost⟩ := State.relaned_retired vcur (log.getLsbD 39) (s.hart h).vrf
      obtain ⟨t, ht⟩ : ∃ t, t = if log.getLsbD 39 then (v.loseLanes h).dropImage h (s.hart h).vrf else v := ⟨_, rfl⟩
      rw [← ht] at run lane restart lost
      have base {c : Nat} (other : c ∉ [0x002, 0x003, 0x004, 0x007, 0x008, 0x101, 0x102, 0x103, 0x104]) :
          (t.hart h).csrv c = w.me.csrv c := by
        rw [lane.csrs c fun is => other (by rw [is]; decide), vme, trapped.csrs c other]
      have own := lane.own
      rw [vme] at own
      refine ⟨t, run, fun k n => ?_, ?_, ?_, ?_, fun none => ?_, fun set => ?_, fun clear handler can => ?_⟩
      · rw [lane.others k n, trapped.others k (by rw [cur]; exact n), err.others k n]
      · rw [own, trapped.x, err.own]
      · rw [own, trapped.v, err.own]
      · rw [own, trapped.m, err.own]
      · rw [base (by decide), base (by decide)]
        exact errlog none
      · obtain ⟨run, mem⟩ := stops (by rw [vrf]; exact set)
        exact ⟨by rw [own]; exact run, by rw [lane.mem, mem, err.frame]⟩
      · obtain ⟨mem, pc, priv, run, epc, code, value, flag, off, queue⟩ := enters (by rw [vrf]; exact clear)
          (by rw [writable, img]; exact can) (by rw [tvec]; exact handler) hv
        refine ⟨?_, ?_, ?_, ?_, ?_, ?_, ?_, ?_, ?_, ?_, lost⟩
        · rw [lane.mem, mem, entries, img]
          exact State.mem_writeWords_congr (by rw [err.frame]) canon _ _
        · rw [own, ← tvec]; exact pc
        · rw [own]; exact priv
        · rw [own, run, err.own]
        · rw [lane.csrs _ (by decide), vme, epc, err.own]
        · rw [lane.csrs _ (by decide), vme, code]; rfl
        · rw [lane.csrs _ (by decide), vme, value]
        · rw [restart, clear, flag]
          cases log.getLsbD 39 <;> rfl
        · rw [lane.ie, vme, off]
        · rw [own]; exact queue
  case async =>
    have entry := Hart.asyncEntry_eq run able awake norep asks
    have step {t : Hart} (takes : (s.hart h).asyncEntry = some t) : exec (.asyncTrap h) s = .next (s.setHart h t) := by
      show execAsyncTrap h s = _
      unfold execAsyncTrap
      rw [takes]
    have enter {t : Hart} (takes : (s.hart h).asyncEntry = some t) : ∃ u, exec (.asyncTrap h) s = .next u ∧ u = { s with harts := u.harts } ∧
        (∀ k, k ≠ h → u.hart k = s.hart k) ∧ u.hart h = t :=
      ⟨_, step takes, rfl, fun k n => (State.hart_setHart s h k t).trans (if_neg n), State.hart_setHart_same s h t⟩
    by_cases eng : (s.hart h).engFault = true
    · rw [if_pos eng] at entry
      obtain ⟨u, run, frame, others, own⟩ := enter entry
      obtain ⟨pc, priv, x, v, engF, collF, ie⟩ := Hart.enterTrap_kept { s.hart h with engFault := false } causeEngfault true
        ((s.hart h).asyncTval false) (s.hart h).pc
      have csr := Hart.csrv_enterTrap { s.hart h with engFault := false } causeEngfault true ((s.hart h).asyncTval false) (s.hart h).pc
      rw [← own] at pc priv x v engF collF ie csr
      refine ⟨u, run, frame, others, pc, priv, ie, csr 0x101, x, v, ?_, ?_, fun _ => ⟨engF, collF⟩, fun no => absurd eng (by simp [no])⟩
      · rw [csr, eng]; rfl
      · rw [csr, eng]; rfl
    · have coll := fault.resolve_left eng
      rw [if_neg eng, if_pos coll] at entry
      obtain ⟨u, run, frame, others, own⟩ := enter entry
      obtain ⟨pc, priv, x, v, engF, collF, ie⟩ := Hart.enterTrap_kept { s.hart h with collFault := false } causeCollfault true
        ((s.hart h).asyncTval true) (s.hart h).pc
      have csr := Hart.csrv_enterTrap { s.hart h with collFault := false } causeCollfault true ((s.hart h).asyncTval true) (s.hart h).pc
      rw [← own] at pc priv x v engF collF ie csr
      refine ⟨u, run, frame, others, pc, priv, ie, csr 0x101, x, v, ?_, ?_, fun yes => absurd yes eng, fun _ => collF⟩
      · rw [csr, if_neg eng]; rfl
      · rw [csr, Bool.eq_false_iff.mpr eng]; rfl
  case stopped =>
    have step : exec (.stoppedHartSave h) s = .next (if u.atRest h then
        (u.stopHart h).setHart h { (u.stopHart h).hart h with run := .held } else u) := by
      show execStoppedHartSave h s = _
      unfold execStoppedHartSave
      rw [run]
      dsimp only
      rw [region, hu]
    split
    · next busy => rw [step, if_neg (by simp [busy])]
    · next rest =>
      rw [if_pos (by simpa using rest)] at step
      exact ⟨_, step, rfl, fun k n => (State.hart_setHart _ h k _).trans (if_neg n), State.hart_setHart_same _ h _⟩
  case retire =>
    intro core cluster s inCore inMap whole
    have run := exec_clusterRetire inCore inMap whole
    refine ⟨fun none => ?unowned, fun h owner => ?owned⟩
    case unowned =>
      have nobody : ((coreSlots core).find? fun h => (s.hart h).map.getLsbD cluster) = Option.none :=
        List.find?_eq_none.mpr fun h isIn => by simp [none h isIn]
      rw [nobody, Option.elim_none] at run
      exact ⟨_, run, rfl, s.retired_retireBit core cluster⟩
    case owned =>
      have inSlots := List.mem_of_find?_eq_some owner
      have coreOfh : coreOf h = core := by
        obtain ⟨i, lt, rfl⟩ := List.mem_map.mp inSlots
        have := List.mem_range.mp lt
        show (core * 8 + i) / 8 = core
        omega
      have bits := s.retired_retireBit core cluster core
      rw [if_pos rfl] at bits
      have set : (s.retired core ||| ((1 : BitVec 8) <<< cluster)).getLsbD cluster = true := by
        rw [BitVec.getLsbD_or, BitVec.getLsbD_shiftLeft]
        simp [inMap]
      rw [owner, Option.elim_some] at run
      by_cases works : (s.hart h).run.lanesWork = true
      · rw [if_pos works] at run
        obtain ⟨u, hu⟩ : ∃ u, u = (s.retireBit core cluster).setHart h { s.hart h with laneDue := true } := ⟨_, rfl⟩
        have own : u.hart h = { s.hart h with laneDue := true } := by rw [hu]; exact State.hart_setHart_same _ h _
        have others {k : Nat} (n : k ≠ h) : u.hart k = s.hart k := by rw [hu]; exact (State.hart_setHart s h k _).trans (if_neg n)
        have mem : u.mem = s.mem := by rw [hu]; rfl
        have laneOff : u.retired core = s.retired core ||| (1 <<< cluster) := by rw [← bits, hu]; rfl
        have waits : u.faultWaits h = s.faultWaits h := by
          have image : u.imageWritable = s.imageWritable := by rw [hu]; rfl
          have must : u.mustWait = s.mustWait := by rw [hu]; rfl
          rw [State.faultWaits, own, image, must]
          rfl
        have due : (u.hart h).laneDue = true := by rw [own]
        rw [← hu] at run
        by_cases held : s.faultWaits h = true
        · rw [State.laneTrap_eq u h due, if_pos (waits.trans held)] at run
          refine ⟨_, run, ?_, fun k n => others n, fun _ _ => ⟨mem, own⟩, fun no => ?_, fun no => absurd works (by simp [no]),
            fun _ free => absurd held (by simp [free])⟩
          · exact laneOff ▸ set
          · obtain no | no := no
            · exact absurd works (by simp [no])
            · exact absurd held (by simp [no])
        · obtain ⟨off, rest, lanes, pending, enters⟩ := State.laneTrap_taken due (by rw [waits]; exact held)
          have kept : (u.laneTrap h).retired core = u.retired core := by rw [State.retired, off, State.retired]
          refine ⟨_, run, ?_, fun k n => (rest k n).trans (others n), fun _ yes => absurd yes held, fun _ => ⟨lanes, pending⟩,
            fun no => absurd works (by simp [no]), fun _ _ clear handler can => ?_⟩
          · rw [kept, laneOff]
            exact set
          · have image : u.imageWritable = s.imageWritable := by rw [hu]; rfl
            rw [own, image, coreOfh, laneOff] at enters
            exact enters clear handler can
      · rw [if_neg works] at run
        have lost := (s.retireBit core cluster).lanesLost_loseLanes h
        have lanes : (((s.retireBit core cluster).loseLanes h).hart h).laneLost = true := by rw [lost.own]
        refine ⟨_, run, ?_, lost.others, fun yes => absurd yes works, fun _ => ⟨lanes, lost.pending⟩, fun _ => ?_, fun yes => absurd yes works⟩
        · have kept : ((s.retireBit core cluster).loseLanes h).retired core = (s.retireBit core cluster).retired core := by
            rw [lost.frame]
            rfl
          rw [kept, bits]
          exact set
        · rw [lost.frame]
          rfl
  case late =>
    have step : exec (.drainedDieAccessTimeout h) s = .next (if s.homeOut (s.party h) va then
        ((s.asHart h).withMe fun t => { t with stalled := none }).raise causePeerdown va else s) := by
      show execDrainedDieAccessTimeout h s = _
      unfold execDrainedDieAccessTimeout
      dsimp only
      rw [if_neg (by omega), if_neg (by omega), if_neg (by simp [State.runs, run]), nowait, stalled]
    split
    · next out =>
      rw [if_pos out] at step
      refine ⟨_, step, ?_⟩
      have entered := trapEntered_raise ((s.asHart h).withMe fun t => { t with stalled := none }) causePeerdown va
      rwa [State.me_withMe] at entered
    · next here => rw [step, if_neg here]
  case walk =>
    have step : exec (.pageWalkComplete h va) s = _ := show execPageWalkComplete h va s = _ from rfl
    unfold execPageWalkComplete at step
    dsimp only at step
    have readable : ((s.walkPath va.toNat 5 (s.party h).ptroot.toNat).any fun a => (s.unread a).isSome) = false :=
      List.any_eq_false.mpr fun a isIn => by simp [read a isIn]
    rw [readable, if_neg (by simp only [live, decide_false, Bool.false_or, Bool.or_false, decide_eq_true_eq]; omega), walk] at step
    refine ⟨_, step, rfl, ?_⟩
    simp [State.lookup]
end

section
/-!
SUPPORT. What the vector instructions of 05_vector share: the operands that a member has at its enqueue, and those whose act is an
element sweep or a scalar result.
-/

namespace Sys2Proof.Machine

/-! ### A vector instruction before its act (01_machine R13; 05_vector R133) -/

/-- A vector instruction of this family as it is queued: its act reads the length word, at most two captured scalars and the
hart's registers, and makes no access. -/
def vectorQueued (i : Instr) (l : BitVec 2) (types : BitVec 4 → Bool) (rm : Bool) (x1 x2 : Option (BitVec 5))
    (act : State → QEntry → VOut) : Queued :=
  { plainQueued (wordOf i) l types rm act with x1 := x1, x2 := x2 }

theorem QEntry.row0_of_fresh {e : QEntry} (h : e.restart = 0) : e.row0 = 0 := by rw [QEntry.row0, h, Nat.zero_div]
theorem QEntry.elem0_of_fresh {e : QEntry} (h : e.restart = 0) : e.elem0 = 0 := by rw [QEntry.elem0, h, Nat.zero_mod]

/-- A member about to act, at its enqueue: its state holds the registers that its hart had, its entry what was captured of them. -/
structure Captured (s : State) (x1 x2 : Option (BitVec 5)) (vl : Nat) (ty : BitVec 4) (u : State) (e : QEntry) : Prop where
  rows : u.me.v = s.me.v
  masks : u.me.m = s.me.m
  type : e.ty = ty
  count : e.vl = vl
  mode : e.rm = s.me.rm
  fill : e.vfill = s.me.vfill
  scalar1 : e.xs1 = (x1.map s.me.xr).getD 0
  scalar2 : e.xs2 = (x2.map s.me.xr).getD 0
  fresh : e.restart = 0
  whole : e.stop = wholeStop

theorem captured_capture {s : State} {q : Queued} {vl : Nat} {ty : BitVec 4} {u : State} (rows : u.me.v = s.me.v)
    (masks : u.me.m = s.me.m) (type : (q.capture s.me s.me.pc).ty = ty)
    (count : (q.capture s.me s.me.pc).vl = vl) : Captured s q.x1 q.x2 vl ty u (q.capture s.me s.me.pc) :=
  ⟨rows, masks, type, count, rfl, rfl, rfl, rfl, rfl, rfl⟩

theorem Hart.mr_congr {t u : Hart} (h : u.m = t.m) : u.mr = t.mr := by
  unfold Hart.mr
  rw [h]

namespace Captured
variable {s u : State} {x1 x2 : Option (BitVec 5)} {vl : Nat} {ty : BitVec 4} {e : QEntry} (h : Captured s x1 x2 vl ty u e)
include h

theorem elem : u.me.elem e = s.me.element ty := by
  show u.me.element e.ty = _
  rw [h.type, Hart.element_congr h.rows]
theorem mr : u.me.mr = s.me.mr := Hart.mr_congr h.masks
theorem mask : u.me.maskOf = s.me.maskOf := by
  unfold Hart.maskOf
  rw [h.mr]
theorem x1w : e.x1w = ((x1.map s.me.xr).getD 0).toNat % 2 ^ typeWidth ty := by
  rw [QEntry.x1w, h.scalar1, h.type]
theorem filling : e.fill = s.me.vfill.toNat % 2 ^ typeWidth ty := by
  rw [QEntry.fill, h.fill, h.type]
theorem till (hv : vl ≤ 8192) : e.till 0 = vl := by
  rw [QEntry.till, h.count, h.whole, wholeStop]
  omega
end Captured

/-! ### Acts of a vector instruction (05_vector R132-R134) -/

/-- The major of an instruction's word is below those of the matrix class (03_encoding R87). -/
def belowMatrix (i : Instr) : Bool := (encodeFields i).any fun x => decide (x.maj.toNat < 0x31)

theorem classOf_ne_matrix {i : Instr} (h : belowMatrix i = true) : classOf (wordOf i) ≠ .matrix := by
  obtain ⟨x, hx, below⟩ := (Option.any_eq_true _ _).mp h
  have major := major_wordOf (congrArg (Option.map Fields.maj) hx)
  have lt : x.maj.toNat < 0x31 := of_decide_eq_true below
  have notMatrix : ¬ (0x31 ≤ x.maj.toNat ∧ x.maj.toNat ≤ 0x35) := by omega
  unfold classOf
  simp only [major, notMatrix, if_false]
  split_ifs <;> decide

/-- Sweeps of one effect on every active element below VL are one. -/
theorem Sweeps.congr {o : Out} {s : State} {g m : BitVec 2} {d : BitVec 5} {ty : BitVec 4} {vl : Nat}
    {f k : Nat → Nat → Nat × Flags} (h : Sweeps o s g m d ty vl f)
    (e : ∀ r i, i < vl → s.me.gates m i = true →
      (f r i).1 % 2 ^ typeWidth ty = (k r i).1 % 2 ^ typeWidth ty ∧ (f r i).2 = (k r i).2) : Sweeps o s g m d ty vl k := by
  obtain ⟨t, run, ran, x, masks, elems, rows, accrued⟩ := h
  refine ⟨t, run, ran, x, masks, fun r i hr hi => ?_, rows, ?_⟩
  · rw [elems r i hr hi]
    split
    · next active => exact (e r i active.1 active.2).1
    · rfl
  · obtain ⟨fl, raised, rest⟩ := accrued
    refine ⟨fl, fun n => (raised n).trans ?_, rest⟩
    exact exists_congr fun r => exists_congr fun i => and_congr_right fun _ => and_congr_right fun below =>
      and_congr_right fun active => by rw [(e r i below active).2]

section
variable {i : Instr} {s : State} {l : BitVec 2} {vl : Nat} {ty : BitVec 4} {types : BitVec 4 → Bool} {rm : Bool}
  {x1 x2 : Option (BitVec 5)} {act : State → QEntry → VOut}

/-- A vector instruction whose act is an element sweep runs as one. -/
theorem sweeps_vector {g m : BitVec 2} {d : BitVec 5} {f : Nat → Nat → Nat × Flags}
    (hq : queuedOf i = some (vectorQueued i l types rm x1 x2 act)) (hi : belowMatrix i = true)
    (hr : Runs s (wordOf i)) (hv : HasLength s l vl ty) (ht : types ty = true)
    (hm : rm = false ∨ s.me.rm.toNat < 5)
    (ha : ∀ u e, Captured s x1 x2 vl ty u e → act u e = u.sweep e g m d f) : Sweeps (exec i s) s g m d ty vl f := by
  have hs : i ≠ .mswap := by rintro rfl; cases hq
  rw [exec_of_queuedOf hq hs]
  exact sweeps_enqueue s _ l g m d vl ty f hr rfl hv rfl ht hm rfl rfl (fun _ => rfl) (fun _ _ => rfl)
    (classOf_ne_matrix hi) fun u _ rows masks _ _ _ type count => ha u _ (captured_capture rows masks type count)

/-- A vector instruction whose act is a scalar result writes it (05_vector R155). -/
theorem setsScalar_vector {d : BitVec 5} {v : Word} {fl : Flags}
    (hq : queuedOf i = some (vectorQueued i l types rm x1 x2 act)) (hi : belowMatrix i = true)
    (hr : Runs s (wordOf i)) (hv : HasLength s l vl ty) (ht : types ty = true)
    (hm : rm = false ∨ s.me.rm.toNat < 5)
    (ha : ∀ u e, Captured s x1 x2 vl ty u e → act u e = u.scalarResult d v fl) : SetsScalar (exec i s) s d v fl := by
  have hs : i ≠ .mswap := by rintro rfl; cases hq
  rw [exec_of_queuedOf hq hs]
  exact setsScalar_enqueue hr rfl hv rfl ht hm rfl rfl (fun _ => rfl) (fun _ _ => rfl) (classOf_ne_matrix hi)
    fun u rows masks type count => ha u _ (captured_capture rows masks type count)
end

/-! ### Types that an instruction takes (05_vector R135) -/

theorem isArith_of_range {ty : BitVec 4} (lo : 8 ≤ ty.toNat) (hi : ty.toNat < 12) : isArith ty = true := by
  simp [isArith, lo, hi]
theorem isPlain_of_lt {ty : BitVec 4} (ht : ty.toNat < 12) : isPlain ty = true := by
  simp only [isPlain, isInt, isArith, Bool.or_eq_true, Bool.and_eq_true, decide_eq_true_eq]
  omega

end Sys2Proof.Machine
end

section
/-!
SUPPORT. Proof of the statement on integer vector arithmetic (Machine/VInt).
-/

namespace Sys2Proof.Machine

/-! ### Integer operations on patterns of a width (05_vector R139, R143) -/

section
variable (sg : Bool) {w a b : Nat} (c : Nat)

theorem opMin_eq (ha : a < 2 ^ w) (hb : b < 2 ^ w) : opMin sg w a b c = wrapTo w (min (intValue sg w a) (intValue sg w b)) := by
  rw [opMin, min_def_lt, apply_ite (wrapTo w), wrapTo_intValue sg ha, wrapTo_intValue sg hb]
theorem opMax_eq (ha : a < 2 ^ w) (hb : b < 2 ^ w) : opMax sg w a b c = wrapTo w (max (intValue sg w a) (intValue sg w b)) := by
  rw [opMax, max_def_lt, apply_ite (wrapTo w), wrapTo_intValue sg ha, wrapTo_intValue sg hb]

/-- Saturation is a clamp to the type's range. -/
theorem clampTo_eq (hw : 0 < w) (v : Int) : clampTo sg w v = wrapTo w (max (intMin sg w) (min (intMax sg w) v)) := by
  have range := intMin_le_intMax (sg := sg) hw
  rw [clampTo]
  congr 1
  split_ifs <;> omega
theorem wrapTo_natAbs (v : Int) : wrapTo w (v.natAbs : Int) = v.natAbs % 2 ^ w := by
  zify
  rw [wrapTo_cast]
end

/-! ### Families of integer instructions -/

/-- What the statement says of a V form, its X form and their operation. -/
def IntegerForms (p : (VOps → Instr) × (VOps → Instr) × (Bool → Nat → Nat → Nat → Nat → Nat)) : Prop :=
  ∀ (f : VOps) (s : State) (vl : Nat) (ty : BitVec 4) (w : Nat) (sg : Bool), ty.toNat < 8 → w = typeWidth ty →
    sg = decide (ty.toNat < 4) → HasLength s f.l vl ty →
    (Runs s (wordOf (p.1 f)) → Sweeps (exec (p.1 f) s) s f.g f.m f.d ty vl fun r i =>
      (p.2.2 sg w (s.me.element ty f.a r i) (s.me.element ty f.b r i) (s.me.element ty f.d r i), 0)) ∧
    (Runs s (wordOf (p.2.1 f)) → Sweeps (exec (p.2.1 f) s) s f.g f.m f.d ty vl fun r i =>
      (p.2.2 sg w ((s.me.xr f.a).toNat % 2 ^ w) (s.me.element ty f.b r i) (s.me.element ty f.d r i), 0))

/-- What the statement says of an integer function of VFUN. -/
def IntegerFunction (p : (VUnOps → Instr) × (Bool → Nat → Nat → Nat)) : Prop :=
  ∀ (f : VUnOps) (s : State) (vl : Nat) (ty : BitVec 4), ty.toNat < 8 → HasLength s f.l vl ty →
    Runs s (wordOf (p.1 f)) → Sweeps (exec (p.1 f) s) s f.g f.m f.d ty vl fun r i =>
      (p.2 (decide (ty.toNat < 4)) (typeWidth ty) (s.me.element ty f.b r i), 0)

theorem Hart.element_lt (t : Hart) (ty : BitVec 4) (b : BitVec 5) (r i : Nat) : t.element ty b r i < 2 ^ typeWidth ty :=
  rowElem_lt _ _ _

/-- A V form and an X form queued with one operation on patterns are as the statement says. -/
theorem integerForms_of_queued {v x : VOps → Instr} {op k : Bool → Nat → Nat → Nat → Nat → Nat}
    (hv : ∀ f, queuedOf (v f) = some (intVV f (wordOf (v f)) op) ∧ belowMatrix (v f) = true)
    (hx : ∀ f, queuedOf (x f) = some (intVX f (wordOf (x f)) op) ∧ belowMatrix (x f) = true)
    (hk : ∀ sg w a b c, 0 < w → a < 2 ^ w → b < 2 ^ w → op sg w a b c = k sg w a b c) : IntegerForms (v, x, k) := by
  rintro f s vl ty w sg ht rfl rfl hl
  have below := s.me.element_lt ty
  constructor
  · intro hr
    refine sweeps_vector (hv f).1 (hv f).2 hr hl (decide_eq_true ht) (.inl rfl) fun u e h =>
      congrArg (u.sweep e f.g f.m f.d) (funext₂ fun r i => ?_)
    rw [h.elem, h.type, hk _ _ _ _ _ (typeWidth_pos ty) (below _ _ _) (below _ _ _)]
    rfl
  · intro hr
    refine sweeps_vector (hx f).1 (hx f).2 hr hl (decide_eq_true ht) (.inl rfl) fun u e h =>
      congrArg (u.sweep e f.g f.m f.d) (funext₂ fun r i => ?_)
    rw [h.elem, h.x1w, h.type, hk _ _ _ _ _ (typeWidth_pos ty) (Nat.mod_lt _ (Nat.two_pow_pos _)) (below _ _ _)]
    rfl

/-- A function of VFUN queued with an operation on patterns is as the statement says. -/
theorem integerFunction_of_queued {v : VUnOps → Instr} {op k : Bool → Nat → Nat → Nat}
    (hv : ∀ f, queuedOf (v f) = some (intUn f (wordOf (v f)) op) ∧ belowMatrix (v f) = true)
    (hk : ∀ sg w b, b < 2 ^ w → op sg w b = k sg w b) : IntegerFunction (v, k) := by
  intro f s vl ty ht hl hr
  refine sweeps_vector (hv f).1 (hv f).2 hr hl (decide_eq_true ht) (.inl rfl) fun u e h =>
    congrArg (u.sweep e f.g f.m f.d) (funext₂ fun r i => ?_)
  rw [h.elem, h.type, hk _ _ _ (s.me.element_lt ty _ _ _)]
  rfl

end Sys2Proof.Machine

open Sys2Proof Sys2Proof.Machine

/-- Settles O25: each form is queued with its operation on patterns, which the element sweep applies. -/
theorem integerVectorsSweepTheirGroup : Obligations.IntegerVectorsSweepTheirGroup := by
  unfold Obligations.IntegerVectorsSweepTheirGroup
  refine ⟨fun p hp => show IntegerForms p from ?forms, fun p hp => show IntegerFunction p from ?functions⟩
  case forms =>
    revert p
    simp only [List.forall_mem_cons, List.not_mem_nil, false_implies, implies_true, and_true]
    refine ⟨?add, ?sub, ?rsub, ?mul, ?mulh, ?macc, ?min, ?max, ?and, ?or, ?xor, ?sll, ?srl, ?sra, ?adds, ?subs⟩
    case min =>
      exact integerForms_of_queued (fun _ => ⟨rfl, rfl⟩) (fun _ => ⟨rfl, rfl⟩)
        fun sg _ _ _ c _ ha hb => opMin_eq sg c ha hb
    case max =>
      exact integerForms_of_queued (fun _ => ⟨rfl, rfl⟩) (fun _ => ⟨rfl, rfl⟩)
        fun sg _ _ _ c _ ha hb => opMax_eq sg c ha hb
    case sll =>
      exact integerForms_of_queued (fun _ => ⟨rfl, rfl⟩) (fun _ => ⟨rfl, rfl⟩)
        fun _ w a b _ _ _ _ => by rw [opSll, Nat.shiftLeft_eq]
    case srl =>
      exact integerForms_of_queued (fun _ => ⟨rfl, rfl⟩) (fun _ => ⟨rfl, rfl⟩)
        fun _ w a b _ _ _ _ => by rw [opSrl, Nat.shiftRight_eq_div_pow]
    case adds =>
      exact integerForms_of_queued (fun _ => ⟨rfl, rfl⟩) (fun _ => ⟨rfl, rfl⟩)
        fun sg _ _ _ _ hw _ _ => clampTo_eq sg hw _
    case subs =>
      exact integerForms_of_queued (fun _ => ⟨rfl, rfl⟩) (fun _ => ⟨rfl, rfl⟩)
        fun sg _ _ _ _ hw _ _ => clampTo_eq sg hw _
    all_goals
      exact integerForms_of_queued (fun _ => ⟨rfl, rfl⟩) (fun _ => ⟨rfl, rfl⟩) fun _ _ _ _ _ _ _ _ => rfl
  case functions =>
    revert p
    simp only [List.forall_mem_cons, List.not_mem_nil, false_implies, implies_true, and_true]
    refine ⟨?clz, ?ctz, ?popc, ?not, ?abs, ?neg⟩
    case clz => exact integerFunction_of_queued (fun _ => ⟨rfl, rfl⟩) fun _ w b _ => leadingZeros_eq w b
    case ctz => exact integerFunction_of_queued (fun _ => ⟨rfl, rfl⟩) fun _ w b _ => trailingZeros_eq w b
    case popc => exact integerFunction_of_queued (fun _ => ⟨rfl, rfl⟩) fun _ w b _ => popCount_eq w b
    case not =>
      exact integerFunction_of_queued (fun _ => ⟨rfl, rfl⟩) fun _ w b hb => by rw [Nat.mod_eq_of_lt hb]
    case abs => exact integerFunction_of_queued (fun _ => ⟨rfl, rfl⟩) fun sg w b _ => wrapTo_natAbs (intValue sg w b)
    case neg => exact integerFunction_of_queued (fun _ => ⟨rfl, rfl⟩) fun _ _ _ _ => rfl
end

section
/-!
SUPPORT. Proof of the statement on floating-point vector arithmetic (Machine/VFlt).
-/

namespace Sys2Proof.Machine

/-! ### Families of floating-point instructions (05_vector R140, R141) -/

/-- What the statement says of a V form, its X form and their operation. -/
def FloatForms (p : (VOps → Instr) × (VOps → Instr) × (Fmt → BitVec 3 → Nat → Nat → Nat → Nat × Flags)) : Prop :=
  ∀ (f : VOps) (s : State) (vl : Nat) (ty : BitVec 4), 8 ≤ ty.toNat → ty.toNat < 12 → s.me.rm.toNat < 5 →
    HasLength s f.l vl ty →
    (Runs s (wordOf (p.1 f)) → Sweeps (exec (p.1 f) s) s f.g f.m f.d ty vl fun r i =>
      p.2.2 (fmtOf ty) s.me.rm (s.me.element ty f.a r i) (s.me.element ty f.b r i) (s.me.element ty f.d r i)) ∧
    (Runs s (wordOf (p.2.1 f)) → Sweeps (exec (p.2.1 f) s) s f.g f.m f.d ty vl fun r i =>
      p.2.2 (fmtOf ty) s.me.rm ((s.me.xr f.a).toNat % 2 ^ typeWidth ty) (s.me.element ty f.b r i)
        (s.me.element ty f.d r i))

/-- What the statement says of a floating-point function of VFUN, which takes the types from code 8 to below a bound. -/
def FloatFunction (p : (VUnOps → Instr) × Nat × (Fmt → BitVec 3 → Nat → Nat × Flags)) : Prop :=
  ∀ (f : VUnOps) (s : State) (vl : Nat) (ty : BitVec 4), 8 ≤ ty.toNat → ty.toNat < p.2.1 → s.me.rm.toNat < 5 →
    HasLength s f.l vl ty → Runs s (wordOf (p.1 f)) → Sweeps (exec (p.1 f) s) s f.g f.m f.d ty vl fun r i =>
      p.2.2 (fmtOf ty) s.me.rm (s.me.element ty f.b r i)

/-- A V form and an X form queued with an operation are as the statement says of it. -/
theorem floatForms_of_queued {v x : VOps → Instr} {op k : Fmt → BitVec 3 → Nat → Nat → Nat → Nat × Flags}
    (hv : ∀ f, queuedOf (v f) = some (fltVV f (wordOf (v f)) op) ∧ belowMatrix (v f) = true)
    (hx : ∀ f, queuedOf (x f) = some (fltVX f (wordOf (x f)) op) ∧ belowMatrix (x f) = true)
    (hk : ∀ F rm a b c, op F rm a b c = k F rm a b c) : FloatForms (v, x, k) := by
  intro f s vl ty lo hi hm hl
  constructor
  · intro hr
    refine sweeps_vector (hv f).1 (hv f).2 hr hl (isArith_of_range lo hi) (.inr hm) fun u e h =>
      congrArg (u.sweep e f.g f.m f.d) (funext₂ fun r i => ?_)
    rw [hk, h.elem, h.type, h.mode]
  · intro hr
    refine sweeps_vector (hx f).1 (hx f).2 hr hl (isArith_of_range lo hi) (.inr hm) fun u e h =>
      congrArg (u.sweep e f.g f.m f.d) (funext₂ fun r i => ?_)
    rw [hk, h.elem, h.x1w, h.type, h.mode]
    rfl

/-- A function of VFUN queued with an operation is as the statement says of it. -/
theorem floatFunction_of_queued {v : VUnOps → Instr} {types : BitVec 4 → Bool} {n : Nat}
    {op k : Fmt → BitVec 3 → Nat → Nat × Flags}
    (hv : ∀ f, queuedOf (v f) = some (fltUn f (wordOf (v f)) types op) ∧ belowMatrix (v f) = true)
    (ht : ∀ ty, 8 ≤ ty.toNat → ty.toNat < n → types ty = true) (hk : ∀ F rm b, op F rm b = k F rm b) :
    FloatFunction (v, n, k) := by
  intro f s vl ty lo hi hm hl hr
  refine sweeps_vector (hv f).1 (hv f).2 hr hl (ht ty lo hi) (.inr hm) fun u e h =>
    congrArg (u.sweep e f.g f.m f.d) (funext₂ fun r i => ?_)
  rw [hk, h.elem, h.type, h.mode]

/-- The sign moves as they are on the bits (R46). -/
theorem Fmt.withSign_not (F : Fmt) (n : Bool) (b : Nat) :
    F.withSign (!n) b = (if n then 0 else 2 ^ (F.w - 1)) + b % 2 ^ (F.w - 1) := by
  cases n <;> rfl
theorem Fmt.withSign_bne (F : Fmt) (m n : Bool) (b : Nat) :
    F.withSign (m != n) b = (if m = n then 0 else 2 ^ (F.w - 1)) + b % 2 ^ (F.w - 1) := by
  cases m <;> cases n <;> rfl

end Sys2Proof.Machine

open Sys2Proof Sys2Proof.Machine

/-- Settles O26: each form is queued with its operation in the captured rounding mode, which the element sweep applies. -/
theorem floatVectorsSweepTheirGroup : Obligations.FloatVectorsSweepTheirGroup := by
  unfold Obligations.FloatVectorsSweepTheirGroup
  refine ⟨fun p hp => show FloatForms p from ?forms, fun p hp => show FloatFunction p from ?functions⟩
  case forms =>
    revert p
    simp only [List.forall_mem_cons, List.not_mem_nil, false_implies, implies_true, and_true]
    refine ⟨?add, ?sub, ?mul, ?div, ?min, ?max, ?fma, ?fms, ?fnma, ?fnms, ?sgnj, ?sgnjn, ?sgnjx⟩
    case sgnjn =>
      exact floatForms_of_queued (fun _ => ⟨rfl, rfl⟩) (fun _ => ⟨rfl, rfl⟩) fun F _ a b _ =>
        congrArg (·, 0) (F.withSign_not (F.neg a) b)
    case sgnjx =>
      exact floatForms_of_queued (fun _ => ⟨rfl, rfl⟩) (fun _ => ⟨rfl, rfl⟩) fun F _ a b _ =>
        congrArg (·, 0) (F.withSign_bne (F.neg a) (F.neg b) b)
    all_goals exact floatForms_of_queued (fun _ => ⟨rfl, rfl⟩) (fun _ => ⟨rfl, rfl⟩) fun _ _ _ _ _ => rfl
  case functions =>
    revert p
    simp only [List.forall_mem_cons, List.not_mem_nil, false_implies, implies_true, and_true]
    refine ⟨?sqrt, ?exp2, ?abs, ?neg, ?classify, ?rint⟩
    case exp2 =>
      refine floatFunction_of_queued (fun _ => ⟨rfl, rfl⟩) (fun ty lo hi => ?_) fun _ _ _ => rfl
      have notF64 : ty ≠ 0xB := by rintro rfl; exact absurd hi (by decide)
      exact Bool.and_eq_true_iff.mpr ⟨isArith_of_range lo (hi.trans (by decide)), decide_eq_true notF64⟩
    case neg =>
      exact floatFunction_of_queued (fun _ => ⟨rfl, rfl⟩) (fun _ => isArith_of_range) fun F _ b =>
        congrArg (·, 0) (F.withSign_not (F.neg b) b)
    case abs =>
      exact floatFunction_of_queued (fun _ => ⟨rfl, rfl⟩) (fun _ => isArith_of_range) fun F _ b =>
        congrArg (·, 0) (Nat.zero_add (F.mag b))
    all_goals exact floatFunction_of_queued (fun _ => ⟨rfl, rfl⟩) (fun _ => isArith_of_range) fun _ _ _ => rfl
end

section
/-!
SUPPORT. Proof of the statement on permutations (Machine/VMove, VPERM).
-/

namespace Sys2Proof.Machine

/-! ### Slides (05_vector R149) -/

/-- A row is given by its elements. -/
theorem eq_of_rowElem {w x y : Nat} (hw : 0 < w) (h : ∀ j, rowElem w x j = rowElem w y j) : x = y := by
  refine Nat.eq_of_testBit_eq fun n => ?_
  have bit := congrArg (·.testBit (n % w)) (h (n / w))
  simpa [testBit_rowElem, Nat.mod_lt _ hw, Nat.div_add_mod] using bit

/-- A sweep from element n on is one of the whole row that gives the elements below n their own values. -/
theorem sweepTo_from (k : Nat) {ty : BitVec 4} (hty : ty ≠ tyF6) (vl n : Nat) (active : Nat → Bool) (f : Nat → Nat) (r : Row) :
    sweepTo k ty vl 0 active (fun i => (if n ≤ i then f i else rowElem (typeWidth ty) r.toNat i, Flags.none)) r =
      ((sweepTo k ty vl n active (fun i => (f i, Flags.none)) r).1, 0) := by
  have hw := typeWidth_pos ty
  obtain ⟨whole, flags⟩ := sweepRow_spec (typeWidth ty) hw active
    (fun i => (if n ≤ i then f i else rowElem (typeWidth ty) r.toNat i, Flags.none)) (vl - 0) 0 r.toNat Flags.none false
  obtain ⟨part, -⟩ := sweepRow_spec (typeWidth ty) hw active (fun i => (f i, Flags.none)) (vl - n) n r.toNat Flags.none false
  unfold sweepTo
  simp only [hty, decide_false, Bool.and_false, Bool.false_eq_true, if_false]
  refine Prod.ext (congrArg (BitVec.ofNat 32768) (eq_of_rowElem hw fun j => ?_)) (BitVec.eq_of_getLsbD_eq fun b _ => ?_)
  · rw [whole, part]
    by_cases on : active j = true
    · by_cases from_n : n ≤ j
      · simp only [on, from_n, if_true, and_true, Nat.zero_le, true_and]
        congr 1
        simp only [eq_iff_iff]
        omega
      · simp only [from_n, if_false, false_and, rowElem, Nat.mod_mod, ite_self]
    · simp [on]
  · rw [Bool.eq_iff_iff, flags]
    simp [Flags.none]

/-- The element sweep of one row. -/
theorem State.sweep_row (u : State) {e : QEntry} (hr : e.restart = 0) (m : BitVec 2) (d : BitVec 5)
    (f : Nat → Nat → Nat × Flags) : u.sweep e 0 m d f =
      (let o := sweepTo u.me.k e.ty (e.till 0) 0 (fun i => (u.me.maskOf m).testBit i) (f 0) (u.me.vr d.toNat)
      .done (u.withMe fun t => t.setV d.toNat o.1) o.2) := by
  unfold State.sweep
  rw [QEntry.row0_of_fresh hr, QEntry.elem0_of_fresh hr]
  exact congrArg (VOut.done _) BitVec.zero_or

/-- A slide up is the sweep that gives the elements below the offset their own values. -/
theorem vslupQueued_act (f : VPermOps) (u : State) {e : QEntry} (hr : e.restart = 0) (hty : e.ty ≠ tyF6) :
    (vslupQueued f).act u e = u.sweep e 0 f.m f.d fun _ i =>
      (if e.xs1.toNat ≤ i then u.me.elem e f.b 0 (i - e.xs1.toNat) else u.me.elem e f.d 0 i, 0) := by
  have slide := sweepTo_from u.me.k hty (e.till 0) e.xs1.toNat (fun i => (u.me.maskOf f.m).testBit i)
    (fun i => u.me.elem e f.b 0 (i - e.xs1.toNat)) (u.me.vr f.d.toNat)
  rw [State.sweep_row u hr]
  refine Eq.trans ?_ (congrArg (fun o : Row × Flags => VOut.done (u.withMe fun t => t.setV f.d.toNat o.1) o.2) slide.symm)
  show VOut.done (u.withMe fun t => t.setV f.d.toNat (sweepTo u.me.k e.ty (e.till 0) (max e.elem0 e.xs1.toNat) _ _ _).1) 0 = _
  rw [QEntry.elem0_of_fresh hr, Nat.zero_max]

end Sys2Proof.Machine

open Sys2Proof Sys2Proof.Machine

/-- Settles O29: each permutation is a sweep by the values that the row's places name, or a scalar result. -/
theorem permutationsMoveElements : Obligations.PermutationsMoveElements := by
  unfold Obligations.PermutationsMoveElements
  rintro s vl ty _ ht rfl
  have plain := isPlain_of_lt ht
  refine ⟨fun f n hl hn => ⟨fun hr => ?slup, fun hr => ?sldn, fun hr => ?gather⟩,
    fun f hl => ⟨fun hr => ?compress, fun hr => ?expand⟩, fun f hl => ⟨fun hr => ?extract, fun hr => ?insert⟩,
    fun f hl hr => ?rowrot⟩
  case slup =>
    subst hn
    refine sweeps_vector rfl rfl hr hl plain (.inl rfl) fun u e h => ?_
    refine (vslupQueued_act f u h.fresh ?_).trans ?_
    · rw [h.type]
      rintro rfl
      exact absurd ht (by decide)
    · rw [h.elem, h.scalar1]
      rfl
  case sldn =>
    subst hn
    refine sweeps_vector rfl rfl hr hl plain (.inl rfl) fun u e h => congrArg (u.sweep e 0 f.m f.d) ?_
    rw [h.elem, h.scalar1, h.count, h.filling]
    rfl
  case gather =>
    refine sweeps_vector rfl rfl hr hl plain (.inl rfl) fun u e h => congrArg (u.sweep e 0 f.m f.d) ?_
    rw [h.elem, h.count, h.filling]
    rfl
  case compress =>
    refine sweeps_vector rfl rfl hr hl plain (.inl rfl) fun u e h => congrArg (u.sweep e 0 0 f.d) ?_
    rw [h.elem, h.count, h.filling, h.mask, Hart.setPositions_maskOf s.me f.m hl.vl_le]
    rfl
  case expand =>
    refine (sweeps_vector (f := fun _ i => (s.me.element ty f.b 0 (popCount i (s.me.maskOf f.m)), 0)) rfl rfl hr hl
      plain (.inl rfl) fun u e h => congrArg (u.sweep e 0 f.m f.d) ?_).congr fun r i hi _ => ⟨?_, rfl⟩
    · rw [h.elem, h.mask]
      rfl
    · have below : (List.range i).filter (fun j => (s.me.maskOf f.m).testBit j) = (List.range i).filter fun j => s.me.gates f.m j :=
        List.filter_congr fun j hj => mask_testBit s.me f.m j (((List.mem_range.mp hj).trans hi).trans_le hl.vl_le)
      rw [popCount_eq, below]
  case extract =>
    refine setsScalar_vector rfl rfl hr hl plain (.inl rfl) fun u e h => ?_
    show u.scalarResult f.d (extendElem e.ty (if e.xs1.toNat < e.vl then u.me.elem e f.b 0 e.xs1.toNat else e.fill)) 0 = _
    rw [h.elem, h.scalar1, h.count, h.filling, h.type]
    rfl
  case insert =>
    refine (sweeps_vector (f := fun _ i => (if i = (s.me.xr f.a).toNat then (s.me.xr f.b).toNat % 2 ^ typeWidth ty
      else s.me.element ty f.d 0 i, 0)) rfl rfl hr hl
      plain (.inl rfl) fun u e h => congrArg (u.sweep e 0 0 f.d) ?_).congr fun r i _ _ => ⟨?_, rfl⟩
    · rw [h.elem, h.scalar1, h.scalar2, h.type]
      rfl
    · dsimp only
      split
      · exact Nat.mod_mod _ _
      · rfl
  case rowrot =>
    refine sweeps_vector rfl rfl hr hl plain (.inl rfl) fun u e h => congrArg (u.sweep e f.g f.m f.d) ?_
    rw [h.elem, h.scalar1]
    rfl
end

section
/-!
SUPPORT. Proof of the statement on compares and mask operations (Machine/VMove, VCMP and VMSK).
-/

namespace Sys2Proof.Machine

/-! ### A queued vector instruction whose result is a mask (05_vector R147, R148; 01_machine R23) -/

/-- The fields that a write of a mask register leaves. -/
theorem Hart.setM_eq (t : Hart) (n : Nat) (v : Mask) : t.setM n v = { t with m := (t.setM n v).m } := by
  unfold Hart.setM
  split <;> rfl
/-- What a write leaves in the mask registers depends on them alone. -/
theorem Hart.m_setM_congr {t u : Hart} (h : t.m = u.m) (n : Nat) (v : Mask) : (t.setM n v).m = (u.setM n v).m := by
  unfold Hart.setM
  split
  · exact h
  · exact congrArg (Sparse.set 0 · n v) h

/-- The bits of a mask swept from bit 0 on, and the flags that the active ones raise. -/
theorem sweepRow_mask (active : Nat → Bool) (f : Nat → Bool × Flags) (n x : Nat) :
    let o := sweepRow 1 active (fun i => (if (f i).1 then 1 else 0, (f i).2)) n 0 (x, 0, false)
    (∀ i, o.1.testBit i = if i < n ∧ active i = true then (f i).1 else x.testBit i) ∧
    ∀ k, o.2.1.getLsbD k = true ↔ ∃ i, i < n ∧ active i = true ∧ (f i).2.getLsbD k = true := by
  intro o
  obtain ⟨elems, flags⟩ := sweepRow_spec 1 Nat.one_pos active (fun i => (if (f i).1 then 1 else 0, (f i).2)) n 0 x 0 false
  refine ⟨fun i => ?_, fun k => (flags k).trans ?_⟩
  · have bit (y : Nat) : y.testBit i = (rowElem 1 y i).testBit 0 := by
      rw [testBit_rowElem, Nat.one_mul, Nat.add_zero]
      rfl
    rw [bit o.1, bit x, elems i]
    cases (f i).1 <;> simp [apply_ite (Nat.testBit · 0)]
  · simp

section
variable {i : Instr} {s : State} {l : BitVec 2} {vl : Nat} {ty : BitVec 4} {types : BitVec 4 → Bool}
  {x1 x2 : Option (BitVec 5)} {act : State → QEntry → VOut}

/-- A vector instruction whose act writes a mask register and raises flags does so and nothing else. -/
theorem exec_writesMask {n : Nat} {v : Mask} {fl : Flags} (hq : queuedOf i = some (vectorQueued i l types false x1 x2 act))
    (hi : belowMatrix i = true) (hr : Runs s (wordOf i)) (hv : HasLength s l vl ty) (ht : types ty = true)
    (ha : ∀ u e, Captured s x1 x2 vl ty u e → act u e = .done (u.withMe fun t => t.setM n v) fl) :
    ∃ t, exec i s = .next t ∧ Ran s t ∧ t.me.x = s.me.x ∧ t.me.v = s.me.v ∧ t.me.m = (s.me.setM n v).m ∧
      t.me.csr = (s.me.accrue fl).csr := by
  have hs : i ≠ .mswap := by rintro rfl; cases hq
  rw [exec_of_queuedOf hq hs]
  obtain ⟨hcheck, hvl, hty⟩ := enqueueCheck_none s (vectorQueued i l types false x1 x2 act) l vl ty hr rfl hv rfl ht (.inl rfl) rfl
  generalize he : (vectorQueued i l types false x1 x2 act).capture s.me s.me.pc = e at *
  have admits := admitted_of_blocking (q := vectorQueued i l types false x1 x2 act) rfl s.me.advance e
  obtain ⟨u, only, hu, enq⟩ := enqueue_runs s _ e he.symm rfl (fun _ => rfl) hcheck hr
    (fun u => u.withMe fun t => t.setM n v) (fun _ => fl) fun u _ hu => by
      rw [admits] at hu
      refine ⟨ha u e (he ▸ captured_capture (by rw [hu]; rfl) (by rw [hu]; rfl) (he ▸ hty) (he ▸ hvl)), ?_⟩
      rw [State.me_withMe, Hart.setM_eq, hu, admits]
  rw [admits] at hu
  have m : (u.me.setM n v).m = (s.me.setM n v).m := Hart.m_setM_congr (by rw [hu]; rfl) n v
  have csr : ((u.me.setM n v).accrue fl).csr = (s.me.accrue fl).csr := by rw [Hart.setM_eq, hu]; rfl
  have me : (s.enqueue (vectorQueued i l types false x1 x2 act)).me = { s.me with
      m := (s.me.setM n v).m
      csr := (s.me.accrue fl).csr
      pc := s.me.pc + 4
      wait := none
      convoyOpen := true
      queue := (if e.first then [] else s.me.queue) ++ [{ e with started := true, done := true }] } := by
    have word : classOf e.word ≠ .matrix := by rw [← he]; exact classOf_ne_matrix hi
    rw [enq, State.me_withMe, State.me_withMe, complete_eq _ _ _ (by rw [← he]; rfl) word, csr, Hart.setM_eq, m, hu]
    rfl
  obtain ⟨-, -, -, -, -, -, drained, -⟩ := hr
  exact ⟨_, rfl, ⟨enq ▸ only.trans ((onlyMe_withMe _ _).trans (onlyMe_withMe _ _)),
    Hart.drained_append drained rfl (congrArg Hart.queue me), by rw [me]⟩, by rw [me], by rw [me], by rw [me], by rw [me]⟩

/-- A vector instruction whose act recomputes a mask's active bits below VL sets them. -/
theorem setsMask_vector {m : BitVec 2} {d : BitVec 3} {active : Nat → Bool} {f k : Nat → Bool × Flags}
    (hq : queuedOf i = some (vectorQueued i l types false x1 x2 act)) (hi : belowMatrix i = true)
    (hr : Runs s (wordOf i)) (hv : HasLength s l vl ty) (ht : types ty = true)
    (ha : ∀ u e, Captured s x1 x2 vl ty u e → act u e = u.sweepMask e active d k)
    (hactive : ∀ i, i < vl → active i = s.me.gates m i) (hf : ∀ i, i < vl → k i = f i) :
    SetsMask (exec i s) s m d vl f := by
  have swept := sweepRow_mask active k vl (s.me.mr d.toNat).toNat
  obtain ⟨t, run, ran, x, v, masks, csr⟩ := exec_writesMask hq hi hr hv ht fun u e h => by
    rw [ha u e h, State.sweepMask, h.mr, h.till hv.vl_le, QEntry.elem0_of_fresh h.fresh, Nat.sub_zero]
  generalize sweepRow 1 active _ vl 0 _ = o at swept masks csr
  obtain ⟨bits, flags⟩ := swept
  refine ⟨t, run, ran, x, v, fun n i => ?bits, (accrued_accrue s.me o.2.1 _ fun b => (flags b).trans ?flags).congr fun n =>
    congrArg (Sparse.get 0 · n) csr⟩
  case bits =>
    rw [Hart.mr_congr masks, Hart.mr_setM]
    have zero : d.toNat ≠ 0 ↔ d ≠ 0 := by simp [BitVec.toNat_eq]
    by_cases target : n = d.toNat ∧ n ≠ 0
    · obtain ⟨rfl, written⟩ := target
      rw [if_pos ⟨rfl, written⟩, BitVec.getLsbD_ofNat, bits]
      by_cases on : i < vl ∧ active i = true
      · obtain ⟨below, on⟩ := on
        rw [if_pos ⟨below, on⟩, if_pos ⟨rfl, zero.mp written, below, hactive i below ▸ on⟩, hf i below,
          decide_eq_true (below.trans_le hv.vl_le), Bool.true_and]
      · rw [if_neg on, if_neg fun ⟨_, _, below, gated⟩ => on ⟨below, (hactive i below).trans gated⟩]
        simpa [BitVec.testBit_toNat] using BitVec.lt_of_getLsbD
    · rw [if_neg target, if_neg]
      rintro ⟨rfl, written, -⟩
      exact target ⟨rfl, zero.mpr written⟩
  case flags =>
    exact exists_congr fun i => and_congr_right fun below => by rw [hactive i below, hf i below]
end

/-! ### Compares (05_vector R147) -/

/-- What the statement says of a V form, its X form and their relation: the least type, the relation of integers and of numbers,
the result for a NaN, and whether a quiet one raises NV. -/
def Compares (p : (VCmpOps → Instr) × (VCmpOps → Instr) × Nat × (Int → Int → Bool) × (FVal → FVal → Bool) × Bool × Bool) : Prop :=
  ∀ (f : VCmpOps) (s : State) (vl : Nat) (ty : BitVec 4) (rel : Nat → Nat → Bool × Flags),
    rel = (fun a b =>
      if ty.toNat < 8 then (p.2.2.2.1 (intValue (decide (ty.toNat < 4)) (typeWidth ty) a)
        (intValue (decide (ty.toNat < 4)) (typeWidth ty) b), 0)
      else if ((fmtOf ty).decode a).isNan || ((fmtOf ty).decode b).isNan then (p.2.2.2.2.2.1,
        (if p.2.2.2.2.2.2 then 1 else 0) ||| ((fmtOf ty).decode a).sigFlag ||| ((fmtOf ty).decode b).sigFlag)
      else (p.2.2.2.2.1 ((fmtOf ty).decode a) ((fmtOf ty).decode b), 0)) →
    p.2.2.1 ≤ ty.toNat → ty.toNat < 12 → HasLength s f.l vl ty →
    (Runs s (wordOf (p.1 f)) → SetsMask (exec (p.1 f) s) s f.m f.d vl fun i =>
      rel (s.me.element ty f.a 0 i) (s.me.element ty f.b 0 i)) ∧
    (Runs s (wordOf (p.2.1 f)) → SetsMask (exec (p.2.1 f) s) s f.m f.d vl fun i =>
      rel ((s.me.xr f.a).toNat % 2 ^ typeWidth ty) (s.me.element ty f.b 0 i))

/-- A V form and an X form queued with one comparison are as the statement says of it. -/
theorem compares_of_queued {v x : VCmpOps → Instr} {types : BitVec 4 → Bool} {n : Nat} {ints : Int → Int → Bool}
    {flts : FVal → FVal → Bool} {onNan quiet : Bool} {op : BitVec 4 → Nat → Nat → Bool × Flags}
    (hv : ∀ f, queuedOf (v f) = some (cmpVV f (wordOf (v f)) types op) ∧ belowMatrix (v f) = true)
    (hx : ∀ f, queuedOf (x f) = some (cmpVX f (wordOf (x f)) types op) ∧ belowMatrix (x f) = true)
    (ht : ∀ ty : BitVec 4, n ≤ ty.toNat → ty.toNat < 12 → types ty = true)
    (hop : ∀ ty a b, op ty a b = compareElems ty a b ints flts onNan quiet) :
    Compares (v, x, n, ints, flts, onNan, quiet) := by
  intro f s vl ty rel hrel lo hi hl
  have same : op ty = rel := by
    rw [hrel]
    exact funext₂ fun a b => (hop ty a b).trans (if_congr decide_eq_true_iff rfl rfl)
  have gated i (below : i < vl) := mask_testBit s.me f.m i (below.trans_le hl.vl_le)
  constructor
  · intro hr
    refine setsMask_vector (hv f).1 (hv f).2 hr hl (ht ty lo hi) (fun u e h => ?_) gated fun _ _ => rfl
    show u.sweepMask e (fun i => (u.me.maskOf f.m).testBit i) f.d (fun i => op e.ty (u.me.elem e f.a 0 i) (u.me.elem e f.b 0 i)) = _
    rw [h.mask, h.elem, h.type, same]
  · intro hr
    refine setsMask_vector (hx f).1 (hx f).2 hr hl (ht ty lo hi) (fun u e h => ?_) gated fun _ _ => rfl
    show u.sweepMask e (fun i => (u.me.maskOf f.m).testBit i) f.d (fun i => op e.ty e.x1w (u.me.elem e f.b 0 i)) = _
    rw [h.mask, h.elem, h.x1w, h.type, same]
    rfl

/-! ### Mask operations (05_vector R148) -/

section
variable {i : Instr} {s : State} {l : BitVec 2} {d a b : BitVec 3} {vl : Nat} {ty : BitVec 4}

/-- An operation of two masks sets the bits below VL to what it gives of theirs. -/
theorem setsMask_maskOp {op : Bool → Bool → Bool} (hq : queuedOf i = some (maskOp (wordOf i) l d a b op))
    (hi : belowMatrix i = true) (hr : Runs s (wordOf i)) (hv : HasLength s l vl ty) (ht : ty.toNat < 12) :
    SetsMask (exec i s) s 0 d vl fun i => (op ((s.me.mr a.toNat).getLsbD i) ((s.me.mr b.toNat).getLsbD i), 0) := by
  refine setsMask_vector hq hi hr hv (isPlain_of_lt ht) (fun u e h => ?_) (fun _ _ => rfl) fun _ _ => rfl
  show u.sweepMask e everyElem d (fun i => (op ((u.me.mr a.toNat).getLsbD i) ((u.me.mr b.toNat).getLsbD i), Flags.none)) = _
  rw [h.mr]
  rfl
end

theorem firstSet_eq_find (b : Mask) (n i : Nat) : firstSet b n i = (List.range' i n).find? fun j => b.getLsbD j := by
  induction n generalizing i with
  | zero => rfl
  | succ n ih =>
    rw [firstSet, ih, List.range'_succ, List.find?_cons]
    cases b.getLsbD i <;> rfl
theorem firstSet_zero (b : Mask) (n : Nat) : firstSet b n 0 = (List.range n).find? fun j => b.getLsbD j := by
  rw [firstSet_eq_find, List.range_eq_range']

/-- A bit comes before the lowest one below n exactly if it and all bits below it are zero. -/
theorem lt_firstSet (b : Mask) {n i : Nat} (hi : i < n) :
    decide (i < (firstSet b n 0).getD n) = (List.range (i + 1)).all fun j => !b.getLsbD j := by
  rw [firstSet_zero, Bool.eq_iff_iff, decide_eq_true_iff, List.all_eq_true]
  cases found : (List.range n).find? fun j => b.getLsbD j with
  | none =>
    have zeros := List.find?_range_eq_none.mp found
    simp only [Option.getD_none, hi, true_iff]
    exact fun j hj => zeros j ((Nat.lt_succ_iff.mp (List.mem_range.mp hj)).trans_lt hi)
  | some k =>
    obtain ⟨one, -, zeros⟩ := List.find?_range_eq_some.mp found
    rw [Option.getD_some]
    constructor
    · exact fun lt j hj => zeros j ((Nat.lt_succ_iff.mp (List.mem_range.mp hj)).trans_lt lt)
    · intro all
      by_contra ge
      have zero := all k (List.mem_range.mpr (by omega))
      simp [one] at zero

end Sys2Proof.Machine

open Sys2Proof Sys2Proof.Machine

/-- Settles O28: a compare and a mask operation are mask sweeps, a count and a search scalar results. -/
theorem comparesAndMaskOperations : Obligations.ComparesAndMaskOperations := by
  unfold Obligations.ComparesAndMaskOperations
  refine ⟨fun p hp => show Compares p from ?compares, ?binary,
    fun f s vl ty ht hl => ⟨fun hr => ?not, fun hr => ?mv, fun hr => ?sbf⟩,
    fun f s vl ty ht hl => ⟨fun hr => ?set, fun hr => ?clr⟩, fun f s vl ty ht hl => ⟨fun hr => ?popc, fun hr => ?first⟩⟩
  case compares =>
    revert p
    simp only [List.forall_mem_cons, List.not_mem_nil, false_implies, implies_true, and_true]
    refine ⟨?eq, ?ne, ?lt, ?le, ?gt, ?ge, ?unord, ?ord⟩
    case ne =>
      have bne (a b : Int) : (a != b) = decide (a ≠ b) := by rw [bne, beq_eq_decide, decide_not]
      exact compares_of_queued (fun _ => ⟨rfl, rfl⟩) (fun _ => ⟨rfl, rfl⟩) (fun _ _ => isPlain_of_lt) fun _ _ _ => by
        simp only [cmpNe, bne]
    case unord | ord =>
      exact compares_of_queued (fun _ => ⟨rfl, rfl⟩) (fun _ => ⟨rfl, rfl⟩) (fun _ => isArith_of_range) fun _ _ _ => rfl
    all_goals
      exact compares_of_queued (fun _ => ⟨rfl, rfl⟩) (fun _ => ⟨rfl, rfl⟩) (fun _ _ => isPlain_of_lt) fun _ _ _ => rfl
  case binary =>
    simp only [List.forall_mem_cons, List.not_mem_nil, false_implies, implies_true, and_true]
    refine ⟨?and, ?or, ?xor, ?andn⟩
    all_goals exact fun f s vl ty ht hl hr => setsMask_maskOp rfl rfl hr hl ht
  case not => exact setsMask_maskOp (a := 0) (op := fun _ y => !y) rfl rfl hr hl ht
  case mv => exact setsMask_maskOp (a := 0) (op := fun _ y => y) rfl rfl hr hl ht
  case set => exact setsMask_maskOp (a := 0) (b := 0) (op := fun _ _ => true) rfl rfl hr hl ht
  case clr => exact setsMask_maskOp (a := 0) (b := 0) (op := fun _ _ => false) rfl rfl hr hl ht
  case sbf =>
    refine setsMask_vector (active := everyElem) rfl rfl hr hl (isPlain_of_lt ht) (fun u e h => ?_) (fun _ _ => rfl)
      fun i below => congrArg (·, 0) (lt_firstSet (s.me.mr f.b.toNat) below)
    show u.sweepMask e everyElem f.d (fun i => (decide (i < (firstSet (u.me.mr f.b.toNat) e.vl 0).getD e.vl), Flags.none)) = _
    rw [h.mr, h.count]
    rfl
  case popc =>
    refine setsScalar_vector rfl rfl hr hl (isPlain_of_lt ht) (.inl rfl) fun u e h => ?_
    show u.scalarResult f.d (BitVec.ofNat 64 (popCount e.vl (u.me.mr f.b.toNat).toNat)) 0 = _
    rw [h.mr, h.count, popCount_eq]
    rfl
  case first =>
    refine setsScalar_vector rfl rfl hr hl (isPlain_of_lt ht) (.inl rfl) fun u e h => ?_
    have found : firstSet (u.me.mr f.b.toNat) e.vl 0 = (List.range vl).find? fun i => (s.me.mr f.b.toNat).getLsbD i := by
      rw [h.mr, h.count, firstSet_zero]
    exact congrArg (fun o => u.scalarResult f.d (match o with
      | some i => BitVec.ofNat 64 i
      | none => BitVec.allOnes 64) 0) found
end

section
/-!
SUPPORT. A counterexample to the statement on conversions (Machine/VFlt, VCVT_C4): a codebook entry that is a signalling NaN is
decoded to the canonical NaN and raises no flag (02_numbers R41).
-/

namespace Sys2Proof.Machine

/-- A package whose hart 0 owns a cluster and has one element of type F32 to convert, code 0 of codebook 0, whose entry 0 is a
signalling NaN. -/
def signallingEntry : State :=
  { State.reset.setHart 0 { Hart.free with map := 1, x := [(28, 0xA00000001)], cb := [(0, 0x7F81)] } with prompt := true }
/-- The conversion of row 2 through codebook 0 into row 8. -/
def convertRow : VCvtC4Ops := ⟨1, 8, 0, 2, 0, 0, 0⟩

theorem runs_convertRow : Runs signallingEntry (wordOf (.vcvtC4 convertRow)) :=
  ⟨rfl, by decide, rfl, rfl, .inl rfl, by decide, rfl, rfl, by decide, by decide⟩
theorem hasLength_convertRow : HasLength signallingEntry 0 1 0xA := ⟨rfl, by decide⟩

end Sys2Proof.Machine

open Sys2Proof Sys2Proof.Machine

/-- Refutes O27: the statement converts a codebook's entry as it stands, so that a signalling NaN raises NV; VCVT_C4 raises none. -/
theorem not_conversionsAndMoves : ¬ Obligations.ConversionsAndMoves := by
  unfold Obligations.ConversionsAndMoves
  intro claim
  obtain ⟨-, codebook, -⟩ := claim
  obtain ⟨t, run, -, -, -, -, -, fl, raised, -, sticky, -⟩ := codebook convertRow signallingEntry 1 0xA (by decide) (by decide)
    hasLength_convertRow (by decide) runs_convertRow
  have invalid : fl.getLsbD 0 = true := (raised 0).mpr ⟨0, 0, by decide, by decide, rfl, by decide +kernel⟩
  obtain rfl : signallingEntry.enqueue (vcvtC4Queued convertRow) = t := Host.Outcome.next.inj run
  have quiet : (signallingEntry.enqueue (vcvtC4Queued convertRow)).me.csrv 0x012 = 0 := by decide +kernel
  have bit : (0 : Word).getLsbD 0 = true := by
    rw [← quiet, sticky, BitVec.getLsbD_or, BitVec.getLsbD_setWidth, invalid]
    exact Bool.or_true _
  exact absurd bit (by decide)
end

section
/-!
SUPPORT. Time, windows and counters (06_memory_isa R185-R187).
-/

namespace Sys2Proof.Machine

/-- A WINFL names the line of a window copy: a byte of its range names it through a window page (06_memory_isa R186). -/
theorem State.mem_windows_flushRange (s : State) (va : Word) (n : Nat) (w : Nat × Nat × List Byte) :
    w ∈ (s.flushRange va n).windows ↔ w ∈ s.windows ∧ ¬ (w.1 % 16 = slotDie s.cur ∧ ∃ i pg, i < n ∧
      s.pageOf (s.party s.cur) (va + BitVec.ofNat 64 i) = some pg ∧ pg.rwin = true ∧
      s.canon (pg.ga (va + BitVec.ofNat 64 i).toNat) / 64 = w.2.1) := by
  simp only [State.flushRange, List.mem_filter, Bool.not_eq_true', Bool.and_eq_false_iff, not_and_or]
  refine and_congr_right fun _ => or_congr (by simp) ?_
  simp only [List.any_eq_false, List.mem_range, Option.any_eq_true, Bool.and_eq_true, decide_eq_true_eq, not_exists, not_and]
  exact ⟨fun h i pg hi => h i hi pg, fun h i hi pg => h i pg hi⟩

end Sys2Proof.Machine

open Sys2Proof Sys2Proof.Machine

/-- Settles O22: each of the four instructions by the branch of its definition. -/
theorem timeWindowsAndCounters : Obligations.TimeWindowsAndCounters := by
  unfold Obligations.TimeWindowsAndCounters
  refine ⟨fun f s => ?_, fun f s => ?_, fun f s => ?_, fun f s => ?_⟩
  · refine ⟨_, rfl, rfl, fun h n => State.hart_withMe_other _ _ n, State.me_withMe _ _, fun w => ?_⟩
    exact State.mem_windows_flushRange s _ _ w
  · exact writes_result s f.d (s.me.ctr f.ctr.toNat).retired
  · split
    next settled =>
      refine ⟨_, congrArg Host.Outcome.next (if_pos settled), onlyMe_withMe _ _, ?_, fun n => ?_⟩ <;> rw [State.me_withMe]
      · rfl
      · exact Hart.ctr_setCtr _ _ _ _
    next busy => exact ⟨_, congrArg Host.Outcome.next (if_neg busy), onlyMe_park _ _ _, State.me_park _ _ _, State.instr_park _ _ _⟩
  · have closed : (s.withMe Hart.closeConvoy).me.drained = s.me.drained := by rw [State.me_closeConvoy]; rfl
    split
    next idle =>
      refine ⟨_, congrArg Host.Outcome.next (if_pos (closed.trans idle)), rfl, fun h n => ?_, ?_, rfl, ?_⟩
      · exact (State.hart_withMe_other (s.withMe Hart.closeConvoy).tickTime _ n).trans (State.hart_withMe_other s _ n)
      · rw [State.me_withMe, Hart.result_eq, show (s.withMe Hart.closeConvoy).tickTime.me = s.me.closeConvoy from
          State.me_closeConvoy s]
        rfl
      · rw [State.me_withMe, show (s.withMe Hart.closeConvoy).tickTime.me = s.me.closeConvoy from State.me_closeConvoy s]
        exact fun r => Hart.xr_result s.me.closeConvoy _ r _
    next busy =>
      refine ⟨_, congrArg Host.Outcome.next (if_neg (closed ▸ busy)), rfl, fun h n => ?_, ?_, State.instr_park _ _ _⟩
      · exact (State.hart_park_other (s.withMe Hart.closeConvoy) _ _ n).trans (State.hart_withMe_other _ _ n)
      · rw [State.me_park, State.me_closeConvoy]
        rfl
end

section
/-!
SUPPORT. A counterexample to the statement on vector atomics (06_memory_isa R173; 18_fabric R331): the entries in use are counted over
the list of harts, which a write to a hart can lengthen where its keys do not rise.
-/

namespace Sys2Proof.Machine

/-- A package whose list of harts has hart 5 before hart 3, the executing one, which owns a cluster, has an empty share in its length
register and an operation outstanding that holds all entries of its die's merge buffer. -/
def unsortedHarts : State := { State.reset with
  cur := 3
  prompt := true
  harts := [(5, Hart.free), (3, { Hart.free with
    map := 1
    x := [(28, 0x200000000)]
    nb := [⟨1, 1, [], [], 0, false, [], [], [], false, mergeEntries⟩] })] }
/-- An atomic of no elements. -/
def emptyAtomic : VAmoOps := ⟨0, 8, 10, 4, 0, 0, 0, 0⟩

theorem runs_emptyAtomic : Runs unsortedHarts (wordOf (.vamoaAdd emptyAtomic)) :=
  ⟨rfl, by decide, rfl, rfl, .inl rfl, by decide, rfl, rfl, by decide, by decide⟩
theorem hasLength_emptyAtomic : HasLength unsortedHarts 0 0 2 := ⟨rfl, by decide⟩
theorem mergeUsed_unsortedHarts : unsortedHarts.mergeUsed (slotDie 3) = mergeEntries := by decide +kernel
/-- The write of the hart at its enqueue puts it into the list a second time, so that the atomic counts twice what the hart holds. -/
theorem waits_emptyAtomic : (unsortedHarts.enqueue (vamoaAddQueued emptyAtomic)).me.drained = false := by decide +kernel

end Sys2Proof.Machine

open Sys2Proof Sys2Proof.Machine

/-- Refutes O33: the statement ranges over every list of harts. Where its keys do not rise, the hart's own update at its enqueue lists
it twice (an invariant that the statement does not assume excludes this), the merge buffer then counts what it holds twice, and
the atomic waits although the entries in use before it leave room. -/
theorem not_vectorAtomicsUpdateInOrder : ¬ Obligations.VectorAtomicsUpdateInOrder := by
  unfold Obligations.VectorAtomicsUpdateInOrder
  intro claim
  obtain ⟨-, room⟩ := claim _ List.mem_cons_self emptyAtomic unsortedHarts 0 2 _ [] _ (by decide) rfl (by decide +kernel)
    runs_emptyAtomic hasLength_emptyAtomic
  obtain ⟨t, run, -, -, -, -, -, -, -, -, drained, -⟩ := (room rfl (by simp [PlainElems]) (by simp [Ready])).2
    (Nat.le_of_eq mergeUsed_unsortedHarts) rfl
  obtain rfl : unsortedHarts.enqueue (vamoaAddQueued emptyAtomic) = t := Host.Outcome.next.inj run
  exact absurd (drained rfl) (by rw [waits_emptyAtomic]; decide)
end

section
/-!
SUPPORT. Waits (06_memory_isa R180-R184, R392): how a wait ends or goes on, the checks of the word that one watches, and the word of
another device.
-/

namespace Sys2Proof.Machine

/-! ### How a wait ends or goes on (R180) -/

/-- A wait goes on at its own address with the deadline that it read first. -/
def WaitsOn (o : Out) (s : State) (i : Instr) : Prop :=
  ∃ t, o = .next t ∧ t.me.pc = s.me.pc ∧ t.me.x = s.me.x ∧ t.mem = s.mem ∧
    (t.me.wait.map fun w => (w.instr, w.deadline)) = some (i, s.me.waitDeadline)

section
variable {s : State} {i : Instr} {d : BitVec 5} {seen : Option Word}

theorem State.me_park_closed (s : State) (i : Instr) (seen : Option Word) :
    ((s.park i seen).withMe Hart.closeConvoy).me = (s.me.waitsAt i seen s.fresh).closeConvoy := by
  rw [State.me_closeConvoy, State.me, State.hart_park, if_pos (State.cur_park s i seen)]
theorem waitsOn_park (s : State) (i : Instr) (seen : Option Word) : WaitsOn (.next ((s.park i seen).withMe Hart.closeConvoy)) s i := by
  refine ⟨_, rfl, ?_, ?_, rfl, ?_⟩ <;> rw [State.me_park_closed] <;> rfl
theorem ends_waitFor_expired (late : s.expired = true) : Ends (.next (s.waitFor i d none seen)) s d 1 := by
  rw [State.waitFor, if_pos late]
  exact ends_waitEnds s d 1
theorem waitsOn_waitFor (early : s.expired = false) : WaitsOn (.next (s.waitFor i d none seen)) s i := by
  rw [State.waitFor, if_neg (by simp [early])]
  exact waitsOn_park s i seen
theorem State.not_expired_iff (s : State) : s.expired = false ↔
    s.me.waitDeadline = 0 ∨ (s.die (slotDie s.cur)).ptime.toNat < s.me.waitDeadline.toNat := by
  rw [← Bool.not_eq_true, State.expired_iff, not_and_or, not_not, Nat.not_le]
end

/-! ### Counters and contexts (R181, R182) -/

theorem exec_waitc (f : WaitcOps) (s : State) : exec (.waitc f) s = .next (s.waitFor (.waitc f) f.d
    (if (s.me.xr f.a).toNat ≤ (s.me.ctr f.ctr.toNat).retired.toNat then some 0 else none) none) := by
  show execWaitc f s = _
  simp only [execWaitc, BitVec.ule_eq_decide, decide_eq_true_eq]

/-- The command number that a WAITT names: rs1 without its highest bit. -/
theorem clear_high (v : Word) : v &&& ~~~(1#64 <<< 63) = (v.extractLsb' 0 63).setWidth 64 := by
  apply BitVec.eq_of_getLsbD_eq
  intro i hi
  have high : (1#64 <<< 63).getLsbD i = decide (i = 63) := by
    show (BitVec.twoPow 64 63).getLsbD i = _
    rw [BitVec.getLsbD_twoPow, decide_eq_true (show 63 < 64 by decide), Bool.true_and]
    exact decide_eq_decide.mpr eq_comm
  rw [BitVec.getLsbD_and, BitVec.getLsbD_not, high, BitVec.getLsbD_setWidth, BitVec.getLsbD_extractLsb']
  by_cases h : i = 63
  · simp [h]
  · simp [hi, show i < 63 by omega, h]
theorem toNat_clear_high (v : Word) : ((v.extractLsb' 0 63).setWidth 64 : Word).toNat = v.toNat % 2 ^ 63 := by
  have := Nat.mod_lt v.toNat (show 0 < 2 ^ 63 by decide)
  rw [BitVec.toNat_setWidth, BitVec.extractLsb'_toNat, Nat.shiftRight_zero]
  omega

/-- A WAITT by its slot's context: none, one that has completed the command, and one that has not. -/
theorem exec_waitt (f : RrSlot) (s : State) {k : Nat} {n : Word} {c : CtxSlot}
    (slot : k = f.slot.toNat + (if (s.me.xr f.a).getLsbD 63 then 8 else 0))
    (number : n = ((s.me.xr f.a).extractLsb' 0 63).setWidth 64) (ctx : c = s.me.ctxSlot k) :
    exec (.waitt f) s = .next (if c.bound = false then
        if n = 0 then s.waitEnds f.d 0 else s.raise causeEngctx (tvalWord (wordOf (.waitt f)))
      else if n.toNat ≤ c.completed.toNat then (s.acquireStatuses k n).waitEnds f.d 0
      else s.waitFor (.waitt f) f.d (if c.faulted then some 2 else none) none) := by
  subst slot ctx
  show execWaitt f s = _
  rw [execWaitt, clear_high, ← number]
  simp only [Bool.not_eq_true', BitVec.ule_eq_decide, decide_eq_true_eq]

theorem State.acquireStatuses_eq (s : State) (k : Nat) (n : Word) : s.acquireStatuses k n =
    { s with harts := (s.acquireStatuses k n).harts, ctxs := (s.acquireStatuses k n).ctxs } := by
  unfold State.acquireStatuses
  dsimp only
  split <;> rfl
theorem State.acquired_of (s : State) (k : Nat) (n : Word) : ∃ u : State, u.harts = s.harts ∧ u.cur = s.cur ∧
    s.acquireStatuses k n = u.withMe (fun t => t.setCsr 0x012 (((s.ctx (s.me.ctxSlot k).key).statuses.filter fun e =>
      e.1.ule n).foldl (fun w e => w ||| e.2.setWidth 64) (t.csrv 0x012))) ∧
    u.ctx (s.me.ctxSlot k).key = { s.ctx (s.me.ctxSlot k).key with
      statuses := (s.ctx (s.me.ctxSlot k).key).statuses.filter fun e => !e.1.ule n } ∧
    ∀ j, j ≠ (s.me.ctxSlot k).key → u.ctx j = s.ctx j := by
  unfold State.acquireStatuses
  dsimp only
  split
  next none =>
    refine ⟨s, rfl, rfl, rfl, ?_, fun _ _ => rfl⟩
    have kept : (s.ctx (s.me.ctxSlot k).key).statuses.filter (fun e => !e.1.ule n) = (s.ctx (s.me.ctxSlot k).key).statuses := by
      rw [List.isEmpty_iff, List.filter_eq_nil_iff] at none
      exact List.filter_eq_self.mpr fun e h => by simpa using none e h
    rw [kept]
  next some =>
    exact ⟨s.setCtx _ _, rfl, rfl, rfl, (State.ctx_setCtx ..).trans (if_pos rfl), fun j h => (State.ctx_setCtx ..).trans (if_neg h)⟩

/-! ### The word that a wait watches (R183, R184, R392) -/

section
variable {s : State} {va : Word} {n : Nat} {kind : Loc → Bool} {locs : List Loc}

theorem State.watched_refused {e : Stop} (refused : s.checkOnce .rd false va n = .error e) :
    s.watched va n kind = .error (s, e) := by rw [State.watched, refused]
theorem State.watched_kind {k : Nat} {l : Loc} (checked : s.checkOnce .rd false va n = .ok locs) (here : locs[k]? = some l)
    (other : kind l = false) (before : ∀ j m, j < k → locs[j]? = some m → kind m = true) :
    s.watched va n kind = .error (s, .trap causePerm (va + BitVec.ofNat 64 k)) := by
  have first : locs.findIdx? (fun l => !kind l) = some k := by
    obtain ⟨inside, here⟩ := List.getElem?_eq_some_iff.mp here
    rw [List.findIdx?_eq_some_iff_getElem]
    refine ⟨inside, by rw [here, other]; rfl, fun j h => ?_⟩
    rw [before j _ h (List.getElem?_eq_getElem (h.trans inside))]
    decide
  rw [State.watched, checked]
  dsimp only
  rw [first]
theorem State.watched_of_kind (checked : s.checkOnce .rd false va n = .ok locs) (fits : ∀ l ∈ locs, kind l = true) :
    s.watched va n kind = if va.toNat % n ≠ 0 then .error (s, .trap causeAlign va) else
      match s.eccByte va locs with
      | some v => .error (s.logError (errorUnit (locs.headD ⟨0, false⟩).ga) s.cur, .trap causeEcc v)
      | none => .ok locs := by
  rw [State.watched, checked]
  dsimp only
  rw [List.findIdx?_eq_none_iff.mpr fun l h => by rw [fits l h]; rfl] <;> rfl
theorem State.watched_unaligned (checked : s.checkOnce .rd false va n = .ok locs) (fits : ∀ l ∈ locs, kind l = true)
    (odd : va.toNat % n ≠ 0) : s.watched va n kind = .error (s, .trap causeAlign va) := by
  rw [State.watched_of_kind checked fits, if_pos odd]
theorem State.watched_ok (checked : s.checkOnce .rd false va n = .ok locs) (fits : ∀ l ∈ locs, kind l = true)
    (aligned : va.toNat % n = 0) (clean : ∀ l ∈ locs, s.poisoned l.ga = false) : s.watched va n kind = .ok locs := by
  rw [State.watched_of_kind checked fits, if_neg (by simp [aligned]), State.eccByte_of_clean clean]
theorem State.outOfReach_of_ready {gas : List Nat} (ready : ∀ a ∈ gas, s.mustWait a = false) : s.outOfReach gas = false :=
  List.any_eq_false.mpr fun a h => by simp [ready a h]
end

theorem forall_homeBytes {as : List Nat} {p : Loc → Prop} (h : ∀ a ∈ as, p ⟨a, false⟩) : ∀ l ∈ homeBytes as, p l :=
  List.forall_mem_map.mpr h

/-- A WAITG of a clasp word that passes its checks. -/
theorem exec_waitg {f : Rrr} {s : State} {as : List Nat} (free : Unhindered s)
    (checked : s.checkOnce .rd false (s.me.xr f.a) 16 = .ok (homeBytes as))
    (own : ∀ a ∈ as, s.inOwnSpad ⟨a, false⟩ = true ∧ s.poisoned a = false ∧ s.mustWait a = false)
    (aligned : (s.me.xr f.a).toNat % 16 = 0) :
    exec (.waitg f) s = .next (s.waitFor (.waitg f) f.d (claspStatus (s.readAt as) (s.me.xr f.b)) none) := by
  show execWaitg f s = _
  rw [execWaitg, State.inOrder_free free, State.watched_ok checked (forall_homeBytes fun a h => (own a h).1) aligned
    (forall_homeBytes fun a h => (own a h).2.1)]
  dsimp only
  rw [locGas_homeBytes, State.outOfReach_of_ready fun a h => (own a h).2.2]
  rfl

theorem exec_wordWait {p : (Rrr → Instr) × (Word → Word → Bool)} (isWait : p ∈ wordWaits) (f : Rrr) (s : State) :
    exec (p.1 f) s = .next (s.waitWord (p.1 f) f p.2) := by
  simp only [wordWaits, List.mem_cons, List.not_mem_nil, or_false] at isWait
  obtain rfl | rfl | rfl | rfl := isWait <;> rfl

section
variable {s : State} {i : Instr} {f : Rrr} {c : Word → Word → Bool}

/-- A WAITW of a word of this package or of the host. -/
theorem State.waitWord_near {as : List Nat} (free : Unhindered s)
    (checked : s.checkOnce .rd false (s.me.xr f.a) 8 = .ok (homeBytes as)) (aligned : (s.me.xr f.a).toNat % 8 = 0)
    (near : ∀ a ∈ as, (gaHost a = true ∨ gaKind a ≠ 3) ∧ s.poisoned a = false ∧ s.farDev a = none ∧ s.mustWait a = false) :
    s.waitWord i f c = s.waitFor i f.d (if c (BitVec.ofNat 64 (s.readAt as)) (s.me.xr f.b) ||
      (s.me.wait.bind (·.seen)).any (c · (s.me.xr f.b)) then some 0 else none) none := by
  have memory : ∀ l ∈ homeBytes as, (!l.isReg) = true := forall_homeBytes fun a h => by
    rw [(isReg_eq_false (l := ⟨a, false⟩)).mpr (near a h).1]; rfl
  have home : ∀ l ∈ homeBytes as, (s.farDev l.ga).isNone = true := forall_homeBytes fun a h => by
    rw [(near a h).2.2.1]; rfl
  rw [State.waitWord, State.inOrder_free free, State.watched_ok checked memory aligned
    (forall_homeBytes fun a h => (near a h).2.1)]
  dsimp only
  rw [if_pos (List.all_eq_true.mpr home), locGas_homeBytes, State.outOfReach_of_ready fun a h => (near a h).2.2.2]
  rfl

/-! ### A word of another device -/

/-- The request that a READ of n bytes for an owner begins. -/
def State.askFor (s : State) (own ga n : Nat) : Ask := ⟨own, s.newTag.2, gaChip ga, ga, n, false, false, none⟩
/-- A request for bytes that nothing has been asked of: one READ is sent. -/
theorem State.gather_asks_for {own ga n : Nat} {gas : List Nat} (owner : own ≠ 3) (run : s.farRuns gas = [(ga, n)])
    (none : s.me.asks = []) (idle : s.me.tracked = []) (up : s.peerFailed (gaChip ga) = false) :
    ∃ u, State.Ships s.cur (gaChip ga) (gaDie ga % 10) false (s.readRecord ga n) s.newTag.1 u ∧
      s.gather s.cur own gas = (u.setHart s.cur { u.hart s.cur with asks := [s.askFor own ga n] }, false) := by
  have ships : State.Ships s.cur (gaChip ga) (gaDie ga % 10) false (s.readRecord ga n) s.newTag.1
      (s.newTag.1.sendTracked s.cur (gaChip ga) false (s.readRecord ga n)) :=
    State.ships_sendTracked idle (congrArg (· % 10) (gaDie_ofNat ga))
  refine ⟨_, ships, ?_⟩
  have asked : s.sendAsk s.cur own ga n .none =
      (s.newTag.1.sendTracked s.cur (gaChip ga) false (s.readRecord ga n), s.askFor own ga n) := by
    have failed := (ships.failed (gaChip ga)).trans up
    rw [State.readRecord] at failed
    simpa [State.sendAsk, State.askFor, State.readRecord, owner] using failed
  have asks : ((s.newTag.1.sendTracked s.cur (gaChip ga) false (s.readRecord ga n)).hart s.cur).asks = [] := by
    rw [ships.own]; exact none
  have none : (s.hart s.cur).asks = [] := none
  simp [State.gather, run, asked, none, askOf, asks, State.askFor, Ask.settled]
theorem State.gather_settled {own ga n dev : Nat} {gas : List Nat} {tag : BitVec 32} {failed : Bool} {ans : Option (List Byte)}
    (run : s.farRuns gas = [(ga, n)]) (asked : s.me.asks = [⟨own, tag, dev, ga, n, false, failed, ans⟩])
    (settled : (failed || ans.isSome) = true) : s.gather s.cur own gas = (s, true) := by
  have asked : (s.hart s.cur).asks = _ := asked
  simp [State.gather, run, asked, askOf, Ask.settled, settled]
/-- The bytes that an answered request gives. -/
theorem bytes_answered {own ga n dev : Nat} {tag : BitVec 32} {bs : List Byte} (len : bs.length = n) :
    (gaRange ga n).map (fun a => (askByte [⟨own, tag, dev, ga, n, false, false, some bs⟩] a).getD 0) = bs := by
  refine List.ext_getElem (by simp [gaRange, len]) fun i h h' => ?_
  have here : (gaRange ga n)[i]'(by simpa using h) = ga + i := by simp [gaRange]
  have inside : i < n := len ▸ h'
  rw [List.getElem_map, here]
  simp [askByte, inside, List.getElem?_eq_getElem h']

variable {ga dev : Nat}
/-- A WAITW of a word of another device, by what its request comes to. -/
theorem State.waitWord_far (free : Unhindered s)
    (checked : s.checkOnce .rd false (s.me.xr f.a) 8 = .ok (homeBytes (gaRange ga 8))) (aligned : (s.me.xr f.a).toNat % 8 = 0)
    (far : ∀ a ∈ gaRange ga 8, gaKind a ≠ 3 ∧ s.poisoned a = false ∧ s.farDev a = some dev) {u : State} {answered : Bool}
    (asked : s.gather s.cur 4 (gaRange ga 8) = (u, answered)) :
    s.waitWord i f c = if (!answered && !((s.me.wait.bind (·.seen)).isSome && s.expired)) = true then
        (u.park i (s.me.wait.bind (·.seen))).withMe Hart.closeConvoy
      else (s.withMe fun t => t.dropAsks 4).waitFor i f.d
        (if answered && (askFailed s.me.asks (gaRange ga 8)).isNone &&
          c (BitVec.ofNat 64 (bytesNat ((gaRange ga 8).map fun a => (askByte s.me.asks a).getD 0))) (s.me.xr f.b) then some 0
          else none)
        (some (BitVec.ofNat 64 (bytesNat ((gaRange ga 8).map fun a => (askByte s.me.asks a).getD 0)))) := by
  have memory : ∀ l ∈ homeBytes (gaRange ga 8), (!l.isReg) = true := forall_homeBytes fun a h => by
    rw [(isReg_eq_false (l := ⟨a, false⟩)).mpr (.inr (far a h).1)]; rfl
  have away : ((homeBytes (gaRange ga 8)).all fun l => (s.farDev l.ga).isNone) = false := by
    refine List.all_eq_false.mpr ⟨⟨ga, false⟩, List.mem_map.mpr ⟨ga, by simp [mem_gaRange], rfl⟩, ?_⟩
    rw [(far ga (by simp [mem_gaRange])).2.2]
    exact Bool.false_ne_true
  have bytes : ((homeBytes (gaRange ga 8)).map fun l => (askByte s.me.asks l.ga).getD 0) =
      (gaRange ga 8).map fun a => (askByte s.me.asks a).getD 0 := by
    rw [homeBytes, List.map_map]; rfl
  rw [State.waitWord, State.inOrder_free free, State.watched_ok checked memory aligned
    (forall_homeBytes fun a h => (far a h).2.1)]
  dsimp only
  rw [if_neg (by simp [away]), locGas_homeBytes, asked, bytes]

theorem Sent.of_newTag {t : State} {dev die : Nat} {r : Record} (sent : Sent s.newTag.1 t dev die r) : Sent s t dev die r := sent
end

/-- A WAITG or WAITW with the size of its word and the kind of memory that it may lie in. -/
def Watches (s : State) (i : Instr) (f : Rrr) (n : Nat) (kind : Loc → Bool) : Prop :=
  i = .waitg f ∧ n = 16 ∧ kind = s.inOwnSpad ∨ (∃ p ∈ wordWaits, i = p.1 f) ∧ n = 8 ∧ kind = fun l => !l.isReg
/-- A check of the word that fails is the instruction's trap. -/
theorem traps_of_watched {s : State} {i : Instr} {f : Rrr} {n : Nat} {kind : Loc → Bool} (watch : Watches s i f n kind)
    (free : Unhindered s) {c : Byte} {v : Word} (refused : s.watched (s.me.xr f.a) n kind = .error (s, .trap c v)) :
    Traps (exec i s) s c v := by
  obtain ⟨rfl, rfl, rfl⟩ | ⟨⟨p, isWait, rfl⟩, rfl, rfl⟩ := watch
  · show Traps (execWaitg f s) s c v
    rw [execWaitg, State.inOrder_free free, refused]
    exact traps_raise s c v
  · rw [exec_wordWait isWait, State.waitWord, State.inOrder_free free, refused]
    exact traps_raise s c v

/-- The clauses of R392 for the word of a WAITG or WAITW. -/
theorem watched_traps {s : State} {i : Instr} {f : Rrr} {n : Nat} {kind : Loc → Bool} {fits : Nat → Bool}
    (watch : Watches s i f n kind) (same : ∀ a, kind ⟨a, false⟩ = fits a) (free : Unhindered s) :
    (∀ c v, s.checkOnce .rd false (s.me.xr f.a) n = .error (.trap c v) → Traps (exec i s) s c v) ∧
    ∀ as : List Nat, s.checkOnce .rd false (s.me.xr f.a) n = .ok (homeBytes as) →
      (∀ k a, as[k]? = some a → fits a = false → (∀ j b, j < k → as[j]? = some b → fits b = true) →
        Traps (exec i s) s 0x09 (s.me.xr f.a + BitVec.ofNat 64 k)) ∧
      ((∀ a ∈ as, fits a = true) → (s.me.xr f.a).toNat % n ≠ 0 → Traps (exec i s) s 0x06 (s.me.xr f.a)) := by
  refine ⟨fun c v refused => traps_of_watched watch free (State.watched_refused refused), fun as checked => ⟨?_, ?_⟩⟩
  · intro k a here other before
    refine traps_of_watched watch free (State.watched_kind checked (l := ⟨a, false⟩) ?_ ((same a).trans other) fun j m lt at_j => ?_)
    · rw [homeBytes, List.getElem?_map, here]; rfl
    · rw [homeBytes, List.getElem?_map, Option.map_eq_some_iff] at at_j
      obtain ⟨b, at_j, rfl⟩ := at_j
      exact (same b).trans (before j b lt at_j)
  · intro all odd
    exact traps_of_watched watch free (State.watched_unaligned checked (forall_homeBytes fun a h => (same a).trans (all a h)) odd)

theorem State.frame_withMe {s a : State} (frame : a = { s with harts := a.harts, ctxs := a.ctxs }) (g : Hart → Hart) :
    a.withMe g = { s with harts := (a.withMe g).harts, ctxs := (a.withMe g).ctxs } := by
  rw [frame]
  rfl
/-- A WAITT whose command is complete acquires the statuses and ends. -/
theorem waitt_completes (s : State) (k : Nat) (n : Word) (d : BitVec 5) (c : CtxSlot) (ctx : c = s.me.ctxSlot k) :
    ∃ t, Host.Outcome.next ((s.acquireStatuses k n).waitEnds d 0) = (.next t : Out) ∧
      t = { s with harts := t.harts, ctxs := t.ctxs } ∧ (∀ h, h ≠ s.cur → t.hart h = s.hart h) ∧
      t.me = { s.me with x := t.me.x, csr := t.me.csr, pc := s.me.pc + 4, wait := none, convoyOpen := false } ∧
      RegSet s.me t.me d 0 ∧ CsrsKept s.me t.me [0x012] ∧
      t.me.csrv 0x012 = (((s.ctx c.key).statuses.filter fun e => e.1.ule n).foldl (fun w e => w ||| e.2.setWidth 64)
        (s.me.csrv 0x012)) ∧
      t.ctx c.key = { s.ctx c.key with statuses := (s.ctx c.key).statuses.filter fun e => !e.1.ule n } ∧
      ∀ j, j ≠ c.key → t.ctx j = s.ctx j := by
  subst ctx
  have frame := s.acquireStatuses_eq k n
  obtain ⟨u, harts, cur, eq, own, others⟩ := s.acquired_of k n
  have hart (h : Nat) : u.hart h = s.hart h := by rw [State.hart, harts]; rfl
  have me : u.me = s.me := by rw [State.me, hart, cur]; rfl
  rw [eq] at frame ⊢
  refine ⟨_, rfl, State.frame_withMe frame _, fun h other => ?_, ?_, ?_, ?_, ?_, own, others⟩
  · rw [State.waitEnds, State.hart_withMe_other _ _ (by rw [State.cur_withMe, cur]; exact other),
      State.hart_withMe_other _ _ (by rw [cur]; exact other), hart]
  all_goals rw [State.waitEnds, State.me_withMe, State.me_withMe, me]
  · rw [Hart.result_eq]; rfl
  · exact fun r => Hart.xr_result _ d r 0
  · intro m other
    rw [Hart.csrv_result]
    exact (Hart.csrv_setCsr ..).trans (if_neg (by simpa using other))
  · rw [Hart.csrv_result]
    exact (Hart.csrv_setCsr ..).trans (if_pos rfl)

/-- A far word that is asked for: one READ is sent, and the wait goes on. -/
theorem waitWord_sends {s : State} {i : Instr} {f : Rrr} {c : Word → Word → Bool} {ga dev : Nat} (free : Unhindered s)
    (checked : s.checkOnce .rd false (s.me.xr f.a) 8 = .ok (homeBytes (gaRange ga 8))) (aligned : (s.me.xr f.a).toNat % 8 = 0)
    (far : ∀ a ∈ gaRange ga 8, gaKind a ≠ 3 ∧ s.poisoned a = false ∧ s.farDev a = some dev) (up : s.peerFailed dev = false)
    (run : s.farRuns (gaRange ga 8) = [(ga, 8)]) (none : s.me.asks = []) (idle : s.me.tracked = [])
    (untested : s.me.wait.bind (·.seen) = .none ∨ s.expired = false) :
    ∃ (t : State) (r : Record), Host.Outcome.next (s.waitWord i f c) = (.next t : Out) ∧ t.mem = s.mem ∧
      (∀ h, h ≠ s.cur → t.hart h = s.hart h) ∧ t.me.pc = s.me.pc ∧ t.me.x = s.me.x ∧
      Sent s t dev (gaDie ga % 10) r ∧ r.op = 0x01 ∧ r.addr = BitVec.ofNat 64 ga ∧ r.len = 8 := by
  obtain rfl : gaChip ga = dev := (State.farDev_eq_some.mp (far ga (by simp [mem_gaRange])).2.2).2.2
  obtain ⟨u, ships, asked⟩ := State.gather_asks_for (own := 4) (by decide) run none idle up
  have goes : (!false && !((s.me.wait.bind (·.seen)).isSome && s.expired)) = true := by
    obtain h | h := untested <;> simp [h]
  have cur : u.cur = s.cur := ships.cur
  generalize asks : [s.askFor 4 ga 8] = as at asked
  have me : (u.setHart s.cur { u.hart s.cur with asks := as }).me = { u.hart s.cur with asks := as } := by
    rw [State.me, State.setHart_cur, cur, State.hart_setHart_same]
  rw [State.waitWord_far free checked aligned far asked, if_pos goes]
  refine ⟨_, s.readRecord ga 8, rfl, ?_, fun h other => ?_, ?_, ?_, ?_, rfl, rfl, rfl⟩
  · show u.mem = s.mem
    rw [ships.frame]
    rfl
  · rw [State.hart_withMe_other _ _ (by rw [State.cur_park, State.setHart_cur, cur]; exact other),
      State.hart_park_other _ _ _ (by rw [State.setHart_cur, cur]; exact other), State.hart_setHart, if_neg other]
    exact ships.others h other
  · rw [State.me_park_closed, me, ships.own]; rfl
  · rw [State.me_park_closed, me, ships.own]; rfl
  · exact ships.sent

/-- A far word that has been answered decides its wait. -/
theorem waitWord_answered {s : State} {i : Instr} {f : Rrr} {c : Word → Word → Bool} {ga dev : Nat} (free : Unhindered s)
    (checked : s.checkOnce .rd false (s.me.xr f.a) 8 = .ok (homeBytes (gaRange ga 8))) (aligned : (s.me.xr f.a).toNat % 8 = 0)
    (far : ∀ a ∈ gaRange ga 8, gaKind a ≠ 3 ∧ s.poisoned a = false ∧ s.farDev a = some dev)
    (run : s.farRuns (gaRange ga 8) = [(ga, 8)]) {tag : BitVec 32} {bs : List Byte} (len : bs.length = 8)
    (asked : s.me.asks = [⟨4, tag, dev, ga, 8, false, false, some bs⟩])
    (decided : c (BitVec.ofNat 64 (bytesNat bs)) (s.me.xr f.b) = true ∨ s.expired = true) :
    ∃ t, Host.Outcome.next (s.waitWord i f c) = (.next t : Out) ∧ OnlyMe s t ∧
      RegSet s.me t.me f.d (if c (BitVec.ofNat 64 (bytesNat bs)) (s.me.xr f.b) = true then 0 else 1) ∧
      t.me = { s.me with x := t.me.x, pc := s.me.pc + 4, wait := none, convoyOpen := false, asks := [] } := by
  have dropped : (s.withMe fun t => t.dropAsks 4).me = { s.me with asks := [] } := by
    rw [State.me_withMe, Hart.dropAsks, asked]
    rfl
  have late : (s.withMe fun t => t.dropAsks 4).expired = s.expired := by
    rw [State.expired, dropped]; rfl
  have failed : askFailed s.me.asks (gaRange ga 8) = none := by rw [asked]; simp [askFailed]
  have ended : s.waitWord i f c = (s.withMe fun t => t.dropAsks 4).waitEnds f.d
      (if c (BitVec.ofNat 64 (bytesNat bs)) (s.me.xr f.b) = true then 0 else 1) := by
    rw [State.waitWord_far free checked aligned far (State.gather_settled run asked rfl), if_neg (by simp), failed, asked,
      bytes_answered len]
    by_cases met : c (BitVec.ofNat 64 (bytesNat bs)) (s.me.xr f.b) = true
    · simp [met, State.waitFor]
    · simp only [met, Option.isNone_none, Bool.and_true, Bool.and_false, Bool.false_eq_true, if_false, State.waitFor, late,
        decided.resolve_left met, if_true]
  obtain ⟨t, run, only, me, reg⟩ := ends_waitEnds (s.withMe fun t => t.dropAsks 4) f.d
    (if c (BitVec.ofNat 64 (bytesNat bs)) (s.me.xr f.b) = true then 0 else 1)
  rw [dropped] at me reg
  exact ⟨t, ended ▸ run, (onlyMe_withMe s _).trans only, reg, me⟩

/-- A WAITG or WAITW that fails its condition, in the form that its deadline decides. -/
theorem ends_or_waitsOn {s : State} {i : Instr} {d : BitVec 5} (run : exec i s = .next (s.waitFor i d none none)) :
    ((s.me.waitDeadline ≠ 0 ∧ s.me.waitDeadline.toNat ≤ (s.die (slotDie s.cur)).ptime.toNat) → Ends (exec i s) s d 1) ∧
    ((s.me.waitDeadline = 0 ∨ (s.die (slotDie s.cur)).ptime.toNat < s.me.waitDeadline.toNat) → WaitsOn (exec i s) s i) := by
  rw [run]
  exact ⟨fun late => ends_waitFor_expired (s.expired_iff.mpr late), fun early => waitsOn_waitFor (s.not_expired_iff.mpr early)⟩

end Sys2Proof.Machine

open Sys2Proof Sys2Proof.Machine

/-- Settles O21: every wait comes to `waitFor` with the status that its condition gives. -/
theorem waitsEndWhenTheirConditionHolds : Obligations.WaitsEndWhenTheirConditionHolds := by
  unfold Obligations.WaitsEndWhenTheirConditionHolds
  refine ⟨fun f s reached => ?_, fun f s k n c slot number ctx => ?_, fun f s as free checked own aligned => ?_,
    fun p isWait f s free aligned => ⟨fun as checked near met => ?_, fun ga dev checked far up run => ?_⟩,
    fun i f s n fits free watch => ?_, fun i d s unmet => ?_⟩
  · rw [exec_waitc, if_pos reached]
    exact ends_waitEnds s f.d 0
  · have run := exec_waitt f s slot number ctx
    refine ⟨fun unbound => ?_, fun bound before faulted => ?_, fun bound reached => ?_⟩
    · rw [run, if_pos unbound]
      split
      · exact ends_waitEnds s f.d 0
      · exact traps_raise s _ _
    · rw [run, if_neg (by simp [bound]), if_neg (Nat.not_le.mpr before), if_pos faulted]
      exact ends_waitEnds s f.d 2
    · rw [run, if_neg (by simp [bound]), if_pos reached]
      exact waitt_completes s k n f.d c ctx
  · rw [exec_waitg free checked own aligned, claspStatus]
    refine ⟨fun err => ?_, fun fine reached => ?_⟩
    · rw [if_pos err]
      exact ends_waitEnds s f.d 2
    · rw [if_neg (by simp [fine]), if_pos reached]
      exact ends_waitEnds s f.d 0
  · have holds : (p.2 (BitVec.ofNat 64 (s.readAt as)) (s.me.xr f.b) ||
        (s.me.wait.bind (·.seen)).any (p.2 · (s.me.xr f.b))) = true := by
      obtain now | ⟨w, v, waits, saw, then_⟩ := met
      · rw [now, Bool.true_or]
      · rw [waits, Option.bind_some, saw, Option.any_some, then_, Bool.or_true]
    rw [exec_wordWait isWait, State.waitWord_near free checked aligned near, if_pos holds]
    exact ends_waitEnds s f.d 0
  · rw [exec_wordWait isWait]
    exact ⟨fun none idle untested => waitWord_sends free checked aligned far up run none idle untested,
      fun tag bs len asked decided => waitWord_answered free checked aligned far run len asked decided⟩
  · obtain ⟨rfl, rfl, rfl⟩ | ⟨isWait, rfl, rfl⟩ := watch
    · exact watched_traps (.inl ⟨rfl, rfl, rfl⟩) (fun _ => rfl) free
    · exact watched_traps (.inr ⟨isWait, rfl, rfl⟩) (fun a => by simp [Loc.isReg]) free
  · obtain ⟨f, rfl, rfl, before⟩ | ⟨f, c, rfl, rfl, ctx, bound, sound, before⟩ | ⟨f, as, rfl, rfl, free, aligned, checked, own, fine, before⟩ |
      ⟨f, as, rfl, free, aligned, unseen, checked, near, p, isWait, rfl, fails⟩ := unmet
    · exact ends_or_waitsOn (by rw [exec_waitc, if_neg (Nat.not_le.mpr before)])
    · refine ends_or_waitsOn ?_
      rw [exec_waitt f s rfl rfl ctx, if_neg (by simp [bound]), if_neg (by rw [toNat_clear_high]; exact Nat.not_le.mpr before),
        if_neg (by simp [sound])]
    · refine ends_or_waitsOn ?_
      rw [exec_waitg free checked own aligned, claspStatus, if_neg (by simp [fine]), if_neg (Int.not_le.mpr before)]
    · refine ends_or_waitsOn ?_
      rw [exec_wordWait isWait, State.waitWord_near free checked aligned near, unseen, fails]
      rfl
end

section
/-!
SUPPORT. Phases (06_memory_isa R177; 10_consistency R257; 15_io_dies R315): what performing stores leaves, and what a release seals.
-/

namespace Sys2Proof.Machine

/-! ### Stores performed at homes of this package -/

/-- Bytes have been written and homes have looked at them: memory and what waits have seen may differ. -/
structure State.Performs (s t : State) : Prop where
  frame : t = { s with mem := t.mem, harts := t.harts }
  hart : ∀ k, t.hart k = { s.hart k with wait := (t.hart k).wait }

section
variable {s t u : State}

theorem State.Performs.refl (s : State) : s.Performs s := ⟨rfl, fun _ => rfl⟩
theorem State.Performs.trans (a : s.Performs t) (b : t.Performs u) : s.Performs u where
  frame := by rw [b.frame, a.frame]
  hart k := by rw [b.hart k, a.hart k]
theorem State.Performs.foldl {α : Type} {f : State → α → State} (each : ∀ (s : State) a, s.Performs (f s a)) (l : List α)
    (s : State) : s.Performs (l.foldl f s) := by
  induction l generalizing s with
  | nil => exact .refl s
  | cons a l ih => exact (each s a).trans (ih _)
theorem State.Noticed.performs (n : s.Noticed t) : s.Performs t where
  frame := by rw [n.frame]
  hart := n.hart
theorem State.performs_writeByte (s : State) (a : Nat) (b : Byte) : s.Performs (s.writeByte a b) := ⟨rfl, fun _ => rfl⟩
theorem State.performs_performFrom (l : List PendByte) (s : State) (done : List Nat) : s.Performs (s.performFrom done l) := by
  induction l generalizing s done with
  | nil => exact .refl s
  | cons b l ih =>
    unfold State.performFrom
    split
    · exact ((s.noticed_noticeAll.performs).trans (State.performs_writeByte _ _ _)).trans (ih _ _)
    · exact (State.performs_writeByte s _ _).trans (ih _ _)
theorem State.performs_performBytes (s : State) (l : List PendByte) : s.Performs (s.performBytes l) :=
  State.performs_performFrom l s []
theorem State.Performs.cur (a : s.Performs t) : t.cur = s.cur := by rw [a.frame]

/-- Of a hart whose stores are flushed only its outstanding operations and what its wait has seen differ. -/
theorem State.own_flushStores (s : State) (h : Nat) : (s.flushStores h).hart h =
    { s.hart h with nb := ((s.flushStores h).hart h).nb, wait := ((s.flushStores h).hart h).wait } := by
  unfold State.flushStores
  dsimp only
  rw [State.hart_setHart_same, (s.performs_performBytes _).hart h]

/-! ### What a release seals -/

variable {h scope : Nat}

/-- A release with no seal and no flushing read due leaves the counts that its scope does not cover. -/
theorem State.sendSeals_none (near : ∀ e ∈ (s.hart h).unsealed, covers scope (slotDie h) e.1 = true → e.1 < 14)
    (none : ∀ e ∈ (s.hart h).inherited, covers scope (slotDie h) (e.1 / 2048) = false) :
    s.sendSeals h scope = s.setHart h { s.hart h with
      unsealed := (s.hart h).unsealed.filter fun e => !covers scope (slotDie h) e.1 } := by
  have few : ((s.hart h).unsealed.filter fun e => covers scope (slotDie h) e.1).filter (fun e => decide (16 ≤ e.1)) = [] :=
    List.filter_eq_nil_iff.mpr fun e isIn => by
      obtain ⟨isIn, due⟩ := List.mem_filter.mp isIn
      have := near e isIn due
      simp
      omega
  have links (d : Nat) (high : 14 ≤ d) :
      (((s.hart h).unsealed.filter fun e => covers scope (slotDie h) e.1).any fun e => decide (e.1 = d)) = false :=
    List.any_eq_false.mpr fun e isIn => by
      obtain ⟨isIn, due⟩ := List.mem_filter.mp isIn
      have := near e isIn due
      simp
      omega
  have old : ((s.hart h).inherited.filter fun e => covers scope (slotDie h) (e.1 / 2048)) = [] :=
    List.filter_eq_nil_iff.mpr fun e isIn => by simp [none e isIn]
  have kept : ((s.hart h).inherited.filter fun e => !covers scope (slotDie h) (e.1 / 2048)) = (s.hart h).inherited :=
    List.filter_eq_self.mpr fun e isIn => by simp [none e isIn]
  unfold State.sendSeals
  simp only [old, kept, Hart.owedSeals, few, List.map_nil, List.append_nil, List.foldl_nil,
    links 14 (by decide), links 15 (by decide), List.filter_cons, List.filter_nil, Bool.false_eq_true, if_false]
/-- The state in which a hart's stores are performed and the counts that a scope covers are sealed. -/
def State.sealed (s : State) (h scope : Nat) : State :=
  (s.flushStores h).setHart h { (s.flushStores h).hart h with
    unsealed := (s.hart h).unsealed.filter fun e => !covers scope (slotDie h) e.1 }
/-- A release that has nothing to send and nothing to wait for. -/
theorem State.release_quiet (near : ∀ e ∈ (s.hart h).unsealed, covers scope (slotDie h) e.1 = true → e.1 < 14)
    (none : ∀ e ∈ (s.hart h).inherited, covers scope (slotDie h) (e.1 / 2048) = false) (quiet : (s.hart h).sealing = [])
    (sent : ∀ x ∈ (s.hart h).tracked, x.sent = true) : s.release h scope = (s.sealed h scope, true) := by
  have own := s.own_flushStores h
  have tracked : ((s.flushStores h).hart h).tracked.any (fun x => !x.sent) = false := by
    rw [own]
    exact List.any_eq_false.mpr fun x isIn => by simp [sent x isIn]
  have unsealed : ((s.flushStores h).hart h).unsealed = (s.hart h).unsealed := by rw [own]
  have seals : (s.flushStores h).sendSeals h scope = s.sealed h scope := by
    rw [State.sendSeals_none (by rw [own]; exact near) (by rw [own]; exact none), State.sealed, unsealed]
  have sealing : ((s.sealed h scope).hart h).sealing = [] := by
    rw [State.sealed, State.hart_setHart_same, own]
    exact quiet
  unfold State.release
  dsimp only
  rw [if_neg (by simp [tracked]), seals]
  exact Prod.ext rfl (List.isEmpty_iff.mpr sealing)
theorem State.own_sealed : (s.sealed h scope).hart h = { s.hart h with
    nb := ((s.flushStores h).hart h).nb
    wait := ((s.flushStores h).hart h).wait
    unsealed := (s.hart h).unsealed.filter fun e => !covers scope (slotDie h) e.1 } := by
  rw [State.sealed, State.hart_setHart_same, s.own_flushStores h]
theorem State.other_sealed {k : Nat} (n : k ≠ h) : (s.sealed h scope).hart k =
    { s.hart k with wait := ((s.sealed h scope).hart k).wait } := by
  have other := (s.landed_flushStores h).other k n
  rwa [State.sealed, State.hart_setHart, if_neg n]

/-- The seal or flushing read of a release that covers everything, for one destination beyond the package. -/
structure State.Sealing (h c n : Nat) (tag : BitVec 32) (s t : State) : Prop where
  mem : t.mem = s.mem
  cur : t.cur = s.cur
  own : t.hart h = { s.hart h with
    unsealed := []
    inherited := []
    sealing := [(if c < 16 then 2 ^ 14 + (c - 6) else c - 16, tag)] }
  others : ∀ k, k ≠ h → t.hart k = s.hart k
  sent : 16 ≤ c → ∃ o : Outgoing, (t.conn (c - 16)).waiting = (s.conn (c - 16)).waiting ++ [o] ∧ o.rcd.op = 0x08 ∧
    o.rcd.tag = tag ∧ o.rcd.shart = BitVec.ofNat 11 h ∧ o.rcd.addr = BitVec.ofNat 64 (n % 2 ^ 32)

variable {c n : Nat}

/-- What a release that covers everything sends of one count. -/
theorem State.sendSeals_one (one : (s.hart h).unsealed = [(c, n)]) (none : (s.hart h).inherited = []) :
    s.sendSeals h 3 = ([14, 15].filter fun d => decide (c = d)).foldl (fun s d => State.sendFlush h s (d - 6))
      ((if 16 ≤ c then [(c - 16, h, n)] else []).foldl (State.sendSeal h)
        (s.setHart h { s.hart h with unsealed := [], inherited := [] })) := by
  have due : (([(c, n)].filter fun e => decide (16 ≤ e.1)).map fun e => (e.1 - 16, h, e.2)) =
      if 16 ≤ c then [(c - 16, h, n)] else [] := by
    by_cases high : 16 ≤ c <;> simp [high]
  unfold State.sendSeals
  simp only [one, none, covers, Hart.owedSeals, List.filter_true, List.filter_false, List.map_nil, List.append_nil, due,
    List.any_cons, List.any_nil, Bool.or_false, Bool.not_true, List.filter_nil]
theorem State.hart_sendFlush (link k : Nat) : (State.sendFlush h s link).hart k =
    if k = h then { s.hart h with sealing := (s.hart h).sealing ++ [(2 ^ 14 + link, s.newTag.2)] } else s.hart k :=
  State.hart_setHart ..
theorem State.sendSeal_up {x : Nat × Nat × Nat} (up : s.peerFailed x.1 = false) : State.sendSeal h s x =
    (s.newTag.1.setHart h { s.hart h with sealing := (s.hart h).sealing ++ [(x.1, s.newTag.2)] }).sendTo x.1 0 false
      (s.hart h).secure (s.sealRecord h x.2.1 s.newTag.2 x.2.2) := if_neg (by simp [up])
theorem State.hart_sendTo (dev die : Nat) (ord sec : Bool) (r : Record) (k : Nat) : (s.sendTo dev die ord sec r).hart k = s.hart k := by
  rw [State.sendTo_eq]; rfl
/-- A hart whose counts are taken to be sealed. -/
def Hart.counted (t : Hart) : Hart := { t with unsealed := [], inherited := [] }
theorem State.sealing_flush (one : (s.hart h).unsealed = [(c, n)]) (none : (s.hart h).inherited = [])
    (quiet : (s.hart h).sealing = []) (link : c = 14 ∨ c = 15) : ∃ tag, State.Sealing h c n tag s (s.sendSeals h 3) := by
  have sent : s.sendSeals h 3 = State.sendFlush h (s.setHart h (s.hart h).counted) (c - 6) := by
    rw [State.sendSeals_one one none]
    obtain rfl | rfl := link <;> rfl
  rw [sent]
  refine ⟨s.newTag.2, rfl, rfl, ?_, fun k other => ?_, fun high => by omega⟩
  · rw [State.hart_sendFlush, if_pos rfl, State.hart_setHart_same, Hart.counted, quiet, if_pos (by omega)]
    rfl
  · rw [State.hart_sendFlush, if_neg other, State.hart_setHart, if_neg other]
theorem State.sealing_device (one : (s.hart h).unsealed = [(c, n)]) (none : (s.hart h).inherited = [])
    (quiet : (s.hart h).sealing = []) (high : 16 ≤ c) (other : c ≠ 16 + s.chip) (up : s.peerFailed (c - 16) = false) :
    ∃ tag, State.Sealing h c n tag s (s.sendSeals h 3) := by
  have sent : s.sendSeals h 3 = State.sendSeal h (s.setHart h (s.hart h).counted) (c - 16, h, n) := by
    rw [State.sendSeals_one one none, if_pos high]
    have h14 : c ≠ 14 := by omega
    have h15 : c ≠ 15 := by omega
    simp [h14, h15, Hart.counted]
  have here : c - 16 ≠ s.chip := by omega
  have put (u : State) (x : Record) (chip : u.chip = s.chip) (conns : u.conns = s.conns) : ∃ o : Outgoing,
      ((u.sendTo (c - 16) 0 false (s.hart h).secure x).conn (c - 16)).waiting = (s.conn (c - 16)).waiting ++ [o] ∧ o.rcd = x := by
    obtain ⟨o, rcd, -, there⟩ : Sent u (u.sendTo (c - 16) 0 false (s.hart h).secure x) (c - 16) 0 x := State.sent_sendTo
    rw [if_neg (by rw [chip]; exact here)] at there
    exact ⟨o, by rw [there, State.conn, State.conn, conns], rcd⟩
  rw [sent, State.sendSeal_up (by exact up)]
  refine ⟨s.newTag.2, ?_, ?_, ?_, fun k other => ?_, fun _ => ?_⟩
  · rw [State.sendTo_eq]; rfl
  · rw [State.sendTo_eq]; rfl
  · rw [State.hart_sendTo, State.hart_setHart_same, State.hart_setHart_same, Hart.counted, quiet, if_neg (by omega)]
    rfl
  · rw [State.hart_sendTo, State.hart_setHart, if_neg other]
    exact (State.hart_setHart ..).trans (if_neg other)
  · rw [State.hart_setHart_same]
    refine (put _ _ ?_ ?_).imp fun o h => ⟨h.1, by rw [h.2]; rfl, by rw [h.2]; rfl, by rw [h.2]; rfl, by rw [h.2]; rfl⟩
    · rfl
    · rfl

/-- Performing a store's bytes leaves open what its loads await. -/
theorem State.acquired_flushStores : ((s.flushStores h).hart h).acquired = (s.hart h).acquired := by
  have nb : ((s.flushStores h).hart h).nb = (s.hart h).nb.map fun o => if o.held then o else { o with bytes := [] } := by
    unfold State.flushStores
    dsimp only
    rw [State.hart_setHart_same, (s.performs_performBytes _).hart h]
  rw [Hart.acquired, nb, List.all_map, Hart.acquired]
  congr 1
  funext o
  simp only [Function.comp]
  split <;> simp_all
theorem State.acquired_sealed : ((s.sealed h scope).hart h).acquired = (s.hart h).acquired :=
  (congrArg Hart.acquired (State.hart_setHart_same ..)).trans State.acquired_flushStores

/-! ### PHASE (R177) -/

variable {f : PhaseOps} {i : Instr} {rel acq : Bool}

/-- A release that a PHASE asks for, and whether it is complete. -/
def State.sealedBy (s : State) (f : PhaseOps) (rel : Bool) : State × Bool :=
  if rel then s.release s.cur f.scope.toNat else (s, true)
/-- What a complete PHASE leaves. -/
def State.phased (s : State) (f : PhaseOps) (rel : Bool) : State :=
  (if f.win = 1 then { s with windows := s.windows.filter fun w => w.1 % 16 ≠ slotDie s.cur } else s).withMe fun t =>
    { t.result f.d (if rel then BitVec.ofNat 64 t.sealFailed.length else 0) with
      sealFailed := if rel then [] else t.sealFailed }

theorem exec_phase (h : (i, rel, acq) ∈ [(Instr.phaseRel f, true, false), (.phaseAcq f, false, true), (.phaseAr f, true, true)])
    (drained : s.me.drained = true) (hu : u = (s.withMe Hart.closeConvoy).drainNb s.cur) :
    exec i s = .next (if ((u.sealedBy f rel).2 && (!acq || (u.sealedBy f rel).1.me.acquired)) = true then
      (u.sealedBy f rel).1.phased f rel else (u.sealedBy f rel).1.park i none) := by
  have begun (i : Instr) : s.phase i f rel acq = if ((u.sealedBy f rel).2 && (!acq || (u.sealedBy f rel).1.me.acquired)) = true
      then (u.sealedBy f rel).1.phased f rel else (u.sealedBy f rel).1.park i none := by
    have closed : (s.withMe Hart.closeConvoy).me.drained = true := by rw [State.me_closeConvoy]; exact drained
    rw [State.phase, State.afterDrain]
    dsimp only
    rw [if_pos closed, State.cur_withMe, ← hu]
    rfl
  simp only [List.mem_cons, Prod.mk.injEq, List.not_mem_nil, or_false] at h
  obtain ⟨rfl, rfl, rfl⟩ | ⟨rfl, rfl, rfl⟩ | ⟨rfl, rfl, rfl⟩ := h <;> exact congrArg Host.Outcome.next (begun _)

theorem exec_phase_completes {r : State}
    (h : (i, rel, acq) ∈ [(Instr.phaseRel f, true, false), (.phaseAcq f, false, true), (.phaseAr f, true, true)])
    (drained : s.me.drained = true) (hu : u = (s.withMe Hart.closeConvoy).drainNb s.cur) (release : u.sealedBy f rel = (r, true))
    (loads : acq = true → r.me.acquired = true) : exec i s = .next (r.phased f rel) := by
  have acquires : (true && (!acq || r.me.acquired)) = true := by
    cases acq with
    | true => exact loads rfl
    | false => rfl
  rw [exec_phase h drained hu, release]
  exact congrArg Host.Outcome.next (if_pos acquires)
theorem exec_phase_waits {r : State} {done : Bool}
    (h : (i, rel, acq) ∈ [(Instr.phaseRel f, true, false), (.phaseAcq f, false, true), (.phaseAr f, true, true)])
    (drained : s.me.drained = true) (hu : u = (s.withMe Hart.closeConvoy).drainNb s.cur) (release : u.sealedBy f rel = (r, done))
    (open_ : done = false ∨ acq = true ∧ r.me.acquired = false) : exec i s = .next (r.park i none) := by
  have waits : ¬(done && (!acq || r.me.acquired)) = true := by
    obtain rfl | ⟨rfl, pending⟩ := open_
    · exact Bool.false_ne_true
    · simp [pending]
  rw [exec_phase h drained hu, release]
  exact congrArg Host.Outcome.next (if_neg waits)

theorem State.windows_phased : (s.phased f rel).windows =
    if f.win = 1 then s.windows.filter fun w => w.1 % 16 ≠ slotDie s.cur else s.windows := by
  unfold State.phased
  split <;> rfl
theorem State.hart_phased {k : Nat} (n : k ≠ s.cur) : (s.phased f rel).hart k = s.hart k := by
  unfold State.phased
  split <;> exact State.hart_withMe_other _ _ n
theorem State.mem_phased : (s.phased f rel).mem = s.mem := by
  unfold State.phased
  split <;> rfl
theorem State.me_phased : (s.phased f rel).me = { s.me.result f.d (if rel then BitVec.ofNat 64 s.me.sealFailed.length else 0) with
    sealFailed := if rel then [] else s.me.sealFailed } := by
  unfold State.phased
  split <;> exact State.me_withMe _ _

end

end Sys2Proof.Machine

open Sys2Proof Sys2Proof.Machine

/-- Settles O20: a PHASE is a release, where it has one, and then either ends or waits. -/
theorem phasesCompleteWhenSealed : Obligations.PhasesCompleteWhenSealed := by
  unfold Obligations.PhasesCompleteWhenSealed
  intro f s u i rel acq isPhase drained hu
  have landed : State.Landed s.cur (s.withMe Hart.closeConvoy) u := hu ▸ State.landed_drainNb _ _
  have cur : u.cur = s.cur := landed.cur
  have pc : u.me.pc = s.me.pc := hu ▸ State.pc_drainNb s
  have x : u.me.x = s.me.x := by rw [State.me, cur, landed.own.frame, State.hart_closeConvoy]; rfl
  have xr (r : BitVec 5) : u.me.xr r = s.me.xr r := by rw [Hart.xr, Hart.xr, x]
  have others (k : Nat) (n : k ≠ s.cur) : u.hart k = { s.hart k with wait := (u.hart k).wait } := by
    rw [landed.other k n, State.hart_withMe_other _ _ n]
  have windows : u.windows = s.windows := by rw [landed.frame]; rfl
  have flushed (k : Nat) (n : k ≠ s.cur) : (u.flushStores s.cur).hart k =
      { s.hart k with wait := ((u.flushStores s.cur).hart k).wait } := by
    rw [(u.landed_flushStores s.cur).other k n, others k n]
  have me : u.hart s.cur = u.me := by rw [State.me, cur]
  have meFlush : (u.flushStores s.cur).me = (u.flushStores s.cur).hart s.cur := by
    rw [State.me, (u.landed_flushStores s.cur).cur, cur]
  refine ⟨fun loads stores => ?_, fun noRel pending => ?_, fun c n isRel all sent quiet none one far => ?_⟩
  · cases rel with
    | true =>
      obtain ⟨sent, quiet, old, due⟩ := stores rfl
      have release : u.sealedBy f true = (u.sealed s.cur f.scope.toNat, true) := by
        rw [State.sealedBy, if_pos rfl, cur]
        exact State.release_quiet (by rw [me]; exact due) (by rw [me]; exact old) (by rw [me]; exact quiet) (by rw [me]; exact sent)
      have own := State.own_sealed (s := u) (h := s.cur) (scope := f.scope.toNat)
      have cur' : (u.sealed s.cur f.scope.toNat).cur = s.cur := (u.landed_flushStores s.cur).cur.trans cur
      have mine : (u.sealed s.cur f.scope.toNat).me = _ := (congrArg _ cur').trans own
      rw [me] at mine
      refine ⟨_, exec_phase_completes isPhase drained hu release fun isAcq => ?_, State.mem_phased, fun h other => ?_, ?_, ?_, ?_, ?_⟩
      · rw [State.me, cur', State.acquired_sealed, me]
        exact loads isAcq
      · rw [State.hart_phased (by rw [cur']; exact other), State.other_sealed other, others h other]
      · rw [State.windows_phased, cur', show (u.sealed s.cur f.scope.toNat).windows = s.windows from
          (congrArg State.windows (u.landed_flushStores s.cur).frame).trans windows]
      all_goals rw [State.me_phased, Hart.result_eq, mine]
      · rw [pc, show (if true = true then u.flushStores s.cur else u).me = (u.flushStores s.cur).hart s.cur from meFlush]
      · rfl
      · exact fun r => (Hart.xr_setX _ f.d r _).trans (congrArg (ite _ _) (xr r))
    | false =>
      have release : u.sealedBy f false = (u, true) := rfl
      refine ⟨_, exec_phase_completes isPhase drained hu release loads, State.mem_phased, fun h other => ?_, ?_, ?_, ?_, ?_⟩
      · rw [State.hart_phased (by rw [cur]; exact other), others h other]
      · rw [State.windows_phased, cur, windows]
      all_goals rw [State.me_phased, Hart.result_eq]
      · rw [pc]
        rfl
      · rfl
      · exact fun r => (Hart.xr_setX _ f.d r _).trans (congrArg (ite _ _) (xr r))
  · subst noRel
    have isAcq : acq = true := by
      simp only [List.mem_cons, Prod.mk.injEq, List.not_mem_nil, or_false, Bool.false_eq_true, false_and, and_false, false_or,
        true_and] at isPhase
      exact isPhase.2
    exact ⟨_, exec_phase_waits isPhase drained hu rfl (.inr ⟨isAcq, pending⟩), onlyMe_park _ _ _, State.me_park _ _ _,
      State.instr_park _ _ _⟩
  · subst isRel
    have flushOwn : (u.flushStores s.cur).hart s.cur = _ := u.own_flushStores s.cur
    rw [me] at flushOwn
    have chip : (u.flushStores s.cur).chip = s.chip := by rw [(u.landed_flushStores s.cur).frame, landed.frame]; rfl
    have conns : (u.flushStores s.cur).conns = s.conns := by rw [(u.landed_flushStores s.cur).frame, landed.frame]; rfl
    obtain ⟨tag, sealing⟩ : ∃ tag, State.Sealing s.cur c n tag (u.flushStores s.cur) ((u.flushStores s.cur).sendSeals s.cur 3) := by
      have one' : ((u.flushStores s.cur).hart s.cur).unsealed = [(c, n)] := by rw [flushOwn]; exact one
      have none' : ((u.flushStores s.cur).hart s.cur).inherited = [] := by rw [flushOwn]; exact none
      have quiet' : ((u.flushStores s.cur).hart s.cur).sealing = [] := by rw [flushOwn]; exact quiet
      obtain link | link | ⟨high, other, up⟩ := far
      · exact State.sealing_flush one' none' quiet' (.inl link)
      · exact State.sealing_flush one' none' quiet' (.inr link)
      · exact State.sealing_device one' none' quiet' high (by rw [chip]; exact other)
          (by rw [State.peerFailed, conns]; exact up)
    have release : u.sealedBy f true = ((u.flushStores s.cur).sendSeals s.cur 3, false) := by
      have scope : f.scope.toNat = 3 := by rw [all]; rfl
      have sentAll : ((u.flushStores s.cur).hart s.cur).tracked.any (fun x => !x.sent) = false := by
        rw [flushOwn]
        exact List.any_eq_false.mpr fun x isIn => by simp [sent x isIn]
      rw [State.sealedBy, if_pos rfl, cur, scope, State.release]
      dsimp only
      rw [if_neg (by simp [sentAll]), sealing.own]
      rfl
    generalize (u.flushStores s.cur).sendSeals s.cur 3 = r at sealing release
    have curR : r.cur = s.cur := sealing.cur.trans ((u.landed_flushStores s.cur).cur.trans cur)
    have meR : r.me = _ := (congrArg _ curR).trans sealing.own
    rw [flushOwn] at meR
    refine ⟨_, tag, exec_phase_waits isPhase drained hu release (.inl rfl), ?_, ?_, State.instr_park _ _ _, ?_, sealing.mem,
      fun h other => ?_, ?_, fun high => ?_⟩
    · rw [State.pc_park, meR]
      exact pc
    · rw [State.me_park, meR]
      exact x
    · rw [State.me_park, meR]
    · rw [State.hart_park_other _ _ _ (by rw [curR]; exact other), sealing.others h other, flushed h other]
    · rw [State.me_park, meR]
    · obtain ⟨o, there, rest⟩ := sealing.sent high
      refine ⟨o, there.trans ?_, rest⟩
      rw [State.conn, conns]
      rfl
end

section
/-!
SUPPORT. Stage queues (06_memory_isa R188, R189, R392; 14_regions R298): the operands of QPOP and QPUSH and what each does with a queue
of this package.
-/

namespace Sys2Proof.Machine

/-! ### Bytes read and written here -/

section
variable {s : State} {need : Need} {vec : Bool} {va : Word} {n v own : Nat} {locs il hl : List Loc}

theorem State.length_checkOnce (h : s.checkOnce need vec va n = .ok locs) : locs.length = n := by
  unfold State.checkOnce at h
  dsimp only at h
  split at h
  · next again =>
    obtain rfl := Except.ok.inj h
    simp only [Bool.and_eq_true, decide_eq_true_eq] at again
    exact again.2
  · exact State.length_checkRange h
theorem bytesNat_readByte (s : State) : ∀ as : List Nat, bytesNat (as.map s.readByte) = s.readAt as
  | [] => rfl
  | a :: as => congrArg (fun v => (s.readByte a).toNat + 256 * v) (bytesNat_readByte s as)
theorem State.peek_some (read : (s.peek own locs).2 = some v) : s.peek own locs = (s, some v) := by
  unfold State.peek at read ⊢
  dsimp only at read ⊢
  split at read
  · exact nomatch read
  · next here =>
    rw [if_neg here]
    exact Prod.ext rfl read
/-- Memory here or with the host that can be reached is read as it stands. -/
theorem State.peek_near (near : ∀ l ∈ locs, l.isReg = false ∧ s.farDev l.ga = none ∧ s.mustWait l.ga = false) :
    s.peek own locs = (s, some (s.readAt (locGas locs))) := by
  have gas (p : Nat → Prop) (h : ∀ l ∈ locs, p l.ga) : ∀ a ∈ locGas locs, p a := List.forall_mem_map.mpr h
  have bytes : (locs.map fun l => if (s.farDev l.ga).isSome then (askByte s.me.asks l.ga).getD 0
      else if l.isReg then BitVec.ofNat 8 (s.regLoad s.me.secure l.ga 1) else s.readByte l.ga) =
      (locGas locs).map s.readByte := by
    rw [locGas, List.map_map]
    refine List.map_congr_left fun l h => ?_
    rw [(near l h).1, (near l h).2.1]
    rfl
  unfold State.peek
  dsimp only
  rw [State.gather_of_near (gas (s.farDev · = none) fun l h => (near l h).2.1),
    State.outOfReach_of_ready (gas (s.mustWait · = false) fun l h => (near l h).2.2), if_neg (by simp), bytes, bytesNat_readByte]
/-- Bytes of a buffer here or with the host are written at once, and their record counted. -/
theorem State.storeBytes_home (near : ∀ l ∈ locs, s.farDev l.ga = none) (h v : Nat) :
    s.storeBytes h locs v = (s.countLocal h ((locGas locs).take 1)).writeAt (locGas locs) v := by
  have all : locs.filter (fun l => (s.farDev l.ga).isNone) = locs :=
    List.filter_eq_self.mpr fun l isIn => by rw [near l isIn]; rfl
  rw [State.storeBytes, all]
  exact if_pos rfl

/-! ### The checks of the operands (R392) -/

variable {hva iva : Word} {push : Bool}

theorem State.queueOperands_header {e : Stop} (refused : s.checkOnce .both false hva 64 = .error e) :
    s.queueOperands hva iva push = .error (s, e) := by
  rw [State.queueOperands, refused]

variable (header : s.checkOnce .both false hva 64 = .ok hl) (read : (s.peek 4 (hl.take 32)).2 = some v)
include header read

theorem State.queueOperands_item {e : Stop}
    (refused : s.checkOnce (if push then .bulkRd else .bulkWr) false iva (qHeader v).item = .error e) :
    s.queueOperands hva iva push = .error (s, e) := by
  rw [State.queueOperands, header]
  dsimp only
  rw [State.peek_some read]
  dsimp only
  rw [refused]

variable (item : s.checkOnce (if push then .bulkRd else .bulkWr) false iva (qHeader v).item = .ok il)
include item

theorem State.queueOperands_kind {k : Nat} {l : Loc} (here : hl[k]? = some l) (other : gaHost l.ga = true ∨ l.isReg = true)
    (before : ∀ j m, j < k → hl[j]? = some m → gaHost m.ga = false ∧ m.isReg = false) :
    s.queueOperands hva iva push = .error (s, .trap causePerm (hva + BitVec.ofNat 64 k)) := by
  have first : hl.findIdx? (fun l => gaHost l.ga || l.isReg) = some k := by
    obtain ⟨inside, here⟩ := List.getElem?_eq_some_iff.mp here
    rw [List.findIdx?_eq_some_iff_getElem]
    refine ⟨inside, by rw [here]; simpa using other, fun j h => ?_⟩
    obtain ⟨host, reg⟩ := before j _ h (List.getElem?_eq_getElem (h.trans inside))
    rw [host, reg]
    decide
  rw [State.queueOperands, header]
  dsimp only
  rw [State.peek_some read]
  dsimp only
  rw [item]
  dsimp only
  rw [first]

variable (memory : ∀ l ∈ hl, gaHost l.ga = false ∧ l.isReg = false)
include memory

theorem State.queueOperands_of_memory : s.queueOperands hva iva push =
    if hva.toNat % 64 ≠ 0 then .error (s, .trap causeAlign hva)
    else if iva.toNat % 8 ≠ 0 then .error (s, .trap causeAlign iva)
    else match s.eccByte hva hl with
      | some v => .error (s.logError (errorUnit (hl.headD ⟨0, false⟩).ga) s.cur, .trap causeEcc v)
      | none => match s.eccByte iva il with
        | some v => .error (s.logError (errorUnit (il.headD ⟨0, false⟩).ga) s.cur, .trap causeEcc v)
        | none => .ok ((hl.headD ⟨0, false⟩).ga, qHeader v, il) := by
  rw [State.queueOperands, header]
  dsimp only
  rw [State.peek_some read]
  dsimp only
  rw [item]
  dsimp only
  rw [List.findIdx?_eq_none_iff.mpr fun l h => by rw [(memory l h).1, (memory l h).2]; rfl] <;> rfl
theorem State.queueOperands_ok (aligned : hva.toNat % 64 = 0) (even : iva.toNat % 8 = 0)
    (clean : ∀ l ∈ hl, s.poisoned l.ga = false) (good : ∀ l ∈ il, s.poisoned l.ga = false) :
    s.queueOperands hva iva push = .ok ((hl.headD ⟨0, false⟩).ga, qHeader v, il) := by
  rw [State.queueOperands_of_memory header read item memory, if_neg (by simp [aligned]), if_neg (by simp [even]),
    State.eccByte_of_clean clean, State.eccByte_of_clean good]
end

section
variable {s : State} {f : Rrr} {push : Bool} {hl : List Nat} {il : List Loc} {q : QHeader}

/-- Operands that pass their checks are those of a queue of this package. -/
theorem QueueAt.operands (at' : QueueAt s f push hl il q) :
    s.queueOperands (s.me.xr f.a) (s.me.xr f.b) push = .ok (hl.headD 0, q, il) ∧ s.farDev (hl.headD 0) = none := by
  obtain ⟨header, home, rfl, item, near, aligned, even⟩ := at'
  have memory : ∀ l ∈ homeBytes hl, gaHost l.ga = false ∧ l.isReg = false := forall_homeBytes fun a h =>
    ⟨(home a h).1, (isReg_eq_false (l := ⟨a, false⟩)).mpr (.inr (home a h).2.1)⟩
  have read : (s.peek 4 ((homeBytes hl).take 32)).2 = some (s.readAt (hl.take 32)) := by
    have first : (homeBytes hl).take 32 = homeBytes (hl.take 32) := List.map_take.symm
    rw [first, State.peek_near, locGas_homeBytes]
    refine forall_homeBytes fun a h => ?_
    obtain ⟨-, kind, here, ready, -⟩ := home a (List.mem_of_mem_take h)
    exact ⟨(isReg_eq_false (l := ⟨a, false⟩)).mpr (.inr kind), here, ready⟩
  have first : ((homeBytes hl).headD ⟨0, false⟩).ga = hl.headD 0 := by cases hl <;> rfl
  have some : hl.headD 0 ∈ hl := by
    have length := State.length_checkOnce header
    rw [List.length_map] at length
    cases hl with
    | nil => exact nomatch length
    | cons a t => exact List.mem_cons_self
  refine ⟨?_, (home _ some).2.2.1⟩
  rw [State.queueOperands_ok (hl := homeBytes hl) header read item memory aligned even (forall_homeBytes fun a h => (home a h).2.2.2.2)
    (fun l h => (near l h).2.2.2), first]
end

/-- QPOP and QPUSH take the trap of operands that fail a check. -/
theorem traps_of_queueOperands {i : Instr} {f : Rrr} {push : Bool} {s : State} {c : Byte} {v : Word}
    (h : (i, push) ∈ [(Instr.qpop f, false), (.qpush f, true)])
    (refused : s.queueOperands (s.me.xr f.a) (s.me.xr f.b) push = .error (s, .trap c v)) : Traps (exec i s) s c v := by
  simp only [List.mem_cons, Prod.mk.injEq, List.not_mem_nil, or_false] at h
  obtain ⟨rfl, rfl⟩ | ⟨rfl, rfl⟩ := h
  · show Traps (execQpop f s) s c v
    rw [execQpop, refused]
    exact traps_raise s c v
  · show Traps (execQpush f s) s c v
    rw [execQpush, refused]
    exact traps_raise s c v

/-! ### QPOP (R188) -/

section
variable {s : State} {f : Rrr} {hl : List Nat} {il : List Loc} {q : QHeader} {ga : Nat}

theorem exec_qpop (at' : QueueAt s f false hl il q) (first : ga = hl.headD 0) :
    exec (.qpop f) s = .next (
      if s.openQueue ga q = false then (s.withMe Hart.closeConvoy).waitEnds f.d (s.queueStatus q)
      else if q.occupancy ≠ 0 then
        if s.ringAway q q.head = true then (s.withMe Hart.closeConvoy).park (.qpop f) none
        else if s.ringPoisoned q q.head = true then
          ((s.withMe Hart.closeConvoy).logError (errorUnit q.ring) s.cur).halt (.trap causeEcc (s.me.xr f.a))
        else
          ((((s.withMe Hart.closeConvoy).storeBytes s.cur il (s.readGa (q.slot q.head) q.item)).writeGa ga 4
            (q.head + 1)).waitEnds f.d 0).closeAllQueues
      else (s.withMe Hart.closeConvoy).waitFor (.qpop f) f.d (if q.closed then some 2 else none) none) := by
  obtain ⟨operands, near⟩ := at'.operands
  show execQpop f s = _
  rw [execQpop, operands, ← first]
  rw [← first] at near
  have near' : ((s.withMe Hart.closeConvoy).farDev ga).isSome = false := by
    rw [show (s.withMe Hart.closeConvoy).farDev ga = s.farDev ga from rfl, near]; rfl
  have read : (s.withMe Hart.closeConvoy).readGa (q.slot q.head) q.item = s.readGa (q.slot q.head) q.item :=
    State.readAt_withMe _
  have xr : (s.withMe Hart.closeConvoy).me.xr f.a = s.me.xr f.a := by rw [State.me_closeConvoy]; rfl
  dsimp only
  rw [if_neg (by simp [near']), read, xr]
  simp only [Bool.not_eq_true']
  rfl

/-- QPOP of a queue that the device has written. -/
theorem exec_qpop_open (at' : QueueAt s f false hl il q) (first : ga = hl.headD 0) (valid : q.valid = true)
    (device : s.deviceQueue ga q = true) : exec (.qpop f) s = .next (if q.occupancy ≠ 0 then
        if s.ringAway q q.head = true then (s.withMe Hart.closeConvoy).park (.qpop f) none
        else if s.ringPoisoned q q.head = true then
          ((s.withMe Hart.closeConvoy).logError (errorUnit q.ring) s.cur).halt (.trap causeEcc (s.me.xr f.a))
        else
          ((((s.withMe Hart.closeConvoy).storeBytes s.cur il (s.readGa (q.slot q.head) q.item)).writeGa ga 4
            (q.head + 1)).waitEnds f.d 0).closeAllQueues
      else (s.withMe Hart.closeConvoy).waitFor (.qpop f) f.d (if q.closed then some 2 else none) none) :=
  (exec_qpop at' first).trans (congrArg _ (if_neg (by rw [State.openQueue, valid, device]; exact Bool.noConfusion)))
/-- What ends or goes on from a closed convoy does so from the hart's own state. -/
theorem Ends.of_closed {o : Out} {d : BitVec 5} {v : Word} (ends : Ends o (s.withMe Hart.closeConvoy) d v) : Ends o s d v := by
  obtain ⟨t, run, only, me, reg⟩ := ends
  rw [State.me_closeConvoy] at me reg
  exact ⟨t, run, (onlyMe_withMe s _).trans only, me, reg⟩
theorem State.expired_closed (s : State) : (s.withMe Hart.closeConvoy).expired = s.expired := by
  rw [State.expired, State.me_closeConvoy]; rfl
theorem State.mem_trans {s t u : State} (a : t = { s with mem := t.mem }) (b : u = { t with mem := u.mem }) :
    u = { s with mem := u.mem } := by rw [b, a]
theorem State.mem_writeGa_writeGa {s t : State} (mem : s.mem = t.mem) (canon : s.canon = t.canon) (a n v b m w : Nat) :
    ((s.writeGa a n v).writeGa b m w).mem = ((t.writeGa a n v).writeGa b m w).mem :=
  State.mem_writeAt_congr _ _ (State.mem_writeAt_congr _ _ mem canon) (by
    funext c
    rw [State.canon_writeGa, State.canon_writeGa, canon])
/-- The item numbered HEAD has been taken by a QPOP. -/
theorem popped (near : ∀ l ∈ il, s.farDev l.ga = none) (v : Nat) (d : BitVec 5) : ∃ t : State,
    ((((s.withMe Hart.closeConvoy).storeBytes s.cur il v).writeGa ga 4 (q.head + 1)).waitEnds d 0) = t ∧
      t = { s with mem := t.mem, harts := t.harts } ∧ (∀ h, h ≠ s.cur → t.hart h = s.hart h) ∧
      t.mem = ((s.writeAt (locGas il) v).writeGa ga 4 (q.head + 1)).mem ∧
      t.me = { s.me with x := t.me.x, pc := s.me.pc + 4, wait := none, convoyOpen := false, unsealed := t.me.unsealed } ∧
      RegSet s.me t.me d 0 := by
  have counted : State.Counted s.cur (s.withMe Hart.closeConvoy)
      ((s.withMe Hart.closeConvoy).countLocal s.cur ((locGas il).take 1)) := State.counted_countLocal _
  rw [State.storeBytes_home (s := s.withMe Hart.closeConvoy) near]
  obtain ⟨frame, others, own⟩ := counted
  generalize (s.withMe Hart.closeConvoy).countLocal s.cur ((locGas il).take 1) = c at *
  have cur : c.cur = s.cur := by rw [frame]; rfl
  have eq : (c.writeAt (locGas il) v).writeGa ga 4 (q.head + 1) =
      { c with mem := ((c.writeAt (locGas il) v).writeGa ga 4 (q.head + 1)).mem } :=
    State.mem_trans (State.writeAt_eq (locGas il) c v) (State.writeAt_eq _ _ _)
  have mem : ((c.writeAt (locGas il) v).writeGa ga 4 (q.head + 1)).mem = ((s.writeAt (locGas il) v).writeGa ga 4 (q.head + 1)).mem := by
    have canon : c.canon = s.canon := by rw [frame]; rfl
    have same : c.mem = s.mem := by rw [frame]; rfl
    exact State.mem_writeAt_congr _ _ (State.mem_writeAt_congr _ _ same canon) (by
      funext a
      rw [State.canon_writeAt, State.canon_writeAt, canon])
  have hart (k : Nat) : ((c.writeAt (locGas il) v).writeGa ga 4 (q.head + 1)).hart k = c.hart k := by rw [eq]; rfl
  generalize (c.writeAt (locGas il) v).writeGa ga 4 (q.head + 1) = w at *
  have curW : w.cur = s.cur := by rw [eq]; exact cur
  have me : w.me = { s.me with convoyOpen := false, unsealed := w.me.unsealed } := by
    rw [State.me, curW, hart, own, State.hart_withMe, if_pos rfl]
    rfl
  obtain ⟨t, run, only, meT, reg⟩ := ends_waitEnds w d 0
  obtain rfl : w.waitEnds d 0 = t := Host.Outcome.next.inj run
  refine ⟨_, rfl, ?_, fun h other => ?_, mem, ?_, ?_⟩
  · rw [only.1, eq, frame]
    rfl
  · rw [only.2 h (by rw [curW]; exact other), hart, others h other, State.hart_withMe_other _ _ other]
  · rw [meT, me]
  · rw [me] at reg
    exact reg
end

/-! ### QPUSH (R188) -/

section
variable {s r : State} {f : Rrr} {hl : List Nat} {il : List Loc} {q : QHeader} {ga v : Nat}

/-- A QPUSH with nothing queued that has asked for nothing begins with its release. -/
theorem begins_qpush (drained : s.me.drained = true) (none : s.me.asks = []) :
    (s.withMe Hart.closeConvoy).me.drained = true ∧ ¬((s.withMe Hart.closeConvoy).queueAnswer ga).isSome = true := by
  refine ⟨by rw [State.me_closeConvoy]; exact drained, ?_⟩
  rw [State.queueAnswer, State.me_closeConvoy, Hart.closeConvoy_asks, none]
  exact Bool.false_ne_true
/-- A release that is not complete makes a QPUSH wait. -/
theorem exec_qpush_unreleased (at' : QueueAt s f true hl il q) (drained : s.me.drained = true)
    (none : s.me.asks = []) (release : (s.withMe Hart.closeConvoy).release s.cur 2 = (r, false)) :
    exec (.qpush f) s = .next (r.park (.qpush f) .none) := by
  obtain ⟨idle, unasked⟩ := begins_qpush (ga := hl.headD 0) drained none
  show execQpush f s = _
  rw [execQpush, at'.operands.1]
  dsimp only
  rw [State.afterDrain]
  rw [if_pos idle, if_neg unasked, State.cur_withMe, release]
  rfl
/-- What a QPUSH does once its release is complete. -/
def State.pushed (r : State) (f : Rrr) (ga : Nat) (q : QHeader) (v : Nat) : State :=
  if r.openQueue ga q = false then r.waitEnds f.d (r.queueStatus q)
  else if q.closed = true then r.waitEnds f.d 2
  else if q.occupancy < q.depth then
    if r.ringAway q q.tail = true then r.park (.qpush f) none else (r.pushItem ga q v).waitEnds f.d 0
  else (r.withMe fun t => t.dropAsks 0).waitFor (.qpush f) f.d none none
theorem exec_qpush_released (at' : QueueAt s f true hl il q) (first : ga = hl.headD 0) (drained : s.me.drained = true)
    (none : s.me.asks = []) (release : (s.withMe Hart.closeConvoy).release s.cur 2 = (r, true)) :
    exec (.qpush f) s = .next (r.pushed f ga q (r.readAt (locGas il))) := by
  obtain ⟨operands, here⟩ := at'.operands
  obtain ⟨idle, unasked⟩ := begins_qpush (ga := ga) drained none
  have releases := State.releases_release (s.withMe Hart.closeConvoy) s.cur 2
  rw [release] at releases
  have far : r.farDev = s.farDev := releases.farDev
  have waits : r.mustWait = s.mustWait := releases.mustWait
  have here : ¬(r.farDev ga).isSome = true := by rw [far, first, here]; exact Bool.false_ne_true
  obtain ⟨-, -, -, -, near, -⟩ := at'
  have read : r.peek 0 il = (r, some (r.readAt (locGas il))) := State.peek_near fun l h => by
    obtain ⟨mem, near, ready, -⟩ := near l h
    exact ⟨mem, by rw [far]; exact near, by rw [waits]; exact ready⟩
  show execQpush f s = _
  rw [execQpush, operands, ← first]
  dsimp only
  rw [State.afterDrain]
  rw [if_pos idle, if_neg unasked, State.cur_withMe, release, if_pos rfl, read]
  dsimp only
  rw [if_neg here, State.pushed]
  simp only [Bool.not_eq_true']

/-- A store that the line hold keeps leaves a release incomplete. -/
theorem State.release_unsent {h scope : Nat} (unsent : ∃ x ∈ (s.hart h).tracked, x.sent = false) :
    s.release h scope = (s.flushStores h, false) := by
  have held : ((s.flushStores h).hart h).tracked.any (fun x => !x.sent) = true := by
    rw [s.own_flushStores h]
    obtain ⟨x, isIn, unsent⟩ := unsent
    exact List.any_eq_true.mpr ⟨x, isIn, by rw [unsent]; rfl⟩
  unfold State.release
  exact if_pos held
variable {u : State} (hu : u = (s.withMe Hart.closeConvoy).flushStores s.cur)
include hu

theorem State.me_flushed : u.me = { s.me with nb := u.me.nb, wait := u.me.wait, convoyOpen := false } ∧ u.cur = s.cur ∧
    u = { s with mem := u.mem, harts := u.harts } ∧ ∀ h, h ≠ s.cur → u.hart h = { s.hart h with wait := (u.hart h).wait } := by
  have landed := (s.withMe Hart.closeConvoy).landed_flushStores s.cur
  have own := (s.withMe Hart.closeConvoy).own_flushStores s.cur
  rw [← hu] at landed own
  have cur : u.cur = s.cur := landed.cur
  refine ⟨?_, cur, landed.frame, fun h other => ?_⟩
  · rw [State.me, cur, own, State.hart_withMe, if_pos rfl]
    rfl
  · rw [landed.other h other, State.hart_withMe_other _ _ other]
/-- The package-scope release of a hart all of whose stores have been sent, and what it leaves. -/
theorem State.release_package (sent : ∀ x ∈ s.me.tracked, x.sent = true) (quiet : s.me.sealing = [])
    (old : ∀ e ∈ s.me.inherited, 14 ≤ e.1 / 2048) : ∃ r,
    (s.withMe Hart.closeConvoy).release s.cur 2 = (r, true) ∧ r = { u with harts := r.harts } ∧
      (∀ h, h ≠ s.cur → r.hart h = u.hart h) ∧ r.me = { u.me with unsealed := r.me.unsealed } := by
  have mine : (s.withMe Hart.closeConvoy).hart s.cur = s.me.closeConvoy := State.me_closeConvoy s
  have release := State.release_quiet (s := s.withMe Hart.closeConvoy) (h := s.cur) (scope := 2)
    (by intro e _ due; simpa [covers] using due)
    (by rw [mine]; intro e isIn; have := old e isIn; simp [covers]; omega)
    (by rw [mine]; exact quiet) (by rw [mine]; exact sent)
  have cur := (State.me_flushed hu).2.1
  have cur' : ((s.withMe Hart.closeConvoy).sealed s.cur 2).cur = s.cur := by
    rw [State.sealed, ← hu]; exact cur
  refine ⟨_, release, ?_, fun h other => ?_, ?_⟩
  · rw [State.sealed, ← hu]; rfl
  · rw [State.sealed, ← hu, State.hart_setHart, if_neg other]
  · rw [State.me, cur', State.sealed, ← hu, State.hart_setHart_same, State.me, cur]
/-- A wait of a QPUSH that ends leaves what its release has left. -/
theorem State.ends_pushed {r : State} {d : BitVec 5} {v : Word} (frame : r = { u with harts := r.harts })
    (others : ∀ h, h ≠ s.cur → r.hart h = u.hart h) (own : r.me = { u.me with unsealed := r.me.unsealed }) :
    ∃ t, Host.Outcome.next (r.waitEnds d v) = (.next t : Out) ∧ t.mem = u.mem ∧
      (∀ h, h ≠ s.cur → t.hart h = { s.hart h with wait := (t.hart h).wait }) ∧ RegSet s.me t.me d v ∧
      t.me = { u.me with x := t.me.x, pc := s.me.pc + 4, wait := none, unsealed := t.me.unsealed } := by
  obtain ⟨me, cur, -, rest⟩ := State.me_flushed hu
  have curR : r.cur = s.cur := by rw [frame]; exact cur
  have mem : r.mem = u.mem := by rw [frame]
  obtain ⟨t, run, only, meT, reg⟩ := ends_waitEnds r d v
  rw [own, me] at reg
  refine ⟨t, run, only.mem.trans mem, fun h other => ?_, reg, ?_⟩
  · rw [only.2 h (by rw [curR]; exact other), others h other, rest h other]
  · rw [meT, own, me]
/-- A release leaves the deadline of a wait, and whether it has passed. -/
theorem State.expired_released {r : State} (frame : r = { u with harts := r.harts }) (own : r.me = { u.me with unsealed := r.me.unsealed })
    (g : Hart → Hart) (same : (g r.me).waitDeadline = r.me.waitDeadline) :
    (r.withMe g).me.waitDeadline = s.me.waitDeadline ∧ (r.withMe g).expired = s.expired := by
  have landed := (s.withMe Hart.closeConvoy).landed_flushStores s.cur
  rw [← hu] at landed
  obtain ⟨me, cur, uframe, -⟩ := State.me_flushed hu
  have curR : r.cur = s.cur := by rw [frame]; exact cur
  have dies : r.dies = s.dies := by rw [frame]; show u.dies = s.dies; rw [uframe]
  have waits : u.me.wait.map (·.deadline) = s.me.wait.map (·.deadline) := by
    have seen := landed.wait s.cur
    have mine : (s.withMe Hart.closeConvoy).hart s.cur = s.me.closeConvoy := State.me_closeConvoy s
    rw [mine, ← cur] at seen
    have deadlines := congrArg (Option.map (·.deadline)) seen
    rwa [Option.map_map, Option.map_map] at deadlines
  have deadline : (r.withMe g).me.waitDeadline = s.me.waitDeadline := by
    have csr : u.me.csrv 0x013 = s.me.csrv 0x013 := by rw [me]; rfl
    rw [State.me_withMe, same, own]
    show (u.me.wait.map (·.deadline)).getD (u.me.csrv 0x013) = _
    rw [waits, csr]
    rfl
  refine ⟨deadline, ?_⟩
  rw [State.expired, deadline]
  show (decide _ && decide (s.me.waitDeadline ≤ (Sparse.get Die.reset r.dies (slotDie r.cur)).ptime)) = _
  rw [dies, curR]
  rfl
end

end Sys2Proof.Machine

open Sys2Proof Sys2Proof.Machine

/-- Settles O23: the checks of the operands in their order, then QPOP and QPUSH by the state of the queue. -/
theorem queueInstructionsMoveOneItem : Obligations.QueueInstructionsMoveOneItem := by
  unfold Obligations.QueueInstructionsMoveOneItem
  refine ⟨fun f s i push isQueue => ⟨fun c v refused => ?_, fun hl v header read => ⟨fun c w refused => ?_, fun il item =>
      ⟨fun k l here other before => ?_, fun memory => ⟨fun odd => ?_, fun aligned odd => ?_⟩⟩⟩⟩,
    fun f s ga hl il q at' first => ⟨fun invalid => ?_, fun valid device => ⟨fun empty closed => ?_, fun empty open_ late => ?_,
      fun empty open_ early => ?_, fun some_ clean near => ?_⟩⟩,
    fun f s u ga hl il q at' first hu drained none => ⟨fun ⟨x, isIn, unsent⟩ => ?_, fun sent quiet old => ?_⟩⟩
  · exact traps_of_queueOperands isQueue (State.queueOperands_header refused)
  · exact traps_of_queueOperands isQueue (State.queueOperands_item header read refused)
  · exact traps_of_queueOperands isQueue (State.queueOperands_kind header read item here other before)
  · exact traps_of_queueOperands isQueue ((State.queueOperands_of_memory header read item memory).trans (if_pos odd))
  · exact traps_of_queueOperands isQueue ((State.queueOperands_of_memory header read item memory).trans
      ((if_neg (not_not.mpr aligned)).trans (if_pos odd)))
  · have shut : s.openQueue ga q = false := by rw [State.openQueue, invalid, Bool.false_and]
    rw [exec_qpop at' first, if_pos shut, State.queueStatus, invalid]
    exact (ends_waitEnds _ _ _).of_closed
  · rw [exec_qpop_open at' first valid device, if_neg (not_not.mpr empty), if_pos closed]
    exact (ends_waitEnds _ _ _).of_closed
  · rw [exec_qpop_open at' first valid device, if_neg (not_not.mpr empty), if_neg (by simp [open_])]
    exact (ends_waitFor_expired (by rw [State.expired_closed]; exact late)).of_closed
  · rw [exec_qpop_open at' first valid device, if_neg (not_not.mpr empty), if_neg (by simp [open_]), State.waitFor,
      if_neg (by rw [State.expired_closed, early]; exact Bool.false_ne_true)]
    refine ⟨_, rfl, rfl, fun h other => ?_, ?_, ?_⟩
    · exact (State.hart_withMe_other ((s.withMe Hart.closeConvoy).park _ _) _ other).trans
        ((State.hart_park_other (s.withMe Hart.closeConvoy) _ _ other).trans (State.hart_withMe_other _ _ other))
    all_goals rw [State.me_park_closed, State.me_closeConvoy]
    · rfl
    · rfl
  · obtain ⟨-, -, -, -, home, -⟩ := id at'
    obtain ⟨t, run, popped⟩ := popped (s := s) (q := q) (ga := ga) (fun l h => (home l h).2.1)
      (s.readGa (q.slot q.head) q.item) f.d
    refine ⟨t, ?_, popped⟩
    rw [exec_qpop_open at' first valid device, if_pos some_, if_neg (by simp [near]), if_neg (by simp [clean]), run]
  · obtain ⟨me, -, -, -⟩ := State.me_flushed hu
    have release : (s.withMe Hart.closeConvoy).release s.cur 2 = (u, false) := by
      rw [State.release_unsent, ← hu]
      exact ⟨x, by rw [State.hart_withMe, if_pos rfl]; exact isIn, unsent⟩
    refine ⟨_, exec_qpush_unreleased at' drained none release, ?_, ?_, State.instr_park _ _ _⟩ <;> rw [State.me_park, me]
  · obtain ⟨r, release, frame, others, own⟩ := State.release_package hu sent quiet old
    have run := exec_qpush_released at' first drained none release
    obtain ⟨me, cur, uframe, -⟩ := State.me_flushed hu
    have curR : r.cur = s.cur := by rw [frame]; exact cur
    have mem : r.mem = u.mem := by rw [frame]
    have device : r.deviceQueue ga q = s.deviceQueue ga q := by rw [frame, uframe]; rfl
    have bytes : r.readAt (locGas il) = u.readAt (locGas il) := State.readAt_congr mem (by rw [frame]; rfl) _
    rw [State.pushed] at run
    refine ⟨fun shut => ?_, fun valid written open_ => ?_⟩
    · by_cases works : r.openQueue ga q = false
      · have invalid : q.valid = false := by
          obtain invalid | ⟨written, -⟩ := shut
          · exact invalid
          · rw [State.openQueue, device, written, Bool.and_true] at works
            exact works
        rw [if_pos works, State.queueStatus, invalid] at run
        rw [run]
        exact State.ends_pushed hu frame others own
      · have closed : q.closed = true := by
          obtain invalid | ⟨-, closed⟩ := shut
          · exact absurd (by rw [State.openQueue, invalid, Bool.false_and]) works
          · exact closed
        rw [if_neg works, if_pos closed] at run
        rw [run]
        exact State.ends_pushed hu frame others own
    · have works : ¬r.openQueue ga q = false := by rw [State.openQueue, valid, device, written]; exact Bool.noConfusion
      rw [if_neg works, if_neg (by simp [open_]), bytes] at run
      obtain ⟨deadline, late⟩ := State.expired_released hu frame own (fun t => t.dropAsks 0) rfl
      have xs : (r.withMe fun t => t.dropAsks 0).me.x = s.me.x := by rw [State.me_withMe, own, me]; rfl
      have pcs : (r.withMe fun t => t.dropAsks 0).me.pc = s.me.pc := by rw [State.me_withMe, own, me]; rfl
      refine ⟨fun full past => ?_, fun full early => ?_, fun room near => ?_⟩
      · rw [if_neg (Nat.not_lt.mpr full)] at run
        rw [run]
        obtain ⟨t, ends, only, meT, reg⟩ := ends_waitFor_expired (i := .qpush f) (d := f.d) (seen := .none) (late.trans past)
        refine ⟨t, ends, only.mem.trans mem, fun x => ?_, ?_⟩
        · rw [reg x, Hart.xr, Hart.xr, xs]
        · rw [meT, ← pcs]
      · rw [if_neg (Nat.not_lt.mpr full)] at run
        rw [run]
        obtain ⟨t, waits, pc, x, memT, wait⟩ := waitsOn_waitFor (i := .qpush f) (d := f.d) (seen := .none) (late.trans early)
        exact ⟨t, waits, memT.trans mem, x.trans xs, pc.trans pcs, by rw [wait, deadline]⟩
      · have reach : ¬r.ringAway q q.tail = true := by
          have waits := (State.releases_release (s.withMe Hart.closeConvoy) s.cur 2).mustWait
          rw [release] at waits
          rw [State.ringAway, State.outOfReach, show r.mustWait = s.mustWait from waits]
          exact ne_true_of_eq_false near
        rw [if_pos room, if_neg reach] at run
        have wmem := State.mem_writeGa_writeGa mem (by rw [frame]; rfl : r.canon = u.canon) (q.slot q.tail) q.item
          (u.readAt (locGas il)) (ga + 4) 4 (q.tail + 1)
        have wframe : (r.writeGa (q.slot q.tail) q.item (u.readAt (locGas il))).writeGa (ga + 4) 4 (q.tail + 1) =
            { r with mem := ((r.writeGa (q.slot q.tail) q.item (u.readAt (locGas il))).writeGa (ga + 4) 4 (q.tail + 1)).mem } :=
          State.mem_trans (State.writeAt_eq _ r _) (State.writeAt_eq _ _ _)
        have exec_w : r.pushItem ga q (u.readAt (locGas il)) =
          ((r.writeGa (q.slot q.tail) q.item (u.readAt (locGas il))).writeGa (ga + 4) 4 (q.tail + 1)).closeAllQueues := rfl
        rw [exec_w] at run
        generalize (r.writeGa (q.slot q.tail) q.item (u.readAt (locGas il))).writeGa (ga + 4) 4 (q.tail + 1) = w at *
        have whart (k : Nat) : w.hart k = r.hart k := by rw [wframe]; rfl
        have curW : w.cur = r.cur := by rw [wframe]
        have meW : w.me = r.me := by rw [State.me, whart, curW]; rfl
        refine ⟨w, _, wmem, ?_, ?_, fun h other => (whart h).trans (others h other), run, ends_waitEnds _ _ _⟩
        · rw [wframe, frame]
        · rw [meW]
          exact own
end

section
/-!
SUPPORT. Engine instructions (06_memory_isa R190-R195; 15_io_dies R312): binding a context, issuing on it, and commands that are
complete.
-/

namespace Sys2Proof.Machine

section
variable {s u : State} {key k : Nat}

/-! ### Contexts and their slots (R190) -/

/-- The binding of a context changes of the hart the slots alone. -/
theorem State.bound_bindCtx (bound : s.bindCtx s.cur k = some u) :
    u = { s with harts := u.harts, ctxs := u.ctxs, fresh := u.fresh } ∧ (∀ h, h ≠ s.cur → u.hart h = s.hart h) ∧
      u.me = { s.me with ctxs := u.me.ctxs } := by
  unfold State.bindCtx at bound
  dsimp only at bound
  by_cases held : ((s.hart s.cur).ctxSlot k).bound = true
  · rw [if_pos held] at bound
    obtain rfl := Option.some.inj bound
    exact ⟨rfl, fun _ _ => rfl, rfl⟩
  · rw [if_neg held] at bound
    obtain ⟨-, bound⟩ := Option.ite_none_left_eq_some.mp bound
    obtain ⟨key, -, eq⟩ := Option.map_eq_some_iff.mp bound
    generalize new : (s.hart s.cur).setCtxSlot k { CtxSlot.empty with bound := true, key := key } = t at eq
    have mine : u.me = t := by
      rw [← eq, State.me, State.setHart_cur]
      exact (State.hart_setHart ..).trans (if_pos rfl)
    refine ⟨by rw [← eq]; rfl, fun h other => ?_, by rw [mine, ← new]; rfl⟩
    rw [← eq, State.hart_setHart, if_neg other]
    rfl

theorem State.withSlot_own (hart : (s.ctx key).hart = some s.cur) (slot : (s.ctx key).slot = k) (half : key % 2048 < 1024)
    (g : CtxSlot → CtxSlot) : s.withSlot key g = s.withMe fun t => t.setCtxSlot k (g (t.ctxSlot k)) := by
  rw [State.withSlot, hart, slot, if_neg (Nat.not_le.mpr half)]
  rfl
/-- A command that moves bytes is not complete at its issue. -/
theorem State.completeEmpty_of_segments (all : ∀ c ∈ (s.ctx key).eng, (c.op.segment 0).isSome = true) : s.completeEmpty key = s := by
  unfold State.completeEmpty
  generalize (s.ctx key).eng = l at all
  induction l with
  | nil => rfl
  | cons c l ih =>
    have moves := all c List.mem_cons_self
    rw [List.foldl_cons, if_neg (by rw [Option.isNone_eq_false_iff.mpr moves, Bool.false_and]; exact Bool.false_ne_true)]
    exact ih fun c h => all c (List.mem_cons_of_mem _ h)

/-- The oldest command of a context of the executing hart is complete. -/
theorem State.completeEngine_own {c : EngCmd} {rest : List EngCmd} (first : (s.ctx key).eng = c :: rest)
    (hart : (s.ctx key).hart = some s.cur) (slot : (s.ctx key).slot = k) (half : key % 2048 < 1024) :
    s.completeEngine key = { s with harts := (s.completeEngine key).harts, ctxs := (s.completeEngine key).ctxs } ∧
      (∀ h, h ≠ s.cur → (s.completeEngine key).hart h = s.hart h) ∧
      (s.completeEngine key).me = s.me.setCtxSlot k { s.me.ctxSlot k with completed := c.num } ∧
      ∀ j, (s.completeEngine key).ctx j = if j = key then
        { s.ctx key with eng := rest, inFlight := false, completed := c.num } else s.ctx j := by
  let v := s.setCtx key { s.ctx key with eng := rest, inFlight := false }
  let w := v.setCtx key { v.ctx key with completed := c.num }
  have ctxV (j : Nat) : v.ctx j = if j = key then { s.ctx key with eng := rest, inFlight := false } else s.ctx j :=
    State.ctx_setCtx ..
  have ctxW (j : Nat) : w.ctx j = if j = key then { s.ctx key with eng := rest, inFlight := false, completed := c.num }
      else s.ctx j := by
    rw [State.ctx_setCtx, ctxV, if_pos rfl, ctxV]
    split <;> rfl
  have done : s.completeEngine key = w.withMe fun t => t.setCtxSlot k { t.ctxSlot k with completed := c.num } := by
    rw [State.completeEngine, first]
    refine State.withSlot_own ?_ ?_ half _
    · rw [show (State.setCtx v key _).ctx key = _ from ctxW key, if_pos rfl]
      exact hart
    · rw [show (State.setCtx v key _).ctx key = _ from ctxW key, if_pos rfl]
      exact slot
  have others (h : Nat) (other : h ≠ s.cur) : (s.completeEngine key).hart h = s.hart h := by
    rw [done]
    exact State.hart_withMe_other w _ other
  have me : (s.completeEngine key).me = s.me.setCtxSlot k { s.me.ctxSlot k with completed := c.num } := by
    rw [done]
    exact State.me_withMe w _
  have ctxs (j : Nat) : (s.completeEngine key).ctx j = w.ctx j := by
    rw [done]
    rfl
  refine ⟨?_, others, me, fun j => (ctxs j).trans (ctxW j)⟩
  have frame : w = { s with harts := w.harts, ctxs := w.ctxs } := rfl
  rw [done]
  exact State.frame_withMe frame _

/-! ### A command issued (R190, R192) -/

variable {i : Instr} {w : IWord} {d : BitVec 5} {put : State → CtxSlot → Word → State}

theorem State.issue_faulted (bad : (s.me.ctxSlot k).bound = true ∧ (s.me.ctxSlot k).faulted = true) :
    s.issue i w d k put = s.raise causeEngctx (tvalWord w) := by
  rw [State.issue, if_pos (by rw [bad.1, bad.2]; rfl)]
theorem State.issue_full (fine : ¬((s.me.ctxSlot k).bound = true ∧ (s.me.ctxSlot k).faulted = true))
    (full : 256 ≤ (s.me.ctxSlot k).pending) : s.issue i w d k put = s.park i none := by
  rw [State.issue, if_neg (by simpa using fine), if_pos full]
theorem State.issue_unbound (fine : ¬((s.me.ctxSlot k).bound = true ∧ (s.me.ctxSlot k).faulted = true))
    (room : ¬256 ≤ (s.me.ctxSlot k).pending) (none : s.bindCtx s.cur k = .none) :
    s.issue i w d k put = s.raise causeEngctx (tvalWord w) := by
  rw [State.issue, if_neg (by simpa using fine), if_neg room, none]
theorem State.issue_bound (fine : ¬((s.me.ctxSlot k).bound = true ∧ (s.me.ctxSlot k).faulted = true))
    (room : ¬256 ≤ (s.me.ctxSlot k).pending) (bound : s.bindCtx s.cur k = some u) :
    s.issue i w d k put =
      (put (u.withMe fun t => t.setCtxSlot k { u.me.ctxSlot k with issued := (u.me.ctxSlot k).issued + 1 }) (u.me.ctxSlot k)
        ((u.me.ctxSlot k).issued + 1)).withMe fun t => t.result d ((u.me.ctxSlot k).issued + 1) := by
  rw [State.issue, if_neg (by simpa using fine), if_neg room, bound]

/-! ### An engine command put on its context (R191) -/

/-- The next command of a slot. -/
def CtxSlot.command (b : CtxSlot) (op : EngOp) (user : Bool) : EngCmd :=
  ⟨b.issued + 1, op, b.clasp, b.prio, user, 0, [], Xfer.none⟩
/-- The executing hart has taken the next number of a slot. -/
def State.numbered (u : State) (k : Nat) : State :=
  u.withMe fun t => t.setCtxSlot k { u.me.ctxSlot k with issued := (u.me.ctxSlot k).issued + 1 }
/-- The executing hart has put a command last on the context of a slot. -/
def State.withCommand (u : State) (k : Nat) (op : EngOp) : State :=
  (u.numbered k).setCtx (u.me.ctxSlot k).key
    { u.ctx (u.me.ctxSlot k).key with eng := (u.ctx (u.me.ctxSlot k).key).eng ++
      [(u.me.ctxSlot k).command op (decide (u.me.priv = .user))] }

variable {op : EngOp}
theorem State.me_withCommand : (u.withCommand k op).me =
    u.me.setCtxSlot k { u.me.ctxSlot k with issued := (u.me.ctxSlot k).issued + 1 } := by
  show (u.numbered k).me = _
  exact State.me_withMe ..
theorem State.hart_withCommand {h : Nat} (other : h ≠ u.cur) : (u.withCommand k op).hart h = u.hart h := by
  show (u.numbered k).hart h = _
  exact State.hart_withMe_other u _ other
theorem State.ctx_withCommand (j : Nat) : (u.withCommand k op).ctx j = if j = (u.me.ctxSlot k).key then
    { u.ctx (u.me.ctxSlot k).key with eng := (u.ctx (u.me.ctxSlot k).key).eng ++
      [(u.me.ctxSlot k).command op (decide (u.me.priv = .user))] } else u.ctx j := State.ctx_setCtx ..
theorem State.eng_withCommand : ((u.withCommand k op).ctx (u.me.ctxSlot k).key).eng = (u.ctx (u.me.ctxSlot k).key).eng ++
    [(u.me.ctxSlot k).command op (decide (u.me.priv = .user))] := by rw [State.ctx_withCommand, if_pos rfl]
theorem State.issueEngine_bound (fine : ¬((s.me.ctxSlot k).bound = true ∧ (s.me.ctxSlot k).faulted = true))
    (room : ¬256 ≤ (s.me.ctxSlot k).pending) (bound : s.bindCtx s.cur k = some u) : s.issueEngine i w d k op =
      ((u.withCommand k op).completeEmpty (u.me.ctxSlot k).key).withMe fun t => t.result d ((u.me.ctxSlot k).issued + 1) := by
  have priv (b : CtxSlot) : (u.withMe fun t => t.setCtxSlot k b).me.priv = u.me.priv := by rw [State.me_withMe]; rfl
  rw [State.issueEngine, State.issue_bound fine room bound, priv]
  rfl

/-- A command put on its context, which completes at once where it moves no bytes and nothing is before it. -/
theorem State.completeEmpty_withCommand (before : ∀ y ∈ (u.ctx (u.me.ctxSlot k).key).eng, (y.op.segment 0).isSome = true)
    (moves : (op.segment 0).isSome = true ∨ (u.ctx (u.me.ctxSlot k).key).eng = [] ∧
      (u.ctx (u.me.ctxSlot k).key).hart = some u.cur ∧ (u.ctx (u.me.ctxSlot k).key).slot = k ∧
      (u.me.ctxSlot k).key % 2048 < 1024) : ∃ v, (u.withCommand k op).completeEmpty (u.me.ctxSlot k).key = v ∧
      v = { u with harts := v.harts, ctxs := v.ctxs } ∧ (∀ h, h ≠ u.cur → v.hart h = u.hart h) ∧
      (∃ cs, v.me = { u.me with ctxs := cs }) ∧
      (∀ j, v.me.ctxSlot j = if j = k then { u.me.ctxSlot k with
        issued := (u.me.ctxSlot k).issued + 1
        completed := if (op.segment 0).isSome then (u.me.ctxSlot k).completed else (u.me.ctxSlot k).issued + 1 }
        else u.me.ctxSlot j) ∧
      ∀ key, v.ctx key = if key = (u.me.ctxSlot k).key then (if (op.segment 0).isSome then
          { u.ctx (u.me.ctxSlot k).key with eng := (u.ctx (u.me.ctxSlot k).key).eng ++
            [(u.me.ctxSlot k).command op (decide (u.me.priv = .user))] }
        else { u.ctx (u.me.ctxSlot k).key with eng := [], inFlight := false, completed := (u.me.ctxSlot k).issued + 1 })
        else u.ctx key := by
  by_cases some : (op.segment 0).isSome = true
  · have stays : (u.withCommand k op).completeEmpty (u.me.ctxSlot k).key = u.withCommand k op := by
      refine State.completeEmpty_of_segments fun c h => ?_
      rw [State.eng_withCommand] at h
      obtain h | h := List.mem_append.mp h
      · exact before c h
      · rw [List.mem_singleton.mp h]
        exact some
    refine ⟨_, stays, rfl, fun h other => State.hart_withCommand other, ⟨_, State.me_withCommand⟩, fun j => ?_, fun key => ?_⟩
    · rw [State.me_withCommand, Hart.ctxSlot_setCtxSlot, if_pos some]
    · rw [State.ctx_withCommand, if_pos some]
  · obtain ⟨none, hart, slot, half⟩ := moves.resolve_left some
    have first : ((u.withCommand k op).ctx (u.me.ctxSlot k).key).eng =
        [(u.me.ctxSlot k).command op (decide (u.me.priv = .user))] := by rw [State.eng_withCommand, none]; rfl
    have ctx := State.ctx_withCommand (u := u) (k := k) (op := op) (u.me.ctxSlot k).key
    rw [if_pos rfl] at ctx
    have done : (u.withCommand k op).completeEmpty (u.me.ctxSlot k).key =
        (u.withCommand k op).completeEngine (u.me.ctxSlot k).key := by
      rw [State.completeEmpty, first, List.foldl_cons, List.foldl_nil, first]
      exact if_pos (by simp [CtxSlot.command, Option.not_isSome_iff_eq_none.mp some])
    obtain ⟨frame, others, me, ctxs⟩ := State.completeEngine_own (k := k) first (by rw [ctx]; exact hart) (by rw [ctx]; exact slot) half
    rw [State.me_withCommand, Hart.ctxSlot_setCtxSlot, if_pos rfl] at me
    refine ⟨_, done, ?_, fun h other => (others h other).trans (State.hart_withCommand other), ⟨_, me⟩, fun j => ?_, fun key => ?_⟩
    · rw [frame]
      rfl
    · rw [me, Hart.ctxSlot_setCtxSlot, Hart.ctxSlot_setCtxSlot, if_neg some]
      by_cases same : j = k
      · rw [if_pos same, if_pos same]
        rfl
      · rw [if_neg same, if_neg same, if_neg same]
    · rw [ctxs, ctx, State.ctx_withCommand, if_neg some]
      by_cases same : key = (u.me.ctxSlot k).key
      · rw [if_pos same, if_pos same]
        rfl
      · rw [if_neg same, if_neg same, if_neg same]
end

/-! ### The shape record of COPY2 (R191, R192) -/

theorem bytesNat_drop : ∀ (m : Nat) (bs : List Byte), bytesNat (bs.drop m) = bytesNat bs / 256 ^ m
  | 0, bs => by simp
  | m + 1, [] => by simp [bytesNat]
  | m + 1, b :: bs => by
    have low := b.isLt
    rw [List.drop_succ_cons, bytesNat_drop m bs, Nat.pow_succ, Nat.mul_comm, ← Nat.div_div_eq_div_mul]
    congr 1
    show bytesNat bs = (b.toNat + 256 * bytesNat bs) / 256
    omega
theorem bytesNat_take : ∀ (m : Nat) (bs : List Byte), bytesNat (bs.take m) = bytesNat bs % 256 ^ m
  | 0, bs => by simp [bytesNat, Nat.mod_one]
  | m + 1, [] => by simp [bytesNat]
  | m + 1, b :: bs => by
    have low := b.isLt
    show b.toNat + 256 * bytesNat (bs.take m) = (b.toNat + 256 * bytesNat bs) % 256 ^ (m + 1)
    rw [bytesNat_take m bs, Nat.pow_succ', Nat.mod_mul, show (b.toNat + 256 * bytesNat bs) % 256 = b.toNat by omega,
      show (b.toNat + 256 * bytesNat bs) / 256 = bytesNat bs by omega]
/-- Word j of a record of bytes. -/
theorem word_of_bytes (bs : List Byte) (j : Nat) : BitVec.ofNat 64 (bytesNat ((bs.drop (8 * j)).take 8)) =
    BitVec.ofNat 64 (bytesNat bs / 2 ^ (64 * j)) := by
  have base : 256 ^ (8 * j) = 2 ^ (64 * j) := by rw [show (256 : Nat) = 2 ^ 8 from rfl, ← pow_mul]; congr 1; omega
  apply BitVec.eq_of_toNat_eq
  rw [bytesNat_take, bytesNat_drop, base, BitVec.toNat_ofNat, BitVec.toNat_ofNat]
  exact Nat.mod_mod _ _

section
variable {s : State} {va : Word} {n : Nat} {as : List Nat}

theorem State.readBulk_plain (plain : Plain s .bulkRd va n as) : s.readBulk va n = .ok (s, as.map s.readByte) := by
  obtain ⟨range, home⟩ := plain.memory
  have first : s.me.access = none := plain.1
  have clean : s.eccByte va (homeBytes as) = none := State.eccByte_of_clean fun l h => (home l h).2.1
  have near : ∀ a ∈ as, s.farDev a = none := fun a h => (home ⟨a, false⟩ (List.mem_map.mpr ⟨a, h, rfl⟩)).2.2
  have up : ((homeBytes as).findSome? fun l => s.failedHome l.ga) = none :=
    List.findSome?_eq_none_iff.mpr fun l h => State.failedHome_of_near (home l h).2.2
  have farOf : s.farOf (locGas (homeBytes as)) = [] := by
    rw [locGas_homeBytes]
    exact List.filter_eq_nil_iff.mpr fun a h => by simp [near a h]
  have bytes : (homeBytes as).map (s.loadByteWith (askByte s.me.asks) s.winKey) = as.map s.readByte := by
    rw [homeBytes, List.map_map]
    exact List.map_congr_left fun a h => by simp [State.loadByteWith, near a h]
  simp only [State.readBulk, State.accessRange_first first, range, clean, first, up, State.needed_homeBytes,
    State.gather_of_near near, farOf, askFailed_nil, State.keepWindowsWith_homeBytes, bytes, Option.isSome_none, Bool.false_eq_true,
    if_false, Bool.not_true]
end

/-! ### The instructions -/

/-- An engine command with its destination, its slot and its operands, none of which is refused. -/
def Commands (s : State) (i : Instr) (d : BitVec 5) (k : BitVec 3) (op : EngOp) : Prop :=
  (∃ f : EngOps, d = f.d ∧ k = f.slot ∧
    ((i = .copy f ∧ op = .copy (s.me.xr f.a) (s.me.xr f.b) (s.me.xr f.e)) ∨
      (i = .fill f ∧ op = .fill (s.me.xr f.a) (s.me.xr f.b) (s.me.xr f.e)) ∨
      (i = .copyx f ∧ (s.me.xr f.e).extractLsb' 48 16 = 0 ∧ (s.me.xr f.e).extractLsb' 32 16 ≠ 0 ∧
        op = .copyx (s.me.xr f.a) (s.me.xr f.b) ((s.me.xr f.e).extractLsb' 0 32).toNat
          ((s.me.xr f.e).extractLsb' 32 16).toNat) ∨
      (i = .copy2 f ∧ Unhindered s ∧ (s.me.xr f.e).toNat % 8 = 0 ∧ ∃ (as : List Nat) (w : Nat → Word),
        Plain s .bulkRd (s.me.xr f.e) 32 as ∧ w = (fun j => BitVec.ofNat 64 (s.readAt as / 2 ^ (64 * j))) ∧
        op = .copy2 (s.me.xr f.a) (s.me.xr f.b) (w 0) (w 1) (w 2) (w 3)))) ∨
  (∃ f : PrefOps, d = f.d ∧ k = f.slot ∧ i = .pref f ∧ op = .pref (s.me.xr f.b) (s.me.xr f.e))
theorem exec_command {s : State} {i : Instr} {d : BitVec 5} {k : BitVec 3} {op : EngOp} (h : Commands s i d k op) :
    exec i s = .next (s.issueEngine i (wordOf i) d k.toNat op) := by
  obtain ⟨f, rfl, rfl, ⟨rfl, rfl⟩ | ⟨rfl, rfl⟩ | ⟨rfl, low, size, rfl⟩ | ⟨rfl, free, aligned, as, w, plain, rfl, rfl⟩⟩ |
    ⟨f, rfl, rfl, rfl, rfl⟩ := h
  · rfl
  · rfl
  · have some : ((s.me.xr f.e).extractLsb' 32 16).toNat ≠ 0 := fun e => size (BitVec.eq_of_toNat_eq e)
    show execCopyx f s = _
    rw [execCopyx, if_neg (not_or.mpr ⟨not_not.mpr low, some⟩)]
  · show execCopy2 f s = _
    rw [execCopy2, State.inOrder_free free, if_neg (not_not.mpr aligned), State.readBulk_plain plain]
    dsimp only
    simp only [word_of_bytes, bytesNat_readByte]
  · rfl

/-- The clauses on a command by the state of its slot (R190-R192). -/
theorem issues_of_command {s : State} {i : Instr} {d : BitVec 5} {k : BitVec 3} {op : EngOp} {c : CtxSlot}
    (command : Commands s i d k op) (slot : c = s.me.ctxSlot k.toNat) :
    if c.bound = true ∧ c.faulted = true then Traps (exec i s) s 0x12 ((wordOf i).setWidth 64)
    else if 256 ≤ (c.issued - c.completed).toNat then Waits (exec i s) s i
    else match s.bindCtx s.cur k.toNat with
    | none => Traps (exec i s) s 0x12 ((wordOf i).setWidth 64)
    | some u => ∀ (b : CtxSlot) (n : Word) (x : Ctx), b = u.me.ctxSlot k.toNat → n = b.issued + 1 → x = u.ctx b.key →
      (∀ y ∈ x.eng, (y.op.segment 0).isSome = true) → ((op.segment 0).isSome = true ∨
        x.eng = [] ∧ x.hart = some s.cur ∧ x.slot = k.toNat ∧ b.key % 2048 < 1024) →
      ∃ t, exec i s = .next t ∧ t = { u with harts := t.harts, ctxs := t.ctxs } ∧
        (∀ h, h ≠ s.cur → t.hart h = s.hart h) ∧
        t.me = { u.me with x := t.me.x, pc := s.me.pc + 4, wait := none, ctxs := t.me.ctxs } ∧ RegSet s.me t.me d n ∧
        (∀ j, t.me.ctxSlot j = if j = k.toNat then
            { b with issued := n, completed := if (op.segment 0).isSome then b.completed else n }
          else u.me.ctxSlot j) ∧
        ∀ key, t.ctx key = if key = b.key then (if (op.segment 0).isSome then
            { x with eng := x.eng ++ [⟨n, op, b.clasp, b.prio, decide (s.me.priv = .user), 0, [], Xfer.none⟩] }
          else { x with eng := [], inFlight := false, completed := n }) else u.ctx key := by
  subst slot
  have run := exec_command command
  split
  next bad =>
    rw [run, State.issueEngine, State.issue_faulted bad]
    exact traps_raise _ _ _
  next fine =>
    split
    next full =>
      rw [run, State.issueEngine, State.issue_full fine full]
      exact waits_park _ _ _
    next room =>
      split
      next none =>
        rw [run, State.issueEngine, State.issue_unbound fine room none]
        exact traps_raise _ _ _
      next u bound =>
        rintro b n x rfl rfl rfl before moves
        obtain ⟨uframe, uothers, ume⟩ := State.bound_bindCtx bound
        have cur : u.cur = s.cur := by rw [uframe]
        have priv : u.me.priv = s.me.priv := by rw [ume]
        rw [← cur] at moves uothers
        obtain ⟨v, done, frame, others, ⟨cs, me⟩, slots, ctxs⟩ := State.completeEmpty_withCommand before moves
        rw [State.issueEngine_bound fine room bound, done] at run
        have curV : v.cur = s.cur := by rw [frame]; exact cur
        rw [priv] at ctxs
        refine ⟨_, run, State.frame_withMe frame _, fun h other => ?_, ?_, ?_, fun j => ?_, ctxs⟩
        · rw [State.hart_withMe_other _ _ (by rw [curV]; exact other), others h (by rw [cur]; exact other),
            uothers h (by rw [cur]; exact other)]
        · rw [State.me_withMe, Hart.result_eq, me, ume]
        · rw [State.me_withMe, me, ume]
          exact fun r => Hart.xr_result _ d r _
        · rw [State.me_withMe, Hart.result_eq]
          exact slots j

/-! ### ECFG (R190, R195, R312) -/

section
variable {f : EcfgOps} {s u : State} {ga : Word}

/-- The slot of an ECFG is given its clasp word and priority. -/
def State.configure (s : State) (f : EcfgOps) (ga : Word) : State :=
  match s.bindCtx s.cur f.slot.toNat with
  | none => s.raise causeEngctx ((wordOf (.ecfg f)).setWidth 64)
  | some u =>
    u.withMe fun t => (t.setCtxSlot f.slot.toNat
      { u.me.ctxSlot f.slot.toNat with clasp := ga, prio := (s.me.xr f.b).extractLsb' 0 4 }).result f.d (u.me.ctxSlot f.slot.toNat).issued
theorem exec_ecfg_reserved (set : (s.me.xr f.b).extractLsb' 4 60 ≠ 0) :
    exec (.ecfg f) s = .next (s.raise causeIllegal ((wordOf (.ecfg f)).setWidth 64)) := by
  show execEcfg f s = _
  rw [execEcfg]
  exact congrArg Host.Outcome.next (if_pos set)
variable (clear : (s.me.xr f.b).extractLsb' 4 60 = 0)
include clear
theorem exec_ecfg_none (none : s.me.xr f.a = 0) : exec (.ecfg f) s = .next (s.configure f 0) := by
  show execEcfg f s = _
  rw [execEcfg]
  exact congrArg Host.Outcome.next ((if_neg (not_not.mpr clear)).trans (if_pos none))
theorem exec_ecfg_stop {e : Stop} (some : s.me.xr f.a ≠ 0)
    (refused : s.checkRange (s.party s.cur) .wr false (s.me.xr f.a) 16 = .error e) : exec (.ecfg f) s = .next (s.halt e) := by
  show execEcfg f s = _
  rw [execEcfg]
  dsimp only
  rw [if_neg (not_not.mpr clear), if_neg some, refused]
variable {locs : List Loc} (some : s.me.xr f.a ≠ 0)
  (checked : s.checkRange (s.party s.cur) .wr false (s.me.xr f.a) 16 = .ok locs)
include some checked
theorem exec_ecfg_kind {j : Nat} (other : locs.findIdx? (fun l => gaHost l.ga || decide (gaKind l.ga ≠ 2)) = .some j) :
    exec (.ecfg f) s = .next (s.raise causePerm (s.me.xr f.a + BitVec.ofNat 64 j)) := by
  show execEcfg f s = _
  rw [execEcfg]
  dsimp only
  rw [if_neg (not_not.mpr clear), if_neg some, checked]
  dsimp only
  rw [other]
variable (spad : ∀ l ∈ locs, gaHost l.ga = false ∧ gaKind l.ga = 2)
include spad
theorem exec_ecfg_spad : exec (.ecfg f) s = .next (if (s.me.xr f.a).toNat % 16 ≠ 0 then s.raise causeAlign (s.me.xr f.a)
    else s.configure f (BitVec.ofNat 64 (locs.headD ⟨0, false⟩).ga)) := by
  show execEcfg f s = _
  rw [execEcfg]
  dsimp only
  rw [if_neg (not_not.mpr clear), if_neg some, checked]
  dsimp only
  rw [List.findIdx?_eq_none_iff.mpr fun l h => by rw [(spad l h).1, (spad l h).2]; rfl]
  rfl
end

/-- The clause on an ECFG whose clasp word is accepted. -/
theorem configures {f : EcfgOps} {s : State} {ga : Word} (run : exec (.ecfg f) s = .next (s.configure f ga)) :
    match s.bindCtx s.cur f.slot.toNat with
    | none => Traps (exec (.ecfg f) s) s 0x12 ((wordOf (.ecfg f)).setWidth 64)
    | some u => ∃ t, exec (.ecfg f) s = .next t ∧ OnlyMe u t ∧
        t.me = { u.me with x := t.me.x, pc := s.me.pc + 4, wait := none, ctxs := t.me.ctxs } ∧
        RegSet u.me t.me f.d (u.me.ctxSlot f.slot.toNat).issued ∧
        ∀ j, t.me.ctxSlot j = if j = f.slot.toNat then
          { u.me.ctxSlot j with clasp := ga, prio := (s.me.xr f.b).extractLsb' 0 4 } else u.me.ctxSlot j := by
  rw [State.configure] at run
  split
  next none =>
    rw [none] at run
    rw [run]
    exact traps_raise _ _ _
  next u bound =>
    obtain ⟨-, -, ume⟩ := State.bound_bindCtx bound
    rw [bound] at run
    have pc : u.me.pc = s.me.pc := by rw [ume]
    refine ⟨_, run, onlyMe_withMe _ _, ?_, ?_, fun j => ?_⟩ <;> rw [State.me_withMe]
    · rw [Hart.result_eq, ← pc]
      rfl
    · exact fun r => Hart.xr_result _ f.d r _
    · rw [Hart.result_eq]
      refine (Hart.ctxSlot_setCtxSlot ..).trans ?_
      by_cases same : j = f.slot.toNat
      · rw [if_pos same, if_pos same, same]
      · rw [if_neg same, if_neg same]

/-! ### ERES (R195, R312) -/

section
variable {f : RrSlot} {s : State} {k : Nat} {c : CtxSlot} {x : Ctx}

/-- A context whose fault is cleared. -/
def Ctx.resumed (x : Ctx) : Ctx := { x with
  faulted := false
  rec0 := x.rec0 &&& ~~~ (1#64 <<< 10)
  eng := x.eng.map fun c => { c with xfer := Xfer.none } }
/-- The fault of a slot of the executing hart and of its context is cleared. -/
def State.resumed (s : State) (k : Nat) : State :=
  (s.setCtx (s.me.ctxSlot k).key (s.ctx (s.me.ctxSlot k).key).resumed).withMe fun t =>
    t.setCtxSlot k { t.ctxSlot k with faulted := false }
theorem State.me_resumed : (s.resumed k).me = s.me.setCtxSlot k { s.me.ctxSlot k with faulted := false } :=
  State.me_withMe (s.setCtx _ _) _
theorem State.hart_resumed {h : Nat} (other : h ≠ s.cur) : (s.resumed k).hart h = s.hart h :=
  State.hart_withMe_other (s.setCtx _ _) _ other
theorem State.ctx_resumed (j : Nat) : (s.resumed k).ctx j =
    if j = (s.me.ctxSlot k).key then (s.ctx (s.me.ctxSlot k).key).resumed else s.ctx j := State.ctx_setCtx ..

theorem exec_eres_refused (bad : s.me.priv = .user ∨ (s.me.ctxSlot f.slot.toNat).bound = false ∨
    (s.me.ctxSlot f.slot.toNat).faulted = false) : exec (.eres f) s = .next (s.raise causeIllegal ((wordOf (.eres f)).setWidth 64)) := by
  show execEres f s = _
  rw [execEres]
  refine congrArg Host.Outcome.next (if_pos ?_)
  obtain h | h | h := bad <;> rw [h] <;> simp
theorem exec_eres (priv : s.me.priv = .supervisor) (bound : (s.me.ctxSlot f.slot.toNat).bound = true)
    (faulted : (s.me.ctxSlot f.slot.toNat).faulted = true) : exec (.eres f) s = .next
      ((if (s.me.xr f.a).getLsbD 0 = true then ((s.resumed f.slot.toNat).completeEngine (s.me.ctxSlot f.slot.toNat).key).completeEmpty
          (s.me.ctxSlot f.slot.toNat).key else s.resumed f.slot.toNat).withMe fun t =>
        t.result f.d (t.ctxSlot f.slot.toNat).completed) := by
  have xr : (s.resumed f.slot.toNat).me.xr f.a = s.me.xr f.a := by rw [State.me_resumed]; rfl
  rw [← xr]
  show execEres f s = _
  rw [execEres]
  exact congrArg Host.Outcome.next (if_neg (by rw [priv, bound, faulted]; decide))
/-- The oldest command of a resumed context is complete, and none that is left is empty. -/
theorem State.completed_resumed {y : EngCmd} {n : Word} (first : (s.ctx (s.me.ctxSlot k).key).eng.head? = some y) (num : n = y.num)
    (rest : ∀ y ∈ (s.ctx (s.me.ctxSlot k).key).eng.tail, (y.op.segment 0).isSome = true)
    (hart : (s.ctx (s.me.ctxSlot k).key).hart = some s.cur) (slot : (s.ctx (s.me.ctxSlot k).key).slot = k)
    (half : (s.me.ctxSlot k).key % 2048 < 1024) :
    ∃ v, ((s.resumed k).completeEngine (s.me.ctxSlot k).key).completeEmpty (s.me.ctxSlot k).key = v ∧
      v = { s with harts := v.harts, ctxs := v.ctxs } ∧ (∀ h, h ≠ s.cur → v.hart h = s.hart h) ∧
      v.me = (s.resumed k).me.setCtxSlot k { (s.resumed k).me.ctxSlot k with completed := n } ∧
      ∀ j, v.ctx j = if j = (s.me.ctxSlot k).key then { (s.ctx (s.me.ctxSlot k).key).resumed with
        eng := (s.ctx (s.me.ctxSlot k).key).eng.tail.map fun c => { c with xfer := Xfer.none }
        inFlight := false
        completed := n } else s.ctx j := by
  subst num
  have ctx := State.ctx_resumed (s := s) (k := k) (s.me.ctxSlot k).key
  rw [if_pos rfl] at ctx
  have eng : ((s.resumed k).ctx (s.me.ctxSlot k).key).eng = { y with xfer := Xfer.none } ::
      (s.ctx (s.me.ctxSlot k).key).eng.tail.map fun c => { c with xfer := Xfer.none } := by
    rw [ctx, Ctx.resumed]
    dsimp only
    rw [← List.cons_head?_tail first]
    rfl
  obtain ⟨frame, others, me, ctxs⟩ := State.completeEngine_own (k := k) eng (by rw [ctx]; exact hart) (by rw [ctx]; exact slot) half
  refine ⟨_, State.completeEmpty_of_segments fun c h => ?_, ?_, fun h other => (others h other).trans (State.hart_resumed other), me,
    fun j => ?_⟩
  · rw [ctxs, if_pos rfl] at h
    obtain ⟨z, isIn, rfl⟩ := List.mem_map.mp h
    exact rest z isIn
  · rw [frame]
    rfl
  · rw [ctxs, ctx]
    by_cases same : j = (s.me.ctxSlot k).key
    · rw [if_pos same, if_pos same]
    · rw [if_neg same, if_neg same, State.ctx_resumed, if_neg same]

/-- The clause on an ERES of a faulted slot. -/
theorem resumes {n : Word} {skip : Bool} (priv : s.me.priv = .supervisor) (bound : (s.me.ctxSlot f.slot.toNat).bound = true)
    (faulted : (s.me.ctxSlot f.slot.toNat).faulted = true)
    (skips : (s.me.xr f.a).getLsbD 0 = false ∧ skip = false ∧ n = (s.me.ctxSlot f.slot.toNat).completed ∨
      (s.me.xr f.a).getLsbD 0 = true ∧ skip = true ∧
        (∃ y, (s.ctx (s.me.ctxSlot f.slot.toNat).key).eng.head? = some y ∧ n = y.num) ∧
        (∀ y ∈ (s.ctx (s.me.ctxSlot f.slot.toNat).key).eng.tail, (y.op.segment 0).isSome = true) ∧
        (s.ctx (s.me.ctxSlot f.slot.toNat).key).hart = some s.cur ∧
        (s.ctx (s.me.ctxSlot f.slot.toNat).key).slot = f.slot.toNat ∧ (s.me.ctxSlot f.slot.toNat).key % 2048 < 1024) :
    ∃ t, exec (.eres f) s = .next t ∧ t = { s with harts := t.harts, ctxs := t.ctxs } ∧
      (∀ h, h ≠ s.cur → t.hart h = s.hart h) ∧ RegSet s.me t.me f.d n ∧
      t.me = { s.me with x := t.me.x, pc := s.me.pc + 4, wait := none, ctxs := t.me.ctxs } ∧
      (∀ j, t.me.ctxSlot j = if j = f.slot.toNat then { s.me.ctxSlot f.slot.toNat with faulted := false, completed := n }
        else s.me.ctxSlot j) ∧
      ∀ key, t.ctx key = if key = (s.me.ctxSlot f.slot.toNat).key then { s.ctx (s.me.ctxSlot f.slot.toNat).key with
          faulted := false
          rec0 := (s.ctx (s.me.ctxSlot f.slot.toNat).key).rec0 &&& ~~~ 0x400
          inFlight := if skip then false else (s.ctx (s.me.ctxSlot f.slot.toNat).key).inFlight
          completed := if skip then n else (s.ctx (s.me.ctxSlot f.slot.toNat).key).completed
          eng := ((if skip then (s.ctx (s.me.ctxSlot f.slot.toNat).key).eng.tail
            else (s.ctx (s.me.ctxSlot f.slot.toNat).key).eng).map fun y => { y with xfer := Xfer.none }) } else s.ctx key := by
  have run := exec_eres priv bound faulted
  obtain ⟨bit, rfl, rfl⟩ | ⟨bit, rfl, ⟨y, first, num⟩, rest, hart, slot, half⟩ := skips
  · rw [if_neg (by rw [bit]; exact Bool.false_ne_true)] at run
    have done : ((s.resumed f.slot.toNat).me.ctxSlot f.slot.toNat).completed = (s.me.ctxSlot f.slot.toNat).completed := by
      rw [State.me_resumed, Hart.ctxSlot_setCtxSlot, if_pos rfl]
    refine ⟨_, run, State.frame_withMe rfl _, fun h other => ?_, ?_, ?_, fun j => ?_, State.ctx_resumed⟩
    · exact (State.hart_withMe_other (s.resumed _) _ other).trans (State.hart_resumed other)
    all_goals rw [State.me_withMe, done, State.me_resumed]
    · exact fun r => Hart.xr_result _ f.d r _
    · rw [Hart.result_eq]
      rfl
    · rw [Hart.result_eq]
      exact Hart.ctxSlot_setCtxSlot ..
  · obtain ⟨v, completed, frame, others, me, ctxs⟩ := State.completed_resumed first num rest hart slot half
    rw [if_pos bit, completed] at run
    have done : (v.me.ctxSlot f.slot.toNat).completed = n := by rw [me, Hart.ctxSlot_setCtxSlot, if_pos rfl]
    have cur : v.cur = s.cur := by rw [frame]
    refine ⟨_, run, State.frame_withMe frame _, fun h other => ?_, ?_, ?_, fun j => ?_, ctxs⟩
    · exact (State.hart_withMe_other v _ (by rw [cur]; exact other)).trans (others h other)
    all_goals rw [State.me_withMe, done, me, State.me_resumed]
    · exact fun r => Hart.xr_result _ f.d r _
    · rw [Hart.result_eq]
      rfl
    · rw [Hart.result_eq]
      refine (Hart.ctxSlot_setCtxSlot ..).trans ?_
      rw [Hart.ctxSlot_setCtxSlot, Hart.ctxSlot_setCtxSlot, if_pos rfl]
      split <;> rfl
end

end Sys2Proof.Machine

open Sys2Proof Sys2Proof.Machine

/-- Settles O42: a command by the state of its slot, then the checks of COPYX, COPY2 and ECFG, and ERES. -/
theorem engineInstructionsQueueAndConfigure : Obligations.EngineInstructionsQueueAndConfigure := by
  unfold Obligations.EngineInstructionsQueueAndConfigure
  refine ⟨fun s i d k op c command slot => issues_of_command command slot,
    fun f s => ⟨fun bad => ?_, fun held => ?_, fun free odd => ?_, fun c v free first aligned refused => ?_⟩,
    fun f s va at' => ⟨fun set => ?_, fun clear => ⟨fun c v some refused => ?_, fun locs some checked => ⟨fun j other => ?_, fun spad odd => ?_⟩,
      fun ga accepted => ?_⟩⟩,
    fun f s => writes_result s f.d _,
    fun f s c x n skip slot ctx => ⟨fun bad => ?_, fun priv bound faulted skips => ?_⟩⟩
  · show Traps (execCopyx f s) s _ _
    rw [execCopyx, if_pos (bad.imp id fun e => by rw [e]; rfl)]
    exact traps_raise _ _ _
  · exact held_inOrder rfl (by simpa [Unhindered, or_iff_not_imp_left] using held)
  · show Traps (execCopy2 f s) s _ _
    rw [execCopy2, State.inOrder_free free, if_pos odd]
    exact traps_raise _ _ _
  · show Traps (execCopy2 f s) s _ _
    rw [execCopy2, State.inOrder_free free, if_neg (not_not.mpr aligned), State.readBulk, State.accessRange_first first, refused]
    exact traps_raise _ _ _
  · rw [exec_ecfg_reserved set]
    exact traps_raise _ _ _
  · rw [exec_ecfg_stop clear (at' ▸ some) (at' ▸ refused)]
    exact traps_raise _ _ _
  · rw [exec_ecfg_kind clear (at' ▸ some) (at' ▸ checked) other, at']
    exact traps_raise _ _ _
  · rw [exec_ecfg_spad clear (at' ▸ some) (at' ▸ checked) spad, if_pos (at' ▸ odd), at']
    exact traps_raise _ _ _
  · obtain ⟨none, rfl⟩ | ⟨some, aligned, l, rest, checked, rfl, spad⟩ := accepted
    · exact configures (exec_ecfg_none clear (at' ▸ none))
    · refine configures ?_
      rw [exec_ecfg_spad clear (at' ▸ some) (at' ▸ checked) spad, if_neg (not_not.mpr (at' ▸ aligned))]
      rfl
  · subst slot
    rw [exec_eres_refused bad]
    exact traps_raise _ _ _
  · subst slot ctx
    exact resumes priv bound faulted skips
end

section
/-!
SUPPORT. Segments of engine commands (06_memory_isa R191, R194, R196; 15_io_dies R309-R311): what starting, performing and faulting one
changes.
-/

namespace Sys2Proof.Machine

section
variable {s t u : State} {key h : Nat} {g : CtxSlot → CtxSlot}

/-! ### A hart's slot follows its context -/

theorem State.frame_withSlot (s : State) (key : Nat) (g : CtxSlot → CtxSlot) :
    s.withSlot key g = { s with harts := (s.withSlot key g).harts } := by
  unfold State.withSlot
  split <;> rfl
theorem State.ctx_withSlot (key j : Nat) (g : CtxSlot → CtxSlot) : (s.withSlot key g).ctx j = s.ctx j := by
  rw [State.frame_withSlot]; rfl
theorem State.hart_withSlot (hart : (s.ctx key).hart = some h) (half : key % 2048 < 1024) : (s.withSlot key g).hart h =
    (s.hart h).setCtxSlot (s.ctx key).slot (g ((s.hart h).ctxSlot (s.ctx key).slot)) := by
  rw [State.withSlot, hart, if_neg (Nat.not_le.mpr half)]
  exact State.hart_setHart_same ..

/-- What the completion of the oldest command leaves: its context, and its hart's slot. -/
theorem State.completeEngine_facts {c : EngCmd} {rest : List EngCmd} (first : (s.ctx key).eng = c :: rest) :
    (s.completeEngine key).mem = s.mem ∧ (s.completeEngine key).canon = s.canon ∧
      (s.completeEngine key).ctx key = { s.ctx key with eng := rest, inFlight := false, completed := c.num } ∧
      ∀ h, (s.ctx key).hart = some h → key % 2048 < 1024 →
        (((s.completeEngine key).hart h).ctxSlot (s.ctx key).slot).completed = c.num := by
  let v := s.setCtx key { s.ctx key with eng := rest, inFlight := false }
  let w := v.setCtx key { v.ctx key with completed := c.num }
  have ctxW : w.ctx key = { s.ctx key with eng := rest, inFlight := false, completed := c.num } := by
    rw [State.ctx_setCtx, if_pos rfl, show v.ctx key = _ from State.ctx_setCtx .., if_pos rfl]
  have done : s.completeEngine key = w.withSlot key fun k => { k with completed := c.num } := by
    rw [State.completeEngine, first]
    rfl
  have frame := w.frame_withSlot key fun k => { k with completed := c.num }
  rw [← done] at frame
  refine ⟨by rw [frame]; rfl, by rw [frame]; rfl, ?_, fun h hart half => ?_⟩
  · rw [done, State.ctx_withSlot, ctxW]
  · rw [done, State.hart_withSlot (by rw [ctxW]; exact hart) half, ctxW, Hart.ctxSlot_setCtxSlot, if_pos rfl]

/-! ### The fault of an engine context (R196, R311) -/

/-- The context of an engine has faulted: its record, and what its hart sees. -/
theorem State.faultCtx_facts (hart : (s.ctx key).hart = some h) (half : key % 2048 < 1024) (cause : Byte) (side : Nat)
    (issue va : Word) (perf : Nat) : ∃ x, (s.faultCtx key cause side 0 issue va perf).ctx key = x ∧
      (s.faultCtx key cause side 0 issue va perf).mem = s.mem ∧ x.faulted = true ∧ x.recIssue = issue ∧ x.recVaddr = va ∧
      x.rec0 = BitVec.ofNat 64 (cause.toNat + side * 2 ^ 8 + 2 ^ 10) ∧ x.recPerf = BitVec.ofNat 64 perf ∧
      ((s.faultCtx key cause side 0 issue va perf).hart h).engFault = true ∧
      (((s.faultCtx key cause side 0 issue va perf).hart h).ctxSlot (s.ctx key).slot).faulted = true := by
  let v := s.setCtx key { s.ctx key with
    faulted := true
    inFlight := false
    parkSince := none
    rec0 := BitVec.ofNat 64 (cause.toNat + side * 2 ^ 8 + 2 ^ 10)
    recIssue := issue
    recVaddr := va
    recPerf := BitVec.ofNat 64 perf }
  let w := v.withSlot key fun k => { k with faulted := true }
  have frame : w = { v with harts := w.harts } := v.frame_withSlot key _
  have ctxV : v.ctx key = _ := (State.ctx_setCtx s key key _).trans (if_pos rfl)
  have faulted : s.faultCtx key cause side 0 issue va perf = w.setHart h { w.hart h with engFault := true } := by
    unfold State.faultCtx
    dsimp only
    rw [Nat.zero_mul, Nat.add_zero]
    split
    next none => exact nomatch hart.symm.trans none
    next k own =>
      obtain rfl : h = k := Option.some.inj (hart.symm.trans own)
      rw [if_neg (by simpa using half)]
  have mine : w.hart h = _ := State.hart_withSlot (by rw [ctxV]; exact hart) half
  rw [faulted, State.hart_setHart_same]
  refine ⟨v.ctx key, (State.ctx_withSlot key key _), by rw [State.setHart_mem, frame]; rfl, ?_⟩
  rw [ctxV]
  refine ⟨rfl, rfl, rfl, rfl, rfl, rfl, ?_⟩
  show ((w.hart h).ctxSlot (s.ctx key).slot).faulted = true
  rw [mine, ctxV, Hart.ctxSlot_setCtxSlot, if_pos rfl]

/-! ### Clasp words (R194) -/

variable {ga n : Nat}

/-- The update of a clasp word writes bytes of it. -/
theorem State.claspAdd_writes (s : State) (ga n : Nat) : s.claspAdd ga n = s ∨
    (∃ a m v, s.claspAdd ga n = s.writeGa a m v ∧ ∀ b ∈ gaRange a m, b ∈ gaRange ga 16) ∨
    ∃ v w, s.claspAdd ga n = (s.writeGa (ga + 4) 4 v).writeGa (ga + 12) 4 w := by
  unfold State.claspAdd
  dsimp only
  split_ifs
  · exact .inl rfl
  · exact .inr (.inl ⟨_, _, _, rfl, fun b h => by rw [mem_gaRange] at h ⊢; omega⟩)
  · exact .inr (.inl ⟨_, _, _, rfl, fun b h => by rw [mem_gaRange] at h ⊢; omega⟩)
  · exact .inr (.inr ⟨_, _, rfl⟩)
  · exact .inr (.inr ⟨_, _, rfl⟩)
theorem State.frame_claspAdd (s : State) (ga n : Nat) : s.claspAdd ga n = { s with mem := (s.claspAdd ga n).mem } := by
  obtain eq | ⟨a, m, v, eq, -⟩ | ⟨v, w, eq⟩ := s.claspAdd_writes ga n <;> rw [eq]
  · exact State.writeAt_eq ..
  · exact State.mem_trans (State.writeAt_eq ..) (State.writeAt_eq ..)
theorem State.readByte_claspAdd {a : Nat} (apart : ∀ b ∈ gaRange ga 16, s.canon b ≠ s.canon a) :
    (s.claspAdd ga n).readByte a = s.readByte a := by
  obtain eq | ⟨b, m, v, eq, inside⟩ | ⟨v, w, eq⟩ := s.claspAdd_writes ga n <;> rw [eq]
  · exact State.readByte_writeAt_other _ s _ _ fun c h => apart c (inside c h)
  · have part (o : Nat) (low : o + 4 ≤ 16) : ∀ c ∈ gaRange (ga + o) 4, s.canon c ≠ s.canon a := fun c h =>
      apart c (by rw [mem_gaRange] at h ⊢; omega)
    rw [State.writeGa, State.readByte_writeAt_other _ _ _ _ (by rw [State.canon_writeGa]; exact part 12 (by decide))]
    exact State.readByte_writeAt_other _ s _ _ (part 4 (by decide))
theorem State.mem_claspAdd_congr (mem : s.mem = t.mem) (canon : s.canon = t.canon) : (s.claspAdd ga n).mem = (t.claspAdd ga n).mem := by
  have read : s.readGa ga 16 = t.readGa ga 16 := State.readAt_congr mem canon _
  have write (a m v : Nat) : (s.writeGa a m v).mem = (t.writeGa a m v).mem := State.mem_writeAt_congr _ _ mem canon
  unfold State.claspAdd
  dsimp only
  rw [read]
  split_ifs
  · exact mem
  · exact write _ _ _
  · exact write _ _ _
  · exact State.mem_writeGa_writeGa mem canon _ _ _ _ _ _
  · exact State.mem_writeGa_writeGa mem canon _ _ _ _ _ _

/-! ### The end of a segment (R309) -/

/-- The clasp word that a segment of a command updates; PREF has none. -/
def EngCmd.claspAt (c : EngCmd) : Nat :=
  match c.op with
  | .pref _ _ => 0
  | _ => c.clasp.toNat
/-- A command with a further segment performed. -/
def EngCmd.performed (c : EngCmd) (n : Nat) : EngCmd := { c with perf := c.perf + n, xfer := Xfer.none }
/-- The head of a context has performed a segment, and is complete when it was the last. -/
def State.ended (s : State) (key : Nat) (c : EngCmd) (n : Nat) : State :=
  if (c.op.segment (c.perf + n)).isNone then ((s.setHead key (c.performed n) false).completeEngine key).completeEmpty key
  else s.setHead key (c.performed n) false
theorem State.endSegment_near {c : EngCmd} (first : c.xfer.clasped = false) (near : c.claspAt ≠ 0 → s.farDev c.claspAt = none) :
    s.endSegment key c n = if c.claspAt = 0 then s.ended key c n else (s.claspAdd c.claspAt n).ended key c n := by
  unfold State.endSegment
  simp only [first, Bool.or_false, decide_eq_true_eq]
  show (if c.claspAt = 0 then s.ended key c n else match s.farDev c.claspAt with
    | none => (s.claspAdd c.claspAt n).ended key c n
    | some dev => _) = _
  split_ifs with zero
  · rfl
  · rw [near zero]

/-- What the end of a segment leaves of memory, of the context and of its hart's slot. -/
theorem State.ended_facts {c head : EngCmd} {rest : List EngCmd} (eng : (s.ctx key).eng = head :: rest) (half : key % 2048 < 1024)
    (moves : ∀ y ∈ rest, (y.op.segment 0).isSome = true) : (s.ended key c n).mem = s.mem ∧ (s.ended key c n).canon = s.canon ∧
      if (c.op.segment (c.perf + n)).isSome then ((s.ended key c n).ctx key).eng = c.performed n :: rest
      else ((s.ended key c n).ctx key).eng = rest ∧ ((s.ended key c n).ctx key).completed = c.num ∧
        ∀ h, (s.ctx key).hart = some h → (((s.ended key c n).hart h).ctxSlot (s.ctx key).slot).completed = c.num := by
  have head : (s.setHead key (c.performed n) false).ctx key =
      { s.ctx key with eng := c.performed n :: rest, inFlight := false } := by
    rw [State.setHead, State.ctx_setCtx, if_pos rfl, eng]
    rfl
  unfold State.ended
  by_cases more : (c.op.segment (c.perf + n)).isSome = true
  · rw [if_neg (by simpa [Option.isSome_iff_ne_none] using more), if_pos more, head]
    exact ⟨rfl, rfl, rfl⟩
  · obtain ⟨mem, canon, ctx, slot⟩ := State.completeEngine_facts (s := s.setHead key (c.performed n) false) (key := key)
      (c := c.performed n) (rest := rest) (by rw [head])
    have stays : ((s.setHead key (c.performed n) false).completeEngine key).completeEmpty key =
        (s.setHead key (c.performed n) false).completeEngine key :=
      State.completeEmpty_of_segments fun y h => moves y (by rw [ctx] at h; exact h)
    rw [if_pos (by simpa using more), if_neg more, stays, ctx]
    rw [head] at slot
    exact ⟨mem, canon, rfl, rfl, fun h hart => slot h hart half⟩

/-! ### A segment of memory of this package (R191, R309) -/

theorem State.frame_writes (l : List (Loc × Byte)) (s : State) : l.foldl (fun (u : State) e => u.writeByte e.1.ga e.2) s =
    { s with mem := (l.foldl (fun (u : State) e => u.writeByte e.1.ga e.2) s).mem } := by
  induction l generalizing s with
  | nil => rfl
  | cons e l ih =>
    rw [List.foldl_cons, ih]
    rfl
theorem State.readByte_writes {a : Nat} (l : List (Loc × Byte)) (s : State) (apart : ∀ e ∈ l, s.canon e.1.ga ≠ s.canon a) :
    (l.foldl (fun (u : State) e => u.writeByte e.1.ga e.2) s).readByte a = s.readByte a := by
  induction l generalizing s with
  | nil => rfl
  | cons e l ih =>
    rw [List.foldl_cons, ih (s.writeByte e.1.ga e.2) fun x h => apart x (List.mem_cons_of_mem _ h), State.readByte_writeByte,
      if_neg fun same => apart e List.mem_cons_self same.symm]
theorem State.frame_countHost (s : State) (key : Nat) (gas : List Nat) : s.countHost key gas =
    { s with harts := (s.countHost key gas).harts } := by
  unfold State.countHost
  split
  · rfl
  · split <;> rfl
/-- Bytes of this package and of the host are written at once, and nothing is sent. -/
theorem State.xferPut_near {x : Xfer} (tgt : List Loc) (bytes : List Byte) (near : ∀ a ∈ locGas tgt, s.farDev a = none) :
    ∃ v, s.xferPut key x ((locGas tgt).zip bytes) = (v, { x with sent := true }) ∧
      v = { s with mem := v.mem, harts := v.harts, poison := v.poison } ∧
      v.mem = ((tgt.zip bytes).foldl (fun (u : State) e => u.writeByte e.1.ga e.2) s).mem := by
  have inTgt (b : Nat × Byte) (h : b ∈ (locGas tgt).zip bytes) : s.farDev b.1 = none := near _ (List.of_mem_zip h).1
  have home : ((locGas tgt).zip bytes).filter (fun b => (s.farDev b.1).isNone) = (locGas tgt).zip bytes :=
    List.filter_eq_self.mpr fun b h => by rw [inTgt b h]; rfl
  have written : ((locGas tgt).zip bytes).foldl (fun (s : State) b => s.writeByte b.1 b.2) s =
      (tgt.zip bytes).foldl (fun (u : State) e => u.writeByte e.1.ga e.2) s := by
    rw [locGas, List.zip_map_left, List.foldl_map]
    rfl
  unfold State.xferPut
  dsimp only
  rw [home, written]
  generalize put : State.countHost _ key _ = v
  have frame : v = { s with mem := v.mem, harts := v.harts, poison := v.poison } := by
    rw [← put, State.frame_countHost, State.frame_writes]
  have mem : v.mem = ((tgt.zip bytes).foldl (fun (u : State) e => u.writeByte e.1.ga e.2) s).mem := by
    rw [← put, State.frame_countHost]
  have none (a : Nat) (h : a ∈ ((locGas tgt).zip bytes).map (·.1)) : v.farDev a = none := by
    obtain ⟨b, isIn, rfl⟩ := List.mem_map.mp h
    rw [frame]
    exact inTgt b isIn
  rw [State.farRuns_of_near none]
  exact ⟨v, rfl, frame, mem⟩

theorem QEntry.stores_of_done {e : QEntry} (done : e.done = true) : e.stores = false := by
  rw [QEntry.stores, done]
  rfl
/-- No store of a drained hart is awaited. -/
theorem State.storesDone_drained {num : Word} {kind : Nat → Bool} (drained : ∀ h, (s.ctx key).hart = some h →
    (s.hart h).nb = [] ∧ (s.hart h).drained = true ∧ (s.hart h).vrf = false) : s.storesDone key num kind = (s, true) := by
  unfold State.storesDone
  split
  next => rfl
  next h own =>
    obtain ⟨noNb, done, noImage⟩ := drained h own
    have none : (s.hart h).queue.any (QEntry.mayStore kind) = false := List.any_eq_false.mpr fun e isIn => by
      rw [QEntry.mayStore, QEntry.stores_of_done ((Hart.drained_iff _).mp done e isIn)]
      exact Bool.false_ne_true
    dsimp only
    rw [noNb, List.filter_nil, List.foldl_nil, noNb, none, noImage]
    rfl
theorem State.xferAsk_near {x : Xfer} {gas : List Nat} (near : ∀ a ∈ gas, s.farDev a = none) :
    s.xferAsk key x gas = (s, x, true) := by
  rw [State.xferAsk, State.farRuns_of_near near]
  rfl
theorem State.srcByte_near {c : EngCmd} {a : Nat} (fresh : c.wrote = []) (near : s.farDev a = none) :
    s.srcByte c a = s.readByte a := by
  rw [State.srcByte, fresh]
  show s.xferByte c.xfer a = _
  rw [State.xferByte, near]
  rfl

/-- A started segment of memory of this package is performed at once: its bytes are written, and it ends. -/
theorem State.performSegment_near {c : EngCmd} {rest : List EngCmd} {mv : Move} {bytes : List Byte}
    (eng : (s.ctx key).eng = c :: rest)
    (drained : ∀ h, (s.ctx key).hart = some h → (s.hart h).nb = [] ∧ (s.hart h).drained = true ∧ (s.hart h).vrf = false)
    (fresh : c.wrote = []) (unsent : c.xfer = Xfer.none) (segment : s.segment (s.ctx key) c = some (.ok mv))
    (size : ((c.op.segment c.perf).map fun g => g.bytes) = some n)
    (near : ∀ a ∈ mv.need ++ locGas mv.src ++ locGas mv.tgt, s.farDev a = none) (whole : mv.tgt = [] → mv.need = [])
    (data : bytes = (if mv.src.isEmpty then mv.lit else mv.src.map fun l => s.readByte l.ga)) :
    ∃ (p : State) (wrote : List (Nat × Byte)), s.performSegment key = p.endSegment key { c with wrote := wrote, xfer := { Xfer.none with sent := true } } n ∧
      p = { s with mem := p.mem, harts := p.harts, poison := p.poison, fresh := p.fresh } ∧
      p.mem = ((mv.tgt.zip bytes).foldl (fun (u : State) e => u.writeByte e.1.ga e.2) s).mem := by
  have nearNeed (a : Nat) (h : a ∈ mv.need) : s.farDev a = none :=
    near a (List.mem_append_left _ (List.mem_append_left _ h))
  have nearSrc (l : Loc) (h : l ∈ mv.src) : s.farDev l.ga = none :=
    near _ (List.mem_append_left _ (List.mem_append_right _ (List.mem_map_of_mem h)))
  have source : (if mv.src.isEmpty then mv.lit else mv.src.map fun l => s.srcByte c l.ga) = bytes := by
    rw [data, List.map_congr_left fun l h => State.srcByte_near fresh (nearSrc l h)]
  have sends : (mv.tgt.isEmpty && !mv.need.isEmpty) = false := by
    cases tgt : mv.tgt with
    | nil => rw [whole tgt]; rfl
    | cons l tgt => rfl
  obtain ⟨v, put, frame, mem⟩ := s.xferPut_near (key := key) (x := Xfer.none) mv.tgt bytes
    fun a h => near a (List.mem_append_right _ h)
  refine ⟨{ v with fresh := v.fresh + 1 }, s.overwritten c mv.tgt, ?_, by rw [frame], mem⟩
  unfold State.performSegment
  rw [State.storesDone_drained drained]
  dsimp only
  rw [eng]
  dsimp only
  rw [segment]
  dsimp only
  rw [State.xferAsk_near nearNeed]
  dsimp only
  rw [show { c with xfer := c.xfer } = c from rfl, sends, source, unsent, put]
  rw [show ((c.op.segment c.perf).map fun g => g.bytes).getD 0 = n by rw [size]; rfl]
  rfl

theorem State.readByte_of_same {a : Nat} (mem : s.mem = t.mem) (canon : s.canon = t.canon) : s.readByte a = t.readByte a := by
  rw [State.readByte, State.readByte, mem, canon]
/-- PREF moves nothing. -/
theorem State.segment_pref {x : Ctx} {c : EngCmd} {mv : Move} {a l : Word} (op : c.op = .pref a l)
    (segment : s.segment x c = some (.ok mv)) : mv.tgt = [] := by
  unfold State.segment at segment
  rw [op] at segment
  dsimp only at segment
  split at segment
  · exact nomatch segment
  · split at segment
    · exact nomatch segment
    · obtain rfl := Except.ok.inj (Option.some.inj segment)
      rfl
theorem EngCmd.claspAt_eq {c : EngCmd} (moves : ∀ a l, c.op ≠ .pref a l) : c.claspAt = c.clasp.toNat := by
  unfold EngCmd.claspAt
  split
  next a l op => exact absurd op (moves a l)
  next => rfl
theorem EngCmd.claspAt_cases (c : EngCmd) : c.claspAt = 0 ∨ c.claspAt = c.clasp.toNat := by
  unfold EngCmd.claspAt
  split
  next => exact .inl rfl
  next => exact .inr rfl

/-! ### Errors of a host access (R311) -/

/-- A host access of a command's segment has failed. -/
theorem State.hostError_flying (flying : (s.ctx key).inFlight = true) (sound : (s.ctx key).faulted = false) {c : EngCmd}
    {rest : List EngCmd} (eng : (s.ctx key).eng = c :: rest) :
    s.hostError key = s.faultCtx key causePeerdown 3 0 c.num 0 c.perf := by
  unfold State.hostError
  dsimp only
  rw [flying, sound, eng]
  rfl
end

end Sys2Proof.Machine

open Sys2Proof Sys2Proof.Machine

/-- Settles O48: a segment of near memory writes its target and its clasp word in one performance, and every fault goes through the one
record of its context. -/
theorem enginesPerformSegments : Obligations.EnginesPerformSegments := by
  unfold Obligations.EnginesPerformSegments
  refine ⟨fun iod s => ⟨fun none => ?_, fun key prio served => ?_⟩, ?_, ?_, ?_⟩
  · show execSegmentStart iod s = _
    rw [execSegmentStart, none]
  · refine ⟨State.setCtx { s with lastServed := Sparse.set 0 s.lastServed (iod * 16 + prio) (key + 1) } key
      { s.ctx key with inFlight := true }, ?_, rfl, fun n => ?_, fun k => ?_⟩
    · show execSegmentStart iod s = _
      rw [execSegmentStart, served]
      rfl
    · show Sparse.get 0 (Sparse.set 0 s.lastServed (iod * 16 + prio) (key + 1)) n = _
      rw [Sparse.get_set]
    · rw [State.ctx_setCtx]
      split_ifs with same
      · rw [same]
      · rfl
  · intro key n s w c rest mv bytes flying sound eng half drained moves fresh unsent segment size near whole data hw
    obtain ⟨p, wrote, perform, frame, mem⟩ := State.performSegment_near eng drained fresh unsent segment size
      (fun a h => near a (List.mem_cons_of_mem _ h)) whole data
    have ctx (k : Nat) : p.ctx k = s.ctx k := by rw [frame]; rfl
    have canon : p.canon = s.canon := by rw [frame]; rfl
    have far (a : Nat) : p.farDev a = s.farDev a := by rw [frame]; rfl
    have memW : p.mem = w.mem := by rw [mem, hw]
    have canonW : w.canon = s.canon := by rw [hw, State.frame_writes]; rfl
    let d : EngCmd := { c with wrote := wrote, xfer := { Xfer.none with sent := true } }
    have at' : d.claspAt = c.claspAt := rfl
    have claspNear : d.claspAt ≠ 0 → p.farDev d.claspAt = none := fun used => by
      rw [far, d.claspAt_cases.resolve_left used]
      exact near _ List.mem_cons_self
    let q := if d.claspAt = 0 then p else p.claspAdd d.claspAt n
    have frameQ : q = { p with mem := q.mem } := by
      show (if d.claspAt = 0 then p else _) = { p with mem := (if d.claspAt = 0 then p else _ : State).mem }
      split_ifs
      · rfl
      · exact State.frame_claspAdd ..
    have ctxQ : q.ctx key = s.ctx key := by rw [frameQ]; exact ctx key
    have canonQ : q.canon = s.canon := by rw [frameQ]; exact canon
    obtain ⟨memT, canonT, ends⟩ := State.ended_facts (s := q) (c := d) (n := n) (ctxQ ▸ eng) half moves
    refine ⟨q.ended key d n, ?_, fun a l op => ?_, fun noPref => ?_, fun a apart apartClasp => ?_, ?_⟩
    · show execSegmentPerformed key s = _
      rw [execSegmentPerformed, flying, sound]
      show (.next (s.performSegment key) : Out) = _
      rw [perform, State.endSegment_near rfl claspNear]
      exact congrArg Host.Outcome.next (apply_ite (State.ended · key d n) ..).symm
    · have noBytes : w.mem = s.mem := by rw [hw, State.segment_pref op segment]; rfl
      have noClasp : q = p := if_pos (by show c.claspAt = 0; unfold EngCmd.claspAt; rw [op])
      rw [memT, noClasp, memW, noBytes]
    · have clasp : d.claspAt = c.clasp.toNat := c.claspAt_eq noPref
      have zero : c.clasp.toNat = 0 ↔ c.clasp = 0 := (BitVec.toNat_inj (y := 0#64))
      rw [memT]
      show (if d.claspAt = 0 then p else p.claspAdd d.claspAt n : State).mem = _
      rw [clasp]
      simp only [zero]
      split_ifs
      · exact memW
      · exact State.mem_claspAdd_congr memW (canon.trans canonW.symm)
    · have bytesP : p.readByte a = s.readByte a := by
        rw [State.readByte_of_same memW (canon.trans canonW.symm), hw]
        exact State.readByte_writes _ _ fun e h => apart e.1 (List.of_mem_zip h).1
      rw [State.readByte_of_same memT canonT, ← bytesP]
      show (if d.claspAt = 0 then p else p.claspAdd d.claspAt n : State).readByte a = _
      split_ifs with unused
      · rfl
      · refine State.readByte_claspAdd fun b h => ?_
        rw [canon]
        exact apartClasp b (d.claspAt_cases.resolve_left unused ▸ h)
    · rw [ctxQ] at ends
      split_ifs at ends ⊢ with more
      · exact ⟨_, ends, rfl, rfl, rfl⟩
      · exact ends
  · intro key cause side va s c rest h eng low half hart
    refine ⟨fun fault uncorrected => ?_, fun flying sound => ⟨?_, ?_⟩⟩
    · obtain ⟨x, ctx, mem, faulted, issue, recVa, rec0, perf, eng', slot⟩ :=
        State.faultCtx_facts (s := s) hart half cause side c.num va c.perf
      refine ⟨s.faultCtx key cause side 0 c.num va c.perf, ?_, mem, ?_⟩
      · show execEngineFault key cause side va s = _
        rw [execEngineFault, if_pos fault]
        dsimp only
        rw [if_neg (show cause ≠ causeEcc from uncorrected), eng]
        rfl
      · rw [ctx]
        exact ⟨faulted, issue, recVa, rec0, perf, eng', slot⟩
    · show execHostCompletion key true s = _
      rw [execHostCompletion, if_neg (by omega), if_pos rfl]
    · obtain ⟨x, ctx, mem, faulted, issue, -, rec0, -, eng', -⟩ :=
        State.faultCtx_facts (s := s) hart half causePeerdown 3 c.num 0 c.perf
      refine ⟨s.faultCtx key causePeerdown 3 0 c.num 0 c.perf, ?_, ?_, mem, ?_⟩
      · show execHostCompletion key false s = _
        rw [execHostCompletion, if_neg (by omega), if_neg Bool.false_ne_true, State.hostError_flying flying sound eng]
      · show execCompletionTimeout key s = _
        rw [execCompletionTimeout, if_neg (by omega), State.hostError_flying flying sound eng]
      · rw [ctx]
        exact ⟨faulted, rec0, issue, eng'⟩
  · rintro h n ok s low ⟨e, isIn, link⟩
    have slot : (4096 + 1024 * n + h) % 1024 = h := by omega
    have die : (4096 + 1024 * n + h - 4096) / 1024 = n := by omega
    have waits : ((s.hart h).sealing.any fun e => e.1 = 2 ^ 14 + 8 + n) = true :=
      List.any_eq_true.mpr ⟨e, isIn, decide_eq_true link⟩
    show execHostCompletion _ ok s = _
    rw [execHostCompletion, if_pos (by omega)]
    dsimp only
    rw [slot, die, if_pos waits]
end

section
/-!
SUPPORT. Records at their home (18_fabric R329, R336; 10_consistency R257): what performing one leaves, and what an answer, an
acknowledgement of a seal and a PERFACK change of the harts and contexts that await it.
-/

namespace Sys2Proof.Machine

section
variable {s t u : State}

/-! ### What every hart's or context's turn does -/

theorem Sparse.get_eq_or_mem {α : Type} (d : α) (l : List (Nat × α)) (n : Nat) : Sparse.get d l n = d ∨ (n, Sparse.get d l n) ∈ l := by
  induction l with
  | nil => exact .inl rfl
  | cons e l ih =>
    rw [Sparse.get]
    split
    next same => exact .inr (same ▸ List.mem_cons_self)
    next => exact ih.imp_right (List.mem_cons_of_mem _)
/-- Hart after hart takes a turn that changes only that hart: each that has one is related to what it was, by a relation that a
further turn keeps. -/
theorem State.hart_foldl {f : State → Nat → State} {R : Hart → Hart → Prop} (other : ∀ s k h, h ≠ k → (f s k).hart h = s.hart h)
    (turn : ∀ s h, R (s.hart h) ((f s h).hart h)) (trans : ∀ x y z, R x y → R y z → R x z) (l : List Nat) (s : State) (h : Nat) :
    (h ∈ l → R (s.hart h) ((l.foldl f s).hart h)) ∧ (h ∉ l → (l.foldl f s).hart h = s.hart h) := by
  induction l generalizing s with
  | nil => exact ⟨fun h => absurd h List.not_mem_nil, fun _ => rfl⟩
  | cons k l ih =>
    obtain ⟨taken, left⟩ := ih (f s k)
    rw [List.foldl_cons]
    by_cases same : h = k
    · subst same
      refine ⟨fun _ => ?_, fun out => absurd List.mem_cons_self out⟩
      by_cases again : h ∈ l
      · exact trans _ _ _ (turn s h) (taken again)
      · rw [left again]
        exact turn s h
    · rw [other s k h same] at taken left
      exact ⟨fun isIn => taken ((List.mem_cons.mp isIn).resolve_left same), fun out => left fun h => out (List.mem_cons_of_mem _ h)⟩
theorem State.hart_mapHarts {p : Hart → Bool} {f : State → Nat → State} {R : Hart → Hart → Prop}
    (other : ∀ s k h, h ≠ k → (f s k).hart h = s.hart h) (turn : ∀ s h, R (s.hart h) ((f s h).hart h))
    (trans : ∀ x y z, R x y → R y z → R x z) (free : p Hart.free = false) (h : Nat) :
    R (s.hart h) ((s.mapHarts p f).hart h) ∨ (p (s.hart h) = false ∧ (s.mapHarts p f).hart h = s.hart h) := by
  obtain ⟨taken, left⟩ := State.hart_foldl other turn trans ((s.harts.filter fun e => p e.2).map (·.1)) s h
  by_cases isIn : h ∈ (s.harts.filter fun e => p e.2).map (·.1)
  · exact .inl (taken isIn)
  · refine .inr ⟨Bool.eq_false_iff.mpr fun yes => ?_, left isIn⟩
    obtain none | mem := Sparse.get_eq_or_mem Hart.free s.harts h
    · rw [State.hart, none, free] at yes
      exact nomatch yes
    · exact isIn (List.mem_map.mpr ⟨_, List.mem_filter.mpr ⟨mem, yes⟩, rfl⟩)

/-- A change of every context's commands whose repetition changes nothing, where what other devices owe nothing is as it was. -/
theorem State.ctx_mapXfers {f : Xfer → Xfer} (twice : ∀ x, f (f x) = f x) (idle : ∀ x, x.asks = [] → x.acks = [] → f x = x) (k : Nat) :
    (s.mapXfers f).ctx k = (s.ctx k).mapXfers f := by
  have again (x : Ctx) : (x.mapXfers f).mapXfers f = x.mapXfers f := by
    simp only [Ctx.mapXfers, List.map_map, Function.comp_def, twice]
  have each (l : List Nat) : ∀ s : State, (l.foldl (fun s k => s.setCtx k ((s.ctx k).mapXfers f)) s).ctx k =
      if k ∈ l then (s.ctx k).mapXfers f else s.ctx k := by
    induction l with
    | nil => exact fun _ => rfl
    | cons j l ih =>
      intro s
      rw [List.foldl_cons, ih, State.ctx_setCtx]
      by_cases same : k = j
      · simp [same, again]
      · simp [same]
  have settled (x : Ctx) (free : x.busyFar = false) : x.mapXfers f = x := by
    have quiet (c : Xfer) (h : c ∈ x.eng.map (·.xfer) ++ x.coll.map (·.xfer)) : f c = c := by
      have none := List.any_eq_false.mp free c h
      simp only [Bool.or_eq_true, Bool.not_eq_true', List.isEmpty_eq_false_iff, not_or, not_not] at none
      exact idle c none.1 none.2
    have eng : x.eng.map (fun c => { c with xfer := f c.xfer }) = x.eng := (List.map_congr_left fun c h => by
      rw [quiet _ (List.mem_append_left _ (List.mem_map_of_mem h))]; rfl).trans (List.map_id _)
    have coll : x.coll.map (fun c => { c with xfer := f c.xfer }) = x.coll := (List.map_congr_left fun c h => by
      rw [quiet _ (List.mem_append_right _ (List.mem_map_of_mem h))]; rfl).trans (List.map_id _)
    rw [Ctx.mapXfers, eng, coll]
  rw [State.mapXfers, each]
  split
  next => rfl
  next out =>
    refine (settled _ (Bool.eq_false_iff.mpr fun busy => ?_)).symm
    obtain none | mem := Sparse.get_eq_or_mem Ctx.empty s.ctxs k
    · rw [State.ctx, none] at busy
      exact absurd busy (by decide)
    · exact out (List.mem_map.mpr ⟨_, List.mem_filter.mpr ⟨mem, busy⟩, rfl⟩)

/-! ### Tracked records (R329) -/

/-- Harts have taken turns, and have sent records. -/
def State.Turned (s t : State) : Prop := t = { s with harts := t.harts, outbox := t.outbox, conns := t.conns }
theorem State.Turned.trans (a : s.Turned t) (b : t.Turned u) : s.Turned u := by
  rw [State.Turned] at a b
  rw [State.Turned, b, a]
theorem State.Turned.foldl {α : Type} {f : State → α → State} (each : ∀ (s : State) a, s.Turned (f s a)) (l : List α) (s : State) :
    s.Turned (l.foldl f s) := by
  induction l generalizing s with
  | nil => exact rfl
  | cons a l ih => exact (each s a).trans (ih _)
theorem State.turned_mapHarts {p : Hart → Bool} {f : State → Nat → State} (each : ∀ (s : State) h, s.Turned (f s h)) :
    s.Turned (s.mapHarts p f) := State.Turned.foldl each _ s

theorem State.turned_pump (h : Nat) : s.Turned (s.pump h) := by
  rw [State.pump, State.pumpFrom_eq]
  exact rfl
theorem State.turned_untrack (h dev : Nat) (tags : List (BitVec 32)) : s.Turned (s.untrack h dev tags) := by
  unfold State.untrack
  dsimp only
  split
  · exact State.Turned.trans (t := s.setHart h _) rfl (State.turned_pump h)
  · exact rfl
/-- What is pumped was tracked. -/
theorem State.mem_pumpFrom {sec : Bool} {before l : List Tracked} {x : Tracked} (isIn : x ∈ (s.pumpFrom sec before l).2) :
    ∃ y ∈ before ++ l, x.dev = y.dev ∧ x.rcd = y.rcd := by
  induction l generalizing s before with
  | nil => exact ⟨x, List.mem_append_left _ isIn, rfl, rfl⟩
  | cons y l ih =>
    unfold State.pumpFrom at isIn
    split at isIn
    · obtain ⟨z, mem, same⟩ := ih isIn
      exact ⟨z, by simpa using mem, same⟩
    · obtain ⟨z, mem, dev, rcd⟩ := ih isIn
      split at mem
      · refine ⟨z, ?_, dev, rcd⟩
        simp only [List.mem_append, List.mem_cons] at mem ⊢
        tauto
      · simp only [List.mem_append, List.mem_cons, List.not_mem_nil, or_false] at mem
        obtain (mem | rfl) | mem := mem
        · exact ⟨z, List.mem_append_left _ mem, dev, rcd⟩
        · exact ⟨y, by simp, dev, rcd⟩
        · exact ⟨z, by simp [mem], dev, rcd⟩
theorem State.hart_pump (h : Nat) : (s.pump h).hart h = { s.hart h with tracked := ((s.pump h).hart h).tracked } := by
  rw [State.pump, State.hart_setHart_same, State.pumpFrom_eq]
  rfl
theorem State.hart_pump_other {h k : Nat} (other : k ≠ h) : (s.pump h).hart k = s.hart k := State.wrote_pump.others k other

/-- Of a hart some of whose tracked records are performed its tracked records differ, and none of those is left. -/
theorem State.hart_untrack (h dev : Nat) (tags : List (BitVec 32)) :
    (s.untrack h dev tags).hart h = { s.hart h with tracked := ((s.untrack h dev tags).hart h).tracked } ∧
      ∀ x ∈ ((s.untrack h dev tags).hart h).tracked, ¬ (x.dev = dev ∧ x.rcd.tag ∈ tags) := by
  let gone (x : Tracked) : Bool := decide (x.dev = dev) && tags.contains x.rcd.tag
  have listed (x : Tracked) : gone x = true ↔ x.dev = dev ∧ x.rcd.tag ∈ tags := by simp [gone]
  by_cases some : (s.hart h).tracked.any gone = true
  · have left : s.untrack h dev tags = (s.setHart h { s.hart h with tracked := (s.hart h).tracked.filter fun x => !gone x }).pump h :=
      if_pos some
    rw [left]
    refine ⟨by rw [State.hart_pump, State.hart_setHart_same], fun x isIn => ?_⟩
    rw [State.pump, State.hart_setHart_same, State.hart_setHart_same] at isIn
    obtain ⟨y, mem, dev, rcd⟩ := State.mem_pumpFrom isIn
    have kept := (List.mem_filter.mp mem).2
    rw [dev, rcd, ← listed]
    simpa using kept
  · have left : s.untrack h dev tags = s := if_neg some
    rw [left]
    exact ⟨rfl, fun x isIn yes => some (List.any_eq_true.mpr ⟨x, isIn, (listed x).mpr yes⟩)⟩
theorem State.hart_untrack_other {h k dev : Nat} {tags : List (BitVec 32)} (other : k ≠ h) : (s.untrack h dev tags).hart k = s.hart k := by
  unfold State.untrack
  dsimp only
  split
  · rw [State.hart_pump_other other, State.hart_setHart, if_neg other]
  · rfl

/-! ### Answers (R227, R243, R336) -/

theorem Ask.take_settled {dev : Nat} {tag : BitVec 32} {data : List Byte} {a : Ask} (settled : a.settled = true) :
    a.take dev tag data = a := by
  rw [Ask.take, settled]
  exact if_neg fun h => Bool.false_ne_true h.2.2
theorem Ask.take_other {dev : Nat} {tag : BitVec 32} {data : List Byte} {a : Ask} (other : ¬ (a.dev = dev ∧ a.tag = tag)) :
    a.take dev tag data = a := if_neg fun h => other ⟨h.1, h.2.1⟩
theorem Ask.settled_take {dev : Nat} {tag : BitVec 32} {data : List Byte} {a : Ask} (dev' : (a.take dev tag data).dev = dev)
    (tag' : (a.take dev tag data).tag = tag) : (a.take dev tag data).settled = true := by
  unfold Ask.take at dev' tag' ⊢
  split_ifs at dev' tag' ⊢ with h
  · simp [Ask.settled]
  · simpa [dev', tag'] using h
theorem Ask.take_take {dev : Nat} {tag : BitVec 32} {data : List Byte} (a : Ask) :
    (a.take dev tag data).take dev tag data = a.take dev tag data := by
  by_cases h : (a.take dev tag data).dev = dev ∧ (a.take dev tag data).tag = tag
  · exact Ask.take_settled (Ask.settled_take h.1 h.2)
  · exact Ask.take_other h

/-- A hart has what a device has answered with a TAG. -/
def Hart.Answered (dev : Nat) (tag : BitVec 32) (data : List Byte) (x y : Hart) : Prop :=
  y = { x with asks := x.asks.map (Ask.take dev tag data), nb := y.nb, tracked := y.tracked } ∧
    (∀ o ∈ y.nb, ∀ a ∈ o.asks, a.dev = dev → a.tag = tag → a.settled = true) ∧ ∀ a ∈ y.tracked, ¬ (a.dev = dev ∧ a.rcd.tag = tag)
theorem State.answered_turn (dev : Nat) (tag : BitVec 32) (data : List Byte) (s : State) (h : Nat) : Hart.Answered dev tag data (s.hart h)
    (((s.setHart h ((s.hart h).mapAsks (Ask.take dev tag data))).untrack h dev [tag]).hart h) := by
  obtain ⟨own, gone⟩ := State.hart_untrack (s := s.setHart h ((s.hart h).mapAsks (Ask.take dev tag data))) h dev [tag]
  rw [State.hart_setHart_same] at own
  refine ⟨?_, fun o isIn a mem dev' tag' => ?_, fun a mem yes => gone a mem ⟨yes.1, by simpa using yes.2⟩⟩
  · rw [own]
    rfl
  · rw [own] at isIn
    obtain ⟨b, -, rfl⟩ := List.mem_map.mp isIn
    obtain ⟨c, -, rfl⟩ := List.mem_map.mp mem
    exact Ask.settled_take dev' tag'
theorem Hart.Answered.trans {dev : Nat} {tag : BitVec 32} {data : List Byte} (x y z : Hart) (a : Hart.Answered dev tag data x y)
    (b : Hart.Answered dev tag data y z) : Hart.Answered dev tag data x z := by
  refine ⟨?_, b.2⟩
  rw [b.1, a.1]
  simp only [List.map_map, Function.comp_def, Ask.take_take]

theorem State.frame_mapXfers (s : State) (f : Xfer → Xfer) : s.mapXfers f = { s with ctxs := (s.mapXfers f).ctxs } := by
  rw [State.mapXfers]
  generalize (s.ctxs.filter fun c => c.2.busyFar).map (·.1) = l
  induction l generalizing s with
  | nil => rfl
  | cons k l ih =>
    rw [List.foldl_cons, ih]
    rfl

/-- An answer reaches every hart and every context that awaits it, and nothing else. -/
theorem State.takeAnswer_facts (s : State) (r : Record) : (s.takeAnswer r).mem = s.mem ∧
    (∀ h, (s.takeAnswer r).hart h = { s.hart h with
        asks := (s.hart h).asks.map (Ask.take r.srcDev r.tag r.data)
        nb := ((s.takeAnswer r).hart h).nb
        tracked := ((s.takeAnswer r).hart h).tracked } ∧
      (∀ o ∈ ((s.takeAnswer r).hart h).nb, ∀ x ∈ o.asks, x.dev = r.srcDev → x.tag = r.tag → x.settled = true) ∧
      ((s.hart h).awaits r.srcDev (some r.tag) = true →
        ∀ x ∈ ((s.takeAnswer r).hart h).tracked, ¬ (x.dev = r.srcDev ∧ x.rcd.tag = r.tag))) ∧
    ∀ k, (s.takeAnswer r).ctx k = (s.ctx k).mapXfers fun f => { f with asks := f.asks.map (Ask.take r.srcDev r.tag r.data) } := by
  let p (x : Hart) : Bool := x.awaits r.srcDev (some r.tag)
  let f (s : State) (h : Nat) : State := (s.setHart h ((s.hart h).mapAsks (Ask.take r.srcDev r.tag r.data))).untrack h r.srcDev [r.tag]
  let g (x : Xfer) : Xfer := { x with asks := x.asks.map (Ask.take r.srcDev r.tag r.data) }
  have turned : s.Turned (s.mapHarts p f) := State.turned_mapHarts fun s h =>
    State.Turned.trans (t := s.setHart h _) rfl (State.turned_untrack h _ _)
  have frame : s.takeAnswer r = { s.mapHarts p f with ctxs := (s.takeAnswer r).ctxs } := (s.mapHarts p f).frame_mapXfers g
  have hart (h : Nat) : (s.takeAnswer r).hart h = (s.mapHarts p f).hart h := by rw [frame]; rfl
  refine ⟨by rw [frame, turned], fun h => ?_, fun k => ?_⟩
  · have other (s : State) (k h : Nat) (n : h ≠ k) : (f s k).hart h = s.hart h := by
      rw [State.hart_untrack_other n, State.hart_setHart, if_neg n]
    rw [hart]
    obtain ⟨own, settled, gone⟩ | ⟨idle, same⟩ := s.hart_mapHarts (p := p) other (State.answered_turn r.srcDev r.tag r.data)
      Hart.Answered.trans (by rfl) h
    · exact ⟨own, settled, fun _ => gone⟩
    · rw [same]
      have done (a : Ask) (mem : a ∈ (s.hart h).asks ++ (s.hart h).nb.flatMap (·.asks)) (dev : a.dev = r.srcDev) (tag : a.tag = r.tag) :
          a.settled = true := by
        have no := List.any_eq_false.mp idle a mem
        simpa [dev, tag] using no
      have asks : (s.hart h).asks.map (Ask.take r.srcDev r.tag r.data) = (s.hart h).asks :=
        (List.map_congr_left fun a mem => by
          by_cases mine : a.dev = r.srcDev ∧ a.tag = r.tag
          · exact Ask.take_settled (done a (List.mem_append_left _ mem) mine.1 mine.2)
          · exact Ask.take_other mine).trans (List.map_id _)
      refine ⟨by rw [asks], fun o isIn a mem => done a (List.mem_append_right _ (List.mem_flatMap.mpr ⟨o, isIn, mem⟩)), fun yes => ?_⟩
      exact absurd yes (by rw [show (s.hart h).awaits r.srcDev (some r.tag) = false from idle]; exact Bool.false_ne_true)
  · have ctx : (s.mapHarts p f).ctx k = s.ctx k := by rw [turned]; rfl
    rw [← ctx]
    refine State.ctx_mapXfers (f := g) (fun x => ?_) (fun x asks _ => ?_) k
    · simp only [g, List.map_map, Function.comp_def, Ask.take_take]
    · show ({ x with asks := x.asks.map _ } : Xfer) = x
      rw [asks, List.map_nil, ← asks]

/-! ### PERFACK (R329) -/

/-- A TAG that a PERFACK lists for a device. -/
def performedTag (r : Record) (x : Nat × BitVec 32) : Bool := decide (x.1 = r.srcDev) && (recordTags r).contains x.2
theorem performedTag_iff {r : Record} {x : Nat × BitVec 32} : performedTag r x = true ↔ x.1 = r.srcDev ∧ x.2 ∈ recordTags r := by
  simp [performedTag]
/-- A hart awaits none of the records that a PERFACK lists. -/
def Hart.Performed (r : Record) (x y : Hart) : Prop :=
  y = { x with
    nb := x.nb.map fun o => { o with tags := o.tags.filter fun a => !performedTag r a }
    tracked := y.tracked } ∧ ∀ a ∈ y.tracked, ¬ (a.dev = r.srcDev ∧ a.rcd.tag ∈ recordTags r)
theorem Hart.Performed.trans {r : Record} (x y z : Hart) (a : Hart.Performed r x y) (b : Hart.Performed r y z) : Hart.Performed r x z := by
  refine ⟨?_, b.2⟩
  rw [b.1, a.1]
  simp only [List.map_map, Function.comp_def, List.filter_filter, Bool.and_self]
theorem State.takePerfack_facts (s : State) (r : Record) : (s.takePerfack r).mem = s.mem ∧
    (∀ h, Hart.Performed r (s.hart h) ((s.takePerfack r).hart h)) ∧
    ∀ k, (s.takePerfack r).ctx k = (s.ctx k).mapXfers fun f => { f with acks := f.acks.filter fun x => !performedTag r x } := by
  let p (t : Hart) : Bool := t.tracked.any (fun x => performedTag r (x.dev, x.rcd.tag)) || t.nb.any fun o => o.tags.any (performedTag r)
  let landed (t : Hart) : Hart := { t with nb := t.nb.map fun o => { o with tags := o.tags.filter fun x => !performedTag r x } }
  let f (s : State) (h : Nat) : State := (s.setHart h (landed (s.hart h))).untrack h r.srcDev (recordTags r)
  let g (x : Xfer) : Xfer := { x with acks := x.acks.filter fun x => !performedTag r x }
  have turned : s.Turned (s.mapHarts p f) := State.turned_mapHarts fun s h =>
    State.Turned.trans (t := s.setHart h _) rfl (State.turned_untrack h _ _)
  have frame : s.takePerfack r = { s.mapHarts p f with ctxs := (s.takePerfack r).ctxs } := (s.mapHarts p f).frame_mapXfers g
  have hart (h : Nat) : (s.takePerfack r).hart h = (s.mapHarts p f).hart h := by rw [frame]; rfl
  refine ⟨by rw [frame, turned], fun h => ?_, fun k => ?_⟩
  · have other (s : State) (k h : Nat) (n : h ≠ k) : (f s k).hart h = s.hart h := by
      rw [State.hart_untrack_other n, State.hart_setHart, if_neg n]
    have turn (s : State) (h : Nat) : Hart.Performed r (s.hart h) ((f s h).hart h) := by
      obtain ⟨own, gone⟩ := State.hart_untrack (s := s.setHart h (landed (s.hart h))) h r.srcDev (recordTags r)
      rw [State.hart_setHart_same] at own
      exact ⟨own, gone⟩
    rw [hart]
    obtain performed | ⟨idle, same⟩ := s.hart_mapHarts (p := p) other turn Hart.Performed.trans (by rfl) h
    · exact performed
    · rw [same]
      obtain ⟨free, idle⟩ := Bool.or_eq_false_iff.mp idle
      have nb : (s.hart h).nb.map (fun o => { o with tags := o.tags.filter fun a => !performedTag r a }) = (s.hart h).nb :=
        (List.map_congr_left fun o mem => by
          have none := List.any_eq_false.mp (Bool.eq_false_iff.mpr (List.any_eq_false.mp idle o mem))
          rw [List.filter_eq_self.mpr fun a h => by simpa using none a h]; rfl).trans (List.map_id _)
      refine ⟨by rw [nb], fun a mem yes => List.any_eq_false.mp free a mem (performedTag_iff.mpr yes)⟩
  · have ctx : (s.mapHarts p f).ctx k = s.ctx k := by rw [turned]; rfl
    rw [← ctx]
    refine State.ctx_mapXfers (f := g) (fun x => ?_) (fun x _ acks => ?_) k
    · simp only [g, List.filter_filter, Bool.and_self]
    · show ({ x with acks := x.acks.filter _ } : Xfer) = x
      rw [acks, List.filter_nil, ← acks]

/-! ### Seals (10_consistency R257) -/

theorem State.takeSealAck_facts (s : State) (r : Record) : s.takeSealAck r = { s with harts := (s.takeSealAck r).harts } ∧
    ∀ h, (s.takeSealAck r).hart h = { s.hart h with sealing := (s.hart h).sealing.filter (· ≠ (r.srcDev, r.tag)) } := by
  let p (t : Hart) : Bool := t.sealing.contains (r.srcDev, r.tag)
  let sealed' (t : Hart) : Hart := { t with sealing := t.sealing.filter (· ≠ (r.srcDev, r.tag)) }
  let f (s : State) (h : Nat) : State := s.setHart h (sealed' (s.hart h))
  have frame (l : List Nat) : ∀ s : State, l.foldl f s = { s with harts := (l.foldl f s).harts } := by
    induction l with
    | nil => exact fun _ => rfl
    | cons k l ih =>
      intro s
      rw [List.foldl_cons, ih]
      rfl
  refine ⟨frame _ s, fun h => ?_⟩
  show (s.mapHarts p f).hart h = sealed' (s.hart h)
  obtain done | ⟨idle, same⟩ := s.hart_mapHarts (p := p) (f := f) (R := fun x y => y = sealed' x)
    (fun s k h n => by rw [State.hart_setHart, if_neg n]) (fun s h => State.hart_setHart_same ..) (fun x y z a b => by
      rw [b, a]
      simp only [sealed', List.filter_filter, Bool.and_self]) (by rfl) h
  · exact done
  · have none : (s.hart h).sealing.filter (· ≠ (r.srcDev, r.tag)) = (s.hart h).sealing :=
      List.filter_eq_self.mpr fun a mem => by
        simp only [p, List.contains_eq_mem, decide_eq_false_iff_not] at idle
        exact decide_eq_true fun same => idle (same ▸ mem)
    have left : sealed' (s.hart h) = s.hart h := by
      show ({ s.hart h with sealing := (s.hart h).sealing.filter (· ≠ (r.srcDev, r.tag)) } : Hart) = s.hart h
      rw [none]
    exact same.trans left.symm
/-- A home that keeps no seal has none to acknowledge. -/
theorem State.ackSeals_none (none : s.pendSeals = []) : s.ackSeals = s := by
  unfold State.ackSeals
  rw [none]
  show { s with pendSeals := [] } = s
  rw [← none]

variable {r : Record} {a n : Nat}

/-- A seal of a home that keeps none is acknowledged where its count has been performed, and kept where not. -/
theorem State.takeSeal_due (none : s.pendSeals = []) (due : r.addr.toNat % 2 ^ 32 ≤ Sparse.get 0 s.sealCount (recordSource r)) :
    s.takeSeal r = { s.answer r 0x09 [] with
      sealCount := Sparse.modify 0 s.sealCount (recordSource r) fun n => n - r.addr.toNat % 2 ^ 32
      pendSeals := [] } := by
  have now : [r].filter (fun q => decide (q.addr.toNat % 2 ^ 32 ≤ Sparse.get 0 s.sealCount (recordSource q))) = [r] := by
    rw [List.filter_cons, if_pos (decide_eq_true due), List.filter_nil]
  have kept : [r].filter (fun q => !decide (q.addr.toNat % 2 ^ 32 ≤ Sparse.get 0 s.sealCount (recordSource q))) = [] := by
    rw [List.filter_cons, if_neg (by rw [decide_eq_true due]; exact Bool.false_ne_true), List.filter_nil]
  unfold State.takeSeal State.ackSeals
  dsimp only
  rw [none, List.nil_append, now, kept, List.foldl_cons, List.foldl_nil]
  unfold State.answer State.sendTo
  dsimp only
  split <;> rfl
theorem State.takeSeal_early (none : s.pendSeals = []) (early : ¬ r.addr.toNat % 2 ^ 32 ≤ Sparse.get 0 s.sealCount (recordSource r)) :
    s.takeSeal r = { s with pendSeals := [r] } := by
  have now : [r].filter (fun q => decide (q.addr.toNat % 2 ^ 32 ≤ Sparse.get 0 s.sealCount (recordSource q))) = [] := by
    rw [List.filter_cons, if_neg (by simpa using early), List.filter_nil]
  have kept : [r].filter (fun q => !decide (q.addr.toNat % 2 ^ 32 ≤ Sparse.get 0 s.sealCount (recordSource q))) = [r] := by
    rw [List.filter_cons, if_pos (by simpa using early), List.filter_nil]
  unfold State.takeSeal State.ackSeals
  dsimp only
  rw [none, List.nil_append, now, kept, List.foldl_nil]
theorem State.answered_answer (s : State) (r : Record) (op : BitVec 8) (data : List Byte) : Answered s (s.answer r op data) r op data :=
  ⟨_, State.sent_sendTo, rfl, rfl, rfl, rfl, rfl, rfl⟩
theorem State.frame_answer (s : State) (r : Record) (op : BitVec 8) (data : List Byte) : s.answer r op data =
    { s with outbox := (s.answer r op data).outbox, conns := (s.answer r op data).conns } := State.sendTo_eq
theorem Answered.of_same {v w : State} {op : BitVec 8} {data : List Byte} (chip : v.chip = s.chip) (outbox : v.outbox = s.outbox)
    (conns : v.conns = s.conns) (outbox' : w.outbox = t.outbox) (conns' : w.conns = t.conns) (ans : Answered s t r op data) :
    Answered v w r op data := by
  obtain ⟨x, ⟨o, rcd, die, put⟩, rest⟩ := ans
  refine ⟨x, ⟨o, rcd, die, ?_⟩, by rw [chip]; exact rest⟩
  rw [chip]
  simpa only [State.conn, outbox, conns, outbox', conns'] using put

theorem State.noticed_answer (s : State) (r : Record) (op : BitVec 8) (data : List Byte) : (s.answer r op data).noticeAll.mem = s.mem ∧
    (∀ h, (s.answer r op data).noticeAll.hart h = { s.hart h with wait := ((s.answer r op data).noticeAll.hart h).wait }) ∧
    (s.answer r op data).noticeAll.dies = s.dies ∧ Answered s (s.answer r op data).noticeAll r op data := by
  have noticed := (s.answer r op data).noticed_noticeAll
  have frame := noticed.frame
  refine ⟨by rw [State.mem_noticeAll, State.frame_answer], fun h => ?_, by rw [frame, State.frame_answer],
    (s.answered_answer r op data).of_same rfl rfl rfl (by rw [frame]) (by rw [frame])⟩
  rw [noticed.hart h]
  have same : (s.answer r op data).hart h = s.hart h := by rw [State.frame_answer]; rfl
  rw [same]

/-! ### Records performed at their home -/

/-- A record that need not wait is served, and whoever waits for a word sees it. -/
theorem State.atHome_ready {f : State → Record → State} (ready : ∀ b ∈ gaRange r.addr.toNat (recordBytes r), s.mustWait b = false) :
    s.atHome false r f = (f s r).noticeAll := by
  have goes : s.waitsHome false r = false := by
    rw [State.waitsHome, List.any_eq_false.mpr fun b h => by rw [ready b h]; exact Bool.false_ne_true, Bool.and_false]
    rfl
  rw [State.atHome, goes]
  exact if_neg Bool.false_ne_true
theorem State.atHome_waits {f : State → Record → State} (homed : s.homed r (recordBytes r) = true) {b : Nat}
    (isIn : b ∈ gaRange r.addr.toNat (recordBytes r)) (waits : s.mustWait b = true) :
    s.atHome false r f = { s with held := s.held ++ [(false, r)] } := by
  have stays : s.waitsHome false r = true := by
    rw [State.waitsHome, homed, List.any_eq_true.mpr ⟨b, isIn, waits⟩]
    rfl
  rw [State.atHome, stays]
  exact if_pos rfl
theorem State.performedRecord_none (none : s.pendSeals = []) : s.performedRecord r = { s with
    sealCount := if recordOfHart r then Sparse.modify 0 s.sealCount (recordSource r) (· + 1) else s.sealCount
    perfacks := if r.trk then s.perfacks ++ [r] else s.perfacks } := State.ackSeals_none (by exact none)

/-- What has been performed and counted, with nothing but memory and waits changed before and after. -/
theorem Performed.of {w v : State} {mem : List (Nat × Byte)} (none : s.pendSeals = []) (stored : s.Performs v)
    (poison : w = { v with poison := w.poison }) (mem' : v.mem = mem) (after : (w.performedRecord r).Turned t)
    (waits : ∀ h, t.hart h = { (w.performedRecord r).hart h with wait := (t.hart h).wait }) : Performed s t r mem := by
  have poison' : w.pendSeals = [] := by rw [poison, stored.frame]; exact none
  have counted := State.performedRecord_none (s := w) (r := r) poison'
  have hart (h : Nat) : (w.performedRecord r).hart h = v.hart h := by rw [counted, poison]; rfl
  refine ⟨?_, fun h => ?_, ?_, fun n => ?_⟩
  · rw [after, counted, poison]
    exact mem'
  · rw [waits h, hart, stored.hart h]
  · rw [after, counted, poison, stored.frame]
  · rw [after, counted, poison, stored.frame]
    dsimp only
    by_cases own : recordOfHart r = true
    · rw [if_pos own, Sparse.modify, Sparse.get_set]
      by_cases same : n = recordSource r <;> simp [same, own]
    · simp [own]

theorem State.Noticed.turned (n : s.Noticed t) : s.Turned t := by
  rw [State.Turned, n.frame]
theorem State.frame_writeBytes (s : State) (a : Nat) (bs : List Byte) : s.writeBytes a bs = { s with mem := (s.writeBytes a bs).mem } := by
  unfold State.writeBytes
  generalize (gaRange a bs.length).zip bs = l
  induction l generalizing s with
  | nil => rfl
  | cons e l ih =>
    rw [List.foldl_cons, ih]
    rfl
theorem State.poisoned_of_same {a : Nat} (poison : s.poison = t.poison) (canon : s.canon = t.canon) : s.poisoned a = t.poisoned a := by
  rw [State.poisoned, State.poisoned, poison, canon]
theorem State.readByte_writeBytes_other {bs : List Byte} {b : Nat} (apart : ∀ c ∈ gaRange a bs.length, s.canon c ≠ s.canon b) :
    (s.writeBytes a bs).readByte b = s.readByte b := by
  have each (l : List (Nat × Byte)) : ∀ s : State, (∀ e ∈ l, s.canon e.1 ≠ s.canon b) →
      (l.foldl (fun s ab => s.writeByte ab.1 ab.2) s).readByte b = s.readByte b := by
    induction l with
    | nil => exact fun _ _ => rfl
    | cons e l ih =>
      intro s apart
      rw [List.foldl_cons, ih (s.writeByte e.1 e.2) fun x h => apart x (List.mem_cons_of_mem _ h), State.readByte_writeByte,
        if_neg fun same => apart e List.mem_cons_self same.symm]
  exact each _ s fun e h => apart e.1 (List.of_mem_zip h).1
/-- Lines that a record writes are good afterwards. -/
theorem State.poisoned_recordWrite {bs : List Byte} {b : Nat} (isIn : b ∈ gaRange a bs.length) :
    (s.recordWrite a bs).poisoned b = false := by
  have line : s.canon b / 64 ∈ ((gaRange a bs.length).map fun b => s.canon b / 64).dedup :=
    List.mem_dedup.mpr (List.mem_map_of_mem (f := fun b => s.canon b / 64) isIn)
  have canon : (s.recordWrite a bs).canon = s.canon := by
    unfold State.recordWrite
    rw [State.frame_writeBytes]
    rfl
  rw [State.poisoned, canon]
  refine Bool.eq_false_iff.mpr fun yes => ?_
  have kept := (List.mem_filter.mp (List.contains_iff_mem.mp yes)).2
  simp only [Bool.not_eq_true', List.contains_eq_mem, decide_eq_false_iff_not] at kept
  exact kept line

theorem State.mem_performByte_congr {b : PendByte} (mem : s.mem = t.mem) (canon : s.canon = t.canon) :
    (s.performByte b).mem = (t.performByte b).mem := by
  rw [State.performByte, State.performByte, State.readByte_of_same mem canon, State.writeByte, State.writeByte, mem, canon]
/-- What homes see between two writes of a byte changes nothing of what is written. -/
theorem State.mem_performFrom (l : List PendByte) : ∀ (s t : State) (done : List Nat), s.mem = t.mem → s.canon = t.canon →
    (s.performFrom done l).mem = (l.foldl State.performByte t).mem := by
  induction l with
  | nil => exact fun _ _ _ mem _ => mem
  | cons b l ih =>
    intro s t done mem canon
    unfold State.performFrom
    split
    · have noticed : s.noticeAll.canon = s.canon := by rw [s.noticed_noticeAll.frame]; rfl
      exact ih _ _ _ (State.mem_performByte_congr (s.mem_noticeAll.trans mem) (noticed.trans canon)) (noticed.trans canon)
    · exact ih _ _ _ (State.mem_performByte_congr mem canon) canon
theorem State.mem_performBytes (s : State) (l : List PendByte) : (s.performBytes l).mem = (l.foldl State.performByte s).mem :=
  State.mem_performFrom l s s [] rfl rfl

variable (homed : s.homed r n = true) (memory : recordIsReg r = false)
include homed memory

theorem State.serveRead_memory (size : n = r.len) (clean : ∀ b ∈ gaRange r.addr.toNat n, s.poisoned b = false) :
    s.serveRead r = s.answer r 0x06 ((gaRange r.addr.toNat r.len).map s.readByte) := by
  subst size
  unfold State.serveRead
  dsimp only
  rw [homed, memory, List.any_eq_false.mpr fun b h => by rw [clean b h]; exact Bool.false_ne_true]
  rfl
theorem State.serveWrite_memory (size : n = r.data.length) (clean : s.poisonedAt r.addr.toNat n = false) :
    s.serveWrite r = (s.recordWrite r.addr.toNat r.data).performedRecord r := by
  subst size
  unfold State.serveWrite
  dsimp only
  rw [homed, memory, clean]
  rfl
theorem State.serveWriteb_memory (size : n = r.data.length / 2) (clean : ∀ b ∈ gaRange r.addr.toNat n, s.poisoned b = false) :
    s.serveWriteb r = (s.performBytes ((List.range n).map fun i =>
      ⟨r.addr.toNat + i, r.data.getD i 0, r.data.getD (n + i) 0⟩)).performedRecord r := by
  subst size
  unfold State.serveWriteb
  dsimp only
  rw [homed, memory, List.any_eq_false.mpr fun b h => by rw [clean b h]; exact Bool.false_ne_true]
  rfl
theorem State.serve_poisoned {b : Nat} (isIn : b ∈ gaRange r.addr.toNat n) (bad : s.poisoned b = true) :
    (n = r.len → s.serveRead r = s.logDie (s.homeDie r.addr.toNat) (errorUnit r.addr.toNat) r.addr.toNat) ∧
      (n = r.data.length / 2 → s.serveWriteb r = s.logDie (s.homeDie r.addr.toNat) (errorUnit r.addr.toNat) r.addr.toNat) := by
  have some : (gaRange r.addr.toNat n).any s.poisoned = true := List.any_eq_true.mpr ⟨b, isIn, bad⟩
  constructor <;> rintro rfl
  · unfold State.serveRead
    dsimp only
    rw [homed, memory, some]
    rfl
  · unfold State.serveWriteb
    dsimp only
    rw [homed, memory, some]
    rfl

/-- An atomic record's operands are applied to one word, and the old value is answered where it is asked for. -/
theorem State.serveAtomic_memory {k cw op m : Nat} {ty : BitVec 4} (control : cw = bytesNat (r.data.take 8)) (code : op = cw % 16)
    (type : ty = BitVec.ofNat 4 (cw / 16)) (low : op ≤ 12) (size : n = typeWidth ty / 8) (some : n ≠ 0)
    (none : s.pendSeals = []) (clean : ∀ c ∈ gaRange r.addr.toNat n, s.poisoned c = false) (old : m = s.readGa r.addr.toNat n)
    (plain : s.headers.contains (s.canon r.addr.toNat) = false) :
    let w := (s.writeGa r.addr.toNat n ((atomicArgs (op = 9) n r.data.length (r.data.drop k)).foldl
      (fun m x => atomicOp op ty m x.1 x.2) m)).performedRecord r
    s.serveAtomic r k = if cw.testBit 8 then w.answer r 0x07 (natBytes n m) else w := by
  subst control code type size old
  dsimp only
  generalize stored : State.writeGa s _ _ _ = v
  have frame : v = { s with mem := v.mem } := by rw [← stored]; exact State.writeAt_eq ..
  have counted := State.performedRecord_none (s := v) (r := r) (by rw [frame]; exact none)
  have noHeader : (v.performedRecord r).headers.contains ((v.performedRecord r).canon r.addr.toNat) = false := by
    rw [counted, frame]
    exact plain
  have some' := decide_eq_false some
  unfold State.serveAtomic
  dsimp only
  rw [homed, memory, some', List.any_eq_false.mpr fun b h => by rw [clean b h]; exact Bool.false_ne_true,
    if_neg (by decide), if_neg (by decide), if_neg (by omega), if_neg (by omega), if_neg (by omega), stored, noHeader]
  rfl
end

end Sys2Proof.Machine

open Sys2Proof Sys2Proof.Machine

/-- Settles O50: what a record does at its home by the operation, and what an answer changes where it is awaited. -/
theorem recordsArePerformedAtTheirHome : Obligations.RecordsArePerformedAtTheirHome := by
  unfold Obligations.RecordsArePerformedAtTheirHome
  refine ⟨fun i o r q s a n ha hq hn hi homed => ?_, fun r s i => ⟨?_, ?_, ?_, ?_⟩, ?_⟩
  · subst ha hn
    have ready (w : ∀ b ∈ gaRange r.addr.toNat (recordBytes q), s.mustWait b = false) (f : State → Record → State) :
        s.atHome false q f = (f s q).noticeAll := State.atHome_ready (by rw [hq] at w ⊢; exact w)
    have homedQ : s.homed q (recordBytes q) = true := by rw [hq] at homed ⊢; exact homed
    refine ⟨fun ⟨b, isIn, waits⟩ => ?_, fun go => ⟨?_, ?_, ?_, ?_, ?_, ?_, ?_⟩⟩
    · have kept (f : State → Record → State) : s.atHome false q f = { s with held := s.held ++ [(false, q)] } :=
        State.atHome_waits homedQ (by rw [hq] at isIn ⊢; exact isIn) waits
      simp only [List.mem_cons, Prod.mk.injEq, List.not_mem_nil, or_false] at hi
      obtain ⟨rfl, rfl⟩ | ⟨rfl, rfl⟩ | ⟨rfl, rfl⟩ | ⟨rfl, rfl⟩ | ⟨rfl, rfl⟩ := hi <;> subst hq <;>
        exact congrArg Host.Outcome.next (kept _)
    · rintro rfl reg
      obtain rfl : o = 0x01 := by simpa using hi
      subst hq
      have served : s.serveRead { r with op := 0x01 } = s.answer { r with op := 0x01 } 0x06 (natBytes r.len (s.regLoad false r.addr.toNat r.len)) := by
        unfold State.serveRead
        dsimp only
        rw [show s.homed { r with op := 0x01 } r.len = true from homedQ, show recordIsReg { r with op := 0x01 } = true from reg]
        rfl
      obtain ⟨mem, hart, dies, ans⟩ := s.noticed_answer { r with op := 0x01 } 0x06 (natBytes r.len (s.regLoad false r.addr.toNat r.len))
      exact ⟨_, congrArg Host.Outcome.next ((ready go _).trans (congrArg State.noticeAll served)), mem, hart, dies, ans⟩
    · rintro rfl reg
      obtain rfl : o = 0x02 := by simpa using hi
      subst hq
      have served : s.serveWrite { r with op := 0x02 } = State.performedRecord
          (s.regStore false true r.addr.toNat r.data.length (bytesNat r.data)) { r with op := 0x02 } := by
        unfold State.serveWrite
        dsimp only
        rw [show s.homed { r with op := 0x02 } r.data.length = true from homedQ, show recordIsReg { r with op := 0x02 } = true from reg]
        rfl
      exact congrArg Host.Outcome.next ((ready go _).trans (congrArg State.noticeAll served))
    · rintro memory ⟨b, isIn, bad⟩ other low
      simp only [List.mem_cons, Prod.mk.injEq, List.not_mem_nil, or_false] at hi
      obtain ⟨rfl, rfl⟩ | ⟨-, rfl⟩ | ⟨rfl, rfl⟩ | ⟨-, rfl⟩ | ⟨-, rfl⟩ := hi
      · subst hq
        exact congrArg Host.Outcome.next ((ready go _).trans (congrArg State.noticeAll
          ((State.serve_poisoned (r := { r with op := 0x01 }) homedQ memory isIn bad).1 rfl)))
      · exact absurd rfl other
      · subst hq
        exact congrArg Host.Outcome.next ((ready go _).trans (congrArg State.noticeAll
          ((State.serve_poisoned (r := { r with op := 0x03 }) homedQ memory isIn bad).2 rfl)))
      · exact absurd low (by decide)
      · exact absurd low (by decide)
    · rintro rfl memory clean
      obtain rfl : o = 0x01 := by simpa using hi
      subst hq
      obtain ⟨mem, hart, -, ans⟩ := s.noticed_answer { r with op := 0x01 } 0x06 ((gaRange r.addr.toNat r.len).map s.readByte)
      exact ⟨_, congrArg Host.Outcome.next ((ready go _).trans (congrArg State.noticeAll
        (State.serveRead_memory (r := { r with op := 0x01 }) homedQ memory rfl clean))), mem, hart, ans⟩
    · rintro rfl memory none clean
      obtain rfl : o = 0x02 := by simpa using hi
      subst hq
      have stored : s.Performs (s.writeBytes r.addr.toNat r.data) := by
        rw [State.frame_writeBytes]
        exact ⟨rfl, fun _ => rfl⟩
      have poison : s.recordWrite r.addr.toNat r.data =
          { s.writeBytes r.addr.toNat r.data with poison := (s.recordWrite r.addr.toNat r.data).poison } := rfl
      let u := (s.recordWrite r.addr.toNat r.data).performedRecord { r with op := 0x02 }
      have counted : u = _ := State.performedRecord_none (by rw [poison, stored.frame]; exact none)
      have canon : u.noticeAll.canon = s.canon := by rw [u.noticed_noticeAll.frame, counted, poison, stored.frame]; rfl
      have mem : u.noticeAll.mem = (s.writeBytes r.addr.toNat r.data).mem := by rw [State.mem_noticeAll, counted]; rfl
      refine ⟨u.noticeAll, congrArg Host.Outcome.next ((ready go _).trans (congrArg State.noticeAll
        (State.serveWrite_memory (r := { r with op := 0x02 }) homedQ memory rfl clean))),
        Performed.of none stored poison rfl u.noticed_noticeAll.turned u.noticed_noticeAll.hart, fun b isIn => ?_, fun b apart => ?_⟩
      · rw [← State.poisoned_recordWrite (s := s) isIn]
        refine State.poisoned_of_same (by rw [u.noticed_noticeAll.frame, counted]) (canon.trans ?_)
        rw [poison, State.frame_writeBytes]
        rfl
      · rw [State.readByte_of_same mem (canon.trans (by rw [State.frame_writeBytes]; rfl))]
        exact State.readByte_writeBytes_other apart
    · rintro rfl memory none clean
      obtain rfl : o = 0x03 := by simpa using hi
      subst hq
      let v := s.performBytes ((List.range (r.data.length / 2)).map fun i =>
        ⟨r.addr.toNat + i, r.data.getD i 0, r.data.getD (r.data.length / 2 + i) 0⟩)
      have written : v.mem = ((List.range (r.data.length / 2)).foldl (fun (s : State) i =>
          s.performByte ⟨r.addr.toNat + i, r.data.getD i 0, r.data.getD (r.data.length / 2 + i) 0⟩) s).mem := by
        rw [State.mem_performBytes, List.foldl_map]
      let u := v.performedRecord { r with op := 0x03 }
      exact ⟨u.noticeAll, congrArg Host.Outcome.next ((ready go _).trans (congrArg State.noticeAll
        (State.serveWriteb_memory (r := { r with op := 0x03 }) homedQ memory rfl clean))),
        Performed.of none (State.performs_performBytes s _) rfl written u.noticed_noticeAll.turned u.noticed_noticeAll.hart⟩
    · intro k cw op ty m kind control code type low some memory none clean old plain
      have coded : o = 0x04 ∨ o = 0x05 := by
        obtain ⟨rfl, -⟩ | ⟨rfl, -⟩ := kind
        · exact .inl (by simpa using hi)
        · exact .inr (by simpa using hi)
      have size : recordBytes q = typeWidth ty / 8 := by
        rw [type, control, hq]
        obtain rfl | rfl := coded <;> rfl
      have run : exec i s = .next (s.serveAtomic q k).noticeAll := by
        obtain ⟨rfl, rfl⟩ | ⟨rfl, rfl⟩ := kind
        · obtain rfl : o = 0x04 := by simpa using hi
          subst hq
          exact congrArg Host.Outcome.next (ready go _)
        · obtain rfl : o = 0x05 := by simpa using hi
          subst hq
          exact congrArg Host.Outcome.next (ready go _)
      subst hq
      have served := State.serveAtomic_memory (r := { r with op := o }) (k := k) homedQ memory control code type low size some none
        clean old plain
      dsimp only at served
      generalize written : State.writeGa s _ _ _ = v at served ⊢
      have frame : v = { s with mem := v.mem } := by rw [← written]; exact State.writeAt_eq ..
      have stored : s.Performs v := ⟨by rw [frame], fun h => by rw [frame]; rfl⟩
      let u := v.performedRecord { r with op := o }
      have counted : u = _ := State.performedRecord_none (by rw [frame]; exact none)
      have outbox : u.outbox = s.outbox := by rw [counted, frame]
      have conns : u.conns = s.conns := by rw [counted, frame]
      have chip : u.chip = s.chip := by rw [counted, frame]
      by_cases asked : cw.testBit 8 = true
      · rw [if_pos asked] at served
        obtain ⟨mem, hart, -, ans⟩ := u.noticed_answer { r with op := o } 0x07 (natBytes (recordBytes { r with op := o }) m)
        have turned : u.Turned (u.answer { r with op := o } 0x07 (natBytes (recordBytes { r with op := o }) m)).noticeAll :=
          State.Turned.trans (t := u.answer _ _ _) (by rw [State.Turned, State.frame_answer]) (State.noticed_noticeAll _).turned
        refine ⟨_, run.trans (congrArg (Host.Outcome.next ·.noticeAll) served), Performed.of none stored rfl rfl turned hart, ?_⟩
        rw [if_pos asked]
        exact ans.of_same chip.symm outbox.symm conns.symm rfl rfl
      · rw [if_neg asked] at served
        refine ⟨_, run.trans (congrArg (Host.Outcome.next ·.noticeAll) served),
          Performed.of none stored rfl rfl u.noticed_noticeAll.turned u.noticed_noticeAll.hart, ?_⟩
        rw [if_neg asked]
        exact ⟨by rw [u.noticed_noticeAll.frame, outbox], by rw [u.noticed_noticeAll.frame, conns]⟩
  · rintro (rfl | rfl) <;> exact ⟨s.takeAnswer r, rfl, s.takeAnswer_facts r⟩
  · rintro rfl none
    by_cases due : r.addr.toNat % 2 ^ 32 ≤ Sparse.get 0 s.sealCount (recordSource r)
    · refine ⟨s.takeSeal r, rfl, ?_⟩
      rw [State.takeSeal_due none due, if_pos due]
      refine ⟨by rw [State.frame_answer], by rw [State.frame_answer], (s.answered_answer r 0x09 []).of_same rfl rfl rfl rfl rfl, rfl, ?_⟩
      dsimp only
      rw [Sparse.modify, Sparse.get_set_same]
    · refine ⟨s.takeSeal r, rfl, ?_⟩
      rw [State.takeSeal_early none due, if_neg due]
      exact ⟨rfl, rfl, rfl⟩
  · rintro rfl
    exact ⟨s.takeSealAck r, rfl, s.takeSealAck_facts r⟩
  · rintro rfl
    obtain ⟨mem, hart, ctx⟩ := s.takePerfack_facts r
    exact ⟨s.takePerfack r, rfl, mem, hart, ctx⟩
  · intro die s mine now q hmine hnow
    subst hmine
    refine ⟨fun none => ?_, fun first => ?_⟩
    · show execPerfackSendTimer die s = _
      unfold execPerfackSendTimer
      dsimp only
      rw [none]
      rfl
    · subst hnow
      let now := ((s.perfacks.filter fun r => s.homeDie r.addr.toNat = die).filter
        fun r => (r.srcDev, r.srcDie) = (q.srcDev, q.srcDie)).take 32
      let data := natBytes 4 now.length ++ now.flatMap fun r => natBytes 4 r.tag.toNat
      let x : Record := ⟨s.chip, die, 0x0C, data.length, 0, false, 0, 0, data, none⟩
      refine ⟨{ s.sendTo q.srcDev q.srcDie false false x with
          perfacks := (s.sendTo q.srcDev q.srcDie false false x).perfacks.filter fun r => !now.contains r }, x, ?_,
        by rw [State.sendTo_eq], by rw [State.sendTo_eq], by dsimp only; rw [State.sendTo_eq], State.sent_sendTo, rfl, rfl⟩
      show execPerfackSendTimer die s = _
      unfold execPerfackSendTimer
      dsimp only
      rw [first]
      rfl
end

section
/-!
SUPPORT. Steps of a collective operation (06_memory_isa R199, R204; 10_consistency R263; 17_prog_decode R323, R324; 20_faults R374,
R375): what the completion and the fault of a member change, and what a contribution from another device does.
-/

namespace Sys2Proof.Machine

section
variable {s t u : State} {key h j : Nat} {g : CtxSlot → CtxSlot}

/-! ### Completion -/

theorem State.hart_withSlot_coll (hart : (s.ctx key).hart = some h) (half : 1024 ≤ key % 2048) : (s.withSlot key g).hart h =
    (s.hart h).setCtxSlot ((s.ctx key).slot + 8) (g ((s.hart h).ctxSlot ((s.ctx key).slot + 8))) := by
  rw [State.withSlot, hart, if_pos half]
  exact State.hart_setHart_same ..
theorem State.frame_completeCtx (s : State) (key : Nat) (n : Word) : s.completeCtx key n =
    { s with harts := (s.completeCtx key n).harts, ctxs := (s.completeCtx key n).ctxs } := by
  rw [State.completeCtx, State.frame_withSlot]
  rfl
theorem State.ctx_completeCtx (s : State) (key : Nat) (n : Word) :
    (s.completeCtx key n).ctx key = { s.ctx key with completed := n } := by
  rw [State.completeCtx, State.ctx_withSlot, State.ctx_setCtx, if_pos rfl]
theorem State.completed_completeCtx (hart : (s.ctx key).hart = some h) (half : 1024 ≤ key % 2048) (n : Word) :
    (((s.completeCtx key n).hart h).ctxSlot ((s.ctx key).slot + 8)).completed = n := by
  have ctx : (s.setCtx key { s.ctx key with completed := n }).ctx key = { s.ctx key with completed := n } := by
    rw [State.ctx_setCtx, if_pos rfl]
  rw [State.completeCtx, State.hart_withSlot_coll (by rw [ctx]; exact hart) half, ctx, Hart.ctxSlot_setCtxSlot, if_pos rfl]

/-- The only command of a context is done, and leaves it. -/
theorem State.finishCmd_only {m : CollCmd} (only : (s.ctx key).coll = [m]) (hart : (s.ctx key).hart = some h) (half : 1024 ≤ key % 2048)
    (f : Flags) : (s.finishCmd key m.num f).mem = s.mem ∧ ((s.finishCmd key m.num f).ctx key).coll = [] ∧
      (((s.finishCmd key m.num f).hart h).ctxSlot ((s.ctx key).slot + 8)).completed = m.num := by
  let v := s.setCmd key m.num fun x => { x with done := some f }
  have ctxV : v.ctx key = { s.ctx key with coll := [{ m with done := some f }] } := by
    show (s.setCtx key _).ctx key = _
    rw [State.ctx_setCtx, if_pos rfl, only, List.map_cons, if_pos rfl]
    rfl
  let w := v.setCtx key { s.ctx key with
    coll := []
    parkSince := none
    statuses := (s.ctx key).statuses ++ [(m.num, f)] }
  have done : s.finishCmd key m.num f = w.completeCtx key m.num := by
    unfold State.finishCmd
    dsimp only
    rw [ctxV]
    rfl
  have ctxW : w.ctx key = { s.ctx key with coll := [], parkSince := none, statuses := (s.ctx key).statuses ++ [(m.num, f)] } := by
    rw [State.ctx_setCtx, if_pos rfl]
  have completed := State.completed_completeCtx (s := w) (by rw [ctxW]; exact hart) half m.num
  rw [ctxW] at completed
  rw [done]
  refine ⟨by rw [State.frame_completeCtx]; rfl, ?_, completed⟩
  rw [State.ctx_completeCtx, ctxW]

/-! ### Faults of members (R204, R311, R374) -/

/-- The record that a fault leaves in a context. -/
def Ctx.fault (x : Ctx) (cause : Byte) (side reason : Nat) (issue va : Word) (perf : Nat) : Ctx :=
  { x with
    faulted := true
    inFlight := false
    parkSince := none
    rec0 := BitVec.ofNat 64 (cause.toNat + side * 2 ^ 8 + 2 ^ 10 + reason * 2 ^ 16)
    recIssue := issue
    recVaddr := va
    recPerf := BitVec.ofNat 64 perf }
/-- Commands of collective contexts have gone on with none but contexts and harts changed: a context is as it was, and a pending
fault stays pending. -/
structure State.Spares (key : Nat) (s t : State) : Prop where
  frame : t = { s with harts := t.harts, ctxs := t.ctxs, collOps := t.collOps, fresh := t.fresh }
  ctx : t.ctx key = s.ctx key
  flag : ∀ h, (s.hart h).collFault = true → (t.hart h).collFault = true
  wf : Sparse.wf Ctx.empty s.ctxs = true → Sparse.wf Ctx.empty t.ctxs = true
theorem State.Spares.refl (s : State) : s.Spares key s := ⟨rfl, rfl, fun _ => id, id⟩
theorem State.Spares.trans (a : s.Spares key t) (b : t.Spares key u) : s.Spares key u where
  frame := by rw [b.frame, a.frame]
  ctx := b.ctx.trans a.ctx
  flag h := b.flag h ∘ a.flag h
  wf := b.wf ∘ a.wf

section
variable {cause : Byte} {side reason perf : Nat} {issue va : Word}

theorem State.frame_faultCtx : s.faultCtx key cause side reason issue va perf =
    { s with
      harts := (s.faultCtx key cause side reason issue va perf).harts
      ctxs := Sparse.set Ctx.empty s.ctxs key ((s.ctx key).fault cause side reason issue va perf) } := by
  unfold State.faultCtx
  dsimp only
  rw [State.frame_withSlot]
  split <;> rfl
theorem State.ctx_faultCtx : (s.faultCtx key cause side reason issue va perf).ctx j =
    if j = key then (s.ctx key).fault cause side reason issue va perf else s.ctx j := by
  rw [State.frame_faultCtx]
  exact State.ctx_setCtx s key j _
theorem State.flag_withSlot (flag : (s.hart h).collFault = true) : ((s.withSlot key g).hart h).collFault = true := by
  unfold State.withSlot
  split
  next => exact flag
  next k _ =>
    rw [State.hart_setHart]
    by_cases same : h = k
    · subst same
      rw [if_pos rfl]
      exact flag
    · rw [if_neg same]
      exact flag
theorem State.spares_faultCtx (other : key ≠ j) : s.Spares key (s.faultCtx j cause side reason issue va perf) where
  frame := by rw [State.frame_faultCtx]
  ctx := by rw [State.ctx_faultCtx, if_neg other]
  flag h flag := by
    unfold State.faultCtx
    dsimp only
    split
    next => exact State.flag_withSlot flag
    next k _ =>
      rw [State.hart_setHart]
      by_cases same : h = k
      · subst same
        rw [if_pos rfl]
        split
        · rfl
        · exact State.flag_withSlot flag
      · rw [if_neg same]
        exact State.flag_withSlot flag
  wf wf := by
    rw [State.frame_faultCtx]
    exact Sparse.wf_set _ _ wf
theorem State.collFault_faultCtx (hart : (s.ctx key).hart = some h) (half : 1024 ≤ key % 2048) :
    ((s.faultCtx key cause side reason issue va perf).hart h).collFault = true := by
  unfold State.faultCtx
  dsimp only
  rw [hart]
  dsimp only
  rw [State.hart_setHart_same, if_pos (decide_eq_true half)]
end

theorem State.Spares.foldl {α : Type} {f : State → α → State} {l : List α} (each : ∀ a ∈ l, ∀ s : State, s.Spares key (f s a)) (s : State) :
    s.Spares key (l.foldl f s) := by
  induction l generalizing s with
  | nil => exact .refl s
  | cons a l ih =>
    exact (each a List.mem_cons_self s).trans (ih (fun b h => each b (List.mem_cons_of_mem _ h)) _)
/-- A faulted context has no command that goes on with an operation. -/
theorem State.not_mem_opCmds {l : List (BitVec 32)} {i : Nat} {c : Nat × CollCmd} (wf : Sparse.wf Ctx.empty s.ctxs = true)
    (faulted : (s.ctx key).faulted = true) (isIn : c ∈ s.opCmds l i) : c.1 ≠ key := by
  rintro rfl
  obtain ⟨e, mem, some⟩ := List.mem_filterMap.mp isIn
  split at some
  · exact nomatch some
  next sound =>
    obtain ⟨m, -, rfl⟩ := Option.map_eq_some_iff.mp some
    have same : s.ctx e.1 = e.2 := (Sparse.le_and_get_of_mem (Bool.and_eq_true_iff.mp wf).1 mem).2
    rw [same] at faulted
    exact sound faulted
/-- The failure of an operation leaves a context that has faulted as it is. -/
theorem State.spares_failOp {l : List (BitVec 32)} {i : Nat} (wf : Sparse.wf Ctx.empty s.ctxs = true)
    (faulted : (s.ctx key).faulted = true) : s.Spares key (s.failOp l i) := by
  unfold State.failOp
  refine State.Spares.trans (t := s.setCollOp _) ⟨rfl, rfl, fun _ => id, id⟩ (State.Spares.foldl (fun c isIn u => ?_) _)
  refine State.spares_faultCtx (Ne.symm ?_)
  exact State.not_mem_opCmds (s := s.setCollOp _) wf faulted (List.mem_filter.mp isIn).1
theorem State.spares_abortOp {m : CollCmd} (wf : Sparse.wf Ctx.empty s.ctxs = true) (faulted : (s.ctx key).faulted = true) :
    s.Spares key (s.abortOp key m) := by
  unfold State.abortOp
  dsimp only
  split
  · exact .refl s
  · exact State.spares_failOp wf faulted

/-- A member that faults on its command, and with it those that depend on it. -/
theorem State.memberFault {w : State} {reason : Nat} {num : Word} (hart : (s.ctx key).hart = some h) (half : 1024 ≤ key % 2048)
    (after : (s.faultCtx key causeCollfault 0 reason num 0 0).Spares key w) :
    w.mem = s.mem ∧ w.collOut = s.collOut ∧ (w.ctx key).faulted = true ∧
      (w.ctx key).rec0 = BitVec.ofNat 64 (0x14 + 2 ^ 10 + reason * 2 ^ 16) ∧ (w.ctx key).recIssue = num ∧
      (w.hart h).collFault = true := by
  have ctx : w.ctx key = (s.ctx key).fault causeCollfault 0 reason num 0 0 := by
    rw [after.ctx, State.ctx_faultCtx, if_pos rfl]
  have mem : w.mem = s.mem := by rw [after.frame, State.frame_faultCtx]
  have out : w.collOut = s.collOut := by rw [after.frame, State.frame_faultCtx]
  rw [ctx]
  exact ⟨mem, out, rfl, rfl, rfl, after.flag h (State.collFault_faultCtx hart half)⟩

theorem State.faulted_faultCtx {cause : Byte} {side reason perf : Nat} {issue va : Word} :
    ((s.faultCtx key cause side reason issue va perf).ctx key).faulted = true := by
  rw [State.ctx_faultCtx, if_pos rfl]
  rfl
theorem State.wf_faultCtx {cause : Byte} {side reason perf : Nat} {issue va : Word} (wf : Sparse.wf Ctx.empty s.ctxs = true) :
    Sparse.wf Ctx.empty (s.faultCtx key cause side reason issue va perf).ctxs = true := by
  rw [State.frame_faultCtx]
  exact Sparse.wf_set _ _ wf

/-- The fault of a member at its park limit. -/
theorem State.parkFault_facts {m : CollCmd} (hart : (s.ctx key).hart = some h) (half : 1024 ≤ key % 2048)
    (wf : Sparse.wf Ctx.empty s.ctxs = true) : (s.parkFault key m).mem = s.mem ∧ (s.parkFault key m).collOut = s.collOut ∧
      ((s.parkFault key m).ctx key).faulted = true ∧
      ((s.parkFault key m).ctx key).rec0 = BitVec.ofNat 64 (0x14 + 2 ^ 10 + 1 * 2 ^ 16) ∧
      ((s.parkFault key m).ctx key).recIssue = m.num ∧ ((s.parkFault key m).hart h).collFault = true :=
  State.memberFault hart half (State.spares_failOp (State.wf_faultCtx wf) State.faulted_faultCtx)

theorem State.ctx_tickTime (s : State) (k : Nat) : s.tickTime.ctx k = s.ctx k := rfl
theorem State.mem_resendColl {l : List CollSend} {x : CollSend} (isIn : x ∈ l) : x ∈ (s.resendColl l).collOut := by
  show x ∈ s.collOut ++ l.filter fun x => !s.collOut.contains x
  by_cases out : x ∈ s.collOut
  · exact List.mem_append_left _ out
  · exact List.mem_append_right _ (List.mem_filter.mpr ⟨isIn, by simpa using out⟩)
/-- The first that a member learns of a parked one. -/
theorem State.parkedAt_first {m : CollCmd} (current : (s.ctx key).current = some m) (sound : (s.ctx key).faulted = false)
    (awake : (s.ctx key).stopped = false) (first : (s.ctx key).parkSince = none) : s.parkedAt key =
      if (s.tickTime.die (key / 2048 + 8)).parklim = 0 then s.tickTime.parkFault key m
      else s.tickTime.setCtx key { s.ctx key with
        parkSince := some ((s.tickTime.die (key / 2048 + 8)).ptime, (s.tickTime.die (key / 2048 + 8)).parklim) } := by
  unfold State.parkedAt
  dsimp only
  rw [current]
  dsimp only
  rw [if_neg (by rw [sound, awake]; decide), first, State.ctx_tickTime]

/-- Members whose words differ: each of those listed faults with REASON 2, and one that has faulted stays as it is. -/
theorem State.ctx_faultAll (l : List (Nat × Word)) (s : State) (k : Nat) :
    (k ∉ l.map (·.1) ∨ (s.ctx k).faulted = true →
      (l.foldl (fun s c => if (s.ctx c.1).faulted then s else s.faultCtx c.1 causeCollfault 0 2 c.2 0 0) s).ctx k = s.ctx k) ∧
    (k ∈ l.map (·.1) → (s.ctx k).faulted = false → ∃ num,
      (l.foldl (fun s c => if (s.ctx c.1).faulted then s else s.faultCtx c.1 causeCollfault 0 2 c.2 0 0) s).ctx k =
        (s.ctx k).fault causeCollfault 0 2 num 0 0) := by
  induction l generalizing s with
  | nil => exact ⟨fun _ => rfl, fun h => absurd h List.not_mem_nil⟩
  | cons c l ih =>
    rw [List.foldl_cons]
    by_cases faulted : (s.ctx c.1).faulted = true
    · rw [if_pos faulted]
      obtain ⟨stays, faults⟩ := ih s
      refine ⟨fun h => stays (h.imp_left fun out isIn => out (List.mem_cons_of_mem _ isIn)), fun isIn sound => ?_⟩
      obtain rfl | isIn := List.mem_cons.mp isIn
      · exact absurd (faulted.symm.trans sound) (by decide)
      · exact faults isIn sound
    · rw [if_neg faulted]
      obtain ⟨stays, faults⟩ := ih (s.faultCtx c.1 causeCollfault 0 2 c.2 0 0)
      by_cases mine : k = c.1
      · subst mine
        rw [State.ctx_faultCtx, if_pos rfl] at stays
        refine ⟨fun h => ?_, fun _ _ => ⟨c.2, stays (.inr rfl)⟩⟩
        exact h.elim (fun out => absurd List.mem_cons_self out) fun yes => absurd yes faulted
      · rw [State.ctx_faultCtx, if_neg mine] at stays faults
        exact ⟨fun h => stays (h.imp_left fun out isIn => out (List.mem_cons_of_mem _ isIn)),
          fun isIn sound => faults ((List.mem_cons.mp isIn).resolve_left mine) sound⟩
theorem State.frame_sendWords (l : List (Nat × CollCmd)) (s : State) : l.foldl (fun s c => s.sendWord c.1 c.2) s =
    { s with collOut := (l.foldl (fun s c => s.sendWord c.1 c.2) s).collOut } := by
  induction l generalizing s with
  | nil => rfl
  | cons c l ih =>
    rw [List.foldl_cons, ih]
    rfl
theorem State.mem_faultAll (l : List (Nat × Word)) (s : State) :
    (l.foldl (fun s c => if (s.ctx c.1).faulted then s else s.faultCtx c.1 causeCollfault 0 2 c.2 0 0) s).mem = s.mem := by
  induction l generalizing s with
  | nil => rfl
  | cons c l ih =>
    rw [List.foldl_cons, ih]
    split
    · rfl
    · rw [State.frame_faultCtx]
theorem State.mem_faultWords (s : State) (l : List (BitVec 32)) (i : Nat) : (s.faultWords l i).mem = s.mem := by
  unfold State.faultWords
  rw [State.mem_faultAll, State.frame_sendWords]
  rfl
theorem State.ctx_faultWords {l : List (BitVec 32)} {i : Nat} {c : Nat × Word} (isIn : c ∈ (s.collOp l i).joined) :
    ((s.faultWords l i).ctx c.1).faulted = true ∧ ((s.ctx c.1).faulted = false →
      ((s.faultWords l i).ctx c.1).rec0 = BitVec.ofNat 64 (0x14 + 2 ^ 10 + 2 * 2 ^ 16)) := by
  have listed : c.1 ∈ (s.collOp l i).joined.map (·.1) := List.mem_map_of_mem isIn
  unfold State.faultWords
  dsimp only
  rw [State.frame_sendWords]
  generalize sent : State.setCollOp _ _ = w
  have same : w.ctx c.1 = s.ctx c.1 := by rw [← sent]; rfl
  obtain ⟨stays, faults⟩ := State.ctx_faultAll (s.collOp l i).joined w c.1
  rw [same] at stays faults
  cases was : (s.ctx c.1).faulted with
  | true => exact ⟨by rw [stays (.inr was)]; exact was, fun no => nomatch no⟩
  | false =>
    obtain ⟨num, now⟩ := faults listed was
    rw [now]
    exact ⟨rfl, fun _ => rfl⟩

/-! ### Contributions from other devices (R265, R324) -/

theorem State.collOp_names (s : State) (l : List (BitVec 32)) (i : Nat) : (s.collOp l i).group = l ∧ (s.collOp l i).index = i := by
  unfold State.collOp
  cases found : s.collOps.find? fun o => o.group = l ∧ o.index = i with
  | none => exact ⟨rfl, rfl⟩
  | some o => simpa using List.find?_some found
theorem State.collOp_setCollOp (s : State) (o : CollOp) : (s.setCollOp o).collOp o.group o.index = o := by
  simp [State.collOp, State.setCollOp]
/-- Contexts without commands have none to go on with. -/
theorem State.progressColl_none (none : ∀ c ∈ s.ctxs, c.2.coll = []) : s.progressColl = s := by
  have each (l : List (Nat × Ctx)) : ∀ s : State, (∀ c ∈ l, c.2.coll = []) →
      l.foldl (fun s c => c.2.coll.foldl (fun s m => s.tryCmd c.1 m.num) s) s = s := by
    induction l with
    | nil => exact fun _ _ => rfl
    | cons c l ih =>
      intro s none
      rw [List.foldl_cons, none c List.mem_cons_self]
      exact ih s fun x h => none x (List.mem_cons_of_mem _ h)
  exact each s.ctxs s none
theorem State.opCmds_none {l : List (BitVec 32)} {i : Nat} (none : ∀ c ∈ s.ctxs, c.2.coll = []) : s.opCmds l i = [] := by
  refine List.filterMap_eq_nil_iff.mpr fun c h => ?_
  rw [none c h]
  split <;> rfl

variable {r : Record} {m : CollMsg} {dest : Nat}

/-- A record of a message of which no other has come. -/
theorem State.collPart_first {p : CollPart} (part : r.coll = some p) (hm : m = { p.msg with data := r.data })
    (first : ∀ x ∈ s.collIn, sameMsg r x = false) : s.collPart dest r =
      if r.data.length < p.total then { s with collIn := s.collIn ++ [r] }
      else if dest ≠ s.chip then s.relayColl dest r m
      else if m.group.any fun e => endDev e = s.chip then s.takeColl r m
      else s := by
  have none : s.collIn.filter (sameMsg r) = [] := List.filter_eq_nil_iff.mpr fun x h => by rw [first x h]; exact Bool.false_ne_true
  have all : s.collIn.filter (fun x => !sameMsg r x) = s.collIn := List.filter_eq_self.mpr fun x h => by rw [first x h]; rfl
  have data : [r].flatMap (·.data) = r.data := List.append_nil _
  subst hm
  unfold State.collPart
  rw [part]
  dsimp only
  rw [none, all, List.nil_append, data]
  simp only [List.foldl_cons, List.foldl_nil, insertBy, data]

theorem State.relayColl_on (flat : collNodes m.word = false) : s.relayColl dest r m =
    { s with collOut := s.collOut ++ [⟨dest, false, { r with coll := none, data := [] }, m⟩] } := by
  rw [State.relayColl, flat]
  rfl

theorem State.words_agree (same : ∀ g ∈ (s.collOp m.group m.index).given, g.word = m.word)
    (words : ∀ c ∈ s.opCmds m.group m.index, c.2.word = m.word) :
    ((s.collOp m.group m.index).given.map (·.word) ++ (s.opCmds m.group m.index).map fun c => c.2.word).any
    (· ≠ m.word) = false := by
  refine List.any_eq_false.mpr fun w isIn => ?_
  obtain isIn | isIn := List.mem_append.mp isIn
  · obtain ⟨g, mem, rfl⟩ := List.mem_map.mp isIn
    simp [same g mem]
  · obtain ⟨c, mem, rfl⟩ := List.mem_map.mp isIn
    simp [words c mem]

variable (open' : (s.collOp m.group m.index).fate = none)
include open'

theorem State.takeColl_differs (differs : ∃ g ∈ (s.collOp m.group m.index).given, g.word ≠ m.word) :
    s.takeColl r m = s.faultWords m.group m.index := by
  obtain ⟨g, isIn, word⟩ := differs
  have some : ((s.collOp m.group m.index).given.map (·.word) ++ (s.opCmds m.group m.index).map fun c => c.2.word).any
      (· ≠ m.word) = true :=
    List.any_eq_true.mpr ⟨g.word, List.mem_append_left _ (List.mem_map_of_mem isIn), decide_eq_true word⟩
  unfold State.takeColl
  dsimp only
  rw [open', if_neg (by decide), if_pos some]

variable (same : ∀ g ∈ (s.collOp m.group m.index).given, g.word = m.word) (words : ∀ c ∈ s.opCmds m.group m.index, c.2.word = m.word)
include same words

theorem State.takeColl_duplicate (held : ∃ g ∈ (s.collOp m.group m.index).given, g.ranks = m.ranks ∧ g.level = m.level) :
    s.takeColl r m = s := by
  obtain ⟨g, isIn, place⟩ := held
  have some : ((s.collOp m.group m.index).given.any fun g => decide (g.ranks = m.ranks ∧ g.level = m.level)) = true :=
    List.any_eq_true.mpr ⟨g, isIn, decide_eq_true place⟩
  unfold State.takeColl
  dsimp only
  rw [open', if_neg (by decide), if_neg (by rw [State.words_agree same words]; exact Bool.false_ne_true), if_pos some]
/-- A new contribution takes its place in an operation of which this device has no members yet. -/
theorem State.takeColl_new (new : ∀ g ∈ (s.collOp m.group m.index).given, ¬ (g.ranks = m.ranks ∧ g.level = m.level))
    (unordered : collOrdered m.word = false) (flat : collNodes m.word = false) (none : ∀ c ∈ s.ctxs, c.2.coll = []) :
    s.takeColl r m = s.setCollOp { s.collOp m.group m.index with given := (s.collOp m.group m.index).given ++ [m] } := by
  have fresh : ((s.collOp m.group m.index).given.any fun g => decide (g.ranks = m.ranks ∧ g.level = m.level)) = false :=
    List.any_eq_false.mpr fun g h => by simpa using new g h
  have given : s.give m false = s.setCollOp { s.collOp m.group m.index with given := (s.collOp m.group m.index).given ++ [m] } := by
    rw [State.give, flat, unordered]
    rfl
  have agree := State.words_agree same words
  unfold State.takeColl
  dsimp only
  rw [if_neg (by rw [open']; decide), if_neg (by rw [agree]; exact Bool.false_ne_true), if_neg (by rw [fresh]; exact Bool.false_ne_true),
    State.opCmds_none none, unordered, given]
  rw [if_neg (by simp), if_neg (by simp), List.foldl_nil]
  exact State.progressColl_none (s := s.setCollOp { s.collOp m.group m.index with given := (s.collOp m.group m.index).given ++ [m] }) none
end

end Sys2Proof.Machine

open Sys2Proof Sys2Proof.Machine

/-- Settles O49: a due write by its root and by a member, a parked, an expired and a failed member through the one fault of a context,
and a contribution by what its operation holds. -/
theorem collectiveOperationsProceed : Obligations.CollectiveOperationsProceed := by
  unfold Obligations.CollectiveOperationsProceed
  refine ⟨?_, ?_, ?_⟩
  · intro key h s u m hu sound due only hart half
    subst hu
    have run : exec (.multicastApply key) s = .next (if m.rank = collRoot m.word then s.tickTime.finishCmd key m.num 0
        else s.tickTime.putResult key m 0 ((((s.tickTime.collOp m.group m.index).given.find? fun g =>
          g.ranks.contains (collRoot m.word)).map (·.data)).getD []) 0) := by
      show execMulticastApply key s = _
      unfold execMulticastApply
      dsimp only
      rw [if_neg (by rw [show (s.tickTime.ctx key).faulted = false from sound]; exact Bool.false_ne_true), due]
    refine ⟨_, run, fun root => ?_, fun g locs other idle given side near => ?_⟩
    · rw [if_pos root]
      exact State.finishCmd_only (s := s.tickTime) only hart half 0
    · rw [if_neg other, given]
      obtain ⟨v, put, frame, mem⟩ := s.tickTime.xferPut_near (key := key) (x := Xfer.none) locs g.data fun a isIn => by
        obtain ⟨l, mem, rfl⟩ := List.mem_map.mp isIn
        exact near l mem
      have ctx : v.ctx key = s.ctx key := by rw [frame]; rfl
      have done : s.tickTime.putResult key m 0 g.data 0 = v.finishCmd key m.num 0 := by
        have side' : s.tickTime.segSide ((s.tickTime.ctx key).party m.user) .bulkWr 1 (m.buf + BitVec.ofNat 64 0) g.data.length =
            .ok locs := side
        unfold State.putResult
        dsimp only
        rw [idle, side']
        dsimp only
        rw [put]
        rfl
      obtain ⟨memF, coll, completed⟩ := State.finishCmd_only (s := v) (m := m) (ctx ▸ only) (ctx ▸ hart) half 0
      rw [ctx] at completed
      show (s.tickTime.putResult key m 0 g.data 0).mem = _ ∧ ((s.tickTime.putResult key m 0 g.data 0).ctx key).coll = [] ∧
        (((s.tickTime.putResult key m 0 g.data 0).hart h).ctxSlot _).completed = _
      rw [done]
      exact ⟨memF.trans mem, coll, completed⟩
  · intro key h s u m current hart half sound awake wf hu
    subst hu
    refine ⟨fun t0 lim since => ?_, fun since parked => ?_, ?_⟩
    · have run : exec (.parkLimitExpiry key) s = .next (if s.parkedOp key m = true ∧ s.mailbox.state ≠ .retained ∧ s.mailbox.state ≠ .resuming
          then s.parkExpires key m (t0, lim) else s) := by
        show execParkLimitExpiry key s = _
        unfold execParkLimitExpiry
        rw [since, current]
        refine congrArg Host.Outcome.next (if_congr ?_ rfl rfl)
        simp only [ne_eq, Bool.and_eq_true, decide_not, Bool.not_eq_true', decide_eq_false_iff_not]
        tauto
      rw [run]
      split
      · rw [State.parkExpires]
        split
        · obtain ⟨mem, -, facts⟩ := State.parkFault_facts (s := s.tickTime) (m := m) hart half wf
          exact ⟨_, rfl, mem, facts⟩
        · rfl
      · rfl
    · have here : (!(s.farDevs m.group).isEmpty || s.parkedOp key m) = true := by
        rw [Bool.or_eq_true]
        refine parked.imp (fun some => by simpa using some) fun ⟨c, isIn, other, stopped⟩ => ?_
        rw [State.parkedOp, Bool.or_eq_true]
        exact .inl (List.any_eq_true.mpr ⟨c, isIn, by rw [decide_eq_true other, stopped]; rfl⟩)
      have run : exec (.parked key) s = .next ((s.resendColl (s.sentFor m)).parkedAt key) := by
        show execParked key s = _
        unfold execParked
        rw [current]
        dsimp only
        rw [if_pos here]
      have die (d : Nat) : (s.resendColl (s.sentFor m)).tickTime.die d = s.tickTime.die d := rfl
      have step := State.parkedAt_first (s := s.resendColl (s.sentFor m)) current sound awake since
      rw [die] at step
      have kept (x : CollSend) (h : x ∈ s.sentFor m) : x ∈ (s.resendColl (s.sentFor m)).tickTime.collOut := by
        show x ∈ (s.resendColl (s.sentFor m)).collOut
        exact State.mem_resendColl h
      refine ⟨_, run, ?_⟩
      rw [step]
      split
      · have ctx : (s.resendColl (s.sentFor m)).tickTime.ctx key = s.ctx key := State.ctx_tickTime ..
        obtain ⟨mem, out, faulted, rec0, -, flag⟩ := State.parkFault_facts (s := (s.resendColl (s.sentFor m)).tickTime) (m := m)
          (by rw [ctx]; exact hart) half (by rw [State.ctxs_tickTime]; exact wf)
        exact ⟨mem, fun x h => by rw [out]; exact kept x h, faulted, rec0, flag⟩
      · refine ⟨rfl, kept, by rw [State.tickTime_eq]; rfl, ?_⟩
        rw [State.ctx_setCtx, if_pos rfl]
    · have run : exec (.aborted key) s = .next (if s.failedOp m then s.faultColl key causeCollfault 0 0 0 m else s) := by
        show execAborted key s = _
        unfold execAborted State.abortedAt
        rw [current, sound, awake]
        rfl
      rw [run]
      split
      · refine ⟨_, rfl, ?_⟩
        have after : (s.faultCtx key causeCollfault 0 0 m.num 0 0).Spares key (s.faultColl key causeCollfault 0 0 0 m) :=
          State.spares_abortOp (State.wf_faultCtx wf) State.faulted_faultCtx
        obtain ⟨mem, -, faulted, rec0, -, flag⟩ := State.memberFault hart half after
        exact ⟨mem, faulted, rec0, flag⟩
      · rfl
  · intro dest r p m s part hm first
    have run : exec (.colldata ⟨dest, r⟩) s = .next (s.collPart dest r) := rfl
    rw [run, State.collPart_first part hm first]
    refine ⟨fun early => by rw [if_pos early], fun all => ⟨fun away flat => ?_, fun here none => ?_, fun here some open' => ⟨fun same words =>
      ⟨fun held => ?_, fun new unordered flat none => ?_⟩, fun differs wf => ?_⟩⟩⟩
    all_goals rw [if_neg (Nat.not_lt.mpr all)]
    · rw [if_pos away, State.relayColl_on flat]
    all_goals rw [if_neg (not_not.mpr here)]
    · rw [if_neg (by simpa using none)]
    all_goals rw [if_pos (by simpa using some)]
    · rw [State.takeColl_duplicate open' same words held]
    · refine ⟨_, rfl, ?_, ?_⟩
      · rw [State.takeColl_new open' same words new unordered flat none]
        rfl
      · rw [State.takeColl_new open' same words new unordered flat none]
        obtain ⟨group, index⟩ := s.collOp_names m.group m.index
        have names := s.collOp_setCollOp { s.collOp m.group m.index with given := (s.collOp m.group m.index).given ++ [m] }
        rw [show ({ s.collOp m.group m.index with given := (s.collOp m.group m.index).given ++ [m] } : CollOp).group = m.group from group,
          show ({ s.collOp m.group m.index with given := (s.collOp m.group m.index).given ++ [m] } : CollOp).index = m.index from index] at names
        rw [names]
    · rw [State.takeColl_differs open' differs]
      exact ⟨_, rfl, State.mem_faultWords .., fun c isIn => State.ctx_faultWords isIn⟩
end

section
/-!
SUPPORT. COLL (06_memory_isa R197, R199): what a command that goes on leaves of harts' registers, addresses and issue counts, and the
numbers of the endpoints' operations.
-/

namespace Sys2Proof.Machine

/-! ### What commands of collective contexts leave alone -/

/-- A hart's scalar registers, its address and the issue counts of its slots are as they were. -/
structure Hart.Goes (t u : Hart) : Prop where
  x : u.x = t.x
  pc : u.pc = t.pc
  issued : ∀ k, (u.ctxSlot k).issued = (t.ctxSlot k).issued
theorem Hart.Goes.refl (t : Hart) : t.Goes t := ⟨rfl, rfl, fun _ => rfl⟩
theorem Hart.Goes.trans {t u w : Hart} (a : t.Goes u) (b : u.Goes w) : t.Goes w :=
  ⟨b.x.trans a.x, b.pc.trans a.pc, fun k => (b.issued k).trans (a.issued k)⟩
theorem Hart.Goes.of_slot {t : Hart} {k : Nat} {c : CtxSlot} (same : c.issued = (t.ctxSlot k).issued) : t.Goes (t.setCtxSlot k c) where
  x := rfl
  pc := rfl
  issued j := by
    rw [Hart.ctxSlot_setCtxSlot]
    split
    next at' => rw [at', same]
    next => rfl
theorem Hart.Landed.goes {t u : Hart} (a : t.Landed u) : t.Goes u := by
  rw [a.frame]
  exact ⟨rfl, rfl, fun _ => rfl⟩

/-- Every hart is as `Hart.Goes` says, and no endpoint has issued an operation. -/
structure State.Goes (s t : State) : Prop where
  cur : t.cur = s.cur
  count : t.collCount = s.collCount
  hart : ∀ h, (s.hart h).Goes (t.hart h)

section
variable {r s t : State}

theorem State.Goes.refl (s : State) : s.Goes s := ⟨rfl, rfl, fun _ => .refl _⟩
theorem State.Goes.trans (a : r.Goes s) (b : s.Goes t) : r.Goes t :=
  ⟨b.cur.trans a.cur, b.count.trans a.count, fun h => (a.hart h).trans (b.hart h)⟩
/-- A step that leaves the harts and the endpoints' counts alone. -/
theorem State.Goes.of_harts (a : r.Goes s) (cur : t.cur = s.cur) (count : t.collCount = s.collCount) (harts : t.harts = s.harts) :
    r.Goes t :=
  a.trans ⟨cur, count, fun h => by rw [State.hart, State.hart, harts]; exact .refl _⟩
theorem State.Goes.setHart {h : Nat} {x : Hart} (a : r.Goes s) (own : (s.hart h).Goes x) : r.Goes (s.setHart h x) := by
  refine a.trans ⟨rfl, rfl, fun k => ?_⟩
  rw [State.hart_setHart]
  split
  next same => exact same ▸ own
  next => exact .refl _
theorem State.Goes.ite {c : Prop} [Decidable c] (a : r.Goes s) (b : r.Goes t) : r.Goes (if c then s else t) := by
  split
  · exact a
  · exact b
theorem State.Goes.foldl {α : Type} {f : State → α → State} {l : List α} (a : r.Goes s)
    (each : ∀ {s : State} {x}, r.Goes s → r.Goes (f s x)) : r.Goes (l.foldl f s) := by
  induction l generalizing s with
  | nil => exact a
  | cons x l ih => exact ih (each a)
/-- The same where a step carries more than the state. -/
theorem State.Goes.foldl_fst {α β : Type} {f : State × β → α → State × β} {l : List α} {o : State × β} (a : r.Goes o.1)
    (each : ∀ {o : State × β} {x}, r.Goes o.1 → r.Goes (f o x).1) : r.Goes (l.foldl f o).1 := by
  induction l generalizing o with
  | nil => exact a
  | cons x l ih => exact ih (each a)
theorem State.Goes.ite_fst {c : Prop} [Decidable c] {β : Type} {x y : State × β} (a : r.Goes x.1) (b : r.Goes y.1) :
    r.Goes (if c then x else y).1 := by
  split
  · exact a
  · exact b
theorem State.Landed.goes {h : Nat} (a : s.Landed h t) : s.Goes t := by
  refine ⟨a.cur, by rw [a.frame], fun k => ?_⟩
  by_cases own : k = h
  · exact own ▸ a.own.goes
  · rw [a.other k own]
    exact ⟨rfl, rfl, fun _ => rfl⟩

variable {key : Nat}

theorem State.Goes.tickTime (a : r.Goes s) : r.Goes s.tickTime := a.of_harts rfl rfl rfl
theorem State.Goes.newTag (a : r.Goes s) : r.Goes s.newTag.1 := a.of_harts rfl rfl rfl
theorem State.Goes.sendTo {dev die ord sec x} (a : r.Goes s) : r.Goes (s.sendTo dev die ord sec x) := by
  rw [State.sendTo_eq]
  exact a.of_harts rfl rfl rfl
theorem State.Goes.writeByte {ga b} (a : r.Goes s) : r.Goes (s.writeByte ga b) := a.of_harts rfl rfl rfl
theorem State.Goes.setDie {d v} (a : r.Goes s) : r.Goes (s.setDie d v) := a.of_harts rfl rfl rfl
theorem State.Goes.setCtx {c} (a : r.Goes s) : r.Goes (s.setCtx key c) := a.of_harts rfl rfl rfl
theorem State.Goes.setCmd {num f} (a : r.Goes s) : r.Goes (s.setCmd key num f) := a.of_harts rfl rfl rfl
theorem State.Goes.setCollOp {o} (a : r.Goes s) : r.Goes (s.setCollOp o) := a.of_harts rfl rfl rfl
theorem State.Goes.sendColl {ds m} (a : r.Goes s) : r.Goes (s.sendColl key ds m) := a.of_harts rfl rfl rfl
theorem State.Goes.sendNode {o m} (a : r.Goes s) : r.Goes (s.sendNode o m) := a.sendColl
theorem State.Goes.sendWord {m} (a : r.Goes s) : r.Goes (s.sendWord key m) := a.sendColl
theorem State.Goes.sequence {msg} (a : r.Goes s) : r.Goes (s.sequence msg).1 := a.of_harts rfl rfl rfl
theorem State.Goes.logDie {d unit ga} (a : r.Goes s) : r.Goes (s.logDie d unit ga) := by
  unfold State.logDie
  exact .ite a.setDie (.setDie (.tickTime (a.of_harts rfl rfl rfl)))
theorem State.Goes.withSlot {g : CtxSlot → CtxSlot} (a : r.Goes s) (same : ∀ c, (g c).issued = c.issued) : r.Goes (s.withSlot key g) := by
  unfold State.withSlot
  split
  · exact a
  · exact a.setHart (.of_slot (same _))
theorem State.Goes.completeCtx {n} (a : r.Goes s) : r.Goes (s.completeCtx key n) := a.setCtx.withSlot fun _ => rfl
theorem State.Goes.faultCtx {cause side reason issue va perf} (a : r.Goes s) :
    r.Goes (s.faultCtx key cause side reason issue va perf) := by
  unfold State.faultCtx
  dsimp only
  split
  · exact a.setCtx.withSlot fun _ => rfl
  · refine .setHart (.withSlot a.setCtx fun _ => rfl) ?_
    split
    · exact ⟨rfl, rfl, fun _ => rfl⟩
    · exact ⟨rfl, rfl, fun _ => rfl⟩
theorem State.Goes.storesDone {num kind} (a : r.Goes s) : r.Goes (s.storesDone key num kind).1 := by
  unfold State.storesDone
  split
  · exact a
  · exact a.foldl fun b => b.trans (State.landed_nbFinish ..).goes
theorem State.Goes.xferAsk {x gas} (a : r.Goes s) : r.Goes (s.xferAsk key x gas).1 := by
  unfold State.xferAsk
  exact .foldl_fst a fun b => .ite_fst b b.newTag.sendTo
theorem State.Goes.countHost {gas} (a : r.Goes s) : r.Goes (s.countHost key gas) := by
  unfold State.countHost
  split
  · exact a
  · exact .ite (a.setHart ⟨rfl, rfl, fun _ => rfl⟩) a
theorem State.Goes.xferPut {x bs} (a : r.Goes s) : r.Goes (s.xferPut key x bs).1 := by
  unfold State.xferPut
  exact .foldl_fst (.countHost (.of_harts (.foldl a fun b => b.writeByte) rfl rfl rfl)) fun b => b.newTag.sendTo

/-! ### The steps of an operation -/

variable {m : CollCmd} {l : List (BitVec 32)} {i : Nat}

theorem State.Goes.formNodes (a : r.Goes s) : r.Goes (s.formNodes l i) := by
  unfold State.formNodes
  refine .foldl a fun b => .foldl b fun c => ?_
  dsimp only
  split
  · exact c
  · exact c.setCollOp.sendNode
theorem State.Goes.failOp (a : r.Goes s) : r.Goes (s.failOp l i) := by
  unfold State.failOp
  exact .foldl a.setCollOp fun b => b.faultCtx
theorem State.Goes.abortOp (a : r.Goes s) : r.Goes (s.abortOp key m) := by
  unfold State.abortOp
  exact .ite a (.failOp (.ite a a.faultCtx))
theorem State.Goes.faultColl {cause side reason va} (a : r.Goes s) : r.Goes (s.faultColl key cause side reason va m) := by
  unfold State.faultColl
  exact .abortOp (.faultCtx (.ite a.logDie a))
theorem State.Goes.faultWords (a : r.Goes s) : r.Goes (s.faultWords l i) := by
  unfold State.faultWords
  exact .foldl (.setCollOp (.foldl a fun b => b.sendWord)) fun b => .ite b b.faultCtx
theorem State.Goes.receiveKey {k} (a : r.Goes s) : r.Goes (s.receiveKey key m k) := by
  unfold State.receiveKey
  exact .ite a.setCmd (.ite a.tickTime.faultCtx a.tickTime.setCmd)
theorem State.Goes.receiveOrdered {msg} (a : r.Goes s) : r.Goes (s.receiveOrdered msg) := by
  unfold State.receiveOrdered
  exact .foldl a fun b => b.receiveKey
theorem State.Goes.give {msg send} (a : r.Goes s) : r.Goes (s.give msg send) := by
  unfold State.give
  extract_lets o put sent formed
  have goesSent : r.Goes sent := .ite a.setCollOp (.ite a.setCollOp.sendNode a.setCollOp.sendColl)
  have goesFormed : r.Goes formed := .ite goesSent.formNodes goesSent
  exact .ite goesFormed.receiveOrdered goesFormed
theorem State.Goes.contribute (a : r.Goes s) : r.Goes (s.contribute key m) := by
  unfold State.contribute
  split
  next =>
    dsimp only
    split
    · exact .ite a.setCmd.receiveKey a.setCmd
    · exact a.setCmd
  next =>
    extract_lets x o stored len
    have goesStored : r.Goes stored := a.storesDone
    split
    · exact goesStored.faultColl
    · exact goesStored
    · refine .ite goesStored ?_
      extract_lets q asked
      have goesAsked : r.Goes asked := goesStored.xferAsk
      exact .ite goesAsked.setCmd (.ite goesAsked.setCmd.give (.ite goesAsked.setCmd.sequence.give goesAsked.setCmd.sendColl))
theorem State.Goes.finishCmd {num f} (a : r.Goes s) : r.Goes (s.finishCmd key num f) := by
  unfold State.finishCmd
  dsimp only
  split
  · exact a.setCmd.setCtx
  · exact a.setCmd.setCtx.completeCtx
theorem State.Goes.putResult {off bytes f} (a : r.Goes s) : r.Goes (s.putResult key m off bytes f) := by
  unfold State.putResult
  refine .ite a.finishCmd ?_
  split
  · exact .ite a a.faultColl
  · exact a
  · exact .ite a (.ite a.xferPut.finishCmd a.xferPut.setCmd)
theorem State.Goes.meetFate {num} (a : r.Goes s) : r.Goes (s.meetFate key num) := by
  unfold State.meetFate
  refine .ite a ?_
  split
  · exact a
  · split
    · exact a
    · exact a.faultCtx
theorem State.Goes.tryCmd {num} (a : r.Goes s) : r.Goes (s.tryCmd key num) := by
  unfold State.tryCmd
  extract_lets met cmd given
  have goesGiven : r.Goes given := by
    unfold given
    split
    · exact .ite a.meetFate a.meetFate.contribute
    · exact a.meetFate
  split
  · exact goesGiven
  · refine .ite goesGiven ?_
    dsimp only
    split
    · exact goesGiven
    · exact goesGiven.putResult
theorem State.Goes.progressColl (a : r.Goes s) : r.Goes s.progressColl := by
  unfold State.progressColl
  exact .foldl a fun b => .foldl b fun c => c.tryCmd
theorem State.Goes.join (a : r.Goes s) : r.Goes (s.join key m) := by
  unfold State.join
  dsimp only
  split
  · exact a.setCollOp.faultCtx
  · exact .ite a.setCollOp.faultWords a.setCollOp.progressColl
theorem State.Goes.stampWrite (a : r.Goes s) : r.Goes s.stampWrite.1 := by
  unfold State.stampWrite
  exact .ite_fst (a.tickTime.setHart ⟨rfl, rfl, fun _ => rfl⟩) a.tickTime

/-! ### COLL -/

variable {f : EngOps} {buf w handle : Word} {ge : GroupEntry} {g : List (BitVec 32)} {k : Nat} {u : State}

/-- The checks leave the state as it is. -/
theorem State.fst_collCheck {p : State × Stop} (refused : s.collCheck buf w handle ge g = some p) : p.1 = s := by
  have own {e : Stop} (same : some (s, e) = some p) : p.1 = s := by rw [← Option.some.inj same]
  unfold State.collCheck at refused
  dsimp only at refused
  split_ifs at refused
  · exact own refused
  · exact own refused
  · exact own refused
  · exact own refused
  · split at refused
    · exact own refused
    · split at refused
      · exact own refused
      · split at refused
        · exact own refused
        · exact nomatch refused
theorem State.collCheck_handle (above : 65535 < handle.toNat) : s.collCheck buf w handle ge g = some (s, .trap causeIllegal handle) := by
  rw [State.collCheck]
  exact if_pos (.inl above)
/-- Why a COLL is refused. -/
def State.collStop (s : State) (f : EngOps) (ge : GroupEntry) (g : List (BitVec 32)) : Option Stop :=
  (if (s.me.xr f.e).toNat ≤ 65535 then s.groupStop (s.me.csrv 0x016).toNat (s.me.xr f.e).toNat ge else none).or
    ((s.collCheck (s.me.xr f.a) (s.me.xr f.b) (s.me.xr f.e) ge g).map (·.2))
theorem State.collStop_refused : ((if (s.me.xr f.e).toNat ≤ 65535 then s.groupStop (s.me.csrv 0x016).toNat (s.me.xr f.e).toNat ge
    else none).map (fun e => (s, e))).or (s.collCheck (s.me.xr f.a) (s.me.xr f.b) (s.me.xr f.e) ge g) =
      (s.collStop f ge g).map fun e => (s, e) := by
  rw [State.collStop]
  generalize (if (s.me.xr f.e).toNat ≤ 65535 then _ else none : Option Stop) = a
  cases a with
  | some e => rfl
  | none =>
    cases check : s.collCheck (s.me.xr f.a) (s.me.xr f.b) (s.me.xr f.e) ge g with
    | none => rfl
    | some p =>
      obtain ⟨q, e⟩ := p
      obtain rfl : q = s := State.fst_collCheck check
      rfl
/-- What a COLL does once its number is known: it counts, and its command joins its operation. -/
def State.collPut (s : State) (f : EngOps) (ge : GroupEntry) (g : List (BitVec 32)) (v : State) (c : CtxSlot) (n : Word) : State :=
  let st := if collOrdered (s.me.xr f.b) && decide (ge.rank = collRoot (s.me.xr f.b)) then v.stampWrite else (v, none)
  let v := st.1
  let m : CollCmd := ⟨n, s.me.xr f.b, g, ge.rank, v.nextIndex g (slotDie s.cur), s.me.xr f.a, ge.settle, v.me.priv = .user,
    st.2.map fun t => (t, v.chip, v.cur), false, Xfer.none, none⟩
  let v := v.countColl g (slotDie s.cur)
  (v.setCtx c.key { v.ctx c.key with coll := (v.ctx c.key).coll ++ [m] }).join c.key m
theorem State.goes_collPut (v : State) (c : CtxSlot) (n : Word) :
    ∃ y, v.Goes y ∧ State.Goes (y.countColl g (slotDie s.cur)) (s.collPut f ge g v c n) :=
  ⟨_, .ite_fst (.stampWrite (.refl v)) (.refl v), .join (.setCtx (.refl _))⟩
theorem exec_coll (hge : ge = s.groupEntry (s.me.csrv 0x016).toNat (s.me.xr f.e).toNat) (hg : g = s.members ge) :
    exec (.coll f) s = .next (match s.collStop f ge g with
      | some e => s.halt e
      | none => s.issue (.coll f) (wordOf (.coll f)) f.d (8 + f.slot.toNat) (s.collPut f ge g)) := by
  show execColl f s = _
  unfold execColl
  dsimp only
  rw [← hge, ← hg, State.collStop_refused]
  cases s.collStop f ge g <;> rfl
theorem State.nextIndex_countColl (s : State) (l : List (BitVec 32)) (d : Nat) :
    (s.countColl l d).nextIndex l d = s.nextIndex l d + 1 := by
  simp [State.countColl, State.nextIndex]
theorem State.nextIndex_of_count {l : List (BitVec 32)} {d : Nat} (same : t.collCount = s.collCount) : t.nextIndex l d = s.nextIndex l d := by
  rw [State.nextIndex, State.nextIndex, same]

/-- A COLL is issued. -/
theorem issues_coll {t : State} (bound : s.bindCtx s.cur k = some u)
    (done : t = (s.collPut f ge g (u.withMe fun x => x.setCtxSlot k { u.me.ctxSlot k with issued := (u.me.ctxSlot k).issued + 1 })
      (u.me.ctxSlot k) ((u.me.ctxSlot k).issued + 1)).withMe fun x => x.result f.d ((u.me.ctxSlot k).issued + 1)) :
    t.me.pc = s.me.pc + 4 ∧ t.me.wait = none ∧ RegSet s.me t.me f.d ((u.me.ctxSlot k).issued + 1) ∧
      (t.me.ctxSlot k).issued = (u.me.ctxSlot k).issued + 1 ∧
      t.nextIndex g (slotDie s.cur) = s.nextIndex g (slotDie s.cur) + 1 ∧
      ∀ h, h ≠ s.cur → (t.hart h).x = (s.hart h).x ∧ (t.hart h).pc = (s.hart h).pc := by
  obtain ⟨frame, others, own⟩ := State.bound_bindCtx bound
  generalize numbered : (u.withMe fun x => x.setCtxSlot k { u.me.ctxSlot k with issued := (u.me.ctxSlot k).issued + 1 }) = v at done
  obtain ⟨y, goes, counted⟩ := State.goes_collPut (f := f) (ge := ge) (g := g) (s := s) v (u.me.ctxSlot k) ((u.me.ctxSlot k).issued + 1)
  generalize s.collPut f ge g v (u.me.ctxSlot k) ((u.me.ctxSlot k).issued + 1) = w at done counted
  have cur : u.cur = s.cur := by rw [frame]
  have curV : v.cur = s.cur := by rw [← numbered]; exact cur
  have curW : w.cur = s.cur := counted.cur.trans (goes.cur.trans curV)
  have hart (h : Nat) : (v.hart h).Goes (w.hart h) := (goes.hart h).trans (counted.hart h)
  have meV : v.me = u.me.setCtxSlot k { u.me.ctxSlot k with issued := (u.me.ctxSlot k).issued + 1 } := by
    rw [← numbered, State.me_withMe]
  have me : v.me.Goes w.me := by
    have := hart s.cur
    rwa [← curV, ← State.me, curV, ← curW, ← State.me] at this
  have meT : t.me = w.me.result f.d ((u.me.ctxSlot k).issued + 1) := by rw [done, State.me_withMe]
  have x : w.me.x = s.me.x := by rw [me.x, meV, own]; rfl
  have count : v.collCount = s.collCount := by rw [← numbered]; show u.collCount = _; rw [frame]
  rw [meT]
  refine ⟨?_, ?_, fun r => ?_, ?_, ?_, fun h other => ?_⟩
  · rw [Hart.result_eq]
    show w.me.pc + 4 = _
    rw [me.pc, meV, own]
    rfl
  · rw [Hart.result_eq]
  · rw [Hart.xr_result, Hart.xr, Hart.xr, x]
  · rw [Hart.result_eq]
    show (w.me.ctxSlot k).issued = _
    rw [me.issued, meV, Hart.ctxSlot_setCtxSlot, if_pos rfl]
  · rw [show t.nextIndex g (slotDie s.cur) = w.nextIndex g (slotDie s.cur) by rw [done]; rfl, State.nextIndex_of_count counted.count,
      State.nextIndex_countColl, State.nextIndex_of_count (goes.count.trans count)]
  · have hartT : t.hart h = w.hart h := by rw [done, State.withMe, State.hart_setHart, if_neg (by rw [curW]; exact other)]
    have hartV : v.hart h = s.hart h := by
      rw [← numbered, State.withMe, State.hart_setHart, if_neg (by rw [cur]; exact other), others h other]
    rw [hartT, (hart h).x, (hart h).pc, hartV]
    exact ⟨rfl, rfl⟩
end

end Sys2Proof.Machine

open Sys2Proof Sys2Proof.Machine

/-- Settles O43: the checks leave the state alone, and whatever the command then sets going leaves registers, addresses and counts as
they are. -/
theorem collectivesAreIssued : Obligations.CollectivesAreIssued := by
  unfold Obligations.CollectivesAreIssued
  intro f s ge g k c stop hk hge hg hc hstop
  have run := exec_coll hge hg
  have hstop : stop = s.collStop f ge g := hstop
  subst hk hc
  refine ⟨fun above => ?_, ?_⟩
  · have refused : s.collStop f ge g = some (.trap causeIllegal (s.me.xr f.e)) := by
      rw [State.collStop, if_neg (Nat.not_le.mpr above), State.collCheck_handle above]
      rfl
    rw [run, refused]
    exact traps_raise _ _ _
  rw [← hstop] at run
  cases stop with
  | some e =>
    cases e with
    | trap cause v => rw [run]; exact traps_raise _ _ _
    | poison a v => exact ⟨_, run, trapEntered_ecc _ _ _⟩
    | wait va => exact ⟨s.withMe fun t => { t with stalled := some va }, run, onlyMe_withMe _ _, State.me_withMe _ _⟩
  | none =>
    dsimp only at run ⊢
    split
    next bad =>
      rw [run, State.issue_faulted bad]
      exact traps_raise _ _ _
    next fine =>
      split
      next full =>
        rw [run, State.issue_full fine full]
        exact waits_park _ _ _
      next room =>
        split
        next none =>
          rw [run, State.issue_unbound fine room none]
          exact traps_raise _ _ _
        next u bound =>
          rw [State.issue_bound fine room bound] at run
          exact ⟨_, run, issues_coll bound rfl⟩
end

section
/-!
SUPPORT. Members that make accesses and run at their enqueue (06_memory_isa R158-R163; 20_faults R356-R364): what their act meets, and
what becomes of the hart when it is done, waits or faults.
-/

namespace Sys2Proof.Machine

/-! ### What checks read of a package -/

section
variable {s w : State} (frame : w = { s with harts := w.harts })
include frame

theorem State.canon_of_harts : w.canon = s.canon := by rw [frame]; rfl
theorem State.readByte_of_harts : w.readByte = s.readByte := by rw [frame]; rfl
theorem State.readGa_of_harts : w.readGa = s.readGa := by
  funext ga n
  exact State.readAt_congr (by rw [frame]) (State.canon_of_harts frame) _
theorem State.nodeOk_of_harts : w.nodeOk = s.nodeOk := by rw [frame]; rfl
theorem State.leafPage_of_harts : w.leafPage = s.leafPage := by rw [frame]; rfl
theorem State.walkFrom_of_harts (va l node : Nat) : w.walkFrom va l node = s.walkFrom va l node := by
  induction l generalizing node with
  | zero => rfl
  | succ l ih =>
    unfold State.walkFrom
    rw [State.nodeOk_of_harts frame, State.leafPage_of_harts frame, State.readGa_of_harts frame]
    simp only [ih]
theorem State.walkPath_of_harts (va l node : Nat) : w.walkPath va l node = s.walkPath va l node := by
  induction l generalizing node with
  | zero => rfl
  | succ l ih =>
    unfold State.walkPath
    rw [State.nodeOk_of_harts frame, State.readGa_of_harts frame]
    simp only [ih]
theorem State.pageOf_of_harts : w.pageOf = s.pageOf := by
  have tlb : w.tlb = s.tlb := by rw [frame]
  funext p va
  unfold State.pageOf State.lookup
  rw [tlb, State.walkFrom_of_harts frame]
theorem State.unread_of_harts : w.unread = s.unread := by rw [frame]; rfl
theorem State.walkMeets_of_harts : w.walkMeets = s.walkMeets := by
  have tlb : w.tlb = s.tlb := by rw [frame]
  funext p va
  unfold State.walkMeets
  rw [tlb, State.walkPath_of_harts frame, State.unread_of_harts frame]
theorem State.mapBit_of_harts : w.mapBit = s.mapBit := by
  funext base chip
  rw [State.mapBit, State.mapBit, State.readByte_of_harts frame]
theorem State.locFault_of_harts : w.locFault = s.locFault := by
  have foreign : w.strictForeign = s.strictForeign := by rw [frame]; rfl
  have remote : w.remote = s.remote := by rw [frame]; rfl
  have chip : w.chip = s.chip := by rw [frame]
  have secure : w.secure = s.secure := by rw [frame]
  have present : w.present = s.present := by rw [frame]
  funext p need vec pg ga
  unfold State.locFault
  rw [foreign, remote, chip, secure, present, State.unread_of_harts frame, State.mapBit_of_harts frame,
    State.canon_of_harts frame]
theorem State.placeByte_of_harts : w.placeByte = s.placeByte := by rw [frame]; rfl
theorem State.elemFault_of_harts : w.elemFault = s.elemFault := by
  have chip : w.chip = s.chip := by rw [frame]
  have live : w.liveDie = s.liveDie := by rw [frame]; rfl
  funext pt p r first va
  unfold State.elemFault
  rw [State.walkMeets_of_harts frame, State.pageOf_of_harts frame, State.placeByte_of_harts frame, State.locFault_of_harts frame,
    chip, live]
theorem State.checkElem_of_harts : w.checkElem = s.checkElem := by
  funext pt p el
  unfold State.checkElem
  rw [State.walkMeets_of_harts frame, State.pageOf_of_harts frame, State.placeByte_of_harts frame, State.elemFault_of_harts frame]
end

/-! ### What an act meets at its enqueue -/

/-- A package in which a member has been admitted: of its hart the pc, the record of a wait, the convoy, the queue and counters differ. -/
structure State.Alike (s w : State) : Prop where
  only : OnlyMe s w
  me : w.me = { s.me with pc := w.me.pc, wait := w.me.wait, convoyOpen := w.me.convoyOpen, queue := w.me.queue, cc := w.me.cc }

section
variable {s w : State} (a : s.Alike w)
include a

theorem State.Alike.frame : w = { s with harts := w.harts } := a.only.1
theorem State.Alike.cur : w.cur = s.cur := a.only.cur
theorem State.Alike.party : w.party w.cur = s.party s.cur := by
  have me (s : State) : s.party s.cur = ⟨slotDie s.cur, s.me.tenantTag, s.me.csrv 0x106, s.me.csrv 0x10B, s.me.priv = .user⟩ := rfl
  rw [me, me, a.cur, a.me]
  rfl
theorem State.Alike.maskOf : w.me.maskOf = s.me.maskOf := by rw [a.me]; rfl
theorem State.Alike.winKey : w.winKey = s.winKey := by rw [State.winKey, State.winKey, a.party, a.cur]
theorem State.Alike.farDev : w.farDev = s.farDev := by rw [a.frame]; rfl
theorem State.Alike.failedHome : w.failedHome = s.failedHome := by rw [a.frame]; rfl
theorem State.Alike.poisoned : w.poisoned = s.poisoned := by rw [a.frame]; rfl
theorem State.Alike.mustWait : w.mustWait = s.mustWait := by rw [a.frame]; rfl
theorem State.Alike.canon : w.canon = s.canon := by rw [a.frame]; rfl
theorem State.Alike.awaits : w.awaits = s.awaits := by rw [a.frame]; rfl
theorem State.Alike.coveredLines : w.coveredLines = s.coveredLines := by
  funext ps
  unfold State.coveredLines State.wholeLines
  rw [a.canon]
theorem State.Alike.checkElem : w.checkElem = s.checkElem := State.checkElem_of_harts a.frame
theorem State.Alike.checkElems (pt : Party) (p : MemPlan) (els : List Elem) : w.checkElems pt p els = s.checkElems pt p els := by
  induction els with
  | nil => rfl
  | cons el els ih => rw [State.checkElems, State.checkElems, ih, a.checkElem]
theorem State.Alike.eccPlaced : w.eccPlaced = s.eccPlaced := by rw [a.frame]; rfl
theorem State.Alike.placedWait : w.placedWait = s.placedWait := by rw [a.frame]; rfl
theorem State.Alike.placing (e : QEntry) (p : MemPlan) (early : Option (Byte × Word)) (els : List Elem) :
    w.placing e p early els = s.placing e p early els := by
  unfold State.placing
  rw [a.party]
  split
  · rfl
  · rw [a.checkElems]
theorem State.Alike.placingWhole (e : QEntry) (p : MemPlan) (early : Option (Byte × Word)) (els : List Elem) :
    w.placingWhole e p early els w.coveredLines = s.placingWhole e p early els s.coveredLines := by
  unfold State.placingWhole
  rw [a.placing, a.coveredLines, a.eccPlaced]
theorem State.Alike.baseLeaf (va : Word) : w.baseLeaf va = s.baseLeaf va := by
  unfold State.baseLeaf
  rw [a.party, State.walkMeets_of_harts a.frame, State.pageOf_of_harts a.frame]
theorem State.Alike.memElems (e : QEntry) (f : VMemOps) (form : Nat → Nat → MemForm) (store : Bool) :
    w.memElems e f form store = s.memElems e f form store := by
  unfold State.memElems
  dsimp only
  rw [a.baseLeaf, a.maskOf]
theorem State.Alike.idxElems (e : QEntry) (m : BitVec 2) (b : BitVec 5) : w.idxElems e m b = s.idxElems e m b := by
  unfold State.idxElems
  rw [a.me]
  rfl
end

/-! ### A member admitted with what its one check found (06_memory_isa R162) -/

/-- The entries that a member is put behind. -/
def QEntry.behind (e : QEntry) (s : State) : List QEntry := if e.first then [] else s.me.queue
/-- A package in which a member has been admitted. -/
def State.withMember (s : State) (q : Queued) (e : QEntry) : State := (s.withMe Hart.advance).withMe fun t => admitted t q e
/-- The same with what the member's check found. -/
def State.entered (s : State) (q : Queued) (e : QEntry) (p : Placing) : State :=
  (s.withMember q e).withMe fun t => { t with queue := e.behind s ++ [{ e with placed := some p }] }
/-- What becomes of a member that has been admitted and of its hart. -/
def State.settle (w : State) (n : Nat) (e : QEntry) : VOut → State
  | .done u f => u.withMe fun t => (t.complete e f).setEntry n fun x => { x with started := true, done := true, placed := none }
  | .fault u c v r f =>
    if w.faultWaits w.cur || w.me.replayFirst n then w
    else (u.withMe fun t => t.setEntry n fun x => { x with flags := x.flags ||| f }).vectorFault n c v r
  | .wait u va => u.withMe fun t => { t with qstalled := some va }
  | .later u => u.withMe fun t => t.setEntry n fun x => { x with started := true, restart := wholeStop }

section
variable {s : State} {q : Queued} {e : QEntry} {p : Placing}

theorem State.me_withMember : (s.withMember q e).me = { s.me with
    pc := s.me.pc + 4
    wait := none
    convoyOpen := true
    queue := (s.withMember q e).me.queue
    cc := (s.withMember q e).me.cc } := by
  rw [State.withMember, State.me_withMe, State.me_withMe, admitted_eq]
  rfl
theorem State.alike_withMember : s.Alike (s.withMember q e) where
  only := (onlyMe_withMe _ _).trans (onlyMe_withMe _ _)
  me := by rw [State.me_withMember]
theorem State.me_entered : (s.entered q e p).me = { s.me with
    pc := s.me.pc + 4
    wait := none
    convoyOpen := true
    queue := e.behind s ++ [{ e with placed := some p }]
    cc := (s.entered q e p).me.cc } := by
  rw [State.entered, State.me_withMe, State.me_withMember]
theorem State.alike_entered : s.Alike (s.entered q e p) where
  only := State.alike_withMember.only.trans (onlyMe_withMe _ _)
  me := by rw [State.me_entered]
theorem State.ctr_entered (n : Nat) : (s.entered q e p).me.ctr n =
    if n = q.ctr ∧ q.ctr ≠ 0 then ⟨e.issue, (s.me.ctr n).retired⟩ else s.me.ctr n := by
  have same : (s.entered q e p).me.ctr n = (admitted s.me.advance q e).ctr n := by
    rw [State.entered, State.me_withMe, State.withMember, State.me_withMe, State.me_withMe]
    rfl
  rw [same, ctr_admitted]
  rfl

/-- A member whose checks pass and that runs at its enqueue: its act on the package in which it has been admitted. -/
theorem State.enqueue_settles (he : e = q.capture s.me s.me.pc) (fixes : q.fixes s e = e) (passes : q.enqueueCheck s e = none)
    (runs : Runs s q.word) (place : q.place (s.withMember q e) e = some p) (now : p.waits = false) :
    s.enqueue q = (s.entered q e p).settle (e.behind s).length e (q.act (s.entered q e p) { e with placed := some p }) := by
  have drained : s.me.drained = true := runs.2.2.2.2.2.2.1
  have whole : { e with stop := wholeStop, placed := some p } = { e with placed := some p } := by rw [he]; rfl
  have placed : e.placed = none := by rw [he]; rfl
  have keep : (if e.first && s.me.drained then [] else s.me.queue) = e.behind s := by rw [drained, Bool.and_true]; rfl
  have queue : (s.withMember q e).me.queue = e.behind s ++ [e] := by
    rw [State.withMember, State.me_withMe, State.me_withMe, admitted_queue]
    exact congrArg (· ++ [e]) keep
  have entry : (s.withMember q e).withMe (fun t => t.setEntry (e.behind s).length fun x => { x with placed := some p }) =
      s.entered q e p := by
    have set : ((s.withMember q e).me.setEntry (e.behind s).length fun x => { x with placed := some p }) =
        { (s.withMember q e).me with queue := e.behind s ++ [{ e with placed := some p }] } := by
      unfold Hart.setEntry
      rw [queue]
      exact congrArg (fun l => { (s.withMember q e).me with queue := l }) (mapIdx_last (e.behind s) e fun x => { x with placed := some p })
    rw [State.withMe, set]
    rfl
  have run : (s.withMember q e).runEntry (e.behind s).length e wholeStop q =
      (s.entered q e p).settle (e.behind s).length e (q.act (s.entered q e p) { e with placed := some p }) := by
    unfold State.runEntry
    rw [placed, place]
    dsimp only
    rw [Option.none_or, if_neg (by rw [Option.any_some, now]; exact Bool.false_ne_true), entry, whole]
    cases q.act (s.entered q e p) { e with placed := some p } with
    | done u f => rfl
    | fault u c v r f => rfl
    | wait u va => rfl
    | later u => rfl
  unfold State.enqueue
  simp only [← he, fixes, passes]
  have room : (s.me.entriesBefore e.first).length < queueSize := by rw [he]; exact runs.2.2.2.2.2.1
  rw [if_neg (by omega), State.runsNow_of runs (by rw [he]; rfl), State.enter_run]
  have length : (if e.first && (s.withMe Hart.advance).me.drained then [] else (s.withMe Hart.advance).me.queue).length =
      (e.behind s).length := by rw [← keep, State.me_withMe]; rfl
  rw [length]
  exact run

/-- A member that is done: its hart with the flags accrued and the member's entry complete. -/
theorem State.settle_done {w u : State} {f : Flags} {l : List QEntry} (word : classOf e.word ≠ .matrix) (clear : e.flags = 0)
    (queue : u.me.queue = l ++ [{ e with placed := some p }]) (blank : e.placed = none) :
    w.settle l.length e (.done u f) = u.withMe fun t => { t with
      csr := (t.accrue f).csr
      queue := l ++ [{ e with started := true, done := true }] } := by
  have set : (u.me.complete e f).setEntry l.length (fun x => { x with started := true, done := true, placed := none }) =
      { u.me with csr := (u.me.accrue f).csr, queue := l ++ [{ e with started := true, done := true }] } := by
    rw [complete_eq _ _ _ clear word]
    unfold Hart.setEntry
    dsimp only
    rw [queue]
    refine (congrArg (fun k => ({ u.me with csr := (u.me.accrue f).csr, queue := k } : Hart))
      (mapIdx_last l { e with placed := some p } fun x => { x with started := true, done := true, placed := none })).trans ?_
    rw [show ({ e with started := true, done := true, placed := none } : QEntry) = { e with started := true, done := true } by
      rw [← blank]]
  rw [State.settle, State.withMe, set]
  rfl
end

end Sys2Proof.Machine
end

section
/-!
SUPPORT. Elements of a tile in their order, and what the check of them finds (06_memory_isa R158-R162).
-/

namespace Sys2Proof.Machine

/-! ### The elements of a tile -/

/-- An element comes before another in (r, i) order. -/
def Elem.before (a b : Elem) : Prop := a.r < b.r ∨ (a.r = b.r ∧ a.i < b.i)
/-- Elements within rows and below a count, in (r, i) order. -/
structure Tiled (rows vl : Nat) (els : List Elem) : Prop where
  row : ∀ el ∈ els, el.r < rows
  index : ∀ el ∈ els, el.i < vl
  order : els.Pairwise Elem.before

section
variable {rows vl : Nat} {els : List Elem}

theorem Tiled.sublist {l : List Elem} (t : Tiled rows vl els) (sub : List.Sublist l els) : Tiled rows vl l :=
  ⟨fun el h => t.row el (sub.subset h), fun el h => t.index el (sub.subset h), t.order.sublist sub⟩
/-- An element is known by its row and its index. -/
theorem Tiled.unique (t : Tiled rows vl els) {a b : Elem} (ha : a ∈ els) (hb : b ∈ els) (row : a.r = b.r) (index : a.i = b.i) : a = b := by
  by_contra differ
  have apart : els.Pairwise fun a b => ¬(a.r = b.r ∧ a.i = b.i) :=
    t.order.imp fun before same => by unfold Elem.before at before; omega
  have symm : Std.Symm fun a b : Elem => ¬(a.r = b.r ∧ a.i = b.i) := ⟨fun _ _ h k => h ⟨k.1.symm, k.2.symm⟩⟩
  exact apart.forall ha hb differ ⟨row, index⟩
theorem Tiled.nodup (t : Tiled rows vl els) : els.Nodup :=
  t.order.imp fun before same => by subst same; unfold Elem.before at before; omega

theorem pairwise_range_filter (n : Nat) (p : Nat → Bool) : ((List.range n).filter p).Pairwise (· < ·) :=
  List.pairwise_lt_range.filter p
theorem tiled_tileElems (mask vl r0 i0 rows : Nat) (skip : Nat → Bool) (bit : Nat → Nat → Int) :
    Tiled rows vl (tileElems mask vl r0 i0 rows skip bit) := by
  refine ⟨fun el isIn => ?_, fun el isIn => ?_, ?_⟩
  · simp only [tileElems, List.mem_flatMap, List.mem_filter, List.mem_range, List.mem_map] at isIn
    obtain ⟨r, ⟨row, -⟩, i, -, rfl⟩ := isIn
    exact row
  · simp only [tileElems, List.mem_flatMap, List.mem_filter, List.mem_range, List.mem_map] at isIn
    obtain ⟨r, -, i, ⟨index, -⟩, rfl⟩ := isIn
    exact index
  · unfold tileElems
    refine List.pairwise_flatMap.mpr ⟨fun r _ => ?_, (pairwise_range_filter _ _).imp fun below x hx y hy => ?_⟩
    · exact List.pairwise_map.mpr ((pairwise_range_filter _ _).imp fun below => .inr ⟨rfl, below⟩)
    · simp only [List.mem_map] at hx hy
      obtain ⟨i, -, rfl⟩ := hx
      obtain ⟨j, -, rfl⟩ := hy
      exact .inl below
theorem State.tiled_memElems {s : State} {e : QEntry} {f : VMemOps} {form : Nat → Nat → MemForm} {store : Bool} {plan : MemPlan}
    {early : Option (Byte × Word)} (h : s.memElems e f form store = (plan, early, els)) : Tiled (2 ^ f.g.toNat) e.vl els := by
  have is : els = (s.memElems e f form store).2.2 := by rw [h]
  rw [is]
  exact tiled_tileElems _ _ _ _ _ _ _
theorem State.tiled_idxElems (s : State) (e : QEntry) (m : BitVec 2) (b : BitVec 5) : Tiled 1 e.vl (s.idxElems e m b) :=
  tiled_tileElems _ _ _ _ _ _ _
end

/-! ### The check of the elements (R162) -/

section
variable {s : State} {pt : Party} {plan : MemPlan}

theorem State.checkElems_cons (el : Elem) (els : List Elem) : s.checkElems pt plan (el :: els) =
    match s.checkElem pt plan el with
    | .error x => ([], some (el, x.1, x.2))
    | .ok p => (p :: (s.checkElems pt plan els).1, (s.checkElems pt plan els).2) := rfl
theorem State.el_checkElem {el : Elem} {p : Placed} (ok : s.checkElem pt plan el = .ok p) : p.el = el := by
  revert ok
  unfold State.checkElem
  dsimp only
  split
  · exact nofun
  · exact nofun
  · split
    · exact nofun
    · generalize (plan.badBit || _) = refused
      cases refused with
      | true => exact nofun
      | false => exact fun h => by cases h; rfl
/-- The elements placed are the first ones, and the one that faults is of the rest. -/
theorem State.checkElems_prefix (els : List Elem) : (s.checkElems pt plan els).1.map (·.el) <+: els ∧
    ∀ b, (s.checkElems pt plan els).2 = some b → b.1 ∈ els := by
  induction els with
  | nil => exact ⟨List.prefix_rfl, nofun⟩
  | cons el els ih =>
    rw [State.checkElems_cons]
    split
    · exact ⟨List.nil_prefix, fun b h => by cases h; exact List.mem_cons_self⟩
    · next p ok =>
      rw [List.map_cons, State.el_checkElem ok]
      exact ⟨List.cons_prefix_cons.mpr ⟨rfl, ih.1⟩, fun b h => List.mem_cons_of_mem _ (ih.2 b h)⟩
end

/-! ### The elements of the act under way -/

section
variable {e : QEntry} {rows vl : Nat} {ps : List Placed} {bad : Option (Elem × Byte × Word)}

/-- Every element of a share belongs to a whole act. -/
theorem QEntry.within_whole (start : e.restart = 0) (stop : e.stop = wholeStop) {el : Elem} (row : el.r < 8) (index : el.i < 8192) :
    e.within el = true := by
  rw [QEntry.within, start, stop, restartOf, wholeStop]
  exact decide_eq_true ⟨by omega, by omega⟩
variable (start : e.restart = 0) (stop : e.stop = wholeStop) (placed : e.placed = some ⟨0, ps, bad, none⟩)
include start stop placed
theorem QEntry.now_whole (tiled : Tiled rows vl (ps.map (·.el))) (few : rows ≤ 8) (short : vl ≤ 8192) : e.now = ps := by
  rw [QEntry.now, QEntry.checked, placed]
  refine List.filter_eq_self.mpr fun p isIn => QEntry.within_whole start stop ?_ ?_
  · exact (tiled.row _ (List.mem_map_of_mem isIn)).trans_le few
  · exact (tiled.index _ (List.mem_map_of_mem isIn)).trans_le short
theorem QEntry.comes_whole (inside : ∀ b, bad = some b → b.1.r < 8 ∧ b.1.i < 8192) : e.comes = bad := by
  rw [QEntry.comes, QEntry.checked, placed]
  cases bad with
  | none => rfl
  | some b => exact Option.filter_eq_some_iff.mpr ⟨rfl, QEntry.within_whole start stop (inside b rfl).1 (inside b rfl).2⟩
end

end Sys2Proof.Machine
end

section
/-!
SUPPORT. A member that runs at its enqueue and faults at its check (06_memory_isa R162-R164; 20_faults R356-R364).
-/

namespace Sys2Proof.Machine

/-- An instruction is the enqueue of a member that passes the checks of its enqueue and runs there. -/
structure Enters (o : Out) (s : State) (q : Queued) (e : QEntry) (ty : BitVec 4) (vl : Nat) : Prop where
  is : e = q.capture s.me s.me.pc
  run : o = .next (s.enqueue q)
  fixes : q.fixes s e = e
  passes : q.enqueueCheck s e = none
  runs : Runs s q.word
  word : classOf q.word ≠ .matrix
  type : e.ty = ty
  count : e.vl = vl
  share : vl ≤ vlmaxOf s.me.k ty

section
variable {o : Out} {s : State} {q : Queued} {e : QEntry} {ty : BitVec 4} {vl : Nat} (n : Enters o s q e ty vl)
include n

theorem Enters.drained : s.me.drained = true := n.runs.2.2.2.2.2.2.1
theorem Enters.restart : e.restart = 0 := by rw [n.is]; rfl
theorem Enters.stop : e.stop = wholeStop := by rw [n.is]; rfl
theorem Enters.flags : e.flags = 0 := by rw [n.is]; rfl
theorem Enters.placed : e.placed = none := by rw [n.is]; rfl
theorem Enters.started : e.started = false := by rw [n.is]; rfl
theorem Enters.notDone : e.done = false := by rw [n.is]; rfl
theorem Enters.class' : classOf e.word ≠ .matrix := by rw [n.is]; exact n.word
theorem Enters.short : vl ≤ 8192 := n.share.trans (vlmax_le _ _)
theorem Enters.entries : s.me.entriesBefore e.first = e.behind s := by
  rw [Hart.entriesBefore, n.drained, Bool.and_true]
  rfl
theorem Enters.behind_done : ∀ x ∈ e.behind s, x.done = true := by
  intro x isIn
  unfold QEntry.behind at isIn
  split at isIn
  · cases isIn
  · exact (Hart.drained_iff _).mp n.drained x isIn
theorem Enters.settles {p : Placing} (place : q.place (s.withMember q e) e = some p) (now : p.waits = false) :
    o = .next ((s.entered q e p).settle (e.behind s).length e (q.act (s.entered q e p) { e with placed := some p })) := by
  rw [n.run, State.enqueue_settles n.is n.fixes n.passes n.runs place now]
end

/-! ### The image of a member that faults (20_faults R362) -/

theorem fromConvoy_congr {l k : List QEntry} (same : l.map (·.first) = k.map (·.first)) (n : Nat) : fromConvoy l n = fromConvoy k n := by
  have at' (i : Nat) : l[i]?.map (·.first) = k[i]?.map (·.first) := by rw [← List.getElem?_map, ← List.getElem?_map, same]
  unfold fromConvoy
  simp only [at']
theorem imageWords_congr {l k : List QEntry} (same : l.map QEntry.image = k.map QEntry.image) : imageWords l = imageWords k := by
  have length : l.length = k.length := by simpa using congrArg List.length same
  rw [imageWords, imageWords, same, length]
/-- The image of a hart whose last entry faulted, no replay of which is part-way. -/
theorem Hart.imageWords_fault {t : Hart} {l : List QEntry} {e x : QEntry} {r : Nat} (queue : t.queue = l ++ [x]) (rep : t.rep = none)
    (first : x.first = e.first)
    (image : ({ x with started := true, restart := r } : QEntry).image = ({ e with started := true, restart := r } : QEntry).image) :
    imageWords (t.faultImage l.length r) = imageWords ((l ++ [{ e with started := true, restart := r }]).drop
      (fromConvoy (l ++ [{ e with started := true, restart := r }]) ((l ++ [{ e with started := true, restart := r }]).length - 1))) := by
  have marked : markedQueue t.queue l.length r = l ++ [{ x with started := true, restart := r }] := by
    rw [markedQueue, queue]
    exact mapIdx_last l x fun x => { x with started := true, restart := r }
  have part : t.partReplay = 0 := by rw [Hart.partReplay, rep]; rfl
  have convoy : fromConvoy (l ++ [{ x with started := true, restart := r }]) l.length =
      fromConvoy (l ++ [{ e with started := true, restart := r }]) l.length :=
    fromConvoy_congr (by simp [first]) _
  have last : (l ++ [{ e with started := true, restart := r }]).length - 1 = l.length := by simp
  rw [Hart.faultImage, marked, part, Nat.sub_zero, List.take_length, convoy, last]
  refine imageWords_congr ?_
  rw [List.map_drop, List.map_drop, List.map_append, List.map_append, List.map_singleton, List.map_singleton, image]

/-! ### The trap of a member at its enqueue (20_faults R356-R364) -/

/-- TSTATUS as the handler of a vector trap finds it. -/
theorem State.status_vectorFault {s : State} {n r : Nat} {cause : Byte} {tval : Word} (clear : s.me.vrf = false)
    (writable : s.imageWritable (s.me.csrv 0x105).toNat = true) : (s.vectorFault n cause tval r).me.csrv 0x104 =
      BitVec.ofNat 64 ((if s.me.ie then 2 else 0) + (if s.me.priv = .supervisor then 4 else 0) + (if s.me.secure then 8 else 0) + 16) := by
  obtain ⟨u, held, run⟩ := s.vectorFault_cases n r cause tval
  rw [run, if_neg (by simp [clear, writable])]
  generalize (leadConvoy _) = lead, n - _ = d, queueFlags _ = fl
  have frame := u.imaged_eq (s.me.csrv 0x105).toNat (imageWords (s.me.faultImage n r)) (s.me.faultImage n r)
  generalize (u.writeWords _ _).barCtxs _ = w at frame
  have mine : w.me = u.me := by rw [frame]; rfl
  have csrv (c : Nat) (other : c ∉ [0x002, 0x003, 0x004, 0x007]) (away : c ≠ 0x008) :
      (u.me.convoyPositions lead d).markReplay.csrv c = s.me.csrv c := by
    rw [Hart.csrv_markReplay _ away, Hart.csrv_convoyPositions _ _ _ other, held.csrv]
  have status := csrv 0x104 (by decide) (by decide)
  have tenant := csrv 0x107 (by decide) (by decide)
  have priv : (u.me.convoyPositions lead d).markReplay.priv = s.me.priv := by
    rw [Hart.markReplay_eq, u.me.recsr_convoyPositions lead d, held.own]
  have vrf : (u.me.convoyPositions lead d).markReplay.vrf = false := by rw [Hart.vrf, status]; exact clear
  have ie : (u.me.convoyPositions lead d).markReplay.ie = s.me.ie := by rw [Hart.ie, status]; rfl
  have secure : (u.me.convoyPositions lead d).markReplay.secure = s.me.secure := by rw [Hart.secure, tenant]; rfl
  rw [State.me_withMe, mine, Hart.csrv_enterFault, if_pos rfl, Hart.entryStatus_eq, vrf, ie, secure, priv]
  split <;> split <;> split <;> rfl

section
variable {o : Out} {s u : State} {q : Queued} {e : QEntry} {p : Placing} {ty : BitVec 4} {vl : Nat} {c : Byte} {tval : Word} {r : Nat}
  {fl : Flags} {kept : Hart → Prop}

/-- Nothing that an enqueue adds makes a fault wait. -/
theorem Enters.faultWaits (n : Enters o s q e ty vl) (free : s.faultWaits s.cur = false) :
    (s.entered q e p).faultWaits (s.entered q e p).cur = false := by
  have mine : (s.entered q e p).hart (s.entered q e p).cur = (s.entered q e p).me := rfl
  have own : s.hart s.cur = s.me := rfl
  have writable : (s.entered q e p).imageWritable = s.imageWritable := rfl
  have waits : (s.entered q e p).mustWait = s.mustWait := State.alike_entered.mustWait
  have new : QEntry.midway { e with placed := some p } = false := by
    unfold QEntry.midway
    rw [n.started, Bool.and_false, Bool.false_and]
  have old : (e.behind s).any QEntry.midway = false := List.any_eq_false.mpr fun x isIn => by
    unfold QEntry.midway
    rw [n.behind_done x isIn, Bool.not_true, Bool.and_false]
    exact Bool.false_ne_true
  unfold State.faultWaits at free ⊢
  dsimp only at free ⊢
  rw [own] at free
  rw [mine, State.me_entered, writable, waits]
  simp only [Bool.or_eq_false_iff] at free
  obtain ⟨⟨⟨⟨launching, asks⟩, nb⟩, midway⟩, zeroing⟩ := free
  rw [List.any_append, Bool.or_eq_false_iff] at midway
  dsimp only
  rw [launching, asks, nb, List.any_append, midway.1, List.any_append, old, List.any_cons, new]
  exact zeroing

/-- A member whose act is a fault, with nothing of its hart but rows committed. -/
theorem Enters.faults (n : Enters o s q e ty vl) (place : q.place (s.withMember q e) e = some p) (now : p.waits = false)
    (act : q.act (s.entered q e p) { e with placed := some p } = .fault u c tval r fl)
    (frame : u = { s.entered q e p with harts := u.harts, windows := u.windows, fresh := u.fresh })
    (others : ∀ k, k ≠ s.cur → u.hart k = s.hart k) (own : u.me = { (s.entered q e p).me with v := u.me.v })
    (rows : ∀ t : Hart, t.v = u.me.v → kept t) : FaultsQueued o s e c tval r kept := by
  rintro es img rfl rfl handler vrf rep writable free
  have settled := n.settles place now
  have replay : (s.entered q e p).me.replayFirst (e.behind s).length = false := by
    rw [State.me_entered, Hart.replayFirst, Hart.partReplay]
    dsimp only
    rw [rep]
    rfl
  obtain ⟨x, isX⟩ : ∃ x, x = u.withMe fun t => t.setEntry (e.behind s).length fun x => { x with flags := x.flags ||| fl } := ⟨_, rfl⟩
  have outcome : o = .next (x.vectorFault (e.behind s).length c tval r) := by
    rw [settled, act, State.settle, n.faultWaits free, replay, isX]
    rfl
  have me : x.me = { s.me with
      pc := s.me.pc + 4
      wait := none
      convoyOpen := true
      queue := e.behind s ++ [{ e with placed := some p, flags := e.flags ||| fl }]
      cc := x.me.cc
      v := u.me.v } := by
    rw [isX, State.me_withMe, own, State.me_entered]
    unfold Hart.setEntry
    dsimp only
    rw [mapIdx_last (e.behind s) { e with placed := some p } fun x => { x with flags := x.flags ||| fl }]
  have cur : x.cur = s.cur := by rw [isX, State.cur_withMe, frame]; rfl
  have csrv (k : Nat) : x.me.csrv k = s.me.csrv k := by rw [me]; rfl
  have writes : x.imageWritable = s.imageWritable := by rw [isX, frame]; rfl
  have clear : x.me.vrf = false := by rw [Hart.vrf, csrv]; exact vrf
  have image := csrv 0x105
  have trapped := State.vectorTrapped (s := x) (n := (e.behind s).length) (cause := c) (tval := tval) (r := r)
  obtain ⟨mem, pc, priv, runs, epc, cause, value, set, -, queue⟩ := State.vectorFault_enters (s := x) (n := (e.behind s).length)
    (cause := c) (tval := tval) (r := r) clear (by rw [writes, image]; exact writable) (by rw [csrv]; exact handler) rfl
  have status := State.status_vectorFault (s := x) (n := (e.behind s).length) (cause := c) (tval := tval) (r := r) clear
    (by rw [writes, image]; exact writable)
  refine ⟨_, outcome, fun h other => ?_, ?_, queue, set, pc.trans (csrv _), priv, runs.trans (by rw [me]), ?_, cause, value, ?_,
    trapped.x.trans (by rw [me]), trapped.m.trans (by rw [me]), rows _ (trapped.v.trans (by rw [me]))⟩
  · rw [trapped.others h (by rw [cur]; exact other), isX, State.hart_withMe_other u _ (by rw [← State.cur_withMe u, ← isX, cur]; exact other)]
    exact others h other
  · rw [mem, image, Hart.imageWords_fault (t := x.me) (l := e.behind s) (e := e) (x := { e with placed := some p, flags := e.flags ||| fl })
      (by rw [me]) (by rw [me]; exact rep) rfl rfl, n.entries]
    exact State.mem_writeWords_congr (by rw [isX, frame]; rfl) (by rw [isX, frame]; rfl) _ _
  · rw [epc, me]
  · rw [status, Hart.ie, Hart.secure, csrv, csrv, me]
    rfl
end

end Sys2Proof.Machine
end

section
/-!
SUPPORT. How an element's check fails (02_numbers R52, R54; 06_memory_isa R159, R161, R162, R164, R174).
-/

namespace Sys2Proof.Machine

section
variable {s : State} {pt : Party} {plan : MemPlan}

/-- An entry of a table that is not read waits or takes ECC. -/
theorem State.unread_cause {ga : Nat} {c : Byte} (h : s.unread ga = some c) : c = 0xFF ∨ c = 0x18 := by
  revert h
  unfold State.unread
  split
  · exact fun h => .inl (Option.some.inj h).symm
  · split
    · exact fun h => .inr (Option.some.inj h).symm
    · exact nofun
theorem State.walkMeets_cause {va : Word} {x : Nat × Byte} (h : s.walkMeets pt va = some x) : x.2 = 0xFF ∨ x.2 = 0x18 := by
  revert h
  unfold State.walkMeets
  split
  · exact nofun
  · intro h
    obtain ⟨a, -, found⟩ := List.exists_of_findSome?_eq_some h
    obtain ⟨c, isC, rfl⟩ := Option.map_eq_some_iff.mp found
    exact State.unread_cause isC

/-- Why a byte of an element fails its page's checks, by the cause. -/
def State.FaultsAs (s : State) (pt : Party) (plan : MemPlan) (first pg : Page) (ga : Nat) (c : Byte) : Prop :=
  (c = 0x08 ∧ 1 ≤ pg.fmt.toNat ∧ pg.fmt.toNat ≤ 7) ∨
  (c = 0x09 ∧ (pg.grants plan.need = false ∨ (pt.user = true ∧ pg.u = false) ∨
    (plan.need.writes = true ∧ pg.rwin = true ∧ s.remote pt.die ga = true) ∨ (gaHost ga = false ∧ gaKind ga = 3) ∨
    s.strictForeign pt pg ga = true ∨ (plan.spread.isSome = true ∧ (gaHost ga = true ∨ gaKind ga ∉ [0, 2, 4])) ∨
    ((∃ a, plan.atomic = some (a, true)) ∧ gaHost ga = true))) ∨
  (c = 0x0D ∧ ((pg.sw = true ∧ pt.secure = false) ∨
    (pg.sw = false ∧ gaHost ga = false ∧ s.secure.contains (s.canon ga / 2 ^ 30) = true))) ∨
  (c = 0x0B ∧ (s.farDev ga).isSome = true ∧ (pt.partmap = 0 ∨ s.mapBit pt.partmap (gaChip ga) = false)) ∨
  (c = 0x0C ∧ (((s.farDev ga).isSome = true ∧ s.present.contains (gaChip ga) = false) ∨
    (plan.spread.isSome = true ∧ gaChip ga = s.chip ∧ s.liveDie (gaDie ga) = false))) ∨
  (c = 0x0A ∧ (plan.mixed pg = true ∨ first.attr ≠ pg.attr))

/-- A location's check fails for one of the reasons that its cause has. -/
theorem State.locFault_cause {first pg : Page} {ga n : Nat} {c : Byte} (h : s.locFault pt plan.need true pg ga = some (n, c))
    (ecc : c ≠ 0x18) (wait : c ≠ 0xFF) : s.FaultsAs pt plan first pg ga c := by
  have far : (!gaHost ga && decide (gaChip ga ≠ s.chip)) = (s.farDev ga).isSome := by
    unfold State.farDev
    split
    · next yes => exact yes
    · next no => exact Bool.eq_false_iff.mpr no
  revert h
  unfold State.locFault
  simp only [far]
  split
  · next page =>
    rintro ⟨⟩
    exact .inl ⟨rfl, by simpa using page⟩
  split
  · next perm =>
    rintro ⟨⟩
    refine .inr (.inl ⟨rfl, ?_⟩)
    simp only [Bool.true_or, Bool.true_and, Bool.or_eq_true, Bool.and_eq_true, Bool.not_eq_true', decide_eq_true_eq] at perm
    tauto
  split
  · next world =>
    rintro ⟨⟩
    refine .inr (.inr (.inl ⟨rfl, ?_⟩))
    simp only [Bool.or_eq_true, Bool.and_eq_true, Bool.not_eq_true', decide_eq_true_eq] at world
    tauto
  split
  · intro h
    obtain ⟨x, unread, is⟩ := Option.map_eq_some_iff.mp h
    cases is
    exact ((State.unread_cause unread).elim wait ecc).elim
  split
  · next partition =>
    rintro ⟨⟩
    refine .inr (.inr (.inr (.inl ⟨rfl, ?_⟩)))
    simpa using partition
  split
  · next down =>
    rintro ⟨⟩
    refine .inr (.inr (.inr (.inr (.inl ⟨rfl, .inl ?_⟩))))
    simpa using down
  · exact nofun

/-- A byte of an element fails its check: it has no leaf, or its page or its home forbids it. -/
theorem State.elemFault_cause {r n : Nat} {first : Page} {va : Word} {c : Byte} (h : s.elemFault pt plan r first va = some (n, c))
    (ecc : c ≠ 0x18) (wait : c ≠ 0xFF) : (s.pageOf pt va = none ∧ c = 0x08) ∨
      ∃ pg, s.pageOf pt va = some pg ∧ s.FaultsAs pt plan first pg (s.placeByte pt plan r pg va).ga c := by
  revert h
  unfold State.elemFault
  split
  · next meets =>
    rintro ⟨⟩
    obtain ⟨y, met, rfl⟩ := Option.map_eq_some_iff.mp meets
    exact ((State.walkMeets_cause met).elim wait ecc).elim
  · next none =>
    rintro ⟨⟩
    exact .inl ⟨none, rfl⟩
  · next pg _ page =>
    intro h
    refine .inr ⟨pg, page, ?_⟩
    revert h
    dsimp only
    generalize (s.placeByte pt plan r pg va).ga = ga
    generalize kind : (plan.spread.isSome && (gaHost ga || _) || _) = bad
    split
    · next fault => rintro ⟨⟩; exact State.locFault_cause fault ecc wait
    · split
      · next yes =>
        rw [yes] at kind
        rintro ⟨⟩
        refine .inr (.inl ⟨rfl, ?_⟩)
        rw [Bool.or_eq_true] at kind
        obtain spread | host := kind
        · refine .inr (.inr (.inr (.inr (.inr (.inl ?_)))))
          simpa using spread
        · refine .inr (.inr (.inr (.inr (.inr (.inr ?_)))))
          split at host
          · next a noHost atomic =>
            rw [Bool.and_eq_true] at host
            exact ⟨⟨a, by rw [atomic, host.1]⟩, host.2⟩
          · cases host
      split
      · intro fault
        exact State.locFault_cause fault ecc wait
      split
      · next dead =>
        rintro ⟨⟩
        refine .inr (.inr (.inr (.inr (.inl ⟨rfl, .inr ?_⟩))))
        simpa [and_assoc] using dead
      split
      · next mixed =>
        rintro ⟨⟩
        refine .inr (.inr (.inr (.inr (.inr ⟨rfl, ?_⟩))))
        simpa using mixed
      · exact nofun

/-- An element's check fails at its first byte, at a byte that its page or home forbids, or for its alignment (R162). -/
theorem State.checkElem_cause {el : Elem} {c : Byte} {v : Word} (h : s.checkElem pt plan el = .error (c, v))
    (ecc : c ≠ 0x18) (wait : c ≠ 0xFF) :
    (s.pageOf pt v = none ∧ c = 0x08) ∨
    (c = 0x06 ∧ v = BitVec.ofNat 64 (el.bit / 8) ∧
      (plan.badBit = true ∨ ∃ a noHost, plan.atomic = some (a, noHost) ∧ v.toNat % a ≠ 0)) ∨
    ∃ first pg, s.pageOf pt (BitVec.ofNat 64 (el.bit / 8)) = some first ∧ s.pageOf pt v = some pg ∧
      s.FaultsAs pt plan first pg (s.placeByte pt plan el.r pg v).ga c := by
  revert h
  unfold State.checkElem
  dsimp only
  split
  · next meets =>
    rintro ⟨⟩
    obtain ⟨y, met, rfl⟩ := Option.map_eq_some_iff.mp meets
    exact ((State.walkMeets_cause met).elim wait ecc).elim
  · next none =>
    rintro ⟨⟩
    exact .inl ⟨none, rfl⟩
  · next first _ page =>
    generalize bad : (plan.badBit || _) = refused
    split
    · next x found =>
      intro h
      obtain ⟨b, -, fault⟩ := List.mem_filterMap.mp (List.mem_of_find?_eq_some found)
      obtain ⟨y, isY, is⟩ := Option.map_eq_some_iff.mp fault
      subst is
      cases h
      obtain none | ⟨pg, isPg, why⟩ := State.elemFault_cause (n := y.1) isY ecc wait
      · exact .inl none
      · exact .inr (.inr ⟨first, pg, page, isPg, why⟩)
    · split
      · next yes =>
        rw [yes] at bad
        rintro ⟨⟩
        refine .inr (.inl ⟨rfl, rfl, ?_⟩)
        rw [Bool.or_eq_true] at bad
        obtain bit | align := bad
        · exact .inl bit
        · split at align
          · next a noHost atomic => exact .inr ⟨a, noHost, atomic, of_decide_eq_true align⟩
          · cases align
      · exact nofun
end

end Sys2Proof.Machine
end

section
/-!
SUPPORT. What a vector load puts into rows, and what it asks of other devices (06_memory_isa R158-R171; 09_address R243).
-/

namespace Sys2Proof.Machine

/-! ### Elements put into rows (05_vector R15; 06_memory_isa R166) -/

/-- A row as it is written keeps its elements: only what lies beyond a share may be lost. -/
theorem rowElem_kept (t : Hart) (ty : BitVec 4) (r : Nat) {i : Nat} (inside : i < vlmaxOf t.k ty) :
    rowElem (typeWidth ty) (BitVec.ofNat 32768 (if ty = tyF6 then clearPad t.k r else r)).toNat i = rowElem (typeWidth ty) r i := by
  have bits := vlmax_bits t ty
  have last : typeWidth ty * i + typeWidth ty ≤ typeWidth ty * vlmaxOf t.k ty := by
    rw [← Nat.mul_succ]
    exact Nat.mul_le_mul_left _ inside
  apply Nat.eq_of_testBit_eq
  intro n
  rw [testBit_rowElem, testBit_rowElem, BitVec.toNat_ofNat, Nat.testBit_mod_two_pow]
  by_cases low : n < typeWidth ty
  · have fits : typeWidth ty * i + n < 32768 := by omega
    split
    · next six =>
      have width : typeWidth ty = 6 := by rw [six]; rfl
      have below : typeWidth ty * i + n < 6 * vlmaxOf t.k tyF6 := by rw [← six, ← width]; omega
      rw [clearPad, Nat.testBit_mod_two_pow]
      simp [fits, below]
    · simp [fits]
  · simp [low]

section
variable {k d : Nat} {ty : BitVec 4} {t : Hart} {xs : List (Elem × Nat)}

/-- One element put into its row. -/
def putElem (k : Nat) (ty : BitVec 4) (d : Nat) (t : Hart) (x : Elem × Nat) : Hart :=
  t.setV (d + x.1.r) (BitVec.ofNat 32768 (if ty = tyF6 then clearPad k (setElem (typeWidth ty) (t.vr (d + x.1.r)).toNat x.1.i x.2)
    else setElem (typeWidth ty) (t.vr (d + x.1.r)).toNat x.1.i x.2))
theorem putElems_cons (x : Elem × Nat) : putElems k ty d t (x :: xs) = putElems k ty d (putElem k ty d t x) xs := rfl
theorem putElems_eq : putElems k ty d t xs = { t with v := (putElems k ty d t xs).v } := by
  induction xs generalizing t with
  | nil => rfl
  | cons x xs ih =>
    rw [putElems_cons, ih]
    rfl
theorem vr_putElems {n : Nat} (away : ∀ x ∈ xs, n % 32 ≠ (d + x.1.r) % 32) : (putElems k ty d t xs).vr n = t.vr n := by
  induction xs generalizing t with
  | nil => rfl
  | cons x xs ih =>
    rw [putElems_cons, ih fun y h => away y (List.mem_cons_of_mem _ h), putElem, Hart.vr_setV, if_neg (away x List.mem_cons_self)]
/-- One element put leaves every other element of the share. -/
theorem elem_putElem (u : Hart) {x : Elem × Nat} {r i : Nat} (inside : i < vlmaxOf u.k ty) (rx : x.1.r < 8) (rr : r < 8) :
    rowElem (typeWidth ty) ((putElem u.k ty d t x).vr (d + r)).toNat i =
      if x.1.r = r ∧ x.1.i = i then x.2 % 2 ^ typeWidth ty else rowElem (typeWidth ty) (t.vr (d + r)).toNat i := by
  rw [putElem, Hart.vr_setV]
  by_cases row : x.1.r = r
  · rw [row, if_pos rfl, rowElem_kept u ty _ inside, rowElem_setElem _ _ _ _ _ (typeWidth_pos ty)]
    by_cases index : x.1.i = i
    · rw [if_pos index.symm, if_pos ⟨rfl, index⟩]
    · rw [if_neg fun h => index h.symm, if_neg fun h => index h.2]
  · rw [if_neg (by omega), if_neg fun h => row h.1]
/-- Elements that are not put are as they were. -/
theorem elem_putElems_other (u : Hart) {r i : Nat} (inside : i < vlmaxOf u.k ty) (rr : r < 8) (rows : ∀ x ∈ xs, x.1.r < 8)
    (other : ∀ x ∈ xs, x.1.r = r → x.1.i ≠ i) :
    rowElem (typeWidth ty) ((putElems u.k ty d t xs).vr (d + r)).toNat i = rowElem (typeWidth ty) (t.vr (d + r)).toNat i := by
  induction xs generalizing t with
  | nil => rfl
  | cons x xs ih =>
    rw [putElems_cons, ih (fun y h => rows y (List.mem_cons_of_mem _ h)) fun y h => other y (List.mem_cons_of_mem _ h),
      elem_putElem u inside (rows x List.mem_cons_self) rr, if_neg fun h => other x List.mem_cons_self h.1 h.2]
/-- An element that is put once holds its value. -/
theorem elem_putElems (u : Hart) (rows : ∀ x ∈ xs, x.1.r < 8) (inside : ∀ x ∈ xs, x.1.i < vlmaxOf u.k ty)
    (once : (xs.map (·.1)).Pairwise Elem.before) {x : Elem × Nat} (isIn : x ∈ xs) :
    rowElem (typeWidth ty) ((putElems u.k ty d t xs).vr (d + x.1.r)).toNat x.1.i = x.2 % 2 ^ typeWidth ty := by
  induction xs generalizing t with
  | nil => cases isIn
  | cons y xs ih =>
    rw [List.map_cons, List.pairwise_cons] at once
    have low := fun z h => rows z (List.mem_cons_of_mem y h)
    obtain rfl | later := List.mem_cons.mp isIn
    · rw [putElems_cons, elem_putElems_other u (inside x List.mem_cons_self) (rows x List.mem_cons_self) low fun z h row index => ?_,
        elem_putElem u (inside x List.mem_cons_self) (rows x List.mem_cons_self) (rows x List.mem_cons_self), if_pos ⟨rfl, rfl⟩]
      have before := once.1 z.1 (List.mem_map_of_mem h)
      unfold Elem.before at before
      omega
    · rw [putElems_cons, ih low (fun z h => inside z (List.mem_cons_of_mem y h)) once.2 later]
end

/-! ### Pad bits of a row being loaded (R15, R171) -/

/-- Bits cleared beyond a share are those of none of its elements. -/
theorem rowElem_padBits (t : Hart) (v : Row) {i : Nat} (inside : i < vlmaxOf t.k tyF6) :
    rowElem 6 (v &&& ~~~ BitVec.ofNat 32768 (padBits t.k)).toNat i = rowElem 6 v.toNat i := by
  apply Nat.eq_of_testBit_eq
  intro n
  rw [testBit_rowElem, testBit_rowElem]
  by_cases low : n < 6
  · have below : 6 * i + n < 6 * vlmaxOf t.k tyF6 := by omega
    have clear : (BitVec.ofNat 32768 (padBits t.k)).getLsbD (6 * i + n) = false := by
      rw [BitVec.getLsbD_ofNat, padBits, Nat.testBit_mul_two_pow]
      simp [below]
    rw [BitVec.testBit_toNat, BitVec.testBit_toNat, BitVec.getLsbD_and, BitVec.getLsbD_not, clear]
    by_cases fits : 6 * i + n < 32768
    · simp [fits]
    · rw [BitVec.getLsbD_of_ge v _ (by omega)]
      simp
  · simp [low]

section
variable {d : Nat} {ty : BitVec 4} {xs : List (Elem × Nat)}

/-- Only rows differ where pad bits are cleared: rows of the elements, beyond the share. -/
structure PadsCleared (t u : Hart) (ty : BitVec 4) (rows : Nat → Prop) : Prop where
  frame : u = { t with v := u.v }
  elems : ∀ n i, i < vlmaxOf t.k ty → rowElem (typeWidth ty) (u.vr n).toNat i = rowElem (typeWidth ty) (t.vr n).toNat i
  rest : ∀ n, ¬ rows (n % 32) → u.vr n = t.vr n
theorem PadsCleared.refl (t : Hart) (ty : BitVec 4) (rows : Nat → Prop) : PadsCleared t t ty rows := ⟨rfl, fun _ _ _ => rfl, fun _ _ => rfl⟩
theorem PadsCleared.trans {t u w : Hart} {rows : Nat → Prop} (a : PadsCleared t u ty rows) (b : PadsCleared u w ty rows) :
    PadsCleared t w ty rows where
  frame := by rw [b.frame, a.frame]
  elems n i h := by
    have share : u.k = t.k := by rw [a.frame]; rfl
    rw [b.elems n i (by rw [share]; exact h), a.elems n i h]
  rest n h := by rw [b.rest n h, a.rest n h]
theorem Hart.padsCleared (t : Hart) : PadsCleared t (t.clearPads ty d xs) ty fun n => ∃ x ∈ xs, n = (d + x.1.r) % 32 := by
  unfold Hart.clearPads
  split
  · next six =>
    have each (l : List Nat) (sub : ∀ r ∈ l, ∃ x ∈ xs, x.1.r = r) : ∀ u : Hart, u.k = t.k →
        PadsCleared u (l.foldl (fun u r => if padLands t.k ty xs r then u
          else u.setV (d + r) (u.vr (d + r) &&& ~~~ BitVec.ofNat 32768 (padBits t.k))) u) ty fun n => ∃ x ∈ xs, n = (d + x.1.r) % 32 := by
      induction l with
      | nil => exact fun u _ => .refl u _ _
      | cons r l ih =>
        intro u share
        obtain ⟨x, isIn, rfl⟩ := sub r List.mem_cons_self
        rw [List.foldl_cons]
        split
        · exact ih (fun r h => sub r (List.mem_cons_of_mem _ h)) u share
        · refine PadsCleared.trans ⟨rfl, fun n i inside => ?_, fun n away => ?_⟩
            (ih (fun r h => sub r (List.mem_cons_of_mem _ h)) _ share)
          · rw [Hart.vr_setV]
            split
            · next same =>
              have row : u.vr n = u.vr (d + x.1.r) := by rw [Hart.vr, Hart.vr, same]
              have width : typeWidth ty = 6 := by rw [six]; rfl
              rw [width, row, ← share]
              exact rowElem_padBits u _ (by rw [← six]; exact inside)
            · rfl
          · rw [Hart.vr_setV, if_neg fun same => away ⟨x, isIn, same⟩]
    exact each _ (fun r h => by obtain ⟨x, isIn, rfl⟩ := List.mem_map.mp (List.mem_dedup.mp h); exact ⟨x, isIn, rfl⟩) t rfl
  · exact .refl t _ _
theorem Hart.clearPads_plain (t : Hart) (other : ty ≠ tyF6) : t.clearPads ty d xs = t := if_neg other
end

/-! ### What is asked of other devices -/

/-- Of the package's harts only one hart's standing with other devices differs. -/
structure State.Deals (h : Nat) (s t : State) : Prop where
  cur : t.cur = s.cur
  others : ∀ k, k ≠ h → t.hart k = s.hart k
  own : t.hart h = { s.hart h with
    unsealed := (t.hart h).unsealed
    tracked := (t.hart h).tracked
    asks := (t.hart h).asks
    access := (t.hart h).access
    fetching := (t.hart h).fetching }

section
variable {h : Nat} {s t u : State}

theorem State.Deals.refl (h : Nat) (s : State) : s.Deals h s := ⟨rfl, fun _ _ => rfl, rfl⟩
theorem State.Deals.trans (a : s.Deals h t) (b : t.Deals h u) : s.Deals h u where
  cur := b.cur.trans a.cur
  others k n := (b.others k n).trans (a.others k n)
  own := by rw [b.own, a.own]
theorem State.Deals.foldl {α : Type} {f : State → α → State} (each : ∀ (s : State) a, s.Deals h (f s a)) (l : List α) (s : State) :
    s.Deals h (l.foldl f s) := by
  induction l generalizing s with
  | nil => exact .refl h s
  | cons a l ih => exact (each s a).trans (ih _)
theorem State.Deals.of_harts (cur : t.cur = s.cur) (harts : t.harts = s.harts) : s.Deals h t := by
  have same (k : Nat) : t.hart k = s.hart k := by rw [State.hart, State.hart, harts]
  exact ⟨cur, fun k _ => same k, by rw [same h]⟩
theorem State.deals_setHart {x : Hart} (own : x = { s.hart h with
    unsealed := x.unsealed, tracked := x.tracked, asks := x.asks, access := x.access, fetching := x.fetching }) :
    s.Deals h (s.setHart h x) where
  cur := rfl
  others k n := by rw [State.hart_setHart, if_neg n]
  own := by rw [State.hart_setHart_same]; exact own
theorem State.Wrote.deals (w : s.Wrote h t) : s.Deals h t where
  cur := by rw [w.frame]
  others := w.others
  own := by rw [w.own]
theorem State.deals_markPeer (c : Nat) : s.Deals h (s.markPeer h c) := by
  unfold State.markPeer
  dsimp only
  split
  · exact .refl h s
  · split
    · unfold State.logDie
      dsimp only
      split
      · exact .of_harts rfl rfl
      · rw [State.tickTime_eq]
        exact .of_harts rfl rfl
    · exact .of_harts rfl rfl
theorem State.deals_peerLost (c : Nat) : s.Deals h (s.peerLost h c) :=
  (State.deals_markPeer c).trans (State.deals_setHart rfl)
theorem State.deals_markFailed (ps : List Placed) : s.Deals s.cur (s.markFailed ps) := by
  have each (l : List Nat) : ∀ s : State, s.Deals s.cur (l.foldl (fun s c => s.peerLost s.cur c) s) := by
    induction l with
    | nil => exact fun s => .refl _ s
    | cons c l ih =>
      intro s
      have lost := State.deals_peerLost (h := s.cur) (s := s) c
      have rest := ih (s.peerLost s.cur c)
      rw [lost.cur] at rest
      exact lost.trans rest
  exact each _ s
/-- Failed devices are marked only where elements reach them. -/
theorem State.markFailed_of_near {ps : List Placed} (near : ∀ p ∈ ps, ∀ l ∈ p.locs, s.farDev l.ga = none) : s.markFailed ps = s := by
  have none : (ps.flatMap fun p => p.locs.filterMap fun l => s.failedHome l.ga) = [] :=
    List.flatMap_eq_nil_iff.mpr fun p hp => List.filterMap_eq_nil_iff.mpr fun l hl => State.failedHome_of_near (near p hp l hl)
  rw [State.markFailed, none]
  rfl
theorem State.keepWindows_eq (win : Nat) (locs : List Loc) : s.keepWindows win locs =
    { s with windows := (s.keepWindows win locs).windows, fresh := (s.keepWindows win locs).fresh } := by
  unfold State.keepWindows State.keepWindowsWith
  split <;> rfl
theorem State.deals_keepWindows (win : Nat) (locs : List Loc) : s.Deals h (s.keepWindows win locs) :=
  .of_harts (by rw [State.keepWindows_eq]) (by rw [State.keepWindows_eq])
theorem State.deals_dropFar (locs : List Loc) : s.Deals s.cur (s.dropFar locs) := by
  unfold State.dropFar
  split
  · exact State.deals_setHart rfl
  · exact .refl _ s
theorem State.mem_dropFar (locs : List Loc) : (s.dropFar locs).mem = s.mem := by
  unfold State.dropFar
  split <;> rfl
theorem State.dropFar_of_near {locs : List Loc} (near : ∀ l ∈ locs, s.farDev l.ga = none) : s.dropFar locs = s :=
  if_neg fun any => by
    obtain ⟨l, isIn, far⟩ := List.any_eq_true.mp any
    rw [near l isIn] at far
    cases far

variable {own ga n : Nat} {upd : Option (BitVec 8 × List Byte)}

theorem State.wrote_sendAsk : s.Wrote h (s.sendAsk h own ga n upd).1 := by
  have tag : s.Wrote h s.newTag.1 := ⟨rfl, rfl, fun _ _ => rfl⟩
  unfold State.sendAsk
  dsimp only
  split
  · rw [State.sendTo_eq]
    exact ⟨rfl, rfl, fun _ _ => rfl⟩
  · exact (tag.trans (State.wrote_setHart rfl)).trans State.wrote_pump
theorem State.deals_askRuns (gas : List Nat) : s.Deals h (s.askRuns h gas).1 := by
  have each (l : List (Nat × Nat)) : ∀ o : State × List Ask, o.1.Deals h (l.foldl (fun (o : State × List Ask) x =>
      ((o.1.sendAsk h 3 x.1 x.2 none).1, o.2 ++ [(o.1.sendAsk h 3 x.1 x.2 none).2])) o).1 := by
    induction l with
    | nil => exact fun o => .refl h o.1
    | cons x l ih =>
      intro o
      exact (State.wrote_sendAsk (s := o.1) (own := 3) (ga := x.1) (n := x.2) (upd := none)).deals.trans (ih (_, _))
  exact each _ (s, [])

theorem State.peerFailed_pumpFrom {sec : Bool} {before l : List Tracked} : (s.pumpFrom sec before l).1.peerFailed = s.peerFailed := by
  induction l generalizing s before with
  | nil => rfl
  | cons x l ih =>
    unfold State.pumpFrom
    split
    · exact ih
    · rw [ih]
      exact funext fun c => State.peerFailed_sendTo c
theorem State.peerFailed_sendAsk : (s.sendAsk h own ga n upd).1.peerFailed = s.peerFailed := by
  unfold State.sendAsk
  dsimp only
  split
  · exact funext fun c => State.peerFailed_sendTo c
  · exact State.peerFailed_pumpFrom (s := s.newTag.1.setHart h _)
theorem State.fresh_sendAsk : (s.sendAsk h own ga n upd).1.fresh = s.fresh + 1 := by
  unfold State.sendAsk
  dsimp only
  split
  · rw [State.sendTo_eq]
    rfl
  · show (State.pumpFrom _ _ _ _).1.fresh = _
    rw [State.pumpFrom_eq]
    rfl

/-- A request is put on its way for a run, where none stands. -/
def State.askRun (h own : Nat) (s : State) (x : Nat × Nat) : State :=
  if (askOf (s.hart h).asks own x.1 x.2 false).isSome then s
  else (s.sendAsk h own x.1 x.2 none).1.setHart h { (s.sendAsk h own x.1 x.2 none).1.hart h with
    asks := ((s.sendAsk h own x.1 x.2 none).1.hart h).asks ++ [(s.sendAsk h own x.1 x.2 none).2] }
theorem State.gather_eq (gas : List Nat) : s.gather h own gas = ((s.farRuns gas).foldl (State.askRun h own) s,
    (s.farRuns gas).all fun x =>
      ((askOf (((s.farRuns gas).foldl (State.askRun h own) s).hart h).asks own x.1 x.2 false).map Ask.settled).getD false) := rfl
theorem State.deals_gather (gas : List Nat) : s.Deals h (s.gather h own gas).1 := by
  rw [State.gather_eq]
  refine State.Deals.foldl (fun s x => ?_) _ s
  unfold State.askRun
  split
  · exact .refl h s
  · exact State.wrote_sendAsk.deals.trans (State.deals_setHart rfl)
theorem State.mem_gather (gas : List Nat) : (s.gather h own gas).1.mem = s.mem := by
  have each (l : List (Nat × Nat)) : ∀ s : State, (l.foldl (State.askRun h own) s).mem = s.mem := by
    induction l with
    | nil => exact fun _ => rfl
    | cons x l ih =>
      intro s
      rw [List.foldl_cons, ih]
      unfold State.askRun
      split
      · rfl
      · exact (congrArg State.mem State.wrote_sendAsk.frame : _)
  exact each _ s

/-- Two packages in which a hart has asked the same: what is asked next is the same too. -/
structure State.AsksAlike (h : Nat) (s w : State) : Prop where
  asks : (w.hart h).asks = (s.hart h).asks
  fresh : w.fresh = s.fresh
  failed : w.peerFailed = s.peerFailed
theorem State.AsksAlike.askRun {w : State} (a : s.AsksAlike h w) (x : Nat × Nat) :
    (State.askRun h own s x).AsksAlike h (State.askRun h own w x) := by
  have ask (s : State) : (s.sendAsk h own x.1 x.2 none).2 =
      ⟨own, BitVec.ofNat 32 s.fresh, gaChip x.1, x.1, x.2, false, s.peerFailed (gaChip x.1), none⟩ := by
    have kept : (if own = 3 ∧ (none : Option (BitVec 8 × List Byte)).isNone = true
        then s.newTag.1.sendTo (gaChip x.1) (gaDie x.1 % 10) false (s.hart h).secure (s.hartRecord h 0x01 x.1 x.2 false s.newTag.2 [])
        else s.newTag.1.sendTracked h (gaChip x.1) false (s.hartRecord h 0x01 x.1 x.2 false s.newTag.2 [])).peerFailed = s.peerFailed :=
      State.peerFailed_sendAsk (h := h) (own := own) (ga := x.1) (n := x.2) (upd := none)
    unfold State.sendAsk
    dsimp only
    rw [kept]
    rfl
  have asks (s : State) : ((s.sendAsk h own x.1 x.2 none).1.hart h).asks = (s.hart h).asks := by
    rw [(State.wrote_sendAsk (s := s) (h := h) (own := own) (ga := x.1) (n := x.2) (upd := none)).own]
  unfold State.askRun
  rw [a.asks]
  split
  · exact a
  · refine ⟨?_, ?_, ?_⟩
    · rw [State.hart_setHart_same, State.hart_setHart_same]
      show ((w.sendAsk h own x.1 x.2 none).1.hart h).asks ++ _ = ((s.sendAsk h own x.1 x.2 none).1.hart h).asks ++ _
      rw [asks, asks, ask, ask, a.asks, a.fresh, a.failed]
    · exact State.fresh_sendAsk.trans ((congrArg (· + 1) a.fresh).trans State.fresh_sendAsk.symm)
    · exact State.peerFailed_sendAsk.trans (a.failed.trans State.peerFailed_sendAsk.symm)
theorem State.AsksAlike.gather {w : State} (a : s.AsksAlike h w) (far : w.farDev = s.farDev) (gas : List Nat) :
    (w.gather h own gas).2 = (s.gather h own gas).2 := by
  have runs : w.farRuns gas = s.farRuns gas := by rw [State.farRuns, State.farRuns, far]
  have each (l : List (Nat × Nat)) : ∀ s w : State, s.AsksAlike h w →
      (l.foldl (State.askRun h own) s).AsksAlike h (l.foldl (State.askRun h own) w) := by
    induction l with
    | nil => exact fun _ _ a => a
    | cons x l ih => exact fun s w a => ih _ _ (a.askRun x)
  rw [State.gather_eq, State.gather_eq]
  dsimp only
  rw [runs, (each (s.farRuns gas) s w a).asks]
end

end Sys2Proof.Machine
end

section
/-!
SUPPORT. Vector loads at their enqueue (06_memory_isa R158, R161, R162, R169), for O31.
-/

namespace Sys2Proof.Machine

/-! ### The value of an element -/

theorem getLsbD_foldl_flags {α : Type} (f : α → Flags) (k : Nat) (l : List α) (init : Flags) :
    (l.foldl (fun a x => a ||| f x) init).getLsbD k = true ↔ init.getLsbD k = true ∨ ∃ x ∈ l, (f x).getLsbD k = true := by
  induction l generalizing init with
  | nil => simp
  | cons x l ih =>
    rw [List.foldl_cons, ih, BitVec.getLsbD_or, Bool.or_eq_true, or_assoc]
    simp

section
variable {s w : State}

/-- Bytes that no other device holds are loaded as they stand, whatever other devices answer. -/
theorem State.Alike.loadAtWith (a : s.Alike w) (far : Nat → Option Byte) {locs : List Loc} (near : ∀ l ∈ locs, s.farDev l.ga = none) :
    w.loadAtWith far w.winKey locs = s.loadAt s.winKey locs := by
  have fresh : w.fresh = s.fresh := by rw [a.frame]
  have windows : w.windows = s.windows := by rw [a.frame]
  induction locs with
  | nil => rfl
  | cons l locs ih =>
    have byte : w.loadByteWith far w.winKey l = s.loadByteWith (fun _ => none) s.winKey l := by
      unfold State.loadByteWith
      rw [fresh, windows, a.canon, a.winKey, a.farDev, State.readByte_of_harts a.frame, near l List.mem_cons_self]
      rfl
    rw [State.loadAtWith, byte, ih fun x h => near x (List.mem_cons_of_mem _ h)]
    rfl
/-- The value of an element no byte of which another device holds. -/
theorem State.Alike.loadPlacedWith (a : s.Alike w) (far : Nat → Option Byte) (e : QEntry) (c : Option Placing) {p : Placed}
    (near : ∀ l ∈ p.locs, s.farDev l.ga = none) : w.loadPlacedWith far w.me { e with placed := c } p = s.loadPlaced s.me e p := by
  have none (f : Loc → Bool) : (p.locs.any fun l => (s.farDev l.ga).isSome && f l) = false :=
    List.any_eq_false.mpr fun l h => by rw [near l h]; exact Bool.false_ne_true
  have book : w.me.cbr = s.me.cbr := by rw [a.me]; rfl
  unfold State.loadPlaced State.loadPlacedWith
  rw [a.farDev, none, none, a.loadAtWith far near, book]
  rfl

/-! ### A load's act (R162, R163, R169) -/

variable {e : QEntry} {ps : List Placed} {bad : Option (Elem × Byte × Word)} {ctr d : Nat}

theorem State.placedWait_of_ready (ready : Ready s ps) : s.placedWait ps = none := by
  refine List.findSome?_eq_none_iff.mpr fun p hp => ?_
  rw [Option.map_eq_none_iff, List.findIdx?_eq_none_iff]
  exact ready p hp
theorem State.eccPlaced_of_clean {whole : List Nat}
    (clean : ∀ p ∈ ps, ∀ l ∈ p.locs, s.poisoned l.ga = true → whole.contains (s.canon l.ga / 64) = true) : s.eccPlaced whole ps = none := by
  refine List.findSome?_eq_none_iff.mpr fun p hp => ?_
  rw [Option.map_eq_none_iff, List.findIdx?_eq_none_iff]
  intro l hl
  cases yes : s.poisoned l.ga with
  | false => rfl
  | true => rw [clean p hp l hl yes]; rfl
theorem State.awaits_of_near {p : Placed} (near : ∀ l ∈ p.locs, s.farDev l.ga = none) : s.awaits p = false :=
  List.any_eq_false.mpr fun l h => by rw [near l h]; exact Bool.false_ne_true

/-- The values that a load has of its elements. -/
def State.loaded (s : State) (e : QEntry) (now : Bool) (ps : List Placed) : List (Elem × Nat × Flags) :=
  (ps.filter fun p => now || !s.awaits p).map fun p => (p.el, s.loadPlacedWith (askByte s.me.asks) s.me e p)
/-- A package whose hart has loaded elements: failed devices are marked, window lines kept, and answers done with. -/
def State.committed (s : State) (ps : List Placed) : State :=
  ((s.markFailed ps).keepWindows s.winKey ((ps.filter fun p => !s.awaits p).flatMap (·.locs))).dropFar (ps.flatMap (·.locs))
/-- What a load of good lines asks of other devices before it commits anything. -/
def State.awaited (s : State) (now : Bool) (ps : List Placed) : State × Bool :=
  if now then s.gather s.cur 1 ((ps.filter s.awaits).flatMap fun p => locGas p.locs) else (s, true)

theorem State.deals_committed (ps : List Placed) : s.Deals s.cur (s.committed ps) := by
  have marked := State.deals_markFailed (s := s) ps
  have kept := marked.trans (State.deals_keepWindows s.winKey ((ps.filter fun p => !s.awaits p).flatMap (·.locs)))
  have drop := State.deals_dropFar (s := (s.markFailed ps).keepWindows s.winKey ((ps.filter fun p => !s.awaits p).flatMap (·.locs)))
    (ps.flatMap (·.locs))
  rw [kept.cur] at drop
  exact kept.trans drop

section
variable (near : ∀ p ∈ ps, ∀ l ∈ p.locs, s.farDev l.ga = none)
include near

theorem State.awaited_near (now : Bool) : s.awaited now ps = (s, true) := by
  have none : ps.filter s.awaits = [] := List.filter_eq_nil_iff.mpr fun p h => by
    rw [State.awaits_of_near (near p h)]
    exact Bool.false_ne_true
  rw [State.awaited, none]
  split
  · exact State.gather_of_near nofun
  · rfl
theorem State.committed_near : s.committed ps = s.keepWindows s.winKey (ps.flatMap (·.locs)) := by
  have all : ps.filter (fun p => !s.awaits p) = ps := List.filter_eq_self.mpr fun p h => by
    rw [State.awaits_of_near (near p h)]
    rfl
  have farDev : (s.keepWindows s.winKey (ps.flatMap (·.locs))).farDev = s.farDev := by rw [State.keepWindows_eq]; rfl
  rw [State.committed, State.markFailed_of_near near, all]
  refine State.dropFar_of_near fun l h => ?_
  obtain ⟨p, hp, hl⟩ := List.mem_flatMap.mp h
  rw [farDev]
  exact near p hp l hl
theorem State.loaded_near (now : Bool) : s.loaded e now ps =
    ps.map fun p => (p.el, s.loadPlacedWith (askByte s.me.asks) s.me e p) := by
  have all : ps.filter (fun p => now || !s.awaits p) = ps := List.filter_eq_self.mpr fun p h => by
    rw [State.awaits_of_near (near p h), Bool.not_false, Bool.or_true]
  rw [State.loaded, all]
end

variable (ready : Ready s e.now) (clean : ∀ p ∈ e.now, ∀ l ∈ p.locs, s.poisoned l.ga = false)
include ready clean

theorem State.loadElems_clean : s.loadElems e ctr d =
    if !(s.awaited (e.comes.isSome || decide (ctr = 0)) e.now).2 then
      .wait (s.awaited (e.comes.isSome || decide (ctr = 0)) e.now).1
        (BitVec.ofNat 64 ((e.now.headD ⟨⟨0, 0, 0⟩, [], 0, 0, ⟨0, 0⟩⟩).el.bit / 8))
    else match e.comes with
      | some (el, c, v) => ((s.committed e.now).withMe fun t => putElems t.k e.ty d t
          ((s.loaded e (e.comes.isSome || decide (ctr = 0)) e.now).map fun x => (x.1, x.2.1))).faultAt e.now el c v (restartOf el.r el.i)
            ((s.loaded e (e.comes.isSome || decide (ctr = 0)) e.now).foldl (fun f x => f ||| x.2.2) Flags.none)
      | none => if !(e.comes.isSome || decide (ctr = 0)) && e.now.any (s.committed e.now).awaits then
          (s.committed e.now).deliverLate e ctr d e.now
            ((s.loaded e (e.comes.isSome || decide (ctr = 0)) e.now).map fun x => (x.1, x.2.1))
            ((s.loaded e (e.comes.isSome || decide (ctr = 0)) e.now).foldl (fun f x => f ||| x.2.2) Flags.none)
        else (s.committed e.now).deliverLoad e ctr d
            ((s.loaded e (e.comes.isSome || decide (ctr = 0)) e.now).map fun x => (x.1, x.2.1))
            ((s.loaded e (e.comes.isSome || decide (ctr = 0)) e.now).foldl (fun f x => f ||| x.2.2) Flags.none) := by
  have wait := State.placedWait_of_ready ready
  have ecc : s.eccPlaced [] e.now = none := State.eccPlaced_of_clean fun p hp l hl h => by rw [clean p hp l hl] at h; cases h
  unfold State.loadElems
  dsimp only
  simp only [wait, ecc, Option.map_none, Option.none_or] <;> rfl

section
variable (near : ∀ p ∈ e.now, ∀ l ∈ p.locs, s.farDev l.ga = none)
include near

/-- The values that a load commits of elements no byte of which another device holds. -/
def State.valuesNear (s : State) (e : QEntry) : List (Elem × Nat × Flags) :=
  e.now.map fun p => (p.el, s.loadPlacedWith (askByte s.me.asks) s.me e p)
/-- A load that faults commits the elements before the fault. -/
theorem State.loadElems_faults {el : Elem} {c : Byte} {v : Word} (comes : e.comes = some (el, c, v)) (plain : c ≠ 0x18) :
    s.loadElems e ctr d = .fault ((s.keepWindows s.winKey (e.now.flatMap (·.locs))).withMe fun t =>
        putElems t.k e.ty d t ((s.valuesNear e).map fun x => (x.1, x.2.1))) c v (restartOf el.r el.i)
      ((s.valuesNear e).foldl (fun f x => f ||| x.2.2) Flags.none) := by
  rw [State.loadElems_clean ready clean, State.awaited_near near, State.committed_near near, State.loaded_near near, comes]
  dsimp only
  rw [if_neg (by simp), State.faultAt, if_neg (show ¬c = causeEcc from plain)]
  rfl
/-- A blocking load commits all of its elements. -/
theorem State.loadElems_done (comes : e.comes = none) (blocking : ctr = 0) :
    s.loadElems e ctr d = .done ((s.keepWindows s.winKey (e.now.flatMap (·.locs))).withMe fun t =>
        putElems t.k e.ty d t ((s.valuesNear e).map fun x => (x.1, x.2.1)))
      ((s.valuesNear e).foldl (fun f x => f ||| x.2.2) Flags.none) := by
  subst blocking
  rw [State.loadElems_clean ready clean, State.awaited_near near, State.committed_near near, State.loaded_near near, comes]
  dsimp only
  rw [if_neg (by simp), if_neg (by simp), State.deliverLoad, if_pos rfl]
  rfl
end

/-- A blocking load that awaits an answer of another device waits. -/
theorem State.loadElems_waits (blocking : ctr = 0)
    (more : (s.gather s.cur 1 ((e.now.filter s.awaits).flatMap fun p => locGas p.locs)).2 = false) :
    ∃ va, s.loadElems e ctr d = .wait (s.gather s.cur 1 ((e.now.filter s.awaits).flatMap fun p => locGas p.locs)).1 va := by
  have awaited : s.awaited (e.comes.isSome || decide (ctr = 0)) e.now =
      s.gather s.cur 1 ((e.now.filter s.awaits).flatMap fun p => locGas p.locs) := if_pos (by simp [blocking])
  rw [State.loadElems_clean ready clean, awaited, if_pos (by rw [more]; rfl)]
  exact ⟨_, rfl⟩
/-- A non-blocking load leaves its operation outstanding. -/
theorem State.loadElems_later (comes : e.comes = none) (counted : ctr ≠ 0) : ∃ (y : State) (xs : List (Elem × Nat)) (op : NbOp),
    s.loadElems e ctr d = .done (y.withMe fun t => (t.clearPads e.ty d xs).addNb op) 0 ∧ s.Deals s.cur y ∧
      (∀ x ∈ xs, ∃ p ∈ e.now, p.el = x.1) ∧ op.ctr = ctr ∧ op.num = e.issue ∧ op.held = false ∧
      ((∀ p ∈ e.now, ∀ l ∈ p.locs, s.farDev l.ga = none) → y.mem = s.mem) := by
  have deals := State.deals_committed (s := s) e.now
  have no : (e.comes.isSome || decide (ctr = 0)) = false := by simpa [comes] using counted
  have same (near : ∀ p ∈ e.now, ∀ l ∈ p.locs, s.farDev l.ga = none) : s.committed e.now = { s with
      windows := (s.committed e.now).windows, fresh := (s.committed e.now).fresh } := by rw [State.committed_near near, State.keepWindows_eq]
  rw [State.loadElems_clean ready clean, no, comes]
  generalize s.committed e.now = u at deals same
  dsimp only
  rw [if_neg (by simp [State.awaited])]
  split
  · next far =>
    refine ⟨(u.askRuns u.cur ((e.now.filter u.awaits).flatMap fun p => locGas p.locs)).1, _, _, rfl, ?_, fun x isIn => ?_, rfl, rfl, rfl,
      fun near => ?_⟩
    · have asked := State.deals_askRuns (s := u) (h := u.cur) ((e.now.filter u.awaits).flatMap fun p => locGas p.locs)
      rw [deals.cur] at asked ⊢
      exact deals.trans asked
    · obtain ⟨p, hp, rfl⟩ := List.mem_map.mp isIn
      exact ⟨p, hp, rfl⟩
    · rw [Bool.not_false, Bool.true_and] at far
      obtain ⟨p, hp, awaits⟩ := List.any_eq_true.mp far
      have devices : u.farDev = s.farDev := by rw [same near]; rfl
      rw [State.awaits_of_near fun l hl => by rw [devices]; exact near p hp l hl] at awaits
      cases awaits
  · rw [State.deliverLoad, if_neg counted]
    refine ⟨u, (s.loaded e false e.now).map fun x => (x.1, x.2.1), nbPlain ctr e.issue (nbRows u.me.k e.ty d u.me
      ((s.loaded e false e.now).map fun x => (x.1, x.2.1))) [] ((s.loaded e false e.now).foldl (fun f x => f ||| x.2.2) Flags.none) false,
      congrArg (VOut.done · 0) (State.withMe_congr rfl), deals, fun x isIn => ?_, rfl, rfl, rfl, fun near => by rw [same near]⟩
    · obtain ⟨y, isY, rfl⟩ := List.mem_map.mp isIn
      obtain ⟨p, hp, rfl⟩ := List.mem_map.mp isY
      exact ⟨p, (List.mem_filter.mp hp).1, rfl⟩
end

end Sys2Proof.Machine
end

section
/-!
SUPPORT. Vector loads at their enqueue: the outcomes of their act (06_memory_isa R162, R163, R169).
-/

namespace Sys2Proof.Machine

/-- What a member's one check found. -/
def checkedAt (ps : List Placed) (bad : Option (Elem × Byte × Word)) : Placing := ⟨0, ps, bad, none⟩

/-- A member makes the accesses of these elements. -/
structure Accesses (s : State) (q : Queued) (e : QEntry) (els : List Elem) (rows vl : Nat) (ps : List Placed)
    (bad : Option (Elem × Byte × Word)) : Prop where
  place : q.place (s.withMember q e) e = some (checkedAt ps bad)
  tiled : Tiled rows vl els
  few : rows ≤ 8
  placed : ps.map (·.el) <+: els
  faulty : ∀ b, bad = some b → b.1 ∈ els

section
variable {s : State} {q : Queued} {e : QEntry} {plan : MemPlan} {els : List Elem} {rows vl : Nat} {ps : List Placed}
  {bad : Option (Elem × Byte × Word)}

theorem State.placing_eq (restart : e.restart = 0) (checked : s.checkElems (s.party s.cur) plan els = (ps, bad)) :
    s.placing e plan none els = checkedAt ps bad := by
  unfold State.placing checkedAt
  split
  · next none => cases none
  · rw [checked, restart]
theorem Accesses.of_load (place : ∀ u, s.Alike u → q.place u e = some (s.placing e plan none els)) (restart : e.restart = 0)
    (checked : s.checkElems (s.party s.cur) plan els = (ps, bad)) (tiled : Tiled rows vl els) (few : rows ≤ 8) :
    Accesses s q e els rows vl ps bad := by
  have found := State.checkElems_prefix (s := s) (pt := s.party s.cur) (plan := plan) els
  rw [checked] at found
  exact ⟨(place _ State.alike_withMember).trans (by rw [State.placing_eq restart checked]), tiled, few, found.1, found.2⟩

theorem Accesses.tiledPlaced (a : Accesses s q e els rows vl ps bad) : Tiled rows vl (ps.map (·.el)) :=
  a.tiled.sublist a.placed.sublist

theorem Accesses.row (a : Accesses s q e els rows vl ps bad) {p : Placed} (h : p ∈ ps) : p.el.r < rows :=
  a.tiledPlaced.row _ (List.mem_map_of_mem h)

variable {o : Out} {ty : BitVec 4} (n : Enters o s q e ty vl) (a : Accesses s q e els rows vl ps bad)
include n a

theorem Accesses.now : ({ e with placed := some (checkedAt ps bad) } : QEntry).now = ps :=
  QEntry.now_whole n.restart n.stop rfl a.tiledPlaced a.few n.short
theorem Accesses.comes : ({ e with placed := some (checkedAt ps bad) } : QEntry).comes = bad :=
  QEntry.comes_whole n.restart n.stop rfl fun b h =>
    ⟨(a.tiled.row _ (a.faulty b h)).trans_le a.few, (a.tiled.index _ (a.faulty b h)).trans_le n.short⟩
theorem Accesses.index {p : Placed} (h : p ∈ ps) : p.el.i < vlmaxOf s.me.k ty :=
  (a.tiledPlaced.index _ (List.mem_map_of_mem h)).trans_le n.share
end

/-! ### Rows after a load -/

section
variable {s : State} {q : Queued} {e : QEntry} {els : List Elem} {rows vl : Nat} {ps : List Placed}
  {bad : Option (Elem × Byte × Word)} {o : Out} {ty : BitVec 4} {d : Nat}

/-- What elements put leave in rows depends on the rows alone. -/
theorem v_putElems_congr {k d : Nat} {xs : List (Elem × Nat)} {t u : Hart} (same : t.v = u.v) :
    (putElems k ty d t xs).v = (putElems k ty d u xs).v := by
  induction xs generalizing t u with
  | nil => exact same
  | cons x xs ih =>
    refine ih ?_
    show (Hart.setV _ _ _).v = (Hart.setV _ _ _).v
    rw [Hart.setV, Hart.setV, Hart.vr, Hart.vr, same]

/-- The hart of a load that has run, with the values of its elements in its rows. -/
def State.delivered (s : State) (e : QEntry) (d : Nat) (ps : List Placed) : Hart :=
  putElems s.me.k e.ty d s.me (ps.map fun p => (p.el, (s.loadPlaced s.me e p).1))

theorem Accesses.row_other (a : Accesses s q e els rows vl ps bad) {m : Nat} (low : m < 32) (away : ∀ r, r < rows → m ≠ (d + r) % 32) :
    (s.delivered e d ps).vr m = s.me.vr m := by
  refine vr_putElems fun x isIn => ?_
  obtain ⟨p, hp, rfl⟩ := List.mem_map.mp isIn
  rw [Nat.mod_eq_of_lt low]
  exact away _ (a.row hp)

section
variable (n : Enters o s q e ty vl) (a : Accesses s q e els rows vl ps bad) {b : BitVec 5}
include n a

theorem Accesses.element_delivered {p : Placed} (h : p ∈ ps) :
    (s.delivered e b.toNat ps).element ty b p.el.r p.el.i = (s.loadPlaced s.me e p).1 % 2 ^ typeWidth ty := by
  have order : ((ps.map fun p => (p.el, (s.loadPlaced s.me e p).1)).map (·.1)).Pairwise Elem.before := by
    rw [List.map_map]
    exact a.tiledPlaced.order
  have each (P : Elem → Prop) (all : ∀ p ∈ ps, P p.el) : ∀ x ∈ ps.map fun p => (p.el, (s.loadPlaced s.me e p).1), P x.1 := by
    intro x isIn
    obtain ⟨p, hp, rfl⟩ := List.mem_map.mp isIn
    exact all p hp
  rw [Hart.element, State.delivered, ← n.type]
  exact elem_putElems s.me (each (·.r < 8) fun p hp => (a.row hp).trans_le a.few)
    (each (·.i < vlmaxOf s.me.k e.ty) fun p hp => by rw [n.type]; exact a.index n hp) order
    (x := (p.el, (s.loadPlaced s.me e p).1)) (List.mem_map.mpr ⟨p, h, rfl⟩)
theorem Accesses.element_other {r i : Nat} (row : r < rows) (inside : i < vlmaxOf s.me.k ty)
    (other : ∀ p ∈ ps, p.el.r = r → p.el.i ≠ i) : (s.delivered e b.toNat ps).element ty b r i = s.me.element ty b r i := by
  rw [Hart.element, Hart.element, State.delivered, ← n.type]
  refine elem_putElems_other s.me (by rw [n.type]; exact inside) (row.trans_le a.few) ?_ ?_
  · intro x isIn
    obtain ⟨p, hp, rfl⟩ := List.mem_map.mp isIn
    exact (a.row hp).trans_le a.few
  · intro x isIn
    obtain ⟨p, hp, rfl⟩ := List.mem_map.mp isIn
    exact other p hp
end

/-- The values of a member's elements on the package in which it has been admitted are those before it. -/
theorem Accesses.values (n : Enters o s q e ty vl) (a : Accesses s q e els rows vl ps bad)
    (near : ∀ p ∈ ps, ∀ l ∈ p.locs, s.farDev l.ga = none) :
    (s.entered q e (checkedAt ps bad)).valuesNear { e with placed := some (checkedAt ps bad) } =
      ps.map fun p => (p.el, s.loadPlaced s.me e p) := by
  rw [State.valuesNear, a.now n]
  exact List.map_congr_left fun p hp => by rw [State.alike_entered.loadPlacedWith _ _ _ (near p hp)]
end

/-- A package whose window copies and executing hart differ. -/
theorem State.keepWindows_withMe {s u : State} {win : Nat} {locs : List Loc} {g : Hart → Hart} (is : u = (s.keepWindows win locs).withMe g) :
    u = { s with harts := u.harts, windows := u.windows, fresh := u.fresh } ∧ (∀ k, k ≠ s.cur → u.hart k = s.hart k) ∧
      u.me = g s.me := by
  have windows := State.keepWindows_eq (s := s) win locs
  generalize s.keepWindows win locs = w at is windows
  have mine : w.me = s.me := by rw [windows]; rfl
  have cur : w.cur = s.cur := by rw [windows]
  refine ⟨by rw [is, windows]; rfl, fun k other => ?_, by rw [is, State.me_withMe, mine]⟩
  rw [is, State.hart_withMe_other w _ (by rw [cur]; exact other), windows]
  rfl

/-! ### A member that is done -/

/-- A hart whose member is done, as its act left it: its flags are accrued and its entry is complete. -/
structure DoneBy (s y t : State) (e : QEntry) (fl : Flags) : Prop where
  frame : t = { y with harts := t.harts }
  others : ∀ k, k ≠ s.cur → t.hart k = y.hart k
  me : t.me = { y.me with
    csr := (y.me.accrue fl).csr
    queue := e.behind s ++ [{ e with started := true, done := true }] }

section
variable {s y t : State} {q : Queued} {e : QEntry} {p : Placing} {o : Out} {ty : BitVec 4} {vl : Nat} {fl : Flags}

theorem Enters.done (n : Enters o s q e ty vl) (place : q.place (s.withMember q e) e = some p) (now : p.waits = false)
    (act : q.act (s.entered q e p) { e with placed := some p } = .done y fl) (cur : y.cur = s.cur)
    (queue : y.me.queue = e.behind s ++ [{ e with placed := some p }]) : ∃ t, o = .next t ∧ DoneBy s y t e fl := by
  have settled := n.settles place now
  rw [act, State.settle_done n.class' n.flags queue n.placed] at settled
  exact ⟨_, settled, rfl, fun k other => State.hart_withMe_other y _ (by rw [cur]; exact other), State.me_withMe y _⟩
theorem DoneBy.drained (n : Enters o s q e ty vl) (a : DoneBy s y t e fl) : t.me.drained = true :=
  Hart.drained_append (first := e.first) n.drained (e := { e with started := true, done := true }) rfl (by rw [a.me]; rfl)
theorem DoneBy.csrv (a : DoneBy s y t e fl) (c : Nat) : t.me.csrv c = (y.me.accrue fl).csrv c := by rw [a.me]; rfl
/-- Control registers stay where no flag is raised. -/
theorem Hart.csrv_accrue_zero (t : Hart) (c : Nat) : (t.accrue 0).csrv c = t.csrv c := by
  rw [Hart.csrv_accrue]
  split
  · next is => rw [is]; simp
  · split
    · next is => rw [is]; simp
    · rfl
end

/-! ### The outcomes of a load (R162, R163, R169) -/

section
variable {s : State} {q : Queued} {e : QEntry} {els : List Elem} {rows vl : Nat} {ps : List Placed} {o : Out} {ty : BitVec 4}
  {d : BitVec 5} {ctr : BitVec 3} (n : Enters o s q e ty vl) (act : ∀ u x, q.act u x = u.loadElems x ctr.toNat d.toNat)
  (ready : Ready s ps) (clean : ∀ p ∈ ps, ∀ l ∈ p.locs, s.poisoned l.ga = false)
include n act ready clean

/-- Where an element's check fails, the elements before it are delivered and the load faults there. -/
theorem load_faults {el : Elem} {c : Byte} {v : Word} (a : Accesses s q e els rows vl ps (some (el, c, v))) (ecc : c ≠ 0x18)
    (wait : c ≠ 0xFF) (near : ∀ p ∈ ps, ∀ l ∈ p.locs, s.farDev l.ga = none) :
    FaultsQueued o s e c v (el.r * 2 ^ 13 + el.i) fun t =>
      (∀ p ∈ ps, t.element ty d p.el.r p.el.i = (s.loadPlaced s.me e p).1 % 2 ^ typeWidth ty) ∧
      ∀ r i, r < rows → i < vlmaxOf s.me.k ty → (∀ p ∈ ps, p.el.r = r → p.el.i ≠ i) →
        t.element ty d r i = s.me.element ty d r i := by
  obtain ⟨p, isP⟩ : ∃ p, p = checkedAt ps (some (el, c, v)) := ⟨_, rfl⟩
  have now := a.now n
  have values := a.values n near
  have comes := a.comes n
  rw [← isP] at now values comes
  have alike : s.Alike (s.entered q e p) := State.alike_entered
  have fault := State.loadElems_faults (s := s.entered q e p) (e := { e with placed := some p }) (ctr := ctr.toNat) (d := d.toNat)
    (by rw [now]; exact fun p hp l hl => (congrFun alike.mustWait l.ga).trans (ready p hp l hl))
    (by rw [now]; exact fun p hp l hl => (congrFun alike.poisoned l.ga).trans (clean p hp l hl))
    (by rw [now]; exact fun p hp l hl => (congrFun alike.farDev l.ga).trans (near p hp l hl)) comes ecc
  rw [values, List.map_map, ← act] at fault
  obtain ⟨u, isU⟩ : ∃ u, u = ((s.entered q e p).keepWindows (s.entered q e p).winKey
      (({ e with placed := some p } : QEntry).now.flatMap (·.locs))).withMe fun t =>
    putElems t.k e.ty d.toNat t (ps.map fun p => (p.el, (s.loadPlaced s.me e p).1)) := ⟨_, rfl⟩
  have fault : q.act (s.entered q e p) { e with placed := some p } = .fault u c v (restartOf el.r el.i)
      ((ps.map fun p => (p.el, s.loadPlaced s.me e p)).foldl (fun f x => f ||| x.2.2) Flags.none) := by rw [isU]; exact fault
  obtain ⟨frame, others, me⟩ := State.keepWindows_withMe isU
  have share : (s.entered q e p).me.k = s.me.k := by rw [alike.me]; rfl
  have rowsKept : (s.entered q e p).me.v = s.me.v := by rw [alike.me]
  rw [share] at me
  have rowsPut : u.me.v = (s.delivered e d.toNat ps).v := by rw [me]; exact v_putElems_congr rowsKept
  refine n.faults (a.place.trans (by rw [isP])) ?_ fault frame (fun k other => ?_) (by rw [me]; exact putElems_eq) fun t same => ?_
  · rw [isP, checkedAt, Placing.waits]
    exact decide_eq_false wait
  · exact (others k (by rw [alike.cur]; exact other)).trans (alike.only.2 k other)
  · have rows (r i : Nat) : t.element ty d r i = (s.delivered e d.toNat ps).element ty d r i := by
      rw [Hart.element, Hart.element, Hart.vr, Hart.vr, same, rowsPut]
    refine ⟨fun x hx => ?_, fun r i row inside other => ?_⟩
    · rw [rows]
      exact a.element_delivered n hx
    · rw [rows]
      exact a.element_other n row inside other
/-- A blocking load of elements that no other device holds delivers them and accrues their flags. -/
theorem load_done (a : Accesses s q e els rows vl ps none) (blocking : ctr = 0) (near : ∀ p ∈ ps, ∀ l ∈ p.locs, s.farDev l.ga = none)
    (counter : q.ctr = ctr.toNat) :
    ∃ t, o = .next t ∧ Ran (Windowed s t) t ∧ t.me.x = s.me.x ∧ t.me.m = s.me.m ∧
      t.me.v = (s.delivered e d.toNat ps).v ∧ Accrued s.me t.me fun k => ∃ p ∈ ps, (s.loadPlaced s.me e p).2.getLsbD k = true := by
  obtain ⟨p, isP⟩ : ∃ p, p = checkedAt ps none := ⟨_, rfl⟩
  have now := a.now n
  have values := a.values n near
  have comes := a.comes n
  rw [← isP] at now values comes
  have alike : s.Alike (s.entered q e p) := State.alike_entered
  have zero : ctr.toNat = 0 := by rw [blocking]; rfl
  have done := State.loadElems_done (s := s.entered q e p) (e := { e with placed := some p }) (ctr := ctr.toNat) (d := d.toNat)
    (by rw [now]; exact fun p hp l hl => (congrFun alike.mustWait l.ga).trans (ready p hp l hl))
    (by rw [now]; exact fun p hp l hl => (congrFun alike.poisoned l.ga).trans (clean p hp l hl))
    (by rw [now]; exact fun p hp l hl => (congrFun alike.farDev l.ga).trans (near p hp l hl)) comes zero
  rw [values, List.map_map, ← act] at done
  obtain ⟨fl, isFl⟩ : ∃ fl, fl = (ps.map fun p => (p.el, s.loadPlaced s.me e p)).foldl (fun f x => f ||| x.2.2) Flags.none := ⟨_, rfl⟩
  obtain ⟨u, isU⟩ : ∃ u, u = ((s.entered q e p).keepWindows (s.entered q e p).winKey
      (({ e with placed := some p } : QEntry).now.flatMap (·.locs))).withMe fun t =>
    putElems t.k e.ty d.toNat t (ps.map fun p => (p.el, (s.loadPlaced s.me e p).1)) := ⟨_, rfl⟩
  have done : q.act (s.entered q e p) { e with placed := some p } = .done u fl := by rw [isU, isFl]; exact done
  obtain ⟨frame, others, mine⟩ := State.keepWindows_withMe isU
  have share : (s.entered q e p).me.k = s.me.k := by rw [alike.me]; rfl
  have rowsKept : (s.entered q e p).me.v = s.me.v := by rw [alike.me]
  have counters : (s.entered q e p).me.cc = s.me.cc := by
    rw [State.entered, State.me_withMe, State.withMember, State.me_withMe, State.me_withMe, admitted_of_blocking (counter.trans zero)]
    rfl
  have me : u.me = { (s.entered q e p).me with v := (s.delivered e d.toNat ps).v } := by
    rw [mine, share, putElems_eq, v_putElems_congr rowsKept]
    rfl
  have others (k : Nat) (other : k ≠ s.cur) : u.hart k = s.hart k :=
    (others k (by rw [alike.cur]; exact other)).trans (alike.only.2 k other)
  have frame : u = { s with harts := u.harts, windows := u.windows, fresh := u.fresh } := by
    rw [alike.frame] at frame
    exact frame
  obtain ⟨t, run, after⟩ := n.done (p := p) (a.place.trans (by rw [isP])) (by rw [isP]; rfl) done (by rw [frame])
    (by rw [me, State.me_entered])
  have mine : t.me = { s.me with
      v := (s.delivered e d.toNat ps).v
      csr := (s.me.accrue fl).csr
      pc := s.me.pc + 4
      wait := none
      convoyOpen := true
      queue := e.behind s ++ [{ e with started := true, done := true }] } := by
    rw [after.me, me, State.me_entered, counters]
    rfl
  refine ⟨t, run, ⟨⟨?_, fun k other => (after.others k other).trans (others k other)⟩, after.drained n, ?_⟩, by rw [mine], by rw [mine],
    by rw [mine], ?_⟩
  · rw [after.frame, frame]
    rfl
  · rw [mine]
    rfl
  · refine (accrued_accrue s.me fl _ fun k => ?_).congr fun c => by rw [mine]; rfl
    rw [isFl, getLsbD_foldl_flags fun x : Elem × Nat × Flags => x.2.2]
    simp [Flags.none]
/-- A blocking load that awaits an answer of another device waits in the queue. -/
theorem load_waits (a : Accesses s q e els rows vl ps none) (blocking : ctr = 0)
    (more : (s.gather s.cur 1 ((ps.filter s.awaits).flatMap fun p => locGas p.locs)).2 = false) :
    ∃ t, o = .next t ∧ t.mem = s.mem ∧ (∀ h, h ≠ s.cur → t.hart h = s.hart h) ∧ t.me.pc = s.me.pc + 4 ∧
      t.me.x = s.me.x ∧ t.me.v = s.me.v ∧ t.me.m = s.me.m ∧ CsrsKept s.me t.me [] ∧ t.me.qstalled.isSome = true ∧
      t.me.undone.map (·.word) = [q.word] := by
  obtain ⟨p, isP⟩ : ∃ p, p = checkedAt ps none := ⟨_, rfl⟩
  have now := a.now n
  rw [← isP] at now
  have alike : s.Alike (s.entered q e p) := State.alike_entered
  have zero : ctr.toNat = 0 := by rw [blocking]; rfl
  have asks : s.AsksAlike s.cur (s.entered q e p) := by
    refine ⟨?_, by rw [alike.frame], by rw [alike.frame]; rfl⟩
    have own : (s.entered q e p).hart s.cur = (s.entered q e p).me := by rw [State.me, alike.cur]
    rw [own, alike.me]
    rfl
  obtain ⟨va, waits⟩ := State.loadElems_waits (s := s.entered q e p) (e := { e with placed := some p }) (ctr := ctr.toNat) (d := d.toNat)
    (by rw [now]; exact fun p hp l hl => (congrFun alike.mustWait l.ga).trans (ready p hp l hl))
    (by rw [now]; exact fun p hp l hl => (congrFun alike.poisoned l.ga).trans (clean p hp l hl)) zero
    (by rw [now, alike.awaits, alike.cur, asks.gather alike.farDev]; exact more)
  rw [← act] at waits
  have deals := State.deals_gather (s := s.entered q e p) (h := (s.entered q e p).cur) (own := 1)
    ((({ e with placed := some p } : QEntry).now.filter (s.entered q e p).awaits).flatMap fun p => locGas p.locs)
  have mem := State.mem_gather (s := s.entered q e p) (h := (s.entered q e p).cur) (own := 1)
    ((({ e with placed := some p } : QEntry).now.filter (s.entered q e p).awaits).flatMap fun p => locGas p.locs)
  generalize ((s.entered q e p).gather _ _ _).1 = u at waits deals mem
  have settled := n.settles (p := p) (a.place.trans (by rw [isP])) (by rw [isP]; rfl)
  rw [waits, State.settle] at settled
  have cur : u.cur = s.cur := deals.cur.trans alike.cur
  have own := deals.own
  have mine : u.me = u.hart (s.entered q e p).cur := by rw [State.me, deals.cur]
  rw [← mine] at own
  have me : (u.withMe fun t => { t with qstalled := some va }).me = { u.me with qstalled := some va } := State.me_withMe u _
  rw [own] at me
  have before : (s.entered q e p).hart (s.entered q e p).cur = (s.entered q e p).me := rfl
  rw [before, State.me_entered] at me
  refine ⟨_, settled, mem.trans alike.only.mem, fun h other => ?_, by rw [me], by rw [me], by rw [me], by rw [me],
    fun c _ => by rw [me]; rfl, by rw [me]; rfl, ?_⟩
  · rw [State.hart_withMe_other u _ (by rw [cur]; exact other), deals.others h (by rw [alike.cur]; exact other)]
    exact alike.only.2 h other
  · have drained : (e.behind s).filter (fun x => !x.done) = [] :=
      List.filter_eq_nil_iff.mpr fun x h => by rw [n.behind_done x h]; exact Bool.false_ne_true
    have word : e.word = q.word := by rw [n.is]; rfl
    rw [me, Hart.undone]
    dsimp only
    rw [List.filter_append, drained, List.filter_cons_of_pos (by rw [n.notDone]; rfl)]
    simp [word]
/-- A non-blocking load leaves its elements as they are and its operation outstanding. -/
theorem load_later (a : Accesses s q e els rows vl ps none) (counter : q.ctr = ctr.toNat) (counted : ctr ≠ 0) :
    ∃ t, o = .next t ∧ (∀ h, h ≠ s.cur → t.hart h = s.hart h) ∧ t.me.pc = s.me.pc + 4 ∧
      (ty ≠ 0xE → t.me.v = s.me.v) ∧ (∀ r i, i < vlmaxOf s.me.k ty → t.me.element ty d r i = s.me.element ty d r i) ∧
      (∀ n, n < 32 → (∀ r, r < rows → n ≠ (d.toNat + r) % 32) → t.me.vr n = s.me.vr n) ∧
      t.me.x = s.me.x ∧ t.me.m = s.me.m ∧ CsrsKept s.me t.me [] ∧
      (t.me.ctr ctr.toNat).issued = (s.me.ctr ctr.toNat).issued + 1 ∧
      (t.me.ctr ctr.toNat).retired = (s.me.ctr ctr.toNat).retired ∧ (PlainElems s ps → t.mem = s.mem) ∧
      ∃ op ∈ t.me.nb, op.ctr = ctr.toNat ∧ op.num = (s.me.ctr ctr.toNat).issued + 1 ∧ op.held = false := by
  obtain ⟨p, isP⟩ : ∃ p, p = checkedAt ps none := ⟨_, rfl⟩
  have now := a.now n
  have comes := a.comes n
  rw [← isP] at now comes
  have alike : s.Alike (s.entered q e p) := State.alike_entered
  have nonzero : ctr.toNat ≠ 0 := fun zero => counted (BitVec.eq_of_toNat_eq zero)
  obtain ⟨y, xs, op, later, deals, elems, opCtr, opNum, opHeld, mem⟩ := State.loadElems_later (s := s.entered q e p)
    (e := { e with placed := some p }) (ctr := ctr.toNat) (d := d.toNat)
    (by rw [now]; exact fun p hp l hl => (congrFun alike.mustWait l.ga).trans (ready p hp l hl))
    (by rw [now]; exact fun p hp l hl => (congrFun alike.poisoned l.ga).trans (clean p hp l hl)) comes nonzero
  rw [now] at elems mem
  rw [← act] at later
  obtain ⟨u, isU⟩ : ∃ u, u = y.withMe fun t => (t.clearPads e.ty d.toNat xs).addNb op := ⟨_, rfl⟩
  have later : q.act (s.entered q e p) { e with placed := some p } = .done u 0 := by rw [isU]; exact later
  have cur : y.cur = s.cur := deals.cur.trans alike.cur
  have own := deals.own
  have acting : y.me = y.hart (s.entered q e p).cur := by rw [State.me, deals.cur]
  have before : (s.entered q e p).hart (s.entered q e p).cur = (s.entered q e p).me := rfl
  rw [← acting, before] at own
  have pads := y.me.padsCleared (d := d.toNat) (ty := e.ty) (xs := xs)
  have me : u.me = (y.me.clearPads e.ty d.toNat xs).addNb op := by rw [isU, State.me_withMe]
  have frame : u.me = { y.me with v := u.me.v, nb := u.me.nb, away := u.me.away } := by
    rw [me]
    unfold Hart.addNb
    dsimp only
    generalize y.me.clearPads e.ty d.toNat xs = z at pads
    rw [pads.frame]
  have rowsU : u.me.v = (y.me.clearPads e.ty d.toNat xs).v := by rw [me]; rfl
  have rowsY : y.me.v = s.me.v := by rw [own, alike.me]
  have share : y.me.k = s.me.k := by rw [own, alike.me]; rfl
  have queue : u.me.queue = e.behind s ++ [{ e with placed := some p }] := by rw [frame, own, State.me_entered]
  obtain ⟨t, run, after⟩ := n.done (p := p) (a.place.trans (by rw [isP])) (by rw [isP]; rfl) later
    (by rw [isU, State.cur_withMe, cur]) queue
  have mine := after.me
  have row (m : Nat) : t.me.vr m = (y.me.clearPads e.ty d.toNat xs).vr m := by rw [Hart.vr, Hart.vr, mine, rowsU]
  have rowY (m : Nat) : y.me.vr m = s.me.vr m := by rw [Hart.vr, Hart.vr, rowsY]
  have counts : t.me.ctr ctr.toNat = ⟨e.issue, (s.me.ctr ctr.toNat).retired⟩ := by
    have same : t.me.ctr ctr.toNat = (s.entered q e p).me.ctr ctr.toNat := by
      rw [mine, frame, own]
      rfl
    rw [same, State.ctr_entered, if_pos ⟨counter.symm, by rw [counter]; exact nonzero⟩]
  have issue : e.issue = (s.me.ctr ctr.toNat).issued + 1 := by
    rw [n.is, Queued.capture]
    dsimp only
    rw [counter, if_neg nonzero]
  refine ⟨t, run, fun h other => ?_, by rw [mine, frame, own, State.me_entered], fun other => ?_, fun r i inside => ?_, fun m low away => ?_,
    by rw [mine, frame, own, alike.me], by rw [mine, frame, own, alike.me], fun c _ => ?_, by rw [counts, issue], by rw [counts],
    fun plain => ?_, op, ?_, opCtr, opNum.trans issue, opHeld⟩
  · rw [after.others h other, isU, State.hart_withMe_other y _ (by rw [cur]; exact other),
      deals.others h (by rw [alike.cur]; exact other)]
    exact alike.only.2 h other
  · have same : t.me.v = u.me.v := by rw [mine]
    rw [same, rowsU, Hart.clearPads_plain _ (by rw [n.type]; exact other), rowsY]
  · rw [Hart.element, Hart.element, row, ← rowY, ← n.type]
    exact pads.elems _ _ (by rw [share, n.type]; exact inside)
  · rw [row, ← rowY]
    refine pads.rest m ?_
    rw [Nat.mod_eq_of_lt low]
    rintro ⟨x, isIn, same⟩
    obtain ⟨z, hz, is⟩ := elems x isIn
    exact away _ (a.row hz) (by rw [is]; exact same)
  · have csr : u.me.csr = s.me.csr := by rw [frame, own, alike.me]
    rw [after.csrv, Hart.csrv_accrue_zero, Hart.csrv, Hart.csrv, csr]
  · have same : t.mem = y.mem := by rw [after.frame, isU]; rfl
    rw [same, mem fun z hz l hl => (congrFun alike.farDev l.ga).trans (plain z hz l hl).2]
    exact alike.only.mem
  · have nb : t.me.nb = (y.me.nb.filter fun x => !(decide (x.ctr = op.ctr ∧ x.num = op.num))) ++ [op] := by
      rw [mine, me, Hart.addNb]
      dsimp only
      rw [pads.frame]
    rw [nb]
    simp
end

end Sys2Proof.Machine
end

section
/-!
SUPPORT. Proof of the statement on vector loads (O31): the loads by their forms.
-/

namespace Sys2Proof.Machine

/-! ### The loads (R158, R160, R161) -/

section
variable {s : State} {q : Queued} {e : QEntry} {l : BitVec 2} {ty : BitVec 4} {vl : Nat} {i : Instr}

/-- A queued memory instruction whose own checks pass runs at its enqueue. -/
theorem enters_memory (is : queuedOf i = some q) (scalar : i ≠ .mswap) (below : belowMatrix i = true) (word : q.word = wordOf i)
    (len : q.len = some l) (bound : q.bound = shareBound) (types : q.types ty = true) (rm : q.rm = false)
    (fixes : q.fixes s e = e) (he : e = q.capture s.me s.me.pc) (runs : Runs s (wordOf i)) (length : HasLength s l vl ty)
    (check : q.check s e = none) : Enters (exec i s) s q e ty vl := by
  rw [he] at check
  rw [← word] at runs
  obtain ⟨passes, count, type⟩ := enqueueCheck_none s q l vl ty runs len length bound types (.inl rm) check
  rw [← he] at passes count type
  exact ⟨he, exec_of_queuedOf is scalar s, fixes, passes, runs, by rw [word]; exact classOf_ne_matrix below, type, count, length.2⟩

variable {o : Out} {plan : MemPlan} {els : List Elem} {rows : Nat} {d : BitVec 5} {ctr : BitVec 3}

/-- A member that loads these elements. -/
structure LoadRuns (o : Out) (s : State) (q : Queued) (e : QEntry) (ty : BitVec 4) (vl : Nat) (plan : MemPlan) (els : List Elem)
    (rows : Nat) (d : BitVec 5) (ctr : BitVec 3) : Prop where
  enters : Enters o s q e ty vl
  act : ∀ u x, q.act u x = u.loadElems x ctr.toNat d.toNat
  counter : q.ctr = ctr.toNat
  place : ∀ u, s.Alike u → q.place u e = some (s.placing e plan none els)
  tiled : Tiled rows vl els
  few : rows ≤ 8

theorem LoadRuns.of_memLoad {f : VMemOps} {form : QEntry → Nat → Nat → MemForm} {w : IWord} (is : q = memLoad f w form)
    (n : Enters o s q e ty vl) (elems : s.memElems e f (form e) false = (plan, none, els)) :
    LoadRuns o s q e ty vl plan els (2 ^ f.g.toNat) f.d f.ctr := by
  subst is
  have tiled := State.tiled_memElems elems
  rw [n.count] at tiled
  refine ⟨n, fun _ _ => rfl, rfl, fun u alike => ?_, tiled, ?_⟩
  · show some (u.placing e (u.memElems e f (form e) false).1 (u.memElems e f (form e) false).2.1
      (u.memElems e f (form e) false).2.2) = _
    rw [alike.memElems, elems, alike.placing]
  · exact (Nat.pow_le_pow_right (by decide) (Nat.le_of_lt_succ f.g.isLt) : 2 ^ f.g.toNat ≤ 2 ^ 3)
theorem LoadRuns.of_idxLoad {f : VIdxOps} {w : IWord} (is : q = idxLoad f w) (n : Enters o s q e ty vl)
    (isPlan : plan = ⟨.rd, false, none, ty, none, false, none⟩) (elems : els = s.idxElems e f.m f.b) :
    LoadRuns o s q e ty vl plan els 1 f.d f.ctr := by
  subst is isPlan elems
  have tiled := s.tiled_idxElems e f.m f.b
  rw [n.count] at tiled
  refine ⟨n, fun _ _ => rfl, rfl, fun u alike => ?_, tiled, by decide⟩
  show some (u.placing e ⟨.rd, false, none, e.ty, none, false, none⟩ none (u.idxElems e f.m f.b)) = _
  rw [n.type, alike.idxElems, alike.placing]

/-- Every vector load loads the elements that its form gives it. -/
theorem loads_of_form {w : IWord}
    (form : (∃ f : VMemOps, d = f.d ∧ l = f.l ∧ ctr = f.ctr ∧ rows = 2 ^ f.g.toNat ∧ (∃ form : QEntry → Nat → Nat → MemForm,
        s.memElems e f (form e) false = (plan, none, els) ∧
        ((form = (fun e _ => unitForm e) ∧ w = wordOf (.vlu f) ∧ o = exec (.vlu f) s ∧ q = vluQueued f) ∨
          (form = (fun e _ => strideForm e) ∧ w = wordOf (.vls f) ∧ o = exec (.vls f) s ∧ q = vlsQueued f) ∨
          (form = spreadForm ∧ w = wordOf (.vld f) ∧ o = exec (.vld f) s ∧ q = vldQueued f)))) ∨
      (∃ f : VIdxOps, d = f.d ∧ l = f.l ∧ ctr = f.ctr ∧ rows = 1 ∧ w = wordOf (.vlx f) ∧ o = exec (.vlx f) s ∧
        q = vlxQueued f ∧ offsetCheck w f.b [f.d.toNat] s e = none ∧ plan = ⟨.rd, false, none, ty, none, false, none⟩ ∧
        els = s.idxElems e f.m f.b)) (he : e = q.capture s.me s.me.pc) (runs : Runs s w) (length : HasLength s l vl ty) :
    LoadRuns o s q e ty vl plan els rows d ctr ∧ q.word = w := by
  obtain ⟨f, rfl, rfl, rfl, rfl, form, elems, ⟨rfl, rfl, rfl, rfl⟩ | ⟨rfl, rfl, rfl, rfl⟩ | ⟨rfl, rfl, rfl, rfl⟩⟩ |
    ⟨f, rfl, rfl, rfl, rfl, rfl, rfl, rfl, check, isPlan, elems⟩ := form
  · exact ⟨.of_memLoad rfl (enters_memory (i := .vlu f) rfl nofun rfl rfl rfl rfl rfl rfl rfl he runs length rfl) elems, rfl⟩
  · exact ⟨.of_memLoad rfl (enters_memory (i := .vls f) rfl nofun rfl rfl rfl rfl rfl rfl rfl he runs length rfl) elems, rfl⟩
  · exact ⟨.of_memLoad rfl (enters_memory (i := .vld f) rfl nofun rfl rfl rfl rfl rfl rfl rfl he runs length rfl) elems, rfl⟩
  · exact ⟨.of_idxLoad rfl (enters_memory (i := .vlx f) rfl nofun rfl rfl rfl rfl rfl rfl rfl he runs length check) isPlan elems, rfl⟩
end

/-! ### The rules that an element breaks -/

/-- A check that fails as its rules say fails as the statement lists them. -/
theorem State.checkElem_rules {s : State} {pt : Party} {p : MemPlan} {el : Elem} {c : Byte} {v : Word}
    (fails : s.checkElem pt p el = .error (c, v)) (ecc : c ≠ 0x18) (wait : c ≠ 0xFF) :
    (c = 0x08 ∧ ∀ pg, s.pageOf pt v = some pg → 1 ≤ pg.fmt.toNat ∧ pg.fmt.toNat ≤ 7) ∨
    (c = 0x06 ∧ v = BitVec.ofNat 64 (el.bit / 8) ∧
      (p.badBit = true ∨ ∃ a noHost, p.atomic = some (a, noHost) ∧ v.toNat % a ≠ 0)) ∨
    ∃ (pg first : Page) (ga : Nat), s.pageOf pt v = some pg ∧ ga = (s.placeByte pt p el.r pg v).ga ∧
      s.pageOf pt (BitVec.ofNat 64 (el.bit / 8)) = some first ∧ c ≠ 0x08 ∧ s.FaultsAs pt p first pg ga c := by
  obtain ⟨none, is⟩ | align | ⟨first, pg, isFirst, isPg, why⟩ := State.checkElem_cause fails ecc wait
  · exact .inl ⟨is, fun pg some => by rw [none] at some; cases some⟩
  · exact .inr (.inl align)
  · by_cases page : c = 0x08
    · refine .inl ⟨page, fun pg' some => ?_⟩
      rw [isPg] at some
      cases some
      subst page
      obtain ⟨-, range⟩ | ⟨no, -⟩ | ⟨no, -⟩ | ⟨no, -⟩ | ⟨no, -⟩ | ⟨no, -⟩ := why
      · exact range
      all_goals exact absurd no (by decide)
    · exact .inr (.inr ⟨pg, first, _, isPg, rfl, isFirst, page, why⟩)

end Sys2Proof.Machine

open Sys2Proof Sys2Proof.Machine

/-- Settles O31: a load's one check says what it delivers and where it faults; what other devices hold comes with their answers. -/
theorem vectorLoadsDeliverTheirElements : Obligations.VectorLoadsDeliverTheirElements := by
  unfold Obligations.VectorLoadsDeliverTheirElements
  refine ⟨fun s pt p el c v fails ecc wait => ?check, ?load⟩
  case check =>
    obtain page | align | ⟨pg, first, ga, isPg, isGa, isFirst, notPage, why⟩ := State.checkElem_rules fails ecc wait
    · exact .inl page
    · exact .inr (.inl align)
    · refine .inr (.inr ⟨pg, ga, isPg, isGa, ?_⟩)
      obtain ⟨page, -⟩ | perm | world | partition | down | ⟨mixed, attr⟩ := why
      · exact absurd page notPage
      · exact .inl perm
      · exact .inr (.inl world)
      · exact .inr (.inr (.inl partition))
      · exact .inr (.inr (.inr (.inl down)))
      · exact .inr (.inr (.inr (.inr ⟨mixed, first, isFirst, attr⟩)))
  case load =>
    intro s vl ty w o q plan els ps rows d l ctr e form he runs length ready clean
    obtain ⟨m, word⟩ := loads_of_form form he runs length
    have n := m.enters
    have accesses {bad} (checked : s.checkElems (s.party s.cur) plan els = (ps, bad)) : Accesses s q e els rows vl ps bad :=
      .of_load m.place n.restart checked m.tiled m.few
    refine ⟨fun el c v checked ecc wait plain => ?faults, fun checked => ⟨fun blocking plain => ?done, fun blocking more => ?waits,
      fun counted => ?later⟩⟩
    case faults => exact load_faults n m.act ready clean (accesses checked) ecc wait fun p hp l hl => (plain p hp l hl).2
    case done =>
      have a := accesses checked
      obtain ⟨t, run, ran, x, masks, v, accrued⟩ := load_done n m.act ready clean a blocking (fun p hp l hl => (plain p hp l hl).2) m.counter
      have row (r : Nat) : t.me.vr r = (s.delivered e d.toNat ps).vr r := congrArg (fun x => Sparse.get 0 x (r % 32)) v
      have element (r i : Nat) : t.me.element ty d r i = (s.delivered e d.toNat ps).element ty d r i := by
        rw [Hart.element, row]
        rfl
      refine ⟨t, run, ran, x, masks, fun p hp => ?_, fun r i low inside other => ?_, fun m low away => ?_, accrued⟩
      · rw [element]
        exact a.element_delivered n hp
      · rw [element]
        exact a.element_other n low inside other
      · rw [row]
        exact a.row_other low away
    case waits =>
      rw [← word]
      exact load_waits n m.act ready clean (accesses checked) blocking more
    case later => exact load_later n m.act ready clean (accesses checked) m.counter counted
end

section
/-!
SUPPORT. What a vector store sends, and in which order it writes (06_memory_isa R163, R165, R172, R177).
-/

namespace Sys2Proof.Machine

/-! ### The groups of a store in their order -/

/-- Elements taken key by key, where those of one key stand together, are the elements as they stand. -/
theorem flatMap_dedup_filter {α κ : Type} [DecidableEq κ] {le : κ → κ → Prop} (antisymm : ∀ a b, le a b → le b a → a = b) (key : α → κ)
    (l : List α) (sorted : (l.map key).Pairwise le) : (l.map key).dedup.flatMap (fun k => l.filter fun x => key x = k) = l := by
  induction l with
  | nil => rfl
  | cons a l ih =>
    rw [List.map_cons, List.pairwise_cons] at sorted
    obtain ⟨least, sorted⟩ := sorted
    have rest := ih sorted
    have skip (ks : List κ) (none : key a ∉ ks) : ks.flatMap (fun k => (a :: l).filter fun x => key x = k) =
        ks.flatMap fun k => l.filter fun x => key x = k := by
      refine List.flatMap_congr fun k isIn => ?_
      refine List.filter_cons_of_neg fun same => none ?_
      rw [of_decide_eq_true same]
      exact isIn
    rw [List.map_cons]
    by_cases again : key a ∈ l.map key
    · rw [List.dedup_cons_of_mem again]
      cases head : (l.map key).dedup with
      | nil =>
        have isIn := List.mem_dedup.mpr again
        rw [head] at isIn
        cases isIn
      | cons k ks =>
        have isIn := List.mem_dedup.mpr again
        have order := sorted.sublist (List.dedup_sublist _)
        have nodup := List.nodup_dedup (l.map key)
        rw [head] at isIn order nodup
        have first : k = key a := by
          refine antisymm _ _ ?_ (least k (List.mem_dedup.mp (by rw [head]; exact List.mem_cons_self)))
          obtain is | later := List.mem_cons.mp isIn
          · rw [is]
            exact least (key a) again |> fun h => is ▸ h
          · exact (List.pairwise_cons.mp order).1 _ later
        rw [head, List.flatMap_cons, first] at rest
        rw [List.flatMap_cons, first, skip ks (first ▸ (List.nodup_cons.mp nodup).1), List.filter_cons_of_pos (by simp), List.cons_append, rest]
    · rw [List.dedup_cons_of_notMem again, List.flatMap_cons, skip _ fun h => again (List.mem_dedup.mp h), rest,
        List.filter_cons_of_pos (by simp)]
      have none : (l.filter fun x => key x = key a) = [] := List.filter_eq_nil_iff.mpr fun x isIn => by
        simpa using fun same => again (List.mem_map.mpr ⟨x, isIn, same⟩)
      rw [none]
      rfl

/-- Bytes merged are at addresses of the bytes. -/
theorem addr_mergeBytes {bs : List PendByte} {b : PendByte} (isIn : b ∈ mergeBytes bs) : b.addr ∈ bs.map (·.addr) := by
  have each (l : List PendByte) : ∀ acc : List PendByte, ∀ b ∈ l.foldl (fun l b =>
      match l.find? fun x => x.addr = b.addr with
      | none => l ++ [b]
      | some _ => l.map fun x => if x.addr = b.addr then ⟨x.addr, (x.val &&& ~~~ b.msk) ||| (b.val &&& b.msk), x.msk ||| b.msk⟩
          else x) acc, b.addr ∈ acc.map (·.addr) ∨ b.addr ∈ l.map (·.addr) := by
    induction l with
    | nil => exact fun acc b h => .inl (List.mem_map_of_mem h)
    | cons a l ih =>
      intro acc b h
      obtain old | new := ih _ b h
      · dsimp only at old
        split at old
        · rw [List.map_append, List.mem_append] at old
          obtain old | first := old
          · exact .inl old
          · exact .inr (by simpa using .inl (List.mem_singleton.mp first))
        · rw [List.map_map] at old
          refine .inl ?_
          obtain ⟨x, isX, is⟩ := List.mem_map.mp old
          refine List.mem_map.mpr ⟨x, isX, ?_⟩
          rw [← is, Function.comp]
          split <;> rfl
      · exact .inr (List.mem_cons_of_mem _ new)
  obtain none | there := each bs [] b isIn
  · cases none
  · exact there

/-! ### The records of a store (18_fabric R336) -/

theorem mem_insertBy {before : Nat → Nat → Bool} {a x : Nat} {l : List Nat} (h : x ∈ insertBy before a l) : x = a ∨ x ∈ l := by
  induction l with
  | nil => exact .inl (List.mem_singleton.mp h)
  | cons b l ih =>
    unfold insertBy at h
    split at h
    · exact List.mem_cons.mp h
    · obtain is | later := List.mem_cons.mp h
      · exact .inr (is ▸ List.mem_cons_self)
      · exact (ih later).imp_right (List.mem_cons_of_mem _)
/-- An address put before spans in rising order. -/
def spanStep (a : Nat) (l : List (Nat × Nat)) : List (Nat × Nat) :=
  match l with
  | (b, n) :: t =>
    if a = b then l
    else if a / 2 ^ 42 = b / 2 ^ 42 ∧ ((b = a + 1 ∧ n < 256) ∨ b + n ≤ a + 128) then (a, b + n - a) :: t
    else (a, 1) :: l
  | [] => [(a, 1)]
theorem spans_eq (gas : List Nat) : spans gas = (gas.foldl (fun l a => insertBy (· < ·) a l) []).foldr spanStep [] := rfl
/-- A span stays on one page of 2^42. -/
def OnePage (x : Nat × Nat) : Prop := ∀ k, k < x.2 → (x.1 + k) / 2 ^ 42 = x.1 / 2 ^ 42
theorem mem_spanStep {a : Nat} {l : List (Nat × Nat)} (paged : ∀ x ∈ l, OnePage x) {x : Nat × Nat} (h : x ∈ spanStep a l) :
    (x.1 = a ∨ x ∈ l) ∧ OnePage x := by
  have one : OnePage (a, 1) := fun k low => by rw [Nat.lt_one_iff.mp low]; rfl
  unfold spanStep at h
  split at h
  · next b n t =>
    split at h
    · exact ⟨.inr h, paged x h⟩
    · split at h
      · next joined =>
        obtain rfl | later := List.mem_cons.mp h
        · refine ⟨.inl rfl, fun k low => ?_⟩
          dsimp only at low ⊢
          by_cases below : a + k < b
          · omega
          · have page := paged (b, n) List.mem_cons_self (a + k - b) (by dsimp only; omega)
            rw [show b + (a + k - b) = a + k by omega] at page
            exact page.trans joined.1.symm
        · exact ⟨.inr (List.mem_cons_of_mem _ later), paged x (List.mem_cons_of_mem _ later)⟩
      · obtain rfl | later := List.mem_cons.mp h
        · exact ⟨.inl rfl, one⟩
        · exact ⟨.inr later, paged x later⟩
  · rw [List.mem_singleton.mp h]
    exact ⟨.inl rfl, one⟩
/-- A span begins at one of its addresses. -/
theorem mem_spans {gas : List Nat} {x : Nat × Nat} (h : x ∈ spans gas) : x.1 ∈ gas ∧ OnePage x := by
  have sorted (l : List Nat) : ∀ acc : List Nat, ∀ a ∈ l.foldl (fun l a => insertBy (· < ·) a l) acc, a ∈ acc ∨ a ∈ l := by
    induction l with
    | nil => exact fun acc a h => .inl h
    | cons b l ih =>
      intro acc a h
      obtain old | new := ih _ a h
      · obtain is | old := mem_insertBy old
        · exact .inr (is ▸ List.mem_cons_self)
        · exact .inl old
      · exact .inr (List.mem_cons_of_mem _ new)
  have each (l : List Nat) : ∀ x ∈ l.foldr spanStep [], x.1 ∈ l ∧ OnePage x := by
    induction l with
    | nil => exact nofun
    | cons a l ih =>
      intro x h
      obtain ⟨first | old, page⟩ := mem_spanStep (fun x h => (ih x h).2) h
      · exact ⟨first ▸ List.mem_cons_self, page⟩
      · exact ⟨List.mem_cons_of_mem _ (ih x old).1, page⟩
  obtain ⟨isIn, page⟩ := each _ x h
  exact ⟨(sorted gas [] x.1 isIn).elim nofun id, page⟩
/-- A record of a store goes to a device of one of its bytes. -/
theorem chip_cutSpan {bs : List PendByte} {x y : Nat × Nat} (page : OnePage x)
    (h : y ∈ cutSpan bs x) : gaChip y.1 = gaChip x.1 := by
  have chip (a : Nat) : gaChip a = a / 2 ^ 42 / 2 ^ 7 % 2 ^ 14 := by rw [gaChip, Nat.div_div_eq_div_mul, ← pow_add]
  unfold cutSpan at h
  split at h
  · rw [List.mem_singleton.mp h]
  · next long =>
    have more : 128 < x.2 := by
      by_contra short
      exact long (by simp [spanFits, Nat.not_lt.mp short])
    obtain is | is : y = (x.1, 128) ∨ y = (x.1 + 128, x.2 - 128) := by simpa using h
    · rw [is]
    · rw [is, chip, chip, page 128 more]

/-! ### What sending leaves of a package -/

/-- Of the package's harts one has sent records, and no connection has failed. -/
structure State.Dispatched (h : Nat) (s t : State) : Prop where
  wrote : s.Wrote h t
  failed : t.peerFailed = s.peerFailed

section
variable {h : Nat} {s t u : State}

theorem State.Dispatched.refl (h : Nat) (s : State) : s.Dispatched h s := ⟨⟨rfl, rfl, fun _ _ => rfl⟩, rfl⟩
theorem State.Dispatched.trans (a : s.Dispatched h t) (b : t.Dispatched h u) : s.Dispatched h u :=
  ⟨a.wrote.trans b.wrote, b.failed.trans a.failed⟩
theorem State.Dispatched.farDev (a : s.Dispatched h t) : t.farDev = s.farDev := by rw [a.wrote.frame]; rfl
theorem State.dispatched_setHart {x : Hart} (own : x = { s.hart h with unsealed := x.unsealed, tracked := x.tracked }) :
    s.Dispatched h (s.setHart h x) := ⟨State.wrote_setHart own, rfl⟩
theorem State.dispatched_pump : s.Dispatched h (s.pump h) := ⟨State.wrote_pump, State.peerFailed_pumpFrom (s := s)⟩
theorem State.dispatched_countLocal (gas : List Nat) : s.Dispatched h (s.countLocal h gas) := by
  have each (l : List Nat) : ∀ s : State, s.Dispatched h (l.foldl (fun (s : State) d => s.setHart h ((s.hart h).countSent d)) s) := by
    induction l with
    | nil => exact fun s => .refl h s
    | cons d l ih => exact fun s => (State.dispatched_setHart rfl).trans (ih _)
  exact each _ s
/-- Bytes for devices that answer are sent. -/
theorem State.dispatched_sendFar {ord trk : Bool} {bs : List PendByte}
    (up : ∀ b ∈ bs, (s.farDev b.addr).isSome = true → s.peerFailed (gaChip b.addr) = false) :
    s.Dispatched h (s.sendFar h ord trk bs).1 := by
  obtain ⟨far, isFar⟩ : ∃ far, far = bs.filter fun b => (s.farDev b.addr).isSome := ⟨_, rfl⟩
  have runs : ∀ x ∈ (spans (far.map (·.addr))).flatMap (cutSpan far), s.peerFailed (gaChip x.1) = false := by
    intro y h
    obtain ⟨x, isX, isY⟩ := List.mem_flatMap.mp h
    obtain ⟨first, page⟩ := mem_spans isX
    rw [chip_cutSpan page isY]
    obtain ⟨b, isB, is⟩ := List.mem_map.mp first
    rw [isFar] at isB
    obtain ⟨isB, far⟩ := List.mem_filter.mp isB
    rw [← is]
    exact up b isB far
  have each (l : List (Nat × Nat)) : ∀ o : State × List (Nat × BitVec 32), (∀ x ∈ l, o.1.peerFailed (gaChip x.1) = false) →
      o.1.Dispatched h (l.foldl (fun (o : State × List (Nat × BitVec 32)) x =>
        let s := o.1
        let c := gaChip x.1
        let mine := (gaRange x.1 x.2).map fun a => (far.find? fun b => b.addr = a).getD ⟨a, 0, 0⟩
        let vals := mine.map (·.val)
        let msks := mine.map (·.msk)
        if s.peerFailed c then (s.peerLost h c, o.2)
        else
          let r := s.newTag
          let rcd := if msks.all (· = 0xFF) then s.hartRecord h 0x02 x.1 x.2 true r.2 vals
            else s.hartRecord h 0x03 x.1 (2 * x.2) true r.2 (vals ++ msks)
          let s := r.1.setHart h ((r.1.hart h).countSent (16 + c))
          (if trk then s.sendTracked h c ord rcd else s.sendLoose h c ord rcd,
            o.2 ++ [(c, r.2)])) o).1 := by
    induction l with
    | nil => exact fun o _ => .refl h o.1
    | cons x l ih =>
      intro o up
      rw [List.foldl_cons]
      dsimp only
      rw [if_neg (by rw [up x List.mem_cons_self]; exact Bool.false_ne_true)]
      have tag : o.1.Dispatched h o.1.newTag.1 := ⟨⟨rfl, rfl, fun _ _ => rfl⟩, rfl⟩
      have counted := tag.trans (State.dispatched_setHart (h := h) (x := (o.1.newTag.1.hart h).countSent (16 + gaChip x.1)) rfl)
      generalize o.1.newTag.1.setHart h _ = v at counted
      have sent (rcd : Record) : o.1.Dispatched h (if trk = true then v.sendTracked h (gaChip x.1) ord rcd
          else v.sendLoose h (gaChip x.1) ord rcd) := by
        refine counted.trans ?_
        split
        · exact (State.dispatched_setHart rfl).trans State.dispatched_pump
        · exact (State.dispatched_setHart rfl).trans State.dispatched_pump
      exact (sent _).trans (ih (_, _) fun y later => (congrFun (sent _).failed _).trans (up y (List.mem_cons_of_mem _ later)))
  have all := each _ (s, []) runs
  rw [State.sendFar, ← isFar]
  exact all
theorem State.sendFar_near {ord trk : Bool} {bs : List PendByte} (near : ∀ b ∈ bs, s.farDev b.addr = none) :
    s.sendFar h ord trk bs = (s, []) := by
  have none : (bs.filter fun b => (s.farDev b.addr).isSome) = [] := List.filter_eq_nil_iff.mpr fun b isIn => by
    rw [near b isIn]
    exact Bool.false_ne_true
  rw [State.sendFar, none]
  rfl
end

end Sys2Proof.Machine
end

section
/-!
SUPPORT. A vector store's act (06_memory_isa R163, R165, R169, R172; 21_service R377).
-/

namespace Sys2Proof.Machine

/-! ### What a store leaves of a package -/

/-- Of the package's harts one has performed and sent stores: the waits of the others have seen writes. -/
structure State.Stows (h : Nat) (s t : State) : Prop where
  cur : t.cur = s.cur
  canon : t.canon = s.canon
  others : ∀ k, k ≠ h → t.hart k = { s.hart k with wait := (t.hart k).wait }
  own : t.hart h = { s.hart h with
    wait := (t.hart h).wait
    nb := (t.hart h).nb
    unsealed := (t.hart h).unsealed
    tracked := (t.hart h).tracked }

section
variable {h : Nat} {s t u : State}

theorem State.Stows.refl (h : Nat) (s : State) : s.Stows h s := ⟨rfl, rfl, fun _ _ => rfl, rfl⟩
theorem State.Stows.trans (a : s.Stows h t) (b : t.Stows h u) : s.Stows h u where
  cur := b.cur.trans a.cur
  canon := b.canon.trans a.canon
  others k n := by rw [b.others k n, a.others k n]
  own := by rw [b.own, a.own]
theorem State.Performs.stows (p : s.Performs t) (h : Nat) : s.Stows h t where
  cur := p.cur
  canon := by rw [p.frame]; rfl
  others k _ := p.hart k
  own := by rw [p.hart h]
theorem State.Wrote.stows (w : s.Wrote h t) : s.Stows h t where
  cur := by rw [w.frame]
  canon := by rw [w.frame]; rfl
  others k n := by rw [w.others k n]
  own := by rw [w.own]
theorem State.stows_performOrdered (p : NbOp → Bool) : s.Stows h (s.performOrdered h p) := by
  unfold State.performOrdered
  dsimp only
  obtain ⟨w, isW⟩ : ∃ w, w = s.performBytes ((((s.hart h).nb.takeWhile fun o => !p o).filter fun o => o.ord).flatMap (·.bytes)) := ⟨_, rfl⟩
  have performed := (s.performs_performBytes ((((s.hart h).nb.takeWhile fun o => !p o).filter fun o => o.ord).flatMap (·.bytes))).stows h
  rw [← isW] at performed ⊢
  refine performed.trans ⟨rfl, rfl, fun k n => ?_, ?_⟩
  · rw [State.hart_setHart, if_neg n]
  · rw [State.hart_setHart_same]
/-- What the ordered stores of a hart write is the same from packages that agree on memory and on its operations. -/
theorem State.mem_performOrdered_congr {k : Nat} (mem : s.mem = t.mem) (canon : s.canon = t.canon) (nb : (s.hart h).nb = (t.hart k).nb)
    (p : NbOp → Bool) : (s.performOrdered h p).mem = (t.performOrdered k p).mem := by
  have ordered (s : State) (h : Nat) : (s.performOrdered h p).mem =
      (s.performBytes ((((s.hart h).nb.takeWhile fun o => !p o).filter fun o => o.ord).flatMap (·.bytes))).mem := rfl
  rw [ordered, ordered, nb, t.mem_performBytes]
  exact State.mem_performFrom _ s t [] mem canon
theorem State.performOrdered_frame (p : NbOp → Bool) : s.performOrdered h p =
    { s with mem := (s.performOrdered h p).mem, harts := (s.performOrdered h p).harts } :=
  (State.landed_performOrdered h s p).frame
theorem State.readByte_performBytes_other {l : List PendByte} {a : Nat} (apart : ∀ b ∈ l, s.canon b.addr ≠ s.canon a) :
    (s.performBytes l).readByte a = s.readByte a := by
  have canon : (s.performBytes l).canon = s.canon := ((s.performs_performBytes l).stows 0).canon
  have each (l : List PendByte) : ∀ s : State, (∀ b ∈ l, s.canon b.addr ≠ s.canon a) → (l.foldl State.performByte s).readByte a = s.readByte a := by
    induction l with
    | nil => exact fun _ _ => rfl
    | cons b l ih =>
      intro s apart
      rw [List.foldl_cons, ih (s.performByte b) fun x h => apart x (List.mem_cons_of_mem _ h), State.performByte, State.readByte_writeByte,
        if_neg fun same => apart b List.mem_cons_self same.symm]
  have folded : (l.foldl State.performByte s).canon = s.canon := by
    clear apart canon
    induction l generalizing s with
    | nil => rfl
    | cons b l ih => exact ih
  rw [State.readByte_of_same (s.mem_performBytes l) (canon.trans folded.symm), each l s apart]
end

/-! ### A store's elements sent group by group (R165, R177) -/

/-- The row and the element group of an element. -/
def groupKey (w : Nat) (el : Elem) : Nat × Nat := (el.r, el.i * w / 512)
def groupLe (a b : Nat × Nat) : Prop := a.1 < b.1 ∨ (a.1 = b.1 ∧ a.2 ≤ b.2)
theorem groupLe_antisymm (a b : Nat × Nat) (h : groupLe a b) (k : groupLe b a) : a = b := by
  unfold groupLe at h k
  exact Prod.ext (by omega) (by omega)
theorem Tiled.keys {rows vl : Nat} {els : List Elem} (t : Tiled rows vl els) (w : Nat) : (els.map (groupKey w)).Pairwise groupLe :=
  List.pairwise_map.mpr (t.order.imp fun before => before.imp id fun h =>
    ⟨h.1, Nat.div_le_div_right (Nat.mul_le_mul_right w (Nat.le_of_lt h.2))⟩)

section
variable {s : State} {ord trk : Bool} {w : Nat} {l : List (Placed × List PendByte)}

/-- The bytes of one group. -/
def groupBytes (w : Nat) (l : List (Placed × List PendByte)) (k : Nat × Nat) : List PendByte :=
  (l.filter fun x => groupKey w x.1.el = k).flatMap (·.2)
/-- One group of a store sent, behind those before it. -/
def sendKey (ord trk : Bool) (w : Nat) (l : List (Placed × List PendByte)) (o : State × List PendByte × List (Nat × BitVec 32)) (k : Nat × Nat) :
    State × List PendByte × List (Nat × BitVec 32) :=
  let bs := groupBytes w l k
  let far := mergeBytes (bs.filter fun b => (o.1.farDev b.addr).isSome)
  let r := o.1.sendGroup ord trk ((bs.filter fun b => (o.1.farDev b.addr).isNone) ++ far)
  (r.1, o.2.1 ++ r.2.1, o.2.2 ++ r.2.2)
theorem State.sendElems_eq : s.sendElems ord trk w l = ((l.map fun x => groupKey w x.1.el).dedup).foldl (sendKey ord trk w l) (s, [], []) := rfl

/-- What a group comes to: its bytes that are homed here are left to be performed. -/
theorem sendKey_spec (o : State × List PendByte × List (Nat × BitVec 32)) (k : Nat × Nat)
    (up : ∀ x ∈ l, ∀ b ∈ x.2, (o.1.farDev b.addr).isSome = true → o.1.peerFailed (gaChip b.addr) = false) :
    o.1.Dispatched o.1.cur (sendKey ord trk w l o k).1 ∧
      (sendKey ord trk w l o k).2.1 = o.2.1 ++ (groupBytes w l k).filter (fun b => (o.1.farDev b.addr).isNone) ∧
      ((∀ x ∈ l, ∀ b ∈ x.2, o.1.farDev b.addr = none) →
        (sendKey ord trk w l o k).1 = { o.1 with harts := (sendKey ord trk w l o k).1.harts }) := by
  have member {b : PendByte} (isIn : b ∈ groupBytes w l k) : ∃ x ∈ l, b ∈ x.2 := by
    obtain ⟨x, isX, isB⟩ := List.mem_flatMap.mp isIn
    exact ⟨x, (List.mem_filter.mp isX).1, isB⟩
  have farOnly : ∀ b ∈ mergeBytes ((groupBytes w l k).filter fun b => (o.1.farDev b.addr).isSome),
      ∃ c ∈ groupBytes w l k, c.addr = b.addr ∧ (o.1.farDev b.addr).isSome = true := by
    intro b isIn
    obtain ⟨c, isC, is⟩ := List.mem_map.mp (addr_mergeBytes isIn)
    obtain ⟨isC, far⟩ := List.mem_filter.mp isC
    exact ⟨c, isC, is, is ▸ far⟩
  obtain ⟨bs, isBs⟩ : ∃ bs, bs = (groupBytes w l k).filter (fun b => (o.1.farDev b.addr).isNone) ++
    mergeBytes ((groupBytes w l k).filter fun b => (o.1.farDev b.addr).isSome) := ⟨_, rfl⟩
  have near : bs.filter (fun b => (o.1.farDev b.addr).isNone) = (groupBytes w l k).filter fun b => (o.1.farDev b.addr).isNone := by
    have none : (mergeBytes ((groupBytes w l k).filter fun b => (o.1.farDev b.addr).isSome)).filter
        (fun b => (o.1.farDev b.addr).isNone) = [] := List.filter_eq_nil_iff.mpr fun b isIn => by
      obtain ⟨_, _, _, far⟩ := farOnly b isIn
      rw [Option.isNone_eq_false_iff.mpr far]
      exact Bool.false_ne_true
    rw [isBs, List.filter_append, List.filter_filter, none, List.append_nil]
    simp
  have counted := State.dispatched_countLocal (s := o.1) (h := o.1.cur)
    ((bs.filter fun b => (o.1.farDev b.addr).isNone).map (·.addr))
  have stays := State.counted_countLocal (s := o.1) (h := o.1.cur) ((bs.filter fun b => (o.1.farDev b.addr).isNone).map (·.addr))
  have key : sendKey ord trk w l o k = ((o.1.sendGroup ord trk bs).1, o.2.1 ++ (o.1.sendGroup ord trk bs).2.1,
      o.2.2 ++ (o.1.sendGroup ord trk bs).2.2) := by rw [isBs]; rfl
  have group : (o.1.sendGroup ord trk bs).1 = ((o.1.countLocal o.1.cur ((bs.filter fun b =>
      (o.1.farDev b.addr).isNone).map (·.addr))).sendFar o.1.cur ord trk bs).1 := rfl
  have left : (o.1.sendGroup ord trk bs).2.1 = bs.filter fun b => (o.1.farDev b.addr).isNone := rfl
  rw [key, left, near, group]
  refine ⟨counted.trans (State.dispatched_sendFar fun b isIn far => ?_), rfl, fun home => ?_⟩
  · rw [counted.farDev] at far
    rw [counted.failed]
    rw [isBs] at isIn
    obtain here | there := List.mem_append.mp isIn
    · obtain ⟨isIn, none⟩ := List.mem_filter.mp here
      rw [Option.isNone_eq_false_iff.mpr far] at none
      cases none
    · obtain ⟨c, isC, is, -⟩ := farOnly b there
      obtain ⟨x, isX, isB⟩ := member isC
      rw [← is] at far ⊢
      exact up x isX c isB far
  · dsimp only
    rw [State.sendFar_near fun b isIn => ?_]
    · exact stays.frame
    · rw [counted.farDev]
      rw [isBs] at isIn
      obtain here | there := List.mem_append.mp isIn
      · exact Option.isNone_iff_eq_none.mp (List.mem_filter.mp here).2
      · obtain ⟨c, isC, is, far⟩ := farOnly b there
        obtain ⟨x, isX, isB⟩ := member isC
        rw [← is]
        exact home x isX c isB
/-- A store sends what other devices hold and leaves the rest in the order of its elements. -/
theorem State.sendElems_spec (sorted : (l.map fun x => groupKey w x.1.el).Pairwise groupLe)
    (up : ∀ x ∈ l, ∀ b ∈ x.2, (s.farDev b.addr).isSome = true → s.peerFailed (gaChip b.addr) = false) :
    s.Dispatched s.cur (s.sendElems ord trk w l).1 ∧
      (s.sendElems ord trk w l).2.1 = (l.flatMap (·.2)).filter (fun b => (s.farDev b.addr).isNone) ∧
      ((∀ x ∈ l, ∀ b ∈ x.2, s.farDev b.addr = none) →
        (s.sendElems ord trk w l).1 = { s with harts := (s.sendElems ord trk w l).1.harts }) := by
  have each (ks : List (Nat × Nat)) : ∀ o : State × List PendByte × List (Nat × BitVec 32),
      (∀ x ∈ l, ∀ b ∈ x.2, (o.1.farDev b.addr).isSome = true → o.1.peerFailed (gaChip b.addr) = false) →
      o.1.Dispatched o.1.cur (ks.foldl (sendKey ord trk w l) o).1 ∧
        (ks.foldl (sendKey ord trk w l) o).2.1 =
          o.2.1 ++ (ks.flatMap (groupBytes w l)).filter (fun b => (o.1.farDev b.addr).isNone) ∧
        ((∀ x ∈ l, ∀ b ∈ x.2, o.1.farDev b.addr = none) →
          (ks.foldl (sendKey ord trk w l) o).1 = { o.1 with harts := (ks.foldl (sendKey ord trk w l) o).1.harts }) := by
    induction ks with
    | nil => exact fun o _ => ⟨.refl _ o.1, by simp, fun _ => rfl⟩
    | cons k ks ih =>
      intro o up
      obtain ⟨sent, left, home⟩ := sendKey_spec (ord := ord) (trk := trk) (w := w) o k up
      have farDev := sent.farDev
      have cur : (sendKey ord trk w l o k).1.cur = o.1.cur := by rw [sent.wrote.frame]
      obtain ⟨sent', left', home'⟩ := ih (sendKey ord trk w l o k) (by rw [farDev, sent.failed]; exact up)
      rw [List.foldl_cons]
      rw [cur] at sent'
      refine ⟨sent.trans sent', ?_, fun near => ?_⟩
      · rw [left', left, farDev, List.flatMap_cons, List.filter_append, List.append_assoc]
      · rw [home' (by rw [farDev]; exact near), home near]
  obtain ⟨sent, left, home⟩ := each ((l.map fun x => groupKey w x.1.el).dedup) (s, [], []) up
  have whole : ((l.map fun x => groupKey w x.1.el).dedup).flatMap (groupBytes w l) = l.flatMap (·.2) := by
    have all := flatMap_dedup_filter groupLe_antisymm (fun x : Placed × List PendByte => groupKey w x.1.el) l sorted
    unfold groupBytes
    rw [← List.flatMap_assoc, all]
  rw [whole, List.nil_append] at left
  exact ⟨sent, left, home⟩
end

/-! ### A store's act (R163, R165) -/

section
variable {s : State} {e : QEntry} {ps : List Placed} {ctr : Nat} {ord : Bool} {src : Elem → Nat}

/-- A store whose check fails faults as a whole. -/
theorem State.storeElems_faults {el : Elem} {c : Byte} {v : Word} {p : Placing} (placed : e.placed = some p) (bad : p.bad = some (el, c, v))
    (plain : c ≠ 0x18) : s.storeElems e ctr ord src = .fault s c v p.start 0 := by
  have checked : e.checked = p := by rw [QEntry.checked, placed]; rfl
  unfold State.storeElems
  rw [checked, bad]
  dsimp only
  rw [State.faultAt, if_neg (show ¬c = causeEcc from plain)]

/-- The code that a store writes of an element, and its flags. -/
def storeCode (e : QEntry) (src : Elem → Nat) (p : Placed) : Nat × Flags :=
  if p.pg.fmt = 0 then (src p.el, Flags.none) else storeElem p.pg.fmt p.pg.pscale e.ty (src p.el)
/-- The package in which ordered stores before one of the ordered class are performed. -/
def State.before (s : State) (ord : Bool) : State := if ord then s.performOrdered s.cur fun _ => false else s
/-- What a store sends. -/
def State.storeSent (s : State) (e : QEntry) (ctr : Nat) (ord : Bool) (src : Elem → Nat) (ps : List Placed) :
    State × List PendByte × List (Nat × BitVec 32) :=
  (s.before ord).sendElems ord (ctr = 0) (typeWidth e.ty) (ps.map fun p => (p, pendBytes p (storeCode e src p).1))
/-- The package once a store has been sent: lines that it writes whole are good. -/
def State.storeLeft (s : State) (e : QEntry) (ctr : Nat) (ord : Bool) (src : Elem → Nat) (ps : List Placed) : State :=
  { (s.storeSent e ctr ord src ps).1 with
    poison := (s.storeSent e ctr ord src ps).1.poison.filter fun l => !(s.coveredLines ps).contains l }
theorem State.storeElems_good (bad : e.checked.bad = none) (all : e.checked.els = ps) (now : e.now = ps) (ready : Ready s ps)
    (inside : ∀ p ∈ ps, restartOf p.el.r p.el.i < e.stop) : s.storeElems e ctr ord src =
      if ctr = 0 then .done ((s.storeLeft e ctr ord src ps).performBytes (s.storeSent e ctr ord src ps).2.1)
        ((storeBytesOf e src ps).foldl (fun f x => f ||| x.2.2) Flags.none)
      else .done ((s.storeLeft e ctr ord src ps).withMe fun t => t.addNb ⟨ctr, e.issue, [], (s.storeSent e ctr ord src ps).2.1,
        (storeBytesOf e src ps).foldl (fun f x => f ||| x.2.2) Flags.none, ord, [], [], (s.storeSent e ctr ord src ps).2.2, false, 0⟩) 0 := by
  have lines : (e.checked.els.flatMap fun p => if restartOf p.el.r p.el.i < e.stop then pendBytes p 0 else []) =
      ps.flatMap fun p => pendBytes p 0 := by
    rw [all]
    exact List.flatMap_congr fun p isIn => if_pos (inside p isIn)
  have bytes : (storeBytesOf e src ps).map (fun x => (x.1, x.2.1)) = ps.map fun p => (p, pendBytes p (storeCode e src p).1) := by
    rw [storeBytesOf, List.map_map]
    rfl
  unfold State.storeElems
  rw [bad, now, State.placedWait_of_ready ready, lines]
  dsimp only
  rw [bytes]
  rfl
end

end Sys2Proof.Machine
end

section
/-!
SUPPORT. Vector stores at their enqueue: the outcomes of their act (06_memory_isa R163, R165, R169, R172).
-/

namespace Sys2Proof.Machine

/-! ### The accesses of a store -/

section
variable {s : State} {q : Queued} {e : QEntry} {plan : MemPlan} {els : List Elem} {rows vl : Nat} {ps : List Placed}

theorem Accesses.of_store {bad : Option (Elem × Byte × Word)}
    (place : ∀ u, s.Alike u → q.place u e = some (s.placingWhole e plan none els s.coveredLines)) (restart : e.restart = 0)
    (checked : s.checkElems (s.party s.cur) plan els = (ps, bad)) (tiled : Tiled rows vl els) (few : rows ≤ 8)
    (clean : bad = none → s.eccPlaced (s.coveredLines ps) ps = none) : Accesses s q e els rows vl ps bad := by
  have found := State.checkElems_prefix (s := s) (pt := s.party s.cur) (plan := plan) els
  have whole : s.placingWhole e plan none els s.coveredLines = checkedAt ps bad := by
    unfold State.placingWhole
    dsimp only
    rw [State.placing_eq restart checked]
    cases bad with
    | some b => rfl
    | none =>
      show { checkedAt ps none with bad := (s.eccPlaced (s.coveredLines ps) ps).map fun x : Elem × Word => (x.1, causeEcc, x.2) } = _
      rw [clean rfl]
      rfl
  rw [checked] at found
  exact ⟨(place _ State.alike_withMember).trans (by rw [whole]), tiled, few, found.1, found.2⟩

theorem addr_pendBytes {p : Placed} {code : Nat} {b : PendByte} (isIn : b ∈ pendBytes p code) : ∃ l ∈ p.locs, b.addr = l.ga := by
  obtain ⟨j, low, rfl⟩ := List.mem_mapIdx.mp isIn
  exact ⟨p.locs[j], List.getElem_mem low, rfl⟩
end

/-- A member that stores these elements. -/
structure StoreRuns (o : Out) (s : State) (q : Queued) (e : QEntry) (ty : BitVec 4) (vl : Nat) (plan : MemPlan) (els : List Elem)
    (rows : Nat) (d : BitVec 5) (ctr : BitVec 3) (ord : BitVec 1) (src : State → QEntry → Elem → Nat) : Prop where
  enters : Enters o s q e ty vl
  act : ∀ u x, q.act u x = u.storeElems x ctr.toNat (decide (ord = 1)) (src u x)
  counter : q.ctr = ctr.toNat
  place : ∀ u, s.Alike u → q.place u e = some (s.placingWhole e plan none els s.coveredLines)
  tiled : Tiled rows vl els
  few : rows ≤ 8
  source : ∀ u x el, el ∈ els → src u x el = rowElem (typeWidth x.ty) (u.me.vr (d.toNat + el.r)).toNat el.i

section
variable {o : Out} {s u : State} {q : Queued} {e : QEntry} {ty : BitVec 4} {vl : Nat} {plan : MemPlan} {els : List Elem}
  {rows : Nat} {d : BitVec 5} {ctr : BitVec 3} {ord : BitVec 1} {src : State → QEntry → Elem → Nat} {ps : List Placed}
  (m : StoreRuns o s q e ty vl plan els rows d ctr ord src)
include m

/-- Where an element's check fails, a store faults as a whole and writes nothing. -/
theorem store_faults {el : Elem} {c : Byte} {v : Word} (a : Accesses s q e els rows vl ps (some (el, c, v))) (ecc : c ≠ 0x18)
    (wait : c ≠ 0xFF) : FaultsQueued o s e c v 0 fun t => t.v = s.me.v := by
  obtain ⟨p, isP⟩ : ∃ p, p = checkedAt ps (some (el, c, v)) := ⟨_, rfl⟩
  have alike : s.Alike (s.entered q e p) := State.alike_entered
  obtain ⟨w, isW⟩ : ∃ w, w = s.entered q e p := ⟨_, rfl⟩
  have frame : w = { s.entered q e p with harts := w.harts, windows := w.windows, fresh := w.fresh } := by rw [← isW]
  have own : w.me = { (s.entered q e p).me with v := w.me.v } := by rw [← isW]
  have place : q.place (s.withMember q e) e = some p := by rw [isP]; exact a.place
  rw [← isW] at alike
  refine m.enters.faults (r := 0) (fl := 0) place ?_ ?_ frame alike.only.2 own fun t same => same.trans (by rw [alike.me])
  · rw [isP]
    exact decide_eq_false wait
  · rw [m.act, State.storeElems_faults (p := p) rfl (by rw [isP]; rfl) ecc, isP, isW, isP]
    rfl

/-- The code of each element that the statement names. -/
def Hart.storeCode (t : Hart) (ty : BitVec 4) (d : BitVec 5) (p : Placed) : Nat :=
  if p.pg.fmt = 0 then t.element ty d p.el.r p.el.i else (storeElem p.pg.fmt p.pg.pscale ty (t.element ty d p.el.r p.el.i)).1
/-- A store's act writes those codes. -/
theorem StoreRuns.code (a : Accesses s q e els rows vl ps none) {w : State} {x : QEntry} (alike : s.Alike w) (type : x.ty = ty)
    {p : Placed} (hp : p ∈ ps) : (storeCode x (src w x) p).1 = s.me.storeCode ty d p := by
  have source : src w x p.el = s.me.element ty d p.el.r p.el.i := by
    rw [m.source w x p.el (a.placed.subset (List.mem_map_of_mem hp)), type, alike.me]
    rfl
  rw [Machine.storeCode, Hart.storeCode, source, type]
  split <;> rfl
omit m in
/-- Ordered stores performed first write the same on the package in which a store has been admitted. -/
theorem State.Alike.before {w : State} (alike : s.Alike w) (isU : u = if ord = 1 then s.performOrdered s.cur (fun _ => false) else s) :
    w.before (decide (ord = 1)) = { w with mem := (w.before (decide (ord = 1))).mem, harts := (w.before (decide (ord = 1))).harts } ∧
      w.Stows w.cur (w.before (decide (ord = 1))) ∧ (w.before (decide (ord = 1))).mem = u.mem := by
  rw [isU]
  unfold State.before
  by_cases ordered : ord = 1
  · rw [if_pos (decide_eq_true ordered), if_pos ordered]
    refine ⟨State.performOrdered_frame _, State.stows_performOrdered _, State.mem_performOrdered_congr alike.only.mem alike.canon ?_ _⟩
    show w.me.nb = s.me.nb
    rw [alike.me]
  · rw [if_neg (by simpa using ordered), if_neg ordered]
    exact ⟨rfl, .refl _ w, alike.only.mem⟩
omit m in
/-- A device that holds a byte and has not failed answers. -/
theorem State.up_of_failedHome {ga : Nat} (none : s.failedHome ga = none) (far : (s.farDev ga).isSome = true) :
    s.peerFailed (gaChip ga) = false := by
  refine Bool.eq_false_iff.mpr fun yes => ?_
  unfold State.farDev at far
  unfold State.failedHome at none
  split at far
  · next there =>
    rw [there, yes] at none
    cases none
  · cases far

variable {bytes : List PendByte} (a : Accesses s q e els rows vl ps none) (ready : Ready s ps)
  (up : ∀ p ∈ ps, ∀ l ∈ p.locs, s.failedHome l.ga = none)
  (isBytes : bytes = (ps.flatMap fun p => pendBytes p (s.me.storeCode ty d p)).filter fun b => (s.farDev b.addr).isNone)
  (isU : u = if ord = 1 then s.performOrdered s.cur (fun _ => false) else s)
include a up isBytes isU

/-- What a store leaves before its bytes are performed. -/
theorem store_left (w : State) (x : QEntry) (isW : w = s.entered q e (checkedAt ps none)) (isX : x = { e with placed := some (checkedAt ps none) }) :
    (w.storeSent x ctr.toNat (decide (ord = 1)) (src w x) ps).2.1 = bytes ∧
      s.Alike w ∧ w.Stows w.cur (w.storeLeft x ctr.toNat (decide (ord = 1)) (src w x) ps) ∧
      (w.storeLeft x ctr.toNat (decide (ord = 1)) (src w x) ps).mem = u.mem ∧
      (w.storeLeft x ctr.toNat (decide (ord = 1)) (src w x) ps).poison = s.poison.filter (fun n => !(s.coveredLines ps).contains n) ∧
      ((∀ p ∈ ps, ∀ l ∈ p.locs, s.farDev l.ga = none) → w.storeLeft x ctr.toNat (decide (ord = 1)) (src w x) ps = { s with
        mem := (w.storeLeft x ctr.toNat (decide (ord = 1)) (src w x) ps).mem
        harts := (w.storeLeft x ctr.toNat (decide (ord = 1)) (src w x) ps).harts
        poison := (w.storeLeft x ctr.toNat (decide (ord = 1)) (src w x) ps).poison }) := by
  have alike : s.Alike w := by rw [isW]; exact State.alike_entered
  have type : x.ty = ty := by rw [isX]; exact m.enters.type
  obtain ⟨before, stows, mem⟩ := alike.before isU
  have farDev : (w.before (decide (ord = 1))).farDev = s.farDev := by rw [before]; exact alike.farDev
  have failed : (w.before (decide (ord = 1))).peerFailed = s.peerFailed := by rw [before, alike.frame]; rfl
  have poison : (w.before (decide (ord = 1))).poison = s.poison := by rw [before, alike.frame]
  have cur : (w.before (decide (ord = 1))).cur = w.cur := stows.cur
  obtain ⟨sent, left, home⟩ := State.sendElems_spec (s := w.before (decide (ord = 1))) (ord := decide (ord = 1))
    (trk := decide (ctr.toNat = 0)) (w := typeWidth x.ty) (l := ps.map fun p => (p, pendBytes p (storeCode x (src w x) p).1))
    (by
      rw [List.map_map]
      have keys := a.tiledPlaced.keys (typeWidth x.ty)
      rw [List.map_map] at keys
      exact keys)
    (fun y isY b isB far => by
      obtain ⟨p, hp, rfl⟩ := List.mem_map.mp isY
      obtain ⟨l, hl, is⟩ := addr_pendBytes isB
      rw [farDev, is] at far
      rw [failed, is]
      exact State.up_of_failedHome (up p hp l hl) far)
  have covers : w.coveredLines = s.coveredLines := alike.coveredLines
  obtain ⟨r, isR⟩ : ∃ r, r = w.storeSent x ctr.toNat (decide (ord = 1)) (src w x) ps := ⟨_, rfl⟩
  have result : (w.before (decide (ord = 1))).sendElems (decide (ord = 1)) (decide (ctr.toNat = 0)) (typeWidth x.ty)
      (ps.map fun p => (p, pendBytes p (storeCode x (src w x) p).1)) = r := isR.symm
  have storeLeft : w.storeLeft x ctr.toNat (decide (ord = 1)) (src w x) ps =
      { r.1 with poison := r.1.poison.filter fun l => !(s.coveredLines ps).contains l } := by
    rw [State.storeLeft, ← isR, covers]
  rw [result] at sent left home
  rw [storeLeft, ← isR]
  refine ⟨?_, alike, ?_, ?_, ?_, fun near => ?_⟩
  · rw [left, isBytes, List.flatMap_map, farDev]
    exact congrArg (List.filter _) (List.flatMap_congr fun p hp => by rw [m.code a alike type hp])
  · rw [cur] at sent
    exact stows.trans (sent.wrote.stows.trans ⟨rfl, rfl, fun _ _ => rfl, rfl⟩)
  · have same : r.1.mem = (w.before (decide (ord = 1))).mem := by rw [sent.wrote.frame]
    exact same.trans mem
  · have same : r.1.poison = (w.before (decide (ord = 1))).poison := by rw [sent.wrote.frame]
    show r.1.poison.filter _ = _
    rw [same, poison]
  · have only := home fun y isY b isB => by
      obtain ⟨p, hp, rfl⟩ := List.mem_map.mp isY
      obtain ⟨l, hl, is⟩ := addr_pendBytes isB
      rw [farDev, is]
      exact near p hp l hl
    rw [before, alike.frame] at only
    rw [only]
end

end Sys2Proof.Machine
end

section
/-!
SUPPORT. Proof of the statement on vector stores (O32).
-/

namespace Sys2Proof.Machine

/-! ### The outcomes of a store whose check passes (R163, R169, R172) -/

section
variable {o : Out} {s u : State} {q : Queued} {e : QEntry} {ty : BitVec 4} {vl : Nat} {plan : MemPlan} {els : List Elem}
  {rows : Nat} {d : BitVec 5} {ctr : BitVec 3} {ord : BitVec 1} {src : State → QEntry → Elem → Nat} {ps : List Placed}

/-- The act of a store whose check passes. -/
theorem StoreRuns.act_good (m : StoreRuns o s q e ty vl plan els rows d ctr ord src) (a : Accesses s q e els rows vl ps none) (ready : Ready s ps) {w : State} {x : QEntry}
    (alike : s.Alike w) (isX : x = { e with placed := some (checkedAt ps none) }) : q.act w x =
      if ctr.toNat = 0 then .done ((w.storeLeft x ctr.toNat (decide (ord = 1)) (src w x) ps).performBytes
          (w.storeSent x ctr.toNat (decide (ord = 1)) (src w x) ps).2.1)
        ((storeBytesOf x (src w x) ps).foldl (fun f x => f ||| x.2.2) Flags.none)
      else .done ((w.storeLeft x ctr.toNat (decide (ord = 1)) (src w x) ps).withMe fun t => t.addNb
        ⟨ctr.toNat, x.issue, [], (w.storeSent x ctr.toNat (decide (ord = 1)) (src w x) ps).2.1,
          (storeBytesOf x (src w x) ps).foldl (fun f x => f ||| x.2.2) Flags.none, decide (ord = 1), [], [],
          (w.storeSent x ctr.toNat (decide (ord = 1)) (src w x) ps).2.2, false, 0⟩) 0 := by
  have now := a.now m.enters
  have stop : x.stop = wholeStop := by rw [isX]; exact m.enters.stop
  rw [← isX] at now
  rw [m.act]
  refine State.storeElems_good (by rw [isX]; rfl) (by rw [isX]; rfl) now (fun p hp l hl => (congrFun alike.mustWait l.ga).trans (ready p hp l hl))
    fun p hp => ?_
  have row := (a.row hp).trans_le a.few
  have index := (a.tiledPlaced.index _ (List.mem_map_of_mem hp)).trans_le m.enters.short
  rw [stop, restartOf, wholeStop]
  omega

/-- A hart that has stored is at the next word with nothing undone; of the others only what their waits have seen differs. -/
structure StoredBy (s t : State) : Prop where
  others : ∀ h, h ≠ s.cur → t.hart h = { s.hart h with wait := (t.hart h).wait }
  pc : t.me.pc = s.me.pc + 4
  x : t.me.x = s.me.x
  v : t.me.v = s.me.v
  m : t.me.m = s.me.m
  drained : t.me.drained = true

/-- What settles of a store that is done. -/
theorem Enters.stored (n : Enters o s q e ty vl) {p : Placing} {y : State} {fl : Flags} (place : q.place (s.withMember q e) e = some p) (now : p.waits = false)
    (done : q.act (s.entered q e p) { e with placed := some p } = .done y fl)
    (cur : y.cur = s.cur) (others : ∀ k, k ≠ s.cur → y.hart k = { s.hart k with wait := (y.hart k).wait })
    (own : y.me = { (s.entered q e p).me with
      wait := y.me.wait, nb := y.me.nb, away := y.me.away, unsealed := y.me.unsealed, tracked := y.me.tracked }) :
    ∃ t, o = .next t ∧ StoredBy s t ∧ t = { y with harts := t.harts } ∧ (∀ c, t.me.csrv c = (s.me.accrue fl).csrv c) ∧
      t.me.cc = (s.entered q e p).me.cc ∧ t.me.nb = y.me.nb := by
  have alike : s.Alike (s.entered q e p) := State.alike_entered
  have queue : y.me.queue = e.behind s ++ [{ e with placed := some p }] := by rw [own, State.me_entered]
  obtain ⟨t, run, after⟩ := n.done place now done cur queue
  have me := after.me
  have csr : y.me.csr = s.me.csr := by rw [own, alike.me]
  refine ⟨t, run, ⟨fun h other => (after.others h other).symm ▸ others h other, ?_, ?_, ?_, ?_, after.drained n⟩, after.frame, fun c => ?_, ?_,
    by rw [me]⟩
  · rw [me, own, State.me_entered]
  · rw [me, own, alike.me]
  · rw [me, own, alike.me]
  · rw [me, own, alike.me]
  · have read (n : Nat) : y.me.csrv n = s.me.csrv n := congrArg (fun l => Sparse.get 0 l n) csr
    rw [after.csrv, Hart.csrv_accrue, Hart.csrv_accrue, read, read, read]
  · rw [me, own]

variable (m : StoreRuns o s q e ty vl plan els rows d ctr ord src) {bytes : List PendByte} (a : Accesses s q e els rows vl ps none)
  (ready : Ready s ps) (up : ∀ p ∈ ps, ∀ l ∈ p.locs, s.failedHome l.ga = none)
  (isBytes : bytes = (ps.flatMap fun p => pendBytes p (s.me.storeCode ty d p)).filter fun b => (s.farDev b.addr).isNone)
  (isU : u = if ord = 1 then s.performOrdered s.cur (fun _ => false) else s)
include m a ready up isBytes isU

/-- A blocking store has written its bytes. -/
theorem store_done (blocking : ctr = 0) : ∃ t, o = .next t ∧ StoredBy s t ∧ CsrsKept s.me t.me [0, 0x012] ∧
    ((∀ p ∈ ps, ∀ l ∈ p.locs, s.farDev l.ga = none) → t = { s with mem := t.mem, harts := t.harts, poison := t.poison }) ∧
    t.poison = s.poison.filter (fun n => !(s.coveredLines ps).contains n) ∧ t.canon = s.canon ∧
    t.mem = (u.performBytes bytes).mem := by
  obtain ⟨w, isW⟩ : ∃ w, w = s.entered q e (checkedAt ps none) := ⟨_, rfl⟩
  obtain ⟨x, isX⟩ : ∃ x : QEntry, x = { e with placed := some (checkedAt ps none) } := ⟨_, rfl⟩
  obtain ⟨sent, alike, stows, mem, poison, home⟩ := store_left m a up isBytes isU w x isW isX
  have act := m.act_good a ready alike isX
  rw [if_pos (by rw [blocking]; rfl), sent] at act
  generalize w.storeLeft x ctr.toNat (decide (ord = 1)) (src w x) ps = left at stows mem poison home act
  have performs := left.performs_performBytes bytes
  have all := stows.trans (performs.stows w.cur)
  have written : (left.performBytes bytes).mem = (u.performBytes bytes).mem := by
    have canon : u.canon = s.canon := by
      rw [isU]
      split
      · exact (State.stows_performOrdered (h := s.cur) _).canon
      · rfl
    rw [u.mem_performBytes]
    exact State.mem_performFrom bytes left u [] mem (stows.canon.trans (alike.canon.trans canon.symm))
  generalize left.performBytes bytes = y at performs all written act
  have own := all.own
  have mine : y.hart w.cur = y.me := by rw [State.me, all.cur]
  rw [mine] at own
  obtain ⟨t, run, stored, frame, csrs, -, -⟩ := m.enters.stored (p := checkedAt ps none) (y := y) a.place rfl
    (by rw [← isW, ← isX]; exact act) (all.cur.trans alike.cur)
    (fun k other => by rw [all.others k (by rw [alike.cur]; exact other), alike.only.2 k other])
    (by
      rw [← isW, own]
      rfl)
  refine ⟨t, run, stored, fun c none => ?_, fun near => ?_, ?_, ?_, ?_⟩
  · simp only [List.mem_cons, List.not_mem_nil, or_false, not_or] at none
    rw [csrs, Hart.csrv_accrue, if_neg none.2, if_neg none.1]
  · rw [frame, performs.frame, home near]
  · have same : t.poison = left.poison := by rw [frame, performs.frame]
    rw [same, poison]
  · have same : t.canon = y.canon := by rw [frame]; rfl
    rw [same, all.canon, alike.canon]
  · have same : t.mem = y.mem := by rw [frame]
    rw [same, written]

/-- A non-blocking store leaves memory as it is and its bytes outstanding. -/
theorem store_later (counted : ctr ≠ 0) : ∃ t, o = .next t ∧ StoredBy s t ∧ CsrsKept s.me t.me [] ∧
    t.poison = s.poison.filter (fun n => !(s.coveredLines ps).contains n) ∧ t.mem = u.mem ∧
    (t.me.ctr ctr.toNat).issued = (s.me.ctr ctr.toNat).issued + 1 ∧
    ∃ op ∈ t.me.nb, op.ctr = ctr.toNat ∧ op.num = (s.me.ctr ctr.toNat).issued + 1 ∧ op.held = false ∧ op.bytes = bytes := by
  have nonzero : ctr.toNat ≠ 0 := fun zero => counted (BitVec.eq_of_toNat_eq zero)
  obtain ⟨w, isW⟩ : ∃ w, w = s.entered q e (checkedAt ps none) := ⟨_, rfl⟩
  obtain ⟨x, isX⟩ : ∃ x : QEntry, x = { e with placed := some (checkedAt ps none) } := ⟨_, rfl⟩
  obtain ⟨sent, alike, stows, mem, poison, -⟩ := store_left m a up isBytes isU w x isW isX
  have act := m.act_good a ready alike isX
  rw [if_neg nonzero, sent] at act
  generalize w.storeLeft x ctr.toNat (decide (ord = 1)) (src w x) ps = left at stows mem poison act
  obtain ⟨op, isOp⟩ : ∃ op : NbOp, op = ⟨ctr.toNat, x.issue, [], bytes,
    (storeBytesOf x (src w x) ps).foldl (fun f x => f ||| x.2.2) Flags.none, decide (ord = 1), [], [],
    (w.storeSent x ctr.toNat (decide (ord = 1)) (src w x) ps).2.2, false, 0⟩ := ⟨_, rfl⟩
  rw [← isOp] at act
  obtain ⟨y, isY⟩ : ∃ y, y = left.withMe fun t => t.addNb op := ⟨_, rfl⟩
  rw [← isY] at act
  have cur : y.cur = w.cur := by rw [isY, State.cur_withMe, stows.cur]
  have added : y.me = left.me.addNb op := by rw [isY, State.me_withMe]
  have own := stows.own
  have mine : left.hart w.cur = left.me := by rw [State.me, stows.cur]
  rw [mine] at own
  have before : w.hart w.cur = w.me := rfl
  rw [before] at own
  have issue : x.issue = (s.me.ctr ctr.toNat).issued + 1 := by
    rw [isX]
    dsimp only
    rw [m.enters.is, Queued.capture]
    dsimp only
    rw [m.counter, if_neg nonzero]
  obtain ⟨t, run, stored, frame, csrs, counters, nb⟩ := m.enters.stored (p := checkedAt ps none) (y := y) a.place rfl
    (by rw [← isW, ← isX]; exact act) (cur.trans alike.cur)
    (fun k other => by
      have apart : k ≠ w.cur := by rw [alike.cur]; exact other
      rw [isY, State.hart_withMe_other left _ (by rw [stows.cur]; exact apart), stows.others k apart, alike.only.2 k other])
    (by
      rw [← isW, added, own]
      rfl)
  refine ⟨t, run, stored, fun c _ => ?_, ?_, ?_, ?_, op, ?_, by rw [isOp], by rw [isOp]; exact issue, by rw [isOp], by rw [isOp]⟩
  · rw [csrs, Hart.csrv_accrue_zero]
  · have same : t.poison = left.poison := by rw [frame, isY]; rfl
    rw [same, poison]
  · have same : t.mem = left.mem := by rw [frame, isY]; rfl
    rw [same, mem]
  · have same : t.me.ctr ctr.toNat = (s.entered q e (checkedAt ps none)).me.ctr ctr.toNat :=
      congrArg (fun l => Sparse.get (⟨0, 0⟩ : Ctr) l ctr.toNat) counters
    rw [same, State.ctr_entered, if_pos ⟨m.counter.symm, by rw [m.counter]; exact nonzero⟩, ← issue, isX]
  · rw [nb, added, Hart.addNb]
    simp
end

/-! ### The stores (R158, R160, R161) -/

section
variable {s : State} {q : Queued} {e : QEntry} {l : BitVec 2} {ty : BitVec 4} {vl : Nat} {o : Out} {plan : MemPlan} {els : List Elem}
  {d : BitVec 5} {ctr : BitVec 3} {ord : BitVec 1}

theorem StoreRuns.of_memStore {f : VMemOps} {form : QEntry → Nat → Nat → MemForm} {w : IWord} (is : q = memStore f w form)
    (n : Enters o s q e ty vl) (elems : s.memElems e f (form e) true = (plan, none, els)) :
    StoreRuns o s q e ty vl plan els (2 ^ f.g.toNat) f.d f.ctr f.ord fun u x el => u.me.elem x f.d el.r el.i := by
  subst is
  have tiled := State.tiled_memElems elems
  rw [n.count] at tiled
  refine ⟨n, fun _ _ => rfl, rfl, fun u alike => ?_, tiled, ?_, fun _ _ _ _ => rfl⟩
  · show some (u.placingWhole e (u.memElems e f (form e) true).1 (u.memElems e f (form e) true).2.1
      (u.memElems e f (form e) true).2.2 u.coveredLines) = _
    rw [alike.memElems, elems, alike.placingWhole]
  · exact (Nat.pow_le_pow_right (by decide) (Nat.le_of_lt_succ f.g.isLt) : 2 ^ f.g.toNat ≤ 2 ^ 3)
theorem StoreRuns.of_idxStore {f : VIdxOps} {w : IWord} (is : q = idxStore f w) (n : Enters o s q e ty vl)
    (isPlan : plan = ⟨.wr, true, none, ty, none, false, none⟩) (elems : els = s.idxElems e f.m f.b) :
    StoreRuns o s q e ty vl plan els 1 f.d f.ctr f.ord fun u x el => u.me.elem x f.d 0 el.i := by
  subst is isPlan elems
  have tiled := s.tiled_idxElems e f.m f.b
  rw [n.count] at tiled
  refine ⟨n, fun _ _ => rfl, rfl, fun u alike => ?_, tiled, by decide, fun u x el isIn => ?_⟩
  · show some (u.placingWhole e ⟨.wr, true, none, e.ty, none, false, none⟩ none (u.idxElems e f.m f.b) u.coveredLines) = _
    rw [n.type, alike.idxElems, alike.placingWhole]
  · have first : el.r = 0 := Nat.lt_one_iff.mp (tiled.row el isIn)
    rw [first]
    rfl

/-- Every vector store stores the elements that its form gives it. -/
theorem stores_of_form {w : IWord}
    (form : (∃ f : VMemOps, d = f.d ∧ l = f.l ∧ ctr = f.ctr ∧ ord = f.ord ∧ (∃ form : QEntry → Nat → Nat → MemForm,
        s.memElems e f (form e) true = (plan, none, els) ∧
        ((form = (fun e _ => unitForm e) ∧ w = wordOf (.vsu f) ∧ o = exec (.vsu f) s ∧ q = vsuQueued f) ∨
          (form = (fun e _ => strideForm e) ∧ w = wordOf (.vss f) ∧ o = exec (.vss f) s ∧ q = vssQueued f) ∨
          (form = spreadForm ∧ w = wordOf (.vsd f) ∧ o = exec (.vsd f) s ∧ q = vsdQueued f)))) ∨
      (∃ f : VIdxOps, d = f.d ∧ l = f.l ∧ ctr = f.ctr ∧ ord = f.ord ∧ w = wordOf (.vsx f) ∧ o = exec (.vsx f) s ∧
        q = vsxQueued f ∧ offsetCheck w f.b [] s e = none ∧ plan = ⟨.wr, true, none, ty, none, false, none⟩ ∧
        els = s.idxElems e f.m f.b)) (he : e = q.capture s.me s.me.pc) (runs : Runs s w) (length : HasLength s l vl ty) :
    ∃ rows src, StoreRuns o s q e ty vl plan els rows d ctr ord src := by
  obtain ⟨f, rfl, rfl, rfl, rfl, form, elems, ⟨rfl, rfl, rfl, rfl⟩ | ⟨rfl, rfl, rfl, rfl⟩ | ⟨rfl, rfl, rfl, rfl⟩⟩ |
    ⟨f, rfl, rfl, rfl, rfl, rfl, rfl, rfl, check, isPlan, elems⟩ := form
  · exact ⟨_, _, .of_memStore rfl (enters_memory (i := .vsu f) rfl nofun rfl rfl rfl rfl rfl rfl rfl he runs length rfl) elems⟩
  · exact ⟨_, _, .of_memStore rfl (enters_memory (i := .vss f) rfl nofun rfl rfl rfl rfl rfl rfl rfl he runs length rfl) elems⟩
  · exact ⟨_, _, .of_memStore rfl (enters_memory (i := .vsd f) rfl nofun rfl rfl rfl rfl rfl rfl rfl he runs length rfl) elems⟩
  · exact ⟨_, _, .of_idxStore rfl (enters_memory (i := .vsx f) rfl nofun rfl rfl rfl rfl rfl rfl rfl he runs length check) isPlan elems⟩
end

end Sys2Proof.Machine

open Sys2Proof Sys2Proof.Machine

/-- Settles O32: a store's elements are written in their order, those homed here as bytes and the others as records; a fault writes nothing. -/
theorem vectorStoresWriteTheirBytes : Obligations.VectorStoresWriteTheirBytes := by
  unfold Obligations.VectorStoresWriteTheirBytes
  intro s u vl ty w o q plan els ps d l ctr ord e code bytes he runs length ready form
  obtain ⟨rows, src, m⟩ := stores_of_form form he runs length
  refine ⟨fun el c v checked ecc wait => ?faults, fun checked homes isCode isBytes isU => ?stored⟩
  case faults =>
    exact store_faults m (.of_store m.place m.enters.restart checked m.tiled m.few nofun) ecc wait
  case stored =>
    have a : Accesses s q e els rows vl ps none := .of_store m.place m.enters.restart checked m.tiled m.few fun _ =>
      State.eccPlaced_of_clean fun p hp l hl => (homes p hp l hl).2
    have up : ∀ p ∈ ps, ∀ l ∈ p.locs, s.failedHome l.ga = none := fun p hp l hl => (homes p hp l hl).1
    have isBytes : bytes = (ps.flatMap fun p => pendBytes p (s.me.storeCode ty d p)).filter fun b => (s.farDev b.addr).isNone := by
      rw [isBytes, isCode]
      rfl
    have canon : u.canon = s.canon := by
      rw [isU]
      split
      · exact (State.stows_performOrdered (h := s.cur) _).canon
      · rfl
    refine ⟨fun t run => ?poison, fun blocking => ?done, fun counted => ?later⟩
    case poison =>
      by_cases blocking : ctr = 0
      · obtain ⟨t', run', -, -, -, poison, -⟩ := store_done m a ready up isBytes isU blocking
        cases run.symm.trans run'
        exact poison
      · obtain ⟨t', run', -, -, poison, -⟩ := store_later m a ready up isBytes isU blocking
        cases run.symm.trans run'
        exact poison
    case done =>
      obtain ⟨t, run, stored, csrs, home, -, same, mem⟩ := store_done m a ready up isBytes isU blocking
      refine ⟨t, run, stored.others, stored.pc, stored.x, stored.v, stored.m, stored.drained,
        csrs, home, mem, fun b away => ?_⟩
      have performed := (u.performs_performBytes bytes).stows 0
      have written : t.readByte b = (u.performBytes bytes).readByte b := by
        rw [State.readByte_of_same mem (same.trans (canon.symm.trans performed.canon.symm))]
      rw [written]
      refine State.readByte_performBytes_other fun c isC => ?_
      rw [isBytes] at isC
      obtain ⟨p, hp, isIn⟩ := List.mem_flatMap.mp (List.mem_filter.mp isC).1
      obtain ⟨l, hl, is⟩ := addr_pendBytes isIn
      rw [canon, is]
      exact away p hp l hl
    case later =>
      obtain ⟨t, run, stored, csrs, -, mem, issued, op⟩ := store_later m a ready up isBytes isU counted
      exact ⟨t, run, stored.others, mem, stored.pc, stored.x, stored.v, stored.m, csrs, issued, op⟩
end
